-- ==== Sys2Proof/Word.lean ====
section
/-! DEFINITION. The words of the module: bytes, 32-bit register words and 48-bit addresses, with their plainest arithmetic. -/

namespace Sys2Proof

/-- One byte, the unit of every memory and record (R16). -/
abbrev Byte := BitVec 8

/-- A 32-bit BAR0 register value (R19) or FP32 code (R49). -/
abbrev Word := BitVec 32

/-- A string of bytes, first byte first. -/
abbrev Bytes := List Byte

/-- Add to a counter that holds at `top` (every "Saturates" of the register tables). -/
def satAdd (top n k : Nat) : Nat := min top (n + k)

@[simp] theorem satAdd_le (top n k : Nat) : satAdd top n k ≤ top := Nat.min_le_left _ _

/-- A 32-bit counter that holds at 2^32 − 1. -/
def sat32 (n k : Nat) : Nat := satAdd 4294967295 n k

/-- A 16-bit counter that holds at 65,535. -/
def sat16 (n k : Nat) : Nat := satAdd 65535 n k

/-- Bits [hi:lo] of a number, as a number. -/
def bits (n hi lo : Nat) : Nat := (n / 2 ^ lo) % 2 ^ (hi - lo + 1)

/-- Bit `i` of a number. -/
def bit (n i : Nat) : Bool := n.testBit i

/-- Little-endian value of a byte string (R16). -/
def leNat : Bytes → Nat
  | [] => 0
  | b :: bs => b.toNat + 256 * leNat bs

/-- `n` as `k` little-endian bytes (R16). -/
def leBytes (k n : Nat) : Bytes :=
  match k with
  | 0 => []
  | k + 1 => BitVec.ofNat 8 n :: leBytes k (n / 256)

@[simp] theorem leBytes_length (k n : Nat) : (leBytes k n).length = k := by
  induction k generalizing n with
  | zero => rfl
  | succ k ih => simp [leBytes, ih]

/-- Bytes [hi:lo] of a byte string as a little-endian number; absent bytes read 0. -/
def field (bs : Bytes) (lo len : Nat) : Nat := leNat ((bs.drop lo).take len)

/-- Byte `i` of a byte string as a number; absent bytes read 0. -/
def byteAt (bs : Bytes) (i : Nat) : Nat := (bs.getD i 0).toNat

/-- Overwrite the bytes from `lo` with `v`, leaving the others (a read-modify-write of a record in memory). -/
def patch (bs : Bytes) (lo : Nat) (v : Bytes) : Bytes :=
  bs.take lo ++ v ++ bs.drop (lo + v.length)

/-- An 8-bit number read as two's complement (scale exponents, R55). -/
def signed8 (n : Nat) : Int := if n % 256 < 128 then (n % 256 : Nat) else ((n % 256 : Nat) : Int) - 256

/-- A two's complement byte of an integer. -/
def unsigned8 (i : Int) : Nat := (i % 256).toNat

/-- 1 for true, 0 for false, as register bits are written. -/
def b2n (b : Bool) : Nat := if b then 1 else 0

/-- Ceiling of a quotient. -/
def ceilDiv (a b : Nat) : Nat := if b = 0 then 0 else (a + b - 1) / b

/-- Replace element `i` of a list by its image under `f`. -/
def updAt {α : Type} (l : List α) (i : Nat) (f : α → α) : List α :=
  match l, i with
  | [], _ => []
  | a :: r, 0 => f a :: r
  | a :: r, i + 1 => a :: updAt r i f

@[simp] theorem updAt_length {α : Type} (l : List α) (i : Nat) (f : α → α) : (updAt l i f).length = l.length := by
  induction l generalizing i with
  | nil => rfl
  | cons a r ih => cases i <;> simp [updAt, ih]

theorem updAt_getElem?_ne {α : Type} (l : List α) (i j : Nat) (f : α → α) (h : j ≠ i) :
    (updAt l i f)[j]? = l[j]? := by
  induction l generalizing i j with
  | nil => rfl
  | cons a r ih =>
    cases i <;> cases j <;> simp_all [updAt]

theorem updAt_getElem?_eq {α : Type} (l : List α) (i : Nat) (f : α → α) :
    (updAt l i f)[i]? = l[i]?.map f := by
  induction l generalizing i with
  | nil => rfl
  | cons a r ih => cases i <;> simp_all [updAt]

end Sys2Proof
end

