-- ==== Sys2Proof/Syntax.lean ====
section
/-! DEFINITION. The commands of the module: one constructor of Instr per row of spec/opcode_table.json, in the table's order. -/

namespace Sys2Proof

/-- A block of host memory as the host had stored it when the module read it: address and bytes. -/
abbrev HostBlk := Nat × Bytes

/-- What the parts of the module do while start-up or a warm reset runs (R462 to R465, R482): the facts that no register decides. -/
structure StartFacts where
  /-- The flash answers SFDP and meets R467. -/
  flashOk : Bool
  /-- Logical cores that fail at the self-test step, in the order detected, those of the same cycle together: the core, and whether its timing margin fails once (R424) or its self-test fails (R464). -/
  coreFail : List (List (Nat × Bool))
  /-- Physical spare cores that fail built-in self-test (R464). -/
  spareFail : List Nat
  /-- Physical spare cores whose timing margin fails (R424, R464). -/
  spareMargin : List Nat := []
  /-- HBM pseudo-channels that fail training (R465 step 6). -/
  pcFail : List Nat
  /-- Die links that fail in training (R465 step 6). -/
  linkFail : List Nat
  /-- Laser channels that fail in their start-up ramp (R338, R465 step 7). -/
  laserFail : List Nat
  /-- Times that the laser rail fails in the start-up ramp (R341). -/
  railFaults : Nat := 0
  /-- Ports whose link partner trains (R334). -/
  portsUp : List Nat
  /-- Milliseconds from 54 V good to ready (R488). -/
  readyMs : Nat
  /-- The steward's firmware copy has its digest (R482 step 1). -/
  firmwareOk : Bool
  deriving DecidableEq, Repr

/-- What the spares that a repair may try have shown: those that fail their test, and those that pass it with a failed timing margin (R424, R516 step 4). -/
structure SpareTests where
  fail : List Nat := []
  margin : List Nat := []
  deriving DecidableEq, Repr

/-- The kinds of event that the power estimate counts, those of a core first (R410). -/
inductive EventKind where
  /-- array issue slots, by format code. -/
  | slots (fmt : BitVec 4)
  | storeLines | dmaLines | vectorCycles
  | vatBursts | hbmBursts | ringFlits | hubFlits | portBytes | laserBias
  deriving DecidableEq, Repr

/-- Events of one kind in a window, with the physical core of a core event (R410). -/
structure EventCount where
  kind : EventKind
  core : Option (Fin 864)
  n : Nat
  deriving DecidableEq, Repr

/-- Temperature in °C and rail voltage in mV, which index the table of static power (R410). -/
structure PowerCond where
  celsius : Int
  mv : Nat
  deriving DecidableEq, Repr

/-- The causes of a host-loss reset, with the LAST_CAUSE codes of R356. -/
inductive HostLossCause where
  | perst | hotResetOrDisable | linkLoss | flr | cxlReset
  deriving DecidableEq, Repr

/-- The operand fields of a tile-program instruction (R138), without the OP. -/
structure TileArgs where
  vd : BitVec 5
  va : BitVec 5
  vb : BitVec 5
  vc : BitVec 5
  fmt : BitVec 4
  rmode : BitVec 2
  sat : Bool
  idx : Bool
  buf : BitVec 3
  imm : BitVec 27
  deriving DecidableEq, Repr

/-- The common header of a lease or digest message in a packet of KIND 5 (R12, R189, R229, R289): TYPE is the one that the command names when it is none. -/
structure MsgHead where
  version : BitVec 8 := 1
  type_ : Option (BitVec 8) := none
  /-- LENGTH is the one of its layout, and lies within the packet. -/
  lengthOk : Bool := true
  deriving DecidableEq, Repr

/-- The clear base header of a received PFT packet (R287), the port it came on and what its AES-256-GCM tag check found (R443). -/
structure PftHdr where
  port : Fin 16
  srcEp : BitVec 20
  srcPart : Fin 16
  srcClass : Fin 4
  dstEp : BitVec 20
  dstPart : Fin 16
  seq : BitVec 48
  session : BitVec 16
  /-- The tag verifies under the pairwise key (R443). -/
  tagOk : Bool
  /-- TYPE of the packet (R287). -/
  type_ : BitVec 8 := 0x50
  /-- KIND of a DATA or NOTICE packet (R289, R291). -/
  kind : BitVec 8 := 0
  /-- The packet's VERSION, and whether its LENGTH is that of its bytes and least for its TYPE (R12, R13, R287). -/
  version : BitVec 8 := 1
  lengthOk : Bool := true
  /-- The header of the record in a packet of KIND 5. -/
  msg : MsgHead := {}
  deriving DecidableEq, Repr

/-- What a received frame carries, as the filter of R322 tells it apart. -/
inductive FrameKind where
  /-- A MAC control frame that is neither PAUSE nor PFC, which are commands of their own (EtherType 0x8808). -/
  | control
  /-- A frame of another EtherType. -/
  | ether (etype : BitVec 16)
  /-- An IPv4 (4 bytes) or IPv6 (16 bytes) UDP datagram: its destination address and port. -/
  | udp (addr : Bytes) (port : BitVec 16)
  /-- An ARP request. -/
  | arp
  /-- An IPv6 neighbour solicitation. -/
  | neighbour
  deriving DecidableEq, Repr

/-- A received Ethernet frame as the MAC sees it (R322, R324). -/
structure Frame where
  /-- Its FCS is good. -/
  fcsOk : Bool
  len : Nat
  /-- TPID 0x88A8 (R324). -/
  doubleTag : Bool
  /-- The VID and PCP of an IEEE 802.1Q tag, when the frame carries one. -/
  tag : Option (BitVec 12 × BitVec 3)
  /-- What it carries (R322). -/
  what : FrameKind
  /-- Destination MAC address, first byte first. -/
  dst : Bytes := []
  /-- FEC codewords corrected, and uncorrectable, since the last frame (R345). -/
  fecCorr : Nat := 0
  fecUncorr : Nat := 0
  deriving DecidableEq, Repr

/-- A sub-port: its port and its number there (R321). -/
structure SubPort where
  port : Fin 16
  sub : Fin 8
  deriving DecidableEq, Repr

/-- Where a MAC control frame came in, and the address it is sent to, first byte first (R326). -/
structure CtrlRx where
  port : Fin 16
  sub : Fin 8
  dst : Bytes
  deriving DecidableEq, Repr

/-- A fault of an optical lane at step 4 of R334: direction, and what the loopback test of step 3 finds. -/
structure LaneFault where
  port : Fin 16
  lane : Fin 8
  /-- Of the transmit lane. -/
  tx : Bool
  /-- The path inside the engine passes the test. -/
  pathOk : Bool
  deriving DecidableEq, Repr

/-- What is found as an optical lane fails (R334, R335). -/
structure LaneFinding where
  /-- The path inside the engine passes the loopback test of step 3. -/
  pathOk : Bool
  /-- The other lanes that fail in the same cycle. -/
  also : List LaneFault := []
  deriving DecidableEq, Repr

/-- A cause of a core fault (R516), a bond failure among them (R521), with the cause codes of R511. -/
inductive CoreCause where
  | inFieldTest | parity | coreStore | bond | island | noProgress | selfTest | freqFloor
  deriving DecidableEq, Repr

/-- A place whose errors are corrected and counted, by the rows of R510. -/
inductive Place where
  | coreStore | bond | vat | hbm | hub
  deriving DecidableEq, Repr

/-- A clock island that has a closing rule (R391). -/
inductive Island where
  | core (phys : Fin 864)
  | vat (b : Fin 4)
  | hbm (stack : Fin 8)
  | engine (e : Fin 8)
  | hub (block : Fin 7)
  deriving DecidableEq, Repr

/-- A packet for an island: its number, and its sender, a physical core below 864 and a hub unit above (R394, R395). -/
structure IslPkt where
  id : Nat
  sender : Nat := 864
  deriving DecidableEq, Repr

/-- A packet that reaches the router of a closing island (R393). -/
structure IslArrival where
  island : Island
  pkt : IslPkt
  deriving DecidableEq, Repr

/-- A die lane that fails, and others of its direction that fail in the same cycle (R389). -/
structure FailedLanes where
  lane : Fin 2624
  also : List (Fin 2624) := []
  deriving DecidableEq, Repr

/-- What comes over the guest die's link: a Memory Read or Write with a 64-bit address, a request of any other type, or an uncorrectable link error (R401, R404). -/
inductive GuestKind where
  | memory | other | linkError
  deriving DecidableEq, Repr

/-- A request of the guest die: its address, its type, and whether it is poisoned (R401, R404). -/
structure GuestAsk where
  addr : BitVec 64
  kind : GuestKind := .memory
  poisoned : Bool := false
  deriving DecidableEq, Repr

/-- A place whose temperature is sensed (R425). -/
inductive ThermIsland where
  | core (phys : Fin 864)
  | bdie (b : Fin 4) (sensor : Fin 8)
  | hdie (sensor : Fin 4)
  | hbm (stack : Fin 8)
  | stage (n : Fin 6)
  | engine (e : Fin 8)
  deriving DecidableEq, Repr

/-- A slab whose read returned uncorrectable data, by the rows of R513 and R510. -/
inductive UncorrKind where
  | committed (q : Fin 64)
  | staging (q : Fin 64)
  | migration
  | stream
  | landing
  | slabTable (p : Fin 16)
  deriving DecidableEq, Repr

/-- What a sensor-bus poll finds (R497, R498). -/
structure PollFacts where
  /-- Devices that did not acknowledge in this poll. -/
  nak : List Nat
  /-- Arbitrations lost in this poll. -/
  arbLost : Nat
  /-- Bus clears made before SDA went high, or 3 with SDA still low. -/
  clears : Fin 4
  /-- The line is stuck: SDA low after 3 clears, or SCL low for 35 ms. -/
  stuck : Bool
  /-- The trunk passes its test (R500 step 2). -/
  trunkOk : Bool
  /-- Segments whose test passes (R500 step 3). -/
  segOk : List Nat
  deriving DecidableEq, Repr

/-- A register of the function's configuration space that R348 and R351 name: the command register, the BARs, and the control fields of its capabilities. -/
inductive CfgReg where
  | ids | command | classCode | bar0Lo | bar0Hi | bar2Lo | bar2Hi | bar4 | rom | devControl | linkControl | powerControl | msixControl | serialLo | serialHi | cxlCapability
  deriving DecidableEq, Repr

/-- A register write (R17): over BAR0, 32 bits, or 64 when `hi` is present (R19); of a configuration register (R351; log entry 108); or a block write over the SMBus (R495). -/
inductive RegWrite where
  | bar0 (off : BitVec 24) (lo : Word) (hi : Option Word)
  | smbus (code : BitVec 8) (data : Bytes) (pecOk : Bool)
  | config (reg : CfgReg) (v : Word)
  deriving DecidableEq, Repr

/-- What an agent asks the host-line directory for a line: a writeback with its data, ownership with the bytes that its update stores at an offset in the line, or a read (R397, R398). -/
inductive DirReq where
  | writeback (data : Bytes)
  | own (update : Option (Nat × Bytes))
  | read
  deriving DecidableEq, Repr

/-- The agent that asks, its update where it asks for ownership, and what other agents ask for the same line in the same cycle (R397 to R399). -/
structure DirAsk where
  agent : Fin 4
  update : Option (Nat × Bytes) := none
  also : List (Fin 4 × DirReq) := []
  deriving DecidableEq, Repr

/-- A request of a PFT sender that has a deadline (R297). -/
inductive ReqKind where
  | ofCommand (q : Fin 64)
  | cellar (q : Fin 64)
  /-- A request that no running command owns, its flow and SEQ: a notice or tile of a command that has committed, or a lease message. -/
  | notice (ep : BitVec 20) (cls : Fin 4) (seq : BitVec 48)
  deriving DecidableEq, Repr

/-- The commands of the module: one constructor per row of the table. -/
inductive Instr where
  /-- POWER_UP (R43, R462). -/
  | powerUp (f : StartFacts)
  /-- POWER_LOSS (R43). -/
  | powerLoss
  /-- RESTART_DELAY_EXPIRY (R44). -/
  | restartDelayExpiry (f : StartFacts)
  /-- PWR_BRAKE_ASSERT (R416). -/
  | pwrBrakeAssert
  /-- PWR_BRAKE_RELEASE (R40). -/
  | pwrBrakeRelease
  /-- HOST_LOSS_RESET (R369). -/
  | hostLossReset (cause : HostLossCause)
  /-- FLUSH_TIMEOUT (R369). -/
  | flushTimeout
  /-- LINK_RECOVERY (R367). -/
  | linkRecovery
  /-- LINK_RETURN_L0 (R367). -/
  | linkReturnL0 (speed : BitVec 3) (width : BitVec 5)
  /-- LINK_LOSS_TIMEOUT (R367). -/
  | linkLossTimeout
  /-- D3HOT_ENTRY (R350). -/
  | d3hotEntry
  /-- D0_RETURN (R350). -/
  | d0Return (host : List HostBlk)
  /-- WARM_RESET (R375): the value written to ID_HOST_CTRL. -/
  | warmReset (v : Word) (f : StartFacts)
  /-- WARM_RESET_TIMEOUT (R522). -/
  | warmResetTimeout
  /-- ID_HOST_LEVEL_WRITE (R9). -/
  | idHostLevelWrite (v : Word)
  /-- REGISTER_WRITE (R17, R19, R495). -/
  | registerWrite (w : RegWrite)
  /-- BAR0_ACCESS_INVALID (R353). -/
  | bar0AccessInvalid (off : BitVec 24) (size : Nat) (write : Bool)
  /-- BAR2_READ (R353). -/
  | bar2Read (off : BitVec 28)
  /-- DOORBELL (R254). -/
  | doorbell (q : Fin 64) (v : Word) (host : List HostBlk)
  /-- NOP (R257). -/
  | nop (q : Fin 64)
  /-- PRODUCT (R258). -/
  | product (q : Fin 64)
  /-- CHAINED (R151). -/
  | chained (q : Fin 64)
  /-- COLLECTIVE (R307). -/
  | collective (q : Fin 64)
  /-- EXCHANGE (R164). -/
  | exchange (q : Fin 64)
  /-- FINISH (R165). -/
  | finish (q : Fin 64)
  /-- OPTIMISER (R169). -/
  | optimiser (q : Fin 64)
  /-- COPY_IN (R257). -/
  | copyIn (q : Fin 64) (host : List HostBlk)
  /-- COPY_OUT (R257). -/
  | copyOut (q : Fin 64)
  /-- COPY (R257). -/
  | copy (q : Fin 64)
  /-- MAP_REGION (R203). -/
  | mapRegion (q : Fin 64)
  /-- UNMAP_REGION (R203). -/
  | unmapRegion (q : Fin 64)
  /-- REGISTER_GSET (R159). -/
  | registerGset (q : Fin 64)
  /-- RELEASE_GSET (R257). -/
  | releaseGset (q : Fin 64)
  /-- STREAM_CONFIG (R175). -/
  | streamConfig (q : Fin 64)
  /-- STEP_MARK (R176). -/
  | stepMark (q : Fin 64)
  /-- COMMIT (R263). -/
  | commit (q : Fin 64)
  /-- COMPLETION_RING_ROOM (R263). -/
  | completionRingRoom (q : Fin 64)
  /-- STAGING_WAIT_END (R213). -/
  | stagingWaitEnd (q : Fin 64)
  /-- CREDIT_GRANT (R274): units of resource `r` of partition `p` released. -/
  | creditGrant (r : Fin 4) (p : Fin 16) (units : Nat)
  /-- POOL_WAIT_END (R177): export releases one retained slab. -/
  | poolWaitEnd (p : Fin 16)
  /-- TILE_ACCEPT (R147). -/
  | tileAccept (q : Fin 64)
  /-- KILL (R266): the value written to HQ_KILL. -/
  | kill (q : Fin 64) (v : Word)
  /-- KILL_ALL (R253): the value written to HQ_KILL. -/
  | killAll (q : Fin 64) (v : Word)
  /-- C0_BUDGET_EXCEEDED (R272). -/
  | c0BudgetExceeded (q : Fin 64)
  /-- TOKEN_REFILL (R271). -/
  | tokenRefill (p : Fin 16)
  /-- FMA (R139). -/
  | fma (core : Fin 864) (a : TileArgs)
  /-- ADD (R139). -/
  | add (core : Fin 864) (a : TileArgs)
  /-- MUL (R139). -/
  | mul (core : Fin 864) (a : TileArgs)
  /-- MAX (R139). -/
  | vmax (core : Fin 864) (a : TileArgs)
  /-- MIN (R139). -/
  | vmin (core : Fin 864) (a : TileArgs)
  /-- CMPLT (R139). -/
  | cmplt (core : Fin 864) (a : TileArgs)
  /-- SEL (R139). -/
  | sel (core : Fin 864) (a : TileArgs)
  /-- EXP2 (R109). -/
  | exp2 (core : Fin 864) (a : TileArgs)
  /-- LOG2 (R109). -/
  | log2 (core : Fin 864) (a : TileArgs)
  /-- RCP (R109). -/
  | rcp (core : Fin 864) (a : TileArgs)
  /-- RSQRT (R109). -/
  | rsqrt (core : Fin 864) (a : TileArgs)
  /-- RSUM (R139). -/
  | rsum (core : Fin 864) (a : TileArgs)
  /-- RMAX (R139). -/
  | rmax (core : Fin 864) (a : TileArgs)
  /-- CVT (R139). -/
  | cvt (core : Fin 864) (a : TileArgs)
  /-- QNT (R139). -/
  | qnt (core : Fin 864) (a : TileArgs)
  /-- ACC (R139). -/
  | accRead (core : Fin 864) (a : TileArgs)
  /-- LD (R139). -/
  | ld (core : Fin 864) (a : TileArgs)
  /-- ST (R139). -/
  | st (core : Fin 864) (a : TileArgs)
  /-- BCAST (R139). -/
  | bcast (core : Fin 864) (a : TileArgs)
  /-- LOOP (R139). -/
  | loopRep (core : Fin 864) (a : TileArgs)
  /-- END (R139). -/
  | endTile (core : Fin 864) (a : TileArgs)
  /-- SEND (R139). -/
  | sendTile (core : Fin 864) (a : TileArgs)
  /-- ADMIT (R246): the value written to PART_ADMIT_CTRL. -/
  | admitPart (v : Word) (host : List HostBlk)
  /-- MODIFY (R250). -/
  | modify (v : Word) (host : List HostBlk)
  /-- PARTITION_RESET (R251). -/
  | partitionReset (v : Word)
  /-- GRANT (R224). -/
  | grant (v : Word) (host : List HostBlk)
  /-- REVOKE (R224). -/
  | revoke (v : Word)
  /-- LEND_MAX_WRITE (R231). -/
  | lendMaxWrite (v : Word)
  /-- WINDOW_OPEN (R299). -/
  | windowOpen (p : Fin 16) (v : Word) (host : List HostBlk)
  /-- WINDOW_CLOSE (R299). -/
  | windowClose (p : Fin 16) (v : Word)
  /-- PART_JOB_AXES_WRITE (R283). -/
  | partJobAxesWrite (p : Fin 16) (v : Word)
  /-- BIND (R361). -/
  | bind (p : Fin 16) (v : Word)
  /-- UNBIND (R361). -/
  | unbind (p : Fin 16) (v : Word)
  /-- PART_LAND_HEAD_WRITE (R365). -/
  | partLandHeadWrite (p : Fin 16) (v : Word)
  /-- PART_STREAM_TAIL_WRITE (R196). -/
  | partStreamTailWrite (p : Fin 16) (v : Word)
  /-- RESUME (R197). -/
  | resume (p : Fin 16) (v : Word)
  /-- READOUT (R371): `ok` 0 the cellar answers, 1 late, 2 failed. -/
  | readout (v : Word) (ok : Fin 3)
  /-- DISCARD (R371). -/
  | discard (v : Word)
  /-- GET_CHAIN (R450). -/
  | getChain
  /-- GET_METER_CHAIN (R450). -/
  | getMeterChain
  /-- PEER_ADD (R441). -/
  | peerAdd
  /-- PEER_REMOVE (R441). -/
  | peerRemove
  /-- PEER_CLEAR (R441). -/
  | peerClear
  /-- DEBUG_OPEN (R451). -/
  | debugOpen
  /-- GET_VERSION (R446). -/
  | getVersion (req : Bytes)
  /-- GET_CAPABILITIES (R446). -/
  | getCapabilities (req : Bytes)
  /-- NEGOTIATE_ALGORITHMS (R446). -/
  | negotiateAlgorithms (req : Bytes)
  /-- GET_DIGESTS (R446). -/
  | getDigests (req : Bytes)
  /-- GET_CERTIFICATE (R446). -/
  | getCertificate (req : Bytes) (slot : BitVec 4) (offset len : Nat)
  /-- CHALLENGE (R446). -/
  | challenge (req : Bytes) (slot : BitVec 4) (nonce : Bytes)
  /-- GET_MEASUREMENTS (R447): index 0 asks the count, 1 to 8 one block, 255 all; `signed` asks the signature. -/
  | getMeasurements (req : Bytes) (index : BitVec 8) (signed : Bool) (nonce : Bytes)
  /-- SIGN (R456). -/
  | sign (v : Word)
  /-- PWR_PEAK_CLEAR (R432). -/
  | pwrPeakClear (v : Word)
  /-- PWR_CAP_WRITE (R413). -/
  | pwrCapWrite (v : Word)
  /-- MODE_WRITE (R418): the value written to PWR_CTRL. -/
  | modeWrite (v : Word)
  /-- PWR_IDLE_WRITE (R430). -/
  | pwrIdleWrite (v : Word)
  /-- PORT_CFG_WRITE (R332): a write to a register of the port's page below 0x01C. -/
  | portCfgWrite (port : Fin 16) (reg : Fin 7) (v : Word)
  /-- RETRY_FULL (R336): the lanes that do not pass R333 on the retry. -/
  | retryFull (port : Fin 16) (v : Word) (faults : List LaneFault)
  /-- PORT_CNT_CLEAR (R345). -/
  | portCntClear (port : Fin 16) (v : Word)
  /-- ACCT_CLEAR (R277): of queue `i` when `part` is false, of partition `i` mod 16 when true. -/
  | acctClear (part : Bool) (i : Fin 64) (v : Word)
  /-- ERR_LOG_TAIL_WRITE (R506). -/
  | errLogTailWrite (v : Word)
  /-- TEST_START (R519): the value written to ERR_TEST_CTRL. -/
  | testStart (v : Word)
  /-- FENCE (R404): the value written to ID_RIND_CTRL. -/
  | fence (v : Word)
  /-- LANDING_DATA_WRITE (R362). -/
  | landingDataWrite (off : BitVec 28) (data : Bytes) (requester : BitVec 16)
  /-- TAIL_DOORBELL (R362): a 4-byte write at offset 0xFF_F000 of window `p`. -/
  | tailDoorbell (p : Fin 16) (v : Word) (requester : BitVec 16)
  /-- UPDATE (R480): the value written to SB_BOOT_CTRL. -/
  | update (v : Word)
  /-- SB_BOOT_DATA_WRITE (R480). -/
  | sbBootDataWrite (data : Bytes)
  /-- SB_BOOT_COMMIT (R481). -/
  | sbBootCommit (v : Word)
  /-- SB_BOOT_ABORT (R480). -/
  | sbBootAbort (v : Word)
  /-- SB_CAP_WRITE (R413). -/
  | sbCapWrite (v : Word)
  /-- RETEST (R501): the value written to SB_SENSOR_CFG and what the tests find. -/
  | retest (v : Word) (f : PollFacts)
  /-- ALERT_RESPONSE (R496). -/
  | alertResponse
  /-- SMBUS_TIMEOUT (R494). -/
  | smbusTimeout
  /-- WINDOW_TILE (R302). -/
  | windowTile (h : PftHdr) (window : BitVec 16) (attempt : BitVec 32) (offset : BitVec 48) (data : Bytes)
  /-- COLLECTIVE_PIECE (R309). -/
  | collectivePiece (h : PftHdr) (attempt : BitVec 16) (coll : BitVec 32) (offset : BitVec 48) (data : Bytes)
  /-- COLLECTIVE_PULL (R309). -/
  | collectivePull (h : PftHdr) (attempt : BitVec 16) (coll : BitVec 32) (offset : BitVec 48) (len : BitVec 32)
  /-- COLLECTIVE_ABORT (R312). -/
  | collectiveAbort (h : PftHdr) (attempt : BitVec 16) (coll : BitVec 32)
  /-- COLLECTIVE_ANNOUNCEMENT (R309). -/
  | collectiveAnnouncement (h : PftHdr) (attempt : BitVec 16) (coll : BitVec 32) (value : BitVec 32)
  /-- CELLAR_REQUEST (R228): a write when `data` is present, else a read of `len` bytes. -/
  | cellarRequest (h : PftHdr) (number : BitVec 16) (lease : BitVec 32) (offset : BitVec 48) (len : Nat) (data : Option Bytes)
  /-- LEASE_REQUEST (R229). -/
  | leaseRequest (h : PftHdr) (bpart : Fin 16) (slabs : BitVec 32)
  /-- LEASE_GRANT (R230). -/
  | leaseGrant (h : PftHdr) (bpart : Fin 16) (lease slabs : BitVec 32) (noticeMs : BitVec 16)
  /-- LEASE_REFUSE (R230). -/
  | leaseRefuse (h : PftHdr) (bpart : Fin 16)
  /-- LEASE_RECLAIM (R232). -/
  | leaseReclaim (h : PftHdr) (bpart : Fin 16) (lease : BitVec 32) (noticeMs : BitVec 16)
  /-- LEASE_RELEASE (R231). -/
  | leaseRelease (h : PftHdr) (bpart : Fin 16) (lease : BitVec 32)
  /-- DIGEST_MESSAGE (R189). -/
  | digestMessage (h : PftHdr) (member : BitVec 4) (step : BitVec 64) (digest : Bytes)
  /-- ACK (R293): CUM and the 256-bit bitmap of R290. -/
  | ack (h : PftHdr) (cum : BitVec 48) (bitmap : BitVec 256)
  /-- NOTICE_COMMIT (R302). -/
  | noticeCommit (h : PftHdr) (window : BitVec 16) (attempt : BitVec 32) (bytes : BitVec 48) (tag : BitVec 64)
  /-- NOTICE_ABORT (R302). -/
  | noticeAbort (h : PftHdr) (window : BitVec 16) (attempt : BitVec 32)
  /-- ACK_TIMER (R294). -/
  | ackTimer (ep : BitVec 20) (cls : Fin 4)
  /-- RTO_EXPIRY (R295). -/
  | rtoExpiry (ep : BitVec 20) (cls : Fin 4) (seq : BitVec 48)
  /-- PORT_DOWN (R296). -/
  | portDown (port : Fin 16)
  /-- REQUEST_DEADLINE (R297). -/
  | requestDeadline (r : ReqKind)
  /-- ENDPOINT_UNREACHABLE (R298). -/
  | endpointUnreachable (ep : BitVec 20)
  /-- LENDER_TIMEOUT (R230). -/
  | lenderTimeout (p : Fin 16)
  /-- LEASE_ADMISSION_DEADLINE (R230). -/
  | leaseAdmissionDeadline (p : Fin 16)
  /-- BORROWER_UNREACHABLE_END (R230). -/
  | borrowerUnreachableEnd (ep : BitVec 20)
  /-- RECLAIM_DEADLINE (R232). -/
  | reclaimDeadline (p : Fin 16) (lease : BitVec 32)
  /-- RECLAIM_NOTICE_END (R232). -/
  | reclaimNoticeEnd (p : Fin 16) (lease : BitVec 32)
  /-- LENDER_NOTICE_EXPIRY (R231). -/
  | lenderNoticeExpiry (lease : BitVec 32)
  /-- MISSING_TILES_DEADLINE (R302). -/
  | missingTilesDeadline (p : Fin 16) (window : BitVec 16) (ep : BitVec 20) (spart : Fin 16)
  /-- PAUSE_FRAME (R326, R327): the destination MAC address, first byte first, and pause_time. -/
  | pauseFrame (rx : CtrlRx) (time : BitVec 16)
  /-- PFC_FRAME (R326, R327): the class-enable vector and the eight times. -/
  | pfcFrame (rx : CtrlRx) (vector : BitVec 8) (times : List (BitVec 16))
  /-- PAUSE_EXPIRY (R327): of priority `q`, or of the whole transmitter when absent. -/
  | pauseExpiry (of : SubPort) (q : Option (Fin 8))
  /-- ARP_REQUEST (R322). -/
  | arpRequest (port : Fin 16) (sub : Fin 8) (target : Bytes)
  /-- NEIGHBOUR_SOLICITATION (R322). -/
  | neighbourSolicitation (port : Fin 16) (sub : Fin 8) (target : Bytes)
  /-- FRAME_RECEIVE (R322). -/
  | frameReceive (port : Fin 16) (sub : Fin 8) (f : Frame)
  /-- INGRESS_HIGH (R330): of share `k`. -/
  | ingressHigh (port : Fin 16) (sub : Fin 8) (k : Fin 5)
  /-- PAUSE_REPEAT (R330). -/
  | pauseRepeat (port : Fin 16) (sub : Fin 8) (k : Fin 5)
  /-- INGRESS_LOW (R330): `drained` bytes have left the share. -/
  | ingressLow (port : Fin 16) (sub : Fin 8) (k : Fin 5) (drained : Nat)
  /-- FLOW_STALL (R328). -/
  | flowStall (port : Fin 16)
  /-- STALL_CLEAR (R328). -/
  | stallClear (port : Fin 16)
  /-- LANE_FAILURE (R333 to R335): the lane, whether it transmits, and what is found. -/
  | laneFailure (port : Fin 16) (lane : Fin 8) (tx : Bool) (found : LaneFinding)
  /-- SUBPORT_UP (R334). -/
  | subportUp (port : Fin 16) (sub : Fin 8)
  /-- TRAINING_RETRY (R334). -/
  | trainingRetry (port : Fin 16) (sub : Fin 8) (trained : Bool)
  /-- LASER_SHORT (R339). -/
  | laserShort (ch : Fin 10)
  /-- LASER_RAIL_REGULATED (R339). -/
  | laserRailRegulated
  /-- LASER_RAIL_FAULT (R341). -/
  | laserRailFault
  /-- LASER_RESTART (R341). -/
  | laserRestart
  /-- LASER_RAMP_DONE (R338). -/
  | laserRampDone (ch : Fin 10)
  /-- LASER_WORN (R342). -/
  | laserWorn (ch : Fin 10)
  /-- ENGINE_HOT (R428). -/
  | engineHot (e : Fin 8)
  /-- ENGINE_OVERHEAT (R428). -/
  | engineOverheat (e : Fin 8)
  /-- ENGINE_COOLED (R428). -/
  | engineCooled (e : Fin 8)
  /-- LANE_LOCK (R385): the bits received after the training pattern. -/
  | laneLock (l : Fin 6) (dir : Fin 2) (lane : Fin 2624) (rx : List Bool)
  /-- LOCK_TIMEOUT (R386). -/
  | lockTimeout (l : Fin 6) (dir : Fin 2) (lane : Fin 2624)
  /-- LOSS_OF_LOCK (R386). -/
  | lossOfLock (l : Fin 6) (dir : Fin 2) (lane : Fin 2624)
  /-- FLIT_CRC_FAIL (R387). -/
  | flitCrcFail (l : Fin 6) (dir : Fin 2) (lane : Fin 2624) (seq : BitVec 10)
  /-- NAK (R387): `sent` is the SEQ after the last flit sent. -/
  | nak (l : Fin 6) (dir : Fin 2) (lane : Fin 2624) (seq sent : BitVec 10)
  /-- DIE_LANE_FAILURE (R388). -/
  | dieLaneFailure (l : Fin 6) (dir : Fin 2) (lanes : FailedLanes)
  /-- ISLAND_CLOSE (R392). -/
  | islandClose (i : Island)
  /-- CLOSE_ABANDON (R393). -/
  | closeAbandon (a : IslArrival)
  /-- PACKET_HELD (R394): a packet number of the sender's. -/
  | packetHeld (i : Island) (pkt : IslPkt)
  /-- ISLAND_WAKE_DONE (R394). -/
  | islandWakeDone (i : Island)
  /-- RETURNED_PACKET_RESEND (R395). -/
  | returnedPacketResend (i : Island) (pkt : IslPkt)
  /-- WAKE_TIMEOUT (R396, R520): `f` for the warm reset that a hub block brings; its spares that fail for a core. -/
  | wakeTimeout (i : Island) (f : StartFacts)
  /-- READ_REQUEST (R398). -/
  | readRequest (ask : DirAsk) (line : BitVec 46)
  /-- OWNERSHIP_REQUEST (R398). -/
  | ownershipRequest (ask : DirAsk) (line : BitVec 46)
  /-- WRITEBACK (R398): the 64 bytes of the line. -/
  | writeback (ask : DirAsk) (line : BitVec 46) (data : Bytes)
  /-- HOST_SNOOP (R400): `inv` when the snoop invalidates. -/
  | hostSnoop (line : BitVec 46) (inv : Bool)
  /-- MEMORY_READ (R403). -/
  | memoryRead (req : GuestAsk) (len : BitVec 9)
  /-- MEMORY_WRITE (R403). -/
  | memoryWrite (req : GuestAsk) (data : Bytes)
  /-- GUEST_LINK_DOWN (R404). -/
  | guestLinkDown
  /-- POWER_WINDOW (R410, R414): the events of the window, and the temperature and rail voltage of its static power. -/
  | powerWindow (events : List EventCount) (pstatic : PowerCond)
  /-- CORRECTION_UPDATE (R412): Fuelagrim's mean and the mean estimate of the second are the module's own, so neither is given. -/
  | correctionUpdate (meter est : Unit)
  /-- LEARNING_UPDATE (R419): the measured pa and pm of each running signature, in W per core. -/
  | learningUpdate (m : List (BitVec 32 × Rat × Rat))
  /-- SENSOR_READ (R425): the temperatures read, in °C. -/
  | sensorRead (t : List (ThermIsland × Int))
  /-- THROTTLE_TICK (R426). -/
  | throttleTick
  /-- THERMAL_TRIP (R427). -/
  | thermalTrip (i : ThermIsland) (celsius : Int)
  /-- TRIP_RECOVERY (R427). -/
  | tripRecovery
  /-- DROOP_TRIP (R423). -/
  | droopTrip (cdie : Fin 12)
  /-- DROOP_RECOVERY (R423). -/
  | droopRecovery (cdie : Fin 12)
  /-- S2_ENTRY (R429). -/
  | s2Entry (core : Fin 864)
  /-- S3_ENTRY (R430). -/
  | s3Entry
  /-- WAKE (R431). -/
  | wake
  /-- REBALANCE (R217). -/
  | rebalance
  /-- ACCESS_COUNT_HALVING (R216). -/
  | accessCountHalving
  /-- MIGRATION_COPY_DONE (R220). -/
  | migrationCopyDone (slab : BitVec 27)
  /-- SOURCE_FRAME_FREE (R220). -/
  | sourceFrameFree (slab : BitVec 27)
  /-- TIER_DEADLINE (R234): of the command of `q`, or of the migration of `slab`. -/
  | tierDeadline (q : Fin 64) (slab : Option (BitVec 27))
  /-- TRANSFER_ERROR_ANSWER (R234). -/
  | transferErrorAnswer (q : Fin 64) (slab : Option (BitVec 27))
  /-- UNCORRECTABLE_READ (R513): the address, the unit that failed (vat row or pseudo-channel), and whether the second read fails too (R512). -/
  | uncorrectableRead (addr : BitVec 48) (unit : BitVec 16) (k : UncorrKind) (second : Bool)
  /-- CORRECTED_ERROR (R510): of `unit` (physical core, vat row 0-65,535 of slice `slice`, or pseudo-channel). -/
  | correctedError (pl : Place) (slice : Fin 4) (unit : BitVec 16)
  /-- FRAME_WITHDRAW (R514). -/
  | frameWithdraw (slice : Fin 4)
  /-- PC_MOVE_DONE (R515): the slabs whose page moves met an uncorrectable error. -/
  | pcMoveDone (pc : Fin 512) (lost : List (BitVec 27))
  /-- EPOCH_END (R183). -/
  | epochEnd (p : Fin 16)
  /-- DIGEST_TIMEOUT (R190). -/
  | digestTimeout (p : Fin 16)
  /-- RING_FULL_TIMEOUT (R185). -/
  | ringFullTimeout (p : Fin 16)
  /-- LOAD_WINDOW (R492): LOAD in percent and the longest slow-path wait in µs. -/
  | loadWindow (load : Fin 101) (waitUs : Nat)
  /-- WATCHDOG_EXPIRY (R522). -/
  | watchdogExpiry (f : StartFacts)
  /-- SENSOR_POLL (R497): the slow devices too when `slow`. -/
  | sensorPoll (slow : Bool) (f : PollFacts)
  /-- FIELD_RECORD_WRITE (R477): record 0 spare map, 1 drift, 2 fault log; whether the first and second verification pass. -/
  | fieldRecordWrite (record : Fin 3) (ok1 ok2 : Bool)
  /-- FUELAGRIM_SECOND (R455): energy of the second in mJ, whether a sample passed 1,300 W, whether the self-check passes (R458). -/
  | fuelagrimSecond (mj : Nat) (overRange : Bool) (checkOk : Bool)
  /-- METER_RECORD (R456). -/
  | meterRecord
  /-- METER_TAG_RETRY (R456). -/
  | meterTagRetry
  /-- PARAMETER_SET_LOAD (R459). -/
  | parameterSetLoad
  /-- STATUS_RECORD_RETRY (R485). -/
  | statusRecordRetry
  /-- INVENTORY (R483). -/
  | inventory
  /-- STAY_QUIET (R483). -/
  | stayQuiet
  /-- SELECT (R483). -/
  | select
  /-- RESET_TO_READY (R483). -/
  | resetToReady
  /-- READ_SINGLE_BLOCK (R483). -/
  | readSingleBlock (block : BitVec 11)
  /-- READ_MULTIPLE_BLOCKS (R483). -/
  | readMultipleBlocks (block : BitVec 11) (count : Nat)
  /-- WRITE_SINGLE_BLOCK (R483). -/
  | writeSingleBlock (block : BitVec 11) (data : Word)
  /-- GET_SYSTEM_INFORMATION (R483). -/
  | getSystemInformation
  /-- CORE_FAULT (R516): the logical core, the cause, and the spares that fail their own test. -/
  | coreFault (core : Fin 800) (cause : CoreCause) (badSpares : SpareTests)
  /-- NO_PROGRESS_TIMEOUT (R516). -/
  | noProgressTimeout (core : Fin 800) (badSpares : SpareTests)
  /-- TEST_INTERVAL_DUE (R519). -/
  | testIntervalDue (core : Fin 800)
  /-- IN_FIELD_TEST (R518). -/
  | inFieldTest
  /-- IN_FIELD_TEST_DONE (R518): whether self-test and the path-delay check pass. -/
  | inFieldTestDone (core : Fin 800) (bistOk marginOk : Bool) (badSpares : SpareTests)
  /-- HUB_SRAM_UNCORRECTABLE (R522). -/
  | hubSramUncorrectable (f : StartFacts)
  /-- PARTITION_RESET_OVERRUN (R517). -/
  | partitionResetOverrun (p : Fin 16) (f : StartFacts)
  /-- LINK_REACHES_L0 (R369). -/
  | linkReachesL0 (speed : BitVec 3) (width : BitVec 5) (flit : BitVec 2) (cxlCache : Bool)
  /-- FIRST_BAR0_ACCESS_AFTER_HOST_LOSS (R354). -/
  | firstBar0AccessAfterHostLoss
  /-- RF_FIELD_PRESENT (R485). -/
  | rfFieldPresent
  /-- FIELD_COLLAPSE (R487): whether a block write was under way. -/
  | fieldCollapse
  deriving DecidableEq, Repr

end Sys2Proof
end

