-- ==== Sys2Proof/WellFormed.lean ====
section
/-! DEFINITION. Which command terms are well formed: the relations between operands that their types do not carry. -/

namespace Sys2Proof

/-- Numbers of a list below a bound, none twice. -/
def coresWf (n : Nat) (l : List Nat) : Bool := l.all (fun x => decide (x < n)) && decide l.Nodup

/-- Spares are physical cores, each named once. -/
def SpareTests.wf (t : SpareTests) : Bool := coresWf 864 t.fail && coresWf 864 t.margin

/-- The kinds of event that a core counts (R410). -/
def EventKind.ofCore : EventKind → Bool
  | .slots _ | .storeLines | .dmaLines | .vectorCycles => true
  | _ => false

/-- Core events, and no others, name a core (R410). -/
def EventCount.wf (e : EventCount) : Bool := e.kind.ofCore == e.core.isSome

/-- The facts of a start-up name parts that the module has (R23, R27, R31, R319, R337, R377). -/
def StartFacts.wf (f : StartFacts) : Bool :=
  f.coreFail.all (fun g => !g.isEmpty && coresWf 800 (g.map (·.1))) && coresWf 864 f.spareFail && coresWf 864 f.spareMargin && decide (f.railFaults ≤ 2) && coresWf 512 f.pcFail && coresWf 6 f.linkFail && coresWf 10 f.laserFail && coresWf 16 f.portsUp

/-- What a poll finds names devices and segments of the sensor bus (R497). -/
def PollFacts.wf (f : PollFacts) : Bool := coresWf 11 f.nak && coresWf 3 f.segOk

/-- Blocks of host memory lie within its 52-bit addresses (R348). -/
def hostWf (l : List HostBlk) : Bool := l.all fun x => decide (x.1 + x.2.length ≤ 2 ^ 52)

/-- The addresses of a received frame have their lengths (R322). -/
def Frame.wf (f : Frame) : Bool :=
  decide (1 ≤ f.len) && f.dst.length == 6 && (match f.what with | .udp a _ => a.length == 4 || a.length == 16 | _ => true)

/-- A rate and a width that the link supports, as ID_LINK_STATUS codes them (R348, R356). -/
def linkWf (speed width : Nat) : Bool := decide (1 ≤ speed) && decide (speed ≤ 6) && [1, 2, 4, 8, 16].contains width

/-- A flit mode that R348 gives a rate: a 256-byte flit at 64 GT/s, none or the 68-byte flit at 32 GT/s, none below. -/
def flitFits (speed flit : Nat) : Bool := if speed = 6 then decide (2 ≤ flit) else decide (flit = 0) || (decide (flit = 1) && decide (speed = 5))

/-- The requests that R397 gives an agent, of a whole line or bytes within one. -/
def mayAsk (agent : Nat) (r : DirReq) : Bool :=
  match r with
  | .writeback data => decide (agent ≤ 2) && data.length == 64
  | .own u => decide (agent ≤ 2) && (match u with | some x => decide (x.1 + x.2.length ≤ 64) | none => true)
  | .read => decide (2 ≤ agent)

/-- What other agents ask in the same cycle is theirs to ask. -/
def DirAsk.wf (a : DirAsk) : Bool := a.also.all fun x => mayAsk x.1.val x.2

/-- A command is well formed. -/
def Instr.wf : Instr → Bool
  | .powerUp f => f.wf
  | .powerLoss => true
  | .restartDelayExpiry f => f.wf
  | .pwrBrakeAssert => true
  | .pwrBrakeRelease => true
  | .hostLossReset _ => true
  | .flushTimeout => true
  | .linkRecovery => true
  | .linkReturnL0 speed width => linkWf speed.toNat width.toNat
  | .linkLossTimeout => true
  | .d3hotEntry => true
  | .d0Return host => hostWf host
  | .warmReset _ f => f.wf
  | .warmResetTimeout => true
  | .idHostLevelWrite _ => true
  | .registerWrite w => (match w with | .config _ _ => true | .bar0 off _ none => off.toNat % 4 == 0 | .bar0 off _ (some _) => off.toNat % 8 == 0 | .smbus _ data _ => decide (data.length ≤ 255))
  | .bar0AccessInvalid off size _ => decide (1 ≤ size) && decide (off.toNat + size ≤ 2 ^ 24) && !((size == 4 || size == 8) && off.toNat % size == 0)
  | .bar2Read _ => true
  | .doorbell _ _ host => hostWf host
  | .nop _ => true
  | .product _ => true
  | .chained _ => true
  | .collective _ => true
  | .exchange _ => true
  | .finish _ => true
  | .optimiser _ => true
  | .copyIn _ host => hostWf host
  | .copyOut _ => true
  | .copy _ => true
  | .mapRegion _ => true
  | .unmapRegion _ => true
  | .registerGset _ => true
  | .releaseGset _ => true
  | .streamConfig _ => true
  | .stepMark _ => true
  | .commit _ => true
  | .completionRingRoom _ => true
  | .stagingWaitEnd _ => true
  | .creditGrant _ _ units => decide (1 ≤ units)
  | .poolWaitEnd _ => true
  | .tileAccept _ => true
  | .kill _ _ => true
  | .killAll _ _ => true
  | .c0BudgetExceeded _ => true
  | .tokenRefill _ => true
  | .fma _ _ => true
  | .add _ _ => true
  | .mul _ _ => true
  | .vmax _ _ => true
  | .vmin _ _ => true
  | .cmplt _ _ => true
  | .sel _ _ => true
  | .exp2 _ _ => true
  | .log2 _ _ => true
  | .rcp _ _ => true
  | .rsqrt _ _ => true
  | .rsum _ _ => true
  | .rmax _ _ => true
  | .cvt _ _ => true
  | .qnt _ _ => true
  | .accRead _ _ => true
  | .ld _ _ => true
  | .st _ _ => true
  | .bcast _ _ => true
  | .loopRep _ _ => true
  | .endTile _ _ => true
  | .sendTile _ _ => true
  | .admitPart _ host => hostWf host
  | .modify _ host => hostWf host
  | .partitionReset _ => true
  | .grant _ host => hostWf host
  | .revoke _ => true
  | .lendMaxWrite _ => true
  | .windowOpen _ _ host => hostWf host
  | .windowClose _ _ => true
  | .partJobAxesWrite _ _ => true
  | .bind _ _ => true
  | .unbind _ _ => true
  | .partLandHeadWrite _ _ => true
  | .partStreamTailWrite _ _ => true
  | .resume _ _ => true
  | .readout _ _ => true
  | .discard _ => true
  | .getChain => true
  | .getMeterChain => true
  | .peerAdd => true
  | .peerRemove => true
  | .peerClear => true
  | .debugOpen => true
  | .getVersion _ => true
  | .getCapabilities _ => true
  | .negotiateAlgorithms _ => true
  | .getDigests _ => true
  | .getCertificate _ _ _ _ => true
  | .challenge _ _ nonce => nonce.length == 32
  | .getMeasurements _ _ signed nonce => nonce.length == (if signed then 32 else 0)
  | .sign _ => true
  | .pwrPeakClear _ => true
  | .pwrCapWrite _ => true
  | .modeWrite _ => true
  | .pwrIdleWrite _ => true
  | .portCfgWrite _ _ _ => true
  | .retryFull port _ faults => faults.all fun f => f.port == port
  | .portCntClear _ _ => true
  | .acctClear _ _ _ => true
  | .errLogTailWrite _ => true
  | .testStart _ => true
  | .fence _ => true
  | .landingDataWrite off data _ => decide (1 ≤ data.length) && decide (off.toNat + data.length ≤ 2 ^ 28)
  | .tailDoorbell _ _ _ => true
  | .update _ => true
  | .sbBootDataWrite data => decide (data.length ≤ 255)
  | .sbBootCommit _ => true
  | .sbBootAbort _ => true
  | .sbCapWrite _ => true
  | .retest _ f => f.wf
  | .alertResponse => true
  | .smbusTimeout => true
  | .windowTile _ _ _ _ data => decide (1 ≤ data.length) && decide (data.length ≤ 4096)
  | .collectivePiece _ _ _ _ data => decide (data.length ≤ 4096)
  | .collectivePull _ _ _ _ _ => true
  | .collectiveAbort _ _ _ => true
  | .collectiveAnnouncement _ _ _ _ => true
  | .cellarRequest _ _ _ _ len data => (match data with | none => decide (len ≤ 4096) | some b => len == b.length && decide (len ≤ 4096))
  | .leaseRequest _ _ _ => true
  | .leaseGrant _ _ _ _ _ => true
  | .leaseRefuse _ _ => true
  | .leaseReclaim _ _ _ _ => true
  | .leaseRelease _ _ _ => true
  | .digestMessage _ _ _ digest => digest.length == 32
  | .ack _ _ _ => true
  | .noticeCommit _ _ _ _ _ => true
  | .noticeAbort _ _ _ => true
  | .ackTimer _ _ => true
  | .rtoExpiry _ _ _ => true
  | .portDown _ => true
  | .requestDeadline _ => true
  | .endpointUnreachable _ => true
  | .lenderTimeout _ => true
  | .leaseAdmissionDeadline _ => true
  | .borrowerUnreachableEnd _ => true
  | .reclaimDeadline _ _ => true
  | .reclaimNoticeEnd _ _ => true
  | .lenderNoticeExpiry _ => true
  | .missingTilesDeadline _ _ _ _ => true
  | .pauseFrame rx _ => rx.dst.length == 6
  | .pfcFrame rx _ times => rx.dst.length == 6 && times.length == 8
  | .pauseExpiry _ _ => true
  | .arpRequest _ _ target => target.length == 4
  | .neighbourSolicitation _ _ target => target.length == 16
  | .frameReceive _ _ f => f.wf
  | .ingressHigh _ _ _ => true
  | .pauseRepeat _ _ _ => true
  | .ingressLow _ _ _ _ => true
  | .flowStall _ => true
  | .stallClear _ => true
  | .laneFailure _ _ _ _ => true
  | .subportUp _ _ => true
  | .trainingRetry _ _ _ => true
  | .laserShort _ => true
  | .laserRailRegulated => true
  | .laserRailFault => true
  | .laserRestart => true
  | .laserRampDone _ => true
  | .laserWorn _ => true
  | .engineHot _ => true
  | .engineOverheat _ => true
  | .engineCooled _ => true
  | .laneLock _ _ _ _ => true
  | .lockTimeout _ _ _ => true
  | .lossOfLock _ _ _ => true
  | .flitCrcFail _ _ _ _ => true
  | .nak _ _ _ _ _ => true
  | .dieLaneFailure _ _ _ => true
  | .islandClose _ => true
  | .closeAbandon _ => true
  | .packetHeld _ _ => true
  | .islandWakeDone _ => true
  | .returnedPacketResend _ _ => true
  | .wakeTimeout _ f => f.wf
  | .readRequest a _ => a.wf && mayAsk a.agent.val .read
  | .ownershipRequest a _ => a.wf && mayAsk a.agent.val (.own a.update)
  | .writeback a _ data => a.wf && mayAsk a.agent.val (.writeback data)
  | .hostSnoop _ _ => true
  | .memoryRead _ _ => true
  | .memoryWrite _ data => decide (data.length ≤ 512)
  | .guestLinkDown => true
  | .powerWindow events _ => events.all EventCount.wf
  | .correctionUpdate _ _ => true
  | .learningUpdate m => m.all fun x => decide (0 ≤ x.2.1) && decide (0 ≤ x.2.2)
  | .sensorRead _ => true
  | .throttleTick => true
  | .thermalTrip _ _ => true
  | .tripRecovery => true
  | .droopTrip _ => true
  | .droopRecovery _ => true
  | .s2Entry _ => true
  | .s3Entry => true
  | .wake => true
  | .rebalance => true
  | .accessCountHalving => true
  | .migrationCopyDone _ => true
  | .sourceFrameFree _ => true
  | .tierDeadline _ _ => true
  | .transferErrorAnswer _ _ => true
  | .uncorrectableRead _ _ _ _ => true
  | .correctedError _ _ _ => true
  | .frameWithdraw _ => true
  | .pcMoveDone _ _ => true
  | .epochEnd _ => true
  | .digestTimeout _ => true
  | .ringFullTimeout _ => true
  | .loadWindow _ _ => true
  | .watchdogExpiry f => f.wf
  | .sensorPoll _ f => f.wf
  | .fieldRecordWrite _ _ _ => true
  | .fuelagrimSecond _ _ _ => true
  | .meterRecord => true
  | .meterTagRetry => true
  | .parameterSetLoad => true
  | .statusRecordRetry => true
  | .inventory => true
  | .stayQuiet => true
  | .select => true
  | .resetToReady => true
  | .readSingleBlock _ => true
  | .readMultipleBlocks _ count => decide (1 ≤ count) && decide (count ≤ 256)
  | .writeSingleBlock _ _ => true
  | .getSystemInformation => true
  | .coreFault _ _ badSpares => badSpares.wf
  | .noProgressTimeout _ badSpares => badSpares.wf
  | .testIntervalDue _ => true
  | .inFieldTest => true
  | .inFieldTestDone _ _ _ badSpares => badSpares.wf
  | .hubSramUncorrectable f => f.wf
  | .partitionResetOverrun _ f => f.wf
  | .linkReachesL0 speed width flit _ => linkWf speed.toNat width.toNat && flitFits speed.toNat flit.toNat
  | .firstBar0AccessAfterHostLoss => true
  | .rfFieldPresent => true
  | .fieldCollapse => true

end Sys2Proof
end

