-- ==== Sys2Proof/Decode.lean ====
section
/-! DEFINITION. The words of commands: the opcode table gives no row any bits, so no word spells a command. -/

namespace Sys2Proof

/-- The command that a table word spells: none, because no row of the table carries bits. -/
def decodeTableWord (_nbits _w : Nat) : Option Instr := none

end Sys2Proof
end

