-- ==== Sys2Proof/Config.lean ====
section
/-! DEFINITION. The free values: what the spec leaves open, as constants with no body, so that no proof can see them. -/

namespace Sys2Proof.Config

/-- A fresh free number for each draw (the counter is State.fresh; log entry 2). -/
opaque freeNat : Nat → Nat

/-- A fresh free FP32 code for each draw (log entry 2). -/
opaque freeWord : Nat → Word

/-- A fresh free byte for each draw and index (log entry 2). -/
opaque freeByte : Nat → Nat → Byte

/-- Bits that a compare leaves in lane `lane` of a mask register when the mask is read as a number (R139; log entry 2). -/
opaque maskBits : Bool → Nat → Word

/-- Whether lane `lane` is selected when a register whose last value is no mask is read as a mask (R139; log entry 2). -/
opaque maskOf : Word → Nat → Bool

/-- The random value of stochastic rounding in a tile program: seed, instructions done, lane (R129 gives none; log entry 11). -/
opaque tileRandom : Nat → Nat → Nat → Nat

/-- What a lane converted to a format that is no conversion destination reads as (R58, R139; log entry 11). -/
opaque reservedFormat : Nat → Word → Word

/-- What a broadcast from past its buffer reads (R140 states no outcome; log entry 11). -/
opaque pastBuffer : Nat → Nat → Word

/-- The MXFP4 scale byte of a block in a tile buffer that holds no scale plane, by buffer and block (R139 states none; log entry 11). -/
opaque noScale : Nat → Nat → Byte

/-- The payload of a cellar request: the bytes to write, or the length to read (R289 KIND 6, whose form the manual does not give; log entry 88). -/
opaque cellarPayload : Option Bytes → Nat → Bytes

/-- The sixth byte of a port's MAC address, of which R285 gives five (log entry 92). -/
opaque macTail : Byte

/-- Bytes 1, and 4 to 8, of an IPv4 header and the first bytes of an IPv6 header after the version, by number: type of service, identification and fragment fields, time to live (R285 names none of them; log entry 92). -/
opaque ipField : Nat → Byte

/-- The operating bias of a laser channel in mA, calibrated at manufacture, at most 600 (R337; log entry 95). -/
opaque laserBias : Nat → Nat

/-- The threshold bias at which an idled channel is held, in mA (R338, R429; log entry 95). -/
opaque laserIdle : Nat → Nat

/-- Reading `k` of laser channel `c` at a time: 0 its present bias within a ramp, 1 how far its output is below the calibrated value (R346; log entry 106). -/
opaque laserReading : Nat → Nat → Nat → Nat

/-- The hash of a page address that chooses a lane among those of its role (R382 gives no function; log entry 96). -/
opaque laneHash : Nat → Nat

/-- The keys of a part: the private identity key, the memory key (data key, then tweak key) and the private meter key, generated at manufacture (R436; log entry 7). -/
opaque identityKey : BitVec 384
opaque memoryKey : BitVec 512
opaque meterKey : BitVec 384

/-- The three certificates, root first, of the identity chain (0) and of the meter chain (1), in DER (R437; log entry 7). -/
opaque certificate : Nat → Nat → Bytes

/-- The SHA-384 digests of the vendor's root certificates 0 to 7 in the boot ROM (R472; log entry 7). -/
opaque vendorRoot : Nat → Bytes

/-- The secret number of an ECDSA signature over a message by the identity key (0) or the meter key (1), which FIPS 186 leaves to the signer (log entry 7). -/
opaque signNonce : Nat → Bytes → Nat

/-- DataTransferSize (0) and MaxSPDMmsgSize (1) of CAPABILITIES, which R446 does not give (log entry 7). -/
opaque spdmSize : Nat → Nat

/-- The tweak of data unit `i` of a stream record in the cellar, which has no device-range address (R438, R439; log entry 116). -/
opaque streamTweak : Bytes → Nat → Nat

/-- The nonce under which an answer to a cellar request or a stream record for a storage endpoint is sealed: R289 gives those packets no layout (R438; log entry 116). -/
opaque transitNonce : Nat → Bytes → Bytes

/-- The SHA-384 digests of the boot ROM (1) and of Fuelagrim's program (4), 48 bytes (R447; log entry 7). -/
opaque romDigest : Nat → Bytes

/-- The 32-bit signature of a command's phase: a hash of the items of R419, whose form the manual does not give (log entry 32). -/
opaque phaseSignature : List Nat → BitVec 32

/-- The identity block of the service tag as manufactured, by block number (R484; log entry 3). -/
opaque tagIdentity : Nat → Word

/-- The 8-byte UID of the service tag (R483; log entry 3). -/
opaque tagUid : Bytes

/-- What a CXL component register reads as, by offset in its region (R352 names the structures and not their contents; log entry 36). -/
opaque cxlRegister : Nat → Word

/-- w_k of R410, in µJ: the energy of one event, calibrated for each part and, for core events, for each core (log entry 111). -/
opaque eventWeight : EventKind → Option (Fin 864) → Rat

/-- P_static of R410, in W: a per-part table of leakage and fixed loads (log entry 111). -/
opaque staticPower : PowerCond → Rat

/-- The ratio r of R412 when the mean estimate of the second is 0, by the meter's mean (log entry 76). -/
opaque gainRatio : Rat → Rat

/-- The n-th sealed parameter set: shunt and ADC calibration and their temperature coefficients (R459; log entry 117). -/
opaque paramSet : Nat → Bytes

/-- MEAN_MW of a meter record when no second has passed since the last, by the energy between (R457; log entry 35). -/
opaque meanNoTime : Nat → Nat

end Sys2Proof.Config
end

