-- ==== Sys2Proof/Machine/Crypto.lean ====
section
/-! DEFINITION. The cryptography that the manual names by its standards: SHA-384, HMAC and HKDF, AES-256 with XTS and GCM, ECDSA and ECDH on P-384, and X.509 chains (R436 to R443, R447, R472; log entry 7). -/

namespace Sys2Proof.Machine

/-- A big-endian byte string as a number. -/
def beNat (b : Bytes) : Nat := leNat b.reverse

/-- A number as `k` bytes, most significant first. -/
def beBytes (k n : Nat) : Bytes := (leBytes k n).reverse

/-- Zero bytes up to a multiple of `k`. -/
def padTo (k : Nat) (b : Bytes) : Bytes := b ++ List.replicate ((k - b.length % k) % k) 0

/-- Bytewise exclusive or, of the shorter length. -/
def xorBytes (a b : Bytes) : Bytes := List.zipWith (· ^^^ ·) a b

/-! SHA-384 (FIPS 180-4; R437, R447). -/

/-- The round constants: the first 64 bits of the fractional parts of the cube roots of the first 80 primes. -/
def shaK64 : List Nat :=
  [
    0x428a2f98d728ae22, 0x7137449123ef65cd, 0xb5c0fbcfec4d3b2f, 0xe9b5dba58189dbbc,
    0x3956c25bf348b538, 0x59f111f1b605d019, 0x923f82a4af194f9b, 0xab1c5ed5da6d8118,
    0xd807aa98a3030242, 0x12835b0145706fbe, 0x243185be4ee4b28c, 0x550c7dc3d5ffb4e2,
    0x72be5d74f27b896f, 0x80deb1fe3b1696b1, 0x9bdc06a725c71235, 0xc19bf174cf692694,
    0xe49b69c19ef14ad2, 0xefbe4786384f25e3, 0x0fc19dc68b8cd5b5, 0x240ca1cc77ac9c65] ++
  [
    0x2de92c6f592b0275, 0x4a7484aa6ea6e483, 0x5cb0a9dcbd41fbd4, 0x76f988da831153b5,
    0x983e5152ee66dfab, 0xa831c66d2db43210, 0xb00327c898fb213f, 0xbf597fc7beef0ee4,
    0xc6e00bf33da88fc2, 0xd5a79147930aa725, 0x06ca6351e003826f, 0x142929670a0e6e70,
    0x27b70a8546d22ffc, 0x2e1b21385c26c926, 0x4d2c6dfc5ac42aed, 0x53380d139d95b3df,
    0x650a73548baf63de, 0x766a0abb3c77b2a8, 0x81c2c92e47edaee6, 0x92722c851482353b] ++
  [
    0xa2bfe8a14cf10364, 0xa81a664bbc423001, 0xc24b8b70d0f89791, 0xc76c51a30654be30,
    0xd192e819d6ef5218, 0xd69906245565a910, 0xf40e35855771202a, 0x106aa07032bbd1b8,
    0x19a4c116b8d2d0c8, 0x1e376c085141ab53, 0x2748774cdf8eeb99, 0x34b0bcb5e19b48a8,
    0x391c0cb3c5c95a63, 0x4ed8aa4ae3418acb, 0x5b9cca4f7763e373, 0x682e6ff3d6b2b8a3,
    0x748f82ee5defb2fc, 0x78a5636f43172f60, 0x84c87814a1f0ab72, 0x8cc702081a6439ec] ++
  [
    0x90befffa23631e28, 0xa4506cebde82bde9, 0xbef9a3f7b2c67915, 0xc67178f2e372532b,
    0xca273eceea26619c, 0xd186b8c721c0c207, 0xeada7dd6cde0eb1e, 0xf57d4f7fee6ed178,
    0x06f067aa72176fba, 0x0a637dc5a2c898a6, 0x113f9804bef90dae, 0x1b710b35131c471b,
    0x28db77f523047d84, 0x32caab7b40c72493, 0x3c9ebe0a15c9bebc, 0x431d67c49c100d4c,
    0x4cc5d4becb3e42b6, 0x597f299cfc657e2a, 0x5fcb6fab3ad6faec, 0x6c44198c4a475817]

/-- The initial hash value: the same of the square roots of the ninth to sixteenth primes. -/
def shaInit64 : List Nat := [
  0xcbbb9d5dc1059ed8, 0x629a292a367cd507, 0x9159015a3070dd17, 0x152fecd8f70e5939,
  0x67332667ffc00b31, 0x8eb44a8768581511, 0xdb0c2e0d64f98fa7, 0x47b5481dbefa4fa4]

/-- Rotate a 64-bit word right. -/
def ror64 (k x : Nat) : Nat := (x >>> k) ||| ((x <<< (64 - k)) % 2 ^ 64)

/-- One round over the working variables a to h, and the window of the 16 words of the message schedule from its own. -/
def shaRound64 (v w : List Nat) (k : Nat) : List Nat × List Nat :=
  match v, w with
  | [a, b, c, d, e, f, g, h], w0 :: r =>
    let t1 := (h + (ror64 14 e ^^^ ror64 18 e ^^^ ror64 41 e) + ((e &&& f) ^^^ ((2 ^ 64 - 1 - e) &&& g)) + k + w0) % 2 ^ 64
    let t2 := (ror64 28 a ^^^ ror64 34 a ^^^ ror64 39 a) + ((a &&& b) ^^^ (a &&& c) ^^^ (b &&& c))
    let x := r.getD 0 0
    let y := r.getD 13 0
    let n := ((ror64 19 y ^^^ ror64 61 y ^^^ (y >>> 6)) + r.getD 8 0 + (ror64 1 x ^^^ ror64 8 x ^^^ (x >>> 7)) + w0) % 2 ^ 64
    ([(t1 + t2) % 2 ^ 64, a, b, c, (d + t1) % 2 ^ 64, e, f, g], r ++ [n])
  | v, w => (v, w)

/-- The rounds of one block. -/
def shaRounds64 : List Nat → List Nat → List Nat → List Nat
  | [], v, _ => v
  | k :: ks, v, w => shaRounds64 ks (shaRound64 v w k).1 (shaRound64 v w k).2

/-- Big-endian words of 8 bytes. -/
def words64 (b : Bytes) : List Nat := (List.range (b.length / 8)).map fun i => beNat ((b.drop (8 * i)).take 8)

/-- Hash the blocks of 128 bytes that a padded message has. -/
def shaBlocks64 : Nat → List Nat → Bytes → List Nat
  | 0, h, _ => h
  | n + 1, h, b => shaBlocks64 n (List.zipWith (fun x y => (x + y) % 2 ^ 64) h (shaRounds64 shaK64 h (words64 (b.take 128)))) (b.drop 128)

/-- A message with its padding and length. -/
def shaPad64 (b : Bytes) : Bytes := b ++ [0x80] ++ List.replicate ((239 - b.length % 128) % 128) 0 ++ beBytes 16 (8 * b.length)

/-- SHA-384 of a byte string, 48 bytes. -/
def sha384 (b : Bytes) : Bytes := ((shaBlocks64 ((shaPad64 b).length / 128) shaInit64 (shaPad64 b)).take 6).flatMap (beBytes 8)

/-! HMAC and HKDF (RFC 2104, RFC 5869; R442). -/

/-- HMAC-SHA-384. -/
def hmac384 (key msg : Bytes) : Bytes :=
  let k := padTo 128 (if key.length ≤ 128 then key else sha384 key)
  sha384 (k.map (· ^^^ 0x5C#8) ++ sha384 (k.map (· ^^^ 0x36#8) ++ msg))

/-- HKDF-SHA-384 for an output of one hash block or less. -/
def hkdf384 (salt ikm info : Bytes) (len : Nat) : Bytes := (hmac384 (hmac384 salt ikm) (info ++ [1])).take len

/-! AES-256 (FIPS 197; R439, R443). -/

/-- Multiplication by x in GF(2^8). -/
def xtime (b : Byte) : Byte := (b <<< 1) ^^^ (if b.getLsbD 7 then 0x1B#8 else 0#8)

/-- Multiplication in GF(2^8): Horner over the bits of `a`, bit 7 first. -/
def gmul (a b : Byte) : Byte := [7, 6, 5, 4, 3, 2, 1, 0].foldl (fun acc i => xtime acc ^^^ (if a.getLsbD i then b else 0#8)) 0#8

/-- The inverse in GF(2^8), 0 of 0: the power 254. -/
def ginv (b : Byte) : Byte :=
  let s1 := gmul b b
  let s2 := gmul s1 s1
  let s3 := gmul s2 s2
  let s4 := gmul s3 s3
  let s5 := gmul s4 s4
  let s6 := gmul s5 s5
  gmul (gmul (gmul s1 s2) (gmul s3 s4)) (gmul (gmul s5 s6) (gmul s6 s6))

/-- SubBytes and its inverse on one byte. -/
def sbox (b : Byte) : Byte := let i := ginv b; i ^^^ i.rotateLeft 1 ^^^ i.rotateLeft 2 ^^^ i.rotateLeft 3 ^^^ i.rotateLeft 4 ^^^ 0x63#8
def sboxInv (b : Byte) : Byte := ginv (b.rotateLeft 1 ^^^ b.rotateLeft 3 ^^^ b.rotateLeft 6 ^^^ 0x05#8)

/-- The key schedule, newest word first: `i` the number of the next word, `rc` the round constant. -/
def keyWords : Nat → Nat → Byte → List Bytes → List Bytes
  | 0, _, _, ws => ws
  | n + 1, i, rc, ws =>
    let t := ws.headD []
    let t := if i % 8 = 0 then xorBytes ((t.drop 1 ++ t.take 1).map sbox) [rc, 0, 0, 0] else if i % 8 = 4 then t.map sbox else t
    keyWords n (i + 1) (if i % 8 = 0 then xtime rc else rc) (xorBytes (ws.getD 7 []) t :: ws)

/-- The 15 round keys of a 32-byte key. -/
def roundKeys (key : Bytes) : List Bytes :=
  let w := (keyWords 52 8 1 ((List.range 8).map fun i => (key.drop (4 * i)).take 4).reverse).reverse
  (List.range 15).map fun r => ((w.drop (4 * r)).take 4).flatten

/-- ShiftRows by `k` columns a row: byte r + 4c comes from column c + k r (3 for the inverse). -/
def shiftRows (k : Nat) (s : Bytes) : Bytes := (List.range 16).map fun i => s.getD (i % 4 + 4 * ((i / 4 + k * (i % 4)) % 4)) 0

/-- MixColumns with the coefficients of its first row. -/
def mixCols (m s : Bytes) : Bytes :=
  (List.range 16).map fun i => ((List.range 4).map fun j => gmul (m.getD ((j + 4 - i % 4) % 4) 0) (s.getD (4 * (i / 4) + j) 0)).foldl (· ^^^ ·) 0#8

/-- AES-256 of one block. -/
def aesEnc (key blk : Bytes) : Bytes :=
  match roundKeys key with
  | [] => blk
  | k0 :: ks =>
    let s := (ks.take 13).foldl (fun s k => xorBytes (mixCols [2, 3, 1, 1] (shiftRows 1 (s.map sbox))) k) (xorBytes blk k0)
    xorBytes (shiftRows 1 (s.map sbox)) (ks.getD 13 [])

/-- The inverse of AES-256 on one block. -/
def aesDec (key blk : Bytes) : Bytes :=
  match (roundKeys key).reverse with
  | [] => blk
  | k14 :: ks =>
    let s := (ks.take 13).foldl (fun s k => mixCols [14, 11, 13, 9] (xorBytes ((shiftRows 3 s).map sboxInv) k)) (xorBytes blk k14)
    xorBytes ((shiftRows 3 s).map sboxInv) (ks.getD 13 [])

/-! XTS-AES-256 on data units of whole blocks (IEEE Std 1619-2018; R439). -/

/-- The tweak of the next block: multiplication by the primitive element. -/
def xtsNext (t : Nat) : Nat := (2 * t % 2 ^ 128) ^^^ (if 2 ^ 127 ≤ t then 0x87 else 0)

/-- The blocks of a data unit from tweak `t`, under a block function. -/
def xtsBlocks (f : Bytes → Bytes) : Nat → Nat → Bytes → Bytes
  | 0, _, _ => []
  | n + 1, t, b => xorBytes (f (xorBytes (b.take 16) (leBytes 16 t))) (leBytes 16 t) ++ xtsBlocks f n (xtsNext t) (b.drop 16)

/-- Encrypt the 128-byte data unit whose tweak is `u` under a data key and a tweak key. -/
def xtsEncrypt (key : Bytes) (u : Nat) (b : Bytes) : Bytes := xtsBlocks (aesEnc (key.take 32)) 8 (leNat (aesEnc (key.drop 32) (leBytes 16 u))) b

/-- Decrypt such a data unit. -/
def xtsDecrypt (key : Bytes) (u : Nat) (b : Bytes) : Bytes := xtsBlocks (aesDec (key.take 32)) 8 (leNat (aesEnc (key.drop 32) (leBytes 16 u))) b

/-! AES-256-GCM (NIST SP 800-38D; R443). -/

/-- Multiplication in GF(2^128), bit 0 of a block its most significant. -/
def ghashMul (x y : Nat) : Nat :=
  ((List.range 128).foldl (fun (a : Nat × Nat) i =>
    (if x.testBit (127 - i) then a.1 ^^^ a.2 else a.1, (a.2 >>> 1) ^^^ (if a.2 % 2 = 1 then 0xE1 <<< 120 else 0))) (0, y)).1

/-- GHASH of whole blocks. -/
def ghash (h : Nat) : Nat → Nat → Bytes → Nat
  | 0, y, _ => y
  | n + 1, y, b => ghash h n (ghashMul (y ^^^ beNat (b.take 16)) h) (b.drop 16)

/-- The counter-mode stream of `n` blocks from counter `c`. -/
def gctr (key nonce : Bytes) : Nat → Nat → Bytes
  | 0, _ => []
  | n + 1, c => aesEnc key (nonce ++ beBytes 4 c) ++ gctr key nonce n (c + 1)

/-- The 16-byte tag of a ciphertext with its additional data. -/
def gcmTag (key nonce aad ct : Bytes) : Bytes :=
  let m := padTo 16 aad ++ padTo 16 ct ++ beBytes 8 (8 * aad.length) ++ beBytes 8 (8 * ct.length)
  xorBytes (beBytes 16 (ghash (beNat (aesEnc key (List.replicate 16 0))) (m.length / 16) 0 m)) (aesEnc key (nonce ++ beBytes 4 1))

/-- Seal a plaintext under a key and a 12-byte nonce: the ciphertext and its tag. -/
def gcmSeal (key nonce aad plain : Bytes) : Bytes :=
  let ct := xorBytes plain (gctr key nonce (ceilDiv plain.length 16) 2)
  ct ++ gcmTag key nonce aad ct

/-! P-384 (FIPS 186-5, SP 800-186; R436, R442). -/

/-- The prime of the field, the order of the group, and the constant b of the curve. -/
abbrev p384 : Nat := 2 ^ 384 - 2 ^ 128 - 2 ^ 96 + 2 ^ 32 - 1
abbrev n384 : Nat := 0xffffffffffffffffffffffffffffffffffffffffffffffffc7634d81f4372ddf581a0db248b0a77aecec196accc52973
abbrev b384 : Nat := 0xb3312fa7e23ee7e4988e056be3f82d19181d9c6efe8141120314088f5013875ac656398d8a2ed19d2a85c8edd3ec2aef

/-- A point in Jacobian coordinates; z is 0 at infinity. -/
structure Jac where
  x : Nat
  y : Nat
  z : Nat
  deriving DecidableEq, Repr

/-- The base point. -/
def g384 : Jac :=
  { x := 0xaa87ca22be8b05378eb1c71ef320ad746e1d3b628ba79b9859f741e082542a385502f25dbf55296c3a545e3872760ab7
    y := 0x3617de4a96262c6f5d9e98bf9292dc29f8f41dbd289a147ce9da3113b5f0b8c00a60b1ce1d7e819d7a431d7c90ea0e5f
    z := 1 }

/-- x to a power, modulo m, over the bits of the exponent. -/
def powMod (m : Nat) (e : Nat) : Nat → Nat → Nat → Nat
  | 0, _, r => r
  | n + 1, x, r => powMod m (e / 2) n (x * x % m) (if e % 2 = 1 then r * x % m else r)

/-- The inverse modulo a prime below 2^384. -/
def invMod (m x : Nat) : Nat := powMod m (m - 2) 384 x 1

/-- a - b modulo the prime of the field. -/
def subP (a b : Nat) : Nat := (a + (p384 - b % p384)) % p384

/-- Twice a point, on a curve with a = -3. -/
def Jac.double (q : Jac) : Jac :=
  let d := q.z * q.z % p384
  let g := q.y * q.y % p384
  let b := q.x * g % p384
  let a := 3 * (subP q.x d * (q.x + d) % p384) % p384
  let x := subP (a * a) (8 * b)
  { x := x, y := subP (a * subP (4 * b) x) (8 * (g * g % p384)), z := subP (subP ((q.y + q.z) * (q.y + q.z)) g) d }

/-- The sum of two points. -/
def Jac.add (q r : Jac) : Jac :=
  if q.z = 0 then r
  else if r.z = 0 then q
  else
    let z1 := q.z * q.z % p384
    let z2 := r.z * r.z % p384
    let u1 := q.x * z2 % p384
    let u2 := r.x * z1 % p384
    let s1 := q.y * (r.z * z2 % p384) % p384
    let s2 := r.y * (q.z * z1 % p384) % p384
    let h := subP u2 u1
    let w := subP s2 s1
    if h = 0 then (if w = 0 then q.double else { x := 1, y := 1, z := 0 })
    else
      let hh := h * h % p384
      let hhh := h * hh % p384
      let v := u1 * hh % p384
      let x := subP (subP (w * w) hhh) (2 * v)
      { x := x, y := subP (w * subP v x) (s1 * hhh), z := q.z * r.z % p384 * h % p384 }

/-- A multiple of a point: `n` bits of the factor, the highest first. -/
def Jac.mul (k : Nat) (q : Jac) : Nat → Jac → Jac
  | 0, acc => acc
  | n + 1, acc => Jac.mul k q n (if k.testBit n then acc.double.add q else acc.double)

/-- The affine coordinates of a point that is not at infinity. -/
def Jac.affine (q : Jac) : Nat × Nat :=
  let i := invMod p384 q.z
  let i2 := i * i % p384
  (q.x * i2 % p384, q.y * (i2 * i % p384) % p384)

/-- The multiple of a point by a factor below 2^384. -/
def Jac.times (k : Nat) (q : Jac) : Jac := Jac.mul k q 384 { x := 1, y := 1, z := 0 }

/-- The 97-byte uncompressed encoding of a point (R442). -/
def encodePoint (q : Nat × Nat) : Bytes := 4#8 :: (beBytes 48 q.1 ++ beBytes 48 q.2)

/-- The point that a 97-byte uncompressed encoding gives, when it lies on the curve. -/
def decodePoint (b : Bytes) : Option Jac :=
  let x := beNat ((b.drop 1).take 48)
  let y := beNat (b.drop 49)
  if b.length = 97 ∧ byteAt b 0 = 4 ∧ x < p384 ∧ y < p384 ∧ y * y % p384 = (x * x * x + (p384 - 3) * x + b384) % p384 then some { x := x, y := y, z := 1 } else none

/-- The public key of a private key. -/
def publicKey (d : Nat) : Bytes := encodePoint (g384.times d).affine

/-- ECDSA P-384 with SHA-384 over a message: `k` the secret number of the signature; r and s, 48 bytes each, big-endian (R437, R472). -/
def ecdsaSign (d k : Nat) (msg : Bytes) : Bytes :=
  let r := (g384.times k).affine.1 % n384
  beBytes 48 r ++ beBytes 48 (invMod n384 k * (beNat (sha384 msg) + r * d) % n384)

/-- An ECDSA P-384 signature over a message whose digest is `z` verifies under a public key. -/
def ecdsaVerify (key : Bytes) (z r s : Nat) : Bool :=
  match decodePoint key with
  | none => false
  | some q =>
    let w := invMod n384 s
    let t := (g384.times (z * w % n384)).add (q.times (r * w % n384))
    decide (0 < r ∧ r < n384 ∧ 0 < s ∧ s < n384) && t.z != 0 && t.affine.1 % n384 == r

/-! X.509 chains in DER (R437, R440). -/

/-- One DER element: its tag, its whole encoding, its contents, and the bytes after it. -/
def derNext (b : Bytes) : Option (Nat × Bytes × Bytes × Bytes) :=
  let l := byteAt b 1
  let k := if l < 128 then 0 else l - 128
  let n := if l < 128 then l else beNat ((b.drop 2).take k)
  if 2 + k + n ≤ b.length ∧ 2 ≤ b.length ∧ k ≤ 4 ∧ l ≠ 128 then some (byteAt b 0, b.take (2 + k + n), (b.drop (2 + k)).take n, b.drop (2 + k + n)) else none

/-- The elements of a byte string, tag, encoding and contents of each, when it holds whole elements only. -/
def derAll : Nat → Bytes → Option (List (Nat × Bytes × Bytes))
  | 0, b => if b.isEmpty then some [] else none
  | n + 1, b =>
    if b.isEmpty then some []
    else match derNext b with
      | none => none
      | some (t, e, c, r) => (derAll n r).map fun l => (t, e, c) :: l

/-- The elements of a constructed element's contents. -/
def derList (b : Bytes) : List (Nat × Bytes × Bytes) := (derAll b.length b).getD []

/-- What the acceptance of a certificate rests on: the signed part, the public key when it is one on P-384, and the signature when it is ECDSA with SHA-384. -/
structure Cert where
  whole : Bytes
  tbs : Bytes
  key : Option Bytes
  sig : Option (Nat × Nat)
  deriving DecidableEq, Repr

/-- Algorithm identifiers: ecdsa-with-SHA384, and id-ecPublicKey with secp384r1. -/
def oidEcdsa384 : Bytes := [0x30, 0x0A, 0x06, 0x08, 0x2A, 0x86, 0x48, 0xCE, 0x3D, 0x04, 0x03, 0x03]
def oidKey384 : Bytes := [0x30, 0x10, 0x06, 0x07, 0x2A, 0x86, 0x48, 0xCE, 0x3D, 0x02, 0x01, 0x06, 0x05, 0x2B, 0x81, 0x04, 0x00, 0x22]

/-- The public key of a SubjectPublicKeyInfo. -/
def spkiKey (b : Bytes) : Option Bytes :=
  match derList b with
  | [(_, alg, _), (3, _, bits)] => if alg == oidKey384 && byteAt bits 0 == 0 then some (bits.drop 1) else none
  | _ => none

/-- A certificate: version, serial, algorithm, issuer, validity, subject and key stand in that order; the version may be absent. -/
def certOf (e : Bytes) : Option Cert :=
  match derList e with
  | [(0x30, whole, body)] =>
    match derList body with
    | [(0x30, tbs, inner), (_, alg, _), (3, _, bits)] =>
      let f := derList inner
      let f := if (f.head?.map (·.1)) == some 0xA0 then f.tail else f
      let key := match f.drop 5 with | (0x30, _, spki) :: _ => spkiKey spki | _ => none
      let sig := match derList (bits.drop 1) with
        | [(0x30, _, rs)] => (match derList rs with | [(2, _, r), (2, _, s)] => some (beNat r, beNat s) | _ => none)
        | _ => none
      some { whole := whole, tbs := tbs, key := key, sig := if alg == oidEcdsa384 then sig else none }
    | _ => none
  | _ => none

/-- The certificates of a chain, root first. -/
def chainCerts (b : Bytes) : List Cert :=
  match derAll b.length b with
  | none => []
  | some l => let cs := l.map fun x => certOf x.2.1; if cs.all (·.isSome) then cs.filterMap id else []

/-- A certificate's signature verifies under its issuer's key. -/
def Cert.signedBy (c : Cert) (issuer : Option Bytes) : Bool :=
  match issuer, c.sig with
  | some k, some (r, s) => ecdsaVerify k (beNat (sha384 c.tbs)) r s
  | _, _ => false

/-- Every certificate of a chain is signed by the one before it, the first by `issuer`. -/
def signedDown (issuer : Option Bytes) : List Cert → Bool
  | [] => true
  | c :: r => c.signedBy issuer && signedDown c.key r

/-- A chain is accepted: its root's digest is among those given, every signature verifies under its issuer's key, and the leaf's key is on P-384 (R440). -/
def chainVerifies (roots : List Bytes) (cs : List Cert) : Bool :=
  match cs.head?, cs.getLast? with
  | some root, some leaf => roots.contains (sha384 root.whole) && signedDown root.key cs && ((leaf.key.bind decodePoint).isSome)
  | _, _ => false

/-- The public key that a chain's leaf certifies. -/
def chainKey (cs : List Cert) : Bytes := (cs.getLast?.bind (·.key)).getD []

/-- The pairwise key of a private identity key with a peer's public key (R442). -/
def pairKey (d : Nat) (own peer : Bytes) : Bytes :=
  let z := match decodePoint peer with | some q => beBytes 48 (q.times d).affine.1 | none => []
  let lo := if beNat ((own.drop 1).take 48) ≤ beNat ((peer.drop 1).take 48) then (own, peer) else (peer, own)
  hkdf384 (List.replicate 48 0) z ([0x50, 0x4C, 0x59, 0x4E, 0x55, 0x4C, 0x41, 0x20, 0x50, 0x46, 0x54, 0x20, 0x50, 0x41, 0x49, 0x52, 0x20, 0x31] ++ lo.1 ++ lo.2) 32

/-- The vendor root whose digest and signatures an image's signature block carries (R472): the number of a root certificate, when the chain of three and the signature over the bytes before the block verify. -/
def imageRoot (roots : List Bytes) (b : Bytes) : Option Nat :=
  let at_ := field b 16 4
  let n := field b at_ 4
  let cs := chainCerts ((b.drop (at_ + 4)).take n)
  let sig := b.drop (at_ + 4 + ceilDiv n 4 * 4)
  if cs.length = 3 ∧ chainVerifies roots cs = true ∧
      ecdsaVerify (chainKey cs) (beNat (sha384 (b.take at_))) (beNat (sig.take 48)) (beNat ((sig.drop 48).take 48)) = true
  then (cs.head?).bind fun r => roots.findIdx? fun d => d == sha384 r.whole
  else none

end Sys2Proof.Machine
end

