-- ==== Sys2Proof/Machine/Num.lean ====
section
/-! DEFINITION. Number formats, exact values, rounding, saturation, scales and the vector engine's functions (02_number_formats.md, R109). -/

namespace Sys2Proof.Machine

/-- The exact value of a code: NaN, an infinity, or ± m × 2^e with a signed zero (R50, R51). -/
inductive Val where
  | nan
  | inf (neg : Bool)
  | fin (neg : Bool) (m : Nat) (e : Int)
  deriving DecidableEq, Repr

/-- Multiply by 2^k, exactly (R55). -/
def Val.scale (v : Val) (k : Int) : Val :=
  match v with
  | .nan => .nan
  | .inf s => .inf s
  | .fin s m e => .fin s m (e + k)

/-- Negate. -/
def Val.neg (v : Val) : Val :=
  match v with
  | .nan => .nan
  | .inf s => .inf (!s)
  | .fin s m e => .fin (!s) m e

/-- The magnitude. -/
def Val.abs (v : Val) : Val :=
  match v with
  | .nan => .nan
  | .inf _ => .inf false
  | .fin _ m e => .fin false m e

/-- The value of an integer. -/
def Val.ofInt (i : Int) : Val := .fin (decide (i < 0)) i.natAbs 0

/-- m × 2^e as an integer multiple of 2^b, for b ≤ e. -/
def shiftTo (m : Nat) (e b : Int) : Nat := m * 2 ^ (e - b).toNat

/-- Order of two finite values. -/
def finLt (s : Bool) (m : Nat) (e : Int) (t : Bool) (n : Nat) (f : Int) : Bool :=
  let b := min e f
  let x : Int := (if s then -1 else 1) * (shiftTo m e b : Int)
  let y : Int := (if t then -1 else 1) * (shiftTo n f b : Int)
  decide (x < y) || (decide (x = y) && s && !t)

/-- a < b with −0 below +0; false when either is NaN (R109, max and min). -/
def Val.ltOrd : Val → Val → Bool
  | .nan, _ => false
  | _, .nan => false
  | .inf s, .inf t => s && !t
  | .inf s, .fin .. => s
  | .fin .., .inf t => !t
  | .fin s m e, .fin t n f => finLt s m e t n f

/-- The compare of R109: numeric less-than, false on NaN; ±0 are equal. -/
def Val.lt (a b : Val) : Bool :=
  match a, b with
  | .fin _ 0 _, .fin _ 0 _ => false
  | _, _ => a.ltOrd b

/-- Exact sum (IEEE 754-2019: an exact zero sum of unlike signs is +0). -/
def Val.add : Val → Val → Val
  | .nan, _ => .nan
  | _, .nan => .nan
  | .inf s, .inf t => if s = t then .inf s else .nan
  | .inf s, .fin .. => .inf s
  | .fin .., .inf t => .inf t
  | .fin s m e, .fin t n f =>
    if m = 0 ∧ n = 0 then .fin (s && t) 0 0
    else
      let b := min e f
      let x : Int := (if s then -1 else 1) * (shiftTo m e b : Int) + (if t then -1 else 1) * (shiftTo n f b : Int)
      .fin (decide (x < 0)) x.natAbs b

/-- Exact product. -/
def Val.mul : Val → Val → Val
  | .nan, _ => .nan
  | _, .nan => .nan
  | .inf s, .inf t => .inf (s != t)
  | .inf s, .fin t n _ => if n = 0 then .nan else .inf (s != t)
  | .fin s m _, .inf t => if m = 0 then .nan else .inf (s != t)
  | .fin s m e, .fin t n f => .fin (s != t) (m * n) (e + f)

/-- Format codes of R49. -/
abbrev fFP32 : Nat := 0
abbrev fBF16 : Nat := 1
abbrev fFP16 : Nat := 2
abbrev fSF16 : Nat := 3
abbrev fE4M3 : Nat := 4
abbrev fE5M2 : Nat := 5
abbrev fINT8 : Nat := 6
abbrev fMXFP4 : Nat := 7
abbrev fINT32 : Nat := 8

/-- Precision in bits, hidden bit included (R52, R59). -/
def fmtP (f : Nat) : Nat := match f with | 0 => 24 | 1 => 8 | 2 => 11 | 3 => 11 | 4 => 4 | 5 => 3 | 7 => 2 | _ => 8

/-- Exponent of the smallest subnormal (R52, R59). -/
def fmtQ (f : Nat) : Int := match f with | 0 => -149 | 1 => -133 | 2 => -24 | 3 => -24 | 4 => -9 | 5 => -16 | 7 => -1 | _ => 0

/-- Exponent field width. -/
def fmtE (f : Nat) : Nat := match f with | 0 => 8 | 1 => 8 | 2 => 5 | 3 => 5 | 4 => 4 | 5 => 5 | 7 => 2 | _ => 0

/-- Largest finite magnitude as m × 2^e (R52, R57, R59). -/
def fmtMax (f : Nat) : Nat × Int :=
  match f with
  | 0 => (2 ^ 24 - 1, 104)
  | 1 => (255, 120)
  | 2 => (2047, 5)
  | 3 => (2047, 5)
  | 4 => (14, 5)
  | 5 => (7, 13)
  | 6 => (127, 0)
  | 7 => (3, 1)
  | _ => (2147483647, 0)

/-- Width of an element in bits (R49). -/
def fmtBits (f : Nat) : Nat := match f with | 0 => 32 | 1 => 16 | 2 => 16 | 3 => 16 | 4 => 8 | 5 => 8 | 6 => 8 | 7 => 4 | _ => 32

/-- Formats that carry a per-tensor scale (R49, R55). -/
def fmtScaled (f : Nat) : Bool := f == 3 || f == 4 || f == 5 || f == 6

/-- The canonical NaN code (R52). -/
def fmtNan (f : Nat) : Nat := match f with | 0 => 0x7FC00000 | 1 => 0x7FC0 | 2 => 0x7E00 | 3 => 0x7E00 | 4 => 0x7F | 5 => 0x7E | _ => 0

/-- The exact value of a code of format `f`, scale not applied (R49 to R60). -/
def readCode (f code : Nat) : Val :=
  if f = 6 then Val.ofInt (signed8 code)
  else if f = 8 then Val.ofInt (if code % 2 ^ 32 < 2 ^ 31 then (code % 2 ^ 32 : Nat) else ((code % 2 ^ 32 : Nat) : Int) - 2 ^ 32)
  else
    let fb := fmtP f - 1
    let frac := code % 2 ^ fb
    let ex := (code / 2 ^ fb) % 2 ^ fmtE f
    let s := (code / 2 ^ (fb + fmtE f)) % 2 == 1
    let ones := 2 ^ fmtE f - 1
    if f = 4 then
      if code % 128 = 127 then .nan
      else if ex = 0 then .fin s frac (fmtQ f) else .fin s (2 ^ fb + frac) (fmtQ f + ex - 1)
    else if f ≠ 7 ∧ ex = ones then (if frac = 0 ∧ f ≠ 3 then .inf s else .nan)
    else if ex = 0 then .fin s frac (fmtQ f) else .fin s (2 ^ fb + frac) (fmtQ f + ex - 1)

/-- Rounding modes (R68). -/
inductive Rnd where
  | nearest
  | zero
  /-- Stochastic with the random value r (R69). -/
  | stoch (r : Nat)
  deriving DecidableEq, Repr

/-- The random value of R69 for a 32-bit seed and an element index. -/
def stochR (seed i : Nat) : Nat :=
  let x := (seed % 2 ^ 32) ^^^ ((i % 2 ^ 32 * 0x9E3779B1) % 2 ^ 32)
  let x := x ^^^ (x / 2 ^ 15)
  let x := (x * 0x85EBCA6B) % 2 ^ 32
  let x := x ^^^ (x / 2 ^ 13)
  x / 2 ^ 16

/-- The rounding of an RMODE field for the element of index `i` (R68, R69). -/
def rndOf (rmode seed i : Nat) : Rnd := match rmode with | 0 => .nearest | 1 => .zero | _ => .stoch (stochR seed i)

/-- Divide a magnitude by 2^s and round the quotient to an integer. -/
def roundShift (m s : Nat) (r : Rnd) : Nat :=
  let q := m / 2 ^ s
  let rem := m % 2 ^ s
  match r with
  | .zero => q
  | .nearest => if 2 * rem > 2 ^ s ∨ (2 * rem = 2 ^ s ∧ q % 2 = 1) then q + 1 else q
  | .stoch x => if x < rem * 2 ^ 16 / 2 ^ s then q + 1 else q

/-- Round a magnitude to `p` bits with least exponent `qmin`, as though the exponent had no upper bound (R70 step 1): mantissa and unit exponent. -/
def roundMag (p : Nat) (qmin : Int) (m : Nat) (e : Int) (r : Rnd) : Nat × Int :=
  if m = 0 then (0, qmin)
  else
    let u := max ((Nat.log2 m : Int) + e - ((p : Int) - 1)) qmin
    if u ≤ e then (m * 2 ^ (e - u).toNat, u) else (roundShift m (u - e).toNat r, u)

/-- m × 2^e > n × 2^f. -/
def magGt (m : Nat) (e : Int) (n : Nat) (f : Int) : Bool :=
  let b := min e f
  decide (shiftTo n f b < shiftTo m e b)

/-- Encode a rounded magnitude in a floating-point format. -/
def encodeMag (f : Nat) (s : Bool) (m : Nat) (u : Int) : Nat :=
  let p := fmtP f
  let (m, u) := if m = 2 ^ p then (2 ^ (p - 1), u + 1) else (m, u)
  let body := if m < 2 ^ (p - 1) then m else (u - fmtQ f + 1).toNat * 2 ^ (p - 1) + (m - 2 ^ (p - 1))
  b2n s * 2 ^ (p - 1 + fmtE f) + body

/-- What one conversion gives: the code and the events it counts (R70, R71). -/
structure Conv where
  code : Nat
  sat : Nat := 0
  nonfinite : Nat := 0
  underflow : Nat := 0
  deriving DecidableEq, Repr

/-- The code of ± the largest finite of a format. -/
def maxCode (f : Nat) (s : Bool) : Nat :=
  if f = 6 then unsigned8 (if s then -127 else 127) else encodeMag f s (fmtMax f).1 (fmtMax f).2

/-- The code of ± infinity, for the formats that have one. -/
def infCode (f : Nat) (s : Bool) : Nat := b2n s * 2 ^ (fmtP f - 1 + fmtE f) + (2 ^ fmtE f - 1) * 2 ^ (fmtP f - 1)

/-- Convert an exact value, its scale already removed, to a code of format `f` other than MXFP4 and INT32 (R68 to R71). -/
def convert (f : Nat) (r : Rnd) (sat : Bool) (v : Val) : Conv :=
  match v with
  | .nan => { code := fmtNan f, nonfinite := 1 }
  | .inf s =>
    if f = 3 ∨ f = 4 ∨ f = 6 ∨ sat = true then { code := maxCode f s, nonfinite := 1 } else { code := infCode f s }
  | .fin s m e =>
    if f = 6 then
      let q := if 0 ≤ e then m * 2 ^ e.toNat else roundShift m (-e).toNat r
      if 127 < q then { code := maxCode 6 s, sat := 1 }
      else { code := unsigned8 (if s then -(q : Int) else q), underflow := if q = 0 ∧ m ≠ 0 then 1 else 0 }
    else
      let (q, u) := roundMag (fmtP f) (fmtQ f) m e r
      if magGt q u (fmtMax f).1 (fmtMax f).2 then
        if f = 3 ∨ f = 4 ∨ sat = true ∨ r = .zero then { code := maxCode f s, sat := 1 } else { code := infCode f s }
      else { code := encodeMag f s q u, underflow := if q = 0 ∧ m ≠ 0 then 1 else 0 }

/-- Round an exact value once to FP32, nearest even (R65 step 3, R109). -/
def toF32 (v : Val) : Word := BitVec.ofNat 32 (convert 0 .nearest false v).code

/-- The exact value of an FP32 code. -/
def ofF32 (w : Word) : Val := readCode 0 w.toNat

/-- FP32 one. -/
abbrev f32one : Word := 0x3F800000#32

/-- FP32 add, multiply and fused multiply-add, each rounded once (R109). -/
def fAdd (a b : Word) : Word := toF32 ((ofF32 a).add (ofF32 b))
def fMul (a b : Word) : Word := toF32 ((ofF32 a).mul (ofF32 b))
def fFma (a b c : Word) : Word := toF32 (((ofF32 a).mul (ofF32 b)).add (ofF32 c))
def fNeg (a : Word) : Word := toF32 (ofF32 a).neg
def fSub (a b : Word) : Word := toF32 ((ofF32 a).add (ofF32 b).neg)

/-- Maximum and minimum: NaN when either is NaN, −0 below +0 (R109). -/
def fMax (a b : Word) : Word :=
  match ofF32 a, ofF32 b with
  | .nan, _ => toF32 .nan
  | _, .nan => toF32 .nan
  | x, y => if x.ltOrd y then b else a
def fMin (a b : Word) : Word :=
  match ofF32 a, ofF32 b with
  | .nan, _ => toF32 .nan
  | _, .nan => toF32 .nan
  | x, y => if y.ltOrd x then b else a

/-- Largest r of at most k bits with r² ≤ n, found bit by bit from bit k − 1. -/
def isqrtBits (n : Nat) : Nat → Nat → Nat
  | 0, r => r
  | k + 1, r => isqrtBits n k (if (r + 2 ^ k) * (r + 2 ^ k) ≤ n then r + 2 ^ k else r)

/-- Reciprocal, correctly rounded (R109). -/
def fRcp (a : Word) : Word :=
  match ofF32 a with
  | .nan => toF32 .nan
  | .inf s => toF32 (.fin s 0 0)
  | .fin s m e =>
    if m = 0 then toF32 (.inf s)
    else
      let q := 2 ^ 80 / m
      let st := if 2 ^ 80 % m = 0 then 0 else 1
      toF32 (.fin s (2 * q + st) (-e - 81))

/-- Reciprocal square root, correctly rounded (R109). -/
def fRsqrt (a : Word) : Word :=
  match ofF32 a with
  | .nan => toF32 .nan
  | .inf s => if s then toF32 .nan else toF32 (.fin false 0 0)
  | .fin s m e =>
    if m = 0 then toF32 (.inf s)
    else if s then toF32 .nan
    else
      let odd := (e % 2).toNat
      let m2 := m * 2 ^ odd
      let q := isqrtBits (2 ^ 160 / m2) 81 0
      let st := if q * q * m2 = 2 ^ 160 then 0 else 1
      toF32 (.fin false (2 * q + st) (-((e - odd) / 2) - 81))

/-- 2^(2^−i) in 200-bit fixed point, for i from 0. -/
def exp2Const : Nat → Nat
  | 0 => 2 ^ 201
  | i + 1 => isqrtBits (exp2Const i * 2 ^ 200) 202 0

/-- 2^(F ÷ 2^64) in 200-bit fixed point, by the bits of F from bit 63 down. -/
def exp2Frac (F : Nat) : Nat → Nat → Nat → Nat
  | 0, _, y => y
  | k + 1, c, y =>
    let c' := isqrtBits (c * 2 ^ 200) 202 0
    exp2Frac F k c' (if bit F k then y * c' / 2 ^ 200 else y)

/-- exp2, rounded once to FP32 from a 200-bit value (R109). -/
def fExp2 (a : Word) : Word :=
  match ofF32 a with
  | .nan => toF32 .nan
  | .inf s => if s then toF32 (.fin false 0 0) else toF32 (.inf false)
  | .fin s m e =>
    if m = 0 then f32one
    else
      let top := (Nat.log2 m : Int) + e
      if top < -26 then f32one
      else if 9 ≤ top then (if s then toF32 (.fin false 0 0) else toF32 (.inf false))
      else
        let X : Int := (if s then -1 else 1) * (shiftTo m (e + 64) 0 : Int)
        let X := if e + 64 < 0 then (if s then -1 else 1) * ((m / 2 ^ (-(e + 64)).toNat : Nat) : Int) else X
        let I := X / 2 ^ 64
        let F := (X % 2 ^ 64).toNat
        if F = 0 then toF32 (.fin false 1 I)
        else toF32 (.fin false (2 * exp2Frac F 64 (2 ^ 201) (2 ^ 200) + 1) (I - 201))

/-- The first `k` binary digits of log2 of y in [1, 2), y in 256-bit fixed point. -/
def log2Digits : Nat → Nat → Nat → Nat
  | 0, _, r => r
  | k + 1, y, r =>
    let y2 := y * y / 2 ^ 256
    if 2 ^ 257 ≤ y2 then log2Digits k (y2 / 2) (2 * r + 1) else log2Digits k y2 (2 * r)

/-- log2, rounded once to FP32 from 120 fraction bits (R109). -/
def fLog2 (a : Word) : Word :=
  match ofF32 a with
  | .nan => toF32 .nan
  | .inf s => if s then toF32 .nan else toF32 (.inf false)
  | .fin s m e =>
    if m = 0 then toF32 (.inf true)
    else if s then toF32 .nan
    else
      let L := Nat.log2 m
      let I : Int := L + e
      if m = 2 ^ L then toF32 (Val.ofInt I)
      else
        let R := log2Digits 120 (m * 2 ^ (256 - L)) 0
        let N : Int := I * 2 ^ 120 + R
        if 0 ≤ N then toF32 (.fin false (2 * N.toNat + 1) (-121)) else toF32 (.fin true (2 * (-N).toNat - 1) (-121))

/-- One level of the lane tree of R109: pairs (0, 1), (2, 3) and so on. -/
def sumPairs : List Word → List Word
  | a :: b :: r => fAdd a b :: sumPairs r
  | l => l

/-- The sum across lanes in the fixed tree of R109. -/
def laneSum (l : List Word) : Word :=
  ((sumPairs (sumPairs (sumPairs (sumPairs (sumPairs (sumPairs (sumPairs l))))))).head?).getD 0

/-- The maximum across lanes (R109). -/
def laneMax : List Word → Word
  | [] => 0
  | [a] => a
  | a :: r => fMax a (laneMax r)

/-- The largest magnitude among finite values, or 0 (R73). -/
def amaxOf (vs : List Val) : Val :=
  vs.foldl (fun a v => match v with
    | .fin _ m e => if a.ltOrd (.fin false m e) then .fin false m e else a
    | _ => a) (.fin false 0 0)

/-- An amax as its FP32 entry: rounded toward +infinity, +infinity beyond the largest finite (R73). -/
def amaxCode (v : Val) : Word :=
  match v with
  | .fin _ m e =>
    if m = 0 then 0
    else
      let u := max ((Nat.log2 m : Int) + e - 23) (-149)
      if u ≤ e then toF32 (.fin false m e)
      else
        let s := (u - e).toNat
        let q := if m % 2 ^ s = 0 then m / 2 ^ s else m / 2 ^ s + 1
        if magGt q u (2 ^ 24 - 1) 104 then 0x7F800000#32 else BitVec.ofNat 32 (encodeMag 0 false q u)
  | .inf _ => 0x7F800000#32
  | .nan => 0x7FC00000#32

/-- Qmax of R74. -/
def qmaxOf (f : Nat) : Nat := match f with | 3 => 65504 | 4 => 448 | 5 => 57344 | _ => 127

/-- m × 2^e ≤ Q × 2^k. -/
def leScaled (m : Nat) (e : Int) (Q : Nat) (k : Int) : Bool := !magGt m e Q k

/-- ceil(log2(A ÷ Q)) for A = m × 2^e > 0, exactly (R74). -/
def ceilLog2Div (m : Nat) (e : Int) (Q : Nat) : Int :=
  let k := (Nat.log2 m : Int) + e - (Nat.log2 Q : Int)
  if leScaled m e Q (k - 1) then k - 1 else if leScaled m e Q k then k else if leScaled m e Q (k + 1) then k + 1 else k + 2

/-- Hold an exponent in −127 to +127 (R55). -/
def clampExp (x : Int) : Int := max (-127) (min 127 x)

/-- The scale exponent of R74 from the counted history entries. -/
def deriveExp (f margin : Nat) (initExp cur : Int) (count : Nat) (entries : List Word) : Int :=
  if count = 0 then initExp
  else
    let vs := (entries.map ofF32).filter fun v => v != .nan
    if vs.any fun v => match v with | .inf _ => true | _ => false then 127
    else
      match amaxOf vs with
      | .fin _ m e => if m = 0 then cur else clampExp (ceilLog2Div m e (qmaxOf f) + margin)
      | _ => cur

/-- An MXFP4 block scale byte and element codes, with the events counted for none (R63, R70). -/
def mxBlock (rnd : Nat → Rnd) (vs : List Val) : Nat × List Nat :=
  if vs.any fun v => match v with | .fin .. => false | _ => true then (0xFF, vs.map fun _ => 0)
  else
    match amaxOf vs with
    | .fin _ m e =>
      if m = 0 then (0, vs.map fun _ => 0)
      else
        let x := clampExp ((Nat.log2 m : Int) + e - 2)
        let codes := vs.zipIdx.map fun (v, i) =>
          match v with
          | .fin s m e =>
            let (q, u) := roundMag 2 (-1) m (e - x) (rnd i)
            if magGt q u 3 1 then encodeMag 7 s 3 1 else encodeMag 7 s q u
          | _ => 0
        ((x + 127).toNat, codes)
    | _ => (0, vs.map fun _ => 0)

/-- An E2M1 element under its E8M0 scale byte (R59, R60). -/
def mxValue (scale code : Nat) : Val := if scale = 0xFF then .nan else (readCode 7 code).scale ((scale : Int) - 127)

/-- Exact sum of a group of products (R65 step 2). -/
def sumExact (vs : List Val) : Val :=
  match vs with
  | [] => .fin false 0 0
  | v :: r => r.foldl Val.add v

/-- Split a list into groups of `n`, with fuel for its length. -/
def groupsOf {α : Type} (n : Nat) : Nat → List α → List (List α)
  | 0, _ => []
  | k + 1, l => match l with | [] => [] | _ => l.take n :: groupsOf n k (l.drop n)

/-- The floating-point dot product of R65 over products scaled exactly, from a starting accumulator. -/
def dotF32 (acc : Word) (products : List Val) : Word :=
  (groupsOf 32 products.length products).foldl (fun a g => fAdd a (toF32 (sumExact g))) acc

/-- A saturating INT32 accumulator: its value and whether it has saturated (R66). -/
def satAddI32 (a : Int × Bool) (x : Int) : Int × Bool :=
  if a.2 then a
  else
    let y := a.1 + x
    if 2147483647 < y then (2147483647, true) else if y < -2147483648 then (-2147483648, true) else (y, false)

/-- The INT8 dot product of R66, with whether it saturated. -/
def dotI32 (acc : Int × Bool) (products : List Int) : Int × Bool :=
  (groupsOf 32 products.length products).foldl (fun a g => satAddI32 a g.sum) acc

/-- log2 e rounded to FP32 (R137). -/
abbrev f32log2e : Word := 0x3FB8AA3B#32

/-- An exact value times an FP32 value, rounded once (R128). -/
def fMulV (x : Val) (w : Word) : Word := toF32 (x.mul (ofF32 w))

/-- 1 ÷ (1 + exp2(−x × L)), each step rounded, x exact (R128, R137). -/
def fSigmoid (x : Val) : Word := fRcp (fAdd f32one (fExp2 (fMulV x.neg f32log2e)))

/-- The functions of ACTIVATION, the exact incoming value in and each step rounded (R128, R137). -/
def activation (arg : Nat) (x : Val) : Word :=
  match arg with
  | 0 => if x == .nan then toF32 .nan else fMax (toF32 x) 0
  | 1 =>
    let c := fAdd f32one (fMul 0x3D372713#32 (toF32 (x.mul x)))
    let u := fMul (fMulV x c) 0x3F4C422A#32
    fMulV x (fSigmoid (ofF32 (fMul 0x40000000#32 u)))
  | 2 => fMulV x (fSigmoid x)
  | 3 => fSigmoid x
  | 4 => fSub (fMul 0x40000000#32 (fRcp (fAdd f32one (fExp2 (fMul (fMulV x 0xC0000000#32) f32log2e))))) f32one
  | _ => fExp2 (fMulV x f32log2e)

end Sys2Proof.Machine
end

