-- ==== Sys2Proof/Machine/State.lean ====
section
/-! DEFINITION. The whole state of the module as plain data, the reasons a step can stop, and the state after reset. -/

namespace Sys2Proof.Machine

/-- The reasons a step stops with a fault. -/
inductive Fault where
  /-- Raised by nothing: an access past the end of BAR0 or BAR2 (R351) is discarded by R353 and R362. It stands for an access to an address that no rule gives; safe, as a run would stop. -/
  | outsideBar
  deriving DecidableEq, Repr

/-- The reasons a step is refused. -/
inductive Refusal where
  /-- Raised by the dispatch for a command that has no meaning yet, named as the table names it. Safe: the run stops. -/
  | notModelled (mnemonic : String)
  deriving DecidableEq, Repr

/-- What the module as a whole is doing (R40, R462, R465, R481, R482, R524, R427). -/
inductive RunPhase where
  /-- The hub rails are off (R43). -/
  | off
  /-- Start-up runs (R462, R463). -/
  | boot
  /-- Start-up is complete. -/
  | run
  /-- Start-up halted (R465). -/
  | halted
  /-- The update state (R481). -/
  | update
  /-- A warm reset is in progress (R482). -/
  | warm
  /-- The stopped state (R524). -/
  | stopped
  /-- The thermal shutdown of R427. -/
  | shutdown
  deriving DecidableEq, Repr

/-- The host link (R367, R369). -/
inductive LinkState where
  /-- No link. -/
  | down
  /-- Out of L0, in Recovery. -/
  | recovery
  /-- In L0. -/
  | l0
  deriving DecidableEq, Repr

/-- The four states of a physical core (R24), in the order of the spare map's codes (R479). -/
inductive CoreState where
  /-- In service. -/
  | enabled
  /-- Powered down, may be enabled. -/
  | spare
  /-- Found faulty. -/
  | failed
  /-- Excluded at manufacture. -/
  | fusedOff
  deriving DecidableEq, Repr

/-- The idle state of one core (R429). -/
inductive CoreIdle where
  /-- Running. -/
  | s0
  /-- Clock-gated. -/
  | s1
  /-- Power-gated. -/
  | s2
  deriving DecidableEq, Repr

/-- The memory tiers (R205). -/
inductive Tier where
  /-- Vat memory. -/
  | t1
  /-- HBM4. -/
  | t2
  /-- Granted host memory. -/
  | t3
  /-- The cellar. -/
  | t4
  deriving DecidableEq, Repr

/-- The states of a mapped slab (R219). -/
inductive SlabState where
  /-- Reads +0, no tier. -/
  | unwritten
  /-- In one tier. -/
  | resident
  /-- Being copied. -/
  | migrating
  /-- In a lease under reclaim. -/
  | evacuating
  /-- Data gone. -/
  | lost
  deriving DecidableEq, Repr

/-- Where a fetched command stands (R255, R263). -/
inductive CmdPhase where
  /-- Fetched, not started. -/
  | queued
  /-- Holds its cores, not yet run. -/
  | started
  /-- Its outputs are complete in staging slabs. -/
  | staged
  /-- Its commit waits for a retained slab (R177). -/
  | poolWait
  /-- Its record waits for completion-ring room (R263). -/
  | ringWait
  deriving DecidableEq, Repr

/-- STATE of PORT_LASER_n (R346). -/
inductive LaserState where
  /-- Off. -/
  | dark
  /-- In soft start. -/
  | ramping
  /-- At operating bias. -/
  | lit
  /-- At threshold bias (R429). -/
  | idle
  /-- Ramp paused (R339). -/
  | paused
  /-- Latched off. -/
  | failed
  deriving DecidableEq, Repr

/-- A clock island (R391 to R396). -/
inductive IslandState where
  /-- Clock runs. -/
  | running
  /-- CLOSING is marked. -/
  | closing
  /-- Past the point of no return. -/
  | closed
  /-- A wake is in progress. -/
  | waking
  /-- Unreachable or failed (R396). -/
  | failed
  deriving DecidableEq, Repr

/-- The RF state of the service tag (R483, ISO/IEC 15693). -/
inductive TagMode where
  /-- Answers Inventory. -/
  | ready
  /-- Stay Quiet was obeyed. -/
  | quiet
  /-- Select was obeyed. -/
  | selected
  deriving DecidableEq, Repr

/-- What a command's commit does to one scale-state record: the fields read at the command's start (R75, R80) and what the run found. -/
structure RecUpd where
  /-- 48 bits: address of the record (R80). -/
  addr : Nat := 0
  /-- FMT read at the start (R78). -/
  fmt : Nat := 0
  /-- MARGIN read at the start (R78). -/
  margin : Nat := 0
  /-- HIST_LEN read at the start (R78). -/
  histLen : Nat := 1
  /-- INIT_EXP read at the start (R78). -/
  initExp : Int := 0
  /-- the amax to append; none when an exchange adds counts only (R78) (R73). -/
  amax : Option Word := none
  /-- elements saturated (R70). -/
  sat : Nat := 0
  /-- NaN and infinite inputs (R70). -/
  nonfinite : Nat := 0
  /-- non-zero inputs rounded to zero (R71). -/
  underflow : Nat := 0
  deriving DecidableEq, Repr

/-- A tile handed to the transmit path for a peer window (R146, R301). -/
structure TileSend where
  /-- destination endpoint (R301). -/
  ep : Nat := 0
  /-- destination partition (R301). -/
  part : Nat := 0
  /-- receive window (R301). -/
  window : Nat := 0
  /-- the cut whose axis carries it (R301). -/
  cut : Nat := 0
  /-- attempt number (R302). -/
  attempt : Nat := 0
  /-- bytes sent in the attempt (R291). -/
  bytes : Nat := 0
  /-- its first tile has been sent and its notice has not (R302). -/
  started : Bool := false
  /-- tiles not yet accepted: offset and bytes of each of their pieces (R147). -/
  todo : List (List (Nat × Bytes)) := []
  /-- SEQs of its tiles (R297). -/
  seqs : List Nat := []
  deriving DecidableEq, Repr

/-- What a command changes at its commit besides device-range bytes and scale-state records. -/
inductive Effect where
  /-- Nothing more. -/
  | none
  /-- MAP_REGION (R202); base in slabs. -/
  | mapRegion (part base slabs kind model : Nat) (pin : Bool)
  /-- UNMAP_REGION (R203). -/
  | unmapRegion (part base slabs : Nat)
  /-- REGISTER_GSET (R159). -/
  | registerGset (addr : Nat) (keys : List Nat)
  /-- RELEASE_GSET (R257). -/
  | releaseGset (addr : Nat)
  /-- STREAM_CONFIG (R175). -/
  | streamConfig (cfg : Bytes)
  /-- STEP_MARK (R176). -/
  | stepMark
  /-- A collective commits (R311). -/
  | collective (coll : Nat)
  deriving DecidableEq, Repr

/-- The staged results of a command that has run and not committed (R263). -/
structure Staged where
  /-- output bytes in staging slabs (R263). -/
  writes : List Host.Cell := []
  /-- scale-state records to update (R75). -/
  recs : List RecUpd := []
  /-- attempts into peer windows (R146). -/
  sends : List TileSend := []
  /-- what else the commit changes (R257). -/
  effect : Effect := .none
  /-- slabs that the command writes: key, tier and near B-die of the staging slab (R213). -/
  slabs : List (Nat × Tier × Option Nat) := []
  /-- spans that it writes: address, bytes (R381). -/
  spans : List (Nat × Nat) := []
  /-- slabs written only in part (R263). -/
  partly : List Nat := []
  /-- slabs that still wait for a staging slab (R213). -/
  need : List Nat := []
  /-- every staging slab lies in T1 (R159). -/
  t1Only : Bool := false
  /-- slabs that the run read (R232). -/
  reads : List Nat := []
  /-- tier that the optimiser step gives the tensors it writes, by slab (R156). -/
  tiers : List (Nat × Tier) := []
  deriving DecidableEq, Repr

/-- A fetched command of a queue (R255, R256). -/
structure Cmd where
  /-- 16 bits: submission index (R261). -/
  idx : Nat := 0
  /-- the 128-byte command entry (R256). -/
  entry : Bytes := []
  /-- 16 bits: status of the entry checks (R260). -/
  verdict : Nat := 0
  /-- 8 bits: runs, saturating (R261). -/
  attempts : Nat := 0
  /-- re-runs that consumed RETRY_MAX (R267). -/
  reruns : Nat := 0
  /-- queue waiting time so far (R276). -/
  waitUs : Nat := 0
  /-- start of the waiting interval in progress (R276). -/
  waitFrom : Option Nat := none
  /-- time of its first start (R261). -/
  startUs : Option Nat := none
  /-- where it stands (R263). -/
  phase : CmdPhase := .queued
  /-- logical cores it holds (R268). -/
  cores : List Nat := []
  /-- the pieces of each of those cores, tile and K range (R118). -/
  pieces : List (List (Nat × Nat)) := []
  /-- runs of slabs unmapped since it started: first slab, slabs (R263). -/
  unmapped : List (Nat × Nat) := []
  /-- time from which it holds them (R269). -/
  coreFrom : Nat := 0
  /-- class 0: within its envelope (R271). -/
  envelope : Bool := false
  /-- staged results (R263). -/
  staged : Staged := {}
  /-- 16 bits: final status while its record waits (R261). -/
  result : Nat := 0
  /-- a tile waits for hub-ingress credit (R147). -/
  tileWait : Bool := false
  /-- hub-ingress credit units held (R273). -/
  hubUnits : Nat := 0
  /-- its result has been computed (R263). -/
  ran : Bool := false
  /-- admission order (R161). -/
  no : Nat := 0
  /-- it holds a request of the steward's slow path (R491). -/
  slow : Bool := false
  /-- the steward has made the placement that it needs in order to start (R217). -/
  placed : Bool := false
  deriving DecidableEq, Repr

/-- The counters of a queue or partition page (R277). -/
structure Acct where
  /-- 16 × 32 bits: ACCT_HIST_k, saturating (R277). -/
  hist : List Nat := List.replicate 16 0
  /-- 64 bits: ACCT_WAIT_SUM (R277). -/
  waitSum : Nat := 0
  /-- 32 bits: ACCT_PREEMPT, saturating (R277). -/
  preempt : Nat := 0
  /-- 32 bits: ACCT_BROKEN, saturating (R277). -/
  broken : Nat := 0
  /-- 4 × 32 bits: PART_ACCT_RES_WAIT_r, saturating (R277). -/
  resWait : List Nat := List.replicate 4 0
  /-- 32 bits: PART_ACCT_C0_OUTSIDE, saturating (R277). -/
  c0Outside : Nat := 0
  deriving DecidableEq, Repr

/-- One queue: its registers (R253) and its fetched commands. -/
structure Queue where
  /-- 4 bits: HQ_CFG.PARTITION (R253). -/
  part : Nat := 0
  /-- 2 bits: HQ_CFG.CLASS (R253). -/
  cls : Nat := 1
  /-- HQ_CFG.ENABLE (R253). -/
  enable : Bool := false
  /-- HQ_CFG.ASSIGNED (R253). -/
  assigned : Bool := false
  /-- 4 bits: HQ_CFG.RETRY_MAX (R253). -/
  retryMax : Nat := 3
  /-- 4 bits: HQ_CFG.LOG2_ENTRIES (R253). -/
  log2 : Nat := 4
  /-- 8 bits: HQ_CFG.QWEIGHT (R253). -/
  qweight : Nat := 1
  /-- 32 bits: HQ_SQ_BASE_LO (R253). -/
  sqLo : Word := 0
  /-- 20 bits: HQ_SQ_BASE_HI (R253). -/
  sqHi : Word := 0
  /-- 32 bits: HQ_CQ_BASE_LO (R253). -/
  cqLo : Word := 0
  /-- 20 bits: HQ_CQ_BASE_HI (R253). -/
  cqHi : Word := 0
  /-- 16 bits: HQ_SQ_TAIL (R253). -/
  sqTail : Nat := 0
  /-- 16 bits: HQ_SQ_HEAD (R253). -/
  sqHead : Nat := 0
  /-- 16 bits: HQ_CQ_HEAD (R253). -/
  cqHead : Nat := 0
  /-- 16 bits: HQ_CQ_TAIL (R253). -/
  cqTail : Nat := 0
  /-- 32 bits: HQ_COMMIT_SEQ, wraps (R253). -/
  seq : Nat := 0
  /-- 16 bits: HQ_KILL.INDEX (R253). -/
  killIndex : Nat := 0
  /-- HQ_KILL.DONE (R253). -/
  killDone : Bool := false
  /-- HQ_KILL.TOO_LATE (R253). -/
  tooLate : Bool := false
  /-- HQ_STATUS.RING_ERROR (R253). -/
  ringError : Bool := false
  /-- HQ_STATUS.CQ_FULL (R253). -/
  cqFull : Bool := false
  /-- 16 bits: HQ_STATUS.LAST_ERROR (R253). -/
  lastError : Nat := 0
  /-- PHASE of the next record: 1 on the first pass (R261). -/
  phase : Bool := true
  /-- virtual time (R269). -/
  vt : Rat := 0
  /-- it has held no command since its last ready one (R269). -/
  idle : Bool := true
  /-- fetched commands, oldest first (R255). -/
  fifo : List Cmd := []
  /-- records held while the function is in D3hot or for ring room of a receive or landing queue (R350). -/
  heldRecs : List Bytes := []
  /-- a landing record waits for ring room (R364). -/
  landPending : Bool := false
  /-- accounting counters (R277). -/
  acct : Acct := {}
  deriving DecidableEq, Repr

/-- An attempt in progress into a receive window (R302). -/
structure WinAttempt where
  /-- sender endpoint (R302). -/
  ep : Nat := 0
  /-- sender partition (R302). -/
  part : Nat := 0
  /-- 32 bits: attempt number (R302). -/
  attempt : Nat := 0
  /-- bytes received (R302). -/
  got : Nat := 0
  /-- staging slabs held: key, tier, near B-die (R300). -/
  slabs : List (Nat × Tier × Option Nat) := []
  /-- tile bytes in staging slabs (R300). -/
  writes : List Host.Cell := []
  /-- a tile broke the window's limits (R302). -/
  bad : Bool := false
  /-- BYTES and TAG of the commit notice (R302). -/
  notice : Option (Nat × Nat) := none
  /-- arrival order of its commit notice (R302). -/
  order : Nat := 0
  /-- time of the first tile (R302). -/
  firstUs : Option Nat := none
  /-- held for completion-ring room (R302). -/
  held : Bool := false
  /-- its commit waits for a retained slab (R177). -/
  poolWait : Bool := false
  /-- time from which it does (R177). -/
  poolFrom : Option Nat := none
  deriving DecidableEq, Repr

/-- An open receive window (R299). -/
structure RecvWindow where
  /-- 12 bits: window number (R299). -/
  window : Nat := 0
  /-- 6 bits: RECV_QUEUE (R299). -/
  queue : Nat := 0
  /-- 48 bits: BASE (R299). -/
  base : Nat := 0
  /-- 48 bits: BYTES (R299). -/
  bytes : Nat := 0
  /-- members of GROUP_ADDR: endpoint, partition (R299). -/
  senders : List (Nat × Nat) := []
  /-- highest closed attempt per sender endpoint and partition (R302). -/
  closed : List (Nat × Nat × Nat) := []
  /-- attempts in progress (R302). -/
  tries : List WinAttempt := []
  deriving DecidableEq, Repr

/-- A cellar lease held by a partition (R229, R230). -/
structure Lease where
  /-- 20 bits: lender endpoint (R229). -/
  lender : Nat := 0
  /-- 32 bits: LEASE_ID (R229). -/
  id : Nat := 0
  /-- slabs lent (R229). -/
  slabs : Nat := 0
  /-- NOTICE_MS (R229). -/
  noticeMs : Nat := 0
  /-- time of a reclaim notice (R232). -/
  reclaim : Option Nat := none
  deriving DecidableEq, Repr

/-- An epoch that is exporting (R176 to R185). -/
structure Epoch where
  /-- EPOCH (R180). -/
  no : Nat := 0
  /-- KEYFRAME (R180). -/
  key : Bool := false
  /-- HOST_LOSS (R187). -/
  hostLoss : Bool := false
  /-- STEP (R180). -/
  step : Nat := 0
  /-- records not yet sent, in order (R183). -/
  recs : List Bytes := []
  /-- page records of the epoch (R182). -/
  pages : Nat := 0
  /-- bytes of page records (R182). -/
  bytes : Nat := 0
  /-- state digest (R188). -/
  digest : Bytes := []
  /-- endpoints and SEQs of the digest messages sent (R297). -/
  sentTo : List (Nat × Nat) := []
  /-- a digest comparison is open (R190). -/
  compare : Bool := false
  /-- DIGESTED (R182). -/
  digested : Bool := false
  /-- DIVERGENT (R182). -/
  divergent : Bool := false
  /-- DIGEST_TIMEOUT (R182). -/
  timeout : Bool := false
  /-- page hashes of the snapshot (R178). -/
  hashes : List (Nat × Bytes) := []
  /-- snapshot slabs not yet exported (R176). -/
  left : List Nat := []
  /-- its header record (R180). -/
  head : Bytes := []
  /-- snapshot slabs retained in T1, whose pages go first (R183). -/
  kept : List Nat := []
  /-- the destination is the cellar (R187). -/
  toCellar : Bool := false
  deriving DecidableEq, Repr

/-- A partition's state stream (R174 to R198). -/
structure Stream where
  /-- configuration in force; empty when none (R174). -/
  cfg : Bytes := []
  /-- configuration that takes effect at the next step mark (R175). -/
  next : Bytes := []
  /-- step count (R176). -/
  steps : Nat := 0
  /-- last epoch number given (R176). -/
  epochs : Nat := 0
  /-- epochs opened since the configuration took effect (R178). -/
  opened : Nat := 0
  /-- the next epoch is a keyframe (R178). -/
  needKey : Bool := true
  /-- FOLDED of the next epoch (R184). -/
  foldPend : Bool := false
  /-- 16 bits: PART_STREAM_STATUS.FOLDED, saturating (R193). -/
  folded : Nat := 0
  /-- PART_STREAM_STATUS.POOL_WAIT (R193). -/
  poolWait : Bool := false
  /-- PART_STREAM_STATUS.DEST_LOST (R193). -/
  destLost : Bool := false
  /-- 32 bits: PART_STREAM_EPOCH.LAST (R194). -/
  last : Nat := 0
  /-- 32 bits: PART_STREAM_HEAD (R195). -/
  head : Nat := 0
  /-- 32 bits: PART_STREAM_TAIL (R195). -/
  tail : Nat := 0
  /-- record boundaries between TAIL and HEAD (R196). -/
  bounds : List Nat := []
  /-- the epoch that is open (EXPORTING) (R193). -/
  epoch : Option Epoch := none
  /-- page hashes of the last completed epoch (R178). -/
  hashes : List (Nat × Bytes) := []
  /-- slabs retained in T1 (R176). -/
  retT1 : Nat := 0
  /-- slabs retained in T2 (R176). -/
  retT2 : Nat := 0
  /-- placement of the slabs retained in T1 (R212). -/
  retNear : List (Option Nat) := []
  /-- 32 bits: PART_DIGEST_STEP (R198). -/
  dStep : Nat := 0
  /-- 8 × 32 bits: PART_DIGEST_n (R198). -/
  digest : Bytes := List.replicate 32 0
  /-- digests received: member, step, digest (R189). -/
  got : List (Nat × Nat × Bytes) := []
  /-- PART_DIGEST_STATUS.DIVERGED (R197). -/
  diverged : Bool := false
  /-- PART_DIGEST_STATUS.TIMEOUT (R197). -/
  timeout : Bool := false
  /-- PART_DIGEST_STATUS.HELD (R197). -/
  held : Bool := false
  /-- 8 bits: MISMATCH (R197). -/
  mismatch : Nat := 0
  /-- 8 bits: MISSING (R197). -/
  missing : Nat := 0
  deriving DecidableEq, Repr

/-- One partition (R245, R252, R236 to R239, R317, R366). -/
structure Part where
  /-- PART_CFG.ADMITTED (R252). -/
  admitted : Bool := false
  /-- W1, W2, W3 (R245). -/
  weights : List Nat := [1, 1, 1]
  /-- 10 bits: PART_CFG.CORES (R252). -/
  cores : Nat := 0
  /-- 10 bits: PART_CFG.C0_CORES (R252). -/
  c0Cores : Nat := 0
  /-- C0_RATE (R245). -/
  c0Rate : Nat := 0
  /-- C0_BURST (R245). -/
  c0Burst : Nat := 0
  /-- 20 bits: PART_C0_TOKENS (R252). -/
  tokens : Nat := 0
  /-- 4 × 24 bits: PART_MEM_RES_T1 to T4 (R236). -/
  res : List Nat := [0, 0, 0, 0]
  /-- 12 bits: PART_MEM_STAGE.T1 (R237). -/
  stageT1 : Nat := 0
  /-- 12 bits: PART_MEM_STAGE.T2 (R237). -/
  stageT2 : Nat := 0
  /-- C0_STAGE (R245). -/
  c0Stage : Nat := 0
  /-- QUEUES (R245). -/
  queues : BitVec 64 := 0
  /-- logical cores of the general set (R247). -/
  general : List Nat := []
  /-- logical cores of the class-0 set (R247). -/
  c0Set : List Nat := []
  /-- 10 bits: PART_MEM_DEADLINE.T3_MS (R238). -/
  t3Ms : Nat := 2
  /-- 10 bits: PART_MEM_DEADLINE.T4_MS (R238). -/
  t4Ms : Nat := 20
  /-- PART_MEM_STATUS.LATE (R239). -/
  late : Bool := false
  /-- PART_MEM_STATUS.FAILED (R239). -/
  failed : Bool := false
  /-- PART_MEM_STATUS.LOST (R239). -/
  lostBit : Bool := false
  /-- PART_MEM_STATUS.RECLAIM (R239). -/
  reclaimBit : Bool := false
  /-- 5 × 3 bits: PART_JOB_AXES (R317). -/
  axes : List Nat := [7, 7, 7, 7, 7]
  /-- 16 bits: PART_JOB_AXES.STATUS (R317). -/
  axesStatus : Nat := 0
  /-- 16 bits: PART_FAB_DEADLINE.MS (R317). -/
  fabMs : Nat := 50
  /-- 32 bits: PART_FAB_WIN_ADDR_LO (R317). -/
  winLo : Word := 0
  /-- 20 bits: PART_FAB_WIN_ADDR_HI (R317). -/
  winHi : Word := 0
  /-- 12 bits: PART_FAB_WIN_CTRL.WINDOW (R317). -/
  winNo : Nat := 0
  /-- 16 bits: PART_FAB_WIN_CTRL.STATUS (R317). -/
  winStatus : Nat := 0
  /-- open receive windows (R299). -/
  windows : List RecvWindow := []
  /-- 32 bits: PART_LAND_BASE_LO (R366). -/
  landLo : Word := 0
  /-- 16 bits: PART_LAND_BASE_HI (R366). -/
  landHi : Word := 0
  /-- PART_LAND_CTRL.BOUND (R366). -/
  bound : Bool := false
  /-- 6 bits: PART_LAND_CTRL.QUEUE (R366). -/
  landQueue : Nat := 0
  /-- 16 bits: PART_LAND_CTRL.STATUS (R366). -/
  landStatus : Nat := 0
  /-- S: ring size in bytes of the bound window (R360). -/
  landSize : Nat := 0
  /-- 48 bits: first byte of the bound ring (R361). -/
  landBase : Nat := 0
  /-- 24 bits: PART_LAND_TAIL (R366). -/
  landTail : Nat := 0
  /-- 24 bits: PART_LAND_HEAD (R366). -/
  landHead : Nat := 0
  /-- 32 bits: PART_LAND_DROPPED, saturating (R366). -/
  landDropped : Nat := 0
  /-- 16 bits: PART_LAND_SRC.REQUESTER (R366). -/
  landReq : Nat := 0
  /-- PART_LAND_SRC.FILTER_EN (R366). -/
  landFilter : Bool := false
  /-- cellar leases held (R230). -/
  leases : List Lease := []
  /-- registered gradient sets: address, slabs, rows that the last exchange assigned (all when none) (R159). -/
  gsets : List (Nat × List Nat × Option (Nat × Nat)) := []
  /-- state stream (R174). -/
  stream : Stream := {}
  /-- virtual time of its borrowing (R270). -/
  borrowVt : Rat := 0
  /-- it has had no command that could borrow since its last one (R270). -/
  borrowIdle : Bool := true
  /-- accounting counters (R277). -/
  acct : Acct := {}
  deriving DecidableEq, Repr

/-- An entry of the slab tables (R216). -/
structure Slab where
  /-- 27 bits: device-range address ÷ 2 MiB (R200). -/
  key : Nat := 0
  /-- owning partition (R200). -/
  part : Nat := 0
  /-- KIND of its region (R202). -/
  kind : Nat := 0
  /-- PIN of its region (R202). -/
  pin : Bool := false
  /-- MODEL of its region (R202). -/
  model : Nat := 0
  /-- state (R219). -/
  st : SlabState := .unwritten
  /-- tier (R216). -/
  tier : Option Tier := none
  /-- frame number within the tier (R207). -/
  frame : Nat := 0
  /-- NEAR(b), or interleaved (R207). -/
  near : Option Nat := none
  /-- 8 bits: access count (R216). -/
  access : Nat := 0
  /-- time of the last use (R223). -/
  lastUse : Nat := 0
  /-- lender and LEASE_ID of a T4 slab (R232). -/
  lease : Option (Nat × Nat) := none
  /-- pinned by a registered gradient set (R159). -/
  gset : Bool := false
  /-- logical core of the piece that reads it as stationary operand (R210). -/
  pieceCore : Option Nat := none
  /-- tier that R156 gives the tensor it holds (R156). -/
  home : Option Tier := none
  /-- pages that found their own stack full: page, stack (R207). -/
  moved : List (Nat × Nat) := []
  /-- its KIND 0 contents in T3 have been overwritten by the host (R226). -/
  spoilt : Bool := false
  deriving DecidableEq, Repr

/-- A mapped region (R202). -/
structure Region where
  /-- partition (R202). -/
  part : Nat := 0
  /-- first slab (address ÷ 2 MiB) (R202). -/
  base : Nat := 0
  /-- slab count (R202). -/
  slabs : Nat := 0
  /-- KIND (R202). -/
  kind : Nat := 0
  /-- PIN (R202). -/
  pin : Bool := false
  /-- MODEL (R202). -/
  model : Nat := 0
  deriving DecidableEq, Repr

/-- A slab that migrates (R220). -/
structure Migration where
  /-- the slab (R220). -/
  key : Nat := 0
  /-- source tier (R220). -/
  src : Tier := .t2
  /-- destination tier (R220). -/
  dst : Tier := .t1
  /-- class of R222, 0 first (R222). -/
  cls : Nat := 3
  /-- destination frame (R220). -/
  frame : Nat := 0
  /-- source frame (R220). -/
  srcFrame : Nat := 0
  /-- lender and LEASE_ID that hold the destination frame (R221). -/
  lease : Option (Nat × Nat) := none
  /-- lender and LEASE_ID that hold the source frame (R221). -/
  srcLease : Option (Nat × Nat) := none
  /-- step 4 is done; the source frame awaits step 5 (R220). -/
  switched : Bool := false
  /-- placement of the destination in T1 (R210). -/
  near : Option Nat := none
  /-- placement of the source in T1 (R212). -/
  srcNear : Option Nat := none
  /-- B-die whose migration DMA moves it (R273). -/
  bdie : Nat := 0
  /-- it holds a move slot (R222). -/
  granted : Bool := false
  /-- its place among the moves of its class: 0 and 1 named by commands of class 0 and of classes 1 to 3, 2 the rest (R232). -/
  rank : Nat := 2
  /-- pages of the destination that found their stack full, with their stack (R207). -/
  moved : List (Nat × Nat) := []
  /-- those of the source (R207). -/
  srcMoved : List (Nat × Nat) := []
  deriving DecidableEq, Repr

/-- A lease this module has granted (R228, R231). -/
structure Lent where
  /-- borrower endpoint (R229). -/
  ep : Nat := 0
  /-- borrower's partition (R229). -/
  bpart : Nat := 0
  /-- LEASE_ID (R229). -/
  id : Nat := 0
  /-- slabs lent (R229). -/
  slabs : Nat := 0
  /-- notice given (R242). -/
  noticeMs : Nat := 50
  /-- a RECLAIM has been sent (R231). -/
  reclaim : Bool := false
  /-- what the borrower has written, by byte offset in the lease (R228). -/
  data : List Host.Cell := []
  deriving DecidableEq, Repr

/-- One HBM4 pseudo-channel (R515). -/
structure PcState where
  /-- retired (R515). -/
  retired : Bool := false
  /-- qualified, pages moving or waiting for capacity (R515). -/
  retiring : Bool := false
  /-- times of its uncorrectable errors (R515). -/
  uncorr : List Nat := []
  /-- times of its corrected errors (R515). -/
  corr : List Nat := []
  deriving DecidableEq, Repr

/-- Memory, tiers and placement (R200 to R243). -/
structure Mem where
  /-- committed contents of the device range, canonical (R204). -/
  dev : List Host.Cell := []
  /-- host memory as the module has read and written it, canonical (R224). -/
  hostMem : List Host.Cell := []
  /-- slab tables (R216). -/
  slabs : List Slab := []
  /-- mapped regions (R202). -/
  regions : List Region := []
  /-- migrations in progress (R220). -/
  migrations : List Migration := []
  /-- 24 bits: PART_MEM_CAP_T1 (R240). -/
  capT1 : Nat := 0
  /-- 24 bits: PART_MEM_CAP_T2 (R240). -/
  capT2 : Nat := 0
  /-- 24 bits: PART_MEM_CAP_T3 (R240). -/
  capT3 : Nat := 0
  /-- slabs offered in each vat slice (R211). -/
  sliceCap : List Nat := [0, 0, 0, 0]
  /-- slices and rows whose frame waits to be withdrawn (R514). -/
  withdraw : List (Nat × Nat) := []
  /-- granted host memory: address, slabs (R225). -/
  grants : List (Nat × Nat) := []
  /-- 32 bits: PART_MEM_T3_TABLE_LO (R241). -/
  t3Lo : Word := 0
  /-- 20 bits: PART_MEM_T3_TABLE_HI (R241). -/
  t3Hi : Word := 0
  /-- 16 bits: PART_MEM_T3_CTRL.STATUS (R241). -/
  t3Status : Nat := 0
  /-- 24 bits: LEND_CTRL.LEND_MAX (R242). -/
  lendMax : Nat := 0
  /-- 8 bits: LEND_CTRL.NOTICE (R242). -/
  notice : Nat := 5
  /-- leases granted (R242). -/
  lent : List Lent := []
  /-- 16 bits: PART_MEM_CELLAR_RATE (R242). -/
  cellarRate : Nat := 100
  /-- 8 × 32 bits: PART_MEM_LENDER_k (R243). -/
  lenders : List Word := List.replicate 8 0
  /-- LEASE_ID of the next grant (model's own counter) (R229). -/
  nextLease : Nat := 1
  /-- next frame number given (model's own counter) (R207). -/
  nextFrame : Nat := 0
  /-- vat rows: slice, row, spare row used (R514). -/
  vatRows : List (Nat × Nat × Nat) := []
  /-- corrected errors of vat rows: slice, row, time (R514). -/
  vatCorr : List (Nat × Nat × Nat) := []
  /-- pseudo-channels (R515). -/
  pcs : List PcState := List.replicate 512 {}
  deriving DecidableEq, Repr

/-- One physical core (R22 to R30, R414, R424, R429). -/
structure PhysCore where
  /-- state (R24). -/
  st : CoreState := .fusedOff
  /-- logical number (R28). -/
  logical : Option Nat := none
  /-- fused maximum in MHz (R424). -/
  fused : Nat := 0
  /-- 4 bits: DRIFT (R424). -/
  drift : Nat := 0
  /-- idle state (R429). -/
  idle : CoreIdle := .s0
  /-- issue limit of the last window; 0 while no command has held the core in a window (R414, R415; log entry 112). -/
  q : Nat := 0
  /-- thermal ceiling (R426). -/
  qT : Nat := 64
  /-- present clock in MHz (R418). -/
  mhz : Nat := 0
  /-- a droop cut: issue stopped, or the limit that it has come back to (R423). -/
  droop : Option Nat := none
  /-- under in-field test (R518). -/
  testing : Bool := false
  /-- times of corrected errors in its store or bond (R516). -/
  corr : List Nat := []
  deriving DecidableEq, Repr

/-- A LOOP in progress (R139). -/
structure LoopFrame where
  /-- first instruction of the body (R139). -/
  start : Nat := 0
  /-- instructions of the body (R139). -/
  len : Nat := 0
  /-- repeats (R139). -/
  count : Nat := 0
  /-- index of the present repeat (R139). -/
  iter : Nat := 0
  /-- its count field is 0: it runs over the tile's rows (R139). -/
  rows : Bool := false
  deriving DecidableEq, Repr

/-- The vector engine of one core as a tile program sees it (R138, R139). -/
structure TileCtx where
  /-- 32 × 128 × 32 bits: vector registers that are not 0 (R81). -/
  regs : List (Nat × List Word) := []
  /-- registers whose last value is a lane mask (R139). -/
  masks : List (Nat × List Bool) := []
  /-- accumulator rows of the tile (R85). -/
  acc : List (List Word) := []
  /-- the tile's rows (R139). -/
  m : Nat := 0
  /-- LOOPs in progress, innermost first (R139). -/
  loops : List LoopFrame := []
  /-- next instruction (R138). -/
  pc : Nat := 0
  /-- instructions executed in the tile (R140). -/
  done : Nat := 0
  /-- END was executed (R139). -/
  ended : Bool := false
  /-- a 0x0107 fault arose (R140). -/
  fault : Bool := false
  /-- BUF 0, the output buffer (R138). -/
  out : Bytes := []
  /-- BUF 1 (R138). -/
  scratch : Bytes := []
  /-- BUF 2 (R138). -/
  param : Bytes := []
  /-- BUF 3 (R138). -/
  resid : Bytes := []
  /-- format of the output descriptor (R139). -/
  outFmt : Nat := 0
  /-- format in which BUF 0 holds the tile: the output's, FP32 in an accumulation pass (R162). -/
  bufFmt : Nat := 0
  /-- format of the tensor that BUF 3 holds (R138). -/
  residFmt : Nat := 0
  /-- exponent of that tensor's record (R55). -/
  residExp : Int := 0
  /-- exponent of its record (R132). -/
  outExp : Int := 0
  /-- rounding mode of its conversion (R132). -/
  outRmode : Nat := 0
  /-- saturation bit of its conversion (R132). -/
  outSat : Bool := false
  /-- seed of its stochastic rounding (R129). -/
  seed : Nat := 0
  /-- amax of the values that QNT converted (R132). -/
  qAmax : Word := 0
  /-- elements that QNT saturated (R70). -/
  qSat : Nat := 0
  /-- NaN and infinite inputs of QNT (R70). -/
  qNonfinite : Nat := 0
  /-- non-zero inputs that QNT rounded to zero (R71). -/
  qUnderflow : Nat := 0
  /-- output buffers sent by SEND, in order (R139). -/
  sends : List Bytes := []
  /-- tile row and tile column of the tile in progress (R118). -/
  tile : Option (Nat × Nat) := none
  /-- tiles that the core has begun for the command that holds it (R138). -/
  tiles : Nat := 0
  deriving DecidableEq, Repr

/-- The memories of one core besides its vector engine (R81, R92, R95 to R98). -/
structure CoreMem where
  /-- 2 MiB: core store by byte offset, bytes that are not 0 (R92). -/
  store : List Host.Cell := []
  /-- 4 × 64 × 64: the active stationary tiles, by array, rows of codes (R82). -/
  active : List (List (List Nat)) := []
  /-- 4 × 64 × 64: the shadow stationary tiles (R86). -/
  shadow : List (List (List Nat)) := []
  /-- 4 × 2 banks × 256 × 64 × 32 bits: array accumulators, by array, bank and row (R85). -/
  banks : List (List (List (List Word))) := []
  /-- 64 × 16 entries: row queues of the feeder (R97). -/
  feeder : List (List Nat) := []
  /-- block scales of the activation vectors (R87). -/
  scales : List Nat := []
  /-- partial blocks of a K cut in its store, its own and at the owner those that arrived: tile, K range, rows of 32-bit words (R117). -/
  partials : List (Nat × Nat × List (List Word)) := []
  deriving DecidableEq, Repr

/-- What follows the base header of a PFT packet, in clear (R288 to R291). -/
inductive PktBody where
  /-- DATA: KIND, TAG16, ID32, OFFSET and payload (R288, R289). -/
  | data (kind tag id off : Nat) (payload : Bytes)
  /-- ACK: CUM and BITMAP (R290). -/
  | ack (cum : Nat) (bitmap : BitVec 256)
  /-- NOTICE: KIND, WINDOW, ATTEMPT, BYTES and TAG (R291). -/
  | notice (kind window attempt bytes tag : Nat)
  deriving DecidableEq, Repr

/-- A PFT packet (R287). -/
structure Pkt where
  /-- SRC.EP (R287). -/
  srcEp : Nat := 0
  /-- SRC.PART (R287). -/
  srcPart : Nat := 0
  /-- SRC.CLASS (R287). -/
  cls : Nat := 0
  /-- DST.EP (R287). -/
  dstEp : Nat := 0
  /-- DST.PART (R287). -/
  dstPart : Nat := 0
  /-- 48 bits: SEQ (R287). -/
  seq : Nat := 0
  /-- 16 bits: SESSION (R287). -/
  session : Nat := 0
  /-- bytes 20 up to the tag (R288, R290, R291). -/
  body : PktBody := .data 0 0 0 0 []
  deriving DecidableEq, Repr

/-- The addresses and ports of a UDP datagram that carries a packet (R285). -/
structure UdpHdr where
  /-- source address (R285). -/
  src : Bytes := []
  /-- destination address (R285). -/
  dst : Bytes := []
  /-- source port (R285). -/
  sport : Nat := 0
  /-- destination port (R285). -/
  dport : Nat := 0
  deriving DecidableEq, Repr

/-- The frame that carries a packet (R285, R321, R322, R324). -/
structure Encap where
  /-- port (R281). -/
  port : Nat := 0
  /-- sub-port (R321). -/
  sub : Nat := 0
  /-- destination MAC address (R285, R322). -/
  dst : Bytes := []
  /-- source MAC address (R285). -/
  src : Bytes := []
  /-- VID and PCP of the IEEE 802.1Q tag (R324). -/
  tag : Option (Nat × Nat) := none
  /-- EtherType (R285). -/
  etype : Nat := 0
  /-- datagram of ENCAP 1 and 2 (R285). -/
  udp : Option UdpHdr := none
  deriving DecidableEq, Repr

/-- A packet at the egress of a die link (R378, R381 to R383). -/
structure LinkPkt where
  /-- direction of the link (R377). -/
  dir : Nat := 0
  /-- 2 bits: ROLE (R378). -/
  role : Nat := 0
  /-- 2 bits: VC (R383). -/
  vc : Nat := 0
  /-- its source: B-die 0 to 3, or 4 the H-die (R382). -/
  src : Nat := 0
  /-- its destination (R382). -/
  dst : Nat := 0
  /-- page address (R382). -/
  page : Nat := 0
  /-- partition; 16 migration DMA, the steward and the state stream (R381). -/
  client : Nat := 0
  /-- a class-0 request (R381). -/
  c0 : Bool := false
  /-- its flits (R383). -/
  flits : Nat := 1
  /-- flits of the response that it asks for (R378). -/
  answer : Nat := 0
  /-- links and directions that it has still to cross after this one (R377). -/
  path : List (Nat × Nat) := []
  /-- 10 bits: SEQ of its first flit on the lane that carries it (R383). -/
  seq : Nat := 0
  /-- the receiver has acknowledged its last flit (R387). -/
  acked : Bool := false
  deriving DecidableEq, Repr

/-- The requests of the module's CXL.cache agent (R357). -/
inductive CxlReq where
  | rdCurr | rdOwn | dirtyEvict | itoMWr | cleanEvictNoData
  deriving DecidableEq, Repr

/-- What the module has put on its links and pins, as an observer outside sees it. -/
inductive Out where
  /-- MSI-X vector v is raised (R354). -/
  | msix (v : Nat)
  /-- A PFT packet in the frame that carries it (R285, R287). -/
  | pft (frame : Encap) (packet : Pkt)
  /-- A PAUSE (prio 8) or PFC frame (R330). -/
  | pause (port sub prio time : Nat)
  /-- An ARP reply, with the VID and PCP of its tag (R322, R324). -/
  | arpReply (port sub : Nat) (tag : Option (Nat × Nat))
  /-- A neighbour advertisement, with its tag (R322, R324). -/
  | neighbourAdv (port sub : Nat) (tag : Option (Nat × Nat))
  /-- A gratuitous ARP or unsolicited advertisement, with its tag (R322, R324). -/
  | gratuitous (port sub : Nat) (tag : Option (Nat × Nat))
  /-- Unsupported Request (R353). -/
  | unsupported (off : Nat)
  /-- A completion of a guest-die read (R403). -/
  | guestData (data : Bytes)
  /-- Completer Abort (R403). -/
  | guestAbort
  /-- Unsupported Request to the guest die (R401). -/
  | guestUnsupported
  /-- An SPDM response (R446). -/
  | spdm (data : Bytes)
  /-- ResponseNotReady (R446, R492). -/
  | spdmNotReady
  /-- An answer of the service tag (R483). -/
  | tag (data : Bytes)
  /-- The answer to the Alert Response Address (R496). -/
  | smbAddress (addr : Nat)
  /-- SCL and SDA are released and the transaction is abandoned (R494). -/
  | smbReleased
  /-- A record of the state stream sent to the cellar (1) or a storage endpoint (3) (R183). -/
  | stream (part dest : Nat) (rec : Bytes)
  /-- A packet returned or answered with a status (R395, R396). -/
  | returned (pkt : IslPkt) (status : Nat)
  /-- A held packet delivered (R394). -/
  | delivered (pkt : IslPkt)
  /-- The requester of a close is told that it was abandoned (R393). -/
  | closeAbandoned (i : Island)
  /-- A snoop response with data (R358). -/
  | snoopData (line : Nat) (data : Bytes)
  /-- A snoop response of a line that is not dirty (R358). -/
  | snoopClean (line : Nat)
  /-- A CXL.cache request to the host (R357). -/
  | cxl (req : CxlReq) (line : Nat)
  /-- A NAK link control flit (R387). -/
  | flitNak (link dir lane seq : Nat)
  /-- Flits sent again (R387). -/
  | flitResend (link dir lane seq count : Nat)
  /-- A packet whose flits the sender had kept is sent again (R387, R388). -/
  | linkResend (link dir lane : Nat) (pkt : LinkPkt)
  /-- ACK_SEQ of a link control flit: the last flit that has arrived in order (R387). -/
  | flitAck (link dir lane seq : Nat)
  /-- The answer to a cellar request (R228). -/
  | cellarAnswer (ep number : Nat) (data : Bytes)
  /-- A PFT error response (R448). -/
  | cellarError (ep number : Nat)
  deriving DecidableEq, Repr

/-- A PFT flow toward or from an endpoint in one class (R292, R293). -/
structure Flow where
  /-- the other endpoint (R292). -/
  ep : Nat := 0
  /-- class (R292). -/
  cls : Nat := 0
  /-- 48 bits: next SEQ (sender) (R292). -/
  next : Nat := 1
  /-- SEQ, port last used, RTO in µs, the packet (sender) (R293, R295). -/
  unacked : List (Nat × Nat × Nat × Pkt) := []
  /-- packets that wait for the 256-packet bound or a port: SEQ, axis, packet (sender) (R293). -/
  unsent : List (Nat × Nat × Pkt) := []
  /-- 48 bits: CUM (receiver) (R293). -/
  cum : Nat := 0
  /-- SEQs accepted above CUM (receiver) (R293). -/
  bitmap : List Nat := []
  /-- packets accepted since the last ACK (receiver) (R294). -/
  sinceAck : Nat := 0
  /-- port that the first of them used (receiver) (R294). -/
  ackPort : Nat := 0
  deriving DecidableEq, Repr

/-- A collective in progress (R304 to R312). -/
structure Coll where
  /-- the queue whose command runs it (R304). -/
  queue : Nat := 0
  /-- 32 bits: COLL_ID (R306). -/
  id : Nat := 0
  /-- OP (R307). -/
  op : Nat := 0
  /-- this member's attempt (R289). -/
  attempt : Nat := 0
  /-- axis of its cut (R282). -/
  axis : Nat := 0
  /-- class of its queue (R292). -/
  cls : Nat := 0
  /-- endpoint and partition by rank (R305). -/
  members : List (Nat × Nat) := []
  /-- own rank (R305). -/
  self : Nat := 0
  /-- ROOT (R306). -/
  root : Nat := 0
  /-- packed source as it stood at the start (R309). -/
  src : Bytes := []
  /-- SRC ROWS (R307). -/
  srcRows : Nat := 0
  /-- packed bytes of a row (R307). -/
  rowBytes : Nat := 0
  /-- exponent of the source's contents (R306). -/
  srcExp : Int := 0
  /-- announced exponents by rank (R309). -/
  exps : List (Nat × Int) := []
  /-- announced row counts by rank (R309). -/
  counts : List (Nat × Nat) := []
  /-- OP 5: rows for each rank (R306). -/
  sendCounts : List Nat := []
  /-- pulls sent so far (R309). -/
  issued : Nat := 0
  /-- staging blocks held (R310). -/
  blocks : Nat := 0
  /-- the gather of OP 0 has begun (R309). -/
  gathering : Bool := false
  /-- pieces received: rank, offset, bytes (R309). -/
  got : List (Nat × Nat × Bytes) := []
  /-- own range of the result, once summed (R309). -/
  own : Bytes := []
  /-- elements saturated (R309). -/
  sat : Nat := 0
  /-- NaN and infinite elements (R70). -/
  nonfinite : Nat := 0
  /-- elements rounded to zero (R309). -/
  underflow : Nat := 0
  /-- pulls that wait for the result: rank, offset, length (R309). -/
  heldPulls : List (Nat × Nat × Nat) := []
  /-- pulls answered: rank, offset, length (R311). -/
  answered : List (Nat × Nat × Nat) := []
  /-- endpoint and SEQ of the pieces sent (R311). -/
  pieceSeqs : List (Nat × Nat) := []
  /-- endpoint and SEQ of the announcements and pulls sent (R297). -/
  sent : List (Nat × Nat) := []
  /-- ADDR of the destination (R306). -/
  dstAddr : Nat := 0
  /-- format of the destination (R306). -/
  dstFmt : Nat := 0
  /-- ROWS of the destination (R306). -/
  dstRows : Nat := 0
  /-- COLS of the destination (R306). -/
  dstCols : Nat := 0
  /-- PITCH of the destination (R306). -/
  dstPitch : Nat := 0
  /-- SCALE_ADDR of the destination (R306). -/
  dstScale : Nat := 0
  /-- record of the destination (R309). -/
  dstRec : Option RecUpd := none
  /-- RCOUNT_ADDR (R306). -/
  rcount : Nat := 0
  /-- collective descriptor, or the gradient set under EXCHANGE (R306). -/
  desc : Nat := 0
  /-- under EXCHANGE (R306). -/
  gset : Bool := false
  deriving DecidableEq, Repr

/-- Plynula Fabric Transport (R284 to R316). -/
structure Fab where
  /-- 32 bits: PORT_FAB_AXIS (R316). -/
  axis : Word := 0xFA50FA50#32
  /-- 20 bits: PORT_FAB_SELF.EP (R316). -/
  ep : Nat := 0
  /-- PORT_FAB_SELF.VALID (R316). -/
  valid : Bool := false
  /-- 2 bits: PORT_FAB_CFG.ENCAP (R316). -/
  encap : Nat := 0
  /-- PORT_FAB_CFG.PAYLOAD (R316). -/
  payload : Bool := true
  /-- 8 bits: PORT_FAB_CFG.SITE (R316). -/
  site : Nat := 0
  /-- 16 bits: PORT_FAB_CFG.SESSION (R316). -/
  session : Nat := 0
  /-- 16 bits: PORT_FAB_ETYPE.ETYPE (R316). -/
  etype : Nat := 0x88B5
  /-- 16 bits: PORT_FAB_ETYPE.UDP_PORT (R316). -/
  udpPort : Nat := 0xC350
  /-- 8 bits: PORT_FAB_IP4.NET (R316). -/
  net : Nat := 10
  /-- 32 bits: PORT_FAB_IP6_LO (R316). -/
  ip6Lo : Word := 0
  /-- 32 bits: PORT_FAB_IP6_HI (R316). -/
  ip6Hi : Word := 0xFD000000#32
  /-- 12 bits: PORT_FAB_TIMERS.RTO_US (R316). -/
  rtoUs : Nat := 50
  /-- 12 bits: PORT_FAB_TIMERS.PATH_MS (R316). -/
  pathMs : Nat := 20
  /-- 32 bits: PORT_FAB_DUP, saturating (R316). -/
  dup : Nat := 0
  /-- 32 bits: PORT_FAB_RESENT, saturating (R316). -/
  resent : Nat := 0
  /-- 32 bits: PORT_FAB_DROP, saturating (R316). -/
  drop : Nat := 0
  /-- 20 bits: PORT_FAB_PATH.LAST_EP (R316). -/
  lastEp : Nat := 0
  /-- PORT_FAB_PATH.LOST (R316). -/
  lost : Bool := false
  /-- unreachable endpoints and since when (R298). -/
  unreachable : List (Nat × Nat) := []
  /-- flows (R292). -/
  flows : List Flow := []
  /-- attempt counter per destination endpoint, partition and window (R302). -/
  tries : List (Nat × Nat × Nat × Nat) := []
  /-- collectives in progress (R304). -/
  colls : List Coll := []
  /-- ack flows: endpoint, next ACK SEQ sent, highest ACK SEQ accepted (R292). -/
  acks : List (Nat × Nat × Nat) := []
  /-- SESSION seen of each endpoint (R292). -/
  sessions : List (Nat × Nat) := []
  /-- aborted attempts: COLL_ID, endpoint × 16 + partition, attempt (R312). -/
  collAborted : List (Nat × Nat × Nat) := []
  /-- announcements that came before the command: COLL_ID, endpoint, partition, attempt, value (R309). -/
  earlyAnn : List (Nat × Nat × Nat × Nat × Nat) := []
  /-- pulls that came before the command: COLL_ID, endpoint, partition, attempt, offset, length (R309). -/
  earlyPull : List (Nat × Nat × Nat × Nat × Nat × Nat) := []
  /-- collectives committed: partition, COLL_ID, members, axis (R306, R312). -/
  committed : List (Nat × Nat × List (Nat × Nat) × Nat) := []
  /-- attempts per COLL_ID (R312). -/
  collTry : List (Nat × Nat) := []
  /-- commit notices seen (model's own counter) (R302). -/
  noticeOrder : Nat := 0
  /-- cellar requests that wait for a warm reset to end (R482). -/
  heldReqs : List Instr := []
  /-- number of the next cellar request (R289). -/
  reqNo : Nat := 0
  /-- SEQ of the lease request that an admission waits on (R297). -/
  askSeq : Nat := 0
  /-- cellar requests in flight: client (a queue, or 64 and a slab number), lender, SEQ (R297). -/
  cellar : List (Nat × Nat × Nat) := []
  /-- an admission that waits: partition, lender index asked (100: for lent slabs, R231), descriptor (R230). -/
  asking : Option (Nat × Nat × Bytes) := none
  deriving DecidableEq, Repr

/-- The ingress share of one sub-port (R329, R330). -/
structure Share where
  /-- sub-port (R329). -/
  sub : Nat := 0
  /-- share (R329). -/
  k : Nat := 0
  /-- bytes held (R330). -/
  occ : Nat := 0
  /-- a pause is outstanding (R330). -/
  paused : Bool := false
  deriving DecidableEq, Repr

/-- A frame that waits in an egress queue (R324, R325). -/
inductive Egr where
  /-- A PFT packet. -/
  | pft (packet : Pkt)
  /-- An ARP reply. -/
  | arpReply
  /-- A neighbour advertisement. -/
  | neighbourAdv
  /-- A gratuitous ARP or unsolicited advertisement. -/
  | gratuitous
  deriving DecidableEq, Repr

/-- The transmitter of one sub-port (R321, R325, R327). -/
structure SubTx where
  /-- egress queues: queue (0 control, 1 to 4 classes 0 to 3), resent ahead of new ones, frame (R296, R325). -/
  queue : List (Nat × Bool × Egr) := []
  /-- deficits in bytes: class 0 beyond its share, classes 1 to 3 (R325). -/
  deficit : List Nat := [0, 0, 0, 0]
  /-- whose turn it is (R325). -/
  turn : Nat := 0
  /-- frames of the last 64 µs: time, bytes, of class 0 (R325). -/
  sent : List (Nat × Nat × Bool) := []
  /-- quanta of a PAUSE in force (R327). -/
  pauseAll : Nat := 0
  /-- quanta of PFC pauses in force (R327). -/
  pausePrio : List Nat := List.replicate 8 0
  deriving DecidableEq, Repr

/-- One optical port (R344, R345). -/
structure Port where
  /-- 2 bits: PORT_CFG.MODE (R344). -/
  mode : Nat := 0
  /-- PORT_CFG.ADMIN_UP (R344). -/
  adminUp : Bool := true
  /-- 2 bits: PORT_CFG.FC_MODE (R344). -/
  fcMode : Nat := 1
  /-- PORT_CFG.TAG_EN (R344). -/
  tagEn : Bool := true
  /-- 16 bits: PORT_CFG.MAX_FRAME (R344). -/
  maxFrame : Nat := 9216
  /-- 12 bits: PORT_VLAN.VID (R344). -/
  vid : Nat := 1
  /-- 3 bits: PORT_VLAN.CTRL_PCP (R344). -/
  ctrlPcp : Nat := 6
  /-- 4 × 3 bits: PORT_PCP.PCP0 to PCP3 (R344). -/
  pcp : List Nat := [5, 3, 2, 1]
  /-- 8 bits: PORT_PCP.PFC_EN (R344). -/
  pfcEn : BitVec 8 := 0
  /-- 6 bits: PORT_FC.HIGH (R344). -/
  high : Nat := 48
  /-- 6 bits: PORT_FC.LOW (R344). -/
  low : Nat := 16
  /-- 16 bits: PORT_FC.PAUSE_QUANTA (R344). -/
  quanta : Nat := 65535
  /-- 6 bits: PORT_SCHED.C0_SHARE (R344). -/
  c0Share : Nat := 16
  /-- 3 × 4 bits: PORT_SCHED.Q1 to Q3 (R344). -/
  drr : List Nat := [4, 2, 1]
  /-- 8 bits: PORT_SCHED.STALL_MS (R344). -/
  stallMs : Nat := 10
  /-- 32 bits: PORT_NEXT_HOP_LO (R344). -/
  hopLo : Word := 0
  /-- 16 bits: PORT_NEXT_HOP_HI (R344). -/
  hopHi : Word := 0
  /-- 8 bits: PORT_STATUS.SUBPORT_UP (R344). -/
  subUp : BitVec 8 := 0
  /-- 2 bits: PORT_STATUS.WIDTH (R344). -/
  width : Nat := 0
  /-- PORT_STATUS.STALLED (R344). -/
  stalled : Bool := false
  /-- 8 bits: PORT_STATUS.LANE_FAULT (R344). -/
  laneFault : BitVec 8 := 0
  /-- 4 bits: PORT_STATUS.TX_SPARE (R344). -/
  txSpare : Nat := 15
  /-- 4 bits: PORT_STATUS.RX_SPARE (R344). -/
  rxSpare : Nat := 15
  /-- PORT_EVENT.LINK_CHANGE (R344). -/
  evLink : Bool := false
  /-- PORT_EVENT.LANE (R344). -/
  evLane : Bool := false
  /-- PORT_EVENT.SPARED (R344). -/
  evSpared : Bool := false
  /-- PORT_EVENT.HALVED (R344). -/
  evHalved : Bool := false
  /-- PORT_EVENT.STALL (R344). -/
  evStall : Bool := false
  /-- 16 bits: PORT_EVENT.LAST_ERROR (R344). -/
  lastError : Nat := 0
  /-- counters in table order: TX and RX frames and bytes 64 bits each, then nine of 32 bits (R345). -/
  cnt : List Nat := List.replicate 13 0
  /-- transmitters of the sub-ports (R321). -/
  tx : List SubTx := List.replicate 8 {}
  /-- ingress shares in use (R329). -/
  shares : List Share := []
  /-- its engine is overheated (R428). -/
  engineStop : Bool := false
  deriving DecidableEq, Repr

/-- One laser channel (R337 to R346). -/
structure Laser where
  /-- 3 bits: STATE (R346). -/
  st : LaserState := .dark
  /-- 4 bits: ENGINE (R346). -/
  engine : Option Nat := none
  /-- 10 bits: BIAS in mA (R346). -/
  bias : Nat := 0
  /-- 8 bits: DEFICIT (R346). -/
  deficit : Nat := 0
  /-- marked failed (R339). -/
  failed : Bool := false
  deriving DecidableEq, Repr

/-- The ports and the laser source block. -/
structure Optics where
  /-- ports (R344). -/
  ports : List Port := List.replicate 16 {}
  /-- laser channels (R346). -/
  lasers : List Laser := List.replicate 10 {}
  /-- ramps waiting for their turn: channel, engine (R338). -/
  rampQ : List (Nat × Nat) := []
  /-- channels that ramp from dark and the engines they are for (R338). -/
  rampFor : List (Nat × Nat) := []
  /-- worn channels and the spares that will replace them (R342). -/
  worn : List (Nat × Nat) := []
  /-- engines that wait for a spare in its monitor ramp, and the worn channel that one is to replace (R31, R340). -/
  lacking : List (Option Nat × Nat) := []
  /-- the laser rail is in regulation (R341). -/
  rail : Bool := true
  /-- rail faults since power-up (R341). -/
  railFaults : Nat := 0
  /-- every channel is off (R341). -/
  allOff : Bool := false
  /-- PORT_LASER_EVENT.SHORT (R346). -/
  evShort : Bool := false
  /-- PORT_LASER_EVENT.RAIL (R346). -/
  evRail : Bool := false
  /-- PORT_LASER_EVENT.SPARED (R346). -/
  evSpared : Bool := false
  /-- PORT_LASER_EVENT.DARK (R346). -/
  evDark : Bool := false
  /-- PORT_LASER_EVENT.WORN (R346). -/
  evWorn : Bool := false
  deriving DecidableEq, Repr

/-- A die lane with something to record (R385 to R390). -/
structure DieLane where
  /-- direction (R377). -/
  dir : Nat := 0
  /-- lane (R377). -/
  lane : Nat := 0
  /-- locked (R385). -/
  locked : Bool := true
  /-- times of its losses of lock (R388). -/
  losses : List Nat := []
  /-- failed (R388). -/
  failed : Bool := false
  /-- spare lane that took its place (R388). -/
  spare : Option Nat := none
  /-- memory lane that took its role (R390). -/
  taken : Option Nat := none
  /-- a memory lane that has taken another lane's role (R390). -/
  gone : Bool := false
  /-- flit SEQ awaited after a CRC failure (R387). -/
  resend : Option Nat := none
  /-- SEQs of the flits that have failed their CRCs in the last microsecond (R386). -/
  bad : List Nat := []
  /-- offset of the alignment word at which it locked (R385). -/
  offset : Nat := 0
  deriving DecidableEq, Repr

/-- What the egress of one role of a direction keeps (R381). -/
structure LinkArb where
  /-- direction (R381). -/
  dir : Nat := 0
  /-- role (R381). -/
  role : Nat := 0
  /-- client whose turn it is (R381). -/
  turn : Nat := 0
  /-- deficits of the partitions and of the shared client, in flits (R381). -/
  deficit : List Nat := List.replicate 17 0
  /-- flits of the last microsecond: time, flits, of class 0 (R381). -/
  sent : List (Nat × Nat × Bool) := []
  deriving DecidableEq, Repr

/-- One die link (R377, R405, R406). -/
structure DieLink where
  /-- 9 bits: MEM (R405). -/
  mem : Nat := 288
  /-- 6 bits: COH (R405). -/
  coh : Nat := 24
  /-- 4 bits: INT (R405). -/
  int : Nat := 4
  /-- 4 bits: DBG (R405). -/
  dbg : Nat := 4
  /-- 7 bits: SPARE0 (R406). -/
  spare0 : Nat := 0
  /-- 7 bits: SPARE1 (R406). -/
  spare1 : Nat := 0
  /-- 8 bits: LOST0, saturating (R406). -/
  lost0 : Nat := 0
  /-- 8 bits: LOST1, saturating (R406). -/
  lost1 : Nat := 0
  /-- lanes with something to record (R388). -/
  lanes : List DieLane := []
  /-- lanes lost for good: direction, role, lanes (R390). -/
  loss : List (Nat × Nat × Nat) := []
  /-- packets that wait at its egress, in arrival order (R381). -/
  waiting : List LinkPkt := []
  /-- what its egress keeps, by direction and role (R381). -/
  arbs : List LinkArb := []
  /-- packets of the last 1,024 flits of each lane: lane, packet, newest first (R387). -/
  sent : List (Nat × LinkPkt) := []
  /-- the link is failed (R390). -/
  failed : Bool := false
  /-- its lanes have been trained; before that each searches for lock (R385, R465). -/
  trained : Bool := false
  deriving DecidableEq, Repr

/-- A clock island that is not simply running (R391 to R396). -/
structure IslandRec where
  /-- the island (R391). -/
  island : Island := .hub 0
  /-- its state (R392). -/
  st : IslandState := .running
  /-- packets held, oldest first (R394). -/
  held : List IslPkt := []
  /-- returned packets and their back-off in µs (R395). -/
  back : List (IslPkt × Nat) := []
  /-- packets that their senders hold behind a returned one, in order (R395). -/
  behind : List IslPkt := []
  deriving DecidableEq, Repr

/-- A host line in the directory (R397 to R400). -/
structure DirLine where
  /-- 46 bits: host physical address ÷ 64 (R397). -/
  line : Nat := 0
  /-- agent that owns it (R397). -/
  owner : Option Nat := none
  /-- agents that share it (R397). -/
  sharers : List Nat := []
  /-- requests not yet granted, by agent (R398). -/
  waiting : List (Nat × DirReq) := []
  /-- the line's bytes in the host-line cache (R357). -/
  cached : Option Bytes := none
  /-- the cache's copy is dirty (R357, R358). -/
  dirty : Bool := false
  /-- the bytes of the owner's line buffer when dirty (R397). -/
  buf : Option Bytes := none
  deriving DecidableEq, Repr

/-- A rind window (R402). -/
structure RindWin where
  /-- KIND (R402). -/
  kind : Nat := 0
  /-- PART (R402). -/
  part : Nat := 0
  /-- BASE (R402). -/
  base : Nat := 0
  /-- SIZE (R402). -/
  size : Nat := 0
  deriving DecidableEq, Repr

/-- The package fabric, the islands, the directory and the rind. -/
structure Fabric where
  /-- die links (R405). -/
  links : List DieLink := [{}, {}, {}, {}, { mem := 112, coh := 12, int := 2, dbg := 2 }, { mem := 112, coh := 12, int := 2, dbg := 2 }]
  /-- 32 bits: ID_FAB_REPLAYS, saturating (R407). -/
  replays : Nat := 0
  /-- 32 bits: ID_FAB_RELOCKS, saturating (R407). -/
  relocks : Nat := 0
  /-- 32 bits: ID_ISLAND_HELD, saturating (R407). -/
  held : Nat := 0
  /-- 32 bits: ID_ISLAND_RETURNED, saturating (R407). -/
  returned : Nat := 0
  /-- islands that are not simply running (R391). -/
  islands : List IslandRec := []
  /-- host lines (R397). -/
  lines : List DirLine := []
  /-- rind windows (R402). -/
  wins : List RindWin := []
  /-- 8 bits: FENCE_LIMIT (R402). -/
  fenceLimit : Nat := 0
  /-- 8 bits: ID_RIND_STATUS.VIOLATIONS, saturating (R408). -/
  violations : Nat := 0
  /-- 3 bits: ID_RIND_STATUS.FENCE_CAUSE (R408). -/
  fenceCause : Nat := 0
  /-- a guest die is fitted (R33). -/
  guestFitted : Bool := false
  /-- guest requests that wait for hub-ingress credit, in arrival order: partition, address, and the length of a read or the bytes of a write (R403). -/
  guestWaits : List (Nat × Nat × (Nat ⊕ Bytes)) := []
  deriving DecidableEq, Repr

/-- The power block (R410 to R434). -/
structure Power where
  /-- 11 bits: PWR_CAP.CAP_W (R432). -/
  capW : Nat := 1100
  /-- 2 bits: PWR_CTRL.MODE (R432). -/
  mode : Nat := 0
  /-- 8 bits: PWR_CTRL.LEARN_MS (R432). -/
  learnMs : Nat := 10
  /-- 8 bits: PWR_CTRL.LEARN_EFF_MS (R432). -/
  learnEff : Nat := 10
  /-- 11 bits: PWR_STATUS.EFF_CAP_W (R432). -/
  effCap : Rat := 1100
  /-- 3 bits: PWR_STATUS.LIMITER (R432). -/
  limiter : Nat := 1
  /-- PWR_STATUS.REPEAT_OK (R432). -/
  repeatOk : Bool := true
  /-- P_est of the last 250 windows, newest first (R414). -/
  wins : List Rat := []
  /-- highest window P_est since the last CLEAR (R432). -/
  peak : Rat := 0
  /-- I, in W (R414). -/
  integral : Rat := 0
  /-- field correction (R412). -/
  g : Rat := 1
  /-- PWR_CORR.LOCKED (R432). -/
  locked : Bool := false
  /-- PWR_CORR.CLAMPED (R432). -/
  clamped : Bool := false
  /-- sum of the windows' estimates since the last second (R412). -/
  secSum : Rat := 0
  /-- windows since the last second (R412). -/
  secWins : Nat := 0
  /-- Fuelagrim's mean and the mean estimate of a second whose correction is due (R412). -/
  second : Option (Rat × Rat) := none
  /-- consecutive seconds within 0.25 % (R412). -/
  goodSecs : Nat := 0
  /-- 7 bits: PWR_ISSUE.Q_MIN (R432). -/
  qMin : Nat := 64
  /-- 7 bits: PWR_ISSUE.Q_MEAN (R432). -/
  qMean : Nat := 64
  /-- 7 bits: PWR_ISSUE.Q_C0 (R432). -/
  qC0 : Nat := 64
  /-- of the last 250 windows: least q, sum of q, running cores, least class-0 q (R432). -/
  qHist : List (Nat × Nat × Nat × Nat) := []
  /-- C_eff fell below the 1 ms mean: q_rep applies in the next window (R416). -/
  cutPending : Bool := false
  /-- 24 bits: PWR_IDLE.TOL_US (R432). -/
  tolUs : Nat := 100
  /-- 3 bits: PWR_IDLE.STATE (R432). -/
  idle : Nat := 0
  /-- 8 bits: PWR_THERM.HOTTEST_C (R432). -/
  hotC : Int := 0
  /-- 3 bits: PWR_THERM.CLASS (R432). -/
  hotClass : Nat := 0
  /-- 10 bits: PWR_THERM.INDEX (R432). -/
  hotIndex : Nat := 0
  /-- 8 bits: PWR_THERM.MARGIN_C (R432). -/
  hotMargin : Nat := 0
  /-- last temperature read of each island (R425). -/
  temps : List (ThermIsland × Int) := []
  /-- 8 bits: PWR_EVENT (R433). -/
  event : BitVec 8 := 0
  /-- 32 bits: PWR_DROOPS, saturating (R433). -/
  droops : Nat := 0
  /-- 32 bits: PWR_THROTTLE_US, saturating (R433). -/
  throttleUs : Nat := 0
  /-- a thermal trip holds starts (R427). -/
  tripped : Bool := false
  /-- times of thermal trips (R427). -/
  trips : List Nat := []
  /-- learning table, most recently used first: signature, pa, pm (R419). -/
  learn : List (BitVec 32 × Rat × Rat) := []
  /-- 11 bits: SB_CAP.CAP_W (R496). -/
  boardCap : Nat := 1100
  deriving DecidableEq, Repr

/-- What is fused, or written once, at manufacture: keys and certificates (R436, R437, R472). No command reads a key. -/
structure Keys where
  /-- 384 bits: the private identity key (R436). -/
  identity : BitVec 384 := Config.identityKey
  /-- 512 bits: the AES-256 data key, then the AES-256 tweak key (R436). -/
  memory : BitVec 512 := Config.memoryKey
  /-- digests of the vendor's root certificates 0 to 7, in the boot ROM (R437, R472). -/
  vendorRoots : List Bytes := (List.range 8).map Config.vendorRoot
  /-- the identity chain, root first (R437). -/
  chain : List Bytes := (List.range 3).map (Config.certificate 0)
  /-- the meter chain, root first (R437). -/
  meterChain : List Bytes := (List.range 3).map (Config.certificate 1)
  deriving DecidableEq, Repr

/-- An entry of the peer table (R440). -/
structure Peer where
  /-- endpoint (R440). -/
  ep : Nat := 0
  /-- identity public key (R440). -/
  pubKey : Bytes := []
  /-- pairwise key (R442). -/
  pairKey : Bytes := []
  deriving DecidableEq, Repr

/-- The security block (R436 to R452). -/
structure Sec where
  /-- 8 bits: SEC_MBOX_CTRL.OP (R452). -/
  op : Nat := 0
  /-- 16 bits: SEC_MBOX_CTRL.STATUS (R452). -/
  status : Nat := 0
  /-- 13 bits: SEC_MBOX_LEN.REQ_LEN (R452). -/
  reqLen : Nat := 0
  /-- 13 bits: SEC_MBOX_LEN.RSP_LEN (R452). -/
  rspLen : Nat := 0
  /-- 4,096 bytes: SEC_MBOX_DATA (R452). -/
  mbox : Bytes := List.replicate 4096 0
  /-- the DEBUG_ALLOW fuse (R452). -/
  debugAllow : Bool := false
  /-- SEC_STATE.DEBUG_OPEN (R452). -/
  debugOpen : Bool := false
  /-- SEC_STATE.JTAG_ACTIVE (R452). -/
  jtag : Bool := false
  /-- peer table (R440). -/
  peers : List Peer := []
  /-- 32 bits: SEC_PFT_TAG_FAIL, saturating (R452). -/
  tagFail : Nat := 0
  /-- 32 bits: SEC_PFT_NO_KEY, saturating (R452). -/
  noKey : Nat := 0
  /-- 48 × 32 bits: SEC_ROOT_k_w (R452). -/
  roots : List Word := List.replicate 48 0
  /-- 32 bits: admissions, modifications and resets since power-up (R447). -/
  layouts : Nat := 0
  /-- the SPDM messages of GET_VERSION, GET_CAPABILITIES and NEGOTIATE_ALGORITHMS (R446). -/
  vca : Bytes := []
  /-- the SPDM messages of GET_DIGESTS and GET_CERTIFICATE since then (R446). -/
  certMsgs : Bytes := []
  /-- the SPDM messages of GET_MEASUREMENTS that the next signature covers (R446, R447). -/
  measMsgs : Bytes := []
  /-- keys and certificates (R436, R437). -/
  keys : Keys := {}
  deriving DecidableEq, Repr

/-- A slot of Fuelagrim's journal (R455): the counters, a CRC-32 and a commit flag, with a number that tells the newer slot. -/
structure Journal where
  /-- number of the write, which tells the newer slot (the model's own field; log entry 117) (R455). -/
  no : Nat := 0
  /-- written as 54 V good deasserted (R455). -/
  atLoss : Bool := false
  /-- EVENT_COUNTER (R459). -/
  events : Nat := 0
  /-- ENERGY_MJ as it was written (R455). -/
  energy : Nat := 0
  /-- OP_S as it was written (R455). -/
  opS : Nat := 0
  /-- OVER_S as it was written (R455). -/
  overS : Nat := 0
  /-- RECORD_SEQ of the last record (R456, R457). -/
  seq : Nat := 0
  /-- ENERGY_MJ at the last record (R457). -/
  lastEnergy : Nat := 0
  /-- OP_S at the last record (R457). -/
  lastOpS : Nat := 0
  /-- MACS as they were written (R454, R455). -/
  macs : List Nat := []
  /-- BYTES as they were written (R454, R455). -/
  bytes : List Nat := []
  /-- GEN as they were written (R454, R455). -/
  gen : List Nat := []
  /-- 32 bits: CRC-32 over the slot (R455). -/
  crc : Word := 0
  /-- the commit flag, written last (R455). -/
  flag : Bool := false
  deriving DecidableEq, Repr

/-- Fuelagrim (R453 to R460). -/
structure Meter where
  /-- 384 bits: the private meter key (R436). -/
  key : BitVec 384 := Config.meterKey
  /-- MTR_STATUS.FAULT (R460). -/
  fault : Bool := false
  /-- MTR_STATUS.OVER_RANGE (R460). -/
  overNow : Bool := false
  /-- OVER_RANGE of the next record (R457). -/
  overRec : Bool := false
  /-- FAULT of the next record (R457). -/
  faultRec : Bool := false
  /-- 4 bits: PARAM_SET (R460). -/
  paramSet : Nat := 1
  /-- 32 bits: EVENT_COUNTER (R460). -/
  eventCount : Nat := 0
  /-- 64 bits: ENERGY_MJ (R460). -/
  energy : Nat := 0
  /-- 16 bits: MTR_POWER.DW (R460). -/
  powerDw : Nat := 0
  /-- 64 bits: RECORD_SEQ of the record in MTR_RECORD (R460). -/
  seq : Nat := 0
  /-- 8 × 32 bits: MTR_NONCE_n (R460). -/
  nonce : List Word := List.replicate 8 0
  /-- 16 × 64 bits: MACS[p], in multiply-accumulates ÷ 16,384, remainder carried (R454). -/
  macs : List Nat := List.replicate 16 0
  /-- 16 × 64 bits: BYTES[p], in bytes, remainder carried (R454). -/
  bytes : List Nat := List.replicate 16 0
  /-- 16 × 16 bits: GEN[p], wraps (R454). -/
  gen : List Nat := List.replicate 16 0
  /-- OP_S (R457). -/
  opS : Nat := 0
  /-- OVER_S (R457). -/
  overS : Nat := 0
  /-- ENERGY_MJ at the previous record (R457). -/
  lastEnergy : Nat := 0
  /-- OP_S at the previous record (R457). -/
  lastOpS : Nat := 0
  /-- 472 bytes: MTR_RECORD (R460). -/
  record : Bytes := List.replicate 472 0
  /-- sealed parameter sets in one-time-programmable memory, the one in force last (R459). -/
  otp : List Bytes := [Config.paramSet 1]
  /-- journal, slot 0 (R455). -/
  j0 : Journal := {}
  /-- journal, slot 1 (R455). -/
  j1 : Journal := {}
  /-- a KIND 0 record that the tag refused, and since when (R456). -/
  tagPend : Option (Bytes × Nat) := none
  /-- event 0x0A22 was raised for it (R456). -/
  tagLate : Bool := false
  deriving DecidableEq, Repr

/-- One bank of the configuration flash (R466, R472). -/
structure Bank where
  /-- the commit flag reads 0x5A5A_A5A5 (R473). -/
  flag : Bool := false
  /-- the image bytes (R468). -/
  image : Bytes := []
  /-- its chain and signature verify (R472). -/
  authentic : Bool := false
  /-- number of its root certificate (R472). -/
  root : Nat := 0
  deriving DecidableEq, Repr

/-- The commit flag that means committed (R475). -/
abbrev commitFlag : Nat := 0x5A5AA5A5

/-- The common header of a record in flash (R12, R479), and what its slot holds after the record (R475). -/
structure RecHdr where
  /-- the slot's CRC-32 is that of the record (R475). -/
  crcGood : Bool := true
  /-- 32 bits: the slot's commit flag (R475). -/
  commit : Nat := commitFlag
  /-- VERSION (R12). -/
  version : Nat := 1
  /-- TYPE (R479). -/
  type_ : Nat := 0
  /-- LENGTH (R479). -/
  length : Nat := 0
  deriving DecidableEq, Repr

/-- The drift record (R479). -/
structure DriftRec where
  /-- common header (R12, R479). -/
  hdr : RecHdr := { type_ := 0x82, length := 448 }
  /-- SEQ (R479). -/
  seq : Nat := 0
  /-- 864 × 4 bits: DRIFT of the physical cores (R479). -/
  drift : List Nat := List.replicate 864 0
  deriving DecidableEq, Repr

/-- A fault-log entry in flash (R479, R508). -/
structure LogRec where
  /-- common header (R12, R479). -/
  hdr : RecHdr := { type_ := 0x83, length := 248 }
  /-- SEQ (R479). -/
  seq : Nat := 0
  /-- power-ups since manufacture (R479). -/
  ups : Nat := 0
  /-- µs since power-up (R479). -/
  us : Nat := 0
  /-- event code (R479). -/
  code : Nat := 0
  /-- bytes 22 onward (R508). -/
  rest : Bytes := []
  deriving DecidableEq, Repr

/-- The spare-map record (R479). -/
structure SpareMap where
  /-- common header (R12, R479). -/
  hdr : RecHdr := { type_ := 0x81, length := 11780 }
  /-- SEQ (R479). -/
  seq : Nat := 0
  /-- SESSION (R444). -/
  session : Nat := 1
  /-- states of the physical cores (R479). -/
  states : List CoreState := List.replicate 864 .fusedOff
  /-- logical numbers (R479). -/
  logical : List (Option Nat) := List.replicate 864 none
  /-- retired pseudo-channels (R479). -/
  pcs : List Bool := List.replicate 512 false
  /-- vat rows: slice, row, spare row (R479). -/
  rows : List (Nat × Nat × Nat) := []
  /-- die spares used: link, direction, spare, lane replaced (R479). -/
  dieSpares : List (Nat × Nat × Nat × Nat) := []
  /-- lanes served by the spare transmit and receive lanes: 8 × port half + lane (R479). -/
  engines : List (Option Nat × Option Nat) := List.replicate 8 (none, none)
  /-- engine fed and failed, per channel (R479). -/
  lasers : List (Option Nat × Bool) := List.replicate 10 (none, false)
  deriving DecidableEq, Repr

/-- The configuration flash (R466). -/
structure Flash where
  /-- bank A (R466). -/
  a : Bank := {}
  /-- bank B (R466). -/
  b : Bank := {}
  /-- spare map, slot 0 (R466). -/
  map0 : Option SpareMap := none
  /-- spare map, slot 1 (R466). -/
  map1 : Option SpareMap := none
  /-- drift record, slot 0 (R466). -/
  drift0 : Option DriftRec := none
  /-- drift record, slot 1 (R466). -/
  drift1 : Option DriftRec := none
  /-- fuses: maximum frequency of each physical core in MHz (R424). -/
  fused : List Nat := List.replicate 864 0
  /-- fuses: minimum steward firmware version (R472). -/
  minFw : Nat := 0
  /-- fuses: revoked root keys (R447). -/
  revoked : BitVec 8 := 0
  /-- fault-log entries, newest first (R508). -/
  logged : List LogRec := []
  /-- power-ups since manufacture (R479). -/
  powerUps : Nat := 0
  /-- a change of the spare map waits to be written (R478). -/
  mapDirty : Bool := false
  /-- a change of the drift record waits to be written (R478). -/
  driftDirty : Bool := false
  /-- rises of DRIFT whose event follows that write (R424). -/
  driftRises : Nat := 0
  /-- fault-log entries waiting to be written, oldest first: µs, code, bytes 22 onward (R508). -/
  logPend : List (Nat × Nat × Bytes) := []
  /-- last fault-log entry of each code: code, µs (R508). -/
  logTimes : List (Nat × Nat) := []
  deriving DecidableEq, Repr

/-- The service tag (R483 to R487). -/
structure Tag where
  /-- 2,048 × 32 bits: EEPROM blocks (R483). -/
  mem : List Word := List.replicate 2048 0
  /-- RF state (R483). -/
  mode : TagMode := .ready
  /-- an RF field is present (R485). -/
  rf : Bool := false
  /-- a status record that the tag refused, and since when (R485). -/
  statusPend : Option (Bytes × Nat) := none
  /-- event 0x0B06 was raised for it (R485). -/
  statusLate : Bool := false
  /-- time of the last status record (R485). -/
  statusAt : Option Nat := none
  deriving DecidableEq, Repr

/-- Start-up and update (R462 to R488). -/
structure Boot where
  /-- 4 bits: ID_BOOT_STATUS.STEP (R488). -/
  step : Nat := 0
  /-- ID_BOOT_STATUS.READY (R488). -/
  ready : Bool := false
  /-- ID_BOOT_STATUS.HALTED (R488). -/
  halted : Bool := false
  /-- ID_BOOT_STATUS.BANK: 1 is B (R488). -/
  bank : Bool := false
  /-- ID_BOOT_STATUS.UPDATE (R488). -/
  update : Bool := false
  /-- 16 bits: ID_BOOT_STATUS.CODE (R488). -/
  code : Nat := 0
  /-- 32 bits: ID_BOOT_GEN (R488). -/
  gen : Nat := 0
  /-- 32 bits: ID_BOOT_TIME (R488). -/
  ms : Nat := 0
  /-- 6 bits: BOOT_CFG.BIST_PAR (R471). -/
  bistPar : Nat := 24
  /-- BOOT_CFG.TAG_STATUS_EN (R471). -/
  tagStatusEn : Bool := true
  /-- SB_BOOT_CTRL.UPDATE (R480). -/
  updReq : Bool := false
  /-- SB_BOOT_CTRL.DONE (R480). -/
  updDone : Bool := false
  /-- 16 bits: SB_BOOT_CTRL.STATUS (R480). -/
  updStatus : Nat := 0
  /-- the target bank: 1 is B (R481). -/
  updBank : Bool := false
  /-- what the parts of the module do in the start-up in progress (R462). -/
  facts : Option StartFacts := none
  deriving DecidableEq, Repr

/-- The steward's load, the SMBus target and the sensor bus (R490 to R501). -/
structure Steward where
  /-- 7 bits: LOAD (R493). -/
  load : Nat := 0
  /-- 2 bits: SHED (R493). -/
  shed : Nat := 0
  /-- load windows since the mirrors were last refreshed (model's own counter) (R496). -/
  mirrorAge : Nat := 0
  /-- 16 bits: SLOW_WAIT_US, saturating (R493). -/
  slowWait : Nat := 0
  /-- 32 bits: ID_STEWARD_SHED_MS, saturating (R493). -/
  shedMs : Nat := 0
  /-- consecutive hot windows (R492). -/
  hot : Nat := 0
  /-- consecutive cool windows (R492). -/
  cool : Nat := 0
  /-- 6 bits: SB_EVENT (R496). -/
  sbEvent : BitVec 6 := 0
  /-- 6 bits: SB_ALERT_EN (R496). -/
  alertEn : BitVec 6 := 0x1F#6
  /-- SMB_ALERT# is driven low (R496). -/
  alert : Bool := false
  /-- 6 bits: SB_SENSOR_CFG.MARGIN (R496). -/
  margin : Nat := 10
  /-- 3 bits: ISOLATED (R496). -/
  isolated : BitVec 3 := 0
  /-- TRUNK_STUCK (R496). -/
  trunk : Bool := false
  /-- 11 bits: ABSENT (R496). -/
  absent : BitVec 11 := 0
  /-- consecutive polls each device did not acknowledge (R497). -/
  naks : List Nat := List.replicate 11 0
  /-- 8 bits: ARB_LOST, saturating (R496). -/
  arbLost : Nat := 0
  /-- 8 bits: CLEARS, saturating (R496). -/
  clears : Nat := 0
  /-- 16 bits: SB_POWER.METER_DW (R496). -/
  mPower : Nat := 0
  /-- 11 bits: SB_POWER.EFF_CAP_W (R496). -/
  mCap : Nat := 1100
  /-- 32 bits: SB_TEMP (R496). -/
  mTherm : Word := 0
  /-- 32 bits: SB_LOAD (R496). -/
  mLoad : Word := 0
  /-- 32 bits: SB_STATUS (R496). -/
  mStatus : Word := 0
  deriving DecidableEq, Repr

/-- An entry of the event log (R505). -/
structure LogEntry where
  /-- 3 bits: CLASS (R505). -/
  cls : Nat := 0
  /-- PART_VALID and PARTITION (R505). -/
  part : Option Nat := none
  /-- 16 bits: CODE (R505). -/
  code : Nat := 0
  /-- 32 bits: SEQ (R505). -/
  seq : Nat := 0
  /-- 64 bits: TIME_US (R505). -/
  us : Nat := 0
  /-- 12 bytes: DETAIL (R505). -/
  detail : Bytes := List.replicate 12 0
  /-- the entry has been written (R505). -/
  written : Bool := false
  deriving DecidableEq, Repr

/-- The error block (R505 to R525). -/
structure Err where
  /-- 128 × 32 bytes: ERR_LOG (R505). -/
  log : List LogEntry := List.replicate 128 {}
  /-- 7 bits: ERR_LOG_HEAD (R525). -/
  head : Nat := 0
  /-- 7 bits: ERR_LOG_TAIL (R525). -/
  tail : Nat := 0
  /-- ERR_STATUS.OVERFLOW (R525). -/
  overflow : Bool := false
  /-- ERR_STATUS.AUTO_WARM (R525). -/
  autoWarm : Bool := false
  /-- 4 bits: AUTO_WARMS, saturating (R525). -/
  autoWarms : Nat := 0
  /-- time of the last warm reset started by the module (R522). -/
  lastAuto : Option Nat := none
  /-- 16 bits: LAST_CODE (R525). -/
  lastCode : Nat := 0
  /-- 6 bits: ERR_CTRL.IRQ_EN (R525). -/
  irqEn : BitVec 6 := 0x3C#6
  /-- ERR_CTRL.AUTO_WARM_EN (R525). -/
  autoWarmEn : Bool := true
  /-- 32 bits: ERR_DROPPED, saturating (R525). -/
  dropped : Nat := 0
  /-- 32 bits: ERR_LOG_SUPPRESSED, saturating (R525). -/
  suppressed : Nat := 0
  /-- 32 bits: ERR_SEQ, wraps (R525). -/
  seq : Nat := 0
  /-- 5 × 32 bits: ERR_CORR_CORE, _BOND, _VAT, _HBM, _HUB, saturating (R525). -/
  corr : List Nat := [0, 0, 0, 0, 0]
  /-- 32 bits: ERR_UNCORR, saturating (R525). -/
  uncorr : Nat := 0
  /-- 8 bits: INTERVAL_H (R525). -/
  intervalH : Nat := 24
  /-- 4 bits: PAR (R525). -/
  par : Nat := 1
  /-- 10 bits: ERR_TEST_CTRL.CORE (R525). -/
  core : Nat := 0
  /-- 10 bits: LAST_CORE (R525). -/
  lastCore : Nat := 0
  /-- LAST_FAIL (R525). -/
  lastFail : Bool := false
  /-- 16 bits: TESTED, saturating (R525). -/
  tested : Nat := 0
  /-- logical cores due for a test, in order (R519). -/
  due : List Nat := []
  /-- last time each rate-limited event was raised: key, µs (R507). -/
  rates : List (Nat × Nat) := []
  /-- time of the last raise of vector 64 (R507). -/
  irqAt : Option Nat := none
  /-- raises combined into one that is still to come (R507). -/
  irqPend : Bool := false
  deriving DecidableEq, Repr

/-- The host-loss epochs retained in the cellar (R371, R372). -/
structure Hle where
  /-- 16 bits (RETAINED): partition, epoch, its records, its leases (R372). -/
  retained : List (Nat × Nat × List Bytes × List Lease) := []
  /-- 16 bits: ID_HLE_STATUS.LOST (R372). -/
  lost : BitVec 16 := 0
  /-- 32 bits: ID_HLE_ADDR_LO (R372). -/
  addrLo : Word := 0
  /-- 20 bits: ID_HLE_ADDR_HI (R372). -/
  addrHi : Word := 0
  /-- 32 bits: ID_HLE_SIZE (R372). -/
  size : Nat := 0
  /-- 4 bits: ID_HLE_CTRL.PARTITION (R372). -/
  part : Nat := 0
  /-- 16 bits: ID_HLE_CTRL.STATUS (R372). -/
  status : Nat := 0
  deriving DecidableEq, Repr

/-- The registers of the function's configuration space that hold something of their own (R348, R351). -/
structure CfgSpace where
  /-- memory space enable and bus master enable (R351). -/
  command : BitVec 2 := 0
  /-- 40 bits: BAR0, address bits [63:24] (R351). -/
  bar0 : Nat := 0
  /-- 36 bits: BAR2, address bits [63:28] (R351). -/
  bar2 : Nat := 0
  /-- 3 bits: Max_Payload_Size, 0 to 2 for 128 to 512 bytes (R348). -/
  mps : Nat := 0
  /-- 3 bits: Max_Read_Request_Size, 0 to 5 for 128 to 4,096 bytes (R348). -/
  mrrs : Nat := 2
  /-- ASPM L1 enabled (R348). -/
  aspm : Bool := false
  deriving DecidableEq, Repr

/-- The host link and the ID block (R6 to R8, R348 to R376). -/
structure Link where
  /-- the link (R367). -/
  st : LinkState := .down
  /-- 3 bits: ID_LINK_STATUS.SPEED (R356). -/
  speed : Nat := 0
  /-- 5 bits: ID_LINK_STATUS.WIDTH (R356). -/
  width : Nat := 0
  /-- 2 bits: ID_LINK_STATUS.FLIT (R356). -/
  flit : Nat := 0
  /-- ID_LINK_STATUS.CXL_CACHE (R356). -/
  cache : Bool := false
  /-- 16 bits: ID_LINK_STATUS.RETRAINS, saturating (R356). -/
  retrains : Nat := 0
  /-- the function is in D3hot (R350). -/
  d3hot : Bool := false
  /-- configuration requests are answered (else Request Retry Status) (R369). -/
  cfgOk : Bool := false
  /-- 8 bits: ID_HOST_LEVEL.LEVEL (R7). -/
  hostLevel : Nat := 0
  /-- 8 bits: ID_EFFECTIVE_LEVEL.LEVEL (R8). -/
  effLevel : Nat := 0
  /-- 8 bits: ID_HOST_CTRL.FLUSH_S (R356). -/
  flushS : Nat := 10
  /-- ID_HOST_STATUS.HOST_LOSS (R356). -/
  hostLoss : Bool := false
  /-- no BAR0 access has been made since the host-loss reset (R354). -/
  firstAccess : Bool := false
  /-- ID_HOST_STATUS.FLUSH_ABANDONED (R356). -/
  flushAbandoned : Bool := false
  /-- ID_HOST_STATUS.WARM_DONE (R356). -/
  warmDone : Bool := false
  /-- 3 bits: ID_HOST_STATUS.LAST_CAUSE (R356). -/
  lastCause : Nat := 0
  /-- 16 bits: ID_HOST_STATUS.HOST_LOSSES, saturating (R356). -/
  hostLosses : Nat := 0
  /-- 32 bits: ID_LAND_DISCARD, saturating (R356). -/
  landDiscard : Nat := 0
  /-- a host-loss reset is in progress, its exports not complete (R369). -/
  losing : Bool := false
  /-- a cause of a host-loss reset that arrived during a warm reset (R369). -/
  lossPend : Option HostLossCause := none
  /-- vectors pending: raised while the host takes no outbound traffic or while masked, in order; the MSI-X pending bit array (R350, R352, R367). -/
  heldVec : List Nat := []
  /-- 72 × 128 bits: MSI-X table, each vector masked at reset (R352). -/
  msixTable : List Word := (List.range 288).map fun i => if i % 4 = 3 then 1 else 0
  /-- configuration space (R348, R351). -/
  cfg : CfgSpace := {}
  deriving DecidableEq, Repr

/-- The inventory registers (R33 to R36, R121) and the part's identity. -/
structure Inv where
  /-- 10 bits: ENABLED (R33). -/
  enabled : Nat := 0
  /-- 4 × 8 bits: ID_CORE_SPARES (R34). -/
  spares : List Nat := [0, 0, 0, 0]
  /-- 6 bits: RETIRED, saturating at 63 (R33). -/
  retired : Nat := 0
  /-- 2 bits: GUEST (R33). -/
  guest : Nat := 0
  /-- 10 bits: HBM_PC_ACTIVE (R35). -/
  hbmPc : Nat := 0
  /-- 12 bits: VAT_SPARE_ROWS (R35). -/
  vatSpares : Nat := 0
  /-- 4 bits: LASER_ACTIVE (R36). -/
  laserActive : Nat := 0
  /-- 2 bits: LASER_SPARES (R36). -/
  laserSpares : Nat := 0
  /-- 4 bits: TX_SPARE_LANES (R36). -/
  txSpares : Nat := 0
  /-- 4 bits: RX_SPARE_LANES (R36). -/
  rxSpares : Nat := 0
  /-- 16 bits: PORT_DEGRADED (R36). -/
  degraded : BitVec 16 := 0
  /-- ID_CHAIN_FORMS.STAGE_LIST_EN (R121). -/
  stageListEn : Bool := true
  /-- ID_CHAIN_FORMS.TILE_PROG_EN (R121). -/
  tileProgEn : Bool := true
  /-- 64 bits: ID_SERIAL (R356). -/
  serial : BitVec 64 := 0
  /-- 8 bits: ID_SILICON.STEPPING (R356). -/
  stepping : Nat := 1
  deriving DecidableEq, Repr

/-- A request for a shared resource that waits (R274). -/
structure CreditReq where
  /-- resource: 0 staging, 1 hub ingress, 3 slow path, 4 + b the migration DMA of B-die b (R273). -/
  res : Nat := 0
  /-- partition (R274). -/
  part : Nat := 0
  /-- class of its command (R274). -/
  cls : Nat := 1
  /-- units asked for (R273). -/
  units : Nat := 1
  /-- client: a queue, 64 and more for a move, or 2^40 and more for a partition's guest traffic (R274, R403). -/
  who : Nat := 0
  /-- time of the request (R277). -/
  since : Nat := 0
  deriving DecidableEq, Repr

/-- Admission control and the shared resources (R248, R273 to R275). -/
structure Adm where
  /-- 32 bits: PART_ADMIT_ADDR_LO (R248). -/
  addrLo : Word := 0
  /-- 20 bits: PART_ADMIT_ADDR_HI (R248). -/
  addrHi : Word := 0
  /-- PART_ADMIT_CTRL.BUSY (R248). -/
  busy : Bool := false
  /-- 4 bits: PART_ADMIT_CTRL.PARTITION (R248). -/
  part : Nat := 0
  /-- 16 bits: PART_ADMIT_CTRL.STATUS (R248). -/
  status : Nat := 0
  /-- 3 × 6 bits: PART_C0_CARVE (R275). -/
  carve : List Nat := [8, 8, 8]
  /-- commands admitted so far (model's own counter) (R161). -/
  admitNo : Nat := 0
  /-- credit held: resource, holder, whose share it comes from (16: the carve), units (R274). -/
  credits : List (Nat × Nat × Nat × Nat) := []
  /-- requests waiting, in arrival order (R274). -/
  waiting : List CreditReq := []
  /-- slow-path requests served, over CORES, by partition (R491). -/
  slowVt : List Rat := List.replicate 16 0
  deriving DecidableEq, Repr

/-- The pins and the input (R37 to R45). -/
structure Pins where
  /-- 54 V good (R42). -/
  vin : Bool := false
  /-- MOD_READY (R40). -/
  ready : Bool := false
  /-- PWR_BRAKE# is held low (R40). -/
  brake : Bool := false
  deriving DecidableEq, Repr

/-- The state of the module. -/
structure State where
  /-- The commands that are waiting, first in first out (the model's own field). -/
  pending : List Instr := []
  /-- Microseconds since power-up (R505). -/
  nowUs : Nat := 0
  /-- Draws of free values so far (the model's own field). -/
  fresh : Nat := 0
  /-- What the module as a whole is doing (R40, R462). -/
  phase : RunPhase := .off
  /-- Pins and input (R37 to R45). -/
  pins : Pins := {}
  /-- Host link and ID block (R348 to R376). -/
  link : Link := {}
  /-- Inventory registers (R33 to R36, R121). -/
  inv : Inv := {}
  /-- Admission control and shared resources (R248, R273 to R275). -/
  adm : Adm := {}
  /-- The 16 partitions (R245). -/
  parts : List Part := List.replicate 16 {}
  /-- The 64 queues (R253). -/
  queues : List Queue := List.replicate 64 {}
  /-- Memory and placement (R200 to R243). -/
  mem : Mem := {}
  /-- The 864 physical cores (R23). -/
  cores : List PhysCore := List.replicate 864 {}
  /-- Vector engines that are not at zero, by physical core (R81). -/
  engines : List (Nat × TileCtx) := []
  /-- Core stores, weight registers, accumulators and feeders that hold anything, by physical core (R81). -/
  coreMems : List (Nat × CoreMem) := []
  /-- Plynula Fabric Transport (R284 to R316). -/
  fab : Fab := {}
  /-- Optical ports and lasers (R319 to R346). -/
  optics : Optics := {}
  /-- Package fabric, islands, directory, rind (R377 to R408). -/
  fabric : Fabric := {}
  /-- Power block (R410 to R434). -/
  power : Power := {}
  /-- Security block (R436 to R452). -/
  sec : Sec := {}
  /-- Fuelagrim (R453 to R460). -/
  meter : Meter := {}
  /-- Configuration flash and fuses (R466 to R479). -/
  flash : Flash := {}
  /-- Service tag (R483 to R487). -/
  tag : Tag := {}
  /-- Start-up and update (R462 to R488). -/
  boot : Boot := {}
  /-- Steward, SMBus target and sensor bus (R490 to R501). -/
  steward : Steward := {}
  /-- Error block (R505 to R525). -/
  err : Err := {}
  /-- Retained host-loss epochs (R371, R372). -/
  hle : Hle := {}
  /-- What the module has put on its links and pins, oldest first (the model's own field). -/
  out : List Out := []
  deriving DecidableEq, Repr

/-- The image of the nominal part's bank A: the header of R468, one section of KIND 1 and a signature block (DESIGN CHOICE, log entry 3). -/
def factoryImage : Bytes :=
  leBytes 1 1 ++ leBytes 1 0x80 ++ leBytes 2 64 ++ leBytes 4 188 ++ leBytes 4 1 ++ leBytes 2 1 ++ leBytes 2 1 ++ leBytes 4 84 ++
    leBytes 44 0 ++ (leBytes 4 1 ++ leBytes 4 80 ++ leBytes 4 4 ++ leBytes 4 0) ++ leBytes 4 0 ++ (leBytes 4 4 ++ leBytes 4 0 ++ leBytes 96 0)

/-- State of physical core `n` of the nominal part: on each B-die the first 200 cores enabled, the last 16 spare (R26, R27; DESIGN CHOICE, log entry 3). -/
def factoryCore (n : Nat) : CoreState := if n % 216 < 200 then .enabled else .spare

/-- Logical number of physical core `n` of the nominal part (R27). -/
def factoryLogical (n : Nat) : Option Nat := if n % 216 < 200 then some (200 * (n / 216) + n % 216) else none

/-- The spare map of the nominal part as manufactured (R26, R27, R444, R479; DESIGN CHOICE, log entry 3). -/
def factoryMap : SpareMap :=
  { states := (List.range 864).map factoryCore
    logical := (List.range 864).map factoryLogical
    lasers := (List.range 10).map fun n => (if n < 8 then some n else none, false) }

/-- The flash and fuses of the nominal part as manufactured: bank A holds an authentic image of GENERATION 1 (DESIGN CHOICE, log entry 3). -/
def factoryFlash : Flash :=
  { a := { flag := true, image := factoryImage, authentic := true }
    map0 := some factoryMap
    drift0 := some {}
    fused := List.replicate 864 1600 }

/-- The module as it stands with its hub rails off and every register at its reset value, its flash as manufactured. -/
def State.reset : State := { flash := factoryFlash }

/-- Replace pending. -/
def State.setPending (s : State) (v : List Instr) : State := { s with pending := v }

/-- Replace nowUs. -/
def State.setNowUs (s : State) (v : Nat) : State := { s with nowUs := v }

/-- Replace fresh. -/
def State.setFresh (s : State) (v : Nat) : State := { s with fresh := v }

/-- Replace phase. -/
def State.setPhase (s : State) (v : RunPhase) : State := { s with phase := v }

/-- Replace pins. -/
def State.setPins (s : State) (v : Pins) : State := { s with pins := v }

/-- Replace link. -/
def State.setLink (s : State) (v : Link) : State := { s with link := v }

/-- Replace inv. -/
def State.setInv (s : State) (v : Inv) : State := { s with inv := v }

/-- Replace adm. -/
def State.setAdm (s : State) (v : Adm) : State := { s with adm := v }

/-- Replace parts. -/
def State.setParts (s : State) (v : List Part) : State := { s with parts := v }

/-- Replace queues. -/
def State.setQueues (s : State) (v : List Queue) : State := { s with queues := v }

/-- Replace mem. -/
def State.setMem (s : State) (v : Mem) : State := { s with mem := v }

/-- Replace cores. -/
def State.setCores (s : State) (v : List PhysCore) : State := { s with cores := v }

/-- Replace coreMems. -/
def State.setCoreMems (s : State) (v : List (Nat × CoreMem)) : State := { s with coreMems := v }

/-- Replace engines. -/
def State.setEngines (s : State) (v : List (Nat × TileCtx)) : State := { s with engines := v }

/-- Replace fab. -/
def State.setFab (s : State) (v : Fab) : State := { s with fab := v }

/-- Replace optics. -/
def State.setOptics (s : State) (v : Optics) : State := { s with optics := v }

/-- Replace fabric. -/
def State.setFabric (s : State) (v : Fabric) : State := { s with fabric := v }

/-- Replace power. -/
def State.setPower (s : State) (v : Power) : State := { s with power := v }

/-- Replace sec. -/
def State.setSec (s : State) (v : Sec) : State := { s with sec := v }

/-- Replace meter. -/
def State.setMeter (s : State) (v : Meter) : State := { s with meter := v }

/-- Replace flash. -/
def State.setFlash (s : State) (v : Flash) : State := { s with flash := v }

/-- Replace tag. -/
def State.setTag (s : State) (v : Tag) : State := { s with tag := v }

/-- Replace boot. -/
def State.setBoot (s : State) (v : Boot) : State := { s with boot := v }

/-- Replace steward. -/
def State.setSteward (s : State) (v : Steward) : State := { s with steward := v }

/-- Replace err. -/
def State.setErr (s : State) (v : Err) : State := { s with err := v }

/-- Replace hle. -/
def State.setHle (s : State) (v : Hle) : State := { s with hle := v }

/-- Replace out. -/
def State.setOut (s : State) (v : List Out) : State := { s with out := v }

end Sys2Proof.Machine
end

