-- ==== Sys2Proof/Machine/Ops.lean ====
section
/-! DEFINITION. The named operations over memory, registers, events and interrupts that the meanings share. -/

namespace Sys2Proof.Machine

/-! Memory as a canonical list of cells: addresses strictly rising, no entry equal to what an unlisted address reads as. -/

/-- What a byte that no entry lists reads as (DESIGN CHOICE, log entry 4; R203 for a newly mapped slab). -/
def Memory.blank : Byte := 0

/-- A memory: cells with strictly rising addresses. -/
abbrev Memory := List Host.Cell

/-- Every listed address lies above `lo`, the list rises, and no entry is blank. -/
def Memory.wfFrom : Option Nat → Memory → Bool
  | _, [] => true
  | lo, (a, v) :: r => (match lo with | none => true | some x => decide (x < a)) && decide (v ≠ Memory.blank) && Memory.wfFrom (some a) r

/-- The canonical form. -/
def Memory.wf (m : Memory) : Bool := Memory.wfFrom none m

/-- Read one byte. -/
def Memory.get : Memory → Nat → Byte
  | [], _ => Memory.blank
  | (k, v) :: r, a => if k = a then v else Memory.get r a

/-- Write one byte. -/
def Memory.put : Memory → Nat → Byte → Memory
  | [], a, v => if v = Memory.blank then [] else [(a, v)]
  | (k, w) :: r, a, v =>
    if a < k then (if v = Memory.blank then (k, w) :: r else (a, v) :: (k, w) :: r)
    else if a = k then (if v = Memory.blank then r else (a, v) :: r)
    else (k, w) :: Memory.put r a v

/-- Read `n` bytes from address `a`. -/
def Memory.read (m : Memory) (a : Nat) : Nat → Bytes
  | 0 => []
  | n + 1 => m.get a :: Memory.read m (a + 1) n

/-- Write a byte string from address `a`. -/
def Memory.write (m : Memory) (a : Nat) : Bytes → Memory
  | [] => m
  | b :: bs => Memory.write (m.put a b) (a + 1) bs

/-- Write a list of single bytes, in order. -/
def Memory.puts (m : Memory) : List Host.Cell → Memory
  | [] => m
  | (a, v) :: r => Memory.puts (m.put a v) r

/-- Forget every byte of [lo, hi), which then reads blank. -/
def Memory.clear (m : Memory) (lo hi : Nat) : Memory := m.filter fun c => !(decide (lo ≤ c.1) && decide (c.1 < hi))

/-- Little-endian number of `n` bytes at `a` (R16). -/
def Memory.num (m : Memory) (a n : Nat) : Nat := leNat (m.read a n)

/-! Accessors of the numbered parts of the state. -/

/-- Partition `p`. -/
def State.part (s : State) (p : Nat) : Part := s.parts.getD p {}

/-- Update partition `p`. -/
def State.modPart (s : State) (p : Nat) (f : Part → Part) : State := s.setParts (updAt s.parts p f)

/-- Queue `q`. -/
def State.queue (s : State) (q : Nat) : Queue := s.queues.getD q {}

/-- Update queue `q`. -/
def State.modQueue (s : State) (q : Nat) (f : Queue → Queue) : State := s.setQueues (updAt s.queues q f)

/-- Port `n`. -/
def State.port (s : State) (n : Nat) : Port := s.optics.ports.getD n {}

/-- Update port `n`. -/
def State.modPort (s : State) (n : Nat) (f : Port → Port) : State :=
  s.setOptics { s.optics with ports := updAt s.optics.ports n f }

/-- Update laser channel `c`. -/
def State.modLaser (s : State) (c : Nat) (f : Laser → Laser) : State :=
  s.setOptics { s.optics with lasers := updAt s.optics.lasers c f }

/-- Physical core `n`. -/
def State.core (s : State) (n : Nat) : PhysCore := s.cores.getD n {}

/-- Update physical core `n`. -/
def State.modCore (s : State) (n : Nat) (f : PhysCore → PhysCore) : State := s.setCores (updAt s.cores n f)

/-- The device range (R200). -/
def State.dev (s : State) : Memory := s.mem.dev

/-- Replace the device range. -/
def State.setDev (s : State) (m : Memory) : State := s.setMem { s.mem with dev := m }

/-- Host memory. -/
def State.hostMem (s : State) : Memory := s.mem.hostMem

/-- Replace host memory. -/
def State.setHostMem (s : State) (m : Memory) : State := s.setMem { s.mem with hostMem := m }

/-- Write host memory (R357). -/
def State.hostWrite (s : State) (a : Nat) (bs : Bytes) : State := s.setHostMem (s.hostMem.write a bs)

/-- The directory's entry of a host line (R397). -/
def State.dirLine (s : State) (line : Nat) : DirLine := (s.fabric.lines.find? fun l => l.line == line).getD { line := line }

/-- Replace an entry; one that says nothing is dropped. -/
def State.setLine (s : State) (l : DirLine) : State :=
  let rest := s.fabric.lines.filter fun x => x.line != l.line
  s.setFabric { s.fabric with
    lines := if l.owner.isNone && l.sharers.isEmpty && l.waiting.isEmpty && l.cached.isNone then rest else rest ++ [l] }

/-- The bytes that the host does not have: those of the owner's line buffer, else the cache's (R357, R397). -/
def DirLine.dirtyData (l : DirLine) : Option Bytes := match l.buf with | some d => some d | none => if l.dirty then l.cached else none

/-- A line leaves the host-line cache: its dirty data goes to the host, and no agent keeps a copy (R357, R358). -/
def State.evictLine (s : State) (line : Nat) : State :=
  let l := s.dirLine line
  let s := match l.dirtyData with | some d => s.hostWrite (64 * line) d | none => s
  s.setLine { l with owner := none, sharers := [], cached := none, dirty := false, buf := none }

/-- Put one observation on the module's links and pins. -/
def State.emit (s : State) (o : Out) : State := s.setOut (s.out ++ [o])

/-- The host lines that `n` bytes from `a` touch. -/
def linesOf (a n : Nat) : List Nat := if n = 0 then [] else (List.range ((a + n - 1) / 64 - a / 64 + 1)).map (· + a / 64)

/-- Requests that the CXL.cache agent makes for some lines (R357). -/
def State.cxlAsk (s : State) (rs : List CxlReq) (ls : List Nat) : State := s.setOut (s.out ++ ls.flatMap fun l => rs.map fun r => .cxl r l)

/-- A write by the CXL.cache agent: the lines it touches are taken from their holders, merged and evicted, so that the host sees them; a whole line is written by ItoMWr, a part after RdOwn (R227, R262, R357, R399). -/
def State.coherentWrite (s : State) (a : Nat) (bs : Bytes) : State :=
  let held := s.fabric.lines.filter fun l => decide (64 * l.line < a + bs.length ∧ a < 64 * l.line + 64)
  let whole : Nat → Bool := fun l => decide (a ≤ 64 * l) && decide (64 * l + 64 ≤ a + bs.length)
  let ls := linesOf a bs.length
  (((held.foldl (fun s l => s.evictLine l.line) s).hostWrite a bs).cxlAsk [.itoMWr] (ls.filter whole)).cxlAsk [.rdOwn, .dirtyEvict] (ls.filter fun l => !whole l)

/-- Bytes `d` at `x` laid over bytes `b` at `a`. -/
def overlay (b : Bytes) (a : Nat) (d : Bytes) (x : Nat) : Bytes :=
  b.zipIdx.map fun y => if x ≤ a + y.2 ∧ a + y.2 < x + d.length then d.getD (a + y.2 - x) 0 else y.1

/-- What the CXL.cache agent reads at `n` bytes from `a`: host memory, beneath the dirty lines that it holds (R357). -/
def State.hostSeen (s : State) (a n : Nat) : Bytes :=
  s.fabric.lines.foldl (fun b l => match l.dirtyData with | some d => overlay b a d (64 * l.line) | none => b) (s.hostMem.read a n)

/-- Draw a free number. -/
def State.draw (s : State) : Nat × State := (Config.freeNat s.fresh, s.setFresh (s.fresh + 1))

/-! Interrupts and events (R354, R503 to R509). -/

/-- Outbound messages reach the host: the link is in L0 and the function in D0, and no host-loss reset runs (R350, R367, R369). -/
def State.outbound (s : State) : Bool := s.link.st == .l0 && !s.link.d3hot && !s.link.losing

/-- The mask bit of vector `v` in the MSI-X table (R352). -/
def State.vecMasked (s : State) (v : Nat) : Bool := (s.link.msixTable.getD (4 * v + 3) 1).getLsbD 0

/-- Raise MSI-X vector `v` (R354); while the host takes no outbound traffic, or the vector is masked, it is pending (R350, R352, R367; log entry 12). -/
def State.msix (s : State) (v : Nat) : State :=
  if s.outbound && !s.vecMasked v then s.emit (.msix v)
  else if s.link.heldVec.contains v then s
  else s.setLink { s.link with heldVec := s.link.heldVec ++ [v] }

/-- The pending messages that are not masked go out when the host takes them (R350, R352, R367). -/
def State.flushVec (s : State) : State :=
  if s.outbound then s.link.heldVec.foldl State.msix (s.setLink { s.link with heldVec := [] }) else s

/-- The class of an event code (R504, R528); 0x0D22 has two classes and is passed its own. -/
def classOf (code : Nat) : Nat :=
  if [0x0321, 0x0510, 0x0612, 0x0613, 0x0620, 0x0621, 0x0622, 0x0811, 0x0821, 0x0915, 0x0A20, 0x0B0B, 0x0C21, 0x0C22, 0x0C23].contains code then 2
  else if code = 0x0410 then 3
  else if code = 0x0210 then 4
  else if [0x0623, 0x0711, 0x0712, 0x0916, 0x0A12].contains code then 5
  else if [0x0D01, 0x0D03, 0x0D04, 0x0D06, 0x0D07, 0x0D08, 0x0D22].contains code then 2
  else if code = 0x0D02 then 3
  else if code = 0x0D10 then 1
  else if code = 0x0D20 then 4
  else if [0x0D21, 0x0D30, 0x0D31, 0x0D40].contains code then 5
  else 0

/-- Twelve zero bytes of DETAIL (R505). -/
def noDetail : Bytes := List.replicate 12 0

/-- Byte 4 of a log entry (R505). -/
def logByte4 (cls : Nat) (part : Option Nat) : Nat :=
  match part with | none => cls | some p => cls + 8 + 16 * p

/-- An event log entry as its 32 bytes (R505). -/
def LogEntry.encode (e : LogEntry) : Bytes :=
  if e.written then
    leBytes 1 1 ++ leBytes 1 0x90 ++ leBytes 2 32 ++ leBytes 1 (logByte4 e.cls e.part) ++ leBytes 1 0 ++ leBytes 2 e.code ++
      leBytes 4 e.seq ++ leBytes 8 e.us ++ e.detail
  else List.replicate 32 0

/-- Look up a key in a list of times. -/
def lookupTime (l : List (Nat × Nat)) (k : Nat) : Option Nat := (l.find? fun x => x.1 == k).map (·.2)

/-- Set a key in a list of times. -/
def setTime (l : List (Nat × Nat)) (k t : Nat) : List (Nat × Nat) := (k, t) :: l.filter fun x => x.1 != k

/-- Raise vector 64, combining raises less than 10 µs apart (R507). -/
def State.raiseIrq (s : State) : State :=
  match s.err.irqAt with
  | some t => if s.nowUs < t + 10 then s.setErr { s.err with irqPend := true } else (s.setErr { s.err with irqAt := some s.nowUs }).msix 64
  | none => (s.setErr { s.err with irqAt := some s.nowUs }).msix 64

/-- Queue an event for the fault log in flash, at most one of a code in 100 ms (R508, R478). -/
def State.faultLog (s : State) (cls : Nat) (part : Option Nat) (code : Nat) (detail : Bytes) : State :=
  let again := match lookupTime s.flash.logTimes code with | some t => decide (s.nowUs < t + 100000) | none => false
  if again then s.setErr { s.err with suppressed := sat32 s.err.suppressed 1 }
  else s.setFlash { s.flash with
    logTimes := setTime s.flash.logTimes code s.nowUs
    logPend := s.flash.logPend ++ [(s.nowUs, code, leBytes 1 (logByte4 cls part) ++ leBytes 1 0 ++ detail)] }

/-- Record an event of a given class in the log, the fault log and the vector (R503 to R508). -/
def State.event (s : State) (cls : Nat) (code : Nat) (part : Option Nat) (detail : Bytes) : State :=
  let e := s.err
  let seq := (e.seq + 1) % 2 ^ 32
  let full := decide ((e.head + 128 - e.tail) % 128 = 127)
  let entry : LogEntry := { cls := cls, part := part, code := code, seq := seq, us := s.nowUs, detail := detail, written := true }
  let s := s.setErr { e with
    log := updAt e.log e.head fun _ => entry
    head := (e.head + 1) % 128
    tail := if full then (e.tail + 1) % 128 else e.tail
    dropped := if full then sat32 e.dropped 1 else e.dropped
    overflow := e.overflow || full
    seq := seq
    lastCode := code }
  let s := if e.irqEn.getLsbD cls then s.raiseIrq else s
  if 2 ≤ cls then s.faultLog cls part code detail else s

/-- Record an event with no partition and no DETAIL. -/
def State.raise (s : State) (code : Nat) : State := s.event (classOf code) code none noDetail

/-- Record an event of partition `p` with no DETAIL. -/
def State.raiseP (s : State) (code p : Nat) : State := s.event (classOf code) code (some p) noDetail

/-- An event under the key `key` was recorded within the last `gapUs` (R507). -/
def State.tooSoon (s : State) (key gapUs : Nat) : Bool :=
  match lookupTime s.err.rates key with | some t => decide (s.nowUs < t + gapUs) | none => false

/-- Record an event at most once in `gapUs` under the key `key` (R507). -/
def State.raiseLimited (s : State) (code key gapUs : Nat) (part : Option Nat) : State :=
  if s.tooSoon key gapUs then s
  else (s.setErr { s.err with rates := setTime s.err.rates key s.nowUs }).event (classOf code) code part noDetail

/-- Core form of DETAIL (R511). -/
def coreDetail (phys : Nat) (logical : Option Nat) (cause result : Nat) : Bytes :=
  leBytes 2 phys ++ leBytes 2 (logical.getD 0xFFFF) ++ leBytes 1 (phys / 216) ++ leBytes 1 cause ++ leBytes 1 result ++ leBytes 5 0

/-- Memory form of DETAIL (R511). -/
def memDetail (addr tier unit row kind : Nat) : Bytes :=
  leBytes 6 addr ++ leBytes 1 tier ++ leBytes 1 unit ++ leBytes 2 row ++ leBytes 1 kind ++ leBytes 1 0

/-- Change form of DETAIL (R511). -/
def changeDetail (reg1 reg2 code seq num : Nat) : Bytes :=
  leBytes 3 reg1 ++ leBytes 3 reg2 ++ leBytes 2 code ++ leBytes 2 (seq % 65536) ++ leBytes 2 num

/-- "No register" in the change form. -/
abbrev noReg : Nat := 0xFFFFFF

/-- BAR0 offsets of the inventory registers. -/
abbrev regCoreInv : Nat := 0x100
abbrev regCoreSpares : Nat := 0x104
abbrev regMemInv : Nat := 0x108
abbrev regOptInv : Nat := 0x10C

/-- The inventory registers have been loaded: start-up has applied the spare map (R32). -/
def State.inventoryLoaded (s : State) : Bool := s.phase != .boot || decide (9 ≤ s.boot.step)

/-- A capacity-change event for the registers changed by the event just recorded (R32, R511); an inventory register that start-up has not loaded does not change. -/
def State.capacityChange (s : State) (reg1 reg2 num : Nat) : State :=
  if s.inventoryLoaded || decide (regOptInv < reg1) then s.event 2 0x0D01 none (changeDetail reg1 reg2 s.err.lastCode s.err.seq num) else s

/-- An SB_EVENT bit is set; an enabled bit that rises from 0 drives SMB_ALERT# low (R496). -/
def State.sbSet (s : State) (k : Nat) : State :=
  let w := s.steward
  s.setSteward { w with
    sbEvent := w.sbEvent ||| (1#6 <<< k)
    alert := w.alert || (w.alertEn.getLsbD k && !w.sbEvent.getLsbD k) }

/-- The module wakes from S3 or S4; the lasers ramp together from threshold bias (R431). -/
def State.wakeNow (s : State) : State :=
  if s.power.idle = 0 then s
  else
    (s.setPower { s.power with idle := 0 }).setOptics { s.optics with
      lasers := s.optics.lasers.map fun l => if l.st = .idle then { l with st := .ramping } else l }

/-- Frequency of operation of a core in MHz (R424). -/
def PhysCore.fop (c : PhysCore) : Nat := c.fused - 25 * c.drift

/-- The clock that a core is to run at: 1.60 GHz in repeatability mode, else its FOP (R418). -/
def PhysCore.clock (c : PhysCore) (mode : Nat) : Nat := if mode = 2 then 1600 else c.fop

/-- The limit that a core issues at: none under a droop stop, that of the recovery after it, else q, which is at least 1 (R414, R423). -/
def PhysCore.limit (c : PhysCore) : Nat := match c.droop with | some k => min k (max 1 c.q) | none => max 1 c.q

/-- Every core that is present takes the clock of the mode in force (R418). -/
def State.setClocks (s : State) : State :=
  s.setCores (s.cores.map fun c => if c.logical.isSome then { c with mhz := c.clock s.power.mode } else c)

/-- Offsets of the wake latencies in µs (R429). -/
abbrev latS1 : Nat := 2
abbrev latS2 : Nat := 80
abbrev latS3 : Nat := 3000
abbrev latS4 : Nat := 40000

/-- The deepest state that a tolerance allows (PWR_IDLE.DEEPEST, R432). -/
def deepest (tol : Nat) : Nat := if tol < latS1 then 0 else if tol < latS2 then 1 else if tol < latS3 then 2 else if tol < latS4 then 3 else 4

/-- An event of the power and thermal block is raised, which wakes the module (R431, R435). -/
def State.pwrRaise (s : State) (code : Nat) : State := s.wakeNow.raise code

/-- A power event bit (R433) is set, which wakes the module (R431); THROTTLE and TRIP also set SB_EVENT.THERMAL (R496). -/
def State.pwrEvent (s : State) (b : Nat) : State :=
  let s := s.wakeNow
  let s := s.setPower { s.power with event := s.power.event ||| (1#8 <<< b) }
  if b = 2 ∨ b = 3 then s.sbSet 2 else s

/-- ID_EFFECTIVE_LEVEL after a change of ID_HOST_LEVEL: the lower of it and 1 (R6, R8). -/
def effLevelOf (host : Nat) : Nat := min 1 host

/-- Some partition is admitted (R9). -/
def State.anyPart (s : State) : Bool := s.parts.any (·.admitted)

/-! Capacity of the tiers. -/

/-- Slabs a pseudo-channel carries (R215). -/
abbrev pcSlabs : Nat := 288

/-- Set the spare-map record aside for writing (R477, R478). -/
def State.mapChanged (s : State) : State := s.setFlash { s.flash with mapDirty := true }

/-- The drift record has changed (R477, R478). -/
def State.driftChanged (s : State) : State := s.setFlash { s.flash with driftDirty := true, driftRises := s.flash.driftRises + 1 }

/-- B-die of a physical core (R23). -/
def bdieOf (phys : Nat) : Nat := phys / 216

/-- Physical core that holds a logical number. -/
def State.physOf (s : State) (l : Nat) : Option Nat :=
  (s.cores.zipIdx.find? fun (c, _) => c.logical == some l).map (·.2)

/-- Spare cores of B-die `b`, lowest number first (R29). -/
def State.sparesOf (s : State) (b : Nat) : List Nat :=
  (s.cores.zipIdx.filter fun (c, n) => c.st == .spare && n / 216 == b).map (·.2)

/-- The inventory's core fields as the cores stand: an absent number lowers ENABLED (R33, R34, R527). -/
def State.countCores (s : State) : State :=
  s.setInv { s.inv with
    enabled := (s.cores.filter fun c => c.logical.isSome).length
    spares := (List.range 4).map fun b => (s.sparesOf b).length
    retired := min 63 (s.cores.filter fun c => c.st == .failed).length }

/-! Host accesses and time (R354, R463, R507). -/

/-- The outcome of a command. -/
abbrev Result := Host.Outcome State Fault Refusal

/-- A BAR0 access is made: the first after a host-loss reset raises vector 65 while HOST_LOSS is set (R354). -/
def State.hostAccess (s : State) : State :=
  if s.link.firstAccess then
    let s' := s.setLink { s.link with firstAccess := false }
    if s.link.hostLoss then s'.msix 65 else s'
  else s

/-- BAR0 writes reach their registers: start-up is complete, no reset runs, and the host's accesses arrive (R350, R375, R463, R524; log entry 19). -/
def State.barOpen (s : State) : Bool := s.phase == .run && s.link.st != .down && !s.link.d3hot && !s.link.losing

/-- A BAR0 write whose effect is `f`; it wakes the module (R431). -/
def State.bar0 (s : State) (f : State → State) : State := if s.barOpen then f s.wakeNow.hostAccess else s

/-- A write that also arrives outside normal running is seen, and wakes a module that runs (R354, R431). -/
def State.seen (s : State) : State := (if s.phase = .run then s.wakeNow else s).hostAccess

/-- One microsecond passes: combined raises of vector 64 go out 10 µs after the last (R507; log entries 1 and 8). -/
def State.tick (s : State) : State :=
  let s := s.setNowUs (s.nowUs + 1)
  match s.err.irqPend, s.err.irqAt with
  | true, some t => if t + 10 ≤ s.nowUs then (s.setErr { s.err with irqPend := false, irqAt := some s.nowUs }).msix 64 else s
  | _, _ => s

end Sys2Proof.Machine
end

