-- ==== Sys2Proof/Machine/Placement.lean ====
section
/-! DEFINITION. The device range, the slab tables, tiers, the credits of the shared resources, placement and migration that the meanings share (06_memory_and_placement.md, R273, R274). -/

namespace Sys2Proof.Machine

/-- Insert in order. -/
def insertBy {α : Type} (le : α → α → Bool) (x : α) : List α → List α
  | [] => [x]
  | y :: r => if le x y then x :: y :: r else y :: insertBy le x r

/-- Stable sort. -/
def sortBy {α : Type} (le : α → α → Bool) (l : List α) : List α := l.foldr (insertBy le) []

/-- Sorted ascending without repeats. -/
def ascending (l : List Nat) : List Nat := sortBy (fun a b => decide (a ≤ b)) l.dedup

/-- Bytes of a slab (R16). -/
abbrev slabB : Nat := 2097152

/-- Bytes of a partition's extent (R201). -/
abbrev extentB : Nat := 17592186044416

/-- Slab number of a device-range address: bits [47:21] (R200). -/
def keyOf (a : Nat) : Nat := a / slabB

/-- Partition of a slab number (R200). -/
def partOfKey (k : Nat) : Nat := k / 8388608

/-- Page number of a device-range address. -/
def pageOf (a : Nat) : Nat := a / 4096

/-- The slabs that `n` bytes from `a` touch. -/
def spanSlabs (a n : Nat) : List Nat :=
  if n = 0 then [] else (List.range ((a + n - 1) / slabB - a / slabB + 1)).map (· + a / slabB)

/-- The entry of a mapped slab. -/
def State.slab? (s : State) (k : Nat) : Option Slab := s.mem.slabs.find? fun x => x.key == k

/-- Replace the slab tables. -/
def State.setSlabs (s : State) (v : List Slab) : State := s.setMem { s.mem with slabs := v }

/-- Update the entry of one slab. -/
def State.modSlab (s : State) (k : Nat) (f : Slab → Slab) : State :=
  s.setSlabs (s.mem.slabs.map fun x => if x.key = k then f x else x)

/-- Replace the migrations in progress. -/
def State.setMigrations (s : State) (v : List Migration) : State := s.setMem { s.mem with migrations := v }

/-- The migration of a slab. -/
def State.migration? (s : State) (k : Nat) : Option Migration := s.mem.migrations.find? fun m => m.key == k

/-! Transfers of a command (R201, R216, R234). -/

/-- Status of a read of `n` bytes at `a` by partition `p`: 0x0302 and 0x0312 of R201 and R234, or 0. -/
def State.readStatus (s : State) (p a n : Nat) : Nat :=
  let ks := spanSlabs a n
  if ks.any fun k => partOfKey k != p || (s.slab? k).isNone then 0x0302
  else if ks.any fun k => ((s.slab? k).map (·.st)) == some .lost then 0x0312
  else 0

/-- Status of naming `n` bytes at `a` as the destination of a write by partition `p` (R201). -/
def State.writeStatus (s : State) (p a n : Nat) : Nat :=
  if (spanSlabs a n).any fun k => partOfKey k != p || (match s.slab? k with | some x => x.kind != 0 | none => true) then 0x0302 else 0

/-- Pages of slab `k` among the `n` bytes from `a`. -/
def pagesIn (a n k : Nat) : Nat :=
  let lo := max a (k * slabB)
  let hi := min (a + n) ((k + 1) * slabB)
  if lo < hi then (hi - 1) / 4096 - lo / 4096 + 1 else 0

/-- Count a command's page transfers; a read marks the use of its models (R216, R223 item 2). -/
def State.touch (s : State) (read : Bool) (a n : Nat) : State :=
  let ks := spanSlabs a n
  let models := s.mem.slabs.filterMap fun x => if read && ks.contains x.key && x.model != 0 then some (x.part, x.model) else none
  s.setSlabs (s.mem.slabs.map fun x =>
    let x := if ks.contains x.key then { x with access := satAdd 255 x.access (pagesIn a n x.key) } else x
    if models.contains (x.part, x.model) then { x with lastUse := s.nowUs } else x)

/-! Occupancy and placement (R207 to R213). -/

/-- The staging slabs that partition `p` holds: of its commands and of attempts into its windows (R213, R300). -/
def State.stagingOf (s : State) (p : Nat) : List (Nat × Tier × Option Nat) :=
  ((s.queues.filter fun q => q.assigned && q.part == p).flatMap fun q => q.fifo.flatMap fun c => c.staged.slabs) ++
    ((s.part p).windows.flatMap fun w => w.tries.flatMap fun t => t.slabs)

/-- Slabs of a partition that the reservations of R213 and R214 keep room for in a tier: those lying there, mapped ring slabs not yet written among them (R206). -/
def State.keptIn (s : State) (p : Nat) (t : Tier) : Nat :=
  (s.mem.slabs.filter fun x => x.part == p && x.tier == some t && x.st != .lost).length +
    (s.mem.migrations.filter fun m => partOfKey m.key == p && (if m.switched then m.src == t else m.dst == t)).length +
    ((s.stagingOf p).filter fun x => x.2.1 == t).length +
    (match t with | .t1 => (s.part p).stream.retT1 | .t2 => (s.part p).stream.retT2 | _ => 0)

/-- USE_Tn (R203, R213, R219): an UNWRITTEN slab occupies no tier. -/
def State.useOf (s : State) (p : Nat) (t : Tier) : Nat :=
  s.keptIn p t - (s.mem.slabs.filter fun x => x.part == p && x.tier == some t && x.st == .unwritten).length

/-- Number of a tier in the reservation lists, T1 first. -/
def tierIx : Tier → Nat
  | .t1 => 0 | .t2 => 1 | .t3 => 2 | .t4 => 3

/-- RES_Tn of a partition. -/
def Part.resOf (pt : Part) (t : Tier) : Nat := pt.res.getD (tierIx t) 0

/-- Cores of a core set on B-die `b` (logical numbers, R22). -/
def coresOn (cs : List Nat) (b : Nat) : Nat := (cs.filter fun l => l / 200 == b).length

/-- Share of slice `b` in a T1 reservation, by a partition's cores on each B-die (R211). -/
def shareOf (res : Nat) (cs : List Nat) (b : Nat) : Nat := ceilDiv (res * coresOn cs b) cs.length

/-- The cores of a partition. -/
def Part.coreSet (pt : Part) : List Nat := pt.c0Set ++ pt.general

/-- Quarter slabs that a T1 slab counts in slice `b` (R212). -/
def quartersIn (near : Option Nat) (b : Nat) : Nat :=
  match near with | none => 1 | some x => if x = b then 4 else 0

/-- Quarter slabs that a partition occupies in slice `b`: slabs, frames of migrations, staging and retained slabs, each as it is placed (R212). -/
def State.quartersOf (s : State) (p b : Nat) : Nat :=
  let moves := s.mem.migrations.filter fun m => partOfKey m.key == p
  ((s.mem.slabs.filter fun x => x.part == p && x.tier == some .t1 && x.st != .lost).map fun x => quartersIn x.near b).sum +
    ((moves.filter fun m => !m.switched && m.dst == .t1).map fun m => quartersIn m.near b).sum +
    ((moves.filter fun m => m.switched && m.src == .t1).map fun m => quartersIn m.srcNear b).sum +
    (((s.stagingOf p).filter fun x => x.2.1 == .t1).map fun x => quartersIn x.2.2 b).sum + ((s.part p).stream.retNear.map fun x => quartersIn x b).sum

/-- T1 has room for one more slab of partition `p` placed so (R212, R213). -/
def State.roomT1 (s : State) (p : Nat) (near : Option Nat) : Bool :=
  let pt := s.part p
  decide (s.keptIn p .t1 < pt.resOf .t1) &&
    (List.range 4).all fun b => quartersIn near b == 0 || decide (s.quartersOf p b + quartersIn near b ≤ 4 * shareOf (pt.resOf .t1) pt.coreSet b)

/-- No slab of partition `p` can be interleaved, since its share of some slice is 0: what T1 holds of it lies near its cores (R211, R212; log entry 6). -/
def State.onlyNear (s : State) (p : Nat) : Bool :=
  let pt := s.part p
  (List.range 4).any fun b => shareOf (pt.resOf .t1) pt.coreSet b == 0

/-- A tier has room for one more slab of partition `p` (R213). -/
def State.roomIn (s : State) (p : Nat) (t : Tier) : Bool :=
  if t = .t1 then s.roomT1 p none else decide (s.keptIn p t < (s.part p).resOf t)

/-- The placements open to a staging slab of partition `p`: in T1 interleaved or near a B-die that holds cores of it, or in T2 unless it must lie in T1 (R206, R210). -/
def State.placeOptions (s : State) (p : Nat) (t1Only : Bool) : List (Tier × Option Nat) :=
  (if s.roomT1 p none then [(.t1, none)] else []) ++
    ((List.range 4).filter fun b => 0 < coresOn (s.part p).coreSet b && s.roomT1 p (some b)).map (fun b => (.t1, some b)) ++
    (if !t1Only && s.roomIn p .t2 then [(.t2, none)] else [])

/-- The engine's choice among the placements open, which the spec leaves to its policy (a free value, log entry 6). -/
def State.choosePlace (s : State) (p : Nat) (t1Only : Bool) : Option (Tier × Option Nat) × State :=
  let o := s.placeOptions p t1Only
  if o.isEmpty then (none, s) else let (n, s) := s.draw; (o[n % o.length]?, s)

/-- Next frame number of a tier (the model's own counter, log entry 6). -/
def State.nextFrame (s : State) : Nat × State :=
  (s.mem.nextFrame, s.setMem { s.mem with nextFrame := s.mem.nextFrame + 1 })

/-- Frames of T3, or of one lease of T4, that are in use: of slabs, of destinations of moves and of sources not yet free. -/
def State.framesUsed (s : State) (t : Tier) (lease : Option (Nat × Nat)) : List Nat :=
  ((s.mem.slabs.filter fun x => x.tier == some t && x.lease == lease).map (·.frame)) ++
    ((s.mem.migrations.filter fun m => !m.switched && m.dst == t && m.lease == lease).map (·.frame)) ++
    ((s.mem.migrations.filter fun m => m.switched && m.src == t && m.srcLease == lease).map (·.srcFrame))

/-- The lowest `n` frames that are not in use. -/
def freeFrames (used : List Nat) (n : Nat) : List Nat := ((List.range (n + used.length)).filter fun f => !used.contains f).take n

/-- The frame that a slab takes in a tier: in T3 and in a lease the lowest free one, else the next number (log entry 6). -/
def State.frameFor (s : State) (t : Tier) (lease : Option (Nat × Nat)) : Nat × State :=
  match t with
  | .t1 | .t2 => s.nextFrame
  | _ => ((freeFrames (s.framesUsed t lease) 1).headD 0, s)

/-- Slabs of partition `p` pinned in T1: PIN regions (R214). -/
def State.pinSlabs (s : State) (p : Nat) : Nat := (s.mem.slabs.filter fun x => x.part == p && x.pin).length

/-- Slabs of registered gradient sets of partition `p` (R159). -/
def State.gsetSlabs (s : State) (p : Nat) : Nat := (s.mem.slabs.filter fun x => x.part == p && x.gset).length

/-- POOL_T1 and POOL_T2 of a stream configuration (R174); 0 when there is none. -/
def poolT1 (cfg : Bytes) : Nat := field cfg 20 2
def poolT2 (cfg : Bytes) : Nat := field cfg 22 2

/-- The larger of the pools in force and of those that take effect at the next step mark, in each tier (R174, R175). -/
def Part.pools (pt : Part) : Nat × Nat :=
  if pt.stream.next.isEmpty then (poolT1 pt.stream.cfg, poolT2 pt.stream.cfg)
  else (max (poolT1 pt.stream.cfg) (poolT1 pt.stream.next), max (poolT2 pt.stream.cfg) (poolT2 pt.stream.next))

/-- Page frames of HBM stack `st` in service: 288 slabs of 512 pages for each pseudo-channel (R35, R205). -/
def State.stackFrames (s : State) (st : Nat) : Nat := 288 * 512 * (((s.mem.pcs.drop (64 * st)).take 64).filter fun c => !c.retired).length

/-- Page frames of stack `st` that a frame of T2 takes: 64 of its 512 pages, but for those that found their stack full (R207). -/
def pagesOn (f : Nat) (moved : List (Nat × Nat)) (st : Nat) : Nat :=
  64 + (moved.filter fun m => m.2 == st).length - (moved.filter fun m => (m.1 + f) % 8 == st).length

/-- Frames of T2 whose pages lie where (j + F) mod 8 says: staging and retained slabs, and slabs lent (R213, R228). -/
def State.plainT2 (s : State) : Nat :=
  ((List.range 16).map fun p => ((s.stagingOf p).filter fun x => x.2.1 == .t2).length + (s.part p).stream.retT2).sum + (s.mem.lent.map (·.slabs)).sum

/-- Page frames of stack `st` in use: by slabs, by the frames of moves on either side, and by the frames of staging, retained and lent slabs (R207, R213, R220). -/
def State.stackUsed (s : State) (st : Nat) : Nat :=
  ((s.mem.slabs.filter fun x => x.tier == some .t2).map fun x => pagesOn x.frame x.moved st).sum +
    ((s.mem.migrations.filter fun m => !m.switched && m.dst == .t2).map fun m => pagesOn m.frame m.moved st).sum +
    ((s.mem.migrations.filter fun m => m.switched && m.src == .t2).map fun m => pagesOn m.srcFrame m.srcMoved st).sum + 64 * s.plainT2

/-- The stack of each page of a T2 slab with frame `f`: (j + F) mod 8, or the next stack with a free page frame (R207). `used`: page frames taken so far, by stack. -/
def State.spread (s : State) (f : Nat) : List Nat → List Nat → List (Nat × Nat)
  | [], _ => []
  | j :: r, used =>
    let own := (j + f) % 8
    let st := (((List.range 8).map fun i => (own + i) % 8).find? fun x => decide (used.getD x 0 < s.stackFrames x)).getD own
    let rest := State.spread s f r (updAt used st (· + 1))
    if st = own then rest else (j, st) :: rest

/-- The pages of a slab that takes frame `f` in T2 and finds a stack full (R207); with room for a whole slab in every stack there are none. -/
def State.movedPages (s : State) (t : Tier) (f : Nat) : List (Nat × Nat) :=
  if t ≠ .t2 then []
  else
    let used := (List.range 8).map s.stackUsed
    if (List.range 8).all fun x => decide (used.getD x 0 + 64 ≤ s.stackFrames x) then [] else s.spread f (List.range 512) used

/-! Mapping (R202, R203, R214). -/

/-- A region descriptor's fields (R202). -/
structure RegionDesc where
  kind : Nat
  pin : Bool
  model : Nat
  base : Nat
  slabs : Nat
  deriving DecidableEq, Repr

/-- Read a region descriptor. -/
def regionDesc (bs : Bytes) : RegionDesc :=
  { kind := byteAt bs 4 % 8, pin := bit (byteAt bs 4) 3, model := byteAt bs 5, base := field bs 8 6, slabs := field bs 16 4 }

/-- Checks of R203, then the limits of R214. -/
def State.mapStatus (s : State) (p : Nat) (d : RegionDesc) : Nat :=
  let pt := s.part p
  let k := keyOf d.base
  if d.base % slabB ≠ 0 then 0x0301
  else if d.slabs = 0 ∨ 8388608 < d.slabs then 0x0301
  else if partOfKey k ≠ p ∨ (p + 1) * 8388608 < k + d.slabs then 0x0301
  else if s.mem.slabs.any fun x => decide (k ≤ x.key) && decide (x.key < k + d.slabs) then 0x0301
  else if 2 < d.kind then 0x0301
  else if d.pin = true ∧ (d.kind ≠ 0 ∨ d.model = 0) then 0x0301
  else if d.pin = true ∧ pt.c0Cores = 0 then 0x0301
  else if pt.res.sum < (s.mem.slabs.filter fun x => x.part == p).length + d.slabs + pt.stageT1 + pt.stageT2 + pt.pools.1 + pt.pools.2 then 0x0383
  else if d.kind = 1 ∧ pt.resOf .t3 < s.keptIn p .t3 + d.slabs then 0x0383
  else if d.kind = 2 ∧ pt.resOf .t2 < s.keptIn p .t2 + d.slabs then 0x0383
  else if d.pin = true ∧ pt.resOf .t1 < s.pinSlabs p + d.slabs + s.gsetSlabs p + pt.stageT1 + pt.pools.1 then 0x0384
  else 0

/-- Last use of a partition's model, 0 when it has none (R223). -/
def State.modelUse (s : State) (p model : Nat) : Nat :=
  (s.mem.slabs.filter fun x => x.part == p && model != 0 && x.model == model).foldl (fun a x => max a x.lastUse) 0

/-- A slab enters the tables; one of T2 finds its pages' stacks (R207). -/
def State.addSlab (s : State) (x : Slab) : State :=
  s.setSlabs (s.mem.slabs ++ [{ x with moved := match x.tier with | some t => s.movedPages t x.frame | none => [] }])

/-- Map a region: its slabs read +0; rings lie in their fixed tier, each slab in a frame of its own (R203, R206, R207). -/
def State.mapRegion (s : State) (p : Nat) (d : RegionDesc) : State :=
  let k := keyOf d.base
  let use := s.modelUse p d.model
  let t3 := if d.kind = 1 then freeFrames (s.framesUsed .t3 none) d.slabs else []
  let mk : Nat → Slab := fun i =>
    { key := k + i, part := p, kind := d.kind, pin := d.pin, model := d.model
      st := .unwritten
      tier := if d.kind = 1 then some .t3 else if d.kind = 2 then some .t2 else none
      frame := t3.getD i (s.mem.nextFrame + i), lastUse := use }
  let s := if d.kind = 2 then (List.range d.slabs).foldl (fun s i => s.addSlab (mk i)) s else s.setSlabs (s.mem.slabs ++ (List.range d.slabs).map mk)
  s.setMem { s.mem with
    nextFrame := s.mem.nextFrame + d.slabs
    regions := s.mem.regions ++ [{ part := p, base := k, slabs := d.slabs, kind := d.kind, pin := d.pin, model := d.model }]
    dev := Memory.clear s.mem.dev d.base (d.base + d.slabs * slabB) }

/-! Granted host memory and the encryption of it (R224 to R227, R438, R439). -/

/-- Host physical address of T3 frame `f`: the granted slabs in the order of the grant table (R225). -/
def grantAddr : List (Nat × Nat) → Nat → Option Nat
  | [], _ => none
  | (a, n) :: r, f => if f < n then some (a + f * slabB) else grantAddr r (f - n)

/-- The part of a byte string at `a` that lies in the `n` bytes from `lo`: where it starts, and its bytes. -/
def cutPart (a : Nat) (data : Bytes) (lo n : Nat) : Nat × Bytes :=
  let x := max a lo
  (x, (data.drop (x - a)).take (min (a + data.length) (lo + n) - x))

/-- What a host ring holds is written through CXL.cache too, in clear: the host sees it (R227, R438). -/
def State.ringToHost (s : State) (a : Nat) (data : Bytes) : State :=
  (spanSlabs a data.length).foldl (fun s k =>
    match (s.slab? k).bind fun x => if x.kind = 1 then grantAddr s.mem.grants x.frame else none with
    | some h => let c := cutPart a data (k * slabB) slabB; s.coherentWrite (h + (c.1 - k * slabB)) c.2
    | none => s) s

/-- A write in place of a ring region (R204): the slabs it touches hold data from then on. -/
def State.writeInPlace (s : State) (a : Nat) (data : Bytes) : State :=
  let ks := spanSlabs a data.length
  let s := s.setSlabs (s.mem.slabs.map fun x => if x.st = .unwritten ∧ x.key ∈ ks then { x with st := .resident } else x)
  (s.setDev (s.dev.write a data)).ringToHost a data

/-- The slab of T3 whose frame holds a host address, with the frame's address. -/
def State.t3Slab (s : State) (a : Nat) : Option (Slab × Nat) :=
  s.mem.slabs.findSome? fun x =>
    if x.tier = some .t3 then
      (match grantAddr s.mem.grants x.frame with | some h => if h ≤ a ∧ a < h + slabB then some (x, h) else none | none => none)
    else none

/-- The ciphertext of data unit `u`, which lies at device-range address 128 × u: the tweak is u (R439). -/
def State.cipherUnit (s : State) (u : Nat) : Bytes :=
  xtsEncrypt (beBytes 64 s.sec.keys.memory.toNat) u (s.dev.read (128 * u) 128)

/-- What the memory that a slab lies in stores of it at device-range address `a`: T2, T3 and T4 hold ciphertext, T1 and a host ring the byte itself (R438). -/
def State.storedByte (s : State) (x : Slab) (a : Nat) : Byte :=
  if x.kind ≠ 0 ∨ x.tier = some .t1 then s.dev.get a else (s.cipherUnit (a / 128)).getD (a % 128) 0

/-- The host alters bytes in the 128-byte unit of its memory at `128 * h`: where that is a granted slab of KIND 0 its data unit decrypts to what the altered ciphertext gives; a host ring holds the bytes themselves (R226, R439). -/
def State.hostAlter (s : State) (a : Nat) (data : Bytes) (h : Nat) : State :=
  let c := cutPart a data (128 * h) 128
  match s.t3Slab c.1 with
  | none => s
  | some (x, base) =>
    let at_ := x.key * slabB + (c.1 - base)
    if x.kind ≠ 0 then s.setDev (s.dev.write at_ c.2)
    else
      let u := at_ / 128
      let plain := xtsDecrypt (beBytes 64 s.sec.keys.memory.toNat) u (patch (s.cipherUnit u) (at_ % 128) c.2)
      (s.setDev (s.dev.write (128 * u) plain)).modSlab x.key fun x => { x with spoilt := true }

/-- Take in the blocks that the host has stored in its own memory before the module reads it (log entry 5). -/
def State.hostStore (s : State) : List HostBlk → State
  | [] => s
  | (a, bs) :: r =>
    let units := if bs.isEmpty then [] else (List.range ((a + bs.length - 1) / 128 - a / 128 + 1)).map (· + a / 128)
    State.hostStore (units.foldl (fun s h => s.hostAlter a bs h) (s.hostWrite a bs)) r

/-- What host memory holds at `n` bytes from `a`: in granted slabs of KIND 0 the ciphertext (R438). -/
def State.hostRead (s : State) (a n : Nat) : Bytes :=
  (List.range n).map fun i =>
    match s.t3Slab (a + i) with
    | some (x, base) =>
      s.storedByte x (x.key * slabB + (a + i - base))
    | none => s.hostMem.get (a + i)

/-- Status of an unmap (R203, R361). -/
def State.unmapStatus (s : State) (p : Nat) (d : RegionDesc) : Nat :=
  let pt := s.part p
  if d.base % slabB ≠ 0 then 0x0301
  else if !(s.mem.regions.any fun r => r.part == p && r.base == keyOf d.base && r.slabs == d.slabs) then 0x0301
  else if pt.bound && pt.landBase == d.base then 0x0301
  else 0

/-! Credits of the shared resources (R273, R274). -/

/-- Row of R273 of a resource: 0 staging, 1 hub ingress, 2 migration DMA, 3 slow path. Resources 4 to 7 are the migration DMAs of the four B-dies. -/
def resRow (r : Nat) : Nat := if 4 ≤ r then 2 else r

/-- Capacity of a resource in units (R273, R491). -/
def creditCap (r : Nat) : Nat := match resRow r with | 0 => 1024 | 1 => 4096 | 2 => 16 | 3 => 32 | _ => 0

/-- The class-0 carve of a resource; the slow path has none (R273, R275). -/
def State.carveOf (s : State) (r : Nat) : Nat :=
  let f := if resRow r < 3 then s.adm.carve.getD (resRow r) 0 else 0
  if f = 0 then 0 else max 1 (creditCap r * f / 64)

/-- share_p of R274. -/
def State.shareCredit (s : State) (r p : Nat) : Nat :=
  let total := ((s.parts.filter (·.admitted)).map (·.cores)).sum
  if total = 0 then 0 else (creditCap r - s.carveOf r) * (s.part p).cores / total

/-- Owner number of the class-0 carve among the shares. -/
abbrev carveKey : Nat := 16

/-- Units of a resource that partition `p` holds, from whatever share (R274). -/
def State.heldCredit (s : State) (r p : Nat) : Nat := ((s.adm.credits.filter fun c => c.1 == r && c.2.1 == p).map (·.2.2.2)).sum

/-- Units of a resource taken from share `o`, or from the carve, whoever holds them (R274). -/
def State.fromShare (s : State) (r o : Nat) : Nat := ((s.adm.credits.filter fun c => c.1 == r && c.2.2.1 == o).map (·.2.2.2)).sum

/-- Units that partition `p` holds from share `o`. -/
def State.heldFrom (s : State) (r p o : Nat) : Nat := ((s.adm.credits.filter fun c => c.1 == r && c.2.1 == p && c.2.2.1 == o).map (·.2.2.2)).sum

/-- Replace the admission block. -/
def State.modAdm (s : State) (f : Adm → Adm) : State := s.setAdm (f s.adm)

/-- Set the units that partition `p` holds from share `o`; none is no entry. -/
def State.setCredit (s : State) (r p o v : Nat) : State :=
  s.modAdm fun a => { a with
    credits := (if v = 0 then [] else [(r, p, o, v)]) ++ a.credits.filter fun c => !(c.1 == r && c.2.1 == p && c.2.2.1 == o) }

/-- Units left in share `o` of a resource. -/
def State.shareLeft (s : State) (r o : Nat) : Nat := (if o = carveKey then s.carveOf r else s.shareCredit r o) - s.fromShare r o

/-- Partitions whose share may be lent to `p`: admitted, and none of their requests waits (R274). -/
def State.lenders (s : State) (r p : Nat) : List Nat :=
  (List.range 16).filter fun x => x != p && (s.part x).admitted && !(s.adm.waiting.any fun w => w.res == r && w.part == x)

/-- Take `n` units from shares in the order of the list: what each gives, when together they suffice. -/
def State.drawShares (s : State) (r : Nat) : List Nat → Nat → Option (List (Nat × Nat))
  | _, 0 => some []
  | [], _ => none
  | o :: l, n =>
    let k := min n (s.shareLeft r o)
    (State.drawShares s r l (n - k)).map fun x => if k = 0 then x else (o, k) :: x

/-- The rule of R274 for a request of `n` units of partition `p`: the shares that grant it. `first0`: no class-0 request waits before it; `first`: none of its partition does. Class 0 takes from the carve, and from share_p only what is left once the carve is full; a share that others borrow from is less by what is lent. -/
def State.grantShares (s : State) (r p cls n : Nat) (first0 first : Bool) : Option (List (Nat × Nat)) :=
  let carve := if cls = 0 then s.shareLeft r carveKey else 0
  if 0 < carve ∧ first0 = false then none
  else if n ≤ carve ∨ first = true then s.drawShares r ((if cls = 0 then [carveKey] else []) ++ p :: s.lenders r p) n
  else none

/-- Count a wait for a resource in PART_ACCT_RES_WAIT (R277). -/
def State.countWait (s : State) (w : CreditReq) : State :=
  s.modPart w.part fun p => { p with acct := { p.acct with resWait := updAt p.acct.resWait (resRow w.res) fun n => sat32 n (s.nowUs - w.since) } }

/-- Hold the units that shares grant to partition `p`. -/
def State.holdShares (s : State) (r p : Nat) (l : List (Nat × Nat)) : State :=
  l.foldl (fun s x => s.setCredit r p x.1 (s.heldFrom r p x.1 + x.2)) s

/-- Ask for units of a resource for client `who`, a queue or a move: granted at once, or left waiting in arrival order; the end of a wait is counted (R274, R277). -/
def State.askCredit (s : State) (r p cls n who : Nat) : Bool × State :=
  let is : CreditReq → Bool := fun w => w.res == r && w.who == who
  let before := (s.adm.waiting.takeWhile fun w => !is w).filter fun w => w.res == r
  match s.grantShares r p cls n (!before.any fun w => w.cls == 0) (!before.any fun w => w.part == p) with
  | some l =>
    let s := match s.adm.waiting.find? is with | some w => s.countWait w | none => s
    (true, (s.holdShares r p l).modAdm fun a => { a with waiting := a.waiting.filter fun w => !is w })
  | none =>
    (false, if s.adm.waiting.any is then s
      else s.modAdm fun a => { a with waiting := a.waiting ++ [{ res := r, part := p, cls := cls, units := n, who := who, since := s.nowUs }] })

/-- Release units from shares in the order of the list. -/
def State.releaseFrom (r p : Nat) : List Nat → Nat → State → State
  | _, 0, s => s
  | [], _, s => s
  | o :: l, n, s =>
    let k := min n (s.heldFrom r p o)
    State.releaseFrom r p l (n - k) (if k = 0 then s else s.setCredit r p o (s.heldFrom r p o - k))

/-- Release units of a resource held by partition `p`: what others lend it first, then its own share, then the carve (R273, R274; log entry 16). -/
def State.releaseCredit (s : State) (r p n : Nat) : State :=
  State.releaseFrom r p (((List.range 16).filter fun x => x != p) ++ [p, carveKey]) n s

/-- Forget the requests of a client that wait for credit; their waits are counted (R277). -/
def State.dropWaiting (s : State) (who : Nat) : State :=
  let s := (s.adm.waiting.filter fun w => w.who == who).foldl State.countWait s
  s.modAdm fun a => { a with waiting := a.waiting.filter fun w => w.who != who }

/-! The migration DMA (R220 to R222, R273). -/

/-- The B-die whose slab table holds a slab and whose DMA moves it: that of a near slab, else the one of its first page's stack or slice, and by frame number in T3 and T4 (R207, R216; log entry 86). -/
def homeDie (tier : Option Tier) (near : Option Nat) (frame : Nat) : Nat :=
  match near with | some b => b | none => if tier = some .t2 then frame % 8 / 2 else frame % 4

/-- Client number of a slab's move among those that ask for credit (R274). -/
def moveWho (k : Nat) : Nat := 64 + k

/-- The moves of B-die `b` that wait for a slot, in the order of R222: class, then address; evacuated slabs that commands name go before the others of their class (R232 step 2). -/
def State.queuedMoves (s : State) (b : Nat) : List Migration :=
  sortBy (fun x y => decide (x.cls < y.cls ∨ (x.cls = y.cls ∧ (x.rank < y.rank ∨ (x.rank = y.rank ∧ x.key ≤ y.key))))) (s.mem.migrations.filter fun m => m.bdie == b && !m.granted && !m.switched)

/-- The waiting requests with those of B-die `b`'s moves in the order of R222, a move that has none yet among them. -/
def State.orderMoves (s : State) (b : Nat) : State :=
  let is : CreditReq → Bool := fun w => w.res == 4 + b && decide (64 ≤ w.who)
  let entry : Migration → CreditReq := fun m =>
    (s.adm.waiting.find? fun w => is w && w.who == moveWho m.key).getD
      { res := 4 + b, part := partOfKey m.key, cls := 3, units := 1, who := moveWho m.key, since := s.nowUs }
  s.modAdm fun a => { a with waiting := (a.waiting.filter fun w => !is w) ++ (s.queuedMoves b).map entry }

/-- Give free move slots to the moves of a list, each by the rule of R274. -/
def State.grantMoves (b : Nat) : List Migration → State → State
  | [], s => s
  | m :: r, s =>
    let (ok, s) := s.askCredit (4 + b) (partOfKey m.key) 3 1 (moveWho m.key)
    State.grantMoves b r (if ok then s.setMigrations (s.mem.migrations.map fun x => if x.key = m.key then { x with granted := true } else x) else s)

/-- Each B-die's DMA takes up queued moves while it has slots (R222, R273). -/
def State.serveMoves (s : State) : State :=
  (List.range 4).foldl (fun s b => if (s.queuedMoves b).isEmpty then s else State.grantMoves b (s.queuedMoves b) (s.orderMoves b)) s

/-- Moves end: their slots are free, and queued ones go on (R220 step 5, R221, R273). -/
def State.dropMoves (s : State) (f : Migration → Bool) : State :=
  let gone := s.mem.migrations.filter f
  if gone.isEmpty then s
  else
    let s := s.setMigrations (s.mem.migrations.filter fun m => !f m)
    let s := gone.foldl (fun s m => if m.granted then s.releaseCredit (4 + m.bdie) (partOfKey m.key) 1 else s.dropWaiting (moveWho m.key)) s
    s.serveMoves

/-- The commands that have started note the slabs that are unmapped (R263). -/
def State.noteUnmap (s : State) (k n : Nat) : State :=
  s.setQueues (s.queues.map fun q => { q with fifo := updAt q.fifo 0 fun c => if c.phase == .queued then c else { c with unmapped := (k, n) :: c.unmapped } })

/-- Unmap the slabs from `k` on: entries, migrations and contents go (R203, R221). -/
def State.unmapSlabs (s : State) (k n : Nat) : State :=
  let inR : Nat → Bool := fun x => decide (k ≤ x) && decide (x < k + n)
  let s := (s.dropMoves fun m => inR m.key).noteUnmap k n
  s.setMem { s.mem with
    slabs := s.mem.slabs.filter fun x => !inR x.key
    regions := s.mem.regions.filter fun r => !(r.base == k && r.slabs == n)
    dev := Memory.clear s.mem.dev (k * slabB) ((k + n) * slabB) }

/-! Lost slabs (R219, R234). -/

/-- A slab becomes LOST: its data and frame are gone (R219). -/
def State.loseSlab (s : State) (k : Nat) : State :=
  match s.slab? k with
  | none => s
  | some x =>
    let s := s.dropMoves fun m => m.key == k
    let s := s.modSlab k fun x => { x with st := .lost, tier := none, lease := none }
    let s := s.setDev (Memory.clear s.dev (k * slabB) ((k + 1) * slabB))
    s.modPart x.part fun pt => { pt with lostBit := true }

/-- LOST_SLABS of PART_MEM_STATUS (R239). -/
def State.lostCount (s : State) (p : Nat) : Nat :=
  min 65535 (s.mem.slabs.filter fun x => x.part == p && x.st == .lost).length

/-- The slabs of a partition become LOST, with event 0x0321 when there are any. -/
def State.loseSlabs (s : State) (p : Nat) (ks : List Nat) : State :=
  if ks.isEmpty then s else (ks.foldl State.loseSlab s).raiseP 0x0321 p

/-! Migration (R219 to R222). -/

/-- A lease of partition `p` that is not under reclaim and has a free slab, in the order the leases were gained (R232 step 1). -/
def State.freeLease (s : State) (p : Nat) : Option (Nat × Nat) :=
  ((s.part p).leases.find? fun l => l.reclaim.isNone &&
    decide ((s.mem.slabs.filter fun x => x.lease == some (l.lender, l.id)).length +
      (s.mem.migrations.filter fun m => !m.switched && m.lease == some (l.lender, l.id)).length < l.slabs)).map fun l => (l.lender, l.id)

/-- Where the engine puts a slab in T1: near the core of the piece that reads it where that slice's share has room, else interleaved where every slice's share has a quarter free, else nowhere, or near any die with room when none can be interleaved (R210, R212; log entry 6). -/
def State.placeT1 (s : State) (p : Nat) (core : Option Nat) : Option (Option Nat) :=
  let own : Option (Option Nat) := match core with
    | some l => if s.roomT1 p (some (l / 200)) then some (some (l / 200)) else none
    | none => none
  own.or (if s.roomT1 p none then some none
    else if s.onlyNear p then (((List.range 4).find? fun b => s.roomT1 p (some b)).map some) else none)

/-- Vat slice or stack that serves a read at `addr` (R207): slice of a T1 page, or the stack of the pseudo-channel. -/
def sliceOf (near : Option Nat) (frame addr : Nat) : Nat := match near with | some b => b | none => (pageOf addr + frame) % 4

/-- Stack that holds page `j` of a T2 slab (R207). -/
def Slab.stackOf (x : Slab) (j : Nat) : Nat := ((x.moved.find? fun m => m.1 == j).map (·.2)).getD ((j + x.frame) % 8)

/-- Start a migration when its tier has room, with its place in its class; a slab of T1 may move nearer to its core (R210, R220 steps 1 and 2). -/
def State.startMove (s : State) (k : Nat) (dst : Tier) (cls : Nat) (rank : Nat := 2) : State :=
  match s.slab? k with
  | none => s
  | some x =>
    match x.tier with
    | none => s
    | some src =>
      let lease := if dst = .t4 then s.freeLease x.part else none
      let place := if dst = .t1 then s.placeT1 x.part x.pieceCore else if s.roomIn x.part dst then some none else none
      match place with
      | none => s
      | some near =>
        if (src = dst ∧ (dst ≠ .t1 ∨ near = x.near)) ∨ (s.migration? k).isSome = true ∨ (dst = .t4 ∧ lease = none) then s
        else
          let (f, s) := s.frameFor dst lease
          let s := s.setMigrations (s.mem.migrations ++ [{ key := k, src := src, dst := dst, cls := cls, frame := f, lease := lease
                                                           near := near, srcNear := x.near, srcFrame := x.frame, srcLease := x.lease
                                                           rank := rank, moved := s.movedPages dst f, srcMoved := x.moved
                                                           bdie := homeDie (some src) x.near x.frame }])
          (s.modSlab k fun y => { y with st := if y.st = .resident then .migrating else y.st }).serveMoves

/-- A slab that the policy may move, or at rest in T1 may bring nearer to its core (R210). -/
def Slab.atRest (x : Slab) : Bool := x.kind == 0 && x.st == .resident

/-- A slab that the policy may move. -/
def Slab.movable (x : Slab) : Bool := x.atRest && !x.pin && !x.gset

/-- Slab `x` is hotter than `y`: within the resident-model cache its model was used later, or it was used more; a slab of no model is judged by access counts alone (R217, R223). -/
def hotter (x y : Slab) : Bool :=
  if x.model = 0 ∨ y.model = 0 then decide (y.access < x.access)
  else decide (y.lastUse < x.lastUse) || (x.lastUse == y.lastUse && decide (y.access < x.access))

/-- The first slab of a list that none beats. -/
def bestOf (better : Slab → Slab → Bool) (l : List Slab) : Option Slab :=
  l.foldl (fun b y => match b with | none => some y | some z => if better y z then some y else b) none

/-- The best slab of a list under `hotter` or its converse: the best of those with a model and the best of those without, compared last. -/
def pickSlab (better : Slab → Slab → Bool) (l : List Slab) : Option Slab :=
  bestOf better ((bestOf better (l.filter fun x => x.model != 0)).toList ++ (bestOf better (l.filter fun x => x.model == 0)).toList)

/-- Slabs from the hottest down. -/
def byHeat : Nat → List Slab → List Slab
  | 0, _ => []
  | n + 1, l => match pickSlab hotter l with | none => [] | some x => x :: byHeat n (l.filter fun y => y.key != x.key)

/-- The coldest slab of partition `p` in a tier that the policy may move and `f` admits; slabs that R156 holds in that tier come last. -/
def State.coldest (s : State) (p : Nat) (t : Tier) (f : Slab → Bool) : Option Nat :=
  let l := s.mem.slabs.filter fun y => y.part == p && y.tier == some t && y.movable && f y
  let loose := l.filter fun y => y.home != some t
  (pickSlab (fun x y => hotter y x) (if loose.isEmpty then l else loose)).map (·.key)

/-- Demote a slab: from T1 to T2, else T3, else T4; from T2 to T3, else T4 (R223 item 4). -/
def State.demote (s : State) (p k cls : Nat) : State :=
  if (s.slab? k).bind (·.tier) == some .t1 && s.roomIn p .t2 then s.startMove k .t2 cls
  else if s.roomIn p .t3 then s.startMove k .t3 cls
  else s.startMove k .t4 cls

/-- Frames that the staging pool of a tier lacks when `more` frames of the tier are taken, those on their way out of it counted as free (R213 item 4). -/
def State.poolShort (s : State) (p : Nat) (t : Tier) (more : Nat) : Nat :=
  let stage := match t with | .t1 => (s.part p).stageT1 | .t2 => (s.part p).stageT2 | _ => 0
  s.keptIn p t + (stage - ((s.stagingOf p).filter fun x => x.2.1 == t).length) + more -
    ((s.part p).resOf t + (s.mem.migrations.filter fun m => partOfKey m.key == p && m.src == t).length)

/-- Demote the coldest slabs of a tier, `n` at most (R213 item 4). -/
def State.refillTier (p : Nat) (t : Tier) : Nat → State → State
  | 0, s => s
  | n + 1, s =>
    match s.coldest p t fun _ => true with
    | none => s
    | some k => State.refillTier p t n (s.demote p k 1)

/-- The engine refills the staging pools of partition `p`, demoting committed slabs where a tier has no free frame (R213 item 4). -/
def State.refill (s : State) (p : Nat) : State :=
  let s := State.refillTier p .t1 (s.poolShort p .t1 0) s
  State.refillTier p .t2 (s.poolShort p .t2 0) s

/-- Abandon a migration before its switch: the slab stays in its source (R221). -/
def State.abandonMove (s : State) (k : Nat) : State :=
  match s.migration? k with
  | none => s
  | some m =>
    if m.switched then s
    else
      (s.dropMoves fun x => x.key == k).modSlab k fun y => { y with st := if y.st = .migrating then .resident else y.st }

/-! Leases (R228 to R233). -/

/-- Slabs this module lends (R242). -/
def State.lentSlabs (s : State) : Nat := (s.mem.lent.map (·.slabs)).sum

/-- Sum of one tier's reservations over the partitions (R211). -/
def State.reserved (s : State) (t : Tier) : Nat := ((s.parts.filter (·.admitted)).map fun pt => pt.resOf t).sum

/-- The leases that outlast their partition for a retained host-loss epoch (R371). -/
def State.epochLeases (s : State) : List Lease :=
  s.hle.retained.flatMap fun r => r.2.2.2.filter fun l => !(s.part r.1).leases.any fun k => k.lender == l.lender && k.id == l.id

/-- PART_MEM_CAP_T4: slabs of the leases held, by partitions and for retained host-loss epochs (R205, R240, R371). -/
def State.capT4 (s : State) : Nat := (s.parts.map fun pt => (pt.leases.map (·.slabs)).sum).sum + (s.epochLeases.map (·.slabs)).sum

/-- Capacity offered in a tier (R240). -/
def State.capOf (s : State) : Tier → Nat
  | .t1 => s.mem.capT1 | .t2 => s.mem.capT2 | .t3 => s.mem.capT3 | .t4 => s.capT4

/-- PART_MEM_FREE_Tn (R240). -/
def State.freeOf (s : State) (t : Tier) : Nat :=
  s.capOf t - s.reserved t - (if t = .t2 then s.lentSlabs else 0)

/-- T2 slabs that an admission may still reserve (R211). -/
def State.t2Room (s : State) (more : Nat) : Bool := decide (s.reserved .t2 + s.lentSlabs + more + 2304 ≤ s.mem.capT2)

/-- Slabs of partition `p` that lie in a lease of `lender`. -/
def State.leaseSlabs (s : State) (p lender id : Nat) : List Nat :=
  (s.mem.slabs.filter fun x => x.part == p && x.tier == some .t4 && x.lease == some (lender, id)).map (·.key)

/-- A lease ends: RES_T4 falls by its slabs (R232 step 4). -/
def State.dropLease (s : State) (p lender id : Nat) : State :=
  s.modPart p fun pt =>
    let gone := pt.leases.filter fun l => l.lender == lender && l.id == id
    { pt with
      leases := pt.leases.filter fun l => !(l.lender == lender && l.id == id)
      res := updAt pt.res 3 fun n => n - (gone.map (·.slabs)).sum }

/-- The cellar ends a lease with no notice left: its slabs become LOST and RES_T4 falls (R233). -/
def State.endLease (s : State) (p lender id : Nat) : State :=
  (s.loseSlabs p (s.leaseSlabs p lender id)).dropLease p lender id

end Sys2Proof.Machine
end

