-- ==== Sys2Proof/Machine/Links.lean ====
section
/-! DEFINITION. Packets on the die links: routes, lanes, and the egress of each direction (R377, R378, R381, R382, R387). -/

namespace Sys2Proof.Machine

/-- Active and spare lanes of a direction of link `l` (R377). -/
def activeLanes (l : Nat) : Nat := if l < 4 then 2560 else 1024
def spareLanes (l : Nat) : Nat := if l < 4 then 64 else 32

/-- Link `l`. -/
def State.dieLink (s : State) (l : Nat) : DieLink := s.fabric.links.getD l {}

/-- Update link `l`. -/
def State.modLink (s : State) (l : Nat) (f : DieLink → DieLink) : State := s.setFabric { s.fabric with links := updAt s.fabric.links l f }

/-- The record of a lane. -/
def DieLink.lane (k : DieLink) (dir lane : Nat) : DieLane := (k.lanes.find? fun x => x.dir == dir && x.lane == lane).getD { dir := dir, lane := lane, locked := k.trained }

/-- Replace the record of a lane. -/
def DieLink.setLane (k : DieLink) (x : DieLane) : DieLink := { k with lanes := x :: k.lanes.filter fun y => !(y.dir == x.dir && y.lane == x.lane) }

/-! Lanes of a role (R378, R382, R388, R390). -/

/-- First lane and number of lanes of a role: memory, coherence, interrupt and debug from lane 0 up (log entry 96). -/
def DieLink.roleLanes (k : DieLink) (role : Nat) : Nat × Nat :=
  match role with
  | 0 => (0, 8 * k.mem)
  | 1 => (8 * k.mem, 8 * k.coh)
  | 2 => (8 * (k.mem + k.coh), 8 * k.int)
  | _ => (8 * (k.mem + k.coh + k.int), 8 * k.dbg)

/-- Role of an active lane. -/
def DieLink.roleOf (k : DieLink) (lane : Nat) : Nat :=
  if lane < 8 * k.mem then 0 else if lane < 8 * (k.mem + k.coh) then 1 else if lane < 8 * (k.mem + k.coh + k.int) then 2 else 3

/-- The lane carries its hash entries: it is good, or another took its place, and it has not given them up. -/
def DieLink.lives (k : DieLink) (dir lane : Nat) : Bool :=
  let x := k.lane dir lane
  !x.gone && (!x.failed || x.spare.isSome || x.taken.isSome)

/-- The highest good memory lane below lane `n`, which gives up its place first (R390; log entry 96). -/
def DieLink.lastMemory (k : DieLink) (dir : Nat) : Nat → Option Nat
  | 0 => none
  | n + 1 => if k.lives dir n && (k.lane dir n).spare.isNone then some n else k.lastMemory dir n

/-- The first of `n` lanes from number `i` of a role, going round, that carries hash entries. -/
def DieLink.nextLive (k : DieLink) (dir first count : Nat) : Nat → Nat → Nat
  | 0, i => first + i % count
  | n + 1, i => if k.lives dir (first + i % count) then first + i % count else k.nextLive dir first count n (i + 1)

/-- The lanes that a role's packets take: its own, or those of every role where it is entitled to none (R378). -/
def DieLink.lanesFor (k : DieLink) (role : Nat) : Nat × Nat :=
  let r := k.roleLanes role
  if r.2 = 0 then (0, 8 * (k.mem + k.coh + k.int + k.dbg)) else r

/-- The lane that carries a page's packets of a role: the one its hash names, or after its failure the next of the role (R382, R388 step 2; log entry 96). -/
def DieLink.laneFor (k : DieLink) (dir role page : Nat) : Nat :=
  let r := k.lanesFor role
  k.nextLive dir r.1 r.2 r.2 (Config.laneHash page % r.2)

/-- The physical lane that stands in a lane's place. -/
def DieLink.physLane (k : DieLink) (l dir lane : Nat) : Nat :=
  let x := k.lane dir lane
  match x.spare, x.taken with
  | some n, _ => activeLanes l + n
  | none, some m => m
  | none, none => lane

/-- The lane that a packet takes is locked, and no packet of its source to its page waits before it (R382). -/
def DieLink.mayGo (k : DieLink) (l : Nat) (before : List LinkPkt) (p : LinkPkt) : Bool :=
  (k.lanes.isEmpty || (k.lane p.dir (k.physLane l p.dir (k.laneFor p.dir p.role p.page))).locked) &&
    !before.any fun x => x.src == p.src && x.dst == p.dst && x.page == p.page

/-- The waiting packets that may go, in arrival order. -/
def DieLink.ready (k : DieLink) (l : Nat) : List LinkPkt → List LinkPkt → List LinkPkt
  | _, [] => []
  | before, p :: r => if k.mayGo l before p then p :: k.ready l (p :: before) r else k.ready l (p :: before) r

/-- Among the packets that may go, those of a lane's own role go first: one of another role takes a flit slot only where the lane's own role has nothing ready (R378). -/
def DieLink.ownFirst (k : DieLink) (dir : Nat) (l : List LinkPkt) : List LinkPkt :=
  l.filter fun p => (k.roleLanes p.role).2 != 0 ||
    !(l.any fun y => y.role == k.roleOf (k.laneFor dir p.role p.page) && k.laneFor dir y.role y.page == k.laneFor dir p.role p.page)

/-! The egress (R381). -/

/-- What the egress of a role of a direction keeps. -/
def DieLink.arb (k : DieLink) (dir role : Nat) : LinkArb := (k.arbs.find? fun a => a.dir == dir && a.role == role).getD { dir := dir, role := role }

/-- Class-0 requests have taken less than 8 ÷ 64 of the role's flits in the last microsecond (R381; as log entry 92 has it for R325). -/
def LinkArb.c0Within (a : LinkArb) (now : Nat) : Bool :=
  let l := a.sent.filter fun x => decide (now < x.1 + 1)
  let all : Nat := (l.map fun x => x.2.1).sum
  let c0 : Nat := ((l.filter fun x => x.2.2).map fun x => x.2.1).sum
  decide (64 * c0 < 8 * all) || all == 0

/-- The deficit round robin of requests with the weights `w`: the packet whose client's deficit covers it (R381). -/
def LinkArb.robin (w : Nat → Nat) (head : Nat → Option LinkPkt) : Nat → LinkArb → Option (LinkPkt × LinkArb)
  | 0, _ => none
  | n + 1, a =>
    let d := a.deficit.getD a.turn 0
    match (head a.turn).filter fun p => decide (p.flits ≤ d) with
    | some p => some (p, { a with deficit := updAt a.deficit a.turn fun _ => d - p.flits })
    | none =>
      let a := if (head a.turn).isNone then { a with deficit := updAt a.deficit a.turn fun _ => 0 } else a
      let j := (a.turn + 1) % 17
      let a := if (head j).isSome then { a with deficit := updAt a.deficit j fun x => x + w j } else a
      LinkArb.robin w head n { a with turn := j }

/-- Turns that the round robin takes at most for one packet. -/
abbrev robinTurns : Nat := 4096

/-- The packet that a direction of a link sends next, in the order of R381, with what its egress then keeps. -/
def DieLink.choose (k : DieLink) (l now : Nat) (w : Nat → Nat) (dir : Nat) : Option (LinkPkt × LinkArb) :=
  let c := k.ownFirst dir (k.ready l [] (k.waiting.filter fun p => p.dir == dir))
  let first := ((c.find? fun p => p.vc == 3).or (c.find? fun p => p.role == 2)).or (c.find? fun p => p.vc == 1)
  match first.or (c.find? fun p => p.c0 && (k.arb dir p.role).c0Within now), c with
  | some p, _ => some (p, k.arb dir p.role)
  | none, p :: _ => (k.arb dir p.role).robin w (fun i => c.find? fun x => x.role == p.role && x.client == i) robinTurns
  | none, [] => none

/-- The packets of the last `n` flits of a lane, and those of every other lane (R387). -/
def keepFlits (dir lane : Nat) : Nat → List (Nat × LinkPkt) → List (Nat × LinkPkt)
  | _, [] => []
  | n, x :: r =>
    if x.1 = lane ∧ x.2.dir = dir then (if x.2.flits ≤ n then x :: keepFlits dir lane (n - x.2.flits) r else keepFlits dir lane 0 r)
    else x :: keepFlits dir lane n r

/-- The packets kept for a lane, newest first (R387). -/
def DieLink.kept (k : DieLink) (dir lane : Nat) : List LinkPkt := (k.sent.filter fun x => x.1 == lane && x.2.dir == dir).map (·.2)

/-- SEQ of the next flit on a lane (R383). -/
def DieLink.nextSeq (k : DieLink) (dir lane : Nat) : Nat := match k.kept dir lane with | p :: _ => (p.seq + p.flits) % 1024 | [] => 0

/-- A packet leaves the egress on its lane (R381, R382, R387). -/
def DieLink.depart (k : DieLink) (now : Nat) (p : LinkPkt) (a : LinkArb) : DieLink :=
  let lane := k.laneFor p.dir p.role p.page
  { k with
    waiting := k.waiting.erase p
    sent := (lane, { p with seq := k.nextSeq p.dir lane }) :: keepFlits p.dir lane (1024 - p.flits) k.sent
    arbs := { a with sent := (now, p.flits, p.c0) :: a.sent.filter fun x => decide (now < x.1 + 1) } :: k.arbs.filter fun x => !(x.dir == a.dir && x.role == a.role) }

/-! Routes (R377). -/

/-- The H-die among the ends of the links. -/
abbrev hDie : Nat := 4

/-- The way round the ring from one B-die to another: the shorter, and to the opposite one by the page's parity (R209; log entry 96). -/
def ringRoute (a b page : Nat) : List (Nat × Nat) :=
  match (b + 4 - a) % 4 with
  | 0 => []
  | 1 => [(a, 0)]
  | 3 => [((a + 3) % 4, 1)]
  | _ => if page % 2 = 0 then [(a, 0), ((a + 1) % 4, 0)] else [((a + 3) % 4, 1), ((a + 2) % 4, 1)]

/-- The links and directions from one die to another: the H-die is reached by B-dies 0 and 1 (R377; log entry 96). -/
def linkRoute (a b page : Nat) : List (Nat × Nat) :=
  let door : Nat → Nat := fun d => if d = 0 ∨ d = 3 then 0 else 1
  if a = hDie then (if b = hDie then [] else (4 + door b, 0) :: ringRoute (door b) b page)
  else if b = hDie then ringRoute a (door a) page ++ [(4 + door a, 1)]
  else ringRoute a b page

/-- A packet comes to the egress of the next link of its path; one with none left has arrived, and is answered where it asks for it. -/
def Fabric.arrive (f : Fabric) (p : LinkPkt) : Fabric :=
  let enter : LinkPkt → Fabric := fun p =>
    match p.path with
    | [] => f
    | (l, d) :: r => { f with links := updAt f.links l fun k => { k with waiting := k.waiting ++ [{ p with dir := d, path := r }] } }
  if p.path.isEmpty && p.answer != 0 then enter { p with vc := 1, src := p.dst, dst := p.src, flits := p.answer, answer := 0, path := linkRoute p.dst p.src p.page }
  else enter p

/-- The next packet of any link leaves its egress. -/
def Fabric.sendOne (f : Fabric) (now : Nat) (w : Nat → Nat) : Option Fabric :=
  ((List.range 6).flatMap fun l => [(l, 0), (l, 1)]).findSome? fun x =>
    ((f.links.getD x.1 {}).choose x.1 now w x.2).map fun y =>
      Fabric.arrive { f with links := updAt f.links x.1 fun k => k.depart now y.1 y.2 } y.1

/-- The links carry what they may, `n` crossings at most. -/
def Fabric.serve (now : Nat) (w : Nat → Nat) : Nat → Fabric → Fabric
  | 0, f => f
  | n + 1, f => match f.sendOne now w with | none => f | some f => Fabric.serve now w n f

/-- Crossings that the packets which wait can make: three out, and three for an answer. -/
def Fabric.crossings (f : Fabric) : Nat := 6 * (f.links.map fun k => k.waiting.length).sum

/-- Weight of a client, in eighths: a partition's CORES; the shared client's, an eighth of their sum (R381). -/
def State.linkWeight (s : State) (i : Nat) : Nat :=
  if i = 16 then max 1 (s.parts.map (·.cores)).sum else max 1 (8 * (s.part i).cores)

/-- The links carry the packets that may go. -/
def State.linkServe (s : State) : State :=
  s.setFabric (Fabric.serve s.nowUs s.linkWeight s.fabric.crossings s.fabric)

/-- Packets come to the links at their sources. -/
def State.linkSend (s : State) (l : List LinkPkt) : State :=
  if l.isEmpty then s else (s.setFabric (l.foldl (fun f p => f.arrive { p with path := linkRoute p.src p.dst p.page }) s.fabric)).linkServe

/-! What crosses the links (R378). -/

/-- Flits of `n` bytes at 224 bits each (R383; log entry 96). -/
def flitsFor (n : Nat) : Nat := max 1 (ceilDiv (8 * n) 224)

/-- The die that page `j` of a slab lies at: T3 and T4 lie beyond the H-die (R207, R209). -/
def Slab.pageDie (x : Slab) (j : Nat) : Option Nat :=
  x.tier.map fun t => match t with | .t1 => sliceOf x.near x.frame (4096 * j) | .t2 => x.stackOf j / 2 | _ => hDie

/-- The pages that `n` bytes from `a` touch, with the bytes in each. -/
def pagePieces (a n : Nat) : List (Nat × Nat) :=
  if n = 0 then []
  else (List.range ((a + n - 1) / 4096 - a / 4096 + 1)).map fun i =>
    let g := a / 4096 + i
    (g, min (a + n) (4096 * (g + 1)) - max a (4096 * g))

/-- Requests of `dies` for pages that other dies hold (R378, R381; log entry 96). -/
def State.readTraffic (s : State) (client : Nat) (c0 : Bool) (dies : List Nat) (reads : List (Nat × Nat)) : List LinkPkt :=
  (reads.flatMap fun x => pagePieces x.1 x.2).flatMap fun g =>
    match (s.slab? (g.1 / 512)).bind fun y => y.pageDie (g.1 % 512) with
    | none => []
    | some d => (dies.filter (· != d)).map fun c => { src := c, dst := d, page := g.1, client := client, c0 := c0, answer := flitsFor g.2 }

/-- Writes from `die` of spans whose slabs take the staging slabs of `slabs` (R204, R381; log entry 96). -/
def State.writeTraffic (s : State) (client : Nat) (c0 : Bool) (die : Nat) (slabs : List (Nat × Tier × Option Nat)) (spans : List (Nat × Nat)) : List LinkPkt :=
  (spans.flatMap fun x => pagePieces x.1 x.2).filterMap fun g =>
    match slabs.zipIdx.find? fun y => y.1.1 == g.1 / 512 with
    | none => none
    | some y =>
      let at_ : Slab := { tier := some y.1.2.1, near := y.1.2.2, frame := s.mem.nextFrame + y.2 }
      match at_.pageDie (g.1 % 512) with
      | none => none
      | some d => if d = die then none else some { src := die, dst := d, page := g.1, client := client, c0 := c0, flits := flitsFor g.2 }

/-- The B-dies of a command's cores; a command that holds none works at the H-die. -/
def State.diesOf (s : State) (cores : List Nat) : List Nat :=
  if cores.isEmpty then [hDie] else (cores.filterMap fun l => (s.physOf l).map bdieOf).dedup

/-- The die of an island: engines and hub blocks lie on the H-die side (R377, R391; log entry 96). -/
def islandDie : Island → Nat
  | .core p => bdieOf p.val
  | .vat b => b.val
  | .hbm x => x.val / 2
  | .engine _ | .hub _ => hDie

/-- A message in the interrupt role from one die to another: a doorbell, an event message or a wake request (R378). -/
def interruptTo (src dst client : Nat) : List LinkPkt := if src = dst then [] else [{ role := 2, src := src, dst := dst, client := client }]

/-- The flits that the receivers hold in order are acknowledged: once in a superframe at least, and a microsecond has several (R384, R387). A lane that awaits a flit again, or is not locked, acknowledges nothing. -/
def State.ackLinks (s : State) : State :=
  let now : DieLink → Nat × LinkPkt → Bool := fun k x => !x.2.acked && (let y := k.lane x.2.dir x.1; y.locked && y.resend.isNone)
  let acks := s.fabric.links.zipIdx.flatMap fun x => (x.1.sent.filter (now x.1)).map fun y => Out.flitAck x.2 y.2.dir y.1 ((y.2.seq + y.2.flits - 1) % 1024)
  let bad := s.fabric.links.any fun k => k.lanes.any fun y => !y.bad.isEmpty
  if acks.isEmpty && !bad then s
  else
    (s.setOut (s.out ++ acks)).setFabric { s.fabric with links := s.fabric.links.map fun k => { k with
      sent := k.sent.map fun x => if now k x then (x.1, { x.2 with acked := true }) else x
      lanes := k.lanes.map fun y => { y with bad := [] } } }

/-- Core claims and kills of class 0 travel from the H-die in the interrupt role (R272, R378). -/
def State.coreMessages (s : State) (p : Nat) (cores : List Nat) : List LinkPkt :=
  cores.filterMap fun l => (s.physOf l).map fun n => { role := 2, src := hDie, dst := bdieOf n, page := n, client := p, c0 := true }

end Sys2Proof.Machine
end

