-- ==== Sys2Proof/Machine/Operands.lean ====
section
/-! DEFINITION. Descriptor checks, scale-state records, operand descriptors in every layout, and the reading and writing of tensors (R13, R529, R61, R75 to R80, R101 to R106, R530). -/

namespace Sys2Proof.Machine

/-- The four checks of R13 over the bytes of a container of `avail` bytes: 0, or the first status that applies. -/
def headerStatus (eff avail : Nat) (bs : Bytes) (ty tyStatus minLen : Nat) : Nat :=
  let v := byteAt bs 0
  let len := field bs 2 2
  if avail < 4 then 0x0002
  else if v = 0 ∨ eff < v then 0x0001
  else if byteAt bs 1 ≠ ty then tyStatus
  else if len % 4 ≠ 0 ∨ len < minLen ∨ avail < len then 0x0002
  else 0

/-- What follows once a check passes; a failed one leaves `s`. -/
def okOr {α β : Type} (x : Except Nat α) (s : β) (f : α → β) : β := match x with | .error _ => s | .ok t => f t

/-- LENGTH of a descriptor. -/
def descLen (bs : Bytes) : Nat := field bs 2 2

/-- Read a descriptor of partition `p` at a device-range address; its container is the rest of the partition's extent (log entry 9). An address past that extent has no container: the read itself ends with R201's status. -/
def State.readDesc (s : State) (p a ty tyStatus : Nat) (minLen : Bytes → Nat) (head : Nat) : Except Nat Bytes :=
  let avail := (p + 1) * extentB - a
  let st4 := s.readStatus p a (if avail = 0 then 4 else min 4 avail)
  if st4 ≠ 0 then .error st4
  else if avail < 4 then .error 0x0002
  else
    let h := s.dev.read a (max 4 head)
    let len := descLen h
    let hs := headerStatus s.link.effLevel avail h ty tyStatus (max head (minLen h))
    if hs ≠ 0 then .error hs
    else
      let st := s.readStatus p a len
      if st ≠ 0 then .error st else .ok (s.dev.read a len)

/-! Scale-state records (R78 to R80). -/

/-- The fields of a scale-state record as a command reads them at its start (R75, R78). -/
structure ScaleRec where
  addr : Nat := 0
  fmt : Nat := 0
  rmode : Nat := 0
  sat : Bool := false
  margin : Nat := 0
  histLen : Nat := 1
  initExp : Int := 0
  curExp : Int := 0
  count : Nat := 0
  next : Nat := 0
  /-- The counted entries, most recent first (R74). -/
  entries : List Word := []
  deriving DecidableEq, Repr

/-- The `n` most recent history entries, by the indices of R74. -/
def histEntries (bs : Bytes) (histLen next : Nat) (n : Nat) : List Word :=
  (List.range n).map fun k => BitVec.ofNat 32 (field bs (32 + 4 * ((next + histLen * (k + 1) - 1 - k) % histLen)) 4)

/-- Decode a record's bytes. -/
def scaleRec (addr : Nat) (bs : Bytes) : ScaleRec :=
  let hl := field bs 6 2
  { addr := addr, fmt := byteAt bs 4 % 16, rmode := bits (byteAt bs 4) 5 4, sat := bit (byteAt bs 4) 6
    margin := byteAt bs 5 % 16, histLen := hl, initExp := signed8 (byteAt bs 8), curExp := signed8 (byteAt bs 9)
    count := field bs 10 2, next := field bs 12 2
    entries := if hl = 0 then [] else histEntries bs hl (field bs 12 2) (min (field bs 10 2) hl) }

/-- The checks of R79 on a record that passed R13. -/
def recStatus (bs : Bytes) : Nat :=
  let hl := field bs 6 2
  if hl = 0 ∨ 1024 < hl ∨ descLen bs ≠ 32 + 4 * hl then 0x0002
  else if byteAt bs 8 = 0x80 ∨ byteAt bs 9 = 0x80 then 0x0101
  else if byteAt bs 4 % 16 < 3 ∨ 6 < byteAt bs 4 % 16 then 0x0101
  else if bits (byteAt bs 4) 5 4 = 3 then 0x0101
  else if hl < field bs 10 2 then 0x0101
  else if hl ≤ field bs 12 2 then 0x0101
  else 0

/-- Read and check the record that a command names (R75, R79). -/
def State.readRec (s : State) (p a : Nat) : Except Nat ScaleRec := do
  let bs ← s.readDesc p a 0x10 0x0101 (fun _ => 36) 8
  let st := recStatus bs
  if st ≠ 0 then .error st else .ok (scaleRec a bs)

/-- The exponent that a record will hold once an amax has been appended (R74, R170). -/
def ScaleRec.expAfter (r : ScaleRec) (amax : Word) : Int :=
  deriveExp r.fmt r.margin r.initExp r.curExp (min (r.count + 1) r.histLen) ((amax :: r.entries).take (min (r.count + 1) r.histLen))

/-- Bytes 9 to 31 and the history of a record after one commit (R75, R76, R80). -/
def applyRecUpd (m : Memory) (u : RecUpd) : Memory :=
  let b := m.read u.addr (32 + 4 * u.histLen)
  let add : Nat → Nat → Memory → Memory := fun off n m => m.write (u.addr + off) (leBytes 4 (sat32 (field b off 4) n))
  let m := add 16 u.sat (add 20 u.nonfinite (add 24 u.underflow m))
  match u.amax with
  | none => m
  | some a =>
    let next := field b 12 2 % u.histLen
    let count := min (field b 10 2 + 1) u.histLen
    let m := m.write (u.addr + 32 + 4 * next) (leBytes 4 a.toNat)
    let next' := (next + 1) % u.histLen
    let m := m.write (u.addr + 12) (leBytes 2 next')
    let m := m.write (u.addr + 10) (leBytes 2 count)
    let m := m.write (u.addr + 28) (leBytes 4 ((field b 28 4 + 1) % 2 ^ 32))
    let hist := histEntries (m.read u.addr (32 + 4 * u.histLen)) u.histLen next' count
    m.write (u.addr + 9) [BitVec.ofNat 8 (unsigned8 (deriveExp u.fmt u.margin u.initExp (signed8 (byteAt b 9)) count hist))]

/-- The update of record `r` from a conversion's findings. -/
def ScaleRec.upd (r : ScaleRec) (amax : Option Word) (sat nonfinite underflow : Nat) : RecUpd :=
  { addr := r.addr, fmt := r.fmt, margin := r.margin, histLen := r.histLen, initExp := r.initExp
    amax := amax, sat := sat, nonfinite := nonfinite, underflow := underflow }

/-- The larger of two recorded amaxes. -/
def maxAmax : Option Word → Option Word → Option Word
  | none, b => b
  | a, none => a
  | some a, some b => some (if (ofF32 a).ltOrd (ofF32 b) then b else a)

/-- Join the findings of one command on one record: one append, the counts summed (R75; log entry 10). -/
def mergeRec (l : List RecUpd) (u : RecUpd) : List RecUpd :=
  if l.any fun x => x.addr == u.addr then
    l.map fun x => if x.addr = u.addr then
      { x with amax := maxAmax x.amax u.amax, sat := x.sat + u.sat, nonfinite := x.nonfinite + u.nonfinite, underflow := x.underflow + u.underflow }
    else x
  else l ++ [u]

/-! Operand descriptors (R101, R102, R530). -/

/-- An operand as a command uses it: its descriptor, its index list and its record. -/
structure Opd where
  at_ : Nat := 0
  addr : Nat := 0
  fmt : Nat := 0
  layout : Nat := 0
  trans : Bool := false
  rows : Nat := 0
  cols : Nat := 0
  pitch : Nat := 0
  scaleAddr : Nat := 0
  indexAddr : Nat := 0
  index : List Nat := []
  sr : ScaleRec := {}
  deriving DecidableEq, Repr

/-- Bytes of a granule on the paths of the device range (R104). -/
abbrev granB : Nat := 16

/-- Bytes of `n` elements of a format (R143). -/
def elemBytes (f n : Nat) : Nat := ceilDiv (n * fmtBits f) 8

/-- Bytes of a stored row. -/
def Opd.rowBytes (o : Opd) : Nat := elemBytes o.fmt o.cols

/-- Granules in a stored row (R530). -/
def Opd.granRow (o : Opd) : Nat := ceilDiv o.rowBytes granB

/-- Rows of the operand before any transpose (R530, R531). -/
def Opd.viewRows (o : Opd) : Nat :=
  if o.layout = 0 then o.rows else if o.layout = 1 then o.index.length else if o.granRow = 0 then 0 else o.index.length / o.granRow

/-- Rows and columns that the operand presents (R531). -/
def Opd.shape (o : Opd) : Nat × Nat := if o.trans then (o.cols, o.viewRows) else (o.viewRows, o.cols)

/-- Read NIDX and the entries of an index list. -/
def State.readIndex (s : State) (p a : Nat) : Except Nat (List Nat) :=
  let st := s.readStatus p a 4
  if st ≠ 0 then .error st
  else
    let n := s.dev.num a 4
    if n = 0 ∨ 16777216 < n then .error 0x0102
    else
      let st := s.readStatus p (a + 4) (4 * n)
      if st ≠ 0 then .error st else .ok ((List.range n).map fun j => s.dev.num (a + 4 + 4 * j) 4)

/-- Read and check an operand descriptor on its own (R101, R102, R530); `i32` where an INT32 preload may stand. INDEX_ADDR not 0 under LAYOUT 0b00 breaks R101's "must be 0" and is rejected with R102's status, which does not list it (DESIGN CHOICE, log entry 78). -/
def State.operand (s : State) (p a : Nat) (i32 : Bool) : Except Nat Opd := do
  let b ← s.readDesc p a 0x11 0x0102 (fun _ => 40) 40
  let o : Opd :=
    { at_ := a, addr := field b 4 6, fmt := byteAt b 10 % 16, layout := bits (byteAt b 10) 5 4, trans := bit (byteAt b 10) 6
      rows := field b 12 4, cols := field b 16 4, pitch := field b 20 4, scaleAddr := field b 24 6, indexAddr := field b 32 6 }
  let bad := o.addr % 128 ≠ 0 ∨ 8 < o.fmt ∨ (o.fmt = fINT32 ∧ i32 = false) ∨ o.layout = 3 ∨ o.rows = 0 ∨ 16777216 < o.rows ∨
    o.cols = 0 ∨ 16777216 < o.cols ∨ (o.fmt = fMXFP4 ∧ o.cols % 32 ≠ 0) ∨ o.pitch % 128 ≠ 0 ∨ o.pitch < o.rowBytes ∨
    (o.fmt = fMXFP4 ∧ (o.scaleAddr = 0 ∨ o.scaleAddr % 128 ≠ 0)) ∨ (fmtScaled o.fmt = true ∧ o.scaleAddr = 0) ∨
    (o.fmt ≠ fMXFP4 ∧ fmtScaled o.fmt = false ∧ o.scaleAddr ≠ 0) ∨
    (o.layout = 0 ∧ o.indexAddr ≠ 0) ∨ (o.layout ≠ 0 ∧ (o.indexAddr = 0 ∨ o.indexAddr % 4 ≠ 0))
  if bad then .error 0x0102
  else
    let ix ← if o.layout = 0 then .ok [] else s.readIndex p o.indexAddr
    if o.layout = 2 ∧ ix.length % o.granRow ≠ 0 then .error 0x0102
    else
      let r ← if fmtScaled o.fmt then s.readRec p o.scaleAddr else .ok {}
      .ok { o with index := ix, sr := r }

/-- An index entry of view row `r` names nothing stored (R530). -/
def Opd.rowBad (o : Opd) (r : Nat) : Bool :=
  if o.layout = 0 then false
  else if o.layout = 1 then decide (o.rows ≤ o.index.getD r 0)
  else ((o.index.drop (r * o.granRow)).take o.granRow).any fun g => decide (o.rows * o.granRow ≤ g)

/-- The view rows that the first `rows` rows of the presented matrix touch: all of them under TRANS (R531). -/
def Opd.viewN (o : Opd) (rows : Nat) : Nat := if rows = 0 then 0 else if o.trans then o.viewRows else rows

/-- The spans in the device range that the read of an operand descriptor takes: the descriptor, its index list and its record (R75, R101, R530). -/
def Opd.metaSpans (o : Opd) : List (Nat × Nat) :=
  (o.at_, 40) :: (if o.layout = 0 then [] else [(o.indexAddr, 4 + 4 * o.index.length)]) ++
    (if fmtScaled o.fmt then [(o.sr.addr, 32 + 4 * o.sr.histLen)] else [])

/-- Where byte `b` of view row `r` lies in the device range. -/
def Opd.byteAddr (o : Opd) (r b : Nat) : Nat :=
  if o.layout = 0 then o.addr + r * o.pitch + b
  else if o.layout = 1 then o.addr + o.index.getD r 0 * o.pitch + b
  else
    let g := o.index.getD (r * o.granRow + b / granB) 0
    o.addr + (g / o.granRow) * o.pitch + (g % o.granRow) * granB + b % granB

/-- Where the scale byte of block `k` of view row `r` lies (R61, R530). R61 says both that a block is 32 K indices and that it is 32 columns of one stored row, which differ for a stationary K × N tensor: the model takes the stored columns (DESIGN CHOICE, log entry 77). -/
def Opd.scaleByteAddr (o : Opd) (r k : Nat) : Nat :=
  let perRow := o.cols / 32
  if o.layout = 0 then o.scaleAddr + r * perRow + k
  else if o.layout = 1 then o.scaleAddr + o.index.getD r 0 * perRow + k
  else
    let g := o.index.getD (r * o.granRow + k) 0
    o.scaleAddr + (g / o.granRow) * perRow + g % o.granRow

/-- The byte spans of view row `r`: its elements and, for MXFP4, its scale bytes. -/
def Opd.rowSpans (o : Opd) (r : Nat) : List (Nat × Nat) :=
  let data :=
    if o.layout = 2 then (List.range o.granRow).map fun j => (o.byteAddr r (granB * j), min granB (o.rowBytes - granB * j))
    else [(o.byteAddr r 0, o.rowBytes)]
  let scales :=
    if o.fmt = fMXFP4 then
      (if o.layout = 2 then (List.range (o.cols / 32)).map fun k => (o.scaleByteAddr r k, 1) else [(o.scaleByteAddr r 0, o.cols / 32)])
    else []
  data ++ scales

/-- The spans of the first `n` view rows. -/
def Opd.spans (o : Opd) (n : Nat) : List (Nat × Nat) := (List.range n).flatMap o.rowSpans

/-- The first status that a list of reads meets. -/
def State.readsStatus (s : State) (p : Nat) : List (Nat × Nat) → Nat
  | [] => 0
  | (a, n) :: r => let st := s.readStatus p a n; if st ≠ 0 then st else State.readsStatus s p r

/-- The first status that a list of write destinations meets. -/
def State.writesStatus (s : State) (p : Nat) : List (Nat × Nat) → Nat
  | [] => 0
  | (a, n) :: r => let st := s.writeStatus p a n; if st ≠ 0 then st else State.writesStatus s p r

/-- The first status over view rows as the DMA engine reaches them: an entry out of range (R106), else what `f` answers on the row's spans. -/
def Opd.rowsStatus (o : Opd) (f : Nat → Nat → Nat) : List Nat → Nat
  | [] => 0
  | r :: rs =>
    if o.rowBad r then 0x0102
    else match (o.rowSpans r).find? fun x => f x.1 x.2 != 0 with
      | some x => f x.1 x.2
      | none => Opd.rowsStatus o f rs

/-- The first status over operands in the order the DMA engine takes them, each with its number of view rows. -/
def viewsStatus (f : Nat → Nat → Nat) : List (Opd × Nat) → Nat
  | [] => 0
  | (o, n) :: r => let st := o.rowsStatus f (List.range n); if st ≠ 0 then st else viewsStatus f r

/-- The same with lists of view rows. -/
def rowsListStatus (f : Nat → Nat → Nat) : List (Opd × List Nat) → Nat
  | [] => 0
  | (o, l) :: r => let st := o.rowsStatus f l; if st ≠ 0 then st else rowsListStatus f r

/-- The spans of operands with lists of view rows. -/
def rowsListSpans (l : List (Opd × List Nat)) : List (Nat × Nat) := l.flatMap fun x => x.2.flatMap x.1.rowSpans

/-- The spans of operands with their numbers of view rows. -/
def viewSpans (l : List (Opd × Nat)) : List (Nat × Nat) := l.flatMap fun x => x.1.spans x.2

/-- Count the page transfers of a list of spans, read or written (R216). -/
def State.touches (s : State) (read : Bool) (l : List (Nat × Nat)) : State := l.foldl (fun s x => s.touch read x.1 x.2) s

/-- The code of element (r, c) of the view before any transpose. -/
def Opd.code (o : Opd) (m : Memory) (r c : Nat) : Nat :=
  match fmtBits o.fmt with
  | 4 => let b := (m.get (o.byteAddr r (c / 2))).toNat; if c % 2 = 0 then b % 16 else b / 16
  | 8 => (m.get (o.byteAddr r c)).toNat
  | 16 => leNat [m.get (o.byteAddr r (2 * c)), m.get (o.byteAddr r (2 * c + 1))]
  | _ => leNat [m.get (o.byteAddr r (4 * c)), m.get (o.byteAddr r (4 * c + 1)), m.get (o.byteAddr r (4 * c + 2)), m.get (o.byteAddr r (4 * c + 3))]

/-- The E8M0 scale byte over element (r, c). -/
def Opd.scaleByte (o : Opd) (m : Memory) (r c : Nat) : Nat := (m.get (o.scaleByteAddr r (c / 32))).toNat

/-- The exact value of element (r, c) of the view, its per-tensor scale taken as 2^e (R55, R160). -/
def Opd.valAt (o : Opd) (m : Memory) (e : Int) (r c : Nat) : Val :=
  if o.fmt = fMXFP4 then mxValue (o.scaleByte m r c) (o.code m r c)
  else if fmtScaled o.fmt then (readCode o.fmt (o.code m r c)).scale e
  else readCode o.fmt (o.code m r c)

/-- Element (i, j) of the matrix the operand presents (R531). -/
def Opd.elem (o : Opd) (m : Memory) (e : Int) (i j : Nat) : Val := if o.trans then o.valAt m e j i else o.valAt m e i j

/-- The cells that store a code at element (r, c) of the view; two MXFP4 elements share a byte and are stored by rows. -/
def Opd.storeCode (o : Opd) (r c code : Nat) : List Host.Cell :=
  let w := fmtBits o.fmt / 8
  (leBytes w code).zipIdx.map fun (b, i) => (o.byteAddr r (w * c + i), b)

/-- Pack E2M1 codes two to a byte (R61). -/
def packNibbles : List Nat → Bytes
  | a :: b :: r => BitVec.ofNat 8 (a % 16 + 16 * (b % 16)) :: packNibbles r
  | [a] => [BitVec.ofNat 8 (a % 16)]
  | [] => []

/-- The cells that store one whole MXFP4 view row: element bytes, then scale bytes (R61). -/
def Opd.storeMxRow (o : Opd) (r : Nat) (codes scales : List Nat) : List Host.Cell :=
  ((packNibbles codes).zipIdx.map fun (b, i) => (o.byteAddr r i, b)) ++
    (scales.zipIdx.map fun (x, k) => (o.scaleByteAddr r k, BitVec.ofNat 8 x))

/-! Operand pairs (R64). -/

/-- Class of a format in the pair table. -/
def pairClass (f : Nat) : Nat := match f with | 7 => 1 | 4 => 2 | 5 => 2 | 6 => 3 | 1 => 4 | 2 => 5 | 3 => 5 | _ => 0

/-- The pair of formats is in R64. -/
def pairOk (f g : Nat) : Bool := pairClass f != 0 && pairClass f == pairClass g

end Sys2Proof.Machine
end

