-- ==== Sys2Proof/Machine/Chains.lean ====
section
/-! DEFINITION. Fused chains: the chain descriptor and its checks, the stages, and the output conversion (04_fused_chains.md, R120 to R137). -/

namespace Sys2Proof.Machine

/-- A stage entry (R124). -/
structure Stage where
  op : Nat := 0
  ifmt : Nat := 0
  rmode : Nat := 0
  sat : Bool := false
  arg : Nat := 0
  paddr : Nat := 0
  pval : Nat := 0
  deriving DecidableEq, Repr

/-- A chain descriptor (R123). -/
structure Chain where
  form : Nat := 0
  outRmode : Nat := 0
  outSat : Bool := false
  outBufs : Nat := 0
  nstage : Nat := 0
  npro : Nat := 0
  rowTiles : Nat := 1
  seed : Nat := 0
  progAddr : Nat := 0
  progLen : Nat := 0
  scratch : Nat := 0
  stages : List Stage := []
  deriving DecidableEq, Repr

/-- What a command that names no chain behaves as (R120). -/
def noChain : Chain := { outBufs := 1 }

/-- Stage entry `k` of a chain's bytes. -/
def stageAt (b : Bytes) (k : Nat) : Stage :=
  let o := 32 + 16 * k
  { op := byteAt b o, ifmt := byteAt b (o + 1) % 16, rmode := bits (byteAt b (o + 1)) 5 4, sat := bit (byteAt b (o + 1)) 6
    arg := byteAt b (o + 2), paddr := field b (o + 4) 6, pval := field b (o + 12) 4 }

/-- Decode a chain descriptor's bytes. -/
def chainOf (b : Bytes) : Chain :=
  let n := byteAt b 5 % 16
  { form := byteAt b 4 % 2, outRmode := bits (byteAt b 4) 2 1, outSat := bit (byteAt b 4) 3, outBufs := b2n (bit (byteAt b 4) 4)
    nstage := n, npro := byteAt b 5 / 16, rowTiles := max 1 (byteAt b 6 % 32), seed := field b 8 4
    progAddr := field b 12 6, progLen := field b 18 2, scratch := field b 20 4, stages := (List.range n).map (stageAt b) }

abbrev opDEQUANT : Nat := 1
abbrev opSCALE : Nat := 2
abbrev opBIAS : Nat := 3
abbrev opRESIDUAL : Nat := 4
abbrev opACTIVATION : Nat := 5
abbrev opRMSNORM : Nat := 6
abbrev opROPE : Nat := 7
abbrev opQUANT : Nat := 8
abbrev opTRANSPOSE : Nat := 9
abbrev opSEND : Nat := 10

/-- The formats that a stage allows for its result, given the incoming format (R126). -/
def ifmtOk (op f inc : Nat) : Bool :=
  if op = opQUANT then 3 ≤ f && f ≤ 7
  else if op = opTRANSPOSE then f == inc
  else if op = opSEND then f == 0
  else f ≤ 2

/-- The parameter that R126 gives a stage must be there, or must not (R125). -/
def paddrOk (st : Stage) : Bool :=
  if st.op = opQUANT then (if st.ifmt = fMXFP4 then st.paddr == 0 else st.paddr != 0)
  else if (st.op = opSCALE ∧ st.arg ≠ 0) ∨ st.op = opBIAS ∨ st.op = opRESIDUAL ∨ st.op = opROPE ∨ st.op = opSEND then st.paddr != 0
  else true

/-- ARG holds a listed value (R125, R126, R136, R137). -/
def argOk (st : Stage) : Bool :=
  if st.op = opSCALE then st.arg ≤ 2
  else if st.op = opBIAS then st.arg % 16 ≤ 2
  else if st.op = opRESIDUAL then st.arg ≤ 1
  else if st.op = opACTIVATION then st.arg ≤ 5
  else if st.op = opROPE then bits st.arg 2 1 != 3
  else true

/-- The format that leaves a stage. -/
def fmtAfter (inc : Nat) (st : Stage) : Nat := if st.op = opSEND then inc else st.ifmt

/-- A run of stages meets R125, from the incoming format. -/
def stagesOk (pro : Bool) : Nat → List Stage → Bool
  | _, [] => true
  | inc, st :: r =>
    (1 ≤ st.op && st.op ≤ 10) && ifmtOk st.op st.ifmt inc && st.rmode != 3 && argOk st && paddrOk st &&
      (!pro || st.op == opDEQUANT || st.op == opSCALE || st.op == opQUANT) && stagesOk pro (fmtAfter inc st) r

/-- Kind of a tile program's slot: 1 send, 2 residual, 3 parameter (R138). -/
def slotKind (st : Stage) : Nat := if st.op = opSEND then 1 else if st.op = opRESIDUAL then 2 else 3

/-- One slot of a tile program meets R125 on its OP, IFMT, RMODE and PADDR: no reserved format (R49), and no QUANT to MXFP4, whose PADDR would have to be 0 while a slot's must not be. -/
def slotOk (st : Stage) : Bool :=
  (1 ≤ st.op && st.op ≤ 10) && st.ifmt ≤ 8 && ifmtOk st.op st.ifmt st.ifmt && st.rmode != 3 && st.paddr != 0 &&
    !(st.op == opQUANT && st.ifmt == fMXFP4)

/-- The slots of a tile program meet R125 and R138. -/
def slotsOk (l : List Stage) : Bool := l.length ≤ 3 && (l.map slotKind).Nodup && l.all slotOk

/-- The format that leaves a run of stages. -/
def fmtThrough (inc : Nat) (l : List Stage) : Nat := l.foldl fmtAfter inc

/-- Prologue and epilogue (or slots) of a chain. -/
def Chain.pro (c : Chain) : List Stage := c.stages.take c.npro
def Chain.epi (c : Chain) : List Stage := c.stages.drop c.npro

/-- The checks of R125 after those of R13 and R122: the incoming formats are the streamed operand's and the accumulator's. -/
def Chain.status (c : Chain) (xFmt accFmt : Nat) : Nat :=
  if 8 < c.nstage ∨ c.nstage < c.npro then 0x0101
  else if c.outRmode = 3 then 0x0101
  else if stagesOk true xFmt c.pro = false then 0x0101
  else if c.form = 1 then
    (if c.progLen = 0 ∨ 512 < c.progLen ∨ c.progAddr % 128 ≠ 0 ∨ c.scratch % 128 ≠ 0 ∨ 1048576 < c.scratch then 0x0101
     else if slotsOk c.epi then 0 else 0x0101)
  else if c.progAddr ≠ 0 ∨ c.progLen ≠ 0 ∨ c.scratch ≠ 0 then 0x0101
  else if stagesOk false accFmt c.epi = false then 0x0101
  else if 1 < (c.epi.filter fun st => st.op == opSEND).length then 0x0101
  else 0

/-- Read a chain descriptor of partition `p` (R13, R122, R123, R125). -/
def State.readChain (s : State) (p a xFmt accFmt : Nat) : Except Nat Chain := do
  let b ← s.readDesc p a 0x12 0x0101 (fun h => 32 + 16 * (byteAt h 5 % 16)) 6
  let c := chainOf b
  if (c.form = 0 ∧ s.inv.stageListEn = false) ∨ (c.form = 1 ∧ s.inv.tileProgEn = false) then .error 0x0105
  else
    let st := c.status xFmt accFmt
    if st ≠ 0 then .error st else .ok c

/-- Axis of port `n` in PORT_FAB_AXIS (R279). -/
def portAxis (axis : Word) (n : Nat) : Nat := bits axis.toNat (2 * n + 1) (2 * n)

/-- The axis of a partition's cut, when the cut has one that holds a port (R279, R282). -/
def State.axisOf (s : State) (p cut : Nat) : Option Nat :=
  let a := if cut < 5 then (s.part p).axes.getD cut 7 else 7
  if a < 4 ∧ (List.range 16).any (fun n => portAxis s.fab.axis n == a) = true then some a else none

/-- A peer window descriptor (R301). -/
structure PeerWin where
  ep : Nat := 0
  part : Nat := 0
  cut : Nat := 0
  window : Nat := 0
  off : Nat := 0
  pitch : Nat := 0
  sOff : Nat := 0
  sPitch : Nat := 0
  deriving DecidableEq, Repr

/-- Read and check the peer window that SEND_PEER names (R301). -/
def State.readPeerWin (s : State) (p a : Nat) : Except Nat PeerWin := do
  let b ← s.readDesc p a 0x55 0x0109 (fun _ => 40) 8
  let d := field b 4 4
  let w : PeerWin := { ep := bits d 19 0, part := bits d 23 20, cut := bits d 26 24, window := field b 8 2
                       off := field b 12 6, pitch := field b 18 4, sOff := field b 22 4, sPitch := field b 26 4 }
  if w.off % 128 ≠ 0 ∨ w.pitch % 128 ≠ 0 then .error 0x0109
  else if (s.axisOf p w.cut).isNone then .error 0x0109
  else if w.ep = s.fab.ep then .error 0x0109
  else .ok w

/-- A stage with what its PADDR names. -/
structure RStage where
  st : Stage := {}
  k : Nat := 0
  opd : Opd := {}
  sr : ScaleRec := {}
  vec : List Val := []
  pw : PeerWin := {}
  deriving DecidableEq, Repr

/-- Read a vector of `n` codes of a plain format at an address (R126). -/
def State.readVec (s : State) (p a f n : Nat) : Except Nat (List Val) :=
  let w := fmtBits f / 8
  let st := s.readStatus p a (w * n)
  if st ≠ 0 then .error st else .ok ((List.range n).map fun i => readCode f (s.dev.num (a + w * i) w))

/-- Head width of ROPE (R136). -/
def ropeH (arg : Nat) : Nat := 64 * 2 ^ bits arg 2 1

/-- Resolve the parameter of a stage, or with `slot` of a tile program's slot, for a product of `m` rows and `n` columns (R125, R126, R131, R136, R138, R531). The PADDR of a parameter slot names a block of bytes only. -/
def State.resolveStage (s : State) (p m n k : Nat) (slot : Bool) (st : Stage) : Except Nat RStage := do
  let r : RStage := { st := st, k := k }
  if slot = true ∧ slotKind st = 3 then .ok r
  else if st.op = opSCALE ∧ st.arg ≠ 0 then
    let v ← s.readVec p st.paddr 0 (if st.arg = 1 then n else m)
    .ok { r with vec := v }
  else if st.op = opBIAS then
    let v ← s.readVec p st.paddr (st.arg % 16) n
    .ok { r with vec := v }
  else if st.op = opRMSNORM then
    let v ← if st.paddr = 0 then .ok [] else s.readVec p st.paddr 0 n
    .ok { r with vec := v }
  else if st.op = opRESIDUAL then
    let o ← s.operand p st.paddr false
    if o.shape ≠ (m, n) then .error 0x0102 else .ok { r with opd := o }
  else if st.op = opROPE then
    let o ← s.operand p st.paddr false
    if o.fmt ≠ 0 ∨ o.layout ≠ 0 ∨ o.trans = true ∨ o.cols < ropeH st.arg then .error 0x0102
    else .ok { r with opd := o }
  else if st.op = opQUANT ∧ st.ifmt ≠ fMXFP4 then
    let c ← s.readRec p st.paddr
    .ok { r with sr := c }
  else if st.op = opSEND then
    let w ← s.readPeerWin p st.paddr
    .ok { r with pw := w }
  else .ok r

/-- Resolve a run of stages, numbered from `k` (R129). -/
def State.resolveStages (s : State) (p m n : Nat) (slot : Bool) : Nat → List Stage → Except Nat (List RStage)
  | _, [] => .ok []
  | k, st :: r => do
    let a ← s.resolveStage p m n k slot st
    let b ← State.resolveStages s p m n slot (k + 1) r
    .ok (a :: b)

/-- The spans that resolving a stage reads, for a product of `m` rows and `n` columns (R126, R301). -/
def RStage.metaSpans (m n : Nat) (r : RStage) : List (Nat × Nat) :=
  let st := r.st
  if !r.vec.isEmpty then [(st.paddr, (if st.op = opBIAS then fmtBits (st.arg % 16) / 8 else 4) * (if st.op = opSCALE ∧ st.arg = 2 then m else n))]
  else if st.op = opRESIDUAL ∨ st.op = opROPE then (if r.opd.rows = 0 then [] else r.opd.metaSpans)
  else if st.op = opQUANT then (if r.sr.addr = 0 then [] else [(r.sr.addr, 32 + 4 * r.sr.histLen)])
  else if st.op = opSEND then [(st.paddr, 40)]
  else []

/-! Values through a chain (R128 to R137). -/

/-- A value in a chain: its exact value and the format, exponent, block scale and code it holds (format 9: the raw accumulator). -/
structure El where
  v : Val := .fin false 0 0
  fmt : Nat := 9
  exp : Int := 0
  mx : Nat := 0
  code : Nat := 0
  deriving DecidableEq, Repr, Inhabited

/-- A matrix by rows. -/
abbrev Mat := List (List El)

/-- Map over a matrix with row and column. -/
def mapMat (f : Nat → Nat → El → El) (a : Mat) : Mat :=
  a.zipIdx.map fun (row, i) => row.zipIdx.map fun (e, j) => f i j e

/-- Rows and columns exchanged. -/
def transMat {α : Type} [Inhabited α] (n : Nat) (a : List (List α)) : List (List α) :=
  (List.range n).map fun j => a.map fun row => row.getD j default

/-- Round once to FP32, BF16 or FP16 (R128 step 3). -/
def roundEl (f : Nat) (r : Rnd) (sat : Bool) (v : Val) : El :=
  let c := convert f r sat v
  { v := readCode f c.code, fmt := f, code := c.code }

/-- Convert to a scaled format at exponent e, with what it counts (R55, R70, R71). -/
def scaleEl (f : Nat) (e : Int) (r : Rnd) (sat : Bool) (v : Val) : El × Conv :=
  let c := convert f r sat (v.scale (-e))
  ({ v := (readCode f c.code).scale e, fmt := f, exp := e, code := c.code }, c)

/-- The amax of the values that enter a conversion, as recorded (R73). -/
def matAmax (a : Mat) : Word := amaxCode (amaxOf (a.flatten.map (·.v)))

/-- Convert a matrix under a scale-state record at exponent e (R73 to R76, R130, R132): the result and the record's update; `pass` lets a value already in that format and exponent through (R130). No rule rejects a record whose FMT is another than the format of the operand or QUANT stage that names it: the values go to the operand's or stage's format `f`, and the record's own FMT derives its next CUR_EXP (DESIGN CHOICE, log entry 103). -/
def quantMat (f : Nat) (sr : ScaleRec) (e : Int) (rmode : Nat) (sat : Bool) (seed : Nat) (idx : Nat → Nat → Nat) (pass : Bool) (a : Mat) : Mat × RecUpd :=
  let b : List (List (El × Conv)) := a.zipIdx.map fun ((row : List El), i) => row.zipIdx.map fun ((x : El), j) =>
    if pass = true ∧ x.fmt = f ∧ x.exp = e then (x, ({ code := x.code } : Conv)) else scaleEl f e (rndOf rmode seed (idx i j)) sat x.v
  let cs := (b.map fun row => row.map (·.2)).flatten
  (b.map fun row => row.map (·.1),
    sr.upd (some (matAmax a)) (cs.map (·.sat)).sum (cs.map (·.nonfinite)).sum (cs.map (·.underflow)).sum)

/-- Quantise one row to MXFP4 blocks of 32 (R63, R132). -/
def mxRow (rmode seed : Nat) (idx : Nat → Nat) (row : List El) : List El :=
  (groupsOf 32 row.length row).zipIdx.flatMap fun (g, k) =>
    let r := mxBlock (fun j => rndOf rmode seed (idx (32 * k + j))) (g.map (·.v))
    r.2.map fun c => { v := mxValue r.1 c, fmt := fMXFP4, mx := r.1, code := c }

/-- Quantise a matrix to MXFP4, the blocks along its rows, or along its columns under a TRANSPOSE (R132). -/
def mxMat (alongRows : Bool) (rmode seed n : Nat) (idx : Nat → Nat → Nat) (a : Mat) : Mat :=
  if alongRows then a.zipIdx.map fun (row, i) => mxRow rmode seed (idx i) row
  else transMat a.length ((transMat n a).zipIdx.map fun (col, j) => mxRow rmode seed (fun i => idx i j) col)

/-- RMSNORM of one row (R134). -/
def rmsRow (eps : Word) (gain : List Val) (n : Nat) (row : List El) : List Val :=
  let xs := row.map fun e => toF32 e.v
  let ss := (groupsOf 128 xs.length xs).foldl
    (fun acc v => acc.zipIdx.map fun (a, i) => match v[i]? with | some x => fFma x x a | none => a) (List.replicate 128 (0 : Word))
  let rcpN := fRcp (toF32 (Val.ofInt n))
  let r := fRsqrt (fFma (laneSum ss) rcpN eps)
  row.zipIdx.map fun (e, j) =>
    let y := fMul (toF32 e.v) r
    if gain.isEmpty then ofF32 y else ofF32 (toF32 ((ofF32 y).mul (gain.getD j (.fin false 0 0))))

/-- ROPE on one row at table row `p` (R136). -/
def ropeRow (m : Memory) (tab : Opd) (arg n p : Nat) (row : List El) : List Val :=
  let h := ropeH arg
  let paired := bit arg 0
  (List.range n).map fun c =>
    let head := c / h * h
    let d := c % h
    let j := if paired then d % (h / 2) else d / 2
    let first := if paired then decide (d < h / 2) else decide (d % 2 = 0)
    let partner := if paired then (if first then head + d + h / 2 else head + d - h / 2) else (if first then c + 1 else c - 1)
    let x := (row.getD c {}).v
    if n ≤ partner then x
    else
      let cos := tab.valAt m 0 p j
      let sin := tab.valAt m 0 p (h / 2 + j)
      let y := (row.getD partner {}).v
      let z := if first then (x.mul cos).add (ofF32 (toF32 (y.mul sin))).neg else (y.mul sin).add (ofF32 (toF32 (x.mul cos)))
      ofF32 (toF32 z)

/-- What a run of epilogue stages leaves. -/
structure ChainOut where
  mat : Mat := []
  recs : List RecUpd := []
  sends : List (PeerWin × Mat) := []
  status : Nat := 0

/-- The row-major index of element (i, j) of an M × N product in the tensor that leaves the chain: M × N, or N × M under a TRANSPOSE (R129, R531). -/
def outIdx (tr : Bool) (m n i j : Nat) : Nat := if tr then j * m + i else i * n + j

/-- One epilogue stage over the whole output of `mm` declared rows and `n` columns; `tr`: the chain holds TRANSPOSE; `sentT`: it stands before this stage (R126 to R137). -/
def epiStage (m : Memory) (seed mm n : Nat) (tr : Bool) (r : RStage) (sentT : Bool) (o : ChainOut) : ChainOut :=
  let st := r.st
  let idx : Nat → Nat → Nat := outIdx tr mm n
  let rnd : Nat → Nat → Rnd := fun i j => rndOf st.rmode (seed + r.k) (idx i j)
  let each : (Nat → Nat → El → Val) → ChainOut := fun f =>
    { o with mat := mapMat (fun i j e => roundEl st.ifmt (rnd i j) st.sat (f i j e)) o.mat }
  if st.op = opDEQUANT then each fun _ _ e => e.v
  else if st.op = opSCALE then
    each fun i j e =>
      e.v.mul (if st.arg = 0 then readCode 0 st.pval else if st.arg = 1 then r.vec.getD j (.fin false 0 0) else r.vec.getD i (.fin false 0 0))
  else if st.op = opBIAS then each fun _ j e => e.v.add (r.vec.getD j (.fin false 0 0))
  else if st.op = opRESIDUAL then
    each fun i j e => let t := r.opd.elem m r.opd.sr.curExp i j; if st.arg = 0 then e.v.add t else e.v.mul t
  else if st.op = opACTIVATION then each fun _ _ e => ofF32 (activation st.arg e.v)
  else if st.op = opRMSNORM then
    let rows := o.mat.map (rmsRow (BitVec.ofNat 32 st.pval) r.vec n)
    each fun i j _ => (rows.getD i []).getD j (.fin false 0 0)
  else if st.op = opROPE then
    if o.mat.length ≠ 0 ∧ r.opd.rows < st.pval + o.mat.length then { o with status := 0x0102 }
    else
      let rows := o.mat.zipIdx.map fun (row, i) => ropeRow m r.opd st.arg n (st.pval + i) row
      each fun i j _ => (rows.getD i []).getD j (.fin false 0 0)
  else if st.op = opQUANT then
    if st.ifmt = fMXFP4 then { o with mat := mxMat (!tr) st.rmode (seed + r.k) n idx o.mat }
    else
      let (a, u) := quantMat st.ifmt r.sr r.sr.curExp r.sr.rmode r.sr.sat (seed + r.k) idx false o.mat
      { o with mat := a, recs := mergeRec o.recs u }
  else if st.op = opSEND then { o with sends := o.sends ++ [(r.pw, if sentT then transMat n o.mat else o.mat)] }
  else o

/-- The epilogue stages in order, stopping at a status. -/
def runEpi (m : Memory) (seed mm n : Nat) (tr : Bool) : Bool → List RStage → ChainOut → ChainOut
  | _, [], o => o
  | t, r :: rs, o =>
    let o' := epiStage m seed mm n tr r t o
    if o'.status ≠ 0 then o' else runEpi m seed mm n tr (t || r.st.op == opTRANSPOSE) rs o'

/-- The output conversion to the format of the output descriptor (R130, R132). -/
def outConvert (c : Chain) (tr : Bool) (mm n : Nat) (y : Opd) (o : ChainOut) : ChainOut :=
  let idx : Nat → Nat → Nat := outIdx tr mm n
  if fmtScaled y.fmt then
    let (a, u) := quantMat y.fmt y.sr y.sr.curExp y.sr.rmode y.sr.sat (c.seed + 8) idx true o.mat
    { o with mat := a, recs := mergeRec o.recs u }
  else if y.fmt = fMXFP4 then
    if ((o.mat.head?.bind (·.head?)).map (·.fmt)) = some fMXFP4 then o
    else { o with mat := mxMat (!tr) c.outRmode (c.seed + 8) n idx o.mat }
  else
    { o with mat := mapMat (fun i j e => if e.fmt = y.fmt then e else roundEl y.fmt (rndOf c.outRmode (c.seed + 8) (idx i j)) c.outSat e.v) o.mat }

/-- The cells that store a finished matrix through an output operand (R61, R62, R133, R530). -/
def storeMat (y : Opd) (tr : Bool) (n : Nat) (a : Mat) : List Host.Cell :=
  let pres := if tr then transMat n a else a
  let view := if y.trans then transMat ((pres.head?.map (·.length)).getD 0) pres else pres
  view.zipIdx.flatMap fun (row, i) =>
    if y.fmt = fMXFP4 then
      let blocks := groupsOf 32 row.length row
      y.storeMxRow i ((row.map (·.code)) ++ List.replicate ((32 - row.length % 32) % 32) 0) (blocks.map fun b => (b.head?.map (·.mx)).getD 0)
    else row.zipIdx.flatMap fun (e, j) => y.storeCode i j e.code

/-- The bytes of a tile row in the format it holds, the last MXFP4 block filled with +0 codes (R62, R146). A SEND_PEER that is the first stage of an INT8 product meets the raw INT32 accumulator, for which R58 names no such place and R301 no width: the element goes as its exact value rounded to FP32, as a raw floating-point accumulator does (DESIGN CHOICE, log entry 102). -/
def rowPayload (row : List El) : Bytes :=
  match row.head? with
  | none => []
  | some e =>
    if e.fmt = fMXFP4 then packNibbles (row.map (·.code) ++ List.replicate ((32 - row.length % 32) % 32) 0)
    else
      let f := if e.fmt = 9 then 0 else e.fmt
      row.flatMap fun x => leBytes (fmtBits f / 8) (if x.fmt = 9 then (toF32 x.v).toNat else x.code)

/-- Where a matrix sent to a peer lands in its window: offset and bytes, row by row, MXFP4 scales after their row (R301). Of an MXFP4 tile that a later TRANSPOSE turns, whose blocks run down the rows of what is sent (R132), the spec does not say which scale bytes go: one for 32 columns of each row does, that of the first of them (DESIGN CHOICE, log entry 102). -/
def sendPieces (w : PeerWin) (a : Mat) : List (Nat × Bytes) :=
  a.zipIdx.flatMap fun (row, i) =>
    let sc :=
      if ((row.head?.map (·.fmt)).getD 0) = fMXFP4 then
        [(w.sOff + i * w.sPitch, (groupsOf 32 row.length row).map fun b => BitVec.ofNat 8 ((b.head?.map (·.mx)).getD 0))]
      else []
    (w.off + i * w.pitch, rowPayload row) :: sc

/-- One prologue stage over the streamed operand's values (R126 to R129); `k` columns, row-major index in that tensor. -/
def proStage (seed k : Nat) (r : RStage) (o : ChainOut) : ChainOut := epiStage [] seed 0 k false r false o

/-- The prologue stages in order. -/
def runPro (seed k : Nat) (l : List RStage) (o : ChainOut) : ChainOut := l.foldl (fun o r => proStage seed k r o) o

end Sys2Proof.Machine
end

