-- ==== Sys2Proof/Machine/Tile.lean ====
section
/-! DEFINITION. Tile programs: the instruction word, the checks before start, and one instruction on a vector engine (R138 to R140). -/

namespace Sys2Proof.Machine

/-- The operand fields of a 64-bit tile-program instruction (R138). -/
def tileArgs (w : Nat) : TileArgs :=
  { vd := BitVec.ofNat 5 (bits w 57 53), va := BitVec.ofNat 5 (bits w 52 48), vb := BitVec.ofNat 5 (bits w 47 43), vc := BitVec.ofNat 5 (bits w 42 38)
    fmt := BitVec.ofNat 4 (bits w 37 34), rmode := BitVec.ofNat 2 (bits w 33 32), sat := bit w 31, idx := bit w 30
    buf := BitVec.ofNat 3 (bits w 29 27), imm := BitVec.ofNat 27 (bits w 26 0) }

/-- The OP of an instruction word (R138). -/
def tileOp (w : Nat) : Nat := bits w 63 58

abbrev tFMA : Nat := 0x01
abbrev tADD : Nat := 0x02
abbrev tMUL : Nat := 0x03
abbrev tMAX : Nat := 0x04
abbrev tMIN : Nat := 0x05
abbrev tCMPLT : Nat := 0x06
abbrev tSEL : Nat := 0x07
abbrev tEXP2 : Nat := 0x10
abbrev tLOG2 : Nat := 0x11
abbrev tRCP : Nat := 0x12
abbrev tRSQRT : Nat := 0x13
abbrev tRSUM : Nat := 0x18
abbrev tRMAX : Nat := 0x19
abbrev tCVT : Nat := 0x20
abbrev tQNT : Nat := 0x21
abbrev tACC : Nat := 0x28
abbrev tLD : Nat := 0x29
abbrev tST : Nat := 0x2A
abbrev tBCAST : Nat := 0x2B
abbrev tLOOP : Nat := 0x30
abbrev tEND : Nat := 0x31
abbrev tSEND : Nat := 0x38

/-- The OP codes of R139. -/
def tileOps : List Nat :=
  [tFMA, tADD, tMUL, tMAX, tMIN, tCMPLT, tSEL, tEXP2, tLOG2, tRCP, tRSQRT, tRSUM, tRMAX, tCVT, tQNT, tACC, tLD, tST, tBCAST, tLOOP, tEND, tSEND]

/-- Instructions of a LOOP's body and its count field. -/
def loopLen (a : TileArgs) : Nat := bits a.imm.toNat 15 0
def loopCount (a : TileArgs) : Nat := bits a.imm.toNat 26 16

/-- LOOPs before instruction `i` whose bodies hold it. -/
def loopsAround (prog : List Nat) (i : Nat) : Nat :=
  ((prog.take i).zipIdx.filter fun (w, j) => tileOp w == tLOOP && decide (i ≤ j + loopLen (tileArgs w))).length

/-- The checks of R139 and R140 before a command starts; the slots say whether BUF 2, BUF 3 and SEND may be named. -/
def progStatus (prog : List Nat) (hasParam hasResid hasSend : Bool) : Nat :=
  let bad := prog.zipIdx.any fun (w, i) =>
    let a := tileArgs w
    let op := tileOp w
    let buf := a.buf.toNat
    !(tileOps.contains op) ||
      (op == tLOOP && (decide (4 < loopsAround prog i + 1) || decide (prog.length ≤ i + loopLen a))) ||
      ((op == tLD || op == tST || op == tBCAST) && ((buf == 2 && !hasParam) || (buf == 3 && !hasResid))) ||
      (op == tSEND && !hasSend)
  if bad || !(prog.any fun w => tileOp w == tEND) then 0x0106 else 0

/-- A vector register: 128 lanes. The spec gives no contents for a register that the tile has not written: it reads as +0, anew in each tile (DESIGN CHOICE, log entry 101). -/
def TileCtx.reg (c : TileCtx) (r : Nat) : List Word :=
  ((c.regs.find? fun x => x.1 == r).map (·.2)).getD (List.replicate 128 0)

/-- Write a vector register; it is then no mask. -/
def TileCtx.setReg (c : TileCtx) (r : Nat) (v : List Word) : TileCtx :=
  { c with regs := (r, v) :: c.regs.filter (fun x => x.1 != r), masks := c.masks.filter fun x => x.1 != r }

/-- Lane `i` is selected by register `r` read as a mask (R139). -/
def TileCtx.lane (c : TileCtx) (r i : Nat) : Bool :=
  match c.masks.find? fun x => x.1 == r with
  | some (_, m) => m.getD i false
  | none => Config.maskOf ((c.reg r).getD i 0) i

/-- Write a lane mask; its bits as a number are free (log entry 11). -/
def TileCtx.setMask (c : TileCtx) (r : Nat) (m : List Bool) : TileCtx :=
  let c := c.setReg r (m.zipIdx.map fun (b, i) => Config.maskBits b i)
  { c with masks := (r, m) :: c.masks }

/-- Lane-wise on two and three registers. -/
def lanes2 (f : Word → Word → Word) (a b : List Word) : List Word := List.zipWith f a b
def lanes3 (f : Word → Word → Word → Word) (a b c : List Word) : List Word := List.zipWith (fun g z => g z) (List.zipWith f a b) c

/-- The row that ACC reads: the index of the innermost LOOP over the tile's rows, else 0 (log entry 11). -/
def TileCtx.row (c : TileCtx) : Nat := ((c.loops.find? fun f => f.rows).map (·.iter)).getD 0

/-- Byte offset of an access: IMM, plus 512 × the innermost loop index when IDX is 1 (R138). -/
def TileCtx.offset (c : TileCtx) (a : TileArgs) : Nat :=
  a.imm.toNat + if a.idx then 512 * ((c.loops.head?.map (·.iter)).getD 0) else 0

/-- A buffer by its BUF number (R138). BUF 4 to 7 are reserved, and R140 does not name them among what is rejected before the start: an LD or ST that names one finds an empty buffer, so that it ends the command with 0x0107, and a BCAST reads past it (DESIGN CHOICE, log entry 101). -/
def TileCtx.buf (c : TileCtx) (b : Nat) : Bytes :=
  match b with | 0 => c.out | 1 => c.scratch | 2 => c.param | 3 => c.resid | _ => []

/-- Replace a buffer. -/
def TileCtx.setBuf (c : TileCtx) (b : Nat) (v : Bytes) : TileCtx :=
  match b with | 0 => { c with out := v } | 1 => { c with scratch := v } | 2 => { c with param := v } | 3 => { c with resid := v } | _ => c

/-- Rounding of lane `i` in a tile program (R68; stochastic values are free, log entry 11). R68 rejects RMODE 0b11 in a stage and states nothing for an instruction: it rounds as 0b10 does (DESIGN CHOICE, log entry 79). -/
def TileCtx.rnd (c : TileCtx) (rmode i : Nat) : Rnd :=
  match rmode with | 0 => .nearest | 1 => .zero | _ => .stoch (Config.tileRandom c.seed c.done i % 65536)

/-- Convert 128 lanes to a format at an exponent and back to FP32 (CVT, QNT). -/
def TileCtx.cvt (c : TileCtx) (f : Nat) (e : Int) (rmode : Nat) (sat : Bool) (v : List Word) : List Word :=
  if f = fMXFP4 then
    (groupsOf 32 v.length v).zipIdx.flatMap fun (g, k) =>
      let r := mxBlock (fun j => c.rnd rmode (32 * k + j)) (g.map ofF32)
      r.2.map fun x => toF32 (mxValue r.1 x)
  else if 7 < f then v.map (Config.reservedFormat f)
  else v.zipIdx.map fun (w, i) => toF32 (scaleEl f e (c.rnd rmode i) sat (ofF32 w)).1.v

/-- The exponent, rounding mode and saturation bit of a QNT to format `f`: those of the output descriptor's record where `f` and the output carry one, else exponent 0 and the instruction's own (R132, R139; log entry 11). -/
def TileCtx.qntRule (c : TileCtx) (f : Nat) (a : TileArgs) : Int × Nat × Bool :=
  if fmtScaled f && fmtScaled c.outFmt then (c.outExp, c.outRmode, c.outSat) else (0, a.rmode.toNat, a.sat)

/-- Add what a QNT to format `f` finds to the output record's findings (R70 to R73, R132). -/
def TileCtx.countQnt (c : TileCtx) (f : Nat) (v : List Word) : TileCtx :=
  if fmtScaled f && fmtScaled c.outFmt then
    let cs := v.zipIdx.map fun (w, i) => (scaleEl f c.outExp (c.rnd c.outRmode i) c.outSat (ofF32 w)).2
    let a := amaxCode (amaxOf (v.map ofF32))
    { c with
      qAmax := if (ofF32 c.qAmax).ltOrd (ofF32 a) then a else c.qAmax
      qSat := c.qSat + (cs.map (·.sat)).sum, qNonfinite := c.qNonfinite + (cs.map (·.nonfinite)).sum
      qUnderflow := c.qUnderflow + (cs.map (·.underflow)).sum }
  else c

/-- The element plane of a buffer that holds an MXFP4 tile: 16 bytes of every 17, the scale bytes after it (R61, R144). -/
def TileCtx.plane (c : TileCtx) (b : Nat) : Option Nat :=
  if (b = 0 ∧ c.bufFmt = fMXFP4) ∨ (b = 3 ∧ c.residFmt = fMXFP4) then some ((c.buf b).length / 17 * 16) else none

/-- The exponent of a scaled format in a buffer: the residual's record for BUF 3, else the output's (R55, R138). -/
def TileCtx.bufExp (c : TileCtx) (b : Nat) : Int := if b = 3 then c.residExp else c.outExp

/-- The MXFP4 blocks of 128 lanes: each its scale byte and its 32 codes (R63). -/
def TileCtx.mxLanes (c : TileCtx) (rmode : Nat) (v : List Word) : List (Nat × List Nat) :=
  (groupsOf 32 v.length v).zipIdx.map fun (g, k) => mxBlock (fun j => c.rnd rmode (32 * k + j)) (g.map ofF32)

/-- The bytes of 128 lanes stored to buffer `b` in a format other than MXFP4: 4 a lane in FP32, the words as they stand (R139), so that a NaN code other than R54's canonical one passes, else codes of the format, a scaled one at the buffer's exponent (ST, R55, R138). Whether an ST to a scaled format is a conversion point of the buffer's record is not said: it takes the instruction's RMODE and SAT, counts nothing and gives no amax (DESIGN CHOICE, log entry 101). -/
def TileCtx.laneBytes (c : TileCtx) (b f rmode : Nat) (sat : Bool) (v : List Word) : Bytes :=
  if f = 0 then v.flatMap fun w => leBytes 4 w.toNat
  else if 7 < f then v.flatMap fun w => leBytes 4 (Config.reservedFormat f w).toNat
  else v.zipIdx.flatMap fun (w, i) =>
    leBytes (fmtBits f / 8) (scaleEl f (if fmtScaled f then c.bufExp b else 0) (c.rnd rmode i) sat (ofF32 w)).1.code

/-- Store 128 lanes in a format at an offset of a buffer: 512 bytes in FP32; MXFP4 writes its scale bytes into the scale plane where the buffer holds one (ST, R61, R139; log entry 11). -/
def TileCtx.storeLanes (c : TileCtx) (b f off rmode : Nat) (sat : Bool) (v : List Word) : TileCtx :=
  let buf := c.buf b
  if f = fMXFP4 then
    let bl := c.mxLanes rmode v
    let d := patch buf off (bl.flatMap fun x => packNibbles x.2)
    c.setBuf b (match c.plane b with
      | some e => patch d (e + off / 16) (bl.map fun x => BitVec.ofNat 8 x.1)
      | none => d)
  else c.setBuf b (patch buf off (c.laneBytes b f rmode sat v))

/-- The scale byte over lane `i` of an MXFP4 access at an offset of a buffer; free where the buffer holds no scale plane (log entry 11). -/
def TileCtx.laneScale (c : TileCtx) (b off i : Nat) : Nat :=
  match c.plane b with
  | some e => byteAt (c.buf b) (e + off / 16 + i / 32)
  | none => (Config.noScale b (off / 16 + i / 32)).toNat

/-- 128 lanes from an offset of a buffer in a format (LD); FP32 words as they stand (R139; log entry 101). -/
def TileCtx.loadLanes (c : TileCtx) (b f off : Nat) : List Word :=
  let d := (c.buf b).drop off
  (List.range 128).map fun i =>
    if f = fMXFP4 then toF32 (mxValue (c.laneScale b off i) (let x := byteAt d (i / 2); if i % 2 = 0 then x % 16 else x / 16))
    else if 7 < f then Config.reservedFormat f (BitVec.ofNat 32 (field d (4 * i) 4))
    else if f = 0 then BitVec.ofNat 32 (field d (4 * i) 4)
    else toF32 ((readCode f (field d (i * (fmtBits f / 8)) (fmtBits f / 8))).scale (if fmtScaled f then c.bufExp b else 0))

/-- Bytes that an LD or ST moves in a format. -/
def laneSpan (f : Nat) : Nat := if 7 < f then 512 else 128 * fmtBits f / 8

/-- An LD or ST of format `f` at an offset reaches past its buffer, or past its element plane (R140). -/
def TileCtx.pastEnd (c : TileCtx) (b f off : Nat) : Bool :=
  decide ((if f = fMXFP4 then (c.plane b).getD (c.buf b).length else (c.buf b).length) < off + laneSpan f)

/-- Leave the LOOP bodies that end at `pc`, or start them again (R139). -/
def popLoops : List LoopFrame → Nat → List LoopFrame × Nat
  | [], pc => ([], pc)
  | f :: r, pc =>
    if pc = f.start + f.len then (if f.iter + 1 < f.count then ({ f with iter := f.iter + 1 } :: r, f.start) else popLoops r pc)
    else (f :: r, pc)

/-- Move to the next instruction, counting this one (R140). -/
def TileCtx.advance (c : TileCtx) : TileCtx :=
  let (l, pc) := popLoops c.loops (c.pc + 1)
  { c with loops := l, pc := pc, done := c.done + 1, fault := c.fault || decide (65536 < c.done + 1) }

/-- The effect of one instruction, the advance left out (R139). R139 does not say which source of SEL is the mask and which value is picked where it is true: VC is the mask, VA is picked where it is true and VB elsewhere; SEL and BCAST move FP32 words as they stand (DESIGN CHOICE, log entry 101). -/
def tileEffect (op : Nat) (a : TileArgs) (c : TileCtx) : TileCtx :=
  let va := c.reg a.va.toNat
  let vb := c.reg a.vb.toNat
  let vc := c.reg a.vc.toNat
  let put := c.setReg a.vd.toNat
  let f := a.fmt.toNat
  let off := c.offset a
  let b := a.buf.toNat
  if op = tFMA then put (lanes3 fFma va vb vc)
  else if op = tADD then put (lanes2 fAdd va vb)
  else if op = tMUL then put (lanes2 fMul va vb)
  else if op = tMAX then put (lanes2 fMax va vb)
  else if op = tMIN then put (lanes2 fMin va vb)
  else if op = tCMPLT then c.setMask a.vd.toNat (List.zipWith (fun x y => (ofF32 x).lt (ofF32 y)) va vb)
  else if op = tSEL then put ((List.range 128).map fun i => if c.lane a.vc.toNat i then va.getD i 0 else vb.getD i 0)
  else if op = tEXP2 then put (va.map fExp2)
  else if op = tLOG2 then put (va.map fLog2)
  else if op = tRCP then put (va.map fRcp)
  else if op = tRSQRT then put (va.map fRsqrt)
  else if op = tRSUM then put (List.replicate 128 (laneSum va))
  else if op = tRMAX then put (List.replicate 128 (laneMax va))
  else if op = tCVT then put (c.cvt f 0 a.rmode.toNat a.sat va)
  else if op = tQNT then
    let q := c.qntRule f a
    (c.countQnt f va).setReg a.vd.toNat (c.cvt f q.1 q.2.1 q.2.2 va)
  else if op = tACC then put ((List.range 128).map fun i => (c.acc.getD c.row []).getD (a.imm.toNat + i) 0)
  else if op = tLD then
    if c.pastEnd b f off then { c with fault := true } else put (c.loadLanes b f off)
  else if op = tST then
    if c.pastEnd b f off then { c with fault := true } else c.storeLanes b f off a.rmode.toNat a.sat va
  else if op = tBCAST then
    put (List.replicate 128 (if (c.buf b).length < off + 4 then Config.pastBuffer b off else BitVec.ofNat 32 (field (c.buf b) off 4)))
  else if op = tLOOP then
    if loopLen a = 0 then c
    else
      let n := if loopCount a = 0 then c.m else loopCount a
      { c with loops := { start := c.pc + 1, len := loopLen a, count := n, iter := 0, rows := loopCount a == 0 } :: c.loops }
  else if op = tEND then { c with ended := true }
  else if op = tSEND then { c with sends := c.sends ++ [c.out] }
  else c

/-- One instruction of a tile program on a vector engine (R139, R140). -/
def tileStep (op : Nat) (a : TileArgs) (c : TileCtx) : TileCtx :=
  let c' := tileEffect op a c
  if op = tLOOP ∧ loopLen a ≠ 0 then { c' with pc := c.pc + 1, done := c.done + 1, fault := c'.fault || decide (65536 < c.done + 1) }
  else c'.advance

/-- Run a program to END or a fault, with fuel for the limit of R140. -/
def runTile (prog : List Nat) : Nat → TileCtx → TileCtx
  | 0, c => { c with fault := true }
  | n + 1, c =>
    if c.ended || c.fault then c
    else match prog[c.pc]? with
      | none => { c with ended := true }
      | some w => runTile prog n (tileStep (tileOp w) (tileArgs w) c)

/-- Fuel for a tile: the limit of R140 and one more. -/
abbrev tileFuel : Nat := 65538

/-- The words of a program at an address. -/
def State.readProg (s : State) (p a n : Nat) : Except Nat (List Nat) :=
  let st := s.readStatus p a (8 * n)
  if st ≠ 0 then .error st else .ok ((List.range n).map fun i => s.dev.num (a + 8 * i) 8)

/-- The bytes of a parameter block: up to 32 KiB of what is mapped from PADDR on (R138, R143; log entry 11). -/
def State.readParam (s : State) (p a : Nat) : Bytes :=
  let toEnd := slabB - a % slabB
  if s.readStatus p a 32768 = 0 then s.dev.read a 32768
  else if s.readStatus p a (min 32768 toEnd) = 0 then s.dev.read a (min 32768 toEnd)
  else []

end Sys2Proof.Machine
end

