-- ==== Sys2Proof/Machine/Gradients.lean ====
section
/-! DEFINITION. Gradient sets, accumulation, finish and the optimiser step as arithmetic over the device range (05_training_arithmetic.md, R156 to R173). -/

namespace Sys2Proof.Machine

/-- What a command's run leaves in its staging slabs, or the status it ends with. -/
structure RunRes where
  status : Nat := 0
  writes : List Host.Cell := []
  recs : List RecUpd := []
  sends : List (PeerWin × List (Nat × Bytes)) := []
  /-- Byte spans read. -/
  reads : List (Nat × Nat) := []
  /-- Byte spans written. -/
  dests : List (Nat × Nat) := []
  /-- Tiers that R156 gives the slabs written. -/
  tiers : List (Nat × Tier) := []
  /-- Every staging slab must lie in T1 (R159). -/
  t1Only : Bool := false
  /-- Activation vectors issued to the matrix arrays, 16,384 multiply-accumulates each (R454). -/
  vectors : Nat := 0
  /-- Free values drawn. -/
  drawn : Nat := 0

/-- A run that ends with a status. -/
def RunRes.fail (st : Nat) : RunRes := { status := st }

/-- The result of a run that may end with a status. -/
def RunRes.ofExcept : Except Nat RunRes → RunRes
  | .ok r => r
  | .error st => .fail st

/-- A gradient set as a command reads it (R157). -/
structure Gset where
  addr : Nat := 0
  gfmt : Nat := 0
  wheyEn : Bool := false
  acc : Opd := {}
  grad : Opd := {}
  whey : Opd := {}
  accExp : Int := 0
  gradExp : Int := 0
  wheyExp : Int := 0
  passes : Nat := 0
  gradGen : Nat := 0
  usedGen : Nat := 0

/-- The gradient set at an address is registered by partition `p` (R159). -/
def State.gsetRegistered (s : State) (p a : Nat) : Bool := (s.part p).gsets.any fun g => g.1 == a

/-- Read a gradient set and make the checks of R158 on the set itself, in that rule's order: own fields, registration, operands, shapes. -/
def State.readGset (s : State) (p a : Nat) (wantRegistered : Bool) : Except Nat Gset := do
  let b ← s.readDesc p a 0x20 0x0201 (fun _ => 48) 48
  let gf := byteAt b 4 % 16
  let we := bit (byteAt b 4) 4
  let aa := field b 8 6
  let ga := field b 16 6
  let wa := field b 24 6
  if (gf ≠ 4 ∧ gf ≠ 5) ∨ (we = false ∧ wa ≠ 0) ∨ (we = true ∧ wa = 0) ∨ aa = 0 ∨ ga = 0 ∨
      byteAt b 32 = 0x80 ∨ byteAt b 33 = 0x80 ∨ byteAt b 34 = 0x80 then .error 0x0201
  else if s.gsetRegistered p a ≠ wantRegistered then .error 0x0201
  else
    let acc ← s.operand p aa false
    let grad ← s.operand p ga false
    let whey ← if we then s.operand p wa false else .ok {}
    if acc.fmt ≠ 3 ∨ grad.fmt ≠ gf ∨ (we = true ∧ whey.fmt ≠ 2) then .error 0x0201
    else if (acc.rows, acc.cols) ≠ (grad.rows, grad.cols) ∨ (we = true ∧ (acc.rows, acc.cols) ≠ (whey.rows, whey.cols)) then .error 0x0201
    else .ok { addr := a, gfmt := gf, wheyEn := we, acc := acc, grad := grad, whey := whey
               accExp := signed8 (byteAt b 32), gradExp := signed8 (byteAt b 33), wheyExp := signed8 (byteAt b 34)
               passes := field b 36 2, gradGen := field b 40 4, usedGen := field b 44 4 }

/-- The tensors of a set. -/
def Gset.tensors (g : Gset) : List Opd := [g.acc, g.grad] ++ if g.wheyEn then [g.whey] else []

/-- The slabs that an operand touches. -/
def Opd.slabs (o : Opd) : List Nat := ((o.spans o.viewRows).flatMap fun x => spanSlabs x.1 x.2).dedup

/-- Every slab that the tensors of a set touch, each once (R159). -/
def Gset.slabs (g : Gset) : List Nat := ((g.tensors.flatMap fun o => o.spans o.viewRows).flatMap fun x => spanSlabs x.1 x.2).dedup

/-- Cells of one byte, and of a little-endian number, at an address. -/
def byteCell (a n : Nat) : Host.Cell := (a, BitVec.ofNat 8 n)
def numCells (a k n : Nat) : List Host.Cell := (leBytes k n).zipIdx.map fun (b, i) => (a + i, b)

/-- The next value of a 16-bit count, which the spec does not state past 65,535 (free, log entry 11). -/
def nextPasses (n fresh : Nat) : Nat := if n = 65535 then Config.freeNat fresh % 65536 else n + 1

/-- The sums and codes of one accumulation pass over the chain results, by rows (R162). -/
def passMat (m : Memory) (g : Gset) (seed n : Nat) (y : Mat) : Mat × RecUpd :=
  let s : Mat := mapMat (fun i j e => { v := ofF32 (toF32 ((ofF32 (toF32 e.v)).add (g.acc.elem m g.accExp i j))) }) y
  quantMat 3 g.acc.sr g.acc.sr.curExp g.acc.sr.rmode g.acc.sr.sat seed (fun i j => i * n + j) false s

/-! Finish (R165). -/

/-- One element of a finish: the code of the reduced gradient and what it counts, the whey code, and the sum g. -/
def finishElem (g : Gset) (m : Memory) (i j : Nat) : Word × (Nat × Conv) × (Nat × Conv) :=
  let e := g.grad.sr.curExp
  let w : Val := if g.wheyEn then (g.whey.valAt m 0 i j).scale g.wheyExp else .fin false 0 0
  let sum := toF32 ((g.acc.valAt m g.accExp i j).add w)
  let q := scaleEl g.gfmt e (rndOf g.grad.sr.rmode 0 (i * g.acc.cols + j)) g.grad.sr.sat (ofF32 sum)
  let r := toF32 ((ofF32 sum).add q.1.v.neg)
  let c := convert 2 .nearest true ((ofF32 r).scale (-e))
  (sum, (q.1.code, q.2), (c.code, c))

/-- A finish over the assigned rows [lo, hi): cells, and the update of the reduced gradient's record. -/
def finishRun (g : Gset) (m : Memory) (lo hi : Nat) : List Host.Cell × RecUpd :=
  let els := (List.range g.acc.viewRows).flatMap fun i => (List.range g.acc.cols).map fun j => (i, j)
  let mine := (els.filter fun x => decide (lo ≤ x.1) && decide (x.1 < hi)).map fun x => (x, finishElem g m x.1 x.2)
  let other := els.filter fun x => !(decide (lo ≤ x.1) && decide (x.1 < hi))
  let cells := (mine.flatMap fun (x, r) =>
      g.acc.storeCode x.1 x.2 0 ++ g.grad.storeCode x.1 x.2 r.2.1.1 ++ (if g.wheyEn then g.whey.storeCode x.1 x.2 r.2.2.1 else [])) ++
    (other.flatMap fun x => g.acc.storeCode x.1 x.2 0 ++ g.grad.storeCode x.1 x.2 0 ++ (if g.wheyEn then g.whey.storeCode x.1 x.2 0 else []))
  let amax := amaxCode (amaxOf (mine.map fun x => ofF32 x.2.1))
  let cs := (mine.map fun x => x.2.2.1.2)
  let ws := if g.wheyEn then mine.map fun x => x.2.2.2.2 else []
  (cells, g.grad.sr.upd (some amax) ((cs.map (·.sat)).sum + (ws.map (·.sat)).sum) (cs.map (·.nonfinite)).sum
    ((cs.map (·.underflow)).sum + (ws.map (·.underflow)).sum))

/-! Optimiser step (R167 to R172). -/

/-- An optimiser descriptor (R167). -/
structure OptDesc where
  algo : Nat := 0
  momR : Nat := 0
  workR : Nat := 0
  tcopyEn : Bool := false
  momFmt : Nat := 0
  workFmt : Nat := 0
  tcopyFmt : Nat := 0
  lr : Word := 0
  b1 : Word := 0
  b2 : Word := 0
  eps : Word := 0
  wd : Word := 0
  seed : Nat := 0
  gset : Nat := 0
  master : Nat := 0
  mAddr : Nat := 0
  vAddr : Nat := 0
  work : Nat := 0
  tcopy : Nat := 0
  progAddr : Nat := 0
  progLen : Nat := 0
  row0 : Nat := 0
  nrows : Nat := 0
  stepT : Nat := 0
  mExp : Int := 0
  vExp : Int := 0
  deriving DecidableEq, Repr

/-- Decode an optimiser descriptor. -/
def optDesc (b : Bytes) : OptDesc :=
  let w : Nat → Word := fun o => BitVec.ofNat 32 (field b o 4)
  { algo := bits (byteAt b 4) 1 0, momR := bits (byteAt b 4) 3 2, workR := bits (byteAt b 4) 5 4, tcopyEn := bit (byteAt b 4) 6
    momFmt := byteAt b 5 % 16, workFmt := byteAt b 5 / 16, tcopyFmt := byteAt b 6 % 16
    lr := w 8, b1 := w 12, b2 := w 16, eps := w 20, wd := w 24, seed := field b 28 4
    gset := field b 32 6, master := field b 38 6, mAddr := field b 44 6, vAddr := field b 50 6, work := field b 56 6, tcopy := field b 62 6
    progAddr := field b 68 6, progLen := field b 74 2, row0 := field b 76 4, nrows := field b 80 4, stepT := field b 84 4
    mExp := signed8 (byteAt b 88), vExp := signed8 (byteAt b 89) }

/-- The fields of R167 and the checks of R168 on them. -/
def optFieldsOk (b : Bytes) (d : OptDesc) : Bool :=
  let second := d.algo == 0 || d.algo == 2
  !(d.algo == 3 || d.momR == 3 || d.workR == 3 || !([1, 4, 5].contains d.momFmt) || !([4, 5, 7].contains d.workFmt) ||
    (d.tcopyEn && !([1, 4, 5].contains d.tcopyFmt)) || (!second && d.vAddr != 0) || (second && d.vAddr == 0) || (!d.tcopyEn && d.tcopy != 0) ||
    (d.algo == 2 && (d.progAddr % 128 != 0 || d.progLen == 0 || decide (512 < d.progLen))) ||
    (d.algo != 2 && (d.progAddr != 0 || d.progLen != 0)) || byteAt b 88 == 0x80 || byteAt b 89 == 0x80)

/-- x^t by binary exponentiation, each multiply rounded; bits from the least significant, the result starting at 1 (log entry 13). -/
def fPow (x : Word) (t : Nat) : Nat → Word → Word
  | 0, r => r
  | n + 1, r => fPow (fMul x x) (t / 2) n (if t % 2 = 1 then fMul r x else r)

/-- The constants of a step (R169): k1, k2, a1, a2. -/
def optConsts (d : OptDesc) : Word × Word × Word × Word :=
  let t := d.stepT + 1
  let p1 := fPow d.b1 t 33 f32one
  let p2 := fPow d.b2 t 33 f32one
  (fRcp (fSub f32one p1), fRcp (fSub f32one p2), fSub f32one d.b1, fSub f32one d.b2)

/-- The new w, m and v of one element (R169). -/
def optElem (d : OptDesc) (k : Word × Word × Word × Word) (g w m v : Word) : Word × Word × Word :=
  if d.algo = 0 then
    let (k1, k2, a1, a2) := k
    let m' := fFma d.b1 m (fMul a1 g)
    let v' := fFma d.b2 v (fMul (fMul a2 g) g)
    let vk := fMul v' k2
    let dd := if (v'.toNat % 2 ^ 31) = 0 then 0 else fMul vk (fRsqrt vk)
    let u := fMul (fMul m' k1) (fRcp (fAdd dd d.eps))
    (fFma (fNeg d.lr) (fFma d.wd w u) w, m', v')
  else
    let m' := fFma d.b1 m g
    (fFma (fNeg d.lr) (fFma d.wd w m') w, m', v)

/-- 128 elements through an optimiser tile program (R171). -/
def optProg (d : OptDesc) (prog : List Nat) (k : Word × Word × Word × Word) (g w m v : List Word) : List Word × List Word × List Word × Bool :=
  let pad : List Word → List Word := fun l => l ++ List.replicate (128 - l.length) 0
  let b : Word → List Word := fun x => List.replicate 128 x
  let c : TileCtx :=
    { regs := [(0, pad g), (1, pad w), (2, pad m), (3, pad v), (4, b d.lr), (5, b d.b1), (6, b d.b2), (7, b d.eps), (8, b d.wd), (9, b k.1), (10, b k.2.1)]
      m := 1, seed := d.seed }
  let r := runTile prog tileFuel c
  (r.reg 1, r.reg 2, r.reg 3, r.fault)

/-- An optimiser program names none of ACC, LD, ST, QNT and SEND (R171), and meets R140; BCAST has no buffer to read. -/
def optProgStatus (prog : List Nat) : Nat :=
  if prog.any fun w => [tACC, tLD, tST, tQNT, tSEND].contains (tileOp w) then 0x0106 else progStatus prog false false false

/-- Split a list like another list of lists. -/
def splitLike (n : Nat) (l : List Word) : List (List Word) := groupsOf n l.length l

/-- What an optimiser step has read and checked before it starts (R167, R168). -/
structure OptSet where
  at_ : Nat := 0
  d : OptDesc := {}
  g : Gset := {}
  w : Opd := {}
  mo : Opd := {}
  vo : Opd := {}
  wk : Opd := {}
  tc : Opd := {}
  /-- There is a second moment. -/
  second : Bool := false
  rows : Nat := 0
  cols : Nat := 0
  /-- Rows updated. -/
  n : Nat := 0
  prog : List Nat := []

/-- The checks of an optimiser step (R158, R168, R171). -/
def State.optSet (s : State) (p a : Nat) : Except Nat OptSet := do
  let b ← s.readDesc p a 0x21 0x0203 (fun _ => 96) 96
  let d := optDesc b
  if optFieldsOk b d = false then .error 0x0203
  else
    let g ← s.readGset p d.gset true
    let w ← s.operand p d.master false
    let mo ← s.operand p d.mAddr false
    let second := d.algo == 0 || d.algo == 2
    let vo ← if second then s.operand p d.vAddr false else .ok {}
    let wk ← s.operand p d.work false
    let tc ← if d.tcopyEn then s.operand p d.tcopy false else .ok {}
    let named := [mo, wk, g.grad] ++ (if second then [vo] else []) ++ (if d.tcopyEn then [tc] else [])
    if named.any fun o => o.trans && o.fmt == fMXFP4 then .error 0x0103
    else if w.fmt ≠ 0 ∨ mo.fmt ≠ d.momFmt ∨ (second = true ∧ vo.fmt ≠ d.momFmt) ∨ wk.fmt ≠ d.workFmt ∨ (d.tcopyEn = true ∧ tc.fmt ≠ d.tcopyFmt) then .error 0x0203
    else if named.any fun o => o.shape != w.shape then .error 0x0203
    else
      let (rows, cols) := w.shape
      let n := if d.nrows = 0 then rows - d.row0 else d.nrows
      if rows < d.row0 + n ∨ rows < d.row0 then .error 0x0203
      else if g.gradGen = g.usedGen then .error 0x0202
      else
        let prog ← if d.algo = 2 then s.readProg p d.progAddr d.progLen else .ok []
        let ps := if d.algo = 2 then optProgStatus prog else 0
        if ps ≠ 0 then .error ps
        else .ok { at_ := a, d := d, g := g, w := w, mo := mo, vo := vo, wk := wk, tc := tc, second := second, rows := rows, cols := cols, n := n, prog := prog }

/-- A copy is quantised in the second pass over the new master (R170). -/
def secondPass (o : Opd) : Bool := fmtScaled o.fmt

/-- The copies that the step writes. -/
def OptSet.copies (t : OptSet) : List Opd := t.wk :: if t.d.tcopyEn then [t.tc] else []

/-- The moments. -/
def OptSet.moments (t : OptSet) : List Opd := t.mo :: if t.second then [t.vo] else []

/-- The view rows of an operand that the updated rows touch, all of them under TRANS. -/
def OptSet.mine (t : OptSet) (o : Opd) : List Nat := if o.trans then List.range o.viewRows else (List.range t.n).map (t.d.row0 + ·)

/-- The tensors that the step reads, with their view rows: the whole master where a second pass takes it (R169, R170). -/
def OptSet.reads (t : OptSet) : List (Opd × List Nat) :=
  (t.w, if t.copies.any secondPass then List.range t.w.viewRows else t.mine t.w) :: (t.g.grad :: t.moments).map fun o => (o, t.mine o)

/-- The tensors that it writes: a copy of the second pass whole (R170). -/
def OptSet.writes (t : OptSet) : List (Opd × List Nat) :=
  (t.w :: t.moments).map (fun o => (o, t.mine o)) ++ t.copies.map fun o => (o, if secondPass o then List.range o.viewRows else t.mine o)

/-- The elements of the updated rows. -/
def OptSet.idxs (t : OptSet) : List (Nat × Nat) := (List.range t.n).flatMap fun i => (List.range t.cols).map fun j => (t.d.row0 + i, j)

/-- The new w, m and v of the updated rows, and whether a program faulted (R169, R171). -/
def OptSet.news (t : OptSet) (m : Memory) : List ((Nat × Nat) × Word × Word × Word) × Bool :=
  let k := optConsts t.d
  let gv := t.idxs.map fun x => toF32 (t.g.grad.elem m t.g.gradExp x.1 x.2)
  let wv := t.idxs.map fun x => toF32 (t.w.elem m 0 x.1 x.2)
  let mv := t.idxs.map fun x => toF32 (t.mo.elem m t.d.mExp x.1 x.2)
  let vv := t.idxs.map fun x => if t.second then toF32 (t.vo.elem m t.d.vExp x.1 x.2) else 0
  if t.d.algo = 2 then
    let parts := (List.zip (List.zip (splitLike 128 gv) (splitLike 128 wv)) (List.zip (splitLike 128 mv) (splitLike 128 vv))).map
      fun x => (x.1.1.length, optProg t.d t.prog k x.1.1 x.1.2 x.2.1 x.2.2)
    (t.idxs.zip (parts.flatMap fun x => ((x.2.1.take x.1).zip ((x.2.2.1.take x.1).zip (x.2.2.2.1.take x.1)))), parts.any fun x => x.2.2.2.2)
  else
    (t.idxs.zip ((List.zip (List.zip gv wv) (List.zip mv vv)).map fun x => optElem t.d k x.1.1 x.1.2 x.2.1 x.2.2), false)

/-- The cells of a code at element (i, j) of the matrix an operand presents. -/
def Opd.putCode (o : Opd) (i j code : Nat) : List Host.Cell := if o.trans then o.storeCode j i code else o.storeCode i j code

/-- Values stored through an operand in a format of one element each, with the operand's record's findings (R70 to R76, R170). Without a record there is no SAT field: SAT is 0 (DESIGN CHOICE, log entry 103). -/
def OptSet.store (t : OptSet) (o : Opd) (e : Int) (rmode sd : Nat) (vals : List ((Nat × Nat) × Word)) : List Host.Cell × List RecUpd :=
  let cs := vals.map fun x => (x.1, scaleEl o.fmt (if fmtScaled o.fmt then e else 0) (rndOf rmode (t.d.seed + sd) (x.1.1 * t.cols + x.1.2)) (fmtScaled o.fmt && o.sr.sat) (ofF32 x.2))
  (cs.flatMap fun x => o.putCode x.1.1 x.1.2 x.2.1.code,
    if fmtScaled o.fmt then
      [o.sr.upd (some (amaxCode (amaxOf (vals.map fun x => ofF32 x.2)))) (cs.map fun x => x.2.2.sat).sum (cs.map fun x => x.2.2.nonfinite).sum (cs.map fun x => x.2.2.underflow).sum]
    else [])

/-- The elements of rows [lo, hi) of the master as they were. -/
def OptSet.oldRows (t : OptSet) (m : Memory) (lo hi : Nat) : List ((Nat × Nat) × Word) :=
  (List.range (hi - lo)).flatMap fun i => (List.range t.cols).map fun j => ((lo + i, j), toF32 (t.w.elem m 0 (lo + i) j))

/-- A copy of the new master: MXFP4 by R63 and BF16 over the updated rows in the same pass, FP8 in a second pass over the whole new master, at the exponent that its record will hold once this step's amax, that of the values which enter this conversion, is appended (R63, R73, R74, R170). -/
def OptSet.copy (t : OptSet) (m : Memory) (o : Opd) (sd : Nat) (new : List ((Nat × Nat) × Word)) : List Host.Cell × List RecUpd :=
  if o.fmt = fMXFP4 then
    ((List.range t.n).flatMap fun i =>
      let row := mxRow t.d.workR (t.d.seed + sd) (fun j => (t.d.row0 + i) * t.cols + j) (((new.drop (i * t.cols)).take t.cols).map fun x => { v := ofF32 x.2 })
      o.storeMxRow (t.d.row0 + i) (row.map (·.code)) ((groupsOf 32 row.length row).map fun bl => (bl.head?.map (·.mx)).getD 0), [])
  else if secondPass o then
    let all := t.oldRows m 0 t.d.row0 ++ new ++ t.oldRows m (t.d.row0 + t.n) t.rows
    t.store o (o.sr.expAfter (amaxCode (amaxOf (all.map fun x => ofF32 x.2)))) t.d.workR sd all
  else t.store o 0 t.d.workR sd new

/-- The run of an optimiser step (R168 to R172). -/
def State.runOptimiser (s : State) (p a : Nat) : Except Nat RunRes := do
  let t ← s.optSet p a
  let fields := [(a + 84, 8), (t.g.addr + 44, 4)]
  let st := rowsListStatus (s.readStatus p) t.reads
  let st := if st ≠ 0 then st else rowsListStatus (s.writeStatus p) t.writes
  let st := if st ≠ 0 then st else s.writesStatus p fields
  if st ≠ 0 then .error st
  else
    let m := s.dev
    let (news, bad) := t.news m
    if bad then .error 0x0107
    else
      let new := news.map fun x => (x.1, x.2.1)
      let sm := t.store t.mo t.mo.sr.curExp t.d.momR 0 (news.map fun x => (x.1, x.2.2.1))
      let sv := if t.second then t.store t.vo t.vo.sr.curExp t.d.momR 1 (news.map fun x => (x.1, x.2.2.2)) else ([], [])
      let sk := t.copy m t.wk 2 new
      let sc := if t.d.tcopyEn then t.copy m t.tc 3 new else ([], [])
      let counts := numCells (a + 84) 4 ((t.d.stepT + 1) % 2 ^ 32) ++
        (if fmtScaled t.mo.fmt then [byteCell (a + 88) (unsigned8 t.mo.sr.curExp)] else []) ++
        (if t.second ∧ fmtScaled t.vo.fmt = true then [byteCell (a + 89) (unsigned8 t.vo.sr.curExp)] else []) ++
        numCells (t.g.addr + 44) 4 t.g.gradGen
      .ok { writes := (new.flatMap fun x => t.w.putCode x.1.1 x.1.2 x.2.toNat) ++ sm.1 ++ sv.1 ++ sk.1 ++ sc.1 ++ counts
            recs := (sm.2 ++ sv.2 ++ sk.2 ++ sc.2).foldl mergeRec [], reads := rowsListSpans t.reads, dests := rowsListSpans t.writes ++ fields
            tiers := ((t.w :: t.moments).flatMap fun o => o.slabs.map fun k => (k, .t2)) ++ t.copies.flatMap fun o => o.slabs.map fun k => (k, .t1) }

/-- The run of a finish over the rows [lo, hi) that the exchange assigned (R165). -/
def State.runFinish (s : State) (p a lo hi : Nat) : Except Nat RunRes := do
  let g ← s.readGset p a true
  let views := g.tensors.map fun o => (o, o.viewRows)
  let spans := viewSpans views
  let st := viewsStatus (s.readStatus p) views
  let st2 := viewsStatus (s.writeStatus p) views
  let st2 := if st2 ≠ 0 then st2 else s.writesStatus p [(a + 33, 11)]
  if st ≠ 0 then .error st
  else if st2 ≠ 0 then .error st2
  else
    let (cells, u) := finishRun g s.dev lo hi
    let e := g.grad.sr.curExp
    .ok { writes := cells ++ [byteCell (a + 33) (unsigned8 e)] ++ [byteCell (a + 34) (unsigned8 e)] ++
            numCells (a + 36) 2 0 ++ numCells (a + 40) 4 ((g.gradGen + 1) % 2 ^ 32)
          recs := [u], reads := spans, dests := spans ++ [(a + 33, 11)], t1Only := true }

end Sys2Proof.Machine
end

