-- ==== Sys2Proof/Machine/Matrix.lean ====
section
/-! DEFINITION. Matrix products: the cut, the buffers and the fit, the product itself, tile programs over its tiles, and chained products (R65, R66, R81 to R119, R143 to R153, R258, R259). -/

namespace Sys2Proof.Machine

/-! The cut (R117, R118). -/

/-- Numbers of tiles along M and N; a chain with RMSNORM takes all N columns as one tile (R118, R135). -/
def cutTiles (m n : Nat) (rms : Bool) : Nat × Nat := (ceilDiv m 256, if rms then 1 else ceilDiv n 256)

/-- The K count c of R118 for T tiles, S steps and C reserved cores. -/
def cutCount (t k c : Nat) : Nat :=
  let s := ceilDiv k 64
  if c ≤ t ∨ s = 1 then 1 else max 1 (min (c / t) s)

/-- The pieces of a product by core of the set: (tile, K range), each core's in order (R118). -/
def cutPieces (t c cores : Nat) : List (List (Nat × Nat)) :=
  (List.range cores).map fun i =>
    if c = 1 then (List.range ((i + 1) * t / cores - i * t / cores)).map fun x => (i * t / cores + x, 0)
    else if i < t * c then [(i / c, i % c)] else []

/-- The pieces of the absent cores dealt to the present ones (R118): cores of the set in ascending logical number, with whether each is present. -/
def dealPieces (set : List (Nat × Bool)) (pieces : List (List (Nat × Nat))) : List (Nat × List (Nat × Nat)) :=
  let have_ := List.zip set pieces
  let orphans := (have_.filter fun x => !x.1.2).flatMap (·.2)
  let present := have_.filter fun x => x.1.2
  let n := present.length
  present.zipIdx.map fun (x, i) => (x.1.1, x.2 ++ ((orphans.zipIdx.filter fun o => n != 0 && o.2 % n == i).map (·.1)))

/-- K steps of range `j` of `c` (R117). -/
def rangeSteps (s c j : Nat) : Nat := s / c + if j < s % c then 1 else 0

/-- Split the products of K into the ranges of a K cut (R117). -/
def kRanges {α : Type} (k c : Nat) (l : List α) : List (List α) :=
  let s := ceilDiv k 64
  let rec go : Nat → Nat → List α → List (List α)
    | 0, _, _ => []
    | n + 1, j, l => let w := 64 * rangeSteps s c j; l.take w :: go n (j + 1) (l.drop w)
  go c 0 l

/-! One output element (R65, R66, R117). -/

/-- The FP32 accumulator of one element: partials in K order, combined in range order. -/
def dotCut (pre : Word) (k c : Nat) (prods : List Val) : Word :=
  match kRanges k c prods with
  | [] => pre
  | first :: rest => rest.foldl (fun a r => fAdd a (dotF32 0 r)) (dotF32 pre first)

/-- The INT32 accumulator of one element and whether it counts as saturated: in the owner's accumulator, in a later range's partial, or as the partials are added (R66, R117). -/
def dotCutI (pre : Int) (k c : Nat) (prods : List Int) : Int × Bool :=
  match kRanges k c prods with
  | [] => (pre, false)
  | first :: rest =>
    let parts := rest.map (dotI32 (0, false))
    let r := parts.foldl (fun a d => satAddI32 a d.1) (dotI32 (pre, false) first)
    (r.1, r.2 || parts.any (·.2))

/-! Buffers and fit (R143 to R145, R259). -/

/-- A declared buffer: role and size. -/
abbrev BufDecl := Nat × Nat

/-- Read a buffer plan (R259). -/
def State.readPlan (s : State) (p a : Nat) : Except Nat (List BufDecl) := do
  let b ← s.readDesc p a 0x43 0x0102 (fun h => 8 + 8 * byteAt h 4) 5
  let n := byteAt b 4
  if n = 0 ∨ 16 < n then .error 0x0102
  else
    let l := (List.range n).map fun k => (byteAt b (8 + 8 * k), field b (12 + 8 * k) 4)
    if l.any fun x => x.1 == 0 || decide (8 < x.1) then .error 0x0102 else .ok l

/-- Bytes per K-step of a stationary format (R88). -/
def kStepBytes (f : Nat) : Nat := if f = fMXFP4 then 8704 else if fmtBits f = 8 then 16384 else 32768

/-- Scale bytes of `n` elements. -/
def scaleBytes (f n : Nat) : Nat := if f = fMXFP4 then n / 32 else 0

/-- What a product needs of its buffers (R143, R144). -/
structure BufNeed where
  m : Nat := 0
  k : Nat := 0
  n : Nat := 0
  wf : Nat := 0
  xf : Nat := 0
  yf : Nat := 0
  outBufs : Nat := 1
  rowList : Bool := false
  /-- The streamed operand is a granule gather, which takes the K-slice form (R144). -/
  gather : Bool := false
  pre : Bool := false
  resid : Option Nat := none
  extra : Nat := 0

/-- Minimum size of a role (R144). -/
def minBuf (b : BufNeed) (role : Nat) : Nat :=
  let steps := ceilDiv b.k 64
  let outCols := 64 * ceilDiv (min b.n 256) 64
  match role with
  | 1 => steps * kStepBytes b.wf
  | 2 => 2 * kStepBytes b.wf
  | 3 => elemBytes b.xf (b.m * b.k) + scaleBytes b.xf (b.m * b.k)
  | 4 => 3 * (elemBytes b.xf (b.m * 64) + scaleBytes b.xf (b.m * 64))
  | 5 => 2 * elemBytes b.xf (b.m * b.k)
  | 6 => b.m * 1024
  | 7 => 2 * elemBytes (b.resid.getD 0) (b.m * 256)
  | _ => (b.outBufs + 1) * (elemBytes b.yf (b.m * outCols) + scaleBytes b.yf (b.m * outCols))

/-- The buffers that BUF_ADDR 0 stands for (R259). -/
def defaultPlan (b : BufNeed) : List BufDecl :=
  ([2, if b.rowList then 5 else 4] ++ (if b.pre then [6] else []) ++ (if b.resid.isSome then [7] else []) ++ [8]).map fun r => (r, minBuf b r)

/-- Declared bytes of a role. -/
def declared (pl : List BufDecl) (role : Nat) : Nat := ((pl.filter fun x => x.1 == role).map (·.2)).sum

/-- The roles that a plan declares. -/
def hasRole (pl : List BufDecl) (role : Nat) : Bool := pl.any fun x => x.1 == role

/-- The checks of R144, then the fit of R143 and R145. A granule gather uses the K-slice form, so that a plan without it declares size 0 for it. -/
def planStatus (b : BufNeed) (pl : List BufDecl) : Nat :=
  let small : Nat → Bool := fun r => decide (declared pl r < minBuf b r)
  let stat := [1, 2].filter fun r => hasRole pl r
  let strm := [3, 4, 5].filter fun r => hasRole pl r
  if stat.length ≠ 1 ∨ strm.length ≠ 1 then 0x0102
  else if b.gather = true ∧ hasRole pl 4 = false then 0x0102
  else if (stat ++ strm).any small then 0x0102
  else if b.pre = true ∧ small 6 = true then 0x0102
  else if b.resid.isSome = true ∧ small 7 = true then 0x0102
  else if small 8 then 0x0102
  else if 2097152 < 32768 + (pl.map fun x => 128 * ceilDiv x.2 128).sum + b.extra then 0x0104
  else 0

/-! The run of PRODUCT (R258). -/

/-- A row count read at the start, or the declared maximum (R114, R258). -/
def State.runCount (s : State) (p a m : Nat) : Except Nat Nat :=
  if a = 0 then .ok m
  else
    let st := s.readStatus p a 4
    if st ≠ 0 then .error st else (let n := s.dev.num a 4; if m < n then .error 0x0406 else .ok n)

/-- The streamed operand's first `n` rows as elements (R128). TRANS stands for an FP32 operand too, though R107 names a 16-bit or 8-bit source for the DMA transpose (DESIGN CHOICE, log entry 82). -/
def streamRows (m : Memory) (x : Opd) (n k : Nat) : Mat :=
  (List.range n).map fun i => (List.range k).map fun j =>
    let r := if x.trans then j else i
    let c := if x.trans then i else j
    let code := x.code m r c
    { v := x.valAt m x.sr.curExp r c, fmt := x.fmt, exp := if fmtScaled x.fmt then x.sr.curExp else 0, code := code
      mx := if x.fmt = fMXFP4 then x.scaleByte m r c else 0 }

/-- An accumulator element of a floating-point product. -/
def accEl (w : Word) : El := { v := ofF32 w, fmt := 0, code := w.toNat }

/-- The products of a row of X and column `j` of W over K (R65), each with the block scales of its two elements (R61, R87; DESIGN CHOICE, log entry 77). -/
def floatProds (m : Memory) (row : List El) (w : Opd) (j : Nat) : List Val := row.zipIdx.map fun x => x.1.v.mul (w.elem m w.sr.curExp x.2 j)

/-- The products of a row of INT8 codes and column `j` of W over K (R66). -/
def intProds (m : Memory) (row : List El) (w : Opd) (j : Nat) : List Int :=
  row.zipIdx.map fun x => signed8 x.1.code * signed8 (if w.trans then w.code m j x.2 else w.code m x.2 j)

/-- The preload of an element in a floating-point product. -/
def preF (m : Memory) (pre : Option Opd) (i j : Nat) : Word := match pre with | some o => toF32 (o.elem m 0 i j) | none => 0

/-- The preload of an element in an INT8 product. -/
def preI (m : Memory) (pre : Option Opd) (i j : Nat) : Int :=
  match pre with
  | some o => (match o.elem m 0 i j with | .fin s v _ => if s then -(v : Int) else v | _ => 0)
  | none => 0

/-- The accumulator matrix of a product (R65, R66, R85, R117), with the number of elements that saturated. -/
def prodMat (m : Memory) (xs : Mat) (w : Opd) (pre : Option Opd) (k n c : Nat) : Mat × Nat :=
  let isInt := w.fmt = fINT8
  let rows : List (List (El × Nat)) := xs.zipIdx.map fun ((row : List El), (i : Nat)) =>
    (List.range n).map fun (j : Nat) =>
      if isInt then
        let r := dotCutI (preI m pre i j) k c (intProds m row w j)
        let ea : Int := match row with | [] => 0 | e :: _ => e.exp
        (({ v := (Val.ofInt r.1).scale (ea + w.sr.curExp), fmt := 9 } : El), b2n r.2)
      else
        (accEl (dotCut (preF m pre i j) k c (floatProds m row w j)), 0)
  (rows.map fun r => r.map (·.1), (rows.map fun r => (r.map (·.2)).sum).sum)

/-- Row pitch of a tile in the output buffer, in elements (R144). -/
def tileCols (n : Nat) : Nat := 64 * ceilDiv (min n 256) 64

/-- The code of element `i` of a packed run of elements. -/
def codeAt (f : Nat) (b : Bytes) (i : Nat) : Nat :=
  match fmtBits f with
  | 4 => let x := byteAt b (i / 2); if i % 2 = 0 then x % 16 else x / 16
  | w => field b (w / 8 * i) (w / 8)

/-- The element of a tile's output buffer at row `i`, column `j`; MXFP4 scale bytes lie after the element plane (log entry 11). -/
def bufEl (f m cols : Nat) (b : Bytes) (i j : Nat) : El :=
  let code := codeAt f b (i * cols + j)
  { fmt := f, code := code, mx := if f = fMXFP4 then byteAt b (m * cols / 2 + (i * cols + j) / 32) else 0
    v := if f = 0 then readCode 0 code else .fin false 0 0 }

/-- The matrix that a tile's output buffer holds, for the tile of column `nt` of `n` columns (R138, R146). -/
def TileCtx.tileMat (c : TileCtx) (n nt : Nat) (b : Bytes) : Mat :=
  (List.range c.m).map fun i => (List.range (min 256 (n - 256 * nt))).map fun j => bufEl c.bufFmt c.m (tileCols n) b i j

/-- The engine as the tile (mt, nt) of the accumulators starts: its rows, and its part of the residual tensor (R118, R138). -/
def tileStart (base : TileCtx) (resid : Nat → Nat → Nat → Bytes) (n : Nat) (acc : Mat) (mt nt : Nat) : TileCtx :=
  let rows := (acc.drop (256 * mt)).take 256
  { base with
    acc := rows.map fun r => ((r.drop (256 * nt)).take 256).map fun e => toF32 e.v
    m := rows.length, resid := resid mt nt (tileCols n), tile := some (mt, nt) }

/-- Run the tile program over every tile of up to 256 × 256 (R120, R138): the output elements, the SENDs, and what each tile leaves. -/
def progMat (prog : List Nat) (base : TileCtx) (resid : Nat → Nat → Nat → Bytes) (n : Nat) (acc : Mat) : Mat × List (Nat × Nat × Mat) × List TileCtx :=
  let cols := tileCols n
  let mts := ceilDiv acc.length 256
  let nts := ceilDiv n 256
  let runT : Nat → Nat → TileCtx := fun mt nt => runTile prog tileFuel (tileStart base resid n acc mt nt)
  let all : List (Nat × Nat × TileCtx) := (List.range nts).flatMap fun nt => (List.range mts).map fun mt => (mt, nt, runT mt nt)
  let getT : Nat → Nat → TileCtx := fun mt nt => ((all.find? fun x => x.1 == mt && x.2.1 == nt).map (·.2.2)).getD base
  let mat := (List.range acc.length).map fun i => (List.range n).map fun j =>
    let c := getT (i / 256) (j / 256)
    bufEl base.bufFmt c.m cols c.out (i % 256) (j % 256)
  (mat, all.flatMap fun x => x.2.2.sends.map fun b => (x.1, x.2.1, x.2.2.tileMat n x.2.1 b), all.map (·.2.2))

/-- A residual tensor's tile as BUF 3 holds it: its rows, and for MXFP4 its scale bytes after them (R61, R138). -/
def residBytes (m : Memory) (o : Opd) (rows n mt nt cols : Nat) : Bytes :=
  let is := List.range (min 256 (rows - 256 * mt))
  let inside : Nat → Bool := fun j => decide (256 * nt + j < n) && decide (j < 256)
  let elems := is.flatMap fun i =>
    let codes := (List.range cols).map fun j =>
      if inside j then (if o.trans then o.code m (256 * nt + j) (256 * mt + i) else o.code m (256 * mt + i) (256 * nt + j)) else 0
    if o.fmt = fMXFP4 then packNibbles codes else codes.flatMap fun x => leBytes (fmtBits o.fmt / 8) x
  if o.fmt = fMXFP4 then
    elems ++ is.flatMap fun i => (List.range (cols / 32)).map fun b =>
      if inside (32 * b) then BitVec.ofNat 8 (o.scaleByte m (256 * mt + i) (256 * nt + 32 * b)) else 0
  else elems

/-- A free byte string for a buffer that nothing has written (log entry 11). -/
def freeBytes (n : Nat) (len : Nat) : Bytes := (List.range len).map (Config.freeByte n)

/-- Pages of a tile sent to a peer window: its elements land at the place of its tile row and column (R146, R301). -/
def tilePieces (w : PeerWin) (f mt nt : Nat) (a : Mat) : List (Nat × Bytes) :=
  sendPieces { w with off := w.off + 256 * mt * w.pitch + elemBytes f (256 * nt), sOff := w.sOff + 256 * mt * w.sPitch + 8 * nt } a

/-- The tiles of a matrix sent to a peer, N-major, each with its pieces (R118, R146). -/
def sendTiles (w : PeerWin) (a : Mat) : List (PeerWin × List (Nat × Bytes)) :=
  let cols := (a.head?.map List.length).getD 0
  let f := ((a.head?.bind List.head?).map (·.fmt)).getD 0
  (List.range (ceilDiv cols 256)).flatMap fun nt => (List.range (ceilDiv a.length 256)).map fun mt =>
    (w, tilePieces w f mt nt (((a.drop (256 * mt)).take 256).map fun r => (r.drop (256 * nt)).take 256))

/-- The vector engine as a tile of up to `rows` × `n` starts: its buffers and the output's conversion; `bufFmt` is the format of BUF 0 (R130, R132, R138). -/
def State.tileBase (s : State) (p : Nat) (ch : Chain) (rs : List RStage) (y : Opd) (bufFmt n rows : Nat) : TileCtx :=
  let size := min 256 rows * tileCols n
  let slot : Nat → Option RStage := fun k => rs.find? fun r => slotKind r.st == k
  let scaled := fmtScaled y.fmt
  { out := freeBytes s.fresh (elemBytes bufFmt size + scaleBytes bufFmt size), scratch := freeBytes (s.fresh + 1) ch.scratch
    param := match slot 3 with | some r => s.readParam p r.st.paddr | none => []
    outFmt := y.fmt, bufFmt := bufFmt
    residFmt := match slot 2 with | some r => r.opd.fmt | none => 0
    residExp := match slot 2 with | some r => if fmtScaled r.opd.fmt then r.opd.sr.curExp else 0 | none => 0
    outExp := if scaled then y.sr.curExp else 0
    outRmode := if scaled then y.sr.rmode else ch.outRmode
    outSat := if scaled then y.sr.sat else ch.outSat
    seed := (ch.seed + 8) % 2 ^ 32 }

/-- The tiles of the residual slot's tensor (R138). -/
def State.residTile (s : State) (rs : List RStage) (rows n mt nt cols : Nat) : Bytes :=
  match rs.find? fun r => slotKind r.st == 2 with | some r => residBytes s.dev r.opd rows n mt nt cols | none => []

/-- The tile program of a FORM 1 chain over the accumulators of a command (R120, R138). -/
def State.runProg (s : State) (p : Nat) (ch : Chain) (rs : List RStage) (prog : List Nat) (y : Opd) (bufFmt n : Nat) (acc : Mat) :
    Mat × List (Nat × Nat × Mat) × List TileCtx :=
  progMat prog (s.tileBase p ch rs y bufFmt n acc.length) (s.residTile rs acc.length n) n acc

/-- What the QNTs of a command's tiles leave in record `sr`: one amax, and the counts (R75, R132; log entry 11). -/
def qntUpd (sr : ScaleRec) (ctxs : List TileCtx) (satN : Nat) : RecUpd :=
  let am := ctxs.foldl (fun a c => if (ofF32 a).ltOrd (ofF32 c.qAmax) then c.qAmax else a) (0 : Word)
  sr.upd (some am) ((ctxs.map (·.qSat)).sum + satN) (ctxs.map (·.qNonfinite)).sum (ctxs.map (·.qUnderflow)).sum

/-- The epilogue of a product or chained product of `mm` declared rows over its accumulators, to the cells of the output (R120, R130, R138). The spec does not say which record counts a saturated INT32 element: the output descriptor's does, where the output has one (DESIGN CHOICE, log entry 81). -/
def State.runEpilogue (s : State) (p : Nat) (ch : Chain) (rs : List RStage) (prog : List Nat) (y : Opd) (mm n satN : Nat) (acc : Mat) : RunRes :=
  let m := s.dev
  if ch.form = 1 then
    let (mat, sends, ctxs) := s.runProg p ch rs prog y y.fmt n acc
    if ctxs.any (·.fault) then .fail 0x0107
    else
      let recs := if fmtScaled y.fmt then [qntUpd y.sr ctxs satN] else []
      { writes := storeMat y false n mat, recs := recs, drawn := 2
        sends := match rs.find? fun r => slotKind r.st == 1 with
          | some r => sends.map fun x => (r.pw, tilePieces r.pw y.fmt x.1 x.2.1 x.2.2)
          | none => [] }
  else
    let tr := rs.any fun r => r.st.op == opTRANSPOSE
    let o := runEpi m ch.seed mm n tr false rs { mat := acc }
    if o.status ≠ 0 then .fail o.status
    else
      let o := outConvert ch tr mm n y o
      let recs := if satN = 0 ∨ fmtScaled y.fmt = false then o.recs else mergeRec o.recs (y.sr.upd none satN 0 0)
      { writes := storeMat y tr n o.mat, recs := recs, sends := o.sends.flatMap fun x => sendTiles x.1 x.2 }

/-- Reserved cores that the cut counts: C0_CORES for class 0, else CORES (R118, R268). -/
def State.cutCores (s : State) (p cls : Nat) : Nat := if cls = 0 then (s.part p).c0Cores else (s.part p).cores

/-- Bytes that R143's widths give `n` elements: 0.5 each for MXFP4, with its scale bytes at 1 per 32. -/
def wideBytes (f n : Nat) : Nat := elemBytes f n + scaleBytes f n

/-- What a prologue, epilogue and chained product add to the need (R143). -/
def needExtra (ch : Chain) (rs : List RStage) (m accFmt xFmt : Nat) : Nat :=
  let st := rs.map (·.st)
  (if ch.form = 0 ∧ st.any (fun x => x.op == opRMSNORM) = true then 4 * m * 256 * ch.rowTiles else 0) +
    (if ch.form = 0 then
      (match st.zipIdx.find? fun x => x.1.op == opTRANSPOSE with
       | some (_, i) => wideBytes (fmtThrough accFmt (st.take i)) (m * 256)
       | none => 0) else 0) +
    (if ch.npro = 0 then 0 else 2 * wideBytes xFmt (m * 64)) + ch.scratch

/-- The view rows of an output that `rows` product rows touch: all of them where rows and columns are exchanged, by TRANSPOSE or by TRANS alone (R133, R258). -/
def Opd.outRows (y : Opd) (tr : Bool) (rows : Nat) : Nat := if rows = 0 then 0 else if tr != y.trans then y.viewRows else rows

/-- The chain holds a TRANSPOSE stage, so that the output is N × M (R133, R531). -/
def Chain.transposes (ch : Chain) : Bool := ch.form == 0 && ch.epi.any fun st => st.op == opTRANSPOSE

/-- The chain holds an RMSNORM stage (R135). -/
def Chain.norms (ch : Chain) : Bool := ch.form == 0 && ch.epi.any fun st => st.op == opRMSNORM

/-- A check made before a command starts: the status where it fails. -/
def ensure (ok : Bool) (status : Nat) : Except Nat Unit := if ok then .ok () else .error status

/-- Read the tile program of a FORM 1 chain and make the checks of R139 and R140. -/
def State.chainProg (s : State) (p : Nat) (ch : Chain) : Except Nat (List Nat) :=
  if ch.form = 1 then do
    let prog ← s.readProg p ch.progAddr ch.progLen
    let has : Nat → Bool := fun k => ch.epi.any fun st => slotKind st == k
    let st := progStatus prog (has 3) (has 2) (has 1)
    ensure (st == 0) st
    .ok prog
  else .ok []

/-- Read a buffer plan, or take the one that BUF_ADDR 0 stands for, and check it and the fit (R143 to R145, R259). -/
def State.planFor (s : State) (p ba : Nat) (need : BufNeed) : Except Nat (List BufDecl) := do
  let plan ← if ba = 0 then .ok (defaultPlan need) else s.readPlan p ba
  let st := planStatus need plan
  ensure (st == 0) st
  .ok plan

/-- The tensors that resolved stages read, with the view rows that `rows` product rows touch. -/
def stageViews (ch : Chain) (rows : Nat) (rs : List RStage) : List (Opd × Nat) :=
  rs.filterMap fun r =>
    if r.st.op = opRESIDUAL then some (r.opd, r.opd.viewN rows)
    else if r.st.op = opROPE ∧ ch.form = 0 then some (r.opd, r.opd.rows)
    else none

/-- Some operand, or a RESIDUAL tensor, is a transposed MXFP4 one, which R91 rejects after every check of R102. -/
def mxTransposed (ops : List Opd) (rs : List RStage) : Bool :=
  (ops ++ (rs.filter fun r => r.st.op == opRESIDUAL).map (·.opd)).any fun o => o.trans && o.fmt == fMXFP4

/-- What a command around products has read and checked before it starts (R102, R125, R144, R145). -/
structure ProdSet where
  x : Opd := {}
  w : Opd := {}
  y : Opd := {}
  pre : Option Opd := none
  ch : Chain := {}
  pro : List RStage := []
  epi : List RStage := []
  prog : List Nat := []
  g : Option Gset := none
  /-- Declared rows, K and columns. -/
  m : Nat := 0
  k : Nat := 0
  n : Nat := 0
  /-- K ranges of the cut (R118). -/
  c : Nat := 1
  plan : List BufDecl := []
  /-- The spans that the checks read. -/
  meta_ : List (Nat × Nat) := []

/-- The spans of a chain, what its stages name, its program and its parameter block, and of a buffer plan. -/
def chainSpans (ca ba m n : Nat) (ch : Chain) (rs : List RStage) (plan : List BufDecl) : List (Nat × Nat) :=
  (if ca = 0 then [] else [(ca, 32 + 16 * ch.nstage)]) ++ rs.flatMap (RStage.metaSpans m n) ++
    (if ch.form = 1 then [(ch.progAddr, 8 * ch.progLen)] else []) ++ (if ba = 0 then [] else [(ba, 8 + 8 * plan.length)])

/-- The checks of a PRODUCT entry of a queue of class `cls` before it starts, in this order: descriptors on their own, the chain, pair and shapes, what the stages name, a transposed MXFP4 operand, the row span, the tile program, the gradient set, the buffers and the fit (R102, R125, R135, R140, R144, R145, R158, R531; log entry 78). -/
def State.prodSet (s : State) (p cls : Nat) (b : Bytes) : Except Nat ProdSet := do
  let ca := field b 50 6
  let pa := field b 56 6
  let ga := field b 62 6
  let ba := field b 74 6
  let x ← s.operand p (field b 32 6) false
  let w ← s.operand p (field b 38 6) false
  let y ← s.operand p (field b 44 6) false
  let pre ← if pa = 0 then .ok none else (do let o ← s.operand p pa true; .ok (some o))
  let accFmt := if w.fmt = fINT8 then fINT32 else 0
  let ch ← if ca = 0 then .ok noChain else s.readChain p ca x.fmt accFmt
  let (m, k) := x.shape
  let n := w.shape.2
  ensure (w.layout == 0) 0x0102
  ensure (pairOk (fmtThrough x.fmt ch.pro) w.fmt) 0x0102
  ensure (w.shape.1 == k && y.shape == (if ch.transposes then (n, m) else (m, n))) 0x0102
  ensure (match pre with | some o => o.shape == (m, n) && o.fmt == accFmt | none => true) 0x0102
  let slots := ch.form == 1
  let pro ← s.resolveStages p m k false 0 ch.pro
  let epi ← s.resolveStages p m n slots ch.npro ch.epi
  ensure (!mxTransposed ([x, w, y] ++ pre.toList) epi) 0x0103
  ensure (!ch.norms || decide (n ≤ 256 * ch.rowTiles)) 0x0108
  let prog ← s.chainProg p ch
  let g ← if ga = 0 then .ok none else (do let g ← s.readGset p ga true; .ok (some g))
  ensure (match g with
    | none => true
    | some g => y.at_ == g.acc.at_ && !(ch.stages.any fun st => st.op == opQUANT || st.op == opTRANSPOSE || st.op == opSEND) &&
        !(ch.form == 0 && (match ch.epi.getLast? with | some st => st.ifmt != 0 | none => false))) 0x0201
  let (mt, nt) := cutTiles m n ch.norms
  let c := cutCount (mt * nt) k (s.cutCores p cls)
  let plan ← s.planFor p ba
    { m := min m 256, k := min k (64 * rangeSteps (ceilDiv k 64) c 0), n := n, wf := w.fmt, xf := x.fmt, yf := y.fmt, outBufs := ch.outBufs
      rowList := x.layout == 1, gather := x.layout == 2, pre := pre.isSome
      resid := (epi.find? fun r => r.st.op == opRESIDUAL).map (·.opd.fmt), extra := needExtra ch epi (min m 256) accFmt x.fmt }
  .ok { x := x, w := w, y := y, pre := pre, ch := ch, pro := pro, epi := epi, prog := prog, g := g, m := m, k := k, n := n, c := c, plan := plan
        meta_ := [x, w, y].flatMap Opd.metaSpans ++ pre.toList.flatMap Opd.metaSpans ++ chainSpans ca ba m n ch (pro ++ epi) plan ++
          (match g with | some g => (g.addr, 48) :: g.tensors.flatMap Opd.metaSpans | none => []) }

/-- The streamed operand's first `rows` rows as they leave the prologue, with what its stages found (R127, R128). -/
def ProdSet.streamed (t : ProdSet) (m : Memory) (rows : Nat) : ChainOut := runPro t.ch.seed t.k t.pro { mat := streamRows m t.x rows t.k }

/-- The run of a product over its checked set: the actual rows, no weight where there are none (R114), the transfers, the product, the epilogue or the accumulation pass (R81 to R162, R258). -/
def State.prodRun (s : State) (p : Nat) (b : Bytes) (t : ProdSet) : Except Nat RunRes := do
  let rows ← s.runCount p (field b 68 6) t.m
  let ins := [(t.x, t.x.viewN rows), (t.w, if rows = 0 then 0 else t.w.viewRows)] ++ (t.pre.toList.map fun o => (o, o.viewN rows)) ++ stageViews t.ch rows t.epi
  let out := (t.y, t.y.outRows t.ch.transposes rows)
  let extra := match t.g with | some g => [(g.addr + 32, 1), (g.addr + 36, 2)] | none => []
  let st := viewsStatus (s.readStatus p) ins
  ensure (st == 0) st
  let st := viewsStatus (s.writeStatus p) [out]
  ensure (st == 0) st
  let st := s.writesStatus p extra
  ensure (st == 0) st
  let reads := t.meta_ ++ (if field b 68 6 = 0 then [] else [(field b 68 6, 4)]) ++ viewSpans ins
  let po := t.streamed s.dev rows
  let (acc, satN) := prodMat s.dev po.mat t.w t.pre t.k t.n t.c
  let r : RunRes := match t.g with
    | none => s.runEpilogue p t.ch t.epi t.prog t.y t.m t.n satN acc
    | some g =>
      let yR : ChainOut :=
        if t.ch.form = 1 then
          let (mat, _, ctxs) := s.runProg p t.ch t.epi t.prog t.y fFP32 t.n acc
          { mat := mat, status := if ctxs.any (·.fault) then 0x0107 else 0, recs := [qntUpd t.y.sr ctxs 0] }
        else runEpi s.dev t.ch.seed t.m t.n false false t.epi { mat := acc }
      if yR.status ≠ 0 then .fail yR.status
      else
        let (a, u) := passMat s.dev g (t.ch.seed + 8) t.n yR.mat
        { writes := storeMat t.y false t.n a ++ [byteCell (g.addr + 32) (unsigned8 g.acc.sr.curExp)] ++
            numCells (g.addr + 36) 2 (nextPasses g.passes s.fresh)
          recs := mergeRec yR.recs { u with sat := u.sat + satN }, t1Only := true, drawn := 3 }
  let vs := rows * ceilDiv t.k 64 * ceilDiv t.n 256
  if r.status ≠ 0 then .ok { status := r.status, reads := reads, vectors := vs, drawn := r.drawn }
  else .ok { r with recs := po.recs.foldl mergeRec r.recs, reads := reads, dests := viewSpans [out] ++ extra, vectors := vs }

/-- The run of a PRODUCT entry of a queue of class `cls`: its checks, then its run. -/
def State.runProduct (s : State) (p cls : Nat) (b : Bytes) : Except Nat RunRes := do
  let t ← s.prodSet p cls b
  s.prodRun p b t

/-! Chained products (R149 to R153). -/

/-- −infinity in FP32. -/
abbrev f32ninf : Word := 0xFF800000#32

/-- The running state of one query row: m, l and O. -/
structure AttnRow where
  m : Word := f32ninf
  l : Word := 0
  o : List Word := []
  /-- The last key tile's P as converted, and its U. -/
  p : List El := []
  u : List Word := []

/-- One key tile for one query row: its scores and V rows (R151). The conversion of P has no record and no SAT field: SAT is 0 (DESIGN CHOICE, log entry 103); no seed is stated for a stochastic P (log entry 11). -/
def attnTile (pf : Nat) (pe : Int) (rnd : Nat → Rnd) (scores : List Word) (vcols : List (List Val)) (r : AttnRow) : AttnRow :=
  let mn := scores.foldl (fun a x => fMax a x) r.m
  let dead := mn == f32ninf
  let ps := scores.map fun x => if dead then (0 : Word) else fExp2 (fSub x mn)
  let corr := if dead then f32one else fExp2 (fSub r.m mn)
  let pad := ps ++ List.replicate (256 - ps.length) (0 : Word)
  let sum := laneSum (List.zipWith fAdd (pad.take 128) (pad.drop 128))
  let pq := ps.zipIdx.map fun (x, i) => (scaleEl pf (if fmtScaled pf then pe else 0) (rnd i) false (ofF32 x)).1
  let us := vcols.map fun col => dotF32 0 (List.zipWith (fun a b => a.v.mul b) pq col)
  { m := mn, l := fFma r.l corr sum, o := List.zipWith (fun o u => fFma o corr u) r.o us, p := pq, u := us }

/-- One query row over every key tile, before the division by l (R151, R152); `dot` forms one score of Q × K before SCALE2. -/
def attnRun (scale : Word) (causal : Bool) (qpos kpos nkv d pf prm : Nat) (pe : Int) (skip : Nat → Bool)
    (dot : Nat → Word) (val : Nat → Nat → Val) : AttnRow :=
  (List.range (ceilDiv nkv 256)).foldl (fun r j =>
    if skip j then r
    else
      let n := min 256 (nkv - 256 * j)
      let scores := (List.range n).map fun c =>
        let kk := 256 * j + c
        if causal && decide (qpos < kpos + kk) then f32ninf else fMul (dot kk) scale
      let vcols := (List.range d).map fun x => (List.range n).map fun c => val (256 * j + c) x
      attnTile pf pe (fun i => match prm with | 0 => .nearest | 1 => .zero | _ => .stoch (Config.tileRandom qpos j i % 65536)) scores vcols r) ({ o := List.replicate d 0 } : AttnRow)

/-- The normalised row: +0 where l is 0 (R151). -/
def AttnRow.out (d : Nat) (r : AttnRow) : List Word := if r.l.toNat % 2 ^ 31 = 0 then List.replicate d 0 else r.o.map fun x => fMul x (fRcp r.l)

/-- The accumulator of row `r` of Q and a key: FP32 by R65, or for INT8 Q and K the INT32 sum of R66. -/
def scoreAcc (m : Memory) (q kk : Opd) (d r key : Nat) : Word :=
  let js := List.range d
  if q.fmt = fINT8 then
    let code : Opd → Nat → Nat → Int := fun o i j => signed8 (if o.trans then o.code m j i else o.code m i j)
    BitVec.ofInt 32 (dotI32 (0, false) (js.map fun j => code q r j * code kk key j)).1
  else dotF32 0 (js.map fun j => (q.elem m q.sr.curExp r j).mul (kk.elem m kk.sr.curExp key j))

/-- Score S of query row `r` and a key (R151): the accumulator, an INT32 one at its implied scale (R58) and rounded to FP32 as it enters the vector engine. -/
def scoreOf (m : Memory) (q kk : Opd) (d r key : Nat) : Word :=
  let a := scoreAcc m q kk d r key
  if q.fmt = fINT8 then toF32 ((Val.ofInt a.toInt).scale (q.sr.curExp + kk.sr.curExp)) else a

/-- The fields of a chained-product descriptor (R149). -/
structure AttnDesc where
  causal : Bool := false
  pf : Nat := 0
  prm : Nat := 0
  pe : Int := 0
  scale : Word := 0
  qpos : Nat := 0
  kpos : Nat := 0
  nkv : Nat := 0

/-- The checks of a CHAINED entry before it starts (R102, R125, R144, R145, R149, R150, R531): Q stands as x, K as w, V beside them. R149 and R150 name a status for MASK, d and M: a bad P_FMT, P_RMODE 0b11 (R68), P_EXP of −128 (R55) or not 0 without a scale, NKV out of range, and a chain with a prologue give that same status (DESIGN CHOICE, log entry 80). -/
def State.attnSet (s : State) (p : Nat) (b : Bytes) : Except Nat (AttnDesc × Opd × ProdSet) := do
  let a := field b 32 6
  let ba := field b 44 6
  let c ← s.readDesc p a 0x13 0x010A (fun _ => 48) 48
  let ca := field c 42 6
  let t : AttnDesc :=
    { causal := bits (byteAt c 4) 1 0 == 1, pf := byteAt c 5 % 16, prm := bits (byteAt c 5) 5 4, pe := signed8 (byteAt c 6)
      scale := BitVec.ofNat 32 (field c 8 4), qpos := field c 12 4, kpos := field c 16 4, nkv := field c 20 4 }
  let q ← s.operand p (field c 24 6) false
  let kk ← s.operand p (field c 30 6) false
  let v ← s.operand p (field c 36 6) false
  let y ← s.operand p (field b 38 6) false
  let (m, d) := q.shape
  ensure (bits (byteAt c 4) 1 0 < 2 && [1, 2, 4, 5].contains t.pf && t.prm != 3 && (fmtScaled t.pf || t.pe == 0) && t.pe != -128) 0x010A
  ensure (t.nkv != 0 && decide (t.nkv ≤ 16777216)) 0x010A
  ensure ([64, 128, 192, 256].contains d && decide (m ≤ 256) && kk.shape == (t.nkv, d) && v.shape == (t.nkv, d)) 0x010A
  ensure (kk.layout == 0 && v.layout == 0) 0x0102
  ensure (pairOk q.fmt kk.fmt && pairOk t.pf v.fmt) 0x0102
  let ch ← if ca = 0 then .ok noChain else s.readChain p ca q.fmt 0
  ensure (ch.npro == 0) 0x010A
  ensure (y.shape == (if ch.transposes then (d, m) else (m, d))) 0x0102
  let epi ← s.resolveStages p m d (ch.form == 1) 0 ch.epi
  ensure (kk.fmt != fMXFP4 && !mxTransposed [q, v, y] epi) 0x0103
  ensure (!ch.norms || decide (d ≤ 256 * ch.rowTiles)) 0x0108
  let prog ← s.chainProg p ch
  let plan ← s.planFor p ba
    { m := m, k := d, n := d, wf := kk.fmt, xf := q.fmt, yf := y.fmt, outBufs := ch.outBufs, rowList := q.layout == 1, gather := q.layout == 2
      resid := (epi.find? fun r => r.st.op == opRESIDUAL).map (·.opd.fmt)
      extra := needExtra ch epi m 0 q.fmt + 8 * m + 4 * m * 64 * ceilDiv d 64 + 2 * elemBytes t.pf (m * 256) }
  .ok (t, v, { x := q, w := kk, y := y, ch := ch, epi := epi, prog := prog, m := m, k := d, n := d, plan := plan
               meta_ := (a, 48) :: [q, kk, v, y].flatMap Opd.metaSpans ++ chainSpans ca ba m d ch epi plan })

/-- The key tiles that are not masked for every one of the first `rows` query rows (R152). -/
def AttnDesc.tiles (a : AttnDesc) (rows : Nat) : List Nat :=
  if rows = 0 then [] else (List.range (ceilDiv a.nkv 256)).filter fun j => !(a.causal && decide (a.qpos + rows - 1 < a.kpos + 256 * j))

/-- Keys in the tiles that run; the tiles that are skipped are the last ones. -/
def AttnDesc.keys (a : AttnDesc) (rows : Nat) : Nat := min a.nkv (256 * (a.tiles rows).length)

/-- The query rows over their key tiles (R151, R152). -/
def attnRows (m : Memory) (a : AttnDesc) (v : Opd) (t : ProdSet) (rows : Nat) : List AttnRow :=
  let run := a.tiles rows
  (List.range rows).map fun r =>
    attnRun a.scale a.causal (a.qpos + r) a.kpos a.nkv t.n a.pf a.prm a.pe (fun j => !run.contains j) (scoreOf m t.x t.w t.n r) fun i j => v.elem m v.sr.curExp i j

/-- The normalised output of a chained product, as its epilogue takes it (R151). -/
def attnOut (m : Memory) (a : AttnDesc) (v : Opd) (t : ProdSet) (rows : Nat) : Mat := (attnRows m a v t rows).map fun r => (r.out t.n).map accEl

/-- The run of a CHAINED entry; no key and no value is read where no row needs it (R114, R149 to R153, R257). -/
def State.runChained (s : State) (p : Nat) (b : Bytes) : Except Nat RunRes := do
  let (a, v, t) ← s.attnSet p b
  let rows ← s.runCount p (field b 50 6) t.m
  let keys := a.keys rows
  let ins := [(t.x, t.x.viewN rows), (t.w, t.w.viewN keys), (v, v.viewN keys)] ++ stageViews t.ch rows t.epi
  let out := (t.y, t.y.outRows t.ch.transposes rows)
  let st := viewsStatus (s.readStatus p) ins
  ensure (st == 0) st
  let st := viewsStatus (s.writeStatus p) [out]
  ensure (st == 0) st
  let reads := t.meta_ ++ (if field b 50 6 = 0 then [] else [(field b 50 6, 4)]) ++ viewSpans ins
  let r := s.runEpilogue p t.ch t.epi t.prog t.y t.m t.n 0 (attnOut s.dev a v t rows)
  let vs := ((a.tiles rows).map fun j => rows * (ceilDiv t.n 64 + ceilDiv (min 256 (a.nkv - 256 * j)) 64)).sum
  if r.status ≠ 0 then .ok { status := r.status, reads := reads, vectors := vs, drawn := r.drawn }
  else .ok { r with reads := reads, dests := viewSpans [out], vectors := vs }

end Sys2Proof.Machine
end

