-- ==== Sys2Proof/Machine/Egress.lean ====
section
/-! DEFINITION. PFT packets as bytes, the frames that carry them, and the egress queues of the sub-ports (R281, R285 to R291, R321 to R325, R443). -/

namespace Sys2Proof.Machine

/-- Replace the transport's state. -/
def State.modFab (s : State) (f : Fab → Fab) : State := s.setFab (f s.fab)

/-! Packets (R287 to R291, R443). -/

/-- LENGTH of a packet, tag included (R288, R290, R291). -/
def Pkt.length (k : Pkt) : Nat := match k.body with | .data _ _ _ _ pay => 52 + pay.length | .ack _ _ => 76 | .notice _ _ _ _ _ => 60

/-- TYPE of a packet (R287). -/
def Pkt.type_ (k : Pkt) : Nat := match k.body with | .data _ _ _ _ _ => 0x50 | .ack _ _ => 0x51 | .notice _ _ _ _ _ => 0x52

/-- The base header: bytes 0 to 19, authenticated and sent in clear (R12, R287). -/
def Pkt.header (k : Pkt) : Bytes :=
  leBytes 1 1 ++ leBytes 1 k.type_ ++ leBytes 2 k.length ++ leBytes 4 (k.srcEp + k.srcPart * 2 ^ 20 + k.cls * 2 ^ 24) ++
    leBytes 4 (k.dstEp + k.dstPart * 2 ^ 20) ++ leBytes 6 k.seq ++ leBytes 2 k.session

/-- Bytes 20 up to the tag, before encryption (R288, R290, R291). -/
def Pkt.plain (k : Pkt) : Bytes :=
  match k.body with
  | .data kind tag id off pay => leBytes 1 kind ++ leBytes 1 0 ++ leBytes 2 tag ++ leBytes 4 id ++ leBytes 6 off ++ leBytes 2 0 ++ pay
  | .ack cum bm => leBytes 6 cum ++ leBytes 2 0 ++ leBytes 32 bm.toNat
  | .notice kind win att n tag =>
    leBytes 1 kind ++ leBytes 1 0 ++ leBytes 2 win ++ leBytes 4 att ++ leBytes 6 n ++ leBytes 2 0 ++ leBytes 8 tag

/-- x-coordinate of a public key in its 97-byte encoding (R442). -/
def keyX (b : Bytes) : Nat := beNat ((b.drop 1).take 48)

/-- The nonce of a packet; `side`: the sender's side (R442, R443). -/
def Pkt.nonce (k : Pkt) (side : Nat) : Bytes :=
  let ack := match k.body with | .ack _ _ => true | _ => false
  beBytes 2 k.session ++ beBytes 6 k.seq ++ leBytes 1 (128 * side + 64 * b2n ack + (if ack then 0 else 16 * k.cls)) ++ leBytes 3 0

/-- The module's public identity key (R436, R442). -/
def State.ownKey (s : State) : Bytes := publicKey s.sec.keys.identity.toNat

/-- The pairwise key held for an endpoint (R440, R442). -/
def State.keyFor (s : State) (ep : Nat) : Bytes := ((s.sec.peers.find? fun x => x.ep == ep).map (·.pairKey)).getD []

/-- The bytes of a packet on the wire, sealed under the pairwise key with its destination (R287, R443). -/
def State.wire (s : State) (k : Pkt) : Bytes :=
  let peer := (s.sec.peers.find? fun x => x.ep == k.dstEp).getD {}
  let side := if keyX s.ownKey < keyX peer.pubKey then 0 else 1
  k.header ++ gcmSeal peer.pairKey (k.nonce side) k.header k.plain

/-! Frames (R285, R286, R322, R324). -/

/-- a of R285 for port `n` of endpoint `ep`. -/
def addrOf (ep n : Nat) : Nat := ep * 16 + n

/-- MAC address of port `n` of endpoint `ep`, first byte first (R285; log entry 92). -/
def State.macOf (s : State) (ep n : Nat) : Bytes := beBytes 1 0x0A ++ beBytes 1 s.fab.site ++ beBytes 3 (addrOf ep n) ++ [Config.macTail]

/-- IPv4 address of port `n` of endpoint `ep`, most significant byte first (R285). -/
def State.ip4Of (s : State) (ep n : Nat) : Bytes := beBytes 1 s.fab.net ++ beBytes 3 (addrOf ep n)

/-- IPv6 address of port `n` of endpoint `ep`, most significant byte first (R285). -/
def State.ip6Of (s : State) (ep n : Nat) : Bytes := beBytes 4 s.fab.ip6Hi.toNat ++ beBytes 4 s.fab.ip6Lo.toNat ++ beBytes 5 0 ++ beBytes 3 (addrOf ep n)

/-- The next-hop MAC address of port `n`, first byte first (R344). -/
def State.nextHop (s : State) (n : Nat) : Bytes := leBytes 4 (s.port n).hopLo.toNat ++ leBytes 2 (s.port n).hopHi.toNat

/-- The PCP of an egress queue: CTRL_PCP for control, PCP_MAP for a class (R324). -/
def Port.queuePcp (p : Port) (q : Nat) : Nat := if q = 0 then p.ctrlPcp else p.pcp.getD (q - 1) 0

/-- The tag of a frame of an egress queue (R324). -/
def Port.tagFor (p : Port) (q : Nat) : Option (Nat × Nat) := if p.tagEn then some (p.vid, p.queuePcp q) else none

/-- The datagram that carries a packet from port `n` under ENCAP 1 and 2 (R285). -/
def State.udpFor (s : State) (n : Nat) (k : Pkt) : Option UdpHdr :=
  let sport := 49152 + (k.dstEp * 4 + k.cls) % 16384
  match s.fab.encap with
  | 1 => some { src := s.ip4Of k.srcEp n, dst := s.ip4Of k.dstEp n, sport := sport, dport := s.fab.udpPort }
  | 2 => some { src := s.ip6Of k.srcEp n, dst := s.ip6Of k.dstEp n, sport := sport, dport := s.fab.udpPort }
  | _ => none

/-- The frame that carries a packet from port `n` to the same port of the peer (R281, R285, R322, R324). -/
def State.encapFor (s : State) (n sub q : Nat) (k : Pkt) : Encap :=
  { port := n, sub := sub, dst := if s.fab.encap = 0 then s.macOf k.dstEp n else s.nextHop n, src := s.macOf k.srcEp n
    tag := (s.port n).tagFor q, etype := match s.fab.encap with | 1 => 0x0800 | 2 => 0x86DD | _ => s.fab.etype, udp := s.udpFor n k }

/-- Ones' complement sum of the 16-bit words of a byte string, complemented: the Internet checksum (R285). -/
def checksum (b : Bytes) : Nat :=
  let sum := ((List.range ((b.length + 1) / 2)).map fun i => 256 * byteAt b (2 * i) + byteAt b (2 * i + 1)).sum
  let fold := fun x => x % 65536 + x / 65536
  65535 - fold (fold (fold sum))

/-- The UDP header and payload under a pseudo-header; a checksum of 0 is sent as 65,535 (R285). -/
def UdpHdr.datagram (u : UdpHdr) (pay : Bytes) : Bytes :=
  let n := 8 + pay.length
  let pseudo := u.src ++ u.dst ++ (if u.src.length = 4 then beBytes 1 0 ++ beBytes 1 17 ++ beBytes 2 n else beBytes 4 n ++ beBytes 3 0 ++ beBytes 1 17)
  let head : Nat → Bytes := fun c => beBytes 2 u.sport ++ beBytes 2 u.dport ++ beBytes 2 n ++ beBytes 2 c
  let c := checksum (pseudo ++ head 0 ++ pay)
  head (if c = 0 then 65535 else c) ++ pay

/-- The IP header of a datagram of `n` bytes (R285). -/
def UdpHdr.ipHeader (u : UdpHdr) (n : Nat) : Bytes :=
  if u.src.length = 4 then
    let head : Nat → Bytes := fun c =>
      beBytes 1 0x45 ++ [Config.ipField 1] ++ beBytes 2 (20 + n) ++ [Config.ipField 4, Config.ipField 5, Config.ipField 6, Config.ipField 7, Config.ipField 8] ++
        beBytes 1 17 ++ beBytes 2 c ++ u.src ++ u.dst
    head (checksum (head 0))
  else beBytes 1 (0x60 + (Config.ipField 9).toNat % 16) ++ [Config.ipField 10, Config.ipField 11, Config.ipField 12] ++ beBytes 2 n ++ beBytes 1 17 ++ [Config.ipField 8] ++ u.src ++ u.dst

/-- The bytes of a frame up to its FCS (R285, R322, R324). -/
def State.frameBytes (s : State) (e : Encap) (k : Pkt) : Bytes :=
  let tag := match e.tag with | some (vid, pcp) => beBytes 2 0x8100 ++ beBytes 2 (pcp * 8192 + vid) | none => []
  let pay := match e.udp with
    | some u => let d := u.datagram (s.wire k); u.ipHeader d.length ++ d
    | none => s.wire k
  e.dst ++ e.src ++ tag ++ beBytes 2 e.etype ++ pay

/-- Bytes that a frame adds to a PFT packet: Ethernet header, FCS, the tag of R324 and the encapsulation (R286, R323). -/
def State.frameExtra (s : State) (n : Nat) : Nat :=
  (match s.fab.encap with | 1 => 46 | 2 => 66 | _ => 18) + if (s.port n).tagEn then 4 else 0

/-- Bytes of a frame in an egress queue of port `n`, FCS included; those of address resolution: log entry 99. -/
def State.egrBytes (s : State) (n : Nat) : Egr → Nat
  | .pft k => k.length + s.frameExtra n
  | .neighbourAdv => 90 + if (s.port n).tagEn then 4 else 0
  | _ => if s.fab.encap = 2 then 90 + (if (s.port n).tagEn then 4 else 0) else 64 + if (s.port n).tagEn then 4 else 0

/-- The frame that leaves an egress queue, as an observer sees it. -/
def State.egrOut (s : State) (n sub q : Nat) : Egr → Out
  | .pft k => .pft (s.encapFor n sub q k) k
  | .arpReply => .arpReply n sub ((s.port n).tagFor q)
  | .neighbourAdv => .neighbourAdv n sub ((s.port n).tagFor q)
  | .gratuitous => .gratuitous n sub ((s.port n).tagFor q)

/-! Egress queues (R321, R325, R327). -/

/-- The transmitter of a sub-port. -/
def Port.txOf (p : Port) (sub : Nat) : SubTx := p.tx.getD sub {}

/-- Update the transmitter of a sub-port. -/
def State.modTx (s : State) (n sub : Nat) (f : SubTx → SubTx) : State := s.modPort n fun p => { p with tx := updAt p.tx sub f }

/-- The first frame of an egress queue. -/
def SubTx.head? (t : SubTx) (q : Nat) : Option Egr := (t.queue.find? fun x => x.1 == q).map (·.2.2)

/-- A queue has a frame, and its PCP is not paused (R325, R327). -/
def SubTx.ready (t : SubTx) (p : Port) (q : Nat) : Bool := (t.head? q).isSome && t.pausePrio.getD (p.queuePcp q) 0 == 0

/-- Class 0 has not sent its share of the last 64 µs' bytes (R325; log entry 92). -/
def SubTx.c0Within (t : SubTx) (p : Port) (now : Nat) : Bool :=
  let l := t.sent.filter fun x => decide (now < x.1 + 64)
  let all := (l.map (·.2.1)).sum
  let c0 := ((l.filter (·.2.2)).map (·.2.1)).sum
  decide (64 * c0 < p.c0Share * all) || (all == 0 && decide (0 < p.c0Share))

/-- Quantum in bytes of a queue in the round robin; class 0 beyond its share has Q1 (R325). -/
def Port.quantum (p : Port) (i : Nat) : Nat := 1024 * p.drr.getD (i - 1) 1

/-- The deficit round robin of classes 0 to 3: the queue whose turn serves its first frame, when the deficit covers it; a queue that is passed over keeps its deficit, an empty one loses it (R325). -/
def SubTx.robin (p : Port) (size : Egr → Nat) : Nat → SubTx → Option (Nat × SubTx)
  | 0, _ => none
  | n + 1, t =>
    let i := t.turn
    let d := t.deficit.getD i 0
    let need := (t.head? (i + 1)).map size
    if t.ready p (i + 1) && decide (need.getD 0 ≤ d) then some (i + 1, { t with deficit := updAt t.deficit i fun _ => d - need.getD 0 })
    else
      let j := (i + 1) % 4
      let t := if need.isNone then { t with deficit := updAt t.deficit i fun _ => 0 } else t
      let t := if t.ready p (j + 1) then { t with deficit := updAt t.deficit j fun x => x + p.quantum j } else t
      SubTx.robin p size n { t with turn := j }

/-- The queue that a sub-port serves next (R325, R327). -/
def SubTx.pick (t : SubTx) (p : Port) (now : Nat) (size : Egr → Nat) : Option (Nat × SubTx) :=
  if 0 < t.pauseAll then none
  else if t.ready p 0 then some (0, t)
  else if t.ready p 1 && t.c0Within p now then some (1, t)
  else if [1, 2, 3, 4].any (t.ready p) then t.robin p size 64
  else none

/-- The first frame of a queue is gone. -/
def SubTx.pop (t : SubTx) (q : Nat) : SubTx := { t with queue := t.queue.eraseIdx ((t.queue.findIdx? fun x => x.1 == q).getD t.queue.length) }

/-- A sub-port sends the frame that R325 picks; it is counted (R345). -/
def State.sendNext (s : State) (n sub : Nat) : Option State :=
  let p := s.port n
  match (p.txOf sub).pick p s.nowUs (s.egrBytes n) with
  | none => none
  | some (q, t) =>
    (t.head? q).map fun x =>
      let size := s.egrBytes n x
      let t := { t.pop q with sent := (s.nowUs, size, q == 1) :: t.sent.filter fun y => decide (s.nowUs < y.1 + 64) }
      ((s.modTx n sub fun _ => t).modPort n fun p => { p with cnt := updAt (updAt p.cnt 0 fun c => (c + 1) % 2 ^ 64) 1 fun c => (c + size) % 2 ^ 64 }).emit (s.egrOut n sub q x)

/-- A sub-port sends what waits in its queues, `n` frames at most. -/
def State.serveSub (port sub : Nat) : Nat → State → State
  | 0, s => s
  | n + 1, s => match s.sendNext port sub with | none => s | some s => State.serveSub port sub n s

/-- A sub-port that is up sends what it may (R325); no frame goes out during a warm reset (R343). -/
def State.kickSub (s : State) (n sub : Nat) : State :=
  if s.phase != .warm && (s.port n).subUp.getLsbD sub then State.serveSub n sub ((s.port n).txOf sub).queue.length s else s

/-- Bytes queued on a sub-port. -/
def State.queuedBytes (s : State) (n sub : Nat) : Nat := ((((s.port n).txOf sub).queue).map fun x => s.egrBytes n x.2.2).sum

/-- The up sub-port of a port with the fewest queued bytes, ties to the lower number (R321). -/
def State.pickSub (s : State) (n : Nat) : Option Nat :=
  ((List.range 8).filter fun k => (s.port n).subUp.getLsbD k).foldl (fun b k =>
    match b with | none => some k | some m => if s.queuedBytes n k < s.queuedBytes n m then some k else b) none

/-- A frame enters a queue: one that is resent ahead of the new ones (R296). -/
def SubTx.push (t : SubTx) (q : Nat) (again : Bool) (x : Egr) : SubTx :=
  { t with queue := if again then t.queue.takeWhile (·.2.1) ++ (q, true, x) :: t.queue.dropWhile (·.2.1) else t.queue ++ [(q, false, x)] }

/-- Hand a frame to a sub-port. -/
def State.subSend (s : State) (n sub q : Nat) (again : Bool) (x : Egr) : State := (s.modTx n sub fun t => t.push q again x).kickSub n sub

/-- The egress queue of a packet: control records go with control, the others by class (R324, R325). -/
def Pkt.queue (k : Pkt) : Nat := match k.body with | .data 5 _ _ _ _ => 0 | _ => k.cls + 1

/-- Hand a packet to a port (R321, R325). -/
def State.portSend (s : State) (n : Nat) (k : Pkt) (again : Bool) : State :=
  match s.pickSub n with | none => s | some sub => s.subSend n sub k.queue again (.pft k)

/-- Take the frames that `f` names out of the queues of a port. -/
def State.unqueue (s : State) (n : Nat) (f : Egr → Bool) : State :=
  if (s.port n).tx.any fun t => t.queue.any fun x => f x.2.2 then
    s.modPort n fun p => { p with tx := p.tx.map fun t => { t with queue := t.queue.filter fun x => !f x.2.2 } }
  else s

/-- PFT packets of an egress queue. -/
def Egr.isPft : Egr → Bool
  | .pft _ => true
  | _ => false

end Sys2Proof.Machine
end

