-- ==== Sys2Proof/Machine/Transport.lean ====
section
/-! DEFINITION. Plynula Fabric Transport: axes, flows, sending, acknowledgement and receiving (R279 to R298, R443 to R445). -/

namespace Sys2Proof

/-- A message of the TYPE that the reader expects, under the checks of R13; another is discarded (R529). -/
def MsgHead.ok (m : MsgHead) (ty : Nat) : Bool := m.version != 0 && (match m.type_ with | some t => t.toNat == ty | none => true) && m.lengthOk

end Sys2Proof

namespace Sys2Proof.Machine

/-! Axes and ports (R279 to R283, R296). -/

/-- Axis that stands for every port: control records name no cut (log entry 14). -/
abbrev anyAxis : Nat := 4

/-- The largest PFT frame that PORT_FAB_CFG produces (R323). -/
def State.frameNeed (s : State) : Nat := if s.fab.payload then (match s.fab.encap with | 1 => 4198 | 2 => 4218 | _ => 4170) else 1518

/-- Port `n` takes new packets: the module runs (R343, R524), a sub-port is up, it carries the largest PFT frame (R323), it is not stalled (R328) and its engine is not overheated (R428). -/
def State.portUp (s : State) (n : Nat) : Bool :=
  s.phase == .run && (s.port n).subUp != 0 && !(s.port n).stalled && !(s.port n).engineStop && decide (s.frameNeed ≤ (s.port n).maxFrame)

/-- The ports of an axis. -/
def State.axisPorts (s : State) (axis : Nat) : List Nat :=
  (List.range 16).filter fun n => axis == anyAxis || portAxis s.fab.axis n == axis

/-- Unacknowledged bytes that port `n` last carried. -/
def State.portLoad (s : State) (n : Nat) : Nat :=
  (s.fab.flows.map fun f => ((f.unacked.filter fun u => u.2.1 == n).map fun u => u.2.2.2.length).sum).sum

/-- The least loaded of a list of ports, ties to the lower number (R295). -/
def State.leastLoaded (s : State) (l : List Nat) : Option Nat :=
  l.foldl (fun b n => match b with | none => some n | some m => if s.portLoad n < s.portLoad m then some n else b) none

/-- The port for a packet: an up port, for a new packet one within 16 MiB of unacknowledged bytes, for one that is resent another than `avoid` when such a port is up (R295, R296). -/
def State.pickPort (s : State) (axis : Nat) (avoid : Option Nat) : Option Nat :=
  let ups := (s.axisPorts axis).filter fun n => s.portUp n && (avoid.isSome || decide (s.portLoad n ≤ 16777216))
  let others := ups.filter fun n => avoid != some n
  s.leastLoaded (if others.isEmpty then ups else others)

/-! Flows (R292, R293). -/

/-- The flow with endpoint `ep` in class `cls`. -/
def State.flow (s : State) (ep cls : Nat) : Flow :=
  (s.fab.flows.find? fun f => f.ep == ep && f.cls == cls).getD { ep := ep, cls := cls }

/-- Replace a flow. -/
def State.setFlow (s : State) (f : Flow) : State :=
  s.modFab fun b => { b with flows := f :: b.flows.filter fun g => !(g.ep == f.ep && g.cls == f.cls) }

/-- Send the packets of a flow that wait, while it has fewer than 256 unacknowledged and a port takes them (R293, R295); none while PORT_FAB_SELF.VALID is 0 (R284). -/
def State.pump (ep cls : Nat) : Nat → State → State
  | 0, s => s
  | n + 1, s =>
    let f := s.flow ep cls
    match f.unsent with
    | [] => s
    | u :: r =>
      if 256 ≤ f.unacked.length ∨ s.fab.valid = false then s
      else match s.pickPort u.2.1 none with
        | none => s
        | some p =>
          State.pump ep cls n ((s.setFlow { f with unsent := r, unacked := f.unacked ++ [(u.1, p, s.fab.rtoUs, u.2.2)] }).portSend p u.2.2 false)

/-- Hand a packet to the flow with endpoint `ep`, for its partition `part` from partition `src`; its SEQ is returned. While PORT_FAB_SELF.VALID is 0 nothing is sent (R284). -/
def State.sendPkt (s : State) (ep part cls axis src : Nat) (body : PktBody) : State × Nat :=
  if s.fab.valid then
    let f := s.flow ep cls
    let k : Pkt := { srcEp := s.fab.ep, srcPart := src, cls := cls, dstEp := ep, dstPart := part, seq := f.next, session := s.fab.session, body := body }
    let s := s.setFlow { f with next := f.next + 1, unsent := f.unsent ++ [(f.next, axis, k)] }
    (s.pump ep cls (f.unsent.length + 1), f.next)
  else (s, 0)

/-- The payload limit of a packet (R286). -/
def State.payloadMax (s : State) : Nat := if s.fab.payload then 4096 else 1024

/-- Send one DATA packet from partition `src` (R288). -/
def State.sendData1 (s : State) (ep part cls axis src kind tag id off : Nat) (pay : Bytes) : State × Nat :=
  s.sendPkt ep part cls axis src (.data kind tag id off pay)

/-- Send bytes in packets of at most the payload limit; the SEQs used are returned. -/
def State.sendChunks (ep part cls axis src kind tag id : Nat) : Nat → Nat → Bytes → State → State × List Nat
  | 0, _, _, s => (s, [])
  | n + 1, off, bs, s =>
    if bs.isEmpty then (s, [])
    else
      let m := s.payloadMax
      let (s, q) := s.sendData1 ep part cls axis src kind tag id off (bs.take m)
      let (s, qs) := State.sendChunks ep part cls axis src kind tag id n (off + m) (bs.drop m) s
      (s, q :: qs)

/-- Send a NOTICE packet (R291): kind 1 commit, 2 abort; its SEQ is returned. -/
def State.sendNotice (s : State) (ep part cls axis src kind window attempt bytes tag : Nat) : State × Nat :=
  s.sendPkt ep part cls axis src (.notice kind window attempt bytes tag)

/-- Class of the flow that carries control records and cellar traffic, which the spec does not name (log entry 14). -/
abbrev ctrlClass : Nat := 1

/-- Add to Fuelagrim's BYTES of a partition (R454). -/
def State.meterBytes (s : State) (p n : Nat) : State := s.setMeter { s.meter with bytes := updAt s.meter.bytes p fun x => x + n }

/-- Bytes of a list of spans that lie in slabs of T2, T3 or T4 (R454). -/
def State.lowTierBytes (s : State) (l : List (Nat × Nat)) : Nat :=
  (l.map fun x => ((spanSlabs x.1 x.2).map fun k =>
    match (s.slab? k).bind (·.tier) with
    | none | some .t1 => 0
    | _ => min (x.1 + x.2) ((k + 1) * slabB) - max x.1 (k * slabB)).sum).sum

/-- Bytes of a list of spans that go to staging slabs of T2 (R454). -/
def stagedLow (slabs : List (Nat × Tier × Option Nat)) (l : List (Nat × Nat)) : Nat :=
  (l.map fun x => ((spanSlabs x.1 x.2).map fun k =>
    if slabs.any fun y => y.1 == k && y.2.1 != .t1 then min (x.1 + x.2) ((k + 1) * slabB) - max x.1 (k * slabB) else 0).sum).sum

/-- Send a control record from partition `src` (R289 KIND 5). -/
def State.sendCtrl (s : State) (ep part src : Nat) (record : Bytes) : State :=
  (s.sendData1 ep part ctrlClass anyAxis src 5 0 0 0 record).1

/-- Send a control record that counts as a partition's own: a borrower's lease message (R229, R454). -/
def State.partCtrl (s : State) (ep part src : Nat) (record : Bytes) : State := (s.meterBytes src record.length).sendCtrl ep part src record

/-- Peer entry of an endpoint (R440). -/
def State.hasPeer (s : State) (ep : Nat) : Bool := s.sec.peers.any fun x => x.ep == ep

/-- Packets to an endpoint are outstanding (R298). -/
def State.outstanding (s : State) (ep : Nat) : Bool :=
  s.fab.flows.any fun f => f.ep == ep && !(f.unacked.isEmpty && f.unsent.isEmpty)

/-- Packet `seq` of a flow has been acknowledged. -/
def State.ackedPkt (s : State) (ep cls seq : Nat) : Bool :=
  let f := s.flow ep cls
  !(f.unacked.any (fun u => u.1 == seq) || f.unsent.any fun u => u.1 == seq)

/-- Forget the packets of a request that ended at its deadline: they are not resent (R297). -/
def State.forgetPkts (s : State) (l : List (Nat × Nat)) (cls : Nat) : State :=
  s.modFab fun b => { b with flows := b.flows.map fun f =>
    if f.cls = cls then
      { f with unacked := f.unacked.filter (fun u => !l.contains (f.ep, u.1)), unsent := f.unsent.filter fun u => !l.contains (f.ep, u.1) }
    else f }

/-- A cellar request of a client of partition `src` to a lender: a read of `n` bytes, or a write (R228, R289 KIND 6). -/
def State.cellarReq (s : State) (who src : Nat) (lease : Nat × Nat) (off : Nat) (data : Option Bytes) (n : Nat) : State :=
  let pay := (Config.cellarPayload data n).take s.payloadMax
  let (s, q) := (s.meterBytes src pay.length).sendData1 lease.1 0 ctrlClass anyAxis src 6 (s.fab.reqNo % 65536) lease.2 off pay
  let waits := s.fab.cellar.filter fun c => !s.ackedPkt c.2.1 ctrlClass c.2.2
  s.modFab fun b => { b with reqNo := b.reqNo + 1, cellar := (who, lease.1, q) :: waits }

/-- The cellar requests of a client are late: they are not sent again (R234, R297). -/
def State.forgetCellar (s : State) (who : Nat) : State :=
  let l := s.fab.cellar.filter fun c => c.1 == who
  if l.isEmpty then s
  else (s.forgetPkts (l.map (·.2)) ctrlClass).modFab fun b => { b with cellar := b.cellar.filter fun c => c.1 != who }

/-- The reads of `n` bytes at `a` that lie in the cellar, in requests for at most the payload limit (R228, R234, R286). -/
def State.cellarRead (s : State) (who a n : Nat) : State :=
  ((spanSlabs a n).filterMap s.slab?).foldl (fun s x =>
    match x.lease with
    | some l =>
      if x.tier = some .t4 then
        (List.range (slabB / s.payloadMax)).foldl (fun s j =>
          let c := cutPart a (List.replicate n 0) (x.key * slabB + s.payloadMax * j) s.payloadMax
          if c.2.isEmpty then s else s.cellarReq who x.part l (x.frame * slabB + (c.1 - x.key * slabB)) none c.2.length) s
      else s
    | none => s) s

/-- A slab is copied into the cellar: its ciphertext goes to frame `f` of the lease, in requests of the payload limit (R220, R286, R438). -/
def State.cellarFill (s : State) (k : Nat) (lease : Nat × Nat) (f : Nat) : State :=
  let m := s.payloadMax
  (List.range (slabB / m)).foldl (fun s j =>
    let piece := ((List.range (m / 128)).map fun i => s.cipherUnit (k * 16384 + m / 128 * j + i)).flatten
    s.cellarReq (moveWho k) (partOfKey k) lease (f * slabB + m * j) (some piece) m) s

/-! Acknowledgement (R290, R292 to R294). -/

/-- The ack flow with an endpoint: next ACK SEQ sent, highest accepted. -/
def State.ackFlow (s : State) (ep : Nat) : Nat × Nat :=
  match s.fab.acks.find? fun a => a.1 == ep with | some (_, n, h) => (n, h) | none => (1, 0)

/-- Replace the ack flow with an endpoint. -/
def State.setAckFlow (s : State) (ep : Nat) (v : Nat × Nat) : State :=
  s.modFab fun b => { b with acks := (ep, v.1, v.2) :: b.acks.filter fun a => a.1 != ep }

/-- BITMAP of R290 for the SEQs accepted above CUM. -/
def ackBitmap (cum : Nat) (l : List Nat) : BitVec 256 :=
  l.foldl (fun b q => if cum < q ∧ q ≤ cum + 256 then b ||| (1#256 <<< (q - cum - 1)) else b) 0

/-- The port for an ACK: the one that the triggering packet used, or another of its axis that is up (R294). -/
def State.ackOn (s : State) (n : Nat) : Option Nat := if s.portUp n then some n else s.pickPort (portAxis s.fab.axis n) (some n)

/-- Send an ACK for a flow, triggered by a packet that came on port `n` (R290, R294); none while PORT_FAB_SELF.VALID is 0 or no port of the axis is up. -/
def State.sendAck (s : State) (n ep cls : Nat) : State :=
  match (if s.fab.valid then s.ackOn n else none) with
  | none => s
  | some port =>
    let f := s.flow ep cls
    let (q, h) := s.ackFlow ep
    let s := (s.setFlow { f with sinceAck := 0 }).setAckFlow ep (q + 1, h)
    s.portSend port { srcEp := s.fab.ep, cls := cls, dstEp := ep, seq := q, session := s.fab.session, body := .ack f.cum (ackBitmap f.cum f.bitmap) } false

/-- CUM after it has passed every contiguous accepted SEQ. -/
def advanceCum : Nat → Nat → List Nat → Nat
  | 0, c, _ => c
  | n + 1, c, l => if l.contains (c + 1) then advanceCum n (c + 1) l else c

/-- Count a discard in PORT_FAB_DROP. -/
def State.fabDrop (s : State) : State := s.modFab fun b => { b with drop := sat32 b.drop 1 }

/-- The packet would be newly accepted by its flow (R293). -/
def State.rxNew (s : State) (h : PftHdr) : Bool :=
  let f := s.flow h.srcEp.toNat h.srcClass.val
  let q := h.seq.toNat
  decide (f.cum < q) && decide (q ≤ f.cum + 256) && !f.bitmap.contains q

/-- A packet of this endpoint has been accepted: it is reachable again (R298). -/
def State.reach (s : State) (ep : Nat) : State :=
  s.modFab fun b => { b with unreachable := b.unreachable.filter fun u => u.1 != ep }

/-- Accept a packet of a flow, or discard it as a duplicate or out of window, with the ACK that is due (R293, R294). -/
def State.rxAccept (s : State) (h : PftHdr) : State × Bool :=
  let ep := h.srcEp.toNat
  let cls := h.srcClass.val
  let f := s.flow ep cls
  let q := h.seq.toNat
  if q ≤ f.cum ∨ f.bitmap.contains q = true then
    ((s.modFab fun b => { b with dup := sat32 b.dup 1 }).sendAck h.port.val ep cls, false)
  else if f.cum + 256 < q then (s.fabDrop, false)
  else
    let l := q :: f.bitmap
    let cum := advanceCum l.length f.cum l
    let s := (s.setFlow { f with
      cum := cum, bitmap := l.filter fun x => cum < x, sinceAck := f.sinceAck + 1, ackPort := if f.sinceAck = 0 then h.port.val else f.ackPort }).reach ep
    (if 16 ≤ f.sinceAck + 1 ∨ cum < q then s.sendAck h.port.val ep cls else s, true)

/-- The sender's SESSION has advanced: its flows are cleared, and with them the attempts that their packets opened (R292, R302; log entry 15). -/
def State.newSession (s : State) (ep x : Nat) : State :=
  let s := s.modFab fun b => { b with
    sessions := (ep, x) :: b.sessions.filter fun y => y.1 != ep
    flows := b.flows.map fun f => if f.ep = ep then { f with cum := 0, bitmap := [], sinceAck := 0 } else f
    acks := b.acks.map fun a => if a.1 = ep then (a.1, a.2.1, 0) else a }
  s.setParts (s.parts.map fun pt => { pt with
    windows := pt.windows.map fun w => { w with closed := w.closed.filter (fun c => c.1 != ep), tries := w.tries.filter fun t => t.ep != ep } })

/-- A received packet passes the checks that precede its flow: it is of TYPE `ty`, and its tag verifies (R284, R287, R292, R443, R445); it wakes the module from S3 (R431). A packet of another TYPE, or whose header fails R13, is discarded and counted as one whose tag fails (R529; log entry 92). -/
def State.rxOpen (s : State) (h : PftHdr) (ty : Nat) : State × Bool :=
  let s := if s.power.idle = 3 then s.wakeNow else s
  let ep := h.srcEp.toNat
  if s.fab.valid = false ∨ s.phase ≠ .run ∨ h.dstEp.toNat ≠ s.fab.ep then (s, false)
  else if s.hasPeer ep = false then
    ((s.setSec { s.sec with noKey := sat32 s.sec.noKey 1 }).raiseLimited 0x0A10 0x0A10 1000000 none, false)
  else if h.tagOk = false ∨ h.type_.toNat ≠ ty ∨ h.version = 0 ∨ h.lengthOk = false then
    ((s.setSec { s.sec with tagFail := sat32 s.sec.tagFail 1 }).raiseLimited 0x0A10 0x0A10 1000000 none, false)
  else match s.fab.sessions.find? fun y => y.1 == ep with
    | none => (s.newSession ep h.session.toNat, true)
    | some (_, x) =>
      if h.session.toNat < x then (s, false)
      else if x < h.session.toNat then (s.newSession ep h.session.toNat, true)
      else (s, true)

/-- Receive a packet of TYPE `ty` and KIND `kind` that needs no staging room: whether it is delivered. One of another KIND is accepted by its flow and discarded (R289; log entry 92). -/
def State.rx (s : State) (h : PftHdr) (ty kind : Nat) : State × Bool :=
  let (s, ok) := s.rxOpen h ty
  if ok then let (s, ok) := s.rxAccept h; (s, ok && h.kind.toNat == kind) else (s, false)

/-- Receive a DATA packet. -/
def State.rxData (s : State) (h : PftHdr) (kind : Nat) : State × Bool := s.rx h 0x50 kind

/-- Receive a lease message; a control record of another TYPE is accepted by its flow and discarded (R229, R529). -/
def State.rxLease (s : State) (h : PftHdr) : State × Bool := let (s, ok) := s.rxData h 5; (s, ok && h.msg.ok 0x33)

/-- An ACK releases packets of a flow and lets waiting ones go (R290, R293). -/
def State.rxAck (s : State) (h : PftHdr) (cum : Nat) (bm : BitVec 256) : State :=
  let (s, ok) := s.rxOpen h 0x51
  if !ok then s
  else
    let ep := h.srcEp.toNat
    let cls := h.srcClass.val
    let (n, hi) := s.ackFlow ep
    if h.seq.toNat ≤ hi then s
    else
      let s := (s.setAckFlow ep (n, h.seq.toNat)).reach ep
      let f := s.flow ep cls
      let gone : Nat → Bool := fun q => decide (q ≤ cum) || (decide (cum < q) && bm.getLsbD (q - cum - 1))
      let s := s.setFlow { f with unacked := f.unacked.filter fun u => !gone u.1 }
      s.pump ep cls f.unsent.length

/-- Resend packets of a flow, each on another port of its axis when one is up and as it was first sent: `alone` at its RTO, which doubles, or ahead of new packets as its port went down (R295, R296). -/
def State.resend (ep cls : Nat) (alone : Bool) : List Nat → State → State
  | [], s => s
  | q :: r, s =>
    let f := s.flow ep cls
    match (if s.fab.valid then f.unacked.find? fun u => u.1 == q else none) with
    | none => State.resend ep cls alone r s
    | some (_, p, rto, k) =>
      match s.pickPort (portAxis s.fab.axis p) (some p) with
      | none => State.resend ep cls alone r s
      | some p' =>
        let s := s.setFlow { f with unacked := f.unacked.map fun u => if u.1 = q then (q, p', if alone then min 1600 (2 * rto) else rto, k) else u }
        let s := (s.modFab fun b => { b with resent := sat32 b.resent 1 }).unqueue p fun x => x == .pft k
        State.resend ep cls alone r (s.portSend p' k (!alone))

/-! Attempt numbers (R302). -/

/-- The next attempt number into a window of a peer. -/
def State.nextAttempt (s : State) (ep part window : Nat) : Nat × State :=
  let is : Nat × Nat × Nat × Nat → Bool := fun t => t.1 == ep && t.2.1 == part && t.2.2.1 == window
  let n := ((((s.fab.tries.find? is).map (·.2.2.2)).getD 0) + 1) % 2 ^ 32
  (n, s.modFab fun b => { b with tries := (ep, part, window, n) :: b.tries.filter fun t => !is t })

/-- Attempt `a` is newer than `c` (R302). -/
def newerAttempt (a c : Nat) : Bool := decide ((a + 2 ^ 32 - c) % 2 ^ 32 < 2 ^ 31)

/-! Ending a collective (R312). -/

/-- The collective that queue `q` runs. -/
def State.collOf (s : State) (q : Nat) : Option Coll := s.fab.colls.find? fun c => c.queue == q

/-- Replace the collective of queue `q`. -/
def State.setColl (s : State) (c : Coll) : State :=
  s.modFab fun b => { b with colls := b.colls.map fun x => if x.queue = c.queue then c else x }

/-- The other members of a collective, with their ranks. -/
def Coll.others (c : Coll) : List (Nat × Nat × Nat) :=
  (c.members.zipIdx.filter fun x => x.2 != c.self).map fun x => (x.2, x.1.1, x.1.2)

/-- Forget the collective of queue `q`, releasing its staging blocks. -/
def State.dropColl (s : State) (q : Nat) : State :=
  match s.collOf q with
  | none => s
  | some c =>
    (s.releaseCredit 0 (s.queue q).part c.blocks).modFab fun b => { b with colls := b.colls.filter fun x => x.queue != q }

/-- A member's collective is killed or ends with a status: an abort goes to every other member (R312). -/
def State.abortColl (s : State) (q : Nat) : State :=
  match s.collOf q with
  | none => s
  | some c =>
    let s := (c.others.filter fun m => s.hasPeer m.2.1).foldl (fun s m => (s.sendData1 m.2.1 m.2.2 c.cls c.axis (s.queue q).part 3 (c.attempt % 65536) c.id 0 []).1) s
    s.dropColl q

end Sys2Proof.Machine
end

