-- ==== Sys2Proof/Machine/Stream.lean ====
section
/-! DEFINITION. The state stream: SHA-256, page records, epochs, the host ring and the replica digests (R174 to R198). -/

namespace Sys2Proof.Machine

/-! SHA-256 (FIPS 180-4, which R178 and R188 name). -/

/-- Word `i` of a number of `n` words, the first word in its highest bits. -/
def wordOf (n x i : Nat) : Word := BitVec.ofNat 32 (x / 2 ^ (32 * (n - 1 - i)))

/-- The round constants, sixteen to a number. -/
def shaK : List Word :=
  [0x428a2f9871374491b5c0fbcfe9b5dba53956c25b59f111f1923f82a4ab1c5ed5d807aa9812835b01243185be550c7dc372be5d7480deb1fe9bdc06a7c19bf174,
   0xe49b69c1efbe47860fc19dc6240ca1cc2de92c6f4a7484aa5cb0a9dc76f988da983e5152a831c66db00327c8bf597fc7c6e00bf3d5a7914706ca635114292967,
   0x27b70a852e1b21384d2c6dfc53380d13650a7354766a0abb81c2c92e92722c85a2bfe8a1a81a664bc24b8b70c76c51a3d192e819d6990624f40e3585106aa070,
   0x19a4c1161e376c082748774c34b0bcb5391c0cb34ed8aa4a5b9cca4f682e6ff3748f82ee78a5636f84c878148cc7020890befffaa4506cebbef9a3f7c67178f2].flatMap
    fun x => (List.range 16).map (wordOf 16 x)

/-- The eight initial words. -/
def shaH : Nat := 0x6a09e667bb67ae853c6ef372a54ff53a510e527f9b05688c1f83d9ab5be0cd19

/-- The eight working words. -/
structure Sha where
  a : Word := wordOf 8 shaH 0
  b : Word := wordOf 8 shaH 1
  c : Word := wordOf 8 shaH 2
  d : Word := wordOf 8 shaH 3
  e : Word := wordOf 8 shaH 4
  f : Word := wordOf 8 shaH 5
  g : Word := wordOf 8 shaH 6
  h : Word := wordOf 8 shaH 7
  deriving DecidableEq, Repr

/-- One round. -/
def shaRound (s : Sha) (k w : Word) : Sha :=
  let s1 := s.e.rotateRight 6 ^^^ s.e.rotateRight 11 ^^^ s.e.rotateRight 25
  let ch := (s.e &&& s.f) ^^^ (~~~s.e &&& s.g)
  let t1 := s.h + s1 + ch + k + w
  let s0 := s.a.rotateRight 2 ^^^ s.a.rotateRight 13 ^^^ s.a.rotateRight 22
  let maj := (s.a &&& s.b) ^^^ (s.a &&& s.c) ^^^ (s.b &&& s.c)
  { a := t1 + (s0 + maj), b := s.a, c := s.b, d := s.c, e := s.d + t1, f := s.e, g := s.f, h := s.g }

/-- Extend the message schedule by `n` words; the list holds the latest word first. -/
def shaExtend : Nat → List Word → List Word
  | 0, l => l
  | n + 1, l =>
    let x := l.getD 1 0
    let y := l.getD 14 0
    let s1 := x.rotateRight 17 ^^^ x.rotateRight 19 ^^^ (x >>> 10)
    let s0 := y.rotateRight 7 ^^^ y.rotateRight 18 ^^^ (y >>> 3)
    shaExtend n ((s1 + l.getD 6 0 + s0 + l.getD 15 0) :: l)

/-- Big-endian word of four bytes. -/
def beWord (b : Bytes) : Word :=
  BitVec.ofNat 32 (byteAt b 0 * 16777216 + byteAt b 1 * 65536 + byteAt b 2 * 256 + byteAt b 3)

/-- One 64-byte block. -/
def shaBlock (s : Sha) (b : Bytes) : Sha :=
  let w0 := (List.range 16).map fun i => beWord (b.drop (4 * i))
  let w := (shaExtend 48 w0.reverse).reverse
  let r := (List.zip shaK w).foldl (fun x y => shaRound x y.1 y.2) s
  { a := s.a + r.a, b := s.b + r.b, c := s.c + r.c, d := s.d + r.d, e := s.e + r.e, f := s.f + r.f, g := s.g + r.g, h := s.h + r.h }

/-- The SHA-256 digest of a byte string, 32 bytes. -/
def sha256 (m : Bytes) : Bytes :=
  let n := m.length
  let p := m ++ [0x80#8] ++ List.replicate ((119 - n % 64) % 64) 0#8 ++ beBytes 8 (8 * n)
  let s := (groupsOf 64 p.length p).foldl shaBlock {}
  [s.a, s.b, s.c, s.d, s.e, s.f, s.g, s.h].flatMap fun w => beBytes 4 w.toNat

/-- The page hash: the first 128 bits of the page's digest (R178). -/
def pageHash (b : Bytes) : Bytes := (sha256 b).take 16

/-! The configuration (R174, R175). -/

def cfgDest (c : Bytes) : Nat := byteAt c 4 % 4
def cfgDivAction (c : Bytes) : Bool := bit (byteAt c 4) 2
def cfgMembers (c : Bytes) : Nat := byteAt c 5 % 16
def cfgSelf (c : Bytes) : Nat := byteAt c 5 / 16
def cfgEntries (c : Bytes) : Nat := field c 6 2
def cfgExport (c : Bytes) : Nat := field c 8 4
def cfgDigest (c : Bytes) : Nat := field c 12 4
def cfgKeyframe (c : Bytes) : Nat := field c 16 2
def cfgRingAddr (c : Bytes) : Nat := field c 24 6
def cfgRingSlabs (c : Bytes) : Nat := field c 30 2
def cfgStoreEp (c : Bytes) : Nat := bits (field c 32 4) 19 0
def cfgMember (c : Bytes) (k : Nat) : Nat := bits (field c (64 + 4 * k) 4) 19 0

/-- A state-set entry: first slab, slabs, DIGEST. -/
structure StreamEntry where
  key : Nat
  slabs : Nat
  digest : Bool
  aligned : Bool
  deriving DecidableEq, Repr

/-- Entry `i` of a configuration. -/
def cfgEntry (c : Bytes) (i : Nat) : StreamEntry :=
  let a := field c (96 + 8 * i) 6
  { key := keyOf a, slabs := field c (102 + 8 * i) 2, digest := bit a 0, aligned := decide (a % slabB ≤ 1) }

/-- The state set. -/
def cfgSet (c : Bytes) : List StreamEntry := (List.range (cfgEntries c)).map (cfgEntry c)

/-- Two entries overlap. -/
def entriesMeet (a b : StreamEntry) : Bool := decide (a.key < b.key + b.slabs) && decide (b.key < a.key + a.slabs)

/-- The checks of R175 on a configuration that passed R13, for partition `p`. -/
def State.streamStatus (s : State) (p : Nat) (c : Bytes) : Nat :=
  let pt := s.part p
  let set := cfgSet c
  let ringOk := s.mem.regions.any fun r => r.part == p && r.kind == 1 && r.base == keyOf (cfgRingAddr c) && decide (cfgRingSlabs c ≤ r.slabs)
  if 8 < cfgMembers c ∨ cfgEntries c = 0 ∨ 4096 < cfgEntries c ∨ cfgExport c = 0 ∨ cfgDigest c % cfgExport c ≠ 0 ∨ cfgKeyframe c = 0 ∨
      60000 < field c 18 2 then 0x0204
  else if cfgDest c = 2 ∧ (cfgRingAddr c % slabB ≠ 0 ∨ cfgRingSlabs c = 0 ∨ 2048 < cfgRingSlabs c ∨ ringOk = false) then 0x0204
  else if cfgDest c ≠ 2 ∧ (cfgRingAddr c ≠ 0 ∨ cfgRingSlabs c ≠ 0) then 0x0204
  else if cfgDest c ≠ 3 ∧ field c 32 4 ≠ 0 then 0x0204
  else if set.any fun e => !e.aligned || e.slabs == 0 || partOfKey e.key != p || decide ((p + 1) * 8388608 < e.key + e.slabs) then 0x0204
  else if set.zipIdx.any fun x => (set.drop (x.2 + 1)).any (entriesMeet x.1) then 0x0204
  else if cfgMembers c ≠ 0 ∧ cfgMembers c ≤ cfgSelf c then 0x0204
  else if pt.resOf .t1 < poolT1 c + pt.stageT1 + s.pinSlabs p + s.gsetSlabs p ∨ pt.resOf .t2 < poolT2 c + pt.stageT2 then 0x0284
  else 0

/-! Records (R179 to R182). -/

/-- The page in the smaller of the two encodings, ENC 0 on a tie (R179). -/
def encodePage (b : Bytes) : Nat × Bytes :=
  let ws := groupsOf 4 b.length b
  let nz := ws.filter fun w => w.any fun x => x != 0
  let bm := (groupsOf 8 ws.length (ws.map fun w => w.any fun x => x != 0)).map fun g =>
    BitVec.ofNat 8 ((g.zipIdx.map fun x => if x.1 then 2 ^ x.2 else 0).sum)
  let e1 := bm ++ nz.flatten
  if e1.length < b.length then (1, e1) else (0, b)

/-- A page record (R181). -/
def pageRecord (addr : Nat) (page : Bytes) : Bytes :=
  let (enc, body) := encodePage page
  let len := 4 * ceilDiv (12 + body.length) 4
  leBytes 1 1 ++ leBytes 1 0x24 ++ leBytes 2 len ++ leBytes 6 addr ++ leBytes 1 enc ++ [0] ++ body ++ List.replicate (len - (12 + body.length)) 0

/-- The epoch header record (R180). -/
def headerRecord (p no step base : Nat) (key folded hostLoss : Bool) : Bytes :=
  leBytes 1 1 ++ leBytes 1 0x23 ++ leBytes 2 24 ++ leBytes 1 (b2n key + 2 * b2n folded + 4 * b2n hostLoss) ++ leBytes 1 p ++ leBytes 2 0 ++
    leBytes 4 no ++ leBytes 8 step ++ leBytes 4 base

/-- The epoch end record (R182). -/
def endRecord (e : Epoch) : Bytes :=
  leBytes 1 1 ++ leBytes 1 0x25 ++ leBytes 2 56 ++ leBytes 1 (b2n e.digested + 2 * b2n e.divergent + 4 * b2n e.timeout) ++ leBytes 3 0 ++
    leBytes 4 e.no ++ leBytes 4 e.pages ++ leBytes 8 e.bytes ++ e.digest

/-- A digest message (R189). -/
def digestRecord (self step : Nat) (d : Bytes) : Bytes :=
  leBytes 1 1 ++ leBytes 1 0x26 ++ leBytes 2 48 ++ leBytes 1 self ++ leBytes 3 0 ++ leBytes 8 step ++ d

/-! Writing records out (R183, R196). -/

/-- Update a partition's stream. -/
def State.modStream (s : State) (p : Nat) (f : Stream → Stream) : State := s.modPart p fun pt => { pt with stream := f pt.stream }

/-- Bytes of the host ring. -/
def ringBytes (c : Bytes) : Nat := cfgRingSlabs c * slabB

/-- Free bytes of a ring (R196). -/
def ringFree (S head tail : Nat) : Nat := if S = 0 then 0 else (tail + 2 * S - head - 4) % S

/-- Put bytes in the host ring at HEAD and advance HEAD past them. -/
def State.ringPut (s : State) (p : Nat) (b : Bytes) : State :=
  let st := (s.part p).stream
  let S := ringBytes st.cfg
  let h := (st.head + b.length) % S
  (s.writeInPlace (cfgRingAddr st.cfg + st.head) b).modStream p fun st => { st with head := h, bounds := st.bounds ++ [h] }

/-- Write one record in the host ring, with the pad record that it needs first: whether it was written (R196). -/
def State.ringWrite (s : State) (p : Nat) (r : Bytes) : State × Bool :=
  let st := (s.part p).stream
  let S := ringBytes st.cfg
  let toEnd := S - st.head
  let s := if toEnd < r.length ∧ toEnd ≤ ringFree S st.head st.tail then
    s.ringPut p (leBytes 1 1 ++ leBytes 1 0x27 ++ leBytes 2 toEnd ++ List.replicate (toEnd - 4) 0) else s
  let st := (s.part p).stream
  if r.length ≤ S - st.head ∧ r.length ≤ ringFree S st.head st.tail then (s.ringPut p r, true) else (s, false)

/-- Where an epoch's records go: 1 cellar, 2 host ring, 3 storage endpoint. -/
def epochDest (c : Bytes) (e : Epoch) : Nat := if e.hostLoss then (if e.toCellar then 1 else 3) else cfgDest c

/-- Send one record of the open epoch: whether it was taken; its bytes count, to T3, to T4 or as payload (R454). -/
def State.sendRecord (s : State) (p : Nat) (e : Epoch) (r : Bytes) : State × Bool :=
  let d := epochDest (s.part p).stream.cfg e
  let (t, ok) := if d = 2 then (if s.outbound then s.ringWrite p r else (s, false)) else (s.emit (.stream p d r), true)
  (if ok then t.meterBytes p r.length else t, ok)

/-- Send records in order until one is not taken; the rest is returned. -/
def State.sendRecords (p : Nat) (e : Epoch) : List Bytes → State → State × List Bytes
  | [], s => (s, [])
  | r :: rs, s =>
    let (s', ok) := s.sendRecord p e r
    if ok then State.sendRecords p e rs s' else (s', r :: rs)

/-! Epochs (R176 to R185). -/

/-- The mapped slabs of the state set that hold data, in entry order, with DIGEST. -/
def State.streamSlabs (s : State) (p : Nat) (c : Bytes) : List (Nat × Bool) :=
  (cfgSet c).flatMap fun e => ((List.range e.slabs).map fun i => (e.key + i, e.digest)).filter fun x =>
    match s.slab? x.1 with | some y => y.part == p && y.st != .lost | none => false

/-- The pages of a slab: address and committed bytes. -/
def slabPages (m : Memory) (k : Nat) : List (Nat × Bytes) :=
  (List.range 512).map fun i => (k * slabB + 4096 * i, m.read (k * slabB + 4096 * i) 4096)

/-- Hash of a page in a list. -/
def hashOf (l : List (Nat × Bytes)) (a : Nat) : Option Bytes := (l.find? fun x => x.1 == a).map (·.2)

/-- Send the local digest to every other member, as the epoch opens (R189); a member with no peer entry gets none (R445). -/
def State.sendDigest (s : State) (p : Nat) (c : Bytes) (step : Nat) (d : Bytes) : State :=
  (List.range (cfgMembers c)).foldl (fun s k =>
    if k = cfgSelf c ∨ s.hasPeer (cfgMember c k) = false then s
    else
      let r := digestRecord (cfgSelf c) step d
      let (s, q) := (s.meterBytes p r.length).sendData1 (cfgMember c k) p ctrlClass anyAxis p 5 0 0 0 r
      s.modStream p fun st => { st with epoch := st.epoch.map fun e => { e with sentTo := e.sentTo ++ [(cfgMember c k, q)] } }) s

/-- Decide the comparison of the open epoch, members without a digest counted as missing (R190). -/
def State.decideDigest (s : State) (p : Nat) : State :=
  let st := (s.part p).stream
  match st.epoch with
  | none => s
  | some e =>
    let others := (List.range (cfgMembers st.cfg)).filter fun k => k != cfgSelf st.cfg
    let at_ : Nat → Option Bytes := fun k => (st.got.find? fun g => g.1 == k && g.2.1 == e.step).map (·.2.2)
    let diff := others.filter fun k => match at_ k with | some d => d != e.digest | none => false
    let miss := others.filter fun k => (at_ k).isNone
    let mask : List Nat → Nat := fun l => (l.map fun k => 2 ^ k).sum
    let s := s.modStream p fun st => { st with
      epoch := some { e with compare := false, digested := diff.isEmpty && decide (miss.length < others.length), divergent := !diff.isEmpty, timeout := !miss.isEmpty }
      diverged := st.diverged || !diff.isEmpty, timeout := st.timeout || !miss.isEmpty
      mismatch := mask diff, missing := mask miss
      held := st.held || (cfgDivAction st.cfg && !diff.isEmpty)
      got := st.got.filter fun g => e.step < g.2.1 }
    let s := diff.foldl (fun s _ => s.raiseP 0x0210 p) s
    miss.foldl (fun s _ => s.raiseP 0x0211 p) s

/-- Decide the comparison once every member's digest has arrived (R190). -/
def State.tryDigest (s : State) (p : Nat) : State :=
  let st := (s.part p).stream
  match st.epoch with
  | none => s
  | some e =>
    let all := (List.range (cfgMembers st.cfg)).all fun k => k == cfgSelf st.cfg || st.got.any fun g => g.1 == k && g.2.1 == e.step
    if e.compare && all then s.decideDigest p else s

/-- Open an epoch, whose pages are read and hashed (R178, R454): its number, its snapshot, its header record and its digest (R176, R178, R180, R188, R189). -/
def State.openEpoch (s : State) (p : Nat) (hostLoss toCellar key : Bool) : State :=
  let st := (s.part p).stream
  let c := st.cfg
  let no := st.epochs + 1
  let slabs := s.streamSlabs p c
  let pages := slabs.flatMap fun x => (slabPages s.dev x.1).map fun y => (y.1, y.2, pageHash y.2, x.2)
  let hashes := pages.map fun y => (y.1, y.2.2.1)
  let out := pages.filter fun y => key || hashOf st.hashes y.1 != some y.2.2.1
  let recs := out.map fun y => pageRecord y.1 y.2.1
  let digest := sha256 (((pages.filter fun y => y.2.2.2).flatMap fun y => y.2.2.1) ++ leBytes 8 st.steps)
  let cmp := !hostLoss && decide (cfgMembers c ≠ 0) && decide (cfgDigest c ≠ 0) && st.steps % cfgDigest c == 0
  let e : Epoch :=
    { no := no, key := key, hostLoss := hostLoss, toCellar := toCellar, step := st.steps, recs := recs, pages := recs.length
      bytes := (recs.map List.length).sum, digest := digest, compare := cmp, hashes := hashes, left := slabs.map (·.1) }
  let head := headerRecord p no st.steps (if key then no else st.last) key st.foldPend hostLoss
  let e := { e with head := head }
  let s := s.meterBytes p (s.lowTierBytes (slabs.map fun x => (x.1 * slabB, slabB)))
  let (s, ok) := s.sendRecord p e head
  let e := if ok then e else { e with recs := head :: e.recs }
  let s := s.modStream p fun st => { st with
    epochs := no, opened := st.opened + 1, needKey := st.needKey && !key, foldPend := false, epoch := some e
    dStep := st.steps % 2 ^ 32, digest := digest }
  if cmp then (s.sendDigest p c st.steps digest).tryDigest p else s

/-- A step mark commits (R175, R176, R184). -/
def State.stepMark (s : State) (p : Nat) : State :=
  let s := s.modStream p fun st =>
    let st := if st.next.isEmpty then st else
      { st with cfg := st.next, next := [], needKey := true, folded := 0, opened := 0, hashes := []
                head := if cfgDest st.next = 2 then 0 else st.head
                tail := if cfgDest st.next = 2 then 0 else st.tail
                bounds := if cfgDest st.next = 2 then [] else st.bounds }
    { st with steps := st.steps + 1 }
  let st := (s.part p).stream
  if cfgDest st.cfg = 0 ∨ st.steps % cfgExport st.cfg ≠ 0 then s
  else if st.epoch.isSome then s.modStream p fun st => { st with foldPend := true, folded := sat16 st.folded 1 }
  else s.openEpoch p false (decide (cfgDest st.cfg = 1)) (st.needKey || st.opened % cfgKeyframe st.cfg == 0)

/-- Page record of slab `k`. -/
def recordOfSlab (ks : List Nat) (r : Bytes) : Bool := byteAt r 1 == 0x24 && ks.contains (keyOf (field r 4 6))

/-- The export of partition `p` among the clients of the cellar. -/
def exportWho (p : Nat) : Nat := 2 ^ 40 + p

/-- Export what the destination takes: pages of slabs retained in T1 first (R183); they cross the die links (R381), and those of the cellar are read from their lender (R228). -/
def State.exportEpoch (s : State) (p : Nat) : State :=
  match (s.part p).stream.epoch with
  | none => s
  | some e =>
    let hd := e.recs.takeWhile fun r => byteAt r 1 == 0x23
    let rest := e.recs.drop hd.length
    let l := hd ++ rest.filter (recordOfSlab e.kept) ++ rest.filter fun r => !recordOfSlab e.kept r
    let (s, more) := State.sendRecords p e l s
    let pages := ((l.take (l.length - more.length)).filter fun r => byteAt r 1 == 0x24).map fun r => (field r 4 6, 4096)
    let l := more
    let s := s.linkSend (s.readTraffic 16 false [hDie] pages)
    let s := pages.foldl (fun s x => s.cellarRead (exportWho p) x.1 x.2) s
    s.modStream p fun st => { st with epoch := some { e with recs := l, left := e.left.filter fun k => l.any (recordOfSlab [k]) } }

/-- An epoch is abandoned (R185). -/
def State.abandonEpoch (s : State) (p : Nat) : State :=
  if (s.part p).stream.epoch.isNone then s
  else
    ((s.forgetCellar (exportWho p)).modStream p fun st => { st with epoch := none, destLost := true, needKey := true, retT1 := 0, retT2 := 0, retNear := [] }).raiseP 0x0212 p

/-- Close the open epoch when every page record is out and its comparison is done (R183). -/
def State.closeEpoch (s : State) (p : Nat) : State :=
  match (s.part p).stream.epoch with
  | none => s
  | some e =>
    if e.compare || !e.recs.isEmpty then s
    else
      let (s, ok) := s.sendRecord p e (endRecord e)
      if !ok then s
      else s.modStream p fun st => { st with
        epoch := none, last := e.no, hashes := e.hashes, retT1 := 0, retT2 := 0, retNear := [] }

/-! Retention (R176, R177). -/

/-- The slabs among `ks` that a commit would have to retain in a tier. -/
def State.mustRetain (s : State) (p : Nat) (t : Tier) (ks : List Nat) : List Nat :=
  match (s.part p).stream.epoch with
  | none => []
  | some e => ks.filter fun k => e.left.contains k && (s.slab? k).bind (·.tier) == some t

/-- A commit that replaces these slabs finds room in the pools (R177). -/
def State.poolRoom (s : State) (p : Nat) (ks : List Nat) : Bool :=
  let st := (s.part p).stream
  decide (st.retT1 + (s.mustRetain p .t1 ks).length ≤ poolT1 st.cfg) && decide (st.retT2 + (s.mustRetain p .t2 ks).length ≤ poolT2 st.cfg)

/-- Retain what a commit replaces (R176). -/
def State.retain (s : State) (p : Nat) (ks : List Nat) : State :=
  let a := s.mustRetain p .t1 ks
  let b := s.mustRetain p .t2 ks
  s.modStream p fun st => { st with
    retT1 := st.retT1 + a.length, retT2 := st.retT2 + b.length
    retNear := st.retNear ++ a.map fun k => (s.slab? k).bind (·.near)
    epoch := st.epoch.map fun e => { e with left := e.left.filter (fun k => !(ks.contains k)), kept := e.kept ++ a } }

end Sys2Proof.Machine
end

