-- ==== Sys2Proof/Machine/Queues.lean ====
section
/-! DEFINITION. Queues: rings, entries, fetch, completion records, the start of commands and the choice of cores (R253 to R276). -/

namespace Sys2Proof.Machine

/-! Command entries (R256 to R260). -/

def entOp (b : Bytes) : Nat := byteAt b 4
def entNotify (b : Bytes) : Bool := bit (byteAt b 5) 0
def entNoRetry (b : Bytes) : Bool := bit (byteAt b 5) 1
def entWaitEn (b : Bytes) : Bool := bit (field b 6 2) 15
def entWaitQ (b : Bytes) : Nat := bits (field b 6 2) 5 0
def entWaitSeq (b : Bytes) : Nat := field b 8 4
def entBudget (b : Bytes) : Nat := field b 12 4
def entTag (b : Bytes) : Nat := field b 16 8

abbrev cNOP : Nat := 0x00
abbrev cPRODUCT : Nat := 0x01
abbrev cCHAINED : Nat := 0x02
abbrev cCOLLECTIVE : Nat := 0x03
abbrev cEXCHANGE : Nat := 0x04
abbrev cFINISH : Nat := 0x05
abbrev cOPTIMISER : Nat := 0x06
abbrev cCOPYIN : Nat := 0x07
abbrev cCOPYOUT : Nat := 0x08
abbrev cCOPY : Nat := 0x09
abbrev cMAP : Nat := 0x0A
abbrev cUNMAP : Nat := 0x0B
abbrev cREGISTER : Nat := 0x0C
abbrev cRELEASE : Nat := 0x0D
abbrev cSTREAM : Nat := 0x0E
abbrev cMARK : Nat := 0x0F

/-- A class-0 queue accepts the entry (R257). -/
def classZeroOk (b : Bytes) : Bool :=
  let op := entOp b
  !entWaitEn b && ([cNOP, cCHAINED, cCOLLECTIVE, cCOPYIN, cCOPYOUT, cCOPY].contains op || (op == cPRODUCT && field b 62 6 == 0))

/-- BYTES and the two addresses of a copy lie within R257. -/
def copyOk (src dst n : Nat) : Bool :=
  decide (128 ≤ n) && decide (n ≤ 4294967168) && n % 128 == 0 && src % 128 == 0 && dst % 128 == 0

/-- The body fields of an entry lie in their ranges (R257, R258). -/
def bodyOk (b : Bytes) : Bool :=
  let op := entOp b
  if op = cPRODUCT then field b 32 6 != 0 && field b 38 6 != 0 && field b 44 6 != 0
  else if op = cCOPYIN then copyOk (field b 32 8) (field b 40 6) (field b 48 4)
  else if op = cCOPYOUT then copyOk (field b 32 6) (field b 40 8) (field b 48 4)
  else if op = cCOPY then copyOk (field b 32 6) (field b 38 6) (field b 48 4)
  else true

/-- The checks of an entry as it is fetched into queue `q`: R13, then R257 and R260. -/
def State.entryStatus (s : State) (q : Nat) (b : Bytes) : Nat :=
  let qu := s.queue q
  let h := headerStatus s.link.effLevel 128 b 0x40 0x0402 128
  let w := s.queue (entWaitQ b)
  if h ≠ 0 then h
  else if 0x10 ≤ entOp b then 0x0402
  else if qu.cls = 0 ∧ classZeroOk b = false then 0x0403
  else if bodyOk b = false then 0x0402
  else if entWaitEn b = true ∧ ¬ (w.assigned = true ∧ w.part = qu.part) then 0x0402
  else if qu.cls = 0 ∧ (entBudget b = 0 ∨ (s.part qu.part).c0Burst < entBudget b) then 0x0402
  else if qu.cls ≠ 0 ∧ entBudget b ≠ 0 then 0x0402
  else 0

/-! Rings and completion records (R253, R261, R262, R276, R277). -/

/-- Entries of the queue's rings. -/
def Queue.size (q : Queue) : Nat := 2 ^ q.log2

/-- The queue's ring bases. -/
def Queue.sqBase (q : Queue) : Nat := q.sqHi.toNat * 2 ^ 32 + q.sqLo.toNat
def Queue.cqBase (q : Queue) : Nat := q.cqHi.toNat * 2 ^ 32 + q.cqLo.toNat

/-- Free entries of the completion ring. -/
def Queue.cqRoom (q : Queue) : Nat := (q.cqHead + q.size - 1 - q.cqTail) % q.size

/-- A completion record before PHASE and SEQ are known; bit 7 of byte 4 carries NOTIFY until the record is written (R261). -/
def recordBytes (notify : Bool) (attempts status tag idx waitUs runUs : Nat) : Bytes :=
  leBytes 1 1 ++ leBytes 1 0x41 ++ leBytes 2 32 ++ leBytes 1 (128 * b2n notify) ++ leBytes 1 (min 255 attempts) ++ leBytes 2 status ++
    leBytes 8 tag ++ leBytes 2 idx ++ leBytes 2 0 ++ leBytes 4 0 ++ leBytes 4 (min 4294967295 waitUs) ++ leBytes 4 (min 4294967295 runUs)

/-- Write one record at the tail of the completion ring; HQ_COMMIT_SEQ advances, and vector q is raised when NOTIFY is 1 (R261 to R263). -/
def State.writeRecord (s : State) (q : Nat) (r : Bytes) : State :=
  let qu := s.queue q
  let seq := (qu.seq + 1) % 2 ^ 32
  let t := (qu.cqTail + 1) % qu.size
  let s := s.coherentWrite (qu.cqBase + 32 * qu.cqTail) (patch (patch r 4 (leBytes 1 (b2n qu.phase))) 20 (leBytes 4 seq))
  let s := s.modQueue q fun x => { x with cqTail := t, seq := seq, phase := if t = 0 then !x.phase else x.phase }
  if bit (byteAt r 4) 7 then s.msix q else s

/-- Write the records that a queue holds while the host takes them and the ring has room. -/
def State.flushRecs (q : Nat) : Nat → State → State
  | 0, s => s
  | n + 1, s =>
    match (s.queue q).heldRecs with
    | [] => s
    | r :: rs =>
      if s.outbound && decide (0 < (s.queue q).cqRoom) then
        State.flushRecs q n ((s.writeRecord q r).modQueue q fun x => { x with heldRecs := rs })
      else s

/-- Hand a record to a queue. -/
def State.putRecord (s : State) (q : Nat) (r : Bytes) : State :=
  let s := s.modQueue q fun x => { x with heldRecs := x.heldRecs ++ [r] }
  State.flushRecs q (s.queue q).heldRecs.length s

/-- The completion ring takes one more record than those it still owes. -/
def Queue.ringRoom (q : Queue) : Bool := decide (q.heldRecs.length < q.cqRoom)

/-- Bin of a waiting time (R277). -/
def waitBin (us : Nat) : Nat := min 15 us.log2

/-- Count one waiting time in an accounting page. -/
def Acct.addWait (a : Acct) (us : Nat) : Acct :=
  { a with hist := updAt a.hist (waitBin us) fun n => sat32 n 1, waitSum := (a.waitSum + us) % 2 ^ 64 }

/-- Update the accounting of a queue and of its partition (R277). -/
def State.modAcct (s : State) (q : Nat) (f : Acct → Acct) : State :=
  (s.modPart (s.queue q).part fun p => { p with acct := f p.acct }).modQueue q fun x => { x with acct := f x.acct }

/-- The head command of a queue. -/
def State.head? (s : State) (q : Nat) : Option Cmd := (s.queue q).fifo.head?

/-- Update the head command of a queue. -/
def State.modHead (s : State) (q : Nat) (f : Cmd → Cmd) : State :=
  s.modQueue q fun x => { x with fifo := updAt x.fifo 0 f }

/-- Queue waiting time of a command up to now (R276). -/
def State.waitOf (s : State) (c : Cmd) : Nat := c.waitUs + (match c.waitFrom with | some t => s.nowUs - t | none => 0)

/-- The head command of `q` waits from now, unless it waits already (R276). -/
def State.beginWait (s : State) (q : Nat) : State := s.modHead q fun c => { c with waitFrom := some (c.waitFrom.getD s.nowUs) }

/-- The wait of the head command of `q` ends (R276). -/
def State.endWait (s : State) (q : Nat) : State := s.modHead q fun c => { c with waitUs := s.waitOf c, waitFrom := none }

/-- The record of a command with a status (R261). -/
def State.recordOf (s : State) (c : Cmd) (status : Nat) : Bytes :=
  recordBytes (entNotify c.entry) c.attempts status (entTag c.entry) c.idx (s.waitOf c) (match c.startUs with | some t => s.nowUs - t | none => 0)

/-- Count a command's waiting time and write its record (R261, R276). -/
def State.complete (s : State) (q : Nat) (c : Cmd) (status : Nat) : State :=
  (s.modAcct q fun a => a.addWait (s.waitOf c)).putRecord q (s.recordOf c status)

/-! Fetch (R254 to R256, R271). -/

/-- A queue of class 0 that partition `p` owns. -/
def State.classZeroQueues (s : State) (p : Nat) : List Queue := s.queues.filter fun x => x.assigned && x.part == p && x.cls == 0

/-- The envelope of a class-0 command at its doorbell (R271). -/
def State.inEnvelope (s : State) (p budget : Nat) : Bool :=
  (s.classZeroQueues p).all (fun x => x.fifo.isEmpty) && decide (budget ≤ (s.part p).tokens)

/-- Fetch the entry at HEAD into a queue, with RdCurr (R357). -/
def State.fetchOne (s : State) (q : Nat) : State :=
  let qu := s.queue q
  let b := s.hostSeen (qu.sqBase + 128 * qu.sqHead) 128
  let v := s.entryStatus q b
  let c0 := qu.cls == 0 && v == 0
  let env := c0 && s.inEnvelope qu.part (entBudget b)
  let c : Cmd :=
    { idx := qu.sqHead, entry := b, verdict := v, waitFrom := some s.nowUs, envelope := env, no := s.adm.admitNo }
  let s := (s.cxlAsk [.rdCurr] (linesOf (qu.sqBase + 128 * qu.sqHead) 128)).modQueue q fun x => { x with fifo := x.fifo ++ [c], sqHead := (x.sqHead + 1) % x.size }
  let s := s.modAdm fun a => { a with admitNo := a.admitNo + 1 }
  let s := if env then s.modPart qu.part fun p => { p with tokens := p.tokens - entBudget b } else s
  if c0 && !env then s.modPart qu.part fun p => { p with acct := { p.acct with c0Outside := sat32 p.acct.c0Outside 1 } } else s

/-- Fetch the entries between HEAD and TAIL while the host answers (R350, R367, R369). -/
def State.fetchAll (q : Nat) : Nat → State → State
  | 0, s => s
  | n + 1, s =>
    let qu := s.queue q
    if qu.enable && qu.assigned && s.outbound && qu.sqHead != qu.sqTail then State.fetchAll q n (s.fetchOne q) else s

/-! Cores (R247, R268 to R272). -/

/-- Logical cores in service and not under test. -/
def State.presentCores (s : State) : List Nat :=
  s.cores.filterMap fun c => if c.st == .enabled && !c.testing then c.logical else none

/-- The queue whose command holds a logical core. -/
def State.holder (s : State) (l : Nat) : Option Nat :=
  (s.queues.zipIdx.find? fun x => x.1.fifo.any fun c => c.cores.contains l).map (·.2)

/-- Logical cores held by commands. -/
def State.heldCores (s : State) : List Nat := s.queues.flatMap fun x => x.fifo.flatMap (·.cores)

/-- Partition that holds a logical core in its sets. -/
def State.ownerOf (s : State) (l : Nat) : Option Nat :=
  (s.parts.zipIdx.find? fun x => x.1.admitted && (x.1.general.contains l || x.1.c0Set.contains l)).map (·.2)

/-- The cores of the set that a class's commands are cut for, in ascending logical number: the class-0 set, or all the partition's cores (R118, R268). -/
def State.cutSet (s : State) (p cls : Nat) : List Nat := ascending (if cls = 0 then (s.part p).c0Set else (s.part p).coreSet)

/-- The chain of a product holds RMSNORM, so that one tile takes all N columns (R118, R135). -/
def State.entryNorms (s : State) (p : Nat) (b : Bytes) (x w : Opd) : Bool :=
  if field b 50 6 = 0 then false else
    match s.readChain p (field b 50 6) x.fmt (if w.fmt = fINT8 then fINT32 else 0) with
    | .ok ch => ch.norms
    | .error _ => false

/-- The pieces of a product by core of its set, from the shapes of its operands; a command whose descriptors cannot be read counts as one tile (R118; log entry 17). -/
def State.productPieces (s : State) (p cls : Nat) (b : Bytes) : List (List (Nat × Nat)) :=
  let n := (s.cutSet p cls).length
  match s.operand p (field b 32 6) false, s.operand p (field b 38 6) false with
  | .ok x, .ok w =>
    let (mt, nt) := cutTiles x.shape.1 w.shape.2 (s.entryNorms p b x w)
    cutPieces (mt * nt) (cutCount (mt * nt) x.shape.2 n) n
  | _, _ => cutPieces 1 1 n

/-- The pieces of a command by core of its set: a product its cut, a chained product one tile (R153), a finish and an optimiser step one for each core of the general set, the others none (R304; log entry 17). -/
def State.piecesOf (s : State) (p cls : Nat) (b : Bytes) : List (List (Nat × Nat)) :=
  let op := entOp b
  let set := s.cutSet p cls
  if op = cPRODUCT then s.productPieces p cls b
  else if op = cCHAINED then cutPieces 1 1 set.length
  else if op = cFINISH ∨ op = cOPTIMISER then set.map fun l => if (s.part p).general.contains l then [(l, 0)] else []
  else set.map fun _ => []

/-- The cores of a command's cut that have pieces, with them, `here` saying which cores of the set are present (R118). -/
def State.dealt (s : State) (p cls : Nat) (b : Bytes) (here : Nat → Bool) : List (Nat × List (Nat × Nat)) :=
  (dealPieces ((s.cutSet p cls).map fun l => (l, here l)) (s.piecesOf p cls b)).filter fun x => !x.2.isEmpty

/-- The command runs on cores. -/
def State.needsCores (s : State) (p cls : Nat) (b : Bytes) : Bool := (s.piecesOf p cls b).any fun x => !x.isEmpty

/-- The gradient set that a command names (R161). -/
def State.gsetOf (s : State) (b : Bytes) : Option Nat :=
  let op := entOp b
  if op = cPRODUCT then (if field b 62 6 = 0 then none else some (field b 62 6))
  else if op = cEXCHANGE ∨ op = cFINISH then some (field b 32 6)
  else if op = cOPTIMISER then some (s.dev.num (field b 32 6 + 32) 6)
  else none

/-- An earlier admitted operation on the same gradient set is still in the queues (R161). -/
def State.gsetBusy (s : State) (p : Nat) (c : Cmd) : Bool :=
  match s.gsetOf c.entry with
  | none => false
  | some g => s.queues.any fun x => x.assigned && x.part == p && x.fifo.any fun d => decide (d.no < c.no) && s.gsetOf d.entry == some g

/-- WAIT of R256 is satisfied. -/
def State.waitDone (s : State) (b : Bytes) : Bool :=
  !entWaitEn b || decide (((s.queue (entWaitQ b)).seq + 2 ^ 32 - entWaitSeq b) % 2 ^ 32 < 2 ^ 31)

/-- The commands that pass through the steward's slow path (R257). -/
def slowOp (b : Bytes) : Bool := [cMAP, cUNMAP, cREGISTER, cRELEASE, cSTREAM].contains (entOp b)

/-- The head command of a queue could start if its cores, and the slow path for a command that passes through it, were free (R255, R256, R161, R190, R427). -/
def State.ready (s : State) (q : Nat) : Bool :=
  let qu := s.queue q
  match qu.fifo.head? with
  | none => false
  | some c =>
    qu.assigned && c.phase == .queued && c.verdict == 0 && qu.heldRecs.isEmpty && !(s.part qu.part).stream.held && !s.power.tripped &&
      s.waitDone c.entry && !s.gsetBusy qu.part c

/-- Queues of partition `p` with a ready head, of class 0 or of classes 1 to 3. -/
def State.readyQueues (s : State) (p : Nat) (c0 : Bool) : List Nat :=
  (s.queues.zipIdx.filter fun x => x.1.assigned && x.1.part == p && (x.1.cls == 0) == c0 && s.ready x.2).map (·.2)

/-- Engines and memories of logical cores, cleared as the cores pass between partitions and as a run is discarded (R119, R449). -/
def State.clearEngines (s : State) (ls : List Nat) : State :=
  if ls.isEmpty then s
  else
    let phys := s.cores.zipIdx.filterMap fun x => match x.1.logical with | some l => if ls.contains l then some x.2 else none | none => none
    (s.setEngines (s.engines.filter fun e => !phys.contains e.1)).setCoreMems (s.coreMems.filter fun e => !phys.contains e.1)

/-- The island record is that of a core among the logical ones `ls` that is closing or closed, with nothing held: the claim wakes it. -/
def State.claims (s : State) (ls : List Nat) (r : IslandRec) : Bool :=
  match r.island with
  | .core p => (r.st == .closing || r.st == .closed) && r.held.isEmpty && (match (s.core p.val).logical with | some l => ls.contains l | none => false)
  | _ => false

/-- The claims of a command's cores abandon a close of their islands, or wake them (R393, R394). -/
def State.openIslands (s : State) (ls : List Nat) : State :=
  let l := s.fabric.islands.filter (s.claims ls)
  if l.isEmpty then s
  else (s.setOut (s.out ++ (l.filter fun r => r.st == .closing).map fun r => .closeAbandoned r.island)).setFabric { s.fabric with islands := s.fabric.islands.filter fun r => !s.claims ls r }

/-- Cores that a command takes leave their idle state (R429). -/
def State.wakeCores (s : State) (ls : List Nat) : State :=
  let s := s.openIslands ls
  if s.cores.any fun c => c.idle != .s0 && (match c.logical with | some l => ls.contains l | none => false) then
    s.setCores (s.cores.map fun c => match c.logical with | some l => if ls.contains l then { c with idle := .s0 } else c | none => c)
  else s

/-- Of some logical cores, those that hold no command are clock-gated where the tolerance allows it (S1, R429, R430). -/
def State.restCores (s : State) (ls : List Nat) : State :=
  if s.power.tolUs < latS1 then s
  else s.setCores (s.cores.map fun c => match c.logical with
    | some l => if c.idle == .s0 && !c.testing && ls.contains l && (s.holder l).isNone then { c with idle := .s1 } else c
    | none => c)

/-- The slabs of a stationary operand that a piece reads: those of its K range and its columns (R82, R117, R118). -/
def Opd.pieceSlabs (w : Opd) (mt k n c : Nat) (norms : Bool) (piece : Nat × Nat) : List Nat :=
  let k0 := 64 * ((List.range piece.2).map (rangeSteps (ceilDiv k 64) c)).sum
  let k1 := min k (k0 + 64 * rangeSteps (ceilDiv k 64) c piece.2)
  let n0 := if norms then 0 else 256 * (piece.1 / max 1 mt)
  let n1 := if norms then n else min n (n0 + 256)
  let rows := if w.trans then (n0, n1) else (k0, k1)
  let cols := if w.trans then (k0, k1) else (n0, n1)
  let lo := elemBytes w.fmt cols.1
  let hi := elemBytes w.fmt cols.2
  ((List.range (rows.2 - rows.1)).flatMap fun i =>
    if lo < hi then spanSlabs (w.byteAddr (rows.1 + i) lo) (hi - lo) else []).dedup

/-- Stationary slabs of partition `p` that no core has yet are taken by the cores of their pieces (R210). -/
def State.keepPieces (s : State) (p : Nat) (pairs : List (Nat × Nat)) : State :=
  if pairs.isEmpty then s
  else s.setSlabs (s.mem.slabs.map fun y =>
    if y.pieceCore.isNone && y.part == p then { y with pieceCore := (pairs.find? fun z => z.1 == y.key).map (·.2) } else y)

/-- K parts of the pieces that cores hold. -/
def partsOf (cores : List (Nat × List (Nat × Nat))) : Nat :=
  match cores.flatMap (·.2) with | [] => 1 | l => 1 + l.foldl (fun a y => max a y.2) 0

/-- The stationary slabs of the pieces that cores hold, each with its core. -/
def State.slabPairs (s : State) (p : Nat) (b : Bytes) (cores : List (Nat × List (Nat × Nat))) (x w : Opd) : List (Nat × Nat) :=
  cores.flatMap fun y => y.2.flatMap fun t =>
    (w.pieceSlabs (ceilDiv x.shape.1 256) x.shape.2 w.shape.2 (partsOf cores) (s.entryNorms p b x w) t).map fun key => (key, y.1)

/-- Assign the pieces of a product to the cores that run them: a stationary slab keeps its core while it is mapped (R210). -/
def State.assignPieces (s : State) (p : Nat) (b : Bytes) (cores : List (Nat × List (Nat × Nat))) : State :=
  okOr (s.operand p (field b 32 6) false) s fun x => okOr (s.operand p (field b 38 6) false) s fun w => s.keepPieces p (s.slabPairs p b cores x w)

/-- The core of a chained product takes the slabs of its K and V, its stationary operands (R149, R210). -/
def State.assignAttn (s : State) (p : Nat) (b : Bytes) (cores : List (Nat × List (Nat × Nat))) : State :=
  okOr (s.attnSet p b) s fun x => match cores.head? with | none => s | some c => s.keepPieces p ((x.2.2.w.slabs ++ x.2.1.slabs).dedup.map fun k => (k, c.1))

/-- The cores of a command take the stationary slabs of its pieces (R210). -/
def State.assignOn (s : State) (p : Nat) (b : Bytes) (cores : List (Nat × List (Nat × Nat))) : State :=
  if entOp b = cPRODUCT then s.assignPieces p b cores else if entOp b = cCHAINED then s.assignAttn p b cores else s

/-- The vector engines of logical cores have no tile in progress (R138). -/
def State.newTiles (s : State) (ls : List Nat) : State :=
  if s.engines.isEmpty then s
  else s.setEngines (s.engines.map fun e =>
    if (match (s.core e.1).logical with | some l => ls.contains l | none => false) then (e.1, { e.2 with tile := none, tiles := 0 }) else e)

/-- The head command of queue `q` starts on the given cores, each with its pieces (R118, R261, R268, R276). -/
def State.startHead (s : State) (q : Nat) (on : List (Nat × List (Nat × Nat))) : State :=
  let p := (s.queue q).part
  let own := (s.part p).coreSet
  let cores := on.map (·.1)
  let s := ((s.clearEngines (cores.filter fun l => !own.contains l)).newTiles cores).wakeCores cores
  s.modHead q fun c => { c with
    phase := .started, cores := cores, pieces := on.map (·.2), unmapped := [], placed := false, coreFrom := s.nowUs, attempts := satAdd 255 c.attempts 1, ran := false
    startUs := match c.startUs with | some t => some t | none => some s.nowUs
    waitUs := s.waitOf c, waitFrom := none }

/-- The head command of queue `q` gives its cores back; the queue's and the borrower's virtual times advance (R263 step 1, R269, R270). -/
def State.releaseCores (s : State) (q : Nat) : State :=
  match s.head? q with
  | none => s
  | some c =>
    if c.cores.isEmpty then s
    else
      let qu := s.queue q
      let pt := s.part qu.part
      let own := pt.coreSet
      let dt := s.nowUs - c.coreFrom
      let w := (if qu.cls = 0 then 1 else pt.weights.getD (qu.cls - 1) 1) * max 1 qu.qweight
      let lent := c.cores.filter fun l => !own.contains l
      let s := s.clearEngines lent
      let s := s.modPart qu.part fun x => { x with borrowVt := x.borrowVt + (lent.length * dt : Nat) / (max 1 x.cores : Nat) }
      ((s.modQueue q fun x => { x with vt := x.vt + (c.cores.length * dt : Nat) / (w : Nat) }).modHead q fun c => { c with cores := [] }).restCores c.cores

/-! Ending a run without a commit (R264, R265). -/

/-- Abort notices for the windows that the head command of `q` has sent tiles to (R148, R291). -/
def State.abortNotices (s : State) (q : Nat) : State :=
  match s.head? q with
  | none => s
  | some c =>
    let p := (s.queue q).part
    (c.staged.sends.filter fun t => t.started && s.hasPeer t.ep).foldl (fun s t =>
      (s.sendNotice t.ep t.part (s.queue q).cls ((s.axisOf p t.cut).getD anyAxis) p 2 t.window t.attempt 0 (entTag c.entry)).1) s

/-- The steward has answered the request of the head command of `q`: its place in the slow path is free (R273, R491). -/
def State.answerSlow (s : State) (q : Nat) : State :=
  if ((s.head? q).map (·.slow)).getD false then (s.releaseCredit 3 (s.queue q).part 1).modHead q fun c => { c with slow := false } else s

/-- Discard what the head command of `q` has done: staging slabs, tiles, collective, credits and cores (R264, R265 step 3). -/
def State.discardRun (s : State) (q : Nat) : State :=
  let s := (s.abortNotices q).abortColl q
  let s := (s.clearEngines (((s.head? q).map (·.cores)).getD [])).releaseCores q
  let s := (s.dropWaiting q).answerSlow q
  let n := ((s.head? q).map (·.hubUnits)).getD 0
  let s := s.releaseCredit 1 (s.queue q).part n
  s.modHead q fun c => { c with staged := {}, ran := false, tileWait := false, hubUnits := 0 }

/-- POOL_WAIT reads 1 while a commit of the partition waits for a retained slab: a command's, or an attempt's into a window (R177, R193). -/
def State.fixPoolWait (s : State) (p : Nat) : State :=
  let w := (s.queues.any fun q => q.assigned && q.part == p && (match q.fifo.head? with | some c => c.phase == .poolWait | none => false)) ||
    (s.part p).windows.any fun w => w.tries.any (·.poolWait)
  if (s.part p).stream.poolWait = w then s else s.modStream p fun st => { st with poolWait := w }

/-- Drop the head command of a queue. -/
def State.popHead (s : State) (q : Nat) : State := s.modQueue q fun x => { x with fifo := x.fifo.tail, cqFull := false, idle := x.idle || x.fifo.tail.isEmpty }

/-- The head command of `q` ends with a status that is final: its record is written, or waits for ring room (R261, R263). -/
def State.endFinal (s : State) (q status : Nat) : State :=
  match s.head? q with
  | none => s
  | some c =>
    if (s.queue q).ringRoom then (s.popHead q).complete q c status
    else (s.modHead q fun c => { c with phase := .ringWait, result := status, waitFrom := some (c.waitFrom.getD s.nowUs) }).modQueue q fun x => { x with cqFull := true }

/-- The head command of `q` ends with an error status and commits nothing: it is re-run while bit 7 and RETRY_MAX allow, else its record is written (R264, R267). -/
def State.endCmd (s : State) (q status : Nat) : State :=
  let s := s.discardRun q
  match s.head? q with
  | none => s
  | some c =>
    (if bit status 7 && status != 0x0485 && !entNoRetry c.entry && decide (c.reruns < (s.queue q).retryMax) then
      s.modHead q fun c => { c with phase := .queued, reruns := c.reruns + 1, waitUs := s.waitOf c, waitFrom := none }
    else s.endFinal q status).fixPoolWait (s.queue q).part

/-- The running head command of `q` is pre-empted: no record, re-run at the head of its queue (R266, R276, R277). -/
def State.preempt (s : State) (q : Nat) : State :=
  let cores := ((s.head? q).map (·.cores)).getD []
  let s := (s.linkSend (s.coreMessages (s.queue q).part cores)).discardRun q
  (s.modHead q fun c => { c with phase := .queued, waitUs := s.waitOf c, waitFrom := some s.nowUs }).modAcct q fun a => { a with preempt := sat32 a.preempt 1 }

/-! The scheduler (R268 to R272). -/

/-- Queue of least virtual time, ties to the lower number (R269). -/
def State.leastVt (s : State) (l : List Nat) : Option Nat :=
  l.foldl (fun b q => match b with
    | none => some q
    | some m => if (s.queue q).vt < (s.queue m).vt ∨ ((s.queue q).vt = (s.queue m).vt ∧ q < m) then some q else b) none

/-- A command that runs on cores is ready in partition `p`, of class 0 or of classes 1 to 3 (R270). -/
def State.wantsCores (s : State) (p : Nat) (c0 : Bool) : Bool :=
  (s.readyQueues p c0).any fun q => match s.head? q with | some c => s.needsCores p (s.queue q).cls c.entry | none => false

/-- Idle cores of other partitions that may be lent to partition `p`: no command is on them or ready for them (R270). -/
def State.lendable (s : State) (p : Nat) (present held : List Nat) : List Nat :=
  (s.parts.zipIdx.filter fun x => x.1.admitted && x.2 != p).flatMap fun x =>
    (if s.wantsCores x.2 false then [] else x.1.general) ++ (if s.wantsCores x.2 true then [] else x.1.c0Set) |>.filter
      fun l => present.contains l && !held.contains l

/-- A core for each core of the cut: itself where `keep` has it, else the next of the pool (log entry 89). -/
def fillCores (keep : List Nat) : List Nat → List Nat → Option (List Nat)
  | [], _ => some []
  | w :: r, pool =>
    if keep.contains w then (fillCores keep r pool).map (w :: ·)
    else match pool with
      | [] => none
      | x :: xs => (fillCores keep r xs).map (x :: ·)

/-- The cores on which the head of a class 1 to 3 queue can start now, one for each core of its cut: free ones of the general set, then lent ones (R118, R268, R270). -/
def State.coresFor (s : State) (q : Nat) : Option (List Nat) :=
  match s.head? q with
  | none => none
  | some c =>
    let qu := s.queue q
    if !s.needsCores qu.part qu.cls c.entry then some []
    else
      let present := s.presentCores
      let held := s.heldCores
      let want := (s.dealt qu.part qu.cls c.entry present.contains).map (·.1)
      let free := (ascending (s.part qu.part).general).filter fun l => present.contains l && !held.contains l
      let keep := want.filter free.contains
      if want.isEmpty then none
      else fillCores keep want ((free.filter fun l => !keep.contains l) ++
        if want.length ≤ free.length then [] else ascending (s.lendable qu.part present held))

/-- The borrowing command that started most recently on cores of partition `p`'s general set (R270). -/
def State.lastBorrower (s : State) (p : Nat) : Option Nat :=
  let set := (s.part p).general
  let l := s.queues.zipIdx.filter fun x => x.1.part != p && x.1.cls != 0 &&
    (match x.1.fifo.head? with | some c => c.phase == .started && c.cores.any fun l => set.contains l | none => false)
  let from_ : Nat → Nat := fun q => ((s.head? q).map (·.coreFrom)).getD 0
  (l.map (·.2)).foldl (fun b q => match b with | none => some q | some m => if from_ m < from_ q then some q else b) none

/-- Take back lent cores for partition `p` until the head of `q` can start or nothing more is lent (R270). -/
def State.reclaim (q p : Nat) : Nat → State → State
  | 0, s => s
  | n + 1, s =>
    if (s.coresFor q).isSome then s
    else match s.lastBorrower p with
      | none => s
      | some v => State.reclaim q p n (s.preempt v)

/-- Taking back every lent core would let the head of `q` start (R270). -/
def State.reclaimHelps (s : State) (q p : Nat) : Bool :=
  match s.head? q with
  | none => false
  | some c =>
    let present := s.presentCores
    let need := (s.dealt p (s.queue q).cls c.entry present.contains).length
    let mine := (s.part p).general.filter fun l => present.contains l
    let ownHeld := (s.queues.filter fun x => x.assigned && x.part == p).flatMap fun x => x.fifo.flatMap (·.cores)
    let c0Held := (s.queues.filter fun x => x.cls == 0).flatMap fun x => x.fifo.flatMap (·.cores)
    decide (need ≤ (mine.filter fun l => !ownHeld.contains l && !c0Held.contains l).length + (s.lendable p present s.heldCores).length)

/-- Prefer the B-die of the missing core, then the highest logical number (R272). -/
def preferCore (missing : Nat) (l : List Nat) : Option Nat :=
  let hi : List Nat → Option Nat := fun l => l.foldl (fun b x => match b with | none => some x | some m => if m < x then some x else b) none
  match hi (l.filter fun x => x / 200 == missing / 200) with | some x => some x | none => hi l

/-- Record a broken guarantee of partition `v`, against the command that lost a core when there is one (R272, R277). -/
def State.broken (s : State) (v : Nat) (q : Option Nat) : State :=
  let s := s.modPart v fun p => { p with acct := { p.acct with broken := sat32 p.acct.broken 1 } }
  let s := match q with
    | none => s
    | some q => s.modQueue q fun x => { x with acct := { x.acct with broken := sat32 x.acct.broken 1 } }
  s.event 3 0x0410 (some v) noDetail

/-- Queue of the running command of class `k` on the fewest cores of partitions other than `p`'s own general set, among commands on another partition's general set (R272 case d). -/
def State.victimOf (s : State) (p k : Nat) (usable : List Nat) : Option Nat :=
  let l := s.queues.zipIdx.filter fun x => x.1.cls == k &&
    (match x.1.fifo.head? with
     | some c => c.phase == .started && c.cores.any fun l => usable.contains l && s.ownerOf l != some p
     | none => false)
  let n : Nat → Nat := fun q => ((s.head? q).map (·.cores.length)).getD 0
  (sortBy (fun a b => decide ((s.queue a.2).part < (s.queue b.2).part ∨ ((s.queue a.2).part = (s.queue b.2).part ∧ a.2 ≤ b.2))) l).map (·.2) |>.foldl
    (fun b q => match b with | none => some q | some m => if n q < n m then some q else b) none

/-- A claim of cores in progress: what each core of the cut has been given, the cores taken, the victim partitions with the queue that lost a core first, and the cores that case (d) has freed (R272 step 3). -/
structure Claim where
  given : List (Nat × Option Nat) := []
  taken : List Nat := []
  victims : List (Nat × Option Nat) := []
  freed : List Nat := []
  deriving DecidableEq, Repr

/-- Note that a core of partition `o` was taken, and from which queue. -/
def Claim.victim (c : Claim) (o : Nat) (q : Option Nat) : Claim :=
  { c with victims := if c.victims.any (fun v => v.1 == o) then c.victims.map fun v => if v.1 = o ∧ v.2 = none then (o, q) else v else c.victims ++ [(o, q)] }

/-- Give core `x` for core `l` of the cut. -/
def Claim.give (c : Claim) (l x : Nat) : Claim := { c with given := c.given ++ [(l, some x)], taken := c.taken ++ [x] }

/-- Take core `l` from whatever command holds it. -/
def State.freeCore (s : State) (l : Nat) : State := match s.holder l with | some v => s.preempt v | none => s

/-- A replacement for the missing core `l` of partition `p`'s class-0 set, in the order of R272 step 3. -/
def State.replace (s : State) (p l : Nat) (c : Claim) : Claim × State :=
  let present := s.presentCores.filter fun x => !c.taken.contains x
  let held := s.heldCores
  let free := present.filter fun x => !held.contains x
  let c0Sets := s.parts.flatMap fun x => if x.admitted then x.c0Set else []
  let c0Held := (s.queues.filter fun x => x.cls == 0).flatMap fun x => x.fifo.flatMap (·.cores)
  let ownHeld := (s.queues.filter fun x => x.assigned && x.part == p).flatMap fun x => x.fifo.flatMap (·.cores)
  let mine := (s.part p).general.filter fun x => present.contains x && !c0Held.contains x
  let others := present.filter fun x => !c0Sets.contains x && !c0Held.contains x && (match s.ownerOf x with | some o => o != p | none => false)
  let idle := others.filter fun x => !held.contains x && (match s.ownerOf x with | some o => !s.wantsCores o false | none => false)
  match preferCore l (free.filter fun x => (s.ownerOf x).isNone) with
  | some x => (c.give l x, s)
  | none => match preferCore l (mine.filter fun x => !held.contains x) with
  | some x => (c.give l x, s)
  | none => match preferCore l (mine.filter fun x => !ownHeld.contains x) with
  | some x => (c.give l x, s.freeCore x)
  | none => match preferCore l mine with
  | some x => (c.give l x, s.freeCore x)
  | none => match preferCore l idle with
  | some x => ((c.give l x).victim ((s.ownerOf x).getD 0) none, s)
  | none => match preferCore l (c.freed.filter fun x => free.contains x) with
  | some x => ((c.give l x).victim ((s.ownerOf x).getD 0) none, s)
  | none => match [3, 2, 1].findSome? fun k => s.victimOf p k others with
  | none => ({ c with given := c.given ++ [(l, none)] }, s)
  | some v =>
    let cs := (((s.head? v).map (·.cores)).getD []).filter others.contains
    match preferCore l cs with
    | none => ({ c with given := c.given ++ [(l, none)] }, s)
    | some x => (({ c with freed := c.freed ++ cs }.give l x).victim ((s.ownerOf x).getD 0) (some v), s.preempt v)

/-- Claim the cores of a class-0 command: its set's present cores, lent ones by pre-emption, and replacements for the missing (R272 step 3). -/
def State.claim (p : Nat) : List Nat → Claim → State → Claim × State
  | [], c, s => (c, s)
  | l :: r, c, s =>
    if s.presentCores.contains l then State.claim p r (c.give l l) (s.freeCore l)
    else let (c, s) := s.replace p l c; State.claim p r c s

/-- Start the head of a class-0 queue, unless its set's cores run another class-0 command; the pieces of a core with no replacement run on the others of the set (R118, R271, R272). -/
def State.startC0 (s : State) (q : Nat) : Option State :=
  match s.head? q with
  | none => none
  | some c =>
    let p := (s.queue q).part
    if !s.needsCores p 0 c.entry then some (s.startHead q [])
    else
      let want := (s.dealt p 0 c.entry fun _ => true).map (·.1)
      let busy := (s.part p).c0Set.any fun l => match s.holder l with | some v => (s.queue v).cls == 0 | none => false
      if busy then none
      else
        let (cl, s) := State.claim p want {} s
        let gone := cl.given.filterMap fun g => if g.2.isNone then some g.1 else none
        let present := s.presentCores
        let cut := s.dealt p 0 c.entry fun l => if want.contains l then !gone.contains l else gone.isEmpty || present.contains l
        let on : Nat → Nat := fun l => ((cl.given.find? fun g => g.1 == l).bind (·.2)).getD l
        let cores := cut.map fun x => (on x.1, x.2)
        if cores.isEmpty then none
        else
          let s := (cores.filter fun x => !cl.taken.contains x.1).foldl (fun s x => s.freeCore x.1) s
          let s := cl.victims.foldl (fun s v => s.broken v.1 v.2) s
          let s := s.linkSend (s.coreMessages p (cores.map (·.1)))
          some ((s.assignOn p c.entry cores).startHead q cores)

/-- Start the head of a class 1 to 3 queue on the given cores. -/
def State.startOn (s : State) (q : Nat) (cores : List Nat) : State :=
  match s.head? q with
  | none => s
  | some c =>
    let p := (s.queue q).part
    let on := List.zip cores ((s.dealt p (s.queue q).cls c.entry s.presentCores.contains).map (·.2))
    (s.assignOn p c.entry on).startHead q on

/-- The commands whose results go to staging slabs (R204). -/
def stagesSlabs (b : Bytes) : Bool := [cPRODUCT, cCHAINED, cCOLLECTIVE, cEXCHANGE, cFINISH, cOPTIMISER, cCOPYIN, cCOPY].contains (entOp b)

/-- A command of classes 1 to 3 needs a placement so that it can start: the staging pools that it draws from lack frames, which the steward's policy has not yet refilled (R213, R217; log entry 105). -/
def State.needsPlace (s : State) (q : Nat) (c : Cmd) : Bool :=
  let p := (s.queue q).part
  (s.queue q).cls != 0 && !c.placed && stagesSlabs c.entry && (s.poolShort p .t1 0 != 0 || s.poolShort p .t2 0 != 0)

/-- The head of a ready queue can start: a command of the slow path holds its place in it, and no placement is missing (R217, R273, R491). -/
def State.mayStart (s : State) (q : Nat) : Bool :=
  match s.head? q with | some c => (!slowOp c.entry || c.slow) && !s.needsPlace q c | none => false

/-- The head of a ready queue is a product that does not fit the core store: it is rejected before it starts (R145). -/
def State.unfit (s : State) (q : Nat) : Bool :=
  match s.head? q with
  | none => false
  | some c =>
    let qu := s.queue q
    s.ready q &&
      (if entOp c.entry = cPRODUCT then (match s.prodSet qu.part qu.cls c.entry with | .error e => e == 0x0104 | .ok _ => false)
       else if entOp c.entry = cCHAINED then (match s.attnSet qu.part c.entry with | .error e => e == 0x0104 | .ok _ => false)
       else false)

/-- One action of the scheduler: an entry that failed its checks or does not fit ends, a class-0 command starts, or a class 1 to 3 command starts, taking back lent cores when it must. -/
def State.scheduleStep (s : State) : Option State :=
  match s.queues.zipIdx.find? fun x => x.1.heldRecs.isEmpty && (match x.1.fifo.head? with | some c => c.phase == .queued && c.verdict != 0 | none => false) with
  | some (x, q) => some (s.endFinal q ((x.fifo.head?.map (·.verdict)).getD 0))
  | none => match (List.range s.queues.length).find? s.unfit with
  | some q => some (s.endFinal q 0x0104)
  | none => match (List.range 16).findSome? fun p => (s.readyQueues p true).findSome? fun q => s.startC0 q with
  | some s' => some s'
  | none =>
    let order := sortBy (fun a b => decide ((s.part a).borrowVt ≤ (s.part b).borrowVt)) (List.range 16)
    match order.findSome? fun p =>
      (s.leastVt ((s.readyQueues p false).filter fun q => s.mayStart q && (s.coresFor q).isSome)).bind fun q => (s.coresFor q).map fun cs => s.startOn q cs with
    | some s' => some s'
    | none =>
      (List.range 16).findSome? fun p =>
        (s.leastVt ((s.readyQueues p false).filter fun q => s.mayStart q && s.reclaimHelps q p && (s.lastBorrower p).isSome)).bind fun q =>
          let s' := State.reclaim q p 64 s
          (s'.coresFor q).map fun cs => s'.startOn q cs

/-- Least of a list of virtual times. -/
def leastOf : List Rat → Option Rat
  | [] => none
  | x :: r => some (r.foldl (fun a y => if y < a then y else a) x)

/-- Queue `q` becomes ready after being idle: it starts at the least virtual time among its partition's ready queues (R269). -/
def State.readyQueue (s : State) (q : Nat) : State :=
  let qu := s.queue q
  if qu.fifo.isEmpty then (if qu.idle then s else s.modQueue q fun x => { x with idle := true })
  else if qu.idle && s.ready q then
    let l := (s.readyQueues qu.part false).filter fun x => !(s.queue x).idle
    s.modQueue q fun x => { x with idle := false, vt := (leastOf (l.map fun x => (s.queue x).vt)).getD x.vt }
  else s

/-- Partition `p` becomes a borrower after being idle, with no command in its queues of classes 1 to 3: it starts at the least virtual time among those with ready commands (R269, R270). -/
def State.readyPart (s : State) (p : Nat) : State :=
  let busy := s.queues.any fun x => x.assigned && x.part == p && x.cls != 0 && !x.fifo.isEmpty
  if !busy then (if (s.part p).borrowIdle then s else s.modPart p fun x => { x with borrowIdle := true })
  else if (s.part p).borrowIdle && !(s.readyQueues p false).isEmpty then
    let l := (List.range 16).filter fun x => !(s.part x).borrowIdle && !(s.readyQueues x false).isEmpty
    s.modPart p fun x => { x with borrowIdle := false, borrowVt := (leastOf (l.map fun y => (s.part y).borrowVt)).getD x.borrowVt }
  else s

/-- The steward serves the head of `q` in its slow path: a command that passes through it keeps its place until it is answered, and a placement is made and its place given back (R217, R273, R491). -/
def State.serveSlow (s : State) (q : Nat) : State :=
  let p := (s.queue q).part
  let s := s.modAdm fun a => { a with slowVt := updAt a.slowVt p fun v => v + 1 / (max 1 (s.part p).cores : Nat) }
  if (match s.head? q with | some c => slowOp c.entry | none => false) then s.modHead q fun c => { c with slow := true }
  else ((s.refill p).releaseCredit 3 p 1).modHead q fun c => { c with placed := true }

/-- Ready commands of the slow path, and those that need a placement, ask for it: partitions in the order of what has been served to each over its CORES; one that is refused waits (R217, R274, R276, R491; log entry 90). -/
def State.askSlow (s : State) : State :=
  let parts := sortBy (fun a b => decide (s.adm.slowVt.getD a 0 ≤ s.adm.slowVt.getD b 0)) (List.range 16)
  (parts.flatMap fun p => s.readyQueues p false).foldl (fun s q =>
    if s.mayStart q then s
    else
      let (ok, s) := s.askCredit 3 (s.queue q).part (s.queue q).cls 1 q
      if ok then s.serveSlow q else s.beginWait q) s

/-- What becomes ready is noted before the scheduler chooses. -/
def State.noteReady (s : State) : State :=
  let s := (List.range s.queues.length).foldl State.readyQueue s
  ((List.range 16).foldl State.readyPart s).askSlow

/-- Let the scheduler act until nothing more can start. -/
def State.schedule : Nat → State → State
  | 0, s => s
  | n + 1, s => match s.scheduleStep with | some s' => State.schedule n s' | none => s

/-- The scheduler runs whenever something has changed; each action starts or ends a command, so this many suffice for 64 queues. -/
def State.kick (s : State) : State := State.schedule 256 s.noteReady

end Sys2Proof.Machine
end

