-- ==== Sys2Proof/Machine/Commit.lean ====
section
/-! DEFINITION. Staging, commit, kill and partition reset, shared by the commands of the queues and by the receive windows (R148, R213, R251, R263 to R267). -/

namespace Sys2Proof.Machine

/-! Staging slabs (R206, R213, R237, R272). -/

/-- Staging slabs of a tier that class 1 to 3 commands and receive windows hold. -/
def State.lowStaging (s : State) (p : Nat) (t : Tier) : Nat :=
  (((s.queues.filter fun q => q.assigned && q.part == p && q.cls != 0).flatMap fun q => q.fifo.flatMap fun c => c.staged.slabs) ++
    ((s.part p).windows.flatMap fun w => w.tries.flatMap fun t => t.slabs)).filter (fun x => x.2.1 == t) |>.length

/-- The staging pool of a tier has a slab for a client of class `cls`; C0_STAGE is kept for class 0 (R245, R272). -/
def State.poolHas (s : State) (p cls : Nat) (t : Tier) : Bool :=
  let pt := s.part p
  let n := ((s.stagingOf p).filter fun x => x.2.1 == t).length
  match t with
  | .t1 => decide (n < pt.stageT1) && (cls == 0 || decide (s.lowStaging p .t1 < pt.stageT1 - pt.c0Stage))
  | .t2 => decide (n < pt.stageT2)
  | _ => false

/-- The options that `f` admits, or all when it admits none. -/
def preferOpts {α : Type} (f : α → Bool) (l : List α) : List α := let m := l.filter f; if m.isEmpty then l else m

/-- Slabs of the staging pool of a tier. -/
def Part.stageOf (pt : Part) (t : Tier) : Nat := match t with | .t1 => pt.stageT1 | .t2 => pt.stageT2 | _ => 0

/-- The placements open to a staging slab in the tiers it may take: a class-0 command's lie in T1, where it has a pool (R218, R272), and a tensor of R156 goes to its tier while that has room, waiting for the tier's pool. -/
def State.tierOptions (s : State) (p cls : Nat) (t1Only : Bool) (home : Option Tier) : List (Tier × Option Nat) :=
  let o := s.placeOptions p t1Only
  let in_ : Tier → List (Tier × Option Nat) → List (Tier × Option Nat) := fun t => List.filter fun x => x.1 == t
  if cls = 0 then (if (s.part p).stageT1 = 0 then o else in_ .t1 o)
  else match home with
    | some t => if (s.part p).stageOf t = 0 then o else preferOpts (fun x => x.1 == t) o
    | none => o

/-- Take a staging slab from the pools. A slab with a B-die, that of the piece or command which reads it again, lies near it, else interleaved in T1, else in T2; every other one lies interleaved in T1 or in T2, at the engine's choice; a partition none of whose slabs can be interleaved places them near its cores (R206, R210, R212, R213; log entry 6). -/
def State.takeStage (s : State) (p cls : Nat) (t1Only : Bool) (home : Option Tier) (die : Option Nat) : Option (Tier × Option Nat) × State :=
  let o := (s.tierOptions p cls t1Only home).filter fun x => s.poolHas p cls x.1
  let plain := o.filter fun x => x.2.isNone
  let l := if s.onlyNear p then o else plain
  match die with
  | some b => (((o.find? fun x => x.2 == some b).or plain.head?).or l.head?, s)
  | none => if l.isEmpty then (none, s) else let (n, s) := s.draw; (l[n % l.length]?, s)

/-! The slabs that commands name (R210, R232). -/

/-- The device ranges of an operand that a command names: its descriptor and index list, and the data it describes. -/
def State.namedOperand (s : State) (p a : Nat) : List (Nat × Nat) :=
  if a = 0 then []
  else match s.operand p a true with
    | .ok o => o.metaSpans ++ o.spans o.viewRows
    | .error _ => [(a, 4)]

/-- The device ranges that a product's checks read and its stages name: chain, program, buffer plan, parameter blocks, row count, RESIDUAL and ROPE tensors. -/
def ProdSet.named (t : ProdSet) (mc : Nat) : List (Nat × Nat) :=
  t.meta_ ++ (if mc = 0 then [] else [(mc, 4)]) ++ viewSpans (stageViews t.ch t.m t.epi) ++
    (t.epi.filter fun r => slotKind r.st == 3).map fun r => (r.st.paddr, 32768)

/-- The device ranges that an entry of a queue of partition `p` and class `cls` reads, and those that it writes (R210, R232 step 2; log entry 22). -/
def State.namedRanges (s : State) (p cls : Nat) (b : Bytes) : List (Nat × Nat) × List (Nat × Nat) :=
  let op := entOp b
  let d := field b 32 6
  let in_ : Nat → Nat := fun o => s.dev.num (d + o) 6
  let ops : List Nat → List (Nat × Nat) := List.flatMap fun a => s.namedOperand p a
  let chain : Nat → Nat → List (Nat × Nat) := fun c b => (if c = 0 then [] else [(c, 32)]) ++ if b = 0 then [] else [(b, 8)]
  if op = cPRODUCT then
    (ops [d, field b 38 6, field b 56 6] ++ chain (field b 50 6) (field b 74 6) ++ okOr (s.prodSet p cls b) [] fun t => t.named (field b 68 6), ops [field b 44 6])
  else if op = cCHAINED then
    ((d, 48) :: (ops [in_ 24, in_ 30, in_ 36] ++ chain (in_ 42) (field b 44 6) ++ okOr (s.attnSet p b) [] fun t => t.2.2.named (field b 50 6)), ops [field b 38 6])
  else if op = cCOLLECTIVE then ((d, 48) :: ops [in_ 18], ops [in_ 24])
  else if op = cOPTIMISER then ((d, 96) :: ops [in_ 38, in_ 44, in_ 50], ops [in_ 56, in_ 62])
  else if op = cCOPYIN then ([], [(field b 40 6, field b 48 4)])
  else if op = cCOPYOUT then ([(d, field b 48 4)], [])
  else if op = cCOPY then ([(d, field b 48 4)], [(field b 38 6, field b 48 4)])
  else if op = cSTREAM then ([(d, 96)], [])
  else if op = cREGISTER ∨ op = cRELEASE then ([(d, 48)], [])
  else ([], [])

/-- The slabs that an entry names, those of its gradient set among them (R232 step 2). -/
def State.namedBy (s : State) (p cls : Nat) (b : Bytes) : List Nat :=
  let r := s.namedRanges p cls b
  ((r.1 ++ r.2).flatMap fun x => spanSlabs x.1 x.2) ++ ((s.part p).gsets.filter fun g => s.gsetOf b == some g.1).flatMap fun g => g.2.1

/-- Slab numbers that the running and queued commands of partition `p` name, of class 0 or of classes 1 to 3 (R232 step 2). -/
def State.namedSlabs (s : State) (p : Nat) (c0 : Bool) : List Nat :=
  (s.queues.filter fun q => q.assigned && q.part == p && (q.cls == 0) == c0).flatMap fun q =>
    q.fifo.flatMap fun c => c.staged.reads ++ c.staged.slabs.map (·.1) ++ c.staged.need ++ s.namedBy p q.cls c.entry

/-- A later command in the queues of partition `p` reads slab `k`: what the model takes for the same run of commands (R210; log entry 105). -/
def State.readAgain (s : State) (p k : Nat) (c : Cmd) : Bool :=
  s.queues.any fun q => q.assigned && q.part == p && q.fifo.any fun d =>
    decide (c.no < d.no) && (s.namedRanges p q.cls d.entry).1.any fun x => (spanSlabs x.1 x.2).contains k

/-- The B-die that a slab written by the head command `c` is to lie near: that of the piece which reads it as stationary operand, or where it is read again that of the command's first core (R210). -/
def State.dieFor (s : State) (p k : Nat) (c : Cmd) : Option Nat :=
  match (s.slab? k).bind (·.pieceCore) with
  | some l => some (l / 200)
  | none => if s.readAgain p k c then c.cores.head?.map (· / 200) else none

/-- Move evacuating slabs of partition `p` out of their leases, to T2 or T3 while they have room, those that commands name first, class 0 before classes 1 to 3; a slab that was on its way out of a lease under reclaim, and stays, is one of them (R232 step 2). -/
def State.evacuate (s : State) (p : Nat) : State :=
  let back : Slab → Bool := fun x => x.part == p && x.st == .resident && x.tier == some .t4 &&
    (s.part p).leases.any fun l => l.reclaim.isSome && x.lease == some (l.lender, l.id)
  let s := if s.mem.slabs.any back then s.setSlabs (s.mem.slabs.map fun x => if back x then { x with st := .evacuating } else x) else s
  let all := ascending ((s.mem.slabs.filter fun x => x.part == p && x.st == .evacuating).map (·.key))
  let move : Nat → State → Nat → State := fun rank s k => if s.roomIn p .t2 then s.startMove k .t2 0 rank else s.startMove k .t3 0 rank
  if all.isEmpty then s
  else
    let c0 := all.filter (s.namedSlabs p true).contains
    let low := all.filter fun k => (s.namedSlabs p false).contains k && !c0.contains k
    let rest := all.filter fun k => !c0.contains k && !low.contains k
    rest.foldl (move 2) (low.foldl (move 1) (c0.foldl (move 0) s))

/-- A slab whose staging slab must lie in T1: of a PIN region or a registered gradient set (R159, R206). -/
def State.t1Slab (s : State) (k : Nat) : Bool := match s.slab? k with | some x => x.pin || x.gset | none => false

/-- The tier that R156 gives a slab: by the command that writes it, or as an optimiser step left it. -/
def State.homeOf (s : State) (tiers : List (Nat × Tier)) (k : Nat) : Option Tier :=
  ((tiers.find? fun x => x.1 == k).map (·.2)).or ((s.slab? k).bind (·.home))

/-- The pools of partition `p` are refilled for client `who`: for class 0 at once, for the others by the steward's placement, which takes a place in its slow path (R213, R217, R218). -/
def State.refillFor (s : State) (p cls who : Nat) : State :=
  if cls = 0 then s.refill p
  else
    let (ok, s) := s.askCredit 3 p cls 1 who
    if ok then (s.refill p).releaseCredit 3 p 1 else s

/-- Draw the staging slabs that the head command of `q` still needs; it waits where a pool is exhausted, and the engine refills the pool (R213). -/
def State.allocate (q : Nat) : Nat → State → State
  | 0, s => s
  | n + 1, s =>
    match s.head? q with
    | none => s
    | some c =>
      match c.staged.need with
      | [] => s
      | k :: r =>
        let p := (s.queue q).part
        match s.takeStage p (s.queue q).cls (c.staged.t1Only || s.t1Slab k) (s.homeOf c.staged.tiers k) (s.dieFor p k c) with
        | (some x, s) =>
          State.allocate q n (s.modHead q fun c => { c with staged := { c.staged with need := r, slabs := c.staged.slabs ++ [(k, x.1, x.2)] } })
        | (none, s) => (s.beginWait q).refillFor p (s.queue q).cls q

/-! Tiles sent to peer windows (R146, R147, R302). -/

/-- Add activation vectors to Fuelagrim's MACS of a partition (R454). -/
def State.meterVectors (s : State) (p n : Nat) : State := s.setMeter { s.meter with macs := updAt s.meter.macs p fun x => x + n }

/-- Another command of the partition has an attempt open into the same window (R302). -/
def State.windowBusy (s : State) (q : Nat) (t : TileSend) : Bool :=
  s.queues.zipIdx.any fun x => x.2 != q && x.1.assigned && x.1.part == (s.queue q).part &&
    x.1.fifo.any fun c => c.staged.sends.any fun u => u.started && u.ep == t.ep && u.part == t.part && u.window == t.window

/-- Replace the sends of the head command of `q`. -/
def State.setSends (s : State) (q : Nat) (l : List TileSend) : State :=
  s.modHead q fun c => { c with staged := { c.staged with sends := l } }

/-- Bytes of a tile. -/
def tileBytes (l : List (Nat × Bytes)) : Nat := (l.map fun x => x.2.length).sum

/-- The H-die accepts a tile: its pieces are sent and counted (R146, R291). -/
def State.acceptTile (s : State) (q : Nat) (t : TileSend) (l : List (Nat × Bytes)) : State × TileSend :=
  let p := (s.queue q).part
  let r := l.foldl (fun (x : State × List Nat) y =>
    let z := State.sendChunks t.ep t.part (s.queue q).cls ((s.axisOf p t.cut).getD anyAxis) p 0 t.window t.attempt y.2.length y.1 y.2 x.1
    (z.1, x.2 ++ z.2)) (s, [])
  ((r.1.meterBytes p (tileBytes l)).modHead q fun c => { c with hubUnits := c.hubUnits + ceilDiv (tileBytes l) 4096 },
    { t with bytes := t.bytes + tileBytes l, todo := t.todo.tail, seqs := t.seqs ++ r.2 })

/-- Send the tiles of one window while hub-ingress credit lasts (R147, R274). -/
def State.pushWindow (q : Nat) : Nat → TileSend → State → State × TileSend
  | 0, t, s => (s, t)
  | n + 1, t, s =>
    match t.todo with
    | [] => (s, t)
    | l :: _ =>
      match s.askCredit 1 (s.queue q).part (s.queue q).cls (ceilDiv (tileBytes l) 4096) q with
      | (true, s) => let (s, t) := s.acceptTile q t l; State.pushWindow q n t s
      | (false, s) => (s, t)

/-- Go through the windows that the head command of `q` sends to. -/
def State.pushSends (q : Nat) : List TileSend → State → State × List TileSend
  | [], s => (s, [])
  | t :: r, s =>
    if t.todo.isEmpty ∨ (t.started = false ∧ s.windowBusy q t = true) then
      let (s, l) := State.pushSends q r s
      (s, t :: l)
    else
      let (s, t) := if t.started then (s, t) else
        let (n, s) := s.nextAttempt t.ep t.part t.window
        (s, { t with started := true, attempt := n })
      let (s, t) := State.pushWindow q t.todo.length t s
      let (s, l) := State.pushSends q r s
      (s, t :: l)

/-- The head command of `q` has tiles that are not accepted. -/
def State.tilesLeft (s : State) (q : Nat) : Bool :=
  match s.head? q with | some c => c.staged.sends.any fun t => !t.todo.isEmpty | none => false

/-- Hand the tiles of the head command of `q` to the transmit path; it waits while a tile does (R147), and ends when it must send to an endpoint that has no peer entry (R445). -/
def State.pushTiles (s : State) (q : Nat) : State :=
  match s.head? q with
  | none => s
  | some c =>
    if c.staged.sends.any fun t => !s.hasPeer t.ep then s.endCmd q 0x0A03
    else
    let (s, l) := State.pushSends q c.staged.sends s
    let s := s.setSends q l
    if s.tilesLeft q then (s.modHead q fun c => { c with tileWait := true }).beginWait q
    else s.modHead q fun c => { c with tileWait := false }

/-- The output transfers of the head command of `q` are complete: its cores are released (R263 step 1). -/
def State.settleRun (s : State) (q : Nat) : State :=
  match s.head? q with
  | none => s
  | some c =>
    if c.phase == .started && c.ran && c.staged.need.isEmpty && !s.tilesLeft q then
      let qu := s.queue q
      let s := s.linkSend (s.writeTraffic qu.part (qu.cls == 0) ((s.diesOf c.cores).headD hDie) c.staged.slabs c.staged.spans)
      let s := s.meterBytes qu.part (stagedLow c.staged.slabs c.staged.spans)
      ((s.endWait q).releaseCores q).modHead q fun c => { c with phase := .staged, tileWait := false }
    else s

/-! What a run leaves in staging (R204, R263). -/

/-- Some page of slab `k` is in none of the spans: the slab is written only in part (R263). -/
def partlyWritten (k : Nat) (l : List (Nat × Nat)) : Bool :=
  let here := l.filter fun x => decide (x.1 < (k + 1) * slabB) && decide (k * slabB < x.1 + x.2)
  decide ((here.map (·.2)).sum < 512) ||
    !(List.range 512).all fun i => here.any fun x => decide (x.1 < k * slabB + 4096 * (i + 1)) && decide (k * slabB + 4096 * i < x.1 + x.2)

/-- The spans that record updates write. -/
def recSpans (l : List RecUpd) : List (Nat × Nat) := l.map fun u => (u.addr + 9, 23 + 4 * u.histLen)

/-- Add tiles to the sends of a command, one attempt per window (R302). -/
def addSends (acc : List TileSend) (l : List (PeerWin × List (Nat × Bytes))) : List TileSend :=
  l.foldl (fun acc x =>
    let w := x.1
    if acc.any fun t => t.ep == w.ep && t.part == w.part && t.window == w.window then
      acc.map fun t => if t.ep = w.ep ∧ t.part = w.part ∧ t.window = w.window then { t with todo := t.todo ++ [x.2] } else t
    else acc ++ [{ ep := w.ep, part := w.part, window := w.window, cut := w.cut, todo := [x.2] }]) acc

/-- Slabs of T3 or of a host ring are among those named, and the host cannot be asked: what needs them waits (R367). -/
def State.hostHeld (s : State) (ks : List Nat) : Bool :=
  !s.outbound && ks.any fun k => match s.slab? k with | some x => x.tier == some .t3 || x.kind == 1 | none => false

/-- The head command of `q` has run: its results go to staging slabs, its tiles to the transmit path (R146, R204, R213, R216, R263, R445, R454); one that reads what the host holds has not run while the host does not answer (R367). -/
def State.stageRun (s : State) (q : Nat) (r : RunRes) (eff : Effect) : State :=
  if s.hostHeld (r.reads.flatMap fun x => spanSlabs x.1 x.2) then s else
  let p := (s.queue q).part
  let s := (((s.answerSlow q).touches true r.reads).meterVectors p r.vectors).meterBytes p (s.lowTierBytes r.reads)
  let s := r.reads.foldl (fun s x => s.cellarRead q x.1 x.2) (s.setFresh (s.fresh + r.drawn))
  if r.status ≠ 0 then s.endCmd q r.status
  else if r.sends.any fun x => !s.hasPeer x.1.ep then s.endCmd q 0x0A03
  else
    let s := s.linkSend (s.readTraffic p ((s.queue q).cls == 0) (s.diesOf (((s.head? q).map (·.cores)).getD [])) r.reads)
    let spans := r.dests ++ recSpans r.recs
    let keys := (spans.flatMap fun x => spanSlabs x.1 x.2).dedup
    let s := s.touches false spans
    let s := s.modHead q fun c => { c with
      ran := true
      staged := { writes := r.writes, recs := r.recs, sends := addSends c.staged.sends r.sends, effect := eff, spans := spans, partly := keys.filter fun k => partlyWritten k spans
                  need := keys, t1Only := r.t1Only, tiers := r.tiers, reads := (r.reads.flatMap fun x => spanSlabs x.1 x.2).dedup } }
    let s := State.allocate q keys.length s
    (s.pushTiles q).settleRun q

/-! The commit point (R176, R221, R263). -/

/-- The slabs settle on their staging frames, and the written bytes become visible (R217, R263 steps 3 and 5); one that was pinned after its staging slab was drawn in T2 moves to T1 from there (R159, R213, R220). -/
def State.settleSlabs (s : State) (p : Nat) (slabs : List (Nat × Tier × Option Nat)) (writes : List Host.Cell) : State :=
  let s := (s.retain p (slabs.map (·.1))).dropMoves fun m => slabs.any fun x => x.1 == m.key
  let s := slabs.foldl (fun s x =>
    let (f, s) := s.nextFrame
    let moved := s.movedPages x.2.1 f
    s.modSlab x.1 fun y => { y with
      st := .resident, tier := some x.2.1, near := x.2.2, frame := f, lease := none, moved := moved, spoilt := false }) s
  let s := s.setDev (s.dev.puts writes)
  (slabs.filter fun x => x.2.1 != .t1 && s.t1Slab x.1).foldl (fun s x => s.startMove x.1 .t1 2) s

/-- The tiers that R156 gives the slabs that an optimiser step writes. -/
def State.setHomes (s : State) (l : List (Nat × Tier)) : State :=
  if l.isEmpty then s else s.setSlabs (s.mem.slabs.map fun x => match l.find? fun y => y.1 == x.key with | some y => { x with home := some y.2 } | none => x)

/-- The slabs of a set that is registered fit the partition's T1 reservation (R159): `ks` those that no set or PIN region has pinned yet. -/
def State.gsetFits (s : State) (p : Nat) (ks : List Nat) : Bool :=
  let pt := s.part p
  let more := (ks.filter fun k => match s.slab? k with | some x => !x.gset && !x.pin | none => true).length
  decide (s.gsetSlabs p + more + s.pinSlabs p + pt.stageT1 + pt.pools.1 ≤ pt.resOf .t1)

/-- Pin a slab as a gradient set that names it is registered: one in another tier takes a frame of T1 where there is room, and moves there (R159, R210, R212, R220). -/
def State.pinSlab (s : State) (k : Nat) : Option State :=
  match s.slab? k with
  | none => some s
  | some x =>
    let s := s.abandonMove k
    match x.tier with
    | none | some .t1 => some (s.modSlab k fun x => { x with gset := true })
    | _ =>
      if (s.placeT1 x.part x.pieceCore).isNone then none
      else some ((s.modSlab k fun x => { x with gset := true }).startMove k .t1 2)

/-- Pin the slabs of a list in order. -/
def State.pinAll : List Nat → State → Option State
  | [], s => some s
  | k :: r, s => (s.pinSlab k).bind (State.pinAll r)

/-- Register a gradient set (R159). -/
def State.addGset (s : State) (p a : Nat) (keys : List Nat) : State :=
  ((State.pinAll keys s).getD s).modPart p fun pt => { pt with gsets := pt.gsets ++ [(a, keys, none)] }

/-- Release a gradient set: slabs that no other set names are pinned no more (R257). -/
def State.dropGset (s : State) (p a : Nat) : State :=
  let s := s.modPart p fun pt => { pt with gsets := pt.gsets.filter fun g => g.1 != a }
  let kept := (s.part p).gsets.flatMap fun g => g.2.1
  s.setSlabs (s.mem.slabs.map fun x => if x.part = p ∧ x.gset = true then { x with gset := kept.contains x.key } else x)

/-- Rows [lo, hi) of rank `k` of `n` over `rows` rows (R308). -/
def rankRows (rows n k : Nat) : Nat × Nat :=
  let lo := k * (rows / n) + min k (rows % n)
  (lo, lo + rows / n + if k < rows % n then 1 else 0)

/-- The rows that the exchange of a committed collective assigns (R164, R165): its own range after a reduce-scatter, all rows otherwise. -/
def Coll.assigned (c : Coll) : Option (Nat × Nat) := if c.op = 1 then some (rankRows c.srcRows c.members.length c.self) else none

/-- What the commit of the head command of `q` changes besides bytes and records. -/
def State.applyEffect (s : State) (q : Nat) (e : Effect) : State :=
  let p := (s.queue q).part
  match e with
  | .none => s
  | .mapRegion _ base slabs kind model pin => s.mapRegion p { kind := kind, pin := pin, model := model, base := base * slabB, slabs := slabs }
  | .unmapRegion _ base slabs => s.unmapSlabs base slabs
  | .registerGset a keys => s.addGset p a keys
  | .releaseGset a => s.dropGset p a
  | .streamConfig cfg => s.modStream p fun st => { st with next := cfg }
  | .stepMark => s.stepMark p
  | .collective id =>
    match s.collOf q with
    | none => s
    | some c =>
      let s := if c.gset then s.modPart p fun pt => { pt with gsets := pt.gsets.map fun g => if g.1 = c.desc then (g.1, g.2.1, c.assigned) else g } else s
      (s.modFab fun b => { b with committed := b.committed ++ [(p, id, c.members, c.axis)] }).dropColl q

/-- Commit notices of the tiles that the head command of `q` sent (R148, R263 step 4). -/
def State.commitNotices (s : State) (q : Nat) : State :=
  match s.head? q with
  | none => s
  | some c =>
    let p := (s.queue q).part
    (c.staged.sends.filter (·.started)).foldl (fun s t =>
      (s.sendNotice t.ep t.part (s.queue q).cls ((s.axisOf p t.cut).getD anyAxis) p 1 t.window t.attempt t.bytes (entTag c.entry)).1) s

/-- The commit point and what follows it (R263 steps 3 to 6). -/
def State.commitPoint (s : State) (q : Nat) : State :=
  match s.head? q with
  | none => s
  | some c =>
    let p := (s.queue q).part
    let s := s.endWait q
    let s := (s.settleSlabs p c.staged.slabs c.staged.writes).setHomes c.staged.tiers
    let s := s.setDev (c.staged.recs.foldl applyRecUpd s.dev)
    let s := s.applyEffect q c.staged.effect
    let s := s.commitNotices q
    match s.head? q with
    | none => s
    | some c => ((s.popHead q).complete q c 0).fixPoolWait p

/-- What the commit point would do to the partition's regions and sets is still as the run found it (R159, R203, R214). -/
def State.effectStatus (s : State) (p : Nat) (e : Effect) : Nat :=
  match e with
  | .mapRegion _ base slabs kind model pin => s.mapStatus p { kind := kind, pin := pin, model := model, base := base * slabB, slabs := slabs }
  | .unmapRegion _ base slabs => s.unmapStatus p { kind := 0, pin := false, model := 0, base := base * slabB, slabs := slabs }
  | .registerGset a keys =>
    if (keys.any fun k => match s.slab? k with | some x => x.kind != 0 | none => true) then 0x0302
    else if (s.part p).gsets.any fun g => g.1 == a then 0x0201
    else if !s.gsetFits p keys then 0x0282
    else 0
  | _ => 0

/-- The slabs of a set that is registered could all be pinned; where T1 lacks room its coldest slabs are demoted (R159, R213). -/
def State.effectRoom (s : State) (p : Nat) (e : Effect) : Bool × State :=
  match e with
  | .registerGset _ keys =>
    if (State.pinAll keys s).isSome then (true, s)
    else
      let n := (keys.filter fun k => match (s.slab? k).bind (·.tier) with | some t => t != .t1 | none => false).length
      (false, State.refillTier p .t1 (s.poolShort p .t1 n) s)
  | _ => (true, s)

/-- The pages of slab `k` that no byte of the spans touches. -/
def pagesLeft (k : Nat) (l : List (Nat × Nat)) : List Nat :=
  (List.range 512).filter fun j => !l.any fun x => decide (x.1 < k * slabB + 4096 * (j + 1)) && decide (k * slabB + 4096 * j < x.1 + x.2)

/-- The carried-over pages of a slab are read: those of a slab of the cellar from its lender (R228, R454). -/
def State.carryReads (s : State) (q : Nat) (x : Slab) : State :=
  let l := pagesLeft x.key (((s.head? q).map (·.staged.spans)).getD [])
  let s := s.meterBytes x.part (s.lowTierBytes (l.map fun j => (x.key * slabB + 4096 * j, 4096)))
  if x.tier = some .t4 then l.foldl (fun s j => s.cellarRead q (x.key * slabB + 4096 * j) 4096) s else s

/-- The carried-over pages of partly written slabs are copied, each copy under migration-DMA credit: whether all were (R263 step 2). -/
def State.carryOver (q : Nat) : List Nat → State → Bool × State
  | [], s => (true, s)
  | k :: r, s =>
    match s.slab? k with
    | none => State.carryOver q r s
    | some x =>
      if x.tier.isNone then State.carryOver q r s
      else
        let b := 4 + homeDie x.tier x.near x.frame
        match s.askCredit b x.part (s.queue q).cls 1 q with
        | (true, s) => State.carryOver q r ((s.carryReads q x).releaseCredit b x.part 1)
        | (false, s) => (false, s)

/-- Slab `k` has been unmapped since the command started (R263). -/
def Cmd.unmaps (c : Cmd) (k : Nat) : Bool := c.unmapped.any fun r => decide (r.1 ≤ k) && decide (k < r.1 + r.2)

/-- Commit the head command of `q`: the checks and waits of step 2, then the commit point (R177, R234, R263), and for the host where it holds what is written (R367); none is passed during a host-loss reset (R369). -/
def State.commitHead (s : State) (q : Nat) : State :=
  match s.head? q with
  | none => s
  | some c =>
    if s.link.losing || !(c.phase == .staged || c.phase == .poolWait || (c.phase == .ringWait && c.result == 0)) then s
    else
      let p := (s.queue q).part
      let keys := c.staged.slabs.map (·.1)
      let gone := keys.any fun k => c.unmaps k || (match s.slab? k with | some x => x.part != p | none => true)
      let lost := c.staged.partly.any fun k => match s.slab? k with | some x => x.st == .lost | none => false
      let st := s.effectStatus p c.staged.effect
      if s.hostHeld (c.staged.spans.flatMap fun x => spanSlabs x.1 x.2) || (!s.outbound && c.staged.slabs.any fun x => x.2.1 == .t3) then s
      else if gone then s.endCmd q 0x0302
      else if lost then s.endCmd q 0x0312
      else if st ≠ 0 then s.endCmd q st
      else if c.staged.sends.any fun t => !s.hasPeer t.ep then s.endCmd q 0x0A03
      else
        let (copied, s) := State.carryOver q c.staged.partly s
        let (room, s) := s.effectRoom p c.staged.effect
        if !copied || !room then s.beginWait q
        else if !(s.queue q).ringRoom then
          ((s.modHead q fun c => { c with phase := .ringWait, result := 0 }).beginWait q).modQueue q fun x => { x with cqFull := true }
        else if !s.poolRoom p keys then ((s.modHead q fun c => { c with phase := .poolWait }).beginWait q).fixPoolWait p
        else s.commitPoint q

/-- Other commands whose tiles waited for an attempt of this partition go on (R302). -/
def State.wakeTiles (s : State) : State :=
  (List.range 64).foldl (fun s q =>
    match s.head? q with
    | some c => if c.phase == .started && c.ran && c.tileWait && (c.staged.sends.any fun t => !t.started && !s.windowBusy q t) then (s.pushTiles q).settleRun q else s
    | none => s) s

/-- Slabs in a lease under reclaim take the room that has become free (R232 step 2). -/
def State.evacuateAll (s : State) : State :=
  if s.mem.slabs.any fun x => x.st == .evacuating then (List.range 16).foldl State.evacuate s else s

/-- After something ended: waiting tiles go on, evacuation goes on and the scheduler runs. -/
def State.settle (s : State) : State := s.wakeTiles.evacuateAll.kick

/-! Kill (R265, R266). -/

/-- A fetched command stands at or past its commit point only while its error record waits for ring room, which a kill cannot change. -/
def killable (c : Cmd) : Bool := !(c.phase == .ringWait && c.result != 0)

/-- Kill the command of queue `q` with submission index `i` (R266): the state and whether it came too late. -/
def State.killIndexed (s : State) (q i : Nat) : State × Bool :=
  match (s.queue q).fifo.findIdx? fun c => c.idx == i with
  | none => (s, false)
  | some 0 =>
    match s.head? q with
    | none => (s, false)
    | some c => if killable c then (((s.discardRun q).endFinal q 0x0485).fixPoolWait (s.queue q).part, false) else (s, true)
  | some n =>
    match (s.queue q).fifo[n]? with
    | none => (s, false)
    | some c => ((s.modQueue q fun x => { x with fifo := x.fifo.eraseIdx n }).complete q c 0x0485, false)

/-- Kill every fetched command of queue `q`, oldest first (R253). -/
def State.killEach (q : Nat) : List Nat → State → State × Bool
  | [], s => (s, false)
  | i :: r, s =>
    let (s, a) := s.killIndexed q i
    let (s, b) := State.killEach q r s
    (s, a || b)

/-! Partition reset (R251). -/

/-- End every command of a queue without a record (R251 steps 1 and 2). -/
def State.dropQueue (s : State) (q : Nat) : State :=
  (s.discardRun q).modQueue q fun x => { x with fifo := [], cqFull := false }

/-- Unassign a queue: every pointer is 0 (R251 step 4). -/
def State.freeQueue (s : State) (q : Nat) : State :=
  s.modQueue q fun x => { x with
    part := 0, assigned := false, sqTail := 0, sqHead := 0, cqHead := 0, cqTail := 0, phase := true, vt := 0, idle := true
    fifo := [], heldRecs := [], landPending := false, cqFull := false }

/-- Lease message (R229). -/
def leaseMsg (op bpart id slabs notice : Nat) : Bytes :=
  leBytes 1 1 ++ leBytes 1 0x33 ++ leBytes 2 24 ++ leBytes 1 op ++ leBytes 1 bpart ++ leBytes 2 0 ++ leBytes 4 id ++ leBytes 4 slabs ++
    leBytes 2 notice ++ leBytes 6 0

/-- Release leases of partition `p`, telling their lenders (R230). -/
def State.releaseLeases (s : State) (p : Nat) (l : List Lease) : State :=
  l.foldl (fun s x => s.partCtrl x.lender 0 p (leaseMsg 5 p x.id x.slabs 0)) s

/-- Retained host-loss epochs that lose a lease are lost: their leases are released, but for those that are still their partition's (R371). -/
def State.loseHle (s : State) (f : Nat → Lease → Bool) : State :=
  let gone := s.hle.retained.filter fun r => r.2.2.2.any (f r.1)
  let s := gone.foldl (fun s r => s.releaseLeases r.1 (r.2.2.2.filter fun l => !(s.part r.1).leases.any fun k => k.lender == l.lender && k.id == l.id)) s
  s.setHle { s.hle with
    retained := s.hle.retained.filter fun r => !r.2.2.2.any (f r.1)
    lost := gone.foldl (fun b r => b ||| (1#16 <<< r.1)) s.hle.lost }

/-- Queues of partition `p`. -/
def State.queuesOf (s : State) (p : Nat) : List Nat := (s.queues.zipIdx.filter fun x => x.1.assigned && x.1.part == p).map (·.2)

/-- Step 4 of R251: regions, gradient sets, stream, leases and reservations go, the landing window is unbound (R361), the queues are unassigned; `keep`: leases that outlast a host-loss reset (R371). -/
def State.freePartition (s : State) (p : Nat) (keep : List Lease) : State :=
  let pt := s.part p
  let s := s.releaseLeases p (pt.leases.filter fun l => !keep.any fun k => k.lender == l.lender && k.id == l.id)
  let s := s.dropMoves fun m => partOfKey m.key == p
  let s := s.setMem { s.mem with
    slabs := s.mem.slabs.filter fun x => x.part != p
    regions := s.mem.regions.filter fun r => r.part != p
    dev := Memory.clear s.mem.dev (p * extentB) ((p + 1) * extentB) }
  let s := s.clearEngines pt.coreSet
  let s := (s.queuesOf p).foldl State.freeQueue s
  s.modPart p fun pt => { pt with
    admitted := false, cores := 0, c0Cores := 0, c0Rate := 0, c0Burst := 0, tokens := 0, res := [0, 0, 0, 0], stageT1 := 0, stageT2 := 0, c0Stage := 0
    queues := 0, general := [], c0Set := [], leases := [], gsets := [], windows := [], stream := {}, borrowVt := 0, borrowIdle := true
    bound := false, landSize := 0, landBase := 0 }

/-- A partition reset (R251). -/
def State.resetPart (s : State) (p : Nat) : State :=
  if (s.part p).admitted = false then s
  else
    let s := ((s.queuesOf p).foldl State.dropQueue s).freePartition p []
    s.setSec { s.sec with layouts := (s.sec.layouts + 1) % 2 ^ 32 }

end Sys2Proof.Machine
end

