-- ==== Sys2Proof/Machine/Collectives.lean ====
section
/-! DEFINITION. The collective engine: descriptors, pulls and pieces, sums in rank order, and completion (R164, R304 to R314). -/

namespace Sys2Proof.Machine

/-! Descriptors (R305 to R307). -/

/-- A group descriptor (R305). -/
structure Group where
  members : List (Nat × Nat) := []
  self : Nat := 0
  cut : Nat := 0
  axis : Nat := 0

/-- Read and check a group descriptor of partition `p`; `want` gives the module's own member. -/
def State.readGroup (s : State) (p a : Nat) (isSender : Bool) : Except Nat Group := do
  let b ← s.readDesc p a 0x56 0x0502 (fun h => 16 + 4 * field h 4 2) 6
  let n := field b 4 2
  let self := field b 6 2
  let cut := byteAt b 8 % 8
  let ms := (List.range n).map fun k => let m := field b (16 + 4 * k) 4; (bits m 19 0, bits m 23 20)
  if n < 2 ∨ 4096 < n ∨ n ≤ self ∨ 4 < cut then .error 0x0502
  else if ms.getD self (0, 0) ≠ (s.fab.ep, p) ∨ ¬ ms.Nodup then .error 0x0502
  else match s.axisOf p cut with
    | none => .error 0x0502
    | some x => if isSender && decide (128 < n) then .error 0x0502 else .ok { members := ms, self := self, cut := cut, axis := x }

/-- A collective descriptor's fields (R306). -/
structure CollDesc where
  op : Nat
  root : Nat
  id : Nat
  group : Nat
  src : Nat
  dst : Nat
  count : Nat
  rcount : Nat
  srcExp : Nat
  deriving DecidableEq, Repr

/-- Decode a collective descriptor. -/
def collDesc (b : Bytes) : CollDesc :=
  { op := byteAt b 4 % 8, root := field b 6 2, id := field b 8 4, group := field b 12 6, src := field b 18 6, dst := field b 24 6
    count := field b 30 6, rcount := field b 36 6, srcExp := byteAt b 42 }

/-- The fields of a collective descriptor are as R306 states, under COLLECTIVE or EXCHANGE. -/
def collFieldsOk (d : CollDesc) (exchange : Bool) : Bool :=
  decide (d.op ≤ 5) && (d.op == 3 || d.root == 0) && (d.op == 5) == (d.count != 0) && (d.op == 5) == (d.rcount != 0) &&
    (if exchange then decide (d.op ≤ 1) && d.src == 0 && d.dst == 0 else !(decide (d.op ≤ 1) && d.srcExp == 0x80))

/-! Packed tensors (R289, R309). -/

/-- Packed bytes of a row: its elements, then its scale bytes (log entry 18). -/
def Opd.packedRow (o : Opd) : Nat := o.rowBytes + if o.fmt = fMXFP4 then o.cols / 32 else 0

/-- A tensor packed by stored rows. -/
def Opd.pack (o : Opd) (m : Memory) : Bytes :=
  (List.range o.rows).flatMap fun r => m.read (o.addr + r * o.pitch) o.rowBytes ++ (if o.fmt = fMXFP4 then m.read (o.scaleAddr + r * (o.cols / 32)) (o.cols / 32) else [])

/-- The cells that store packed rows from row `r0` on. -/
def Opd.unpack (o : Opd) (r0 : Nat) (b : Bytes) : List Host.Cell :=
  let w := o.packedRow
  (groupsOf w b.length b).zipIdx.flatMap fun (row, i) =>
    let el := row.take o.rowBytes
    let sc := row.drop o.rowBytes
    (el.zipIdx.map fun (x, j) => (o.addr + (r0 + i) * o.pitch + j, x)) ++ (sc.zipIdx.map fun (x, j) => (o.scaleAddr + (r0 + i) * (o.cols / 32) + j, x))

/-- The destination of a collective as an operand. -/
def Coll.dst (c : Coll) : Opd :=
  { addr := c.dstAddr, fmt := c.dstFmt, rows := c.dstRows, cols := c.dstCols, pitch := c.dstPitch, scaleAddr := c.dstScale }

/-- The byte spans of rows [lo, hi) of the destination. -/
def Coll.dstSpans (c : Coll) (lo hi : Nat) : List (Nat × Nat) :=
  (List.range (hi - lo)).flatMap fun i => c.dst.rowSpans (lo + i)

/-! Pulls (R308 to R310). -/

/-- Cut bytes [lo, hi) into pieces of 64 KiB. -/
def piecesOf (lo hi : Nat) : List (Nat × Nat) :=
  (List.range (ceilDiv (hi - lo) 65536)).map fun i => (lo + 65536 * i, min 65536 (hi - lo - 65536 * i))

/-- The byte range of the packed source that rank `k` owns (R308). -/
def Coll.range (c : Coll) (k : Nat) : Nat × Nat :=
  let r := rankRows c.srcRows c.members.length k
  (r.1 * c.rowBytes, r.2 * c.rowBytes)

/-- The other ranks in order. -/
def Coll.ranks (c : Coll) : List Nat := (List.range c.members.length).filter fun k => k != c.self

/-- The pulls of a member in order: rank, offset, length, blocks of the staging buffer that it must hold (R309, R310). -/
def Coll.plan (c : Coll) : List (Nat × Nat × Nat × Nat) :=
  let whole := (0, c.srcRows * c.rowBytes)
  let straight : Nat → Nat × Nat → List (Nat × Nat × Nat × Nat) := fun r x => (piecesOf x.1 x.2).map fun y => (r, y.1, y.2, 0)
  let summed : Nat × Nat → List (Nat × Nat × Nat × Nat) := fun x =>
    (piecesOf x.1 x.2).flatMap fun y => c.ranks.zipIdx.map fun r => (r.1, y.1, y.2, if r.2 = 0 then 3 else 1)
  match c.op with
  | 0 => summed (c.range c.self) ++ if c.gathering then c.ranks.flatMap fun r => straight r (c.range r) else []
  | 1 => summed (c.range c.self)
  | 2 => c.ranks.flatMap fun r => straight r whole
  | 3 => if c.root = c.self then summed whole else []
  | 4 => straight ((c.self + c.members.length - 1) % c.members.length) whole
  | _ => c.ranks.flatMap fun r => straight r (0, ((lookupTime c.counts r).getD 0) * c.rowBytes)

/-- Offset in a rank's packed source from which its pieces count: in OP 5, where the rows for this member lie at a place that only the sender knows, the least that has arrived (R289; log entry 18). -/
def Coll.base (c : Coll) (r : Nat) : Nat :=
  if c.op = 5 then ((c.got.filter fun g => g.1 == r).map (·.2.1)).min?.getD 0 else 0

/-- Bytes received from a rank in [off, off + len). -/
def Coll.arrived (c : Coll) (r off len : Nat) : Nat :=
  let a := off + c.base r
  ((c.got.filter fun g => g.1 == r && decide (a ≤ g.2.1) && decide (g.2.1 < a + len)).map fun g => g.2.2.length).sum

/-- The bytes [off, off + len) of a rank's pieces. -/
def Coll.bytesOf (c : Coll) (r off len : Nat) : Bytes :=
  let m : Memory := (c.got.filter fun g => g.1 == r).foldl (fun m g => Memory.write m g.2.1 g.2.2) []
  m.read (off + c.base r) len

/-- The contributions to a summed piece of the ranks up to `r` have arrived: the step that adds rank `r`'s is complete, as the ranks are added in order (R164, R309). -/
def Coll.addedTo (c : Coll) (r off len : Nat) : Bool :=
  c.ranks.all fun k => decide (r < k) || decide (len ≤ c.arrived k off len)

/-- Blocks of the staging buffer that pull `x` still holds: its own until the step that adds it completes, and those of the piece's running sum until the piece is converted (R273, R310). -/
def Coll.blocksOf (c : Coll) (x : Nat × Nat × Nat × Nat) : Nat :=
  (if x.2.2.2 = 0 ∨ c.addedTo x.1 x.2.1 x.2.2.1 = true then 0 else 1) +
    (if c.addedTo c.members.length x.2.1 x.2.2.1 then 0 else x.2.2.2 - 1)

/-- Blocks of the staging buffer due for the pulls sent (R310). -/
def Coll.blocksDue (c : Coll) : Nat := ((c.plan.take c.issued).map c.blocksOf).sum

/-- The blocks of contributions that have been added, and of pieces that have been converted, are released (R273, R310). -/
def State.freeBlocks (s : State) (q : Nat) : State :=
  match s.collOf q with
  | none => s
  | some c =>
    let n := c.blocks - c.blocksDue
    if n = 0 then s else (s.releaseCredit 0 (s.queue q).part n).setColl { c with blocks := c.blocks - n }

/-- Pulls sent whose pieces have not all arrived. -/
def Coll.open_ (c : Coll) : Nat :=
  (c.plan.take c.issued |>.filter fun x => decide (c.arrived x.1 x.2.1 x.2.2.1 < x.2.2.1)).length

/-- Endpoint of a rank. -/
def Coll.epOf (c : Coll) (r : Nat) : Nat := (c.members.getD r (0, 0)).1

/-- Send one packet of a collective to a rank, its payload counted (R289, R454). -/
def State.collSend (s : State) (c : Coll) (r kind off : Nat) (b : Bytes) : State × List Nat :=
  let m := c.members.getD r (0, 0)
  let s := s.meterBytes (s.queue c.queue).part b.length
  if b.isEmpty then (s, []) else State.sendChunks m.1 m.2 c.cls c.axis (s.queue c.queue).part kind (c.attempt % 65536) c.id b.length off b s

/-- Send the next pulls while 64 are not outstanding and staging blocks are held for them (R309, R310); the command ends when it must send to an endpoint that has no peer entry (R445). -/
def State.sendPulls (q : Nat) : Nat → State → State
  | 0, s => s
  | n + 1, s =>
    match s.collOf q with
    | none => s
    | some c =>
      match c.plan[c.issued]? with
      | none => s
      | some x =>
        if 64 ≤ c.open_ then s
        else
          let (ok, s) := if x.2.2.2 = 0 then (true, s) else s.askCredit 0 (s.queue q).part c.cls x.2.2.2 q
          if !ok then s.beginWait q
          else if !s.hasPeer (c.epOf x.1) then (s.endWait q).endCmd q 0x0A03
          else
            let (s, l) := (s.endWait q).collSend c x.1 2 x.2.1 (leBytes 4 x.2.2.1)
            State.sendPulls q n (s.setColl { c with issued := c.issued + 1, blocks := c.blocks + x.2.2.2, sent := c.sent ++ l.map fun y => (c.epOf x.1, y) })

/-! Sums (R72, R164, R309 step 4). -/

/-- E_g of R164: the greatest announced exponent. -/
def Coll.expG (c : Coll) : Int := c.exps.foldl (fun a x => max a x.2) (-128)

/-- One summed element from the codes by rank: the code, elements saturated, not finite and rounded to zero (R70 to R72, R164). -/
def sumElem (eg : Int) (es : List Int) (codes : List Nat) : Nat × Nat × Nat × Nat :=
  let cs := List.zipWith (fun e c => convert fSF16 .nearest true ((readCode fSF16 c).scale (e - eg))) es codes
  let vs := cs.map fun x => (readCode fSF16 x.code).scale eg
  let sum := match vs with
    | [] => (.fin false 0 0 : Val)
    | v :: r => r.foldl (fun a x => ofF32 (toF32 (a.add x))) v
  let o := convert fSF16 .nearest true (sum.scale (-eg))
  (o.code, o.sat + (cs.map (·.sat)).sum, o.nonfinite + (cs.map (·.nonfinite)).sum, o.underflow + (cs.map (·.underflow)).sum)

/-- One summed FP32 element (R117). -/
def sumF32 (codes : List Nat) : Nat :=
  match codes.map (BitVec.ofNat 32) with
  | [] => 0
  | v :: r => (r.foldl fAdd v).toNat

/-- Codes of `w` bytes in a byte string. -/
def codesOf (w : Nat) (b : Bytes) : List Nat := (List.range (b.length / w)).map fun i => field b (w * i) w

/-- Column `i` of the contributions by rank. -/
def columns (l : List (List Nat)) : List (List Nat) :=
  (List.range ((l.head?.map (·.length)).getD 0)).map fun i => l.map fun x => x.getD i 0

/-- The range that this member sums, by bytes of the packed source. -/
def Coll.sumRange (c : Coll) : Nat × Nat := if c.op = 3 then (0, c.srcRows * c.rowBytes) else c.range c.self

/-- Sum the owned range once every contribution has arrived. -/
def Coll.sumOwn (c : Coll) : Coll :=
  let (lo, hi) := c.sumRange
  let bs := (List.range c.members.length).map fun r => if r = c.self then (c.src.drop lo).take (hi - lo) else c.bytesOf r lo (hi - lo)
  if c.op = 3 then { c with own := (columns (bs.map (codesOf 4))).flatMap fun x => leBytes 4 (sumF32 x) }
  else
    let es := (List.range c.members.length).map fun r => ((c.exps.find? fun x => x.1 == r).map (·.2)).getD 0
    let els := (columns (bs.map (codesOf 2))).map (sumElem c.expG es)
    { c with own := els.flatMap fun x => leBytes 2 x.1, sat := (els.map fun x => x.2.1).sum
             nonfinite := (els.map fun x => x.2.2.1).sum, underflow := (els.map fun x => x.2.2.2).sum }

/-! Answers (R309, R311, R312). -/

/-- A pull of [off, off + len) by another rank waits for this member's own range: the gather of OP 0 (log entry 18). -/
def Coll.isGather (c : Coll) (off len : Nat) : Bool :=
  c.op == 0 && decide ((c.range c.self).1 ≤ off) && decide (off + len ≤ (c.range c.self).2)

/-- Offset in the packed source of byte `off` of what rank `r` pulls: in OP 5 a pull counts from the rows for that rank (R289; log entry 18). -/
def Coll.srcOff (c : Coll) (r off : Nat) : Nat := (if c.op = 5 then (c.sendCounts.take r).sum * c.rowBytes else 0) + off

/-- The bytes that answer a pull by rank `r`. -/
def Coll.answer (c : Coll) (r off len : Nat) : Bytes :=
  if c.isGather off len then (c.own.drop (off - (c.range c.self).1)).take len
  else (c.src.drop (c.srcOff r off)).take len

/-- Answer a pull, or hold it until the own range is summed. -/
def State.answerPull (s : State) (q r off len : Nat) : State :=
  match s.collOf q with
  | none => s
  | some c =>
    if c.isGather off len && !c.gathering then s.setColl { c with heldPulls := c.heldPulls ++ [(r, off, len)] }
    else if !s.hasPeer (c.epOf r) then s.endCmd q 0x0A03
    else
      let (s, seqs) := s.collSend c r 1 (c.srcOff r off) (c.answer r off len)
      s.setColl { c with answered := c.answered ++ [(r, off, len)], pieceSeqs := c.pieceSeqs ++ seqs.map fun x => (c.epOf r, x) }

/-- Bytes that rank `r` will pull from this member. -/
def Coll.expected (c : Coll) (r : Nat) : Nat :=
  let whole := c.srcRows * c.rowBytes
  let rg : Nat → Nat := fun k => (c.range k).2 - (c.range k).1
  match c.op with
  | 0 => rg r + rg c.self
  | 1 => rg r
  | 2 => whole
  | 3 => if r = c.root then whole else 0
  | 4 => if r = (c.self + 1) % c.members.length then whole else 0
  | _ => c.sendCounts.getD r 0 * c.rowBytes

/-- The member sends to rank `r`: announcements in OP 0, 1 and 5, its pulls, or the answers to that rank's (R309). -/
def Coll.sendsTo (c : Coll) (r : Nat) : Bool := decide (c.op ≤ 1) || decide (5 ≤ c.op) || (c.plan.any fun x => x.1 == r) || decide (0 < c.expected r)

/-- Every pull addressed to this member has been answered and acknowledged (R311). -/
def State.servedAll (s : State) (c : Coll) : Bool :=
  (c.ranks.all fun r => decide (c.expected r ≤ ((c.answered.filter fun x => x.1 == r).map fun x => x.2.2).sum)) &&
    c.pieceSeqs.all fun x => s.ackedPkt x.1 c.cls x.2

/-! Progress. -/

/-- Every announcement has arrived (R309 step 1). -/
def Coll.announced (c : Coll) : Bool :=
  if c.op ≤ 1 then c.ranks.all fun r => c.exps.any fun x => x.1 == r
  else if c.op = 5 then c.ranks.all fun r => c.counts.any fun x => x.1 == r
  else true

/-- Rows received in OP 5, by rank. -/
def Coll.recvRows (c : Coll) : List Nat :=
  (List.range c.members.length).map fun r => if r = c.self then c.sendCounts.getD r 0 else (lookupTime c.counts r).getD 0

/-- The staged result of a complete collective (R164, R306, R307, R309). -/
def Coll.result (c : Coll) : RunRes :=
  let d := c.dst
  let n := c.members.length
  let whole := c.srcRows * c.rowBytes
  let from_ : Nat → Nat → Nat → Bytes := fun r off len => if r = c.self then (c.src.drop off).take len else c.bytesOf r off len
  let own := rankRows c.srcRows n c.self
  let expCell : List Host.Cell := if c.op ≤ 1 then [byteCell (if c.gset then c.desc + 32 else c.desc + 43) (unsigned8 c.expG)] else []
  let expSpan : List (Nat × Nat) := if c.op ≤ 1 then [(if c.gset then c.desc + 32 else c.desc + 43, 1)] else []
  let recs := match c.dstRec with | some u => [{ u with amax := none, sat := c.sat, nonfinite := c.nonfinite, underflow := c.underflow }] | none => []
  match c.op with
  | 0 =>
    let rows := (List.range n).flatMap fun r =>
      let rr := rankRows c.srcRows n r
      d.unpack rr.1 (if r = c.self then c.own else c.bytesOf r (rr.1 * c.rowBytes) ((rr.2 - rr.1) * c.rowBytes))
    { writes := rows ++ expCell, recs := recs, dests := c.dstSpans 0 c.srcRows ++ expSpan, t1Only := c.gset }
  | 1 => { writes := d.unpack own.1 c.own ++ expCell, recs := recs, dests := c.dstSpans own.1 own.2 ++ expSpan, t1Only := c.gset }
  | 2 => { writes := (List.range n).flatMap fun r => d.unpack (r * c.srcRows) (from_ r 0 whole), dests := c.dstSpans 0 (n * c.srcRows) }
  | 3 => if c.root = c.self then { writes := d.unpack 0 c.own, dests := c.dstSpans 0 c.srcRows } else {}
  | 4 => { writes := d.unpack 0 (from_ ((c.self + n - 1) % n) 0 whole), dests := c.dstSpans 0 c.srcRows }
  | _ =>
    let rr := c.recvRows
    let mine := ((c.src.drop ((c.sendCounts.take c.self).sum * c.rowBytes)).take (c.sendCounts.getD c.self 0 * c.rowBytes))
    let parts := (List.range n).map fun r => if r = c.self then mine else c.bytesOf r 0 (rr.getD r 0 * c.rowBytes)
    { writes := d.unpack 0 parts.flatten ++ (rr.zipIdx.flatMap fun (x, k) => numCells (c.rcount + 4 * k) 4 x)
      dests := c.dstSpans 0 rr.sum ++ [(c.rcount, 4 * n)] }

/-- Every pull has been sent and answered in full. -/
def Coll.pulledAll (c : Coll) : Bool :=
  decide (c.plan.length ≤ c.issued) && c.plan.all fun x => decide (x.2.2.1 ≤ c.arrived x.1 x.2.1 x.2.2.1)

/-- This member sums a range (R309). -/
def Coll.sums (c : Coll) : Bool := c.op == 0 || c.op == 1 || (c.op == 3 && c.root == c.self)

/-- Carry the collective of queue `q` as far as it can go: pulls, the own range's sum, the gather, and its staging (R309 to R311). -/
def State.runColl (s : State) (q : Nat) : State :=
  match s.collOf q with
  | none => s
  | some c =>
    match s.head? q with
    | none => s
    | some cmd =>
      if cmd.ran || !c.announced then s
      else if c.op = 5 ∧ c.dstRows < c.recvRows.sum then s.endCmd q 0x0501
      else
        let s := State.sendPulls q 65 (s.freeBlocks q)
        match s.collOf q with
        | none => s
        | some c =>
          if !c.pulledAll then s
          else
            let first := c.sums && !c.gathering
            let s := if first then s.setColl { c.sumOwn with gathering := true, heldPulls := [] } else s
            let s := if first then State.sendPulls q 65 (c.heldPulls.foldl (fun s x => s.answerPull q x.1 x.2.1 x.2.2) s) else s
            match s.collOf q with
            | none => s
            | some c => if c.pulledAll && s.servedAll c then (s.endWait q).stageRun q c.result (.collective c.id) else s

/-! Start (R304 to R307, R309 step 1). -/

/-- The checks of a COLLECTIVE or EXCHANGE command before it sends anything, the collective as it starts, and the source's byte spans. -/
def State.buildColl (s : State) (p q : Nat) (entry : Bytes) (exchange : Bool) : Except Nat (Coll × List (Nat × Nat)) := do
  let da := if exchange then field entry 38 6 else field entry 32 6
  let g ← if exchange then s.readGset p (field entry 32 6) true else .ok {}
  let b ← s.readDesc p da 0x57 0x0501 (fun _ => 48) 48
  let d := collDesc b
  if collFieldsOk d exchange = false then .error 0x0501
  else
    let gr ← s.readGroup p d.group (decide (d.op = 4))
    let used := (s.fab.committed.any fun x => x.1 == p && x.2.1 == d.id && x.2.2.1 == gr.members) || s.fab.colls.any fun c => c.id == d.id && (s.queue c.queue).part == p && c.members == gr.members
    let n := gr.members.length
    let src ← if exchange then .ok g.acc else s.operand p d.src false
    let dst ← if exchange then .ok g.acc else s.operand p d.dst false
    let same := src.rows = dst.rows ∧ src.cols = dst.cols ∧ src.fmt = dst.fmt
    let counts := (List.range n).map fun k => s.dev.num (d.count + 4 * k) 4
    let cst := if d.op = 5 then s.readStatus p d.count (4 * n) else 0
    if (src.trans && src.fmt == fMXFP4) || (dst.trans && dst.fmt == fMXFP4) then .error 0x0103
    else if used ∨ src.layout ≠ 0 ∨ dst.layout ≠ 0 then .error 0x0501
    else if d.op ≤ 1 ∧ (src.fmt ≠ fSF16 ∨ ¬ same) then .error 0x0501
    else if d.op = 2 ∧ (src.fmt ≠ dst.fmt ∨ src.cols ≠ dst.cols ∨ dst.rows ≠ n * src.rows) then .error 0x0501
    else if d.op = 3 ∧ (src.fmt ≠ fFP32 ∨ ¬ same ∨ n ≤ d.root) then .error 0x0501
    else if d.op = 4 ∧ ¬ same then .error 0x0501
    else if d.op = 5 ∧ (src.fmt ≠ dst.fmt ∨ src.cols ≠ dst.cols) then .error 0x0501
    else if cst ≠ 0 then .error cst
    else if d.op = 5 ∧ src.rows < counts.sum then .error 0x0501
    else
      let st := s.readsStatus p (src.spans src.rows)
      let writes := dst.spans dst.rows ++ (if d.op = 5 then [(d.rcount, 4 * n)] else []) ++
        (if d.op ≤ 1 then [(if exchange then g.addr + 32 else da + 43, 1)] else [])
      let st2 := s.writesStatus p (if d.op = 3 ∧ d.root ≠ gr.self then [] else writes)
      if st ≠ 0 then .error st
      else if st2 ≠ 0 then .error st2
      else
        let e : Int := if exchange then g.accExp else signed8 d.srcExp
        let c : Coll :=
          { queue := q, id := d.id, op := d.op, axis := gr.axis, cls := (s.queue q).cls, members := gr.members, self := gr.self
            src := src.pack s.dev, srcRows := src.rows, rowBytes := src.packedRow, srcExp := e, exps := [(gr.self, e)]
            sendCounts := if d.op = 5 then counts else []
            dstAddr := dst.addr, dstFmt := dst.fmt, dstRows := dst.rows, dstCols := dst.cols, dstPitch := dst.pitch, dstScale := dst.scaleAddr
            dstRec := if d.op ≤ 1 then some (dst.sr.upd none 0 0 0) else none
            rcount := d.rcount, desc := if exchange then g.addr else da, gset := exchange, root := d.root }
        if c.ranks.any fun r => c.sendsTo r && !s.hasPeer (c.epOf r) then .error 0x0A03
        else .ok (c, [(da, 48), (d.group, 16 + 4 * n)] ++ src.metaSpans ++ dst.metaSpans ++ (if exchange then [(g.addr, 48)] else []) ++
          (if d.op = 5 then [(d.count, 4 * n)] else []) ++ src.spans src.rows)

/-- Rank of a sender in a collective. -/
def Coll.rankOf (c : Coll) (ep part : Nat) : Option Nat := c.members.findIdx? fun m => m == (ep, part)

/-- The collective of partition `p` with a COLL_ID whose group holds the sender. -/
def State.findColl (s : State) (p id ep part : Nat) : Option Coll :=
  s.fab.colls.find? fun c => c.id == id && (s.queue c.queue).part == p && c.members.contains (ep, part)

/-- Take in an announcement (R289 KIND 4, R309). -/
def Coll.announce (c : Coll) (r : Nat) (value : Nat) : Coll :=
  if c.op ≤ 1 then { c with exps := (r, signed8 value) :: c.exps.filter fun x => x.1 != r }
  else { c with counts := setTime c.counts r value }

/-- Key of a COLL_ID of partition `p` in the lists of attempts, aborts and early packets. -/
def collKey (p id : Nat) : Nat := p * 2 ^ 32 + id

/-- Key of a member in the list of aborted attempts. -/
def memberKey (ep part : Nat) : Nat := ep * 16 + part

/-- Announce the exponent, or the rank's row count, to each of a list of ranks; endpoint and SEQ of the announcements (R309 step 1). -/
def State.announceTo (c : Coll) : List Nat → State → State × List (Nat × Nat)
  | [], s => (s, [])
  | r :: rs, s =>
    let (s, a) := s.collSend c r 4 0 (leBytes 4 (if c.op ≤ 1 then (c.srcExp % 2 ^ 32).toNat else c.sendCounts.getD r 0))
    let (s, b) := State.announceTo c rs s
    (s, a.map (fun y => (c.epOf r, y)) ++ b)

/-- Start the collective of the head command of `q`: its announcements go out, and what has come early is taken in. -/
def State.startColl (s : State) (q : Nat) (entry : Bytes) (exchange : Bool) : State :=
  let p := (s.queue q).part
  match s.buildColl p q entry exchange with
  | .error st => s.endCmd q st
  | .ok (c, spans) =>
    let key := collKey p c.id
    let n := ((lookupTime s.fab.collTry key).getD 0) + 1
    let c := { c with attempt := n }
    let s := spans.foldl (fun s x => s.cellarRead q x.1 x.2) ((s.touches true spans).meterBytes p (s.lowTierBytes spans))
    let s := s.modFab fun b => { b with collTry := setTime b.collTry key n, colls := b.colls ++ [c] }
    let (s, l) := State.announceTo c (if c.op ≤ 1 ∨ c.op = 5 then c.ranks else []) s
    let c := { c with sent := l }
    let ok : Nat → Nat → Nat → Nat → Bool := fun id ep part att => id == key && !s.fab.collAborted.contains (id, memberKey ep part, att)
    let c := s.fab.earlyAnn.foldl (fun c a => if ok a.1 a.2.1 a.2.2.1 a.2.2.2.1 then (match c.rankOf a.2.1 a.2.2.1 with | some r => c.announce r a.2.2.2.2 | none => c) else c) c
    let early := s.fab.earlyPull.filter fun a => ok a.1 a.2.1 a.2.2.1 a.2.2.2.1
    let s := (s.setColl c).modFab fun b => { b with
      earlyAnn := b.earlyAnn.filter (fun a => !(a.1 == key && (c.rankOf a.2.1 a.2.2.1).isSome))
      earlyPull := b.earlyPull.filter fun a => !(a.1 == key && (c.rankOf a.2.1 a.2.2.1).isSome) }
    let s := early.foldl (fun s a => match c.rankOf a.2.1 a.2.2.1 with | some r => s.answerPull q r a.2.2.2.2.1 a.2.2.2.2.2 | none => s) s
    s.runColl q

/-- Carry every collective on, after an acknowledgement or a credit. -/
def State.runColls (s : State) : State := (s.fab.colls.map (·.queue)).foldl State.runColl s

end Sys2Proof.Machine
end

