-- ==== Sys2Proof/Machine/CoreStore.lean ====
section
/-! DEFINITION. What a product leaves in the memories of its cores: the core store in the layouts of R96 and R98, weight registers, accumulator banks and feeder (R81 to R98; log entry 91). -/

namespace Sys2Proof.Machine

/-- Bank of the core store that serves a byte offset: bits [10:7] (R92). -/
def bankOf (off : Nat) : Nat := off / 128 % 16

/-- Row of the element in slot `k` of diagonal `j` of a K-slice of `m` rows (R96). -/
def skewRow (m j k : Nat) : Nat := (j + 64 * m - k) % m

/-- Diagonal whose slot `k` holds row `i` of a K-slice of `m` rows: the feeder takes it at cycle `i + k` (R97). -/
def diagOf (m i k : Nat) : Nat := (i + k) % m

/-- Codes of a format as bytes. -/
def packCodes (f : Nat) (l : List Nat) : Bytes := if fmtBits f = 4 then packNibbles l else l.flatMap (leBytes (fmtBits f / 8))

/-- Element (i, k) of a matrix; +0 where it has none. -/
def matAt (a : Mat) (i k : Nat) : El := (a.getD i []).getD k { v := .fin false 0 0 }

/-- K-slice `s` of the streamed rows as the core store holds it: the diagonals in order, four, two or one to a line, and MXFP4 block scales apart in plain row order (R96). -/
def sliceBytes (f : Nat) (rows : Mat) (s : Nat) : Bytes :=
  let m := rows.length
  ((List.range m).flatMap fun j => packCodes f ((List.range 64).map fun k => (matAt rows (skewRow m j k) (64 * s + k)).code)) ++
    if f = fMXFP4 then (List.range m).flatMap fun i => [BitVec.ofNat 8 (matAt rows i (64 * s)).mx, BitVec.ofNat 8 (matAt rows i (64 * s + 32)).mx] else []

/-- Code of W at K index `kk` and column `j`; 0 past its edges (R84). -/
def wCode (m : Memory) (w : Opd) (k n kk j : Nat) : Nat := if kk < k ∧ j < n then (if w.trans then w.code m j kk else w.code m kk j) else 0

/-- The stationary tiles of K-step `s` for columns from `n0` as the core store holds them, in the plain row-major layout of the device tensor, with MXFP4 scales: 64 rows of K by 256 columns, or of a TRANS operand its 256 rows of N by 64 (R88, R90, R98). -/
def stepBytes (m : Memory) (w : Opd) (k n n0 s : Nat) : Bytes :=
  if w.trans then (List.range 256).flatMap fun j => packCodes w.fmt ((List.range 64).map fun i => wCode m w k n (64 * s + i) (n0 + j))
  else ((List.range 64).flatMap fun i => packCodes w.fmt ((List.range 256).map fun j => wCode m w k n (64 * s + i) (n0 + j))) ++
    if w.fmt = fMXFP4 then (List.range 64).flatMap fun i => (List.range 8).map fun b =>
      BitVec.ofNat 8 (if 64 * s + i < k ∧ n0 + 32 * b < n then w.scaleByte m (64 * s + i) (n0 + 32 * b) else 0) else []

/-- The load path fills the four arrays from the stored tiles of a K-step: array a holds columns 64a to 64a + 63 of the core's range, and on the transposed path cell (k, n) takes element (n, k) of its stored tile (R82, R90). -/
def loadArrays (f : Nat) (trans : Bool) (b : Bytes) : List (List (List Nat)) :=
  (List.range 4).map fun a => (List.range 64).map fun i => (List.range 64).map fun j =>
    codeAt f b (if trans then 64 * (64 * a + j) + i else 256 * i + 64 * a + j)

/-- Byte offset of position `pos` among the buffers of a role, which follow the reserve in the order of the plan, each from a whole line (R95, R143). -/
def bufAddr (role : Nat) : List BufDecl → Nat → Nat → Option Nat
  | [], _, _ => none
  | (r, size) :: l, off, pos =>
    let next := off + 128 * ceilDiv size 128
    if r = role then (if pos < size then some (off + pos) else bufAddr role l next (pos - size)) else bufAddr role l next pos

/-- Write bytes at a position of a role's buffers; what lies past them is dropped. -/
def putBuf (plan : List BufDecl) (role pos : Nat) (b : Bytes) (m : Memory) : Memory :=
  b.zipIdx.foldl (fun m x => match bufAddr role plan 32768 (pos + x.2) with | some a => m.put a x.1 | none => m) m

/-- Accumulator of element (i, j) after range `r` of a K cut; the core of range 0 combines the partials (R66, R117). -/
def pieceAcc (m : Memory) (row : List El) (t : ProdSet) (i j r : Nat) : Word :=
  if t.w.fmt = fINT8 then
    let ps := intProds m row t.w j
    BitVec.ofInt 32 (if r = 0 then (dotCutI (preI m t.pre i j) t.k t.c ps).1 else (dotI32 (0, false) ((kRanges t.k t.c ps).getD r [])).1)
  else
    let ps := floatProds m row t.w j
    if r = 0 then dotCut (preF m t.pre i j) t.k t.c ps else dotF32 0 ((kRanges t.k t.c ps).getD r [])

/-- A run of K-steps of one core over a block of up to 256 columns. -/
structure Pass where
  /-- The stationary operand, presented as `k` × `n`, and the block's first column. -/
  w : Opd := {}
  k : Nat := 0
  n : Nat := 0
  n0 : Nat := 0
  /-- The first K-step and their number, and the first K-step's place in the streamed rows. -/
  s0 : Nat := 0
  ns : Nat := 0
  x0 : Nat := 0
  /-- The streamed rows as the DMA engine moves them, with their format, and as the arrays take them, after any prologue. -/
  xf : Nat := 0
  src : Mat := []
  rows : Mat := []
  /-- What it leaves in a bank of each array. -/
  acc : Nat → List (List Word) := fun _ => []

/-- What run number `n` leaves: its operands' buffers, the last two stationary tiles, the bank that it accumulated in, and what the feeder took last. The DMA engine writes the streamed rows as they are stored in the device range, in the skewed layout (R98); no rule says where the result of a prologue waits, which the model holds in the feeder only (R82 to R98; log entry 91). -/
def runPass (m : Memory) (plan : List BufDecl) (big kAll : Nat) (p : Pass) (n : Nat) (c : CoreMem) : CoreMem :=
  let kb := kStepBytes p.w.fmt
  let slice := wideBytes p.xf (big * 64)
  let steps := (List.range p.ns).map fun i => stepBytes m p.w p.k p.n p.n0 (p.s0 + i)
  let store := steps.zipIdx.foldl (fun st x =>
    let st := putBuf plan 2 (x.2 % 2 * kb) x.1 (putBuf plan 1 (x.2 * kb) x.1 st)
    let b := sliceBytes p.xf p.src (p.x0 + x.2)
    putBuf plan 5 (n % 2 * elemBytes p.xf (big * kAll) + x.2 * slice) b (putBuf plan 4 (x.2 % 3 * slice) b (putBuf plan 3 (x.2 * slice) b st))) c.store
  let load := fun i => loadArrays p.w.fmt p.w.trans (steps.getD i [])
  let last := 64 * (p.x0 + p.ns - 1)
  { c with
    store := store
    shadow := if p.ns < 2 then c.active else load (p.ns - 2)
    active := load (p.ns - 1)
    banks := (List.range 4).map fun a => updAt (c.banks.getD a [[], []]) (n % 2) fun _ => p.acc a
    feeder := (List.range 64).map fun k => (p.rows.map fun r => (r.getD (last + k) { v := .fin false 0 0 }).code).drop (p.rows.length - 16)
    scales := p.rows.flatMap fun r => [last, last + 32].filterMap fun k => (r[k]?).bind fun e => if e.fmt = fMXFP4 then some e.mx else none }

/-- The preload, the RESIDUAL tile and the output of a block of rows and columns, as run number `n` of a core leaves them in its store (R143, R144). -/
def putTile (m out : Memory) (t : ProdSet) (rows mt nb n : Nat) (first : Bool) (c : CoreMem) : CoreMem :=
  let big := min t.m 256
  let n0 := 256 * nb
  let is := List.range (min 256 (rows - 256 * mt))
  let cols := min 256 (t.n - n0)
  let pre : Memory → Memory := fun st => match t.pre with
    | some o => putBuf t.plan 6 0 (is.flatMap fun i => (List.range 256).flatMap fun j =>
        leBytes 4 (if j < cols then (if o.trans then o.code m (n0 + j) (256 * mt + i) else o.code m (256 * mt + i) (n0 + j)) else 0)) st
    | none => st
  let res : Memory → Memory := fun st => match t.epi.find? fun r => r.st.op == opRESIDUAL with
    | some r => putBuf t.plan 7 (n % 2 * elemBytes r.opd.fmt (big * 256)) (residBytes m r.opd rows t.n mt nb 256) st
    | none => st
  let pad := elemBytes t.y.fmt (tileCols t.n - cols)
  let put : Memory → Memory := putBuf t.plan 8 (n % (t.ch.outBufs + 1) * wideBytes t.y.fmt (big * tileCols t.n))
    (is.flatMap fun i => out.read (t.y.byteAddr (256 * mt + i) (elemBytes t.y.fmt n0)) (elemBytes t.y.fmt cols) ++ List.replicate pad 0)
  if first then { c with store := put (res (pre c.store)) } else { c with store := res c.store }

/-- The blocks of 256 columns of a tile: under RMSNORM every one (R118, R135). -/
def ProdSet.blocks (t : ProdSet) (tile : Nat) : List Nat := if t.ch.norms then List.range (ceilDiv t.n 256) else [tile / max 1 (ceilDiv t.m 256)]

/-- What piece number `n` of a core leaves; one whose rows all lie at or beyond the count leaves nothing and loads no weights (R82 to R98, R114). -/
def runPiece (m out : Memory) (t : ProdSet) (src mat : Mat) (piece : Nat × Nat) (n : Nat) (c : CoreMem) : CoreMem :=
  let mt := piece.1 % max 1 (ceilDiv t.m 256)
  let xs := (mat.drop (256 * mt)).take 256
  let bl := t.blocks piece.1
  let s0 := ((List.range piece.2).map (rangeSteps (ceilDiv t.k 64) t.c)).sum
  let word : Nat → Nat → List El → Nat → Word := fun nb i row j => if 256 * nb + j < t.n then pieceAcc m row t (256 * mt + i) (256 * nb + j) piece.2 else 0
  if xs.isEmpty then c
  else
    let c := bl.zipIdx.foldl (fun c b =>
      let k := n * bl.length + b.2
      let p : Pass :=
        { w := t.w, k := t.k, n := t.n, n0 := 256 * b.1, s0 := s0, ns := rangeSteps (ceilDiv t.k 64) t.c piece.2, x0 := s0, xf := t.x.fmt
          src := (src.drop (256 * mt)).take 256, rows := xs, acc := fun a => xs.zipIdx.map fun x => (List.range 64).map fun j => word b.1 x.2 x.1 (64 * a + j) }
      putTile m out t mat.length mt b.1 k (piece.2 == 0) (runPass m t.plan (min t.m 256) t.k p k c)) c
    if piece.2 = 0 then c
    else { c with partials := c.partials ++ [(piece.1, piece.2, xs.zipIdx.map fun x => bl.flatMap fun nb => (List.range (min 256 (t.n - 256 * nb))).map (word nb x.2 x.1))] }

/-- The runs of a chained product's last key tile: Q × K_j^T, K through the transposed load path, then P × V_j (R90, R151). -/
def attnPasses (m : Memory) (a : AttnDesc) (v : Opd) (t : ProdSet) (rows : Nat) : List Pass :=
  match (a.tiles rows).getLast? with
  | none => []
  | some j =>
    let q := streamRows m t.x rows t.k
    let keys := min 256 (a.nkv - 256 * j)
    let rs := attnRows m a v t rows
    [{ w := { t.w with trans := !t.w.trans }, k := t.n, n := a.nkv, n0 := 256 * j, ns := ceilDiv t.n 64, xf := t.x.fmt, src := q, rows := q
       acc := fun r => (List.range rows).map fun i => (List.range 64).map fun x => if 64 * r + x < keys then scoreAcc m t.x t.w t.n i (256 * j + 64 * r + x) else 0 },
     { w := v, k := a.nkv, n := t.n, s0 := 4 * j, ns := ceilDiv keys 64, xf := a.pf, rows := rs.map (·.p)
       acc := fun r => rs.map fun x => (List.range 64).map fun i => x.u.getD (64 * r + i) 0 }]

/-- The memories of a core; a core that is not listed has nothing in them. -/
def State.coreMem (s : State) (core : Nat) : CoreMem := ((s.coreMems.find? fun e => e.1 == core).map (·.2)).getD {}

/-- Replace the memories of a core. -/
def State.setCoreMem (s : State) (core : Nat) (c : CoreMem) : State := s.setCoreMems ((core, c) :: s.coreMems.filter fun e => e.1 != core)

/-- The cores that the head command of `q` holds, with their pieces (R118). -/
def State.heldPieces (s : State) (q : Nat) : List (Nat × List (Nat × Nat)) := match s.head? q with | none => [] | some c => List.zip c.cores c.pieces

/-- What a core holds once `f` has changed it, its partials of an earlier product gone. -/
def State.modCoreMem (s : State) (l : Nat) (f : CoreMem → CoreMem) : State :=
  match s.physOf l with
  | some c => s.setCoreMem c (f { s.coreMem c with partials := [] })
  | none => s

/-- A partial block moves from its core's store straight into its owner's, over the links where the two lie on different B-dies (R104, R117). -/
def State.movePart (s : State) (p : Nat) (c0 : Bool) (own core : Nat) (x : Nat × Nat) : State :=
  match s.physOf own, s.physOf core with
  | some o, some c =>
    if o = c then s
    else
      let l := (s.coreMem c).partials.filter fun z => z.1 == x.1 && z.2.1 == x.2
      let s := s.setCoreMem o { s.coreMem o with partials := (s.coreMem o).partials ++ l }
      if bdieOf o = bdieOf c then s
      else s.linkSend (l.flatMap fun z => List.replicate (ceilDiv (4 * (z.2.2.map List.length).sum) 4096)
        { src := bdieOf c, dst := bdieOf o, page := x.1, client := p, c0 := c0, flits := flitsFor 4096 })
  | _, _ => s

/-- The partials of a K cut come to the cores of its first range (R117). -/
def State.moveParts (s : State) (p : Nat) (c0 : Bool) (held : List (Nat × List (Nat × Nat))) : State :=
  (held.flatMap fun h => (h.2.filter fun x => x.2 != 0).map fun x => (h.1, x)).foldl (fun s y =>
    match held.find? fun h => h.2.contains (y.2.1, 0) with | some h => s.movePart p c0 h.1 y.1 y.2 | none => s) s

/-- The product of the head command of `q` has run over its pieces: what each of its cores holds (R81; log entry 91). `out`: the output as the chain left it. -/
def State.fillMems (s : State) (q : Nat) (b : Bytes) (out : List Host.Cell) : State :=
  let p := (s.queue q).part
  let cls := (s.queue q).cls
  okOr (s.prodSet p cls b) s fun t =>
    okOr (s.runCount p (field b 68 6) t.m) s fun rows =>
      let src := streamRows s.dev t.x rows t.k
      let mat := (t.streamed s.dev rows).mat
      let held := s.heldPieces q
      let o := Memory.puts [] out
      (held.foldl (fun s x => s.modCoreMem x.1 fun c => x.2.zipIdx.foldl (fun c y => runPiece s.dev o t src mat y.1 y.2 c) c) s).moveParts p (cls == 0) held

/-- The chained product of the head command of `q` has run: what its core holds (R81, R98, R151; log entry 91). -/
def State.fillChained (s : State) (q : Nat) (b : Bytes) (out : List Host.Cell) : State :=
  let p := (s.queue q).part
  okOr (s.attnSet p b) s fun x =>
    okOr (s.runCount p (field b 50 6) x.2.2.m) s fun rows =>
      let t := x.2.2
      let ps := attnPasses s.dev x.1 x.2.1 t rows
      if ps.isEmpty then s
      else (s.heldPieces q).foldl (fun s h => s.modCoreMem h.1 fun c =>
        putTile s.dev (Memory.puts [] out) t rows 0 0 0 true (ps.zipIdx.foldl (fun c y => runPass s.dev t.plan (min t.m 256) t.k y.1 y.2 c) c)) s

end Sys2Proof.Machine
end

