-- ==== Sys2Proof/Machine/QueueCommands.lean ====
section
/-! DEFINITION. The commands of the queues: doorbells, the sixteen command codes, commit, waits, kills and the class-0 budget (R254 to R274). -/

namespace Sys2Proof.Machine

/-- A droop trip has stopped the issue of one of some logical cores (R423 step 2). -/
def State.issueStopped (s : State) (ls : List Nat) : Bool :=
  s.cores.any fun c => c.limit == 0 && (match c.logical with | some l => ls.contains l | none => false)

/-- Run the head command of queue `q` when it is the given code and holds its cores, none of which a droop trip has stopped. -/
def State.runHead (s : State) (q op : Nat) (f : State → Bytes → State) : State :=
  match s.head? q with
  | none => s
  | some c => if c.phase == .started && !c.ran && c.verdict == 0 && entOp c.entry == op && !s.issueStopped c.cores then (f s c.entry).settle else s

/-- DOORBELL: a write of HQ_SQ_TAIL (R10, R254 to R256). -/
def State.doorbell (s : State) (q : Nat) (v : Word) : State :=
  let qu := s.queue q
  let tail := v.toNat % 65536
  if s.link.effLevel = 0 then s
  else if qu.enable = false ∨ qu.assigned = false ∨ qu.size ≤ tail ∨ qu.log2 < 4 then
    s.modQueue q fun x => { x with ringError := true, lastError := 0x0407 }
  else (State.fetchAll q qu.size (s.modQueue q fun x => { x with sqTail := tail })).kick

/-- DOORBELL (R254): the entries are read from host memory as the host has stored them. -/
def execDoorbell (q : Fin 64) (v : Word) (host : List HostBlk) (s : State) : Result :=
  .next (s.bar0 fun s => (s.hostStore host).doorbell q.val v)

/-- NOP (R257). -/
def execNop (q : Fin 64) (s : State) : Result :=
  .next (s.runHead q.val cNOP fun s _ => s.stageRun q.val {} .none)

/-- PRODUCT (R258). -/
def execProduct (q : Fin 64) (s : State) : Result :=
  .next (s.runHead q.val cPRODUCT fun s b =>
    let r := RunRes.ofExcept (s.runProduct (s.queue q.val).part (s.queue q.val).cls b)
    (if r.status = 0 then s.fillMems q.val b r.writes else s).stageRun q.val r .none)

/-- CHAINED (R149 to R153). -/
def execChained (q : Fin 64) (s : State) : Result :=
  .next (s.runHead q.val cCHAINED fun s b =>
    let r := RunRes.ofExcept (s.runChained (s.queue q.val).part b)
    (if r.status = 0 then s.fillChained q.val b r.writes else s).stageRun q.val r .none)

/-- COLLECTIVE (R304 to R312). -/
def execCollective (q : Fin 64) (s : State) : Result :=
  .next (s.runHead q.val cCOLLECTIVE fun s b => if (s.collOf q.val).isSome then s else s.startColl q.val b false)

/-- EXCHANGE (R164, R306). -/
def execExchange (q : Fin 64) (s : State) : Result :=
  .next (s.runHead q.val cEXCHANGE fun s b => if (s.collOf q.val).isSome then s else s.startColl q.val b true)

/-- FINISH (R165), over the rows that the last exchange assigned, all of them when there was none. -/
def execFinish (q : Fin 64) (s : State) : Result :=
  .next (s.runHead q.val cFINISH fun s b =>
    let p := (s.queue q.val).part
    let a := field b 32 6
    let (lo, hi) := (((s.part p).gsets.find? fun g => g.1 == a).bind (·.2.2)).getD (0, 16777216)
    s.stageRun q.val (RunRes.ofExcept (s.runFinish p a lo hi)) .none)

/-- OPTIMISER (R167 to R172). -/
def execOptimiser (q : Fin 64) (s : State) : Result :=
  .next (s.runHead q.val cOPTIMISER fun s b => s.stageRun q.val (RunRes.ofExcept (s.runOptimiser (s.queue q.val).part (field b 32 6))) .none)

/-- The cells of a byte string from an address. -/
def cellsAt (a : Nat) (b : Bytes) : List Host.Cell := b.zipIdx.map fun (x, i) => (a + i, x)

/-- COPY_IN (R257); it waits while the host does not answer (R367). -/
def execCopyIn (q : Fin 64) (host : List HostBlk) (s : State) : Result :=
  if !s.outbound then .next s
  else .next (s.runHead q.val cCOPYIN fun s b =>
    let s := s.hostStore host
    let (src, dst, n) := (field b 32 8, field b 40 6, field b 48 4)
    let st := s.writeStatus (s.queue q.val).part dst n
    s.stageRun q.val (if st ≠ 0 then .fail st else { writes := cellsAt dst (s.hostRead src n), dests := [(dst, n)] }) .none)

/-- COPY_OUT (R257): host memory is written in place, before the commit point (R263); it waits while the host takes nothing (R367, R369). -/
def execCopyOut (q : Fin 64) (s : State) : Result :=
  if !s.outbound then .next s
  else .next (s.runHead q.val cCOPYOUT fun s b =>
    let (src, dst, n) := (field b 32 6, field b 40 8, field b 48 4)
    let st := s.readStatus (s.queue q.val).part src n
    if st ≠ 0 then s.stageRun q.val (.fail st) .none
    else (s.hostWrite dst (s.dev.read src n)).stageRun q.val { reads := [(src, n)] } .none)

/-- COPY (R257). -/
def execCopy (q : Fin 64) (s : State) : Result :=
  .next (s.runHead q.val cCOPY fun s b =>
    let p := (s.queue q.val).part
    let (src, dst, n) := (field b 32 6, field b 38 6, field b 48 4)
    let st := s.readStatus p src n
    let st := if st ≠ 0 then st else s.writeStatus p dst n
    s.stageRun q.val (if st ≠ 0 then .fail st else { writes := cellsAt dst (s.dev.read src n), reads := [(src, n)], dests := [(dst, n)] }) .none)

/-- The region descriptor of an entry passes R13 (R202, R257). -/
def State.regionHeader (s : State) (b : Bytes) : Nat := headerStatus s.link.effLevel 24 ((b.drop 32).take 24) 0x30 0x0301 24

/-- MAP_REGION (R202, R203, R214). -/
def execMapRegion (q : Fin 64) (s : State) : Result :=
  .next (s.runHead q.val cMAP fun s b =>
    let p := (s.queue q.val).part
    let d := regionDesc (b.drop 32)
    let h := s.regionHeader b
    let st := if h ≠ 0 then h else s.mapStatus p d
    s.stageRun q.val { status := st } (.mapRegion p (keyOf d.base) d.slabs d.kind d.model d.pin))

/-- UNMAP_REGION (R203). -/
def execUnmapRegion (q : Fin 64) (s : State) : Result :=
  .next (s.runHead q.val cUNMAP fun s b =>
    let p := (s.queue q.val).part
    let d := regionDesc (b.drop 32)
    let h := s.regionHeader b
    let st := if h ≠ 0 then h else s.unmapStatus p d
    s.stageRun q.val { status := st } (.unmapRegion p (keyOf d.base) d.slabs))

/-- The checks of REGISTER_GSET, and the slabs it takes (R158, R159). -/
def State.registerCheck (s : State) (p a : Nat) : Except Nat (List Nat) := do
  let g ← s.readGset p a false
  let st := s.writesStatus p (g.tensors.flatMap fun o => o.spans o.viewRows)
  if st ≠ 0 then .error st
  else if !s.gsetFits p g.slabs then .error 0x0282
  else .ok g.slabs

/-- REGISTER_GSET (R159). -/
def execRegisterGset (q : Fin 64) (s : State) : Result :=
  .next (s.runHead q.val cREGISTER fun s b =>
    match s.registerCheck (s.queue q.val).part (field b 32 6) with
    | .error st => s.stageRun q.val (.fail st) .none
    | .ok ks => s.stageRun q.val {} (.registerGset (field b 32 6) ks))

/-- RELEASE_GSET (R257). -/
def execReleaseGset (q : Fin 64) (s : State) : Result :=
  .next (s.runHead q.val cRELEASE fun s b =>
    match s.readGset (s.queue q.val).part (field b 32 6) true with
    | .error st => s.stageRun q.val (.fail st) .none
    | .ok _ => s.stageRun q.val {} (.releaseGset (field b 32 6)))

/-- STREAM_CONFIG (R174, R175). -/
def execStreamConfig (q : Fin 64) (s : State) : Result :=
  .next (s.runHead q.val cSTREAM fun s b =>
    let p := (s.queue q.val).part
    match s.readDesc p (field b 32 6) 0x22 0x0204 (fun h => 96 + 8 * field h 6 2) 8 with
    | .error st => s.stageRun q.val (.fail st) .none
    | .ok c => s.stageRun q.val { status := s.streamStatus p c } (.streamConfig c))

/-- STEP_MARK (R176). -/
def execStepMark (q : Fin 64) (s : State) : Result :=
  .next (s.runHead q.val cMARK fun s _ => s.stageRun q.val {} .stepMark)

/-- COMMIT (R263). -/
def execCommit (q : Fin 64) (s : State) : Result := .next (s.commitHead q.val).settle

/-- STAGING_WAIT_END (R213): staging slabs have been released, and the head command of `q` draws those it needs. -/
def execStagingWaitEnd (q : Fin 64) (s : State) : Result :=
  let n := ((s.head? q.val).map (·.staged.need.length)).getD 0
  .next ((State.allocate q.val n s).settleRun q.val).settle

/-- TILE_ACCEPT (R147): the H-die accepts the waiting tile of `q`'s command when hub-ingress credit is free. -/
def execTileAccept (q : Fin 64) (s : State) : Result :=
  match s.head? q.val with
  | none => .next s
  | some c =>
    if c.tileWait && c.phase == .started then .next ((s.pushTiles q.val).settleRun q.val).settle else .next s

/-- A write of HQ_KILL: INDEX is stored; ALL kills every command of the queue, KILL the one at INDEX (R253, R266). -/
def State.writeKill (s : State) (q : Nat) (v : Word) : State :=
  let i := v.toNat % 65536
  let s := s.modQueue q fun x => { x with killIndex := i }
  if v.getLsbD 17 then
    let (s, late) := State.killEach q ((s.queue q).fifo.map (·.idx)) s
    (s.modQueue q fun x => { x with killDone := true, tooLate := late }).settle
  else if v.getLsbD 16 then
    let (s, late) := s.killIndexed q i
    (s.modQueue q fun x => { x with killDone := true, tooLate := late }).settle
  else s

/-- KILL (R266). -/
def execKill (q : Fin 64) (v : Word) (s : State) : Result := .next (s.bar0 fun s => s.writeKill q.val v)

/-- KILL_ALL (R253). -/
def execKillAll (q : Fin 64) (v : Word) (s : State) : Result := .next (s.bar0 fun s => s.writeKill q.val v)

/-- C0_BUDGET_EXCEEDED (R272 step 6): a class-0 command within its envelope that has not committed ends with 0x0404. -/
def execC0BudgetExceeded (q : Fin 64) (s : State) : Result :=
  match s.head? q.val with
  | none => .next s
  | some c =>
    if (s.queue q.val).cls == 0 && c.envelope && killable c then .next (((s.discardRun q.val).endFinal q.val 0x0404).fixPoolWait (s.queue q.val).part).settle else .next s

/-- TOKEN_REFILL (R271): one millisecond's refill. -/
def execTokenRefill (p : Fin 16) (s : State) : Result :=
  .next (s.modPart p.val fun pt => { pt with tokens := min pt.c0Burst (pt.tokens + pt.c0Rate) })

end Sys2Proof.Machine
end

