-- ==== Sys2Proof/Machine/TileCommands.lean ====
section
/-! DEFINITION. Tile-program instructions as commands on the vector engine of one core (R138 to R140). -/

namespace Sys2Proof.Machine

/-- The vector engine of a physical core; an engine that is not listed is at zero (R81, R449). -/
def State.engine (s : State) (core : Nat) : TileCtx := ((s.engines.find? fun e => e.1 == core).map (·.2)).getD {}

/-- Replace the vector engine of a core. -/
def State.setEngine (s : State) (core : Nat) (c : TileCtx) : State :=
  s.setEngines ((core, c) :: s.engines.filter fun e => e.1 != core)

/-- A tile that has ended or faulted is over: the next instruction is the first of a new tile, its registers at +0 (R138, R139). -/
def TileCtx.fresh (c : TileCtx) : TileCtx :=
  if c.ended || c.fault then { c with regs := [], masks := [], loops := [], pc := 0, done := 0, ended := false, fault := false, sends := [], tile := none } else c

/-- A core that is in service runs instructions: a spare, failed or fused-off core is powered down (R24). -/
def State.coreOn (s : State) (core : Nat) : Bool := (s.core core).st == .enabled

/-- The FORM 1 run of the command that holds a core: its queue, its checked set, the rows and columns of its accumulators and the tiles of the core in order, by tile row and column (R118, R138). -/
structure CoreRun where
  q : Nat := 0
  t : ProdSet := {}
  rows : Nat := 0
  tiles : List (Nat × Nat) := []
  /-- The accumulators of the whole command, once they are asked for. -/
  acc : Unit → Mat := fun _ => []

/-- The run on physical core `core`, when a PRODUCT or CHAINED with a FORM 1 chain has started on it. -/
def State.coreRun (s : State) (core : Nat) : Option CoreRun :=
  ((s.core core).logical).bind fun l => (s.holder l).bind fun q => (s.head? q).bind fun c =>
    let p := (s.queue q).part
    if c.phase ≠ .started then none
    else if entOp c.entry = cPRODUCT then
      okOr (s.prodSet p (s.queue q).cls c.entry) none fun t => okOr (s.runCount p (field c.entry 68 6) t.m) none fun rows =>
        let mts := max 1 (ceilDiv t.m 256)
        let mine := (((s.heldPieces q).find? fun x => x.1 == l).map (·.2)).getD []
        if t.ch.form = 1 then
          some { q := q, t := t, rows := rows, acc := fun _ => (prodMat s.dev (t.streamed s.dev rows).mat t.w t.pre t.k t.n t.c).1
                 tiles := (mine.filter fun x => x.2 == 0 && decide (256 * (x.1 % mts) < rows)).map fun x => (x.1 % mts, x.1 / mts) }
        else none
    else if entOp c.entry = cCHAINED then
      okOr (s.attnSet p c.entry) none fun x => okOr (s.runCount p (field c.entry 50 6) x.2.2.m) none fun rows =>
        if x.2.2.ch.form = 1 then some { q := q, t := x.2.2, rows := rows, acc := fun _ => attnOut s.dev x.1 x.2.1 x.2.2 rows, tiles := if rows = 0 then [] else [(0, 0)] }
        else none
    else none

/-- The rows of the first accumulator banks of a core's arrays, 256 columns each (R81, R82). -/
def CoreMem.bankRows (c : CoreMem) : List (List Word) :=
  let b := c.banks.map fun x => x.headD []
  (List.range ((b.map List.length).foldl max 0)).map fun i => b.flatMap fun r => r.getD i []

/-- The vector engine of core `core` as its next instruction finds it: the tile in progress; else the next tile of the command whose tile program the core runs, with its accumulators and buffers; else, on a core that runs no tile program, its registers as they are, and the accumulators of its banks (R108, R138; log entry 101). -/
def State.openTile (s : State) (core : Nat) : TileCtx :=
  let c := (s.engine core).fresh
  if c.tile.isSome then c
  else match s.coreRun core with
    | none => { c with acc := (s.coreMem core).bankRows }
    | some r =>
      match r.tiles[c.tiles]? with
      | none => c
      | some (mt, nt) =>
        let bufFmt := if r.t.g.isSome then fFP32 else r.t.y.fmt
        { tileStart (s.tileBase (s.queue r.q).part r.t.ch r.t.epi r.t.y bufFmt r.t.n r.rows) (s.residTile r.t.epi r.rows r.t.n) r.t.n (r.acc ()) mt nt with tiles := c.tiles + 1 }

/-- One instruction on the vector engine of a core in service; one that faults ends the command that holds the core with 0x0107 (R24, R140). -/
def State.tileOn (s : State) (core op : Nat) (a : TileArgs) : State :=
  if !s.coreOn core then s
  else
  let c := tileStep op a (s.openTile core)
  let s := s.setEngine core c
  if c.fault then
    match ((s.core core).logical).bind s.holder with
    | some q => (s.endCmd q 0x0107).settle
    | none => s
  else s

/-- FMA (R139): lane-wise fused multiply-add VD = VA × VB + VC, one rounding. -/
def execFma (core : Fin 864) (a : TileArgs) (s : State) : Result := .next (s.tileOn core.val tFMA a)

/-- ADD (R139): lane-wise add. -/
def execAdd (core : Fin 864) (a : TileArgs) (s : State) : Result := .next (s.tileOn core.val tADD a)

/-- MUL (R139): lane-wise multiply. -/
def execMul (core : Fin 864) (a : TileArgs) (s : State) : Result := .next (s.tileOn core.val tMUL a)

/-- MAX (R139): lane-wise maximum. -/
def execVmax (core : Fin 864) (a : TileArgs) (s : State) : Result := .next (s.tileOn core.val tMAX a)

/-- MIN (R139): lane-wise minimum. -/
def execVmin (core : Fin 864) (a : TileArgs) (s : State) : Result := .next (s.tileOn core.val tMIN a)

/-- CMPLT (R139): lane mask of VA < VB. -/
def execCmplt (core : Fin 864) (a : TileArgs) (s : State) : Result := .next (s.tileOn core.val tCMPLT a)

/-- SEL (R139): lane-wise select by the mask in VC. -/
def execSel (core : Fin 864) (a : TileArgs) (s : State) : Result := .next (s.tileOn core.val tSEL a)

/-- EXP2 (R139): lane-wise 2^VA, correctly rounded (R109). -/
def execExp2 (core : Fin 864) (a : TileArgs) (s : State) : Result := .next (s.tileOn core.val tEXP2 a)

/-- LOG2 (R139): lane-wise log2 VA, correctly rounded (R109). -/
def execLog2 (core : Fin 864) (a : TileArgs) (s : State) : Result := .next (s.tileOn core.val tLOG2 a)

/-- RCP (R139): lane-wise reciprocal, correctly rounded (R109). -/
def execRcp (core : Fin 864) (a : TileArgs) (s : State) : Result := .next (s.tileOn core.val tRCP a)

/-- RSQRT (R139): lane-wise reciprocal square root, correctly rounded (R109). -/
def execRsqrt (core : Fin 864) (a : TileArgs) (s : State) : Result := .next (s.tileOn core.val tRSQRT a)

/-- RSUM (R139): lane sum in the fixed tree, broadcast. -/
def execRsum (core : Fin 864) (a : TileArgs) (s : State) : Result := .next (s.tileOn core.val tRSUM a)

/-- RMAX (R139): lane maximum, broadcast. -/
def execRmax (core : Fin 864) (a : TileArgs) (s : State) : Result := .next (s.tileOn core.val tRMAX a)

/-- CVT (R139): conversion to FMT and back to FP32. -/
def execCvt (core : Fin 864) (a : TileArgs) (s : State) : Result := .next (s.tileOn core.val tCVT a)

/-- QNT (R139): conversion under the output descriptor's rule. -/
def execQnt (core : Fin 864) (a : TileArgs) (s : State) : Result := .next (s.tileOn core.val tQNT a)

/-- ACC (R139): 128 accumulator elements of the current row. -/
def execAccRead (core : Fin 864) (a : TileArgs) (s : State) : Result := .next (s.tileOn core.val tACC a)

/-- LD (R139): load from a buffer; past its end 0x0107. -/
def execLd (core : Fin 864) (a : TileArgs) (s : State) : Result := .next (s.tileOn core.val tLD a)

/-- ST (R139): store to a buffer; past its end 0x0107. -/
def execSt (core : Fin 864) (a : TileArgs) (s : State) : Result := .next (s.tileOn core.val tST a)

/-- BCAST (R139): one FP32 value of a buffer to all lanes. -/
def execBcast (core : Fin 864) (a : TileArgs) (s : State) : Result := .next (s.tileOn core.val tBCAST a)

/-- LOOP (R139): repeat of the next instructions. -/
def execLoopRep (core : Fin 864) (a : TileArgs) (s : State) : Result := .next (s.tileOn core.val tLOOP a)

/-- END (R139): the tile is complete. -/
def execEndTile (core : Fin 864) (a : TileArgs) (s : State) : Result := .next (s.tileOn core.val tEND a)

/-- The tile in the output buffer of a core goes to the transmit path, for the send slot's peer window, when the command that holds the core runs a FORM 1 chain with a send slot (R138, R139, R146). -/
def State.sendTile (s : State) (core : Nat) : State :=
  let e := s.engine core
  match s.coreRun core, e.tile with
  | some r, some (mt, nt) =>
    match r.t.epi.find? fun x => slotKind x.st == 1 with
    | none => s
    | some x =>
      if s.hasPeer x.pw.ep then
        let send := (x.pw, tilePieces x.pw e.bufFmt mt nt (e.tileMat r.t.n nt e.out))
        (s.setSends r.q (addSends (((s.head? r.q).map (·.staged.sends)).getD []) [send])).pushTiles r.q
      else (s.endCmd r.q 0x0A03).settle
  | _, _ => s

/-- SEND (R139): the output buffer goes to the send slot's peer window. -/
def execSendTile (core : Fin 864) (a : TileArgs) (s : State) : Result :=
  let t := s.tileOn core.val tSEND a
  .next (if s.coreOn core.val && !(t.engine core.val).fault then t.sendTile core.val else t)

end Sys2Proof.Machine
end

