-- ==== Sys2Proof/Machine/Partitions.lean ====
section
/-! DEFINITION. Partitions, granted host memory, cellar leases on both sides, and migration (R211 to R252). -/

namespace Sys2Proof.Machine

/-! Admission descriptors (R245, R246). -/

/-- An admission descriptor's fields (R245). -/
structure AdmDesc where
  part : Nat
  weights : List Nat
  cores : Nat
  c0 : Nat
  rate : Nat
  burst : Nat
  res : List Nat
  stageT1 : Nat
  stageT2 : Nat
  c0Stage : Nat
  queues : Nat
  deriving DecidableEq, Repr

/-- Decode an admission descriptor. -/
def admDesc (b : Bytes) : AdmDesc :=
  { part := byteAt b 4 % 16, weights := [byteAt b 5, byteAt b 6, byteAt b 7], cores := field b 8 2, c0 := field b 10 2, rate := field b 12 4
    burst := field b 16 4, res := [field b 20 3, field b 24 3, field b 28 3, field b 32 3], stageT1 := field b 36 2, stageT2 := field b 38 2
    c0Stage := field b 40 2, queues := field b 48 8 }

/-- RES_Tn of a descriptor. -/
def AdmDesc.resOf (d : AdmDesc) (t : Tier) : Nat := d.res.getD (tierIx t) 0

/-- The queues of a descriptor. -/
def AdmDesc.queueList (d : AdmDesc) : List Nat := (List.range 64).filter fun q => bit d.queues q

/-- The fields that MODIFY changes break the first row of R246 or the ranges of R245 (log entry 20). -/
def AdmDesc.badCore (d : AdmDesc) : Bool :=
  d.weights.contains 0 || d.cores == 0 || decide (800 < d.cores) || decide (d.cores < d.c0) || decide (1000 < d.rate) || decide (1000000 < d.burst) ||
    (decide (0 < d.c0) && (d.rate == 0 || d.burst == 0))

/-- The other fields break the first row of R246 or the ranges of R245. -/
def AdmDesc.badPools (d : AdmDesc) : Bool :=
  decide (4095 < d.stageT1) || decide (4095 < d.stageT2) || decide (d.resOf .t1 < d.stageT1) || decide (d.resOf .t2 < d.stageT2) ||
    decide (d.stageT1 < d.c0Stage) || d.queues == 0

/-! Assigning cores (R247). -/

/-- Logical cores of B-die `b` in service that no partition but `p` holds, ascending. -/
def State.freeOn (s : State) (p b : Nat) : List Nat :=
  let held := (s.parts.zipIdx.filter fun x => x.1.admitted && x.2 != p).flatMap fun x => x.1.coreSet
  ascending ((s.cores.filterMap fun c => if c.st == .enabled then c.logical else none).filter fun l => l / 200 == b && !held.contains l)

/-- Index of the longest list, the first of equals. -/
def longest (l : List (List Nat)) : Nat :=
  (l.zipIdx.foldl (fun (b : Nat × Nat) x => if b.1 < x.1.length then (x.1.length, x.2) else b) (0, 0)).2

/-- Take cores one at a time from the B-die with the most free cores (R247). -/
def takeCores : Nat → List (List Nat) → List Nat
  | 0, _ => []
  | n + 1, l =>
    let b := longest l
    match (l.getD b []).head? with
    | none => []
    | some x => x :: takeCores n (updAt l b List.tail)

/-- The cores that R247 gives partition `p`, the class-0 set first. -/
def State.assignCores (s : State) (p n : Nat) : List Nat := takeCores n ((List.range 4).map (s.freeOn p))

/-- Reserved cores of the partitions other than `p`. -/
def State.reservedCores (s : State) (p : Nat) : Nat := ((s.parts.zipIdx.filter fun x => x.1.admitted && x.2 != p).map fun x => x.1.cores).sum

/-- The T1 shares of every slice fit when partition `p` has the given reservation and cores (R211). -/
def State.sharesFit (s : State) (p res : Nat) (cs : List Nat) : Bool :=
  (List.range 4).all fun b =>
    decide (shareOf res cs b + ((s.parts.zipIdx.filter fun x => x.1.admitted && x.2 != p).map fun x => shareOf (x.1.resOf .t1) x.1.coreSet b).sum ≤ s.mem.sliceCap.getD b 0)

/-- Status of an admission by R246 but for the leases; `lent`: the lent slabs count against T2. -/
def State.admitStatus (s : State) (d : AdmDesc) (lent : Bool) : Nat :=
  let cs := s.assignCores d.part d.cores
  if d.badCore || d.badPools then 0x0401
  else if (s.part d.part).admitted then 0x0482
  else if s.inv.enabled < d.cores + s.reservedCores d.part ∨ cs.length < d.cores ∨ d.queueList.any (fun q => (s.queue q).assigned) = true then 0x0481
  else if s.mem.capT1 < s.reserved .t1 + d.resOf .t1 ∨ s.sharesFit d.part (d.resOf .t1) cs = false then 0x0381
  else if s.mem.capT2 < s.reserved .t2 + d.resOf .t2 + 2304 + (if lent then s.lentSlabs else 0) then 0x0381
  else if s.mem.capT3 < s.reserved .t3 + d.resOf .t3 then 0x0381
  else 0

/-! Ending an admission (R230, R246). -/

/-- The operation in progress ends with a status. -/
def State.endAdmit (s : State) (status : Nat) : State :=
  (s.modAdm fun a => { a with busy := false, status := status }).modFab fun b => { b with asking := none }

/-- One more admission, modification or reset (R447). -/
def State.countLayout (s : State) : State := s.setSec { s.sec with layouts := (s.sec.layouts + 1) % 2 ^ 32 }

/-- The admission fails: every lease that it accepted is released (R230). -/
def State.failAdmit (s : State) (p status : Nat) : State :=
  ((s.releaseLeases p (s.part p).leases).modPart p fun pt => { pt with leases := [] }).endAdmit status

/-- Create the partition of a descriptor; the class-0 budget starts full (R246, R247, R271, R454; log entry 20). -/
def State.createPart (s : State) (d : AdmDesc) : State :=
  let p := d.part
  let cs := s.assignCores p d.cores
  let s := s.modPart p fun pt => { pt with
    admitted := true, weights := d.weights, cores := d.cores, c0Cores := d.c0, c0Rate := d.rate, c0Burst := d.burst, tokens := d.burst
    res := d.res, stageT1 := d.stageT1, stageT2 := d.stageT2, c0Stage := d.c0Stage, queues := BitVec.ofNat 64 d.queues
    c0Set := cs.take d.c0, general := cs.drop d.c0, axes := pt.axes }
  let s := d.queueList.foldl (fun s q => s.modQueue q fun x => { x with part := p, assigned := true, seq := 0 }) s
  let s := s.setMeter { s.meter with gen := updAt s.meter.gen p fun n => (n + 1) % 65536 }
  s.countLayout.endAdmit 0

/-- The leases cover RES_T4: the conditions are checked again, and the partition is created (R230). -/
def State.tryAdmit (s : State) (d : AdmDesc) : State :=
  let st := s.admitStatus d true
  if st = 0 then s.createPart d else s.failAdmit d.part st

/-- Ask the lenders of a list in turn for the slabs still missing; one with no peer entry counts as a refusal (R230, R445). -/
def State.askFrom (b : Bytes) : List Nat → State → State
  | [], s => s.failAdmit (admDesc b).part 0x0381
  | k :: r, s =>
    let w := s.mem.lenders.getD k 0
    let ep := bits w.toNat 19 0
    if w.getLsbD 31 && s.hasPeer ep then
      let p := (admDesc b).part
      let miss := (admDesc b).resOf .t4 - ((s.part p).leases.map (·.slabs)).sum
      (s.partCtrl ep 0 p (leaseMsg 1 p 0 miss 0)).modFab fun x => { x with asking := some (p, k, b), askSeq := (s.flow ep ctrlClass).next }
    else State.askFrom b r s

/-- Go on with an admission from lender `k`. -/
def State.askNext (s : State) (k : Nat) (b : Bytes) : State :=
  let d := admDesc b
  if d.resOf .t4 ≤ ((s.part d.part).leases.map (·.slabs)).sum then s.tryAdmit d
  else State.askFrom b ((List.range 8).drop k) s

/-! Lending (R228 to R231). -/

/-- Reclaim lent slabs, newest lease first, until those under reclaim make up `n` (R231). -/
def State.reclaimLent (n : Nat) : List Lent → State → State
  | [], s => s
  | l :: r, s =>
    if n ≤ ((s.mem.lent.filter (·.reclaim)).map (·.slabs)).sum then s
    else if l.reclaim then State.reclaimLent n r s
    else
      let s := s.setMem { s.mem with lent := s.mem.lent.map fun x => if x.id = l.id then { x with reclaim := true } else x }
      State.reclaimLent n r (s.sendCtrl l.ep l.bpart 0 (leaseMsg 4 l.bpart l.id l.slabs l.noticeMs))

/-- Reclaim `n` lent slabs. -/
def State.reclaimSlabs (s : State) (n : Nat) : State := State.reclaimLent n s.mem.lent.reverse s

/-- Lent slabs have come back: an admission that waited for them goes on when they suffice (R231). -/
def State.lentBack (s : State) : State :=
  match s.fab.asking with
  | some (_, 100, b) => if s.admitStatus (admDesc b) true = 0x0381 ∧ s.admitStatus (admDesc b) false = 0 then s else s.askNext 0 b
  | _ => s

/-- Take leases back into this module's T2 (R230, R231). -/
def State.takeBack (s : State) (f : Lent → Bool) : State := (s.setMem { s.mem with lent := s.mem.lent.filter fun l => !f l }).lentBack

/-! The admission register (R246, R248, R250, R251). -/

/-- The descriptor that PART_ADMIT_ADDR names. -/
def State.admBytes (s : State) : Bytes := s.hostSeen (s.adm.addrHi.toNat * 2 ^ 32 + s.adm.addrLo.toNat) 64

/-- Header checks of an admission descriptor. -/
def State.admHeader (s : State) (b : Bytes) : Nat := headerStatus s.link.effLevel 65536 b 0x42 0x0401 64

/-- ADMIT is written (R246, R230, R231). -/
def State.admitNow (s : State) : State :=
  let b := s.admBytes
  let d := admDesc b
  let h := s.admHeader b
  let st := if h ≠ 0 then h else s.admitStatus d false
  if st ≠ 0 then s.endAdmit st
  else
    let s := (s.modAdm fun a => { a with busy := true }).modPart d.part fun pt => { pt with leases := [] }
    if s.admitStatus d true = 0 then s.askNext 0 b
    else
      let short := s.reserved .t2 + d.resOf .t2 + 2304 + s.lentSlabs - s.mem.capT2
      (s.reclaimSlabs short).modFab fun x => { x with asking := some (d.part, 100, b) }

/-- A command of partition `p` is queued or running. -/
def State.partBusy (s : State) (p : Nat) : Bool := s.queues.any fun q => q.assigned && q.part == p && !q.fifo.isEmpty

/-- Status of a MODIFY (R250, R192; the order of its statuses: log entry 20). -/
def State.modifyStatus (s : State) (d : AdmDesc) : Nat :=
  let pt := s.part d.part
  let cs := s.assignCores d.part d.cores
  if d.badCore || d.badPools || !pt.admitted then 0x0401
  else if s.partBusy d.part then 0x0482
  else if cfgDest pt.stream.cfg ≠ 0 ∧ d.cores ≠ pt.cores then 0x0205
  else if s.inv.enabled < d.cores + s.reservedCores d.part ∨ cs.length < d.cores then 0x0481
  else if s.sharesFit d.part (pt.resOf .t1) cs = false ∨
      (List.range 4).any (fun b => decide (4 * shareOf (pt.resOf .t1) cs b < s.quartersOf d.part b)) = true then 0x0381
  else 0

/-- MODIFY is written (R250). -/
def State.modifyNow (s : State) : State :=
  let b := s.admBytes
  let d := admDesc b
  let h := s.admHeader b
  let st := if h ≠ 0 then h else s.modifyStatus d
  if st ≠ 0 then s.endAdmit st
  else
    let cs := s.assignCores d.part d.cores
    let s := s.clearEngines ((s.part d.part).coreSet.filter fun l => !cs.contains l)
    let s := s.modPart d.part fun pt => { pt with
      weights := d.weights, cores := d.cores, c0Cores := d.c0, c0Rate := d.rate, c0Burst := d.burst, tokens := min pt.tokens d.burst
      c0Set := cs.take d.c0, general := cs.drop d.c0 }
    s.countLayout.endAdmit 0

/-- A write of PART_ADMIT_CTRL; ADMIT, MODIFY and RESET are ignored while BUSY reads 1 (R248; several in one write: log entry 20). -/
def State.writeAdmit (s : State) (v : Word) : State :=
  let s := s.modAdm fun a => { a with part := bits v.toNat 7 4 }
  let s := if v.getLsbD 0 && !s.adm.busy then s.admitNow else s
  let s := if v.getLsbD 1 && !s.adm.busy then s.modifyNow else s
  if v.getLsbD 2 && !s.adm.busy then (s.resetPart s.adm.part).endAdmit 0 else s

/-- ADMIT (R246). -/
def execAdmit (v : Word) (host : List HostBlk) (s : State) : Result := .next (s.bar0 fun s => ((s.hostStore host).writeAdmit v).settle)

/-- MODIFY (R250). -/
def execModify (v : Word) (host : List HostBlk) (s : State) : Result := .next (s.bar0 fun s => ((s.hostStore host).writeAdmit v).settle)

/-- PARTITION_RESET (R251). -/
def execPartitionReset (v : Word) (s : State) : Result := .next (s.bar0 fun s => (s.writeAdmit v).settle)

/-! Granted host memory (R224, R225). -/

/-- The entries of a grant table. -/
def grantEntries (b : Bytes) : List (Nat × Nat) := (List.range (field b 4 2)).map fun k => (field b (16 + 16 * k) 8, field b (24 + 16 * k) 4)

/-- Two granted ranges meet. -/
def grantsMeet (x y : Nat × Nat) : Bool := decide (x.1 < y.1 + y.2 * slabB) && decide (y.1 < x.1 + x.2 * slabB)

/-- Status of a grant table: the checks of R13 and R225 all give 0x0305; the total and the overlaps take in what is granted already (log entry 21). -/
def State.grantStatus (s : State) (b : Bytes) : Nat :=
  let n := field b 4 2
  let es := grantEntries b
  let all := s.mem.grants ++ es
  if headerStatus s.link.effLevel 65536 b 0x31 0x0305 (16 + 16 * n) ≠ 0 ∨ n = 0 ∨ 256 < n then 0x0305
  else if es.any fun e => e.1 % slabB != 0 || e.2 == 0 then 0x0305
  else if all.zipIdx.any fun x => (all.drop (x.2 + 1)).any (grantsMeet x.1) then 0x0305
  else if 1048576 < (all.map (·.2)).sum then 0x0305
  else 0

/-- Replace the grants; PART_MEM_CAP_T3 is their slabs (R205, R240). -/
def State.setGrants (s : State) (l : List (Nat × Nat)) : State := s.setMem { s.mem with grants := l, capT3 := (l.map (·.2)).sum }

/-- A write of PART_MEM_T3_CTRL, ignored while a partition exists (R224). -/
def State.writeT3 (s : State) (v : Word) : State :=
  if s.anyPart then s
  else
    let b := s.hostSeen (s.mem.t3Hi.toNat * 2 ^ 32 + s.mem.t3Lo.toNat) 4112
    let st := s.grantStatus b
    let s := if v.getLsbD 0 then
        let s := s.setMem { s.mem with t3Status := st }
        if st = 0 then s.setGrants (s.mem.grants ++ grantEntries b) else s
      else s
    if v.getLsbD 1 then s.setGrants [] else s

/-- GRANT (R224). -/
def execGrant (v : Word) (host : List HostBlk) (s : State) : Result := .next (s.bar0 fun s => (s.hostStore host).writeT3 v)

/-- REVOKE (R224). -/
def execRevoke (v : Word) (s : State) : Result := .next (s.bar0 fun s => s.writeT3 v)

/-! Leases: the lender's side (R228 to R231). -/

/-- A write of PART_MEM_LEND_CTRL (R231, R242). -/
def State.writeLend (s : State) (v : Word) : State :=
  let s := s.setMem { s.mem with lendMax := bits v.toNat 23 0, notice := max 5 (bits v.toNat 31 24) }
  s.reclaimSlabs (s.lentSlabs - s.mem.lendMax)

/-- LEND_MAX_WRITE (R231). -/
def execLendMaxWrite (v : Word) (s : State) : Result := .next (s.bar0 fun s => s.writeLend v)

/-- Slabs that this module may still lend: within LEND_MAX, of T2 capacity that is unreserved and beyond the admission margin (R228). -/
def State.lendRoom (s : State) : Nat := min (s.mem.lendMax - s.lentSlabs) (s.mem.capT2 - (2304 + s.reserved .t2 + s.lentSlabs))

/-- LEASE_REQUEST (R228, R229): the lender grants what it can of the slabs wanted, or refuses (log entry 22). -/
def execLeaseRequest (h : PftHdr) (bpart : Fin 16) (slabs : BitVec 32) (s : State) : Result :=
  let (s, ok) := s.rxLease h
  if !ok then .next s
  else
    let ep := h.srcEp.toNat
    let n := min slabs.toNat s.lendRoom
    if n = 0 then .next (s.sendCtrl ep bpart.val 0 (leaseMsg 3 bpart.val 0 0 0))
    else
      let id := s.mem.nextLease
      let s := s.setMem { s.mem with
        nextLease := (id + 1) % 2 ^ 32
        lent := s.mem.lent ++ [{ ep := ep, bpart := bpart.val, id := id, slabs := n, noticeMs := 10 * s.mem.notice }] }
      .next (s.sendCtrl ep bpart.val 0 (leaseMsg 2 bpart.val id n (10 * s.mem.notice)))

/-- LEASE_RELEASE (R231): the slabs return to the lender's T2. -/
def execLeaseRelease (h : PftHdr) (bpart : Fin 16) (lease : BitVec 32) (s : State) : Result :=
  let (s, ok) := s.rxLease h
  if ok then .next (s.takeBack fun l => l.ep == h.srcEp.toNat && l.bpart == bpart.val && l.id == lease.toNat).settle else .next s

/-- LENDER_NOTICE_EXPIRY (R231). -/
def execLenderNoticeExpiry (lease : BitVec 32) (s : State) : Result := .next (s.takeBack fun l => l.reclaim && l.id == lease.toNat).settle

/-- BORROWER_UNREACHABLE_END (R230): the borrower has been unreachable for 10 s. -/
def execBorrowerUnreachableEnd (ep : BitVec 20) (s : State) : Result :=
  if s.fab.unreachable.any fun u => u.1 == ep.toNat then .next (s.takeBack fun l => l.ep == ep.toNat).settle else .next s

/-- Serve a cellar request: the lease's bytes are read or written; a request outside a lease of its sender gets a PFT error response (R228, R448). -/
def State.serveCellar (h : PftHdr) (number : BitVec 16) (lease : BitVec 32) (offset : BitVec 48) (len : Nat) (data : Option Bytes) (s : State) : State :=
  let (s, ok) := s.rxData h 6
  if !ok then s
  else
    let ep := h.srcEp.toNat
    let n := match data with | some d => d.length | none => len
    match s.mem.lent.find? fun l => l.ep == ep && l.id == lease.toNat with
    | none => s.emit (.cellarError ep number.toNat)
    | some l =>
      if l.slabs * slabB < offset.toNat + n then s.emit (.cellarError ep number.toNat)
      else match data with
        | none => s.emit (.cellarAnswer ep number.toNat (Memory.read l.data offset.toNat len))
        | some d =>
          let s := s.setMem { s.mem with lent := s.mem.lent.map fun x => if x.id = l.id then { x with data := Memory.write x.data offset.toNat d } else x }
          s.emit (.cellarAnswer ep number.toNat [])

/-- CELLAR_REQUEST (R228, R448): during a warm reset it waits in the hub ingress buffer (R482; log entry 26). -/
def execCellarRequest (h : PftHdr) (number : BitVec 16) (lease : BitVec 32) (offset : BitVec 48) (len : Nat) (data : Option Bytes) (s : State) : Result :=
  if s.phase == .warm then .next (s.modFab fun b => { b with heldReqs := b.heldReqs ++ [.cellarRequest h number lease offset len data] })
  else .next (State.serveCellar h number lease offset len data s)

/-! Leases: the borrower's side (R230, R232). -/

/-- The lender that an admission waits for. -/
def State.askedEp (s : State) : Option (Nat × Nat × Nat × Bytes) :=
  match s.fab.asking with
  | some (p, k, b) => if k < 8 then some (p, k, bits (s.mem.lenders.getD k 0).toNat 19 0, b) else none
  | none => none

/-- The bound of R230 on a grant, and the range of its NOTICE_MS (R229). -/
def State.grantOk (s : State) (slabs noticeMs : Nat) : Bool :=
  decide (50 ≤ noticeMs) && decide (slabs * 2097152 ≤ noticeMs * s.mem.cellarRate * 1000000)

/-- LEASE_GRANT (R230). -/
def execLeaseGrant (h : PftHdr) (bpart : Fin 16) (lease slabs : BitVec 32) (noticeMs : BitVec 16) (s : State) : Result :=
  let (s, ok) := s.rxLease h
  let ep := h.srcEp.toNat
  let back : State → State := fun s => s.partCtrl ep 0 bpart.val (leaseMsg 5 bpart.val lease.toNat slabs.toNat 0)
  if !ok then .next s
  else match s.askedEp with
    | none => .next (back s)
    | some (p, k, e, b) =>
      if p ≠ bpart.val ∨ e ≠ ep then .next (back s)
      else if s.grantOk slabs.toNat noticeMs.toNat then
        .next ((s.modPart p fun pt => { pt with
          leases := pt.leases ++ [{ lender := ep, id := lease.toNat, slabs := slabs.toNat, noticeMs := noticeMs.toNat }] }).askNext (k + 1) b).settle
      else .next ((back s).askNext (k + 1) b).settle

/-- LEASE_REFUSE (R230). -/
def execLeaseRefuse (h : PftHdr) (bpart : Fin 16) (s : State) : Result :=
  let (s, ok) := s.rxLease h
  if !ok then .next s
  else match s.askedEp with
    | none => .next s
    | some (p, k, e, b) => if p = bpart.val ∧ e = h.srcEp.toNat then .next (s.askNext (k + 1) b).settle else .next s

/-- LENDER_TIMEOUT (R230, R297): the lender asked counts as having refused, and its request is not sent again. -/
def execLenderTimeout (p : Fin 16) (s : State) : Result :=
  match s.askedEp with
  | none => .next s
  | some (p', k, e, b) => if p' = p.val then .next ((s.forgetPkts [(e, s.fab.askSeq)] ctrlClass).askNext (k + 1) b).settle else .next s

/-- LEASE_ADMISSION_DEADLINE (R230). -/
def execLeaseAdmissionDeadline (p : Fin 16) (s : State) : Result :=
  match s.fab.asking with
  | none => .next s
  | some (p', _, b) => if p' = p.val ∧ 0 < (admDesc b).resOf .t4 then .next (s.failAdmit p' 0x0381) else .next s

/-- Leases of a partition under reclaim with a LEASE_ID. -/
def State.reclaimed (s : State) (p id : Nat) : List Lease := (s.part p).leases.filter fun l => l.id == id && l.reclaim.isSome

/-- RECLAIM_DEADLINE (R232 step 3): slabs still in the lease become LOST. -/
def execReclaimDeadline (p : Fin 16) (lease : BitVec 32) (s : State) : Result :=
  .next ((s.reclaimed p.val lease.toNat).foldl (fun s l => s.loseSlabs p.val (s.leaseSlabs p.val l.lender l.id)) s)

/-- RECLAIM_NOTICE_END (R232 step 4): RELEASE goes out and RES_T4 falls. -/
def execReclaimNoticeEnd (p : Fin 16) (lease : BitVec 32) (s : State) : Result :=
  .next ((s.reclaimed p.val lease.toNat).foldl (fun s l => (s.endLease p.val l.lender l.id).partCtrl l.lender 0 p.val (leaseMsg 5 p.val l.id l.slabs 0)) s)

/-! Migration (R216 to R223, R234, R235). -/

/-- Slots of B-die `b`'s migration DMA left to partition `p` (R217, R274). -/
def State.slotsLeft (s : State) (p b : Nat) : Nat :=
  s.shareCredit (4 + b) p - (s.mem.migrations.filter fun m => partOfKey m.key == p && m.bdie == b && !m.switched).length

/-- Promote one slab towards T1 where the staging pool keeps its frames, or make room for it by demoting the coldest colder one; what R156 holds in T2 goes there, and a slab of T1 goes near its core (R156, R210; log entry 6). -/
def State.promote (s : State) (p : Nat) (x : Slab) : State :=
  if s.slotsLeft p (homeDie x.tier x.near x.frame) = 0 then s
  else if x.home = some .t2 ∧ x.movable = true then (if x.tier = some .t2 then s else s.startMove x.key .t2 3)
  else if x.tier = some .t1 then
    (match x.pieceCore with
     | some l => if x.near ≠ some (l / 200) ∧ s.roomT1 p (some (l / 200)) = true then s.startMove x.key .t1 3 else s
     | none => s)
  else if (s.placeT1 p x.pieceCore).isSome && s.poolShort p .t1 1 == 0 then s.startMove x.key .t1 3
  else if !x.movable then s
  else
    match s.coldest p .t1 (fun y => hotter x y || (x.home == some .t1 && y.home != some .t1)) with
    | none => s
    | some y => s.demote p y 3

/-- Rebalance one partition: slabs that R156 gives a tier first, then the others from the hottest down; a pinned slab goes to T1, and there near its core (R156, R159, R210, R217, R218, R223). -/
def State.rebalancePart (s : State) (p : Nat) : State :=
  let cand := s.mem.slabs.filter fun x => x.part == p && x.atRest && x.tier.isSome
  let l := byHeat cand.length cand
  (l.filter (·.home.isSome) ++ l.filter (·.home.isNone)).foldl (fun s x => s.promote p x) s

/-- REBALANCE (R217): shed while the steward's load level is 1 or more (R492). -/
def execRebalance (s : State) : Result :=
  if s.steward.shed ≠ 0 then .next s
  else .next ((List.range 16).foldl (fun s p => if (s.part p).admitted then s.rebalancePart p else s) s)

/-- ACCESS_COUNT_HALVING (R216). -/
def execAccessCountHalving (s : State) : Result := .next (s.setSlabs (s.mem.slabs.map fun x => { x with access := x.access / 2 }))

/-- A tier whose transfers Fuelagrim counts (R454). -/
def lowTier (t : Tier) : Bool := t != .t1

/-- The pages of a move that change their die (R381). -/
def State.moveTraffic (s : State) (m : Migration) : List LinkPkt :=
  match s.slab? m.key with
  | none => []
  | some x =>
    let dest : Slab := { tier := some m.dst, near := m.near, frame := m.frame }
    (List.range 512).filterMap fun j =>
      match x.pageDie j, dest.pageDie j with
      | some a, some b => if a = b then none else some { src := a, dst := b, page := 512 * m.key + j, client := 16, flits := flitsFor 4096 }
      | _, _ => none

/-- The map entry of a slab switches to the destination of its move (R220 step 4); the copy's cellar requests go out with it (log entry 88). -/
def State.switchMove (s : State) (m : Migration) : State :=
  let k := m.key
  let s := if m.src = .t4 then s.cellarRead (moveWho k) (k * slabB) slabB else s
  let s := match m.lease with | some l => s.cellarFill k l m.frame | none => s
  let s := s.linkSend (s.moveTraffic m)
  let s := s.setMigrations (s.mem.migrations.map fun x => if x.key = k then { x with switched := true } else x)
  let s := s.modSlab k fun y => { y with
    tier := some m.dst, frame := m.frame, near := if m.dst = .t1 then m.near else none, st := .resident, lease := m.lease, moved := m.moved, spoilt := false }
  if lowTier m.src || lowTier m.dst then s.meterBytes (partOfKey k) slabB else s

/-- MIGRATION_COPY_DONE (R220 step 4, R222): only a move that holds a slot of its B-die's DMA is being copied. -/
def execMigrationCopyDone (slab : BitVec 27) (s : State) : Result :=
  match s.migration? slab.toNat with
  | none => .next s
  | some m => if m.granted && !m.switched then .next (s.switchMove m) else .next s

/-- A slab pinned while a migration carried it to another tier moves to T1 from there (R159, R220). -/
def State.pinMoves (s : State) (k : Nat) : State :=
  if s.t1Slab k && ((s.slab? k).bind (·.tier)) != some .t1 then s.startMove k .t1 2 else s

/-- SOURCE_FRAME_FREE (R220 step 5). -/
def execSourceFrameFree (slab : BitVec 27) (s : State) : Result :=
  let k := slab.toNat
  if s.mem.migrations.any fun m => m.key == k && m.switched then .next (((s.dropMoves fun m => m.key == k).pinMoves k).evacuate (partOfKey k)) else .next s

/-- A transfer of the head command of `q`, or the migration of a slab, is late or fails (R221, R234, R235). -/
def State.transferEnds (s : State) (q : Nat) (slab : Option (BitVec 27)) (status : Nat) (mark : Part → Part) : State :=
  match slab with
  | some k => (s.abandonMove k.toNat).forgetCellar (moveWho k.toNat) |>.evacuate (partOfKey k.toNat)
  | none =>
    match s.head? q with
    | none => s
    | some c =>
      if c.phase == .started || c.phase == .staged then (((s.modPart (s.queue q).part mark).forgetCellar q).endCmd q status).settle else s

/-- TIER_DEADLINE (R234); out of L0 the deadline of a T3 transfer does not count (R367). -/
def execTierDeadline (q : Fin 64) (slab : Option (BitVec 27)) (s : State) : Result :=
  let who := match slab with | some k => moveWho k.toNat | none => q.val
  if s.link.st == .recovery && !(s.fab.cellar.any fun c => c.1 == who) then .next s
  else .next (s.transferEnds q.val slab 0x0390 fun p => { p with late := true })

/-- TRANSFER_ERROR_ANSWER (R234). -/
def execTransferErrorAnswer (q : Fin 64) (slab : Option (BitVec 27)) (s : State) : Result :=
  .next (s.transferEnds q.val slab 0x0391 fun p => { p with failed := true })

end Sys2Proof.Machine
end

