-- ==== Sys2Proof/Machine/Windows.lean ====
section
/-! DEFINITION. Receive windows, collective and digest packets, and the transport's timers, as commands (R189, R283, R293 to R302, R309 to R312). -/

namespace Sys2Proof.Machine

/-! Windows of a partition (R299). -/

/-- An open window of partition `p`. -/
def State.window? (s : State) (p w : Nat) : Option RecvWindow := (s.part p).windows.find? fun x => x.window == w

/-- Update an open window. -/
def State.modWindow (s : State) (p w : Nat) (f : RecvWindow → RecvWindow) : State :=
  s.modPart p fun pt => { pt with windows := pt.windows.map fun x => if x.window = w then f x else x }

/-- The receive window that a descriptor states, or the status of its checks (R299). -/
def State.windowOf (s : State) (p : Nat) (b : Bytes) : Except Nat RecvWindow := do
  let h := headerStatus s.link.effLevel 65536 b 0x54 0x0504 32
  let w := field b 4 2
  let q := byteAt b 6 % 64
  let base := field b 8 6
  let n := field b 16 6
  let inside := s.mem.regions.any fun r =>
    r.part == p && r.kind == 0 && decide (r.base * slabB ≤ base) && decide (base < (r.base + r.slabs) * slabB) && decide (base + n ≤ (r.base + r.slabs) * slabB)
  if h ≠ 0 then .error h
  else if (s.window? p w).isSome ∨ 4095 < w ∨ base % slabB ≠ 0 ∨ n % 128 ≠ 0 ∨ inside = false then .error 0x0504
  else if (s.queue q).assigned = false ∨ (s.queue q).part ≠ p ∨ (s.queue q).enable = true then .error 0x0504
  else match s.readGroup p (field b 24 6) false with
    | .error st => .error (if st = 0x0001 ∨ st = 0x0002 then st else 0x0504)
    | .ok g => .ok { window := w, queue := q, base := base, bytes := n, senders := g.members }

/-- OPEN is written (R299). -/
def State.openWindow (s : State) (p : Nat) : State :=
  let pt := s.part p
  match s.windowOf p (s.hostSeen (pt.winHi.toNat * 2 ^ 32 + pt.winLo.toNat) 32) with
  | .error st => s.modPart p fun x => { x with winStatus := st }
  | .ok w => s.modPart p fun x => { x with winStatus := 0, windows := x.windows ++ [w] }

/-- CLOSE is written: attempts in progress go without a record; a window that is not open gives 0x0504 (R299, R318). -/
def State.closeWindow (s : State) (p w : Nat) : State :=
  if (s.window? p w).isSome then (s.modPart p fun x => { x with winStatus := 0, windows := x.windows.filter fun y => y.window != w }).fixPoolWait p
  else s.modPart p fun x => { x with winStatus := 0x0504 }

/-- A write of PART_FAB_WIN_CTRL (R317). -/
def State.writeWin (s : State) (p : Nat) (v : Word) : State :=
  let s := s.modPart p fun x => { x with winNo := bits v.toNat 15 4 }
  let s := if v.getLsbD 0 then s.openWindow p else s
  if v.getLsbD 1 then s.closeWindow p (bits v.toNat 15 4) else s

/-- WINDOW_OPEN (R299). -/
def execWindowOpen (p : Fin 16) (v : Word) (host : List HostBlk) (s : State) : Result := .next (s.bar0 fun s => (s.hostStore host).writeWin p.val v)

/-- WINDOW_CLOSE (R299). -/
def execWindowClose (p : Fin 16) (v : Word) (s : State) : Result := .next (s.bar0 fun s => s.writeWin p.val v)

/-- A write of PART_JOB_AXES (R283, R317). -/
def State.writeAxes (s : State) (p : Nat) (v : Word) : State :=
  let st := if s.partBusy p then 0x0482 else if cfgDest (s.part p).stream.cfg ≠ 0 then 0x0205 else 0
  s.modPart p fun x =>
    if st ≠ 0 then { x with axesStatus := st }
    else { x with axesStatus := 0, axes := (List.range 5).map fun k => let a := bits v.toNat (3 * k + 2) (3 * k); if a < 4 then a else 7 }

/-- PART_JOB_AXES_WRITE (R283). -/
def execPartJobAxesWrite (p : Fin 16) (v : Word) (s : State) : Result := .next (s.bar0 fun s => s.writeAxes p.val v)

/-! Attempts (R300 to R303). -/

/-- The highest attempt number that a notice of the sender has closed; 0 when there is none (R302). -/
def RecvWindow.closedOf (w : RecvWindow) (ep part : Nat) : Nat :=
  ((w.closed.find? fun c => c.1 == ep && c.2.1 == part).map (·.2.2)).getD 0

/-- Close attempt `a` of a sender. -/
def RecvWindow.close (w : RecvWindow) (ep part a : Nat) : RecvWindow :=
  let c := w.closedOf ep part
  { w with
    tries := w.tries.filter fun t => !(t.ep == ep && t.part == part && t.attempt == a)
    closed := (ep, part, if newerAttempt a c then a else c) :: w.closed.filter fun x => !(x.1 == ep && x.2.1 == part) }

/-- An attempt in progress. -/
def RecvWindow.try? (w : RecvWindow) (ep part a : Nat) : Option WinAttempt :=
  w.tries.find? fun t => t.ep == ep && t.part == part && t.attempt == a

/-- Replace an attempt, or add it. -/
def RecvWindow.setTry (w : RecvWindow) (t : WinAttempt) : RecvWindow :=
  if (w.try? t.ep t.part t.attempt).isSome then
    { w with tries := w.tries.map fun x => if x.ep = t.ep ∧ x.part = t.part ∧ x.attempt = t.attempt then t else x }
  else { w with tries := w.tries ++ [t] }

/-- The record of an attempt (R302); it carries no NOTIFY (log entry 23). -/
def State.attemptRecord (s : State) (t : WinAttempt) (status : Nat) : Bytes :=
  recordBytes false 1 status ((t.notice.map (·.2)).getD 0) 0 0 (match t.firstUs with | some f => s.nowUs - f | none => 0)

/-- An attempt ends with a record; its slabs are committed when the status is 0, which frees a wait for the pools, counted in the accounting of the receive queue (R177, R302, R263 steps 3 and 5). -/
def State.endAttempt (s : State) (p : Nat) (w : RecvWindow) (t : WinAttempt) (status : Nat) : State :=
  let s := if status = 0 then s.settleSlabs p (t.slabs.filter fun x => (s.slab? x.1).isSome) (t.writes.filter fun c => (s.slab? (keyOf c.1)).isSome) else s
  let s := s.modWindow p w.window fun x => x.close t.ep t.part t.attempt
  let s := match t.poolFrom with | some f => s.modAcct w.queue fun a => a.addWait (s.nowUs - f) | none => s
  (s.putRecord w.queue (s.attemptRecord t status)).fixPoolWait p

/-- End an attempt whose notice has come when the case of R302 that applies is decided; it is held while the ring is full, and waits while it would retain a slab in a full pool (R177). -/
def State.tryEnd (s : State) (p wn ep part a : Nat) : State :=
  match s.window? p wn with
  | none => s
  | some w =>
    match w.try? ep part a with
    | none => s
    | some t =>
      match t.notice with
      | none => s
      | some (n, _) =>
        if t.bad then s.endAttempt p w t 0x0505
        else if t.got < n then s
        else if (s.queue w.queue).ringRoom then
          (if s.poolRoom p (t.slabs.map (·.1)) then s.endAttempt p w t 0
           else (s.modWindow p wn fun x => x.setTry { t with poolWait := true, poolFrom := some (t.poolFrom.getD s.nowUs) }).fixPoolWait p)
        else (s.modWindow p wn fun x => x.setTry { t with held := true }).modQueue w.queue fun x => { x with cqFull := true }

/-- Slabs of the window that `n` bytes at `offset` touch and that the attempt does not hold yet. -/
def RecvWindow.missing (w : RecvWindow) (t : WinAttempt) (offset n : Nat) : List Nat :=
  (spanSlabs (w.base + offset) n).filter fun k => !t.slabs.any fun x => x.1 == k

/-- Hold a slab for an attempt while more are drawn. -/
def State.holdSlabs (s : State) (p wn : Nat) (t : WinAttempt) (ks : List Nat) : Option State :=
  match ks with
  | [] => some (s.modWindow p wn fun x => x.setTry t)
  | k :: r =>
    match s.takeStage p 3 (s.t1Slab k) (s.homeOf [] k) (((s.slab? k).bind (·.pieceCore)).map (· / 200)) with
    | (none, _) => none
    | (some x, s) =>
      let t := { t with slabs := t.slabs ++ [(k, x.1, x.2)] }
      State.holdSlabs (s.modWindow p wn fun y => y.setTry t) p wn t r

/-- The steward refills the pools of partition `p` for an attempt whose packet found no slab and is sent again, when its slow path has a place (R217, R293, R300). -/
def State.refillOnce (s : State) (p : Nat) : State :=
  match s.askCredit 3 p 3 1 (moveWho 0) with
  | (true, s) => (s.refill p).releaseCredit 3 p 1
  | (false, _) => s

/-- A tile of an attempt that is newer than every closed one. -/
def State.takeTile (s : State) (h : PftHdr) (w : RecvWindow) (a offset : Nat) (data : Bytes) : State :=
  let p := h.dstPart.val
  let ep := h.srcEp.toNat
  let part := h.srcPart.val
  let t := (w.try? ep part a).getD { ep := ep, part := part, attempt := a }
  let t := { t with firstUs := some (t.firstUs.getD s.nowUs) }
  let bad := !w.senders.contains (ep, part) || decide (w.bytes < offset + data.length)
  if bad || t.bad then
    let (s, ok) := s.rxAccept h
    if !ok then s
    else
      let s := if t.bad then s else s.fabDrop
      (s.modWindow p w.window fun x => x.setTry { t with bad := true, got := t.got + data.length, slabs := [], writes := [] }).tryEnd p w.window ep part a
  else match s.holdSlabs p w.window t (w.missing t offset data.length) with
    | none => s.fabDrop.refillOnce p
    | some s =>
      let t := ((s.window? p w.window).bind fun x => x.try? ep part a).getD t
      let (s, ok) := s.rxAccept h
      if !ok then s
      else
        let s := s.meterBytes p (stagedLow t.slabs [(w.base + offset, data.length)])
        let t := { t with got := t.got + data.length, writes := t.writes ++ cellsAt (w.base + offset) data }
        (s.modWindow p w.window fun x => x.setTry t).tryEnd p w.window ep part a

/-- A packet that its flow accepts and that is dropped, counted in PORT_FAB_DROP (R302, R448). -/
def State.acceptDrop (s : State) (h : PftHdr) : State :=
  let (s, ok) := s.rxAccept h
  if ok then s.fabDrop else s

/-- A window tile arrives (R289, R293, R300, R302, R448). -/
def State.windowTile (s : State) (h : PftHdr) (wn a offset : Nat) (data : Bytes) : State :=
  let (s, ok) := s.rxOpen h 0x50
  if !ok then s
  else if !s.rxNew h || h.kind.toNat != 0 then (s.rxAccept h).1
  else match (if (s.part h.dstPart.val).admitted then s.window? h.dstPart.val wn else none) with
    | none => s.acceptDrop h
    | some w => if newerAttempt a (w.closedOf h.srcEp.toNat h.srcPart.val) then s.takeTile h w a offset data else (s.rxAccept h).1

/-- WINDOW_TILE (R302). -/
def execWindowTile (h : PftHdr) (window : BitVec 16) (attempt : BitVec 32) (offset : BitVec 48) (data : Bytes) (s : State) : Result :=
  .next (s.windowTile h window.toNat attempt.toNat offset.toNat data).settle

/-- A notice of KIND `kind` for an open window and a live attempt: `f` is applied to the state, the window and the attempt; one of an outsider is a fault of its attempt. -/
def State.notice (s : State) (h : PftHdr) (kind wn a : Nat) (f : State → RecvWindow → WinAttempt → State) : State :=
  let (s, ok) := s.rx h 0x52 kind
  let p := h.dstPart.val
  let ep := h.srcEp.toNat
  let part := h.srcPart.val
  if !ok then s
  else match (if (s.part p).admitted then s.window? p wn else none) with
    | none => s.fabDrop
    | some w =>
      if newerAttempt a (w.closedOf ep part) then
        let out := (w.try? ep part a).isNone && !w.senders.contains (ep, part)
        f (if out then s.fabDrop else s) w ((w.try? ep part a).getD { ep := ep, part := part, attempt := a, bad := out })
      else s

/-- NOTICE_COMMIT (R302). -/
def execNoticeCommit (h : PftHdr) (window : BitVec 16) (attempt : BitVec 32) (bytes : BitVec 48) (tag : BitVec 64) (s : State) : Result :=
  .next (s.notice h 1 window.toNat attempt.toNat fun s w t =>
    let n := s.fab.noticeOrder + 1
    let s := s.modFab fun b => { b with noticeOrder := n }
    (s.modWindow h.dstPart.val w.window fun x => x.setTry { t with notice := some (bytes.toNat, tag.toNat), order := n }).tryEnd
      h.dstPart.val w.window t.ep t.part t.attempt).settle

/-- NOTICE_ABORT (R302): the attempt is discarded and leaves no record. -/
def execNoticeAbort (h : PftHdr) (window : BitVec 16) (attempt : BitVec 32) (s : State) : Result :=
  .next (s.notice h 2 window.toNat attempt.toNat fun s w t =>
    (s.modWindow h.dstPart.val w.window fun x => x.close t.ep t.part t.attempt).fixPoolWait h.dstPart.val).settle

/-- MISSING_TILES_DEADLINE (R302): the oldest attempt of the sender whose notice has come and whose tiles have not is discarded. -/
def execMissingTilesDeadline (p : Fin 16) (window : BitVec 16) (ep : BitVec 20) (spart : Fin 16) (s : State) : Result :=
  match s.window? p.val window.toNat with
  | none => .next s
  | some w =>
    let l := w.tries.filter fun t => t.ep == ep.toNat && t.part == spart.val && !t.held && !t.bad &&
      (match t.notice with | some (n, _) => decide (t.got < n) | none => false)
    match l.foldl (fun b t => match b with | none => some t | some u => if t.order < u.order then some t else b) none with
    | none => .next s
    | some t => .next (s.endAttempt p.val w t 0x0584).settle

/-! Completion-ring room (R263, R302, R350). -/

/-- The held attempts of a queue's windows: partition, window, attempt, in the order of their notices. -/
def State.heldTries (s : State) (q : Nat) : List (Nat × Nat × WinAttempt) :=
  sortBy (fun a b => decide (a.2.2.order ≤ b.2.2.order)) (s.parts.zipIdx.flatMap fun x =>
    (x.1.windows.filter fun w => w.queue == q).flatMap fun w => (w.tries.filter (·.held)).map fun t => (x.2, w.window, t))

/-- The head command of `q`, which waits for ring room, goes on (R263). -/
def State.roomHead (s : State) (q : Nat) : State :=
  match s.head? q with
  | none => s
  | some c => if c.phase == .ringWait then (if c.result = 0 then s.commitHead q else s.endFinal q c.result) else s

/-- The landing record that waited for ring room is written, with the latest TAIL (R364). -/
def State.landRecord (s : State) (q : Nat) : State :=
  if (s.queue q).landPending && (s.queue q).ringRoom then
    (s.modQueue q fun x => { x with landPending := false }).putRecord q (recordBytes false 1 0 (s.part (s.queue q).part).landTail 0 0 0)
  else s

/-- Room has appeared in the completion ring of `q`: held records, then the waiting command, then held attempts, then the landing record. -/
def State.ringRoomNow (s : State) (q : Nat) : State :=
  let s := State.flushRecs q (s.queue q).heldRecs.length s
  let s := if (s.queue q).ringRoom then s.roomHead q else s
  let s := (s.heldTries q).foldl (fun s x => s.tryEnd x.1 x.2.1 x.2.2.ep x.2.2.part x.2.2.attempt) s
  let s := s.landRecord q
  let waits := (match s.head? q with | some c => c.phase == .ringWait | none => false) || !(s.heldTries q).isEmpty || (s.queue q).landPending
  if waits then s else s.modQueue q fun x => { x with cqFull := false }

/-- COMPLETION_RING_ROOM (R263). -/
def execCompletionRingRoom (q : Fin 64) (s : State) : Result := .next (s.ringRoomNow q.val).settle

/-- The attempts into windows of partition `p` that wait for the pools: window and attempt, in the order of their notices (R177). -/
def State.poolTries (s : State) (p : Nat) : List (Nat × WinAttempt) :=
  sortBy (fun a b => decide (a.2.order ≤ b.2.order)) ((s.part p).windows.flatMap fun w => (w.tries.filter (·.poolWait)).map fun t => (w.window, t))

/-- Commits that waited for retained slabs go on: the commands', then the attempts' (R177, R183). -/
def State.retryPool (s : State) (p : Nat) : State :=
  let s := (s.queuesOf p).foldl (fun s q => match s.head? q with | some c => if c.phase == .poolWait then s.commitHead q else s | none => s) s
  ((s.poolTries p).foldl (fun s x => s.tryEnd p x.1 x.2.ep x.2.part x.2.attempt) s).fixPoolWait p

/-- POOL_WAIT_END (R177): export releases one retained slab, and commits that waited proceed. -/
def execPoolWaitEnd (p : Fin 16) (s : State) : Result :=
  let s := s.modStream p.val fun st =>
    if st.retT1 = 0 then { st with retT2 := st.retT2 - 1 } else { st with retT1 := st.retT1 - 1, retNear := st.retNear.tail }
  .next (s.retryPool p.val).settle

/-! Collective packets (R309, R312). -/

/-- A packet of KIND `kind` for a partition that is admitted; one for another partition is counted in PORT_FAB_DROP (R448). -/
def State.rxPart (s : State) (h : PftHdr) (kind : Nat) (f : State → State) : State :=
  let (s, ok) := s.rxData h kind
  if !ok then s else if (s.part h.dstPart.val).admitted then f s else s.fabDrop

/-- Attempt `a` of the sender has been aborted. -/
def State.isAborted (s : State) (h : PftHdr) (id a : Nat) : Bool := s.fab.collAborted.contains (collKey h.dstPart.val id, memberKey h.srcEp.toNat h.srcPart.val, a)

/-- COLLECTIVE_PIECE (R309). -/
def execCollectivePiece (h : PftHdr) (attempt : BitVec 16) (coll : BitVec 32) (offset : BitVec 48) (data : Bytes) (s : State) : Result :=
  .next (s.rxPart h 1 fun s =>
    match s.findColl h.dstPart.val coll.toNat h.srcEp.toNat h.srcPart.val with
    | none => s
    | some c =>
      match c.rankOf h.srcEp.toNat h.srcPart.val with
      | none => s
      | some r =>
        if s.isAborted h coll.toNat attempt.toNat || c.got.any (fun g => g.1 == r && g.2.1 == offset.toNat) then s
        else ((s.setColl { c with got := c.got ++ [(r, offset.toNat, data)] }).runColl c.queue).settle)

/-- COLLECTIVE_PULL (R309, R312): answered, kept for a command that has not started, or turned away when the COLL_ID has committed. -/
def execCollectivePull (h : PftHdr) (attempt : BitVec 16) (coll : BitVec 32) (offset : BitVec 48) (len : BitVec 32) (s : State) : Result :=
  .next (s.rxPart h 2 fun s =>
    let p := h.dstPart.val
    let id := coll.toNat
    let ep := h.srcEp.toNat
    if s.isAborted h id attempt.toNat then s
    else match s.findColl p id ep h.srcPart.val with
      | some c =>
        (match c.rankOf ep h.srcPart.val with
         | none => s
         | some r => ((s.answerPull c.queue r offset.toNat len.toNat).runColl c.queue).settle)
      | none =>
        match s.fab.committed.find? fun x => x.1 == p && x.2.1 == id && x.2.2.1.contains (ep, h.srcPart.val) with
        | some x => (s.sendData1 ep h.srcPart.val h.srcClass.val x.2.2.2 p 3 (((lookupTime s.fab.collTry (collKey p id)).getD 0) % 65536) id 0 []).1
        | none => s.modFab fun b => { b with earlyPull := b.earlyPull ++ [(collKey p id, ep, h.srcPart.val, attempt.toNat, offset.toNat, len.toNat)] })

/-- COLLECTIVE_ABORT (R312). -/
def execCollectiveAbort (h : PftHdr) (attempt : BitVec 16) (coll : BitVec 32) (s : State) : Result :=
  .next (s.rxPart h 3 fun s =>
    let p := h.dstPart.val
    let s := s.modFab fun b => { b with collAborted := b.collAborted ++ [(collKey p coll.toNat, memberKey h.srcEp.toNat h.srcPart.val, attempt.toNat)] }
    match s.findColl p coll.toNat h.srcEp.toNat h.srcPart.val with
    | none => s
    | some c => if (c.rankOf h.srcEp.toNat h.srcPart.val).isSome then (s.endCmd c.queue 0x0582).settle else s)

/-- COLLECTIVE_ANNOUNCEMENT (R309). -/
def execCollectiveAnnouncement (h : PftHdr) (attempt : BitVec 16) (coll : BitVec 32) (value : BitVec 32) (s : State) : Result :=
  .next (s.rxPart h 4 fun s =>
    let p := h.dstPart.val
    if s.isAborted h coll.toNat attempt.toNat then s
    else match s.findColl p coll.toNat h.srcEp.toNat h.srcPart.val with
      | some c =>
        (match c.rankOf h.srcEp.toNat h.srcPart.val with
         | none => s
         | some r => ((s.setColl (c.announce r value.toNat)).runColl c.queue).settle)
      | none => s.modFab fun b => { b with earlyAnn := b.earlyAnn ++ [(collKey p coll.toNat, h.srcEp.toNat, h.srcPart.val, attempt.toNat, value.toNat)] })

/-! Acknowledgement, timers and failures (R293 to R298). -/

/-- ACK (R290, R293): packets are released; collectives that waited for it go on. -/
def execAck (h : PftHdr) (cum : BitVec 48) (bitmap : BitVec 256) (s : State) : Result := .next (s.rxAck h cum.toNat bitmap).runColls.settle

/-- ACK_TIMER (R294): 8 µs after the first packet of the flow that has not been acknowledged; a module that does not run sends none (R343). -/
def execAckTimer (ep : BitVec 20) (cls : Fin 4) (s : State) : Result :=
  let f := s.flow ep.toNat cls.val
  if 0 < f.sinceAck then .next (s.sendAck f.ackPort ep.toNat cls.val) else .next s

/-- RTO_EXPIRY (R295): the packet is sent again and its RTO doubles. -/
def execRtoExpiry (ep : BitVec 20) (cls : Fin 4) (seq : BitVec 48) (s : State) : Result := .next (State.resend ep.toNat cls.val true [seq.toNat] s)

/-- Resend every packet that port `n` last carried, ahead of new ones (R296). -/
def State.resendPort (s : State) (n : Nat) : State :=
  s.fab.flows.foldl (fun s f => State.resend f.ep f.cls false ((f.unacked.filter fun u => u.2.1 == n).map (·.1)) s) s

/-- Endpoints and SEQs of what the head command of `q` has sent. -/
def State.sentBy (s : State) (q : Nat) : List (Nat × Nat) :=
  ((s.head? q).map fun c => c.staged.sends.flatMap fun t => t.seqs.map fun x => (t.ep, x)).getD [] ++ ((s.collOf q).map fun c => c.sent ++ c.pieceSeqs).getD []

/-- Some of what the head command of `q` has sent is not acknowledged (R297). -/
def State.unackedBy (s : State) (q : Nat) : Bool := (s.sentBy q).any fun x => !s.ackedPkt x.1 (s.queue q).cls x.2

/-- A request belongs to something with a deadline of its own: a running command, a cellar client (R234), the admission that asks (R230) or an epoch's digest (R190). -/
def State.reqOwned (s : State) (ep cls seq : Nat) : Bool :=
  (s.queues.zipIdx.any fun x => x.1.cls == cls && (s.sentBy x.2).contains (ep, seq)) ||
    (cls == ctrlClass && ((s.fab.cellar.any fun c => c.2 == (ep, seq)) || (match s.askedEp with | some a => (a.2.2.1, s.fab.askSeq) == (ep, seq) | none => false) ||
      s.parts.any fun p => match p.stream.epoch with | some e => e.sentTo.contains (ep, seq) | none => false))

/-- REQUEST_DEADLINE (R297): the owning command ends with 0x0581, or with 0x0390 for a cellar request (R234). A request that no command owns, a notice or tile of a command that has committed or a lease message, is no longer sent. -/
def execRequestDeadline (r : ReqKind) (s : State) : Result :=
  match r with
  | .ofCommand q =>
    (match s.head? q.val with
     | none => .next s
     | some c =>
       if c.phase != .queued && killable c && s.unackedBy q.val then
         .next ((s.forgetPkts (s.sentBy q.val) (s.queue q.val).cls).endCmd q.val 0x0581).settle
       else .next s)
  | .notice ep cls seq =>
    if (s.flow ep.toNat cls.val).unacked.any (fun u => u.1 == seq.toNat) && !s.reqOwned ep.toNat cls.val seq.toNat then .next (s.forgetPkts [(ep.toNat, seq.toNat)] cls.val)
    else .next s
  | .cellar q => .next (s.transferEnds q.val none 0x0390 fun p => { p with late := true })

/-- Every lease from a lender ends (R233). -/
def State.loseLender (s : State) (ep : Nat) : State :=
  (List.range 16).foldl (fun s p => ((s.part p).leases.filter fun l => l.lender == ep).foldl (fun s l => s.endLease p l.lender l.id) s) s

end Sys2Proof.Machine
end

