-- ==== Sys2Proof/Machine/Directory.lean ====
section
/-! DEFINITION. The host-line directory and the host's snoops (R357, R358, R397 to R400). -/

namespace Sys2Proof.Machine

/-- Lines of the host-line cache: 32 MiB of 64 bytes (R357). -/
abbrev maxLines : Nat := 524288

/-- A submission ring holds the line: the host-line cache takes none of them (R358). -/
def State.inSubmission (s : State) (line : Nat) : Bool :=
  s.queues.any fun q => q.assigned && decide (q.sqBase < 64 * line + 64) && decide (64 * line < q.sqBase + 128 * q.size)

/-- Every agent's copy but that of `agent` is invalidated, its data taken into the cache when dirty (R398, R399 step 4). -/
def DirLine.take (l : DirLine) (agent : Nat) : DirLine :=
  match l.buf with
  | some d => if l.owner = some agent then l else { l with cached := some d, dirty := true, buf := none }
  | none => l

/-- A line is granted to an agent once every other agent's copy has been invalidated; the owner's update makes its copy dirty (R397, R398). `data`: the line as the host holds it. -/
def DirLine.grant (data : Bytes) (l : DirLine) (agent : Nat) (r : DirReq) : DirLine :=
  let l := l.take agent
  let now := l.cached.getD data
  let l := { l with cached := some now }
  match r with
  | .own u =>
    let mine := l.buf.getD now
    { l with owner := some agent, sharers := [], buf := match u with | some x => some (patch mine x.1 x.2) | none => l.buf }
  | .read => { l with owner := none, sharers := [agent], cached := some (l.buf.getD now), dirty := l.dirty || l.buf.isSome, buf := none }
  | .writeback _ => l

/-- The line as host memory holds it. -/
def State.lineData (s : State) (line : Nat) : Bytes := s.hostMem.read (64 * line) 64

/-- A line takes its place in the cache; when that is full the oldest line on which no request waits leaves, a clean one by CleanEvictNoData (R357; log entry 109). -/
def State.keepLine (s : State) (l : DirLine) : State :=
  let s := if maxLines ≤ s.fabric.lines.length ∧ (s.dirLine l.line).cached.isNone = true then
      (match s.fabric.lines.find? fun x => x.waiting.isEmpty with
       | some x => (s.cxlAsk [if x.dirtyData.isSome then .dirtyEvict else .cleanEvictNoData] [x.line]).evictLine x.line
       | none => s)
    else s
  s.setLine l

/-- The request by which the host is asked for a line that the cache does not hold (R357). -/
def hostRequest : DirReq → CxlReq
  | .read => .rdCurr
  | _ => .rdOwn

/-- One request of an agent: a writeback is merged at once; another is granted, or waits while the host cannot be asked or others wait (R367, R398, R399). Lines of a submission ring are read past the cache (R358). -/
def State.askLine (s : State) (line agent : Nat) (r : DirReq) : State :=
  let l := s.dirLine line
  if s.inSubmission line then (match r with | .read => s.cxlAsk [.rdCurr] [line] | _ => s)
  else match r with
    | .writeback data => if l.owner = some agent then s.setLine { l with owner := none, cached := some data, dirty := true, buf := none } else s
    | _ =>
      if s.outbound && l.waiting.isEmpty then
        (if l.cached.isNone then s.cxlAsk [hostRequest r] [line] else s).keepLine (l.grant (s.lineData line) agent r)
      else s.setLine { l with waiting := l.waiting ++ [(agent, r)] }

/-- The requests that wait for a line are granted in their order. -/
def DirLine.serve (data : Bytes) (l : DirLine) : DirLine := { l.waiting.foldl (fun l w => l.grant data w.1 w.2) l with waiting := [] }

/-- Requests that waited for the host are served (R398, R400). -/
def State.serveLines (s : State) : State :=
  if s.outbound then
    let new := s.fabric.lines.filter fun l => !l.waiting.isEmpty && l.cached.isNone
    let s := new.foldl (fun s l => match l.waiting with | w :: _ => s.cxlAsk [hostRequest w.2] [l.line] | [] => s) s
    s.setFabric { s.fabric with lines := s.fabric.lines.map fun l => l.serve (s.lineData l.line) }
  else s

/-- Place of a request among those of its cycle: writebacks, then ownership, then reads, each by agent (R398). -/
def askOrder (x : Nat × DirReq) : Nat :=
  x.1 + match x.2 with | .writeback _ => 0 | .own _ => 4 | .read => 8

/-- The requests of one cycle for a line, those that their agents may make, in the order of R398. -/
def State.askCycle (s : State) (line : Nat) (l : List (Nat × DirReq)) : State :=
  (sortBy (fun a b => decide (askOrder a ≤ askOrder b)) (l.filter fun x => mayAsk x.1 x.2)).foldl (fun s x => s.askLine line x.1 x.2) s

/-- A request with those that other agents make for the line in the same cycle. -/
def askAll (a : DirAsk) (r : DirReq) : List (Nat × DirReq) := (a.agent.val, r) :: a.also.map fun x => (x.1.val, x.2)

/-- READ_REQUEST (R398). -/
def execReadRequest (ask : DirAsk) (line : BitVec 46) (s : State) : Result := .next (s.askCycle line.toNat (askAll ask .read))

/-- OWNERSHIP_REQUEST (R398, R399). -/
def execOwnershipRequest (ask : DirAsk) (line : BitVec 46) (s : State) : Result :=
  .next (s.askCycle line.toNat (askAll ask (.own ask.update)))

/-- WRITEBACK (R398, R399 step 2): the owner's data is merged into the host-line cache, and the owner holds no copy. -/
def execWriteback (ask : DirAsk) (line : BitVec 46) (data : Bytes) (s : State) : Result :=
  .next (s.askCycle line.toNat (askAll ask (.writeback data)))

/-- HOST_SNOOP (R358, R400): every snoop in L0 is answered, of a dirty line with its data; the line leaves the cache, and waiting requests are served by a new request. -/
def execHostSnoop (line : BitVec 46) (_inv : Bool) (s : State) : Result :=
  if s.link.st != .l0 then .next s
  else
    let s := match (s.dirLine line.toNat).dirtyData with | some d => s.emit (.snoopData line.toNat d) | none => s.emit (.snoopClean line.toNat)
    .next (s.evictLine line.toNat).serveLines

end Sys2Proof.Machine
end

