-- ==== Sys2Proof/Machine/HostLink.lean ====
section
/-! DEFINITION. The field records' slots and the session counter; the host link, host-loss reset, landing aperture, stream registers and retained epochs as commands (R182 to R198, R348 to R376, R444, R476 to R479). -/

namespace Sys2Proof.Machine

/-! The spare-map record (R444, R476 to R479). -/

/-- No number of the list stands twice, nor is its bit set in `seen`. -/
def distinct : Nat → List Nat → Bool
  | _, [] => true
  | seen, l :: r => !seen.testBit l && distinct (seen + 2 ^ l) r

/-- The contents of a spare-map slot are consistent (R479). -/
def SpareMap.consistent (m : SpareMap) : Bool :=
  let used := m.logical.filterMap id
  used.all (fun l => decide (l < 800)) && distinct 0 used &&
    (List.zip m.states m.logical).zipIdx.all fun x => (x.1.1 == .enabled) == x.1.2.isSome && (match x.1.2 with | some l => l / 200 == x.2 / 216 | none => true)

/-- Slot 1 holds the current record rather than slot 0 (R476): a valid slot of higher SEQ, slot 0 on a tie (log entry 24). -/
def slotOne (v0 v1 : Option Nat) : Bool :=
  match v0, v1 with
  | none, some _ => true
  | some a, some b => decide (a < b)
  | _, _ => false

/-- The header of a record in a flash slot passes the checks of R13 and names the TYPE expected, of `n` bytes (R476, R529; log entry 83). -/
def RecHdr.ok (h : RecHdr) (ty n : Nat) : Bool := h.crcGood && h.commit == commitFlag && h.version != 0 && h.type_ == ty && h.length % 4 == 0 && decide (n ≤ h.length) && decide (h.length ≤ 65528)

/-- SEQ of a slot that is valid (R476). -/
def SpareMap.seqOf (m : Option SpareMap) : Option Nat := m.bind fun x => if x.hdr.ok 0x81 11780 && x.consistent then some x.seq else none

/-- SEQ of a drift slot that is valid (R476). -/
def DriftRec.seqOf (m : Option DriftRec) : Option Nat := m.bind fun x => if x.hdr.ok 0x82 448 then some x.seq else none

/-- The bytes of a record's header and SEQ (R12, R479). -/
def RecHdr.bytes (h : RecHdr) (seq : Nat) : Bytes := leBytes 1 h.version ++ leBytes 1 h.type_ ++ leBytes 2 h.length ++ leBytes 4 seq

/-- Code of a core's state in the spare map (R479). -/
def coreStateCode : CoreState → Nat
  | .enabled => 0 | .spare => 1 | .failed => 2 | .fusedOff => 3

/-- Number of the lane that an engine's spare serves in the spare map; 0x1F: none (R479). -/
def spareLaneCode : Option Nat → Nat
  | some x => 16 * (x / 8) + x % 8
  | none => 0x1F

/-- The bytes of the spare map (R479). -/
def SpareMap.bytes (m : SpareMap) : Bytes :=
  m.hdr.bytes m.seq ++ leBytes 2 m.session ++ leBytes 2 0 ++
    ((List.range 216).flatMap fun i => leBytes 1 (((List.range 4).map fun j => 4 ^ j * ((m.states[4 * i + j]?).map coreStateCode).getD 0).sum)) ++ leBytes 4 0 ++
    (m.logical.flatMap fun l => leBytes 2 (l.getD 0xFFFF)) ++
    ((List.range 64).flatMap fun i => leBytes 1 (((List.range 8).map fun j => 2 ^ j * b2n (m.pcs.getD (8 * i + j) false)).sum)) ++
    ((List.range 2048).flatMap fun k => leBytes 4 (match m.rows.find? fun r => r.1 == k / 512 && r.2.2 == k % 512 with | some r => 2 ^ 31 + r.2.1 | none => 0)) ++
    ((List.range 768).flatMap fun k => leBytes 2 (match m.dieSpares.find? fun d => 2 * d.1 + d.2.1 == k / 64 && d.2.2.1 == k % 64 with | some d => 2 ^ 15 + d.2.2.2 | none => 0)) ++
    (m.engines.flatMap fun e => leBytes 2 (spareLaneCode e.1 + 32 * spareLaneCode e.2)) ++
    (m.lasers.flatMap fun l => leBytes 1 (l.1.getD 15 + 16 * b2n l.2)) ++ leBytes 2 0

/-- The bytes of a drift record (R479). -/
def DriftRec.bytes (d : DriftRec) : Bytes :=
  d.hdr.bytes d.seq ++ ((List.range 432).flatMap fun i => leBytes 1 (d.drift.getD (2 * i) 0 + 16 * d.drift.getD (2 * i + 1) 0)) ++ leBytes 8 0

/-- The bytes of a fault-log entry up to its diagnostic snapshot, which the manual does not specify (R479, R508). -/
def LogRec.bytes (l : LogRec) : Bytes := l.hdr.bytes l.seq ++ leBytes 4 l.ups ++ leBytes 8 l.us ++ leBytes 2 l.code ++ l.rest

/-- The current spare map (R476). -/
def Flash.map? (f : Flash) : Option SpareMap :=
  if slotOne (SpareMap.seqOf f.map0) (SpareMap.seqOf f.map1) then f.map1 else if (SpareMap.seqOf f.map0).isSome then f.map0 else none

/-- The current drift record (R476). -/
def Flash.drift? (f : Flash) : Option DriftRec :=
  if slotOne (DriftRec.seqOf f.drift0) (DriftRec.seqOf f.drift1) then f.drift1 else if (DriftRec.seqOf f.drift0).isSome then f.drift0 else none

/-- The spare map as the module stands (R479). -/
def State.liveMap (s : State) : SpareMap :=
  let port : Nat → Port := fun n => s.port n
  let lane : (Port → Nat) → Nat → Option Nat := fun f e =>
    if f (port (2 * e)) < 8 then some (f (port (2 * e))) else if f (port (2 * e + 1)) < 8 then some (8 + f (port (2 * e + 1))) else none
  { session := s.fab.session
    states := s.cores.map (·.st)
    logical := s.cores.map (·.logical)
    pcs := s.mem.pcs.map (·.retired)
    rows := s.mem.vatRows
    dieSpares := s.fabric.links.zipIdx.flatMap fun x => x.1.lanes.filterMap fun l => l.spare.map fun sp => (x.2, l.dir, sp, l.lane)
    engines := (List.range 8).map fun e => (lane (·.txSpare) e, lane (·.rxSpare) e)
    lasers := s.optics.lasers.map fun l => (l.engine, l.failed) }

/-- Write the spare map into the slot that does not hold the current record (R477). -/
def State.putMap (s : State) : State :=
  let f := s.flash
  let seq := (((f.map?).map (·.seq)).getD 0 + 1) % 2 ^ 32
  let m := { s.liveMap with seq := seq }
  if slotOne (SpareMap.seqOf f.map0) (SpareMap.seqOf f.map1) then s.setFlash { f with map0 := some m, mapDirty := false }
  else s.setFlash { f with map1 := some m, mapDirty := false }

/-- The events of the rises of DRIFT follow the write of their record (R424 step 3). -/
def State.driftTold (s : State) : State :=
  (List.range s.flash.driftRises).foldl (fun s _ => s.pwrRaise 0x0915) (s.setFlash { s.flash with driftRises := 0 })

/-- Write the drift record into the slot that does not hold the current one (R477). -/
def State.putDrift (s : State) : State :=
  let f := s.flash
  let v : Option DriftRec := some { seq := (((f.drift?).map (·.seq)).getD 0 + 1) % 2 ^ 32, drift := s.cores.map (·.drift) }
  if slotOne (DriftRec.seqOf f.drift0) (DriftRec.seqOf f.drift1) then (s.setFlash { f with drift0 := v, driftDirty := false }).driftTold
  else (s.setFlash { f with drift1 := v, driftDirty := false }).driftTold

/-- SESSION value that marks PFT as out of service for good (R444). -/
abbrev deadSession : Nat := 65535

/-- SESSION advances: sender flows and attempt counters start anew, and the advanced value is written (R292, R302, R444). -/
def State.advanceSession (s : State) : State :=
  let n := s.fab.session + 1
  let s := s.modFab fun b => { b with
    session := min deadSession n
    flows := b.flows.map fun f => { f with next := 1, unacked := [], unsent := [] }
    acks := b.acks.map fun a => (a.1, 1, a.2.2)
    tries := [] }
  let s := (List.range 16).foldl (fun s n => s.unqueue n Egr.isPft) s
  if deadSession ≤ n then ((s.modFab fun b => { b with valid := false }).raise 0x0A12).putMap else s.putMap

/-! Host-loss reset (R187, R369 to R373). -/

/-- The leases that take a host-loss epoch, in the order they were gained: those with room in slabs that hold no slab of the snapshot (R187). -/
def State.hleLeases (s : State) (p : Nat) (snap : List Nat) : Nat → List Lease → List Lease
  | _, [] => []
  | n, l :: r =>
    if n = 0 then []
    else
      let used := ((s.leaseSlabs p l.lender l.id).filter fun k => snap.contains k).length
      let room := (l.slabs - used) * slabB
      if l.reclaim.isSome || room == 0 then State.hleLeases s p snap n r else l :: State.hleLeases s p snap (n - room) r

/-- Bytes that a partition's leases can take beside the snapshot (R187). -/
def State.hleRoom (s : State) (p : Nat) (snap : List Nat) : Nat :=
  (((s.part p).leases.filter fun l => l.reclaim.isNone).map fun l =>
    (l.slabs - ((s.leaseSlabs p l.lender l.id).filter fun k => snap.contains k).length) * slabB).sum

/-- Bytes of an epoch's records. -/
def Epoch.size (e : Epoch) : Nat := e.head.length + e.bytes + 56

/-- Open the host-loss epoch of a partition, when it has a destination (R187). -/
def State.openLoss (s : State) (p : Nat) : State :=
  let pt := s.part p
  let st := pt.stream
  let toCellar := !pt.leases.isEmpty
  let dest := if toCellar then 1 else 3
  if st.cfg.isEmpty ∨ cfgDest st.cfg = 0 ∨ (toCellar = false ∧ cfgDest st.cfg ≠ 3) then s
  else
    let key := st.needKey || decide (st.last = 0) || cfgDest st.cfg != dest
    let s := s.openEpoch p true toCellar key
    match (s.part p).stream.epoch with
    | none => s
    | some e => if toCellar && decide (s.hleRoom p e.left < e.size) then s.abandonEpoch p else s

/-- Some partition's epoch is still exporting. -/
def State.exporting (s : State) : Bool := s.parts.any fun pt => pt.admitted && pt.stream.epoch.isSome

/-- Leases of partition `p` that hold its completed host-loss epoch. -/
def State.keptLeases (s : State) (p : Nat) : List Lease := (s.hle.retained.filter fun r => r.1 == p).flatMap fun r => r.2.2.2

/-- End the commands of a partition and reset it, as steps 5 and 6 of R369 do. -/
def State.lossPart (s : State) (p : Nat) : State :=
  if (s.part p).admitted = false then s
  else (((s.queuesOf p).foldl State.dropQueue s).freePartition p (s.keptLeases p)).countLayout

/-- The host link's part of step 7 of R369: the levels return to 0 (R9), and the reset is recorded. -/
def State.lossDone (s : State) : State :=
  let s := s.setLink { s.link with
    hostLevel := 0, effLevel := 0, losing := false, heldVec := [], hostLoss := true, firstAccess := true, hostLosses := sat16 s.link.hostLosses 1
    cfgOk := s.link.st == .l0 && decide (2 ≤ s.boot.step) }
  (s.raise 0x0711).flushVec

/-- Steps 5 to 7 of R369. -/
def State.finishLoss (s : State) : State :=
  let s := match s.fab.asking with | some (p, _, _) => s.failAdmit p 0 | none => s
  let s := (List.range 16).foldl State.lossPart s
  (s.setGrants []).advanceSession.lossDone

/-- Code of a host-loss cause in LAST_CAUSE (R356). -/
def lossCode : HostLossCause → Nat
  | .perst => 1 | .hotResetOrDisable => 2 | .linkLoss => 3 | .flr => 4 | .cxlReset => 5

/-- A cause takes the link down. -/
def lossDowns : HostLossCause → Bool
  | .flr | .cxlReset => false
  | _ => true

/-- A host-loss reset starts (R369 steps 1 to 4); a cause that arrives during one is absorbed, and one that arrives during a warm reset waits for its end (log entry 27). Before the module runs, and in the stopped state, there is nothing to export or to send: the levels return to 0, and before start-up has loaded it no SESSION advances (R9; log entry 27). -/
def State.hostLossReset (s : State) (c : HostLossCause) : State :=
  let s := if lossDowns c && s.phase != .off then s.setLink { s.link with st := .down, cfgOk := false } else s
  if s.phase == .warm then s.setLink { s.link with lossPend := match s.link.lossPend with | some d => some d | none => some c }
  else if s.phase == .off || s.phase == .shutdown || s.link.losing then s
  else if s.phase == .stopped then (s.setLink { s.link with lastCause := lossCode c }).finishLoss
  else if s.phase != .run then ((s.setLink { s.link with lastCause := lossCode c }).setGrants []).lossDone
  else
    let s := s.wakeNow
    let s := s.setLink { s.link with losing := true, lastCause := lossCode c, cfgOk := false, d3hot := false, heldVec := [], cfg := {} }
    let s := s.setFabric { s.fabric with lines := [] }
    let s := s.setQueues (s.queues.map fun q => { q with heldRecs := [], landPending := false })
    let s := (List.range 16).foldl (fun s p => if (s.part p).admitted && (s.part p).stream.epoch.isNone then s.openLoss p else s) s
    if s.exporting then s else s.finishLoss

/-- HOST_LOSS_RESET (R369). -/
def execHostLossReset (cause : HostLossCause) (s : State) : Result := .next (s.hostLossReset cause)

/-- FLUSH_TIMEOUT (R369 step 4): exports that are not complete are abandoned. -/
def execFlushTimeout (s : State) : Result :=
  if s.link.losing then
    let s := (List.range 16).foldl (fun s p => if (s.part p).admitted then s.abandonEpoch p else s) s
    .next ((s.setLink { s.link with flushAbandoned := true }).raise 0x0713).finishLoss
  else .next s

/-! Epochs as commands (R183, R185, R190, R196, R197). -/

/-- An epoch that was open may be over: a host-loss reset goes on (R187, R369), else commits that waited for retained slabs do (R177). -/
def State.epochOver (s : State) (p : Nat) (was : Option Epoch) : State :=
  match was with
  | none => s.settle
  | some e =>
    if (s.part p).stream.epoch.isSome then s.settle
    else if s.link.losing then
      let s := if e.hostLoss then s else s.openLoss p
      if s.exporting then s else s.finishLoss
    else (s.retryPool p).settle

/-- The destination of a partition's open epoch has failed (R185). -/
def State.destFails (s : State) (p : Nat) : State := (s.abandonEpoch p).epochOver p (s.part p).stream.epoch

/-- A cellar lease of the partition is reclaimed or lost: an open epoch whose destination is the cellar is abandoned (R185). -/
def State.cellarFails (s : State) (p : Nat) : State :=
  let st := (s.part p).stream
  match st.epoch with
  | some e => if epochDest st.cfg e = 1 then s.destFails p else s
  | none => s

/-- A completed host-loss epoch passes to the module with the leases that hold it; one that an earlier host loss left stays beside it (R371; log entry 110). -/
def State.keepHle (s : State) (p : Nat) (e : Epoch) : State :=
  let recs := e.head :: e.recs ++ [endRecord e]
  s.setHle { s.hle with
    retained := s.hle.retained ++ [(p, e.no, recs, s.hleLeases p e.left e.size (s.part p).leases)] }

/-- EPOCH_END (R183): the page records are out and acknowledged, and the epoch closes when its comparison is done. -/
def execEpochEnd (p : Fin 16) (s : State) : Result :=
  match (s.part p.val).stream.epoch with
  | none => .next s
  | some e =>
    let s := (s.exportEpoch p.val).closeEpoch p.val
    let s := if (s.part p.val).stream.epoch.isNone && e.hostLoss && e.toCellar then s.keepHle p.val e else s
    .next (s.epochOver p.val (some e))

/-- Steps whose digests partition `p` keeps: the step under comparison and the next two steps with a digest (R189). -/
def Stream.keepsDigest (st : Stream) (step : Nat) : Bool :=
  let d := cfgDigest st.cfg
  (match st.epoch with | some e => e.compare && e.step == step | none => false) ||
    (d != 0 && step % d == 0 && decide (st.steps < step) && decide (step ≤ (st.steps / d + 2) * d))

/-- DIGEST_MESSAGE (R189, R190): kept for the comparison when it comes from the endpoint that the configuration gives the member. -/
def execDigestMessage (h : PftHdr) (member : BitVec 4) (step : BitVec 64) (digest : Bytes) (s : State) : Result :=
  .next (s.rxPart h 5 fun s =>
    let p := h.dstPart.val
    let st := (s.part p).stream
    let k := member.toNat
    if !h.msg.ok 0x26 then s else
    if cfgMembers st.cfg ≤ k ∨ cfgMember st.cfg k ≠ h.srcEp.toNat ∨ st.keepsDigest step.toNat = false then s
    else
      let s := s.modStream p fun st => { st with
        got := (k, step.toNat, digest) :: st.got.filter fun g => !(g.1 == k && g.2.1 == step.toNat) && st.keepsDigest g.2.1 }
      ((s.tryDigest p).closeEpoch p).epochOver p st.epoch)

/-- LEASE_RECLAIM (R232 steps 1 and 2, R185); of a lease that holds a retained host-loss epoch, R371. -/
def execLeaseReclaim (h : PftHdr) (bpart : Fin 16) (lease : BitVec 32) (noticeMs : BitVec 16) (s : State) : Result :=
  let (s, ok) := s.rxLease h
  let p := bpart.val
  let at_ : Nat × Nat := (h.srcEp.toNat, lease.toNat)
  let hles : State → State := fun s => s.loseHle fun q l => q == p && (l.lender, l.id) == at_
  if !ok then .next s
  else if !((s.part p).leases.any fun l => (l.lender, l.id) == at_) then .next (hles s)
  else
    let s := ((hles s).modPart p fun pt => { pt with
      reclaimBit := true
      leases := pt.leases.map fun l => if (l.lender, l.id) = at_ then { l with reclaim := some s.nowUs, noticeMs := noticeMs.toNat } else l }).raiseP 0x0320 p
    let into := (s.mem.migrations.filter fun m => !m.switched && m.lease == some at_).map (·.key)
    let s := into.foldl State.abandonMove s
    let s := s.setSlabs (s.mem.slabs.map fun x => if x.part = p ∧ x.lease = some at_ ∧ x.st = .resident then { x with st := .evacuating } else x)
    .next ((s.evacuate p).cellarFails p)

/-- Partitions whose open epoch goes to the storage endpoint `ep` (R185). -/
def State.storesAt (s : State) (ep : Nat) : List Nat :=
  (List.range 16).filter fun p =>
    let st := (s.part p).stream
    match st.epoch with
    | some e => epochDest st.cfg e == 3 && cfgStoreEp st.cfg == ep
    | none => false

/-- ENDPOINT_UNREACHABLE (R233, R298): packets to the endpoint, or an epoch's records, are outstanding and nothing has come from it, or a lender of this module has lost power. Epochs that it was to take are abandoned first (R185). -/
def execEndpointUnreachable (ep : BitVec 20) (s : State) : Result :=
  if s.outstanding ep.toNat || !(s.storesAt ep.toNat).isEmpty || s.parts.any (fun pt => pt.leases.any fun l => l.lender == ep.toNat) then
    let s := (s.storesAt ep.toNat).foldl State.destFails s
    let s := ((List.range 16).filter fun p => (s.part p).leases.any fun l => l.lender == ep.toNat).foldl State.cellarFails s
    let s := s.modFab fun b => { b with
      lost := true, lastEp := ep.toNat
      unreachable := if b.unreachable.any fun u => u.1 == ep.toNat then b.unreachable else b.unreachable ++ [(ep.toNat, s.nowUs)] }
    .next (((s.raise 0x0510).loseLender ep.toNat).loseHle fun _ l => l.lender == ep.toNat).settle
  else .next s

/-- DIGEST_TIMEOUT (R190, R297): members whose digest has not arrived are missing, and the local one is not sent again. -/
def execDigestTimeout (p : Fin 16) (s : State) : Result :=
  match (s.part p.val).stream.epoch with
  | none => .next s
  | some e => if e.compare then .next ((((s.forgetPkts e.sentTo ctrlClass).decideDigest p.val).closeEpoch p.val).epochOver p.val (some e)) else .next s

/-- RING_FULL_TIMEOUT (R185): an epoch whose host ring has stayed full is abandoned. -/
def execRingFullTimeout (p : Fin 16) (s : State) : Result :=
  match (s.part p.val).stream.epoch with
  | none => .next s
  | some e =>
    if epochDest (s.part p.val).stream.cfg e = 2 ∧ (e.recs.isEmpty = false ∨ e.compare = false) then .next (s.destFails p.val) else .next s

/-- PART_STREAM_TAIL takes a value within the span between TAIL and HEAD (R196). -/
def State.writeStreamTail (s : State) (p : Nat) (v : Word) : State :=
  let st := (s.part p).stream
  let S := ringBytes st.cfg
  let t := v.toNat
  if S = 0 ∨ t % 4 ≠ 0 ∨ S ≤ t ∨ (st.head + S - st.tail) % S < (t + S - st.tail) % S then s
  else
    let s := s.modStream p fun x => { x with
      tail := t, bounds := x.bounds.filter fun b => decide ((t + S - st.tail) % S < (b + S - st.tail) % S) }
    match st.epoch with
    | some e =>
      if epochDest st.cfg e ≠ 2 then s
      else if e.recs.isEmpty then (s.closeEpoch p).epochOver p (some e)
      else s.exportEpoch p
    | none => s

/-- PART_STREAM_TAIL_WRITE (R196). -/
def execPartStreamTailWrite (p : Fin 16) (v : Word) (s : State) : Result := .next (s.bar0 fun s => s.writeStreamTail p.val v)

/-- A write of PART_DIGEST_STATUS (R197). -/
def State.writeDigest (s : State) (p : Nat) (v : Word) : State :=
  (s.modStream p fun st => { st with
    diverged := st.diverged && !v.getLsbD 0, timeout := st.timeout && !v.getLsbD 1, held := st.held && !v.getLsbD 3 }).settle

/-- RESUME (R197). -/
def execResume (p : Fin 16) (v : Word) (s : State) : Result := .next (s.bar0 fun s => s.writeDigest p.val v)

/-! The link (R348 to R350, R356, R367). -/

/-- A queue has something that may wait for the host: a record, a landing notice, a full ring or a command. -/
def Queue.waitsHost (x : Queue) : Bool := x.cqFull || x.landPending || !x.heldRecs.isEmpty || !x.fifo.isEmpty

/-- The enabled queues fetch what lies between HEAD and TAIL (R254, R350). -/
def State.fetchWaiting (s : State) : State :=
  ((List.range 64).filter fun q => (s.queue q).enable && (s.queue q).sqHead != (s.queue q).sqTail).foldl (fun s q => State.fetchAll q (s.queue q).size s) s

/-- The host takes outbound traffic again: held records are written, waiting entries are fetched, and waiting commands go on (R350, R367). -/
def State.resumeHost (s : State) : State :=
  (((List.range 64).filter fun q => (s.queue q).waitsHost).foldl State.ringRoomNow s.flushVec).serveLines.fetchWaiting.runColls.settle

/-- LINK_RECOVERY (R367 steps 1 and 2). -/
def execLinkRecovery (s : State) : Result := if s.link.st == .l0 then .next (s.setLink { s.link with st := .recovery }) else .next s

/-- The flit mode after the rate has become `speed`: one that R348 gives it stays; below 64 GT/s there is none, and at 64 GT/s the link takes one of the two 256-byte flits, `x` choosing (log entry 108). -/
def flitAfter (speed old x : Nat) : Nat := if flitFits speed old then old else if speed = 6 then 2 + x % 2 else 0

/-- LINK_RETURN_L0 (R367 steps 3 and 4), at any speed and width of R348; no other is a return. -/
def execLinkReturnL0 (speed : BitVec 3) (width : BitVec 5) (s : State) : Result :=
  if s.link.st == .recovery && linkWf speed.toNat width.toNat then
    let (x, s) := s.draw
    .next (s.setLink { s.link with
      st := .l0, speed := speed.toNat, width := width.toNat, flit := flitAfter speed.toNat s.link.flit x, retrains := sat16 s.link.retrains 1 }).resumeHost
  else .next s

/-- LINK_LOSS_TIMEOUT (R367): 50 ms out of L0 start a host-loss reset with cause 3. -/
def execLinkLossTimeout (s : State) : Result := if s.link.st == .recovery then .next (s.hostLossReset .linkLoss) else .next s

/-- D3HOT_ENTRY (R350). -/
def execD3hotEntry (s : State) : Result := if s.link.st == .down then .next s else .next (s.setLink { s.link with d3hot := true })

/-- D0_RETURN (R350): fetching goes on, and records that waited are written. -/
def execD0Return (host : List HostBlk) (s : State) : Result :=
  if s.link.d3hot then
    let s := (s.hostStore host).setLink { s.link with d3hot := false }
    .next s.resumeHost
  else .next s

/-- LINK_REACHES_L0 (R349, R369 step 8, R463), at a rate, width and flit mode of R348; no other link is trained. Configuration requests are answered once start-up step 2 has ended, which it never does after a halt with 0x0B09. -/
def execLinkReachesL0 (speed : BitVec 3) (width : BitVec 5) (flit : BitVec 2) (cxlCache : Bool) (s : State) : Result :=
  if s.phase == .off || !(linkWf speed.toNat width.toNat && flitFits speed.toNat flit.toNat) then .next s
  else
    .next (s.setLink { s.link with
      st := .l0, speed := speed.toNat, width := width.toNat, flit := flit.toNat, cache := cxlCache, cfgOk := !s.link.losing && decide (2 ≤ s.boot.step) }).resumeHost

/-- FIRST_BAR0_ACCESS_AFTER_HOST_LOSS (R354): also a read that start-up, a halt or the stopped state answers (R463, R524). -/
def execFirstBar0AccessAfterHostLoss (s : State) : Result :=
  if s.phase == .off || s.phase == .shutdown || s.link.st == .down || s.link.d3hot || s.link.losing then .next s else .next s.seen

/-- ID_HOST_LEVEL takes a value: only while no partition exists and CXL.cache is enabled (R7 to R9, R349). -/
def State.writeLevel (s : State) (v : Word) : State :=
  if s.anyPart || !s.link.cache then s
  else let n := v.toNat % 256; s.setLink { s.link with hostLevel := n, effLevel := effLevelOf n }

/-- BAR0 writes to ID_HOST_LEVEL arrive: also before start-up is complete (R463), not during a warm reset (R375) or in the stopped state (R524). -/
def State.levelOpen (s : State) : Bool :=
  s.phase != .off && s.phase != .shutdown && s.phase != .warm && s.phase != .stopped && s.link.st != .down && !s.link.d3hot && !s.link.losing

/-- ID_HOST_LEVEL_WRITE (R9). -/
def execIdHostLevelWrite (v : Word) (s : State) : Result := if s.levelOpen then .next (s.seen.writeLevel v) else .next s

/-- BAR0_ACCESS_INVALID (R353): a read gets Unsupported Request, a write is discarded; with no link nothing arrives. -/
def execBar0AccessInvalid (off : BitVec 24) (_size : Nat) (write : Bool) (s : State) : Result :=
  if write || s.link.st == .down then .next s else .next (s.emit (.unsupported off.toNat))

/-- BAR2_READ (R353). -/
def execBar2Read (off : BitVec 28) (s : State) : Result := if s.link.st == .down then .next s else .next (s.emit (.unsupported off.toNat))

/-! The landing aperture (R360 to R366). -/

/-- Status of a BIND with the registers as they stand (R361). -/
def State.bindStatus (s : State) (p : Nat) : Nat :=
  let pt := s.part p
  let base := (pt.landHi.toNat % 65536) * 2 ^ 32 + pt.landLo.toNat
  let q := s.queue pt.landQueue
  if !(s.mem.regions.any fun r => r.part == p && r.kind == 2 && decide (r.base * slabB = base) && decide (r.slabs ≤ 7)) then 0x0701
  else if pt.bound ∨ q.assigned = false ∨ q.part ≠ p ∨ q.enable = true then 0x0701
  else 0

/-- BIND is written. -/
def State.bindNow (s : State) (p : Nat) : State :=
  let pt := s.part p
  let base := (pt.landHi.toNat % 65536) * 2 ^ 32 + pt.landLo.toNat
  let st := s.bindStatus p
  let S := ((s.mem.regions.find? fun r => r.part == p && decide (r.base * slabB = base)).map (·.slabs)).getD 0 * slabB
  s.modPart p fun x => if st ≠ 0 then { x with landStatus := st } else { x with landStatus := 0, bound := true, landTail := 0, landHead := 0, landSize := S, landBase := base }

/-- A write of PART_LAND_CTRL (R366; both bits in one write: log entry 20). -/
def State.writeLand (s : State) (p : Nat) (v : Word) : State :=
  let s := s.modPart p fun x => { x with landQueue := bits v.toNat 9 4 }
  let s := if v.getLsbD 0 then s.bindNow p else s
  if v.getLsbD 1 then s.modPart p fun x => { x with bound := false } else s

/-- BIND (R361). -/
def execBind (p : Fin 16) (v : Word) (s : State) : Result := .next (s.bar0 fun s => s.writeLand p.val v)

/-- UNBIND (R361). -/
def execUnbind (p : Fin 16) (v : Word) (s : State) : Result := .next (s.bar0 fun s => s.writeLand p.val v)

/-- PART_LAND_HEAD takes a value that the rule of R365 allows. -/
def State.writeLandHead (s : State) (p : Nat) (v : Word) : State :=
  s.modPart p fun x =>
    let h := bits v.toNat 23 0
    let S := x.landSize
    if x.bound = false ∨ h % 128 ≠ 0 ∨ S ≤ h ∨ (x.landTail + S - x.landHead) % S < (h + S - x.landHead) % S then x else { x with landHead := h }

/-- PART_LAND_HEAD_WRITE (R365). -/
def execPartLandHeadWrite (p : Fin 16) (v : Word) (s : State) : Result := .next (s.bar0 fun s => s.writeLandHead p.val v)

/-- A BAR2 write is discarded and counted in ID_LAND_DISCARD (R362, R463). -/
def State.landDiscard (s : State) : State := s.setLink { s.link with landDiscard := sat32 s.link.landDiscard 1 }

/-- A write to a bound window is discarded and counted in PART_LAND_DROPPED (R362, R513). -/
def State.landDrop (s : State) (p : Nat) (event : Bool) : State :=
  let s := s.modPart p fun x => { x with landDropped := sat32 x.landDropped 1 }
  if event then s.raiseLimited 0x0714 (65536 * (p + 1) + 0x0714) 1000 (some p) else s

/-- `free` of R362. -/
def Part.landFree (x : Part) : Nat := if x.landSize = 0 then 0 else (x.landHead + 2 * x.landSize - x.landTail - 128) % x.landSize

/-- The write comes from a requester that the source filter turns away (R366). -/
def Part.filtered (x : Part) (r : Nat) : Bool := x.landFilter && x.landReq != r

/-- BAR2 writes are served: start-up is complete and no reset runs (R463, R369, R375, R524). -/
def State.bar2Open (s : State) : Bool := s.phase == .run && !s.link.losing

/-- A tail doorbell with value `t` in a bound window (R362 to R364). -/
def State.tailDoorbell (s : State) (p t req : Nat) : State :=
  let x := s.part p
  if x.bound = false then s.landDiscard
  else if x.filtered req then s.landDrop p false
  else
    let S := x.landSize
    let d := (t + S - x.landTail) % S
    if t % 128 = 0 ∧ t < S ∧ 0 < d ∧ d ≤ x.landFree then
      let s := s.modPart p fun x => { x with landTail := t }
      let q := x.landQueue
      if (s.queue q).landPending || !(s.queue q).ringRoom then s.modQueue q fun y => { y with landPending := true, cqFull := true }
      else (s.putRecord q (recordBytes false 1 0 t 0 0 0)).settle
    else s.landDrop p true

/-- A data write at byte `o` of a window, a transfer of its partition to T2 (R360, R362, R454, R513). -/
def State.landWrite (s : State) (p o : Nat) (data : Bytes) (req : Nat) : State :=
  let x := s.part p
  let S := x.landSize
  if x.bound = false ∨ S ≤ o then s.landDiscard
  else if x.filtered req then s.landDrop p false
  else
    let lost := (spanSlabs (x.landBase + o) data.length).any fun k => match s.slab? k with | some y => y.st == .lost | none => true
    if o + data.length ≤ S ∧ (o + S - x.landTail) % S + data.length ≤ x.landFree then
      if lost then s.landDrop p false else (s.writeInPlace (x.landBase + o) data).meterBytes p data.length
    else s.landDrop p true

/-- A BAR2 write of a requester, which wakes the module: the four bytes at 0xFF_F000 of a window are its tail doorbell (R360, R362, R431). -/
def State.bar2Write (s : State) (p o : Nat) (data : Bytes) (req : Nat) : State :=
  if !s.bar2Open then s.landDiscard
  else if o = 0xFFF000 ∧ data.length = 4 then s.wakeNow.tailDoorbell p (field data 0 3) req
  else s.wakeNow.landWrite p o data req

/-- LANDING_DATA_WRITE (R360, R362): one whose bytes run past its ring, or past the end of the window, is discarded whole. -/
def execLandingDataWrite (off : BitVec 28) (data : Bytes) (requester : BitVec 16) (s : State) : Result :=
  .next (s.bar2Write (off.toNat / 16777216) (off.toNat % 16777216) data requester.toNat)

/-- TAIL_DOORBELL (R362, R364). -/
def execTailDoorbell (p : Fin 16) (v : Word) (requester : BitVec 16) (s : State) : Result :=
  .next (s.bar2Write p.val 0xFFF000 (leBytes 4 v.toNat) requester.toNat)

/-! Retained host-loss epochs (R371, R372). -/

/-- The retained epoch of a partition, the oldest of several (log entry 110). -/
def State.hle? (s : State) (p : Nat) : Option (Nat × Nat × List Bytes × List Lease) := s.hle.retained.find? fun r => r.1 == p

/-- ID_HLE_BYTES of a partition (R372). -/
def State.hlePages (s : State) (p : Nat) : Nat := match s.hle? p with | some r => ceilDiv ((r.2.2.1.map List.length).sum) 4096 | none => 0

/-- Release the leases of a partition's retained epoch, which ends (R371). -/
def State.dropHle (s : State) (p : Nat) : State :=
  match s.hle? p with
  | none => s
  | some r => let s := s.releaseLeases p r.2.2.2; s.setHle { s.hle with retained := s.hle.retained.erase r }

/-- READOUT is written; `ok` tells what the cellar does: 0 answers, 1 passes 20 ms, 2 fails (R371). -/
def State.readoutNow (s : State) (ok : Nat) : State :=
  let h := s.hle
  let a := h.addrHi.toNat * 2 ^ 32 + h.addrLo.toNat
  match s.hle? h.part with
  | none => s.setHle { h with status := 0x0715 }
  | some r =>
    if a % 4096 ≠ 0 ∨ h.size < s.hlePages h.part then s.setHle { h with status := 0x0715 }
    else if ok = 1 then s.setHle { h with status := 0x0390 }
    else if ok = 2 then s.setHle { h with status := 0x0391 }
    else
      let s := (s.hostWrite a r.2.2.1.flatten).dropHle h.part
      s.setHle { s.hle with status := 0 }

/-- A write of ID_HLE_CTRL (R372). -/
def State.writeHle (s : State) (v : Word) (ok : Nat) : State :=
  let s := s.setHle { s.hle with part := bits v.toNat 3 0 }
  let s := if v.getLsbD 4 then s.readoutNow ok else s
  if v.getLsbD 5 then s.dropHle s.hle.part else s

/-- READOUT (R371). -/
def execReadout (v : Word) (ok : Fin 3) (s : State) : Result := .next (s.bar0 fun s => s.writeHle v ok.val)

/-- DISCARD (R371). -/
def execDiscard (v : Word) (s : State) : Result := .next (s.bar0 fun s => s.writeHle v 0)

end Sys2Proof.Machine
end

