-- ==== Sys2Proof/Machine/Records.lean ====
section
/-! DEFINITION. Field records: the slot discipline of the service tag, the status record, the fault log in flash, and the header of a starter image (R456, R468, R475 to R479, R484 to R487, R508). -/

namespace Sys2Proof.Machine

/-! Slots of the service tag (R475, R476, R484, R487). -/

/-- One step of the CRC-32 of R475: reflected, polynomial 0x04C1_1DB7. -/
def crcStep (c : Word) : Word := if c.getLsbD 0 then (c >>> 1) ^^^ 0xEDB88320#32 else c >>> 1

/-- The CRC-32 of R475 over a byte string. -/
def crc32 (b : Bytes) : Word :=
  ~~~(b.foldl (fun c x => (List.range 8).foldl (fun c _ => crcStep c) (c ^^^ x.setWidth 32)) 0xFFFFFFFF#32)

/-- A flash slot of `n` bytes that holds a record: the record, erased bytes, the CRC-32 over it when that checks good, and the commit flag (R475). -/
def RecHdr.slot (h : RecHdr) (n : Nat) (b : Bytes) : Bytes :=
  let c := crc32 b
  b ++ List.replicate (n - 8 - b.length) 0xFF#8 ++ leBytes 4 (if h.crcGood then c else ~~~c).toNat ++ leBytes 4 h.commit

/-- What the CRC-32 of a journal slot covers (R455; log entry 117). -/
def Journal.data (j : Journal) : Bytes :=
  leBytes 8 j.no ++ leBytes 1 (b2n j.atLoss) ++ leBytes 4 j.events ++ leBytes 8 j.energy ++ leBytes 8 j.opS ++ leBytes 8 j.overS ++ leBytes 8 j.seq ++
    leBytes 8 j.lastEnergy ++ leBytes 8 j.lastOpS ++ j.macs.flatMap (leBytes 12) ++ j.bytes.flatMap (leBytes 12) ++ j.gen.flatMap (leBytes 2)

/-- A slot's commit flag is set and its CRC checks good (R455). -/
def Journal.ok (j : Journal) : Bool := j.flag && j.crc == crc32 j.data

/-- The newer of the slots that are good (R455). -/
def Meter.newest (m : Meter) : Option Journal :=
  if m.j0.ok && !(m.j1.ok && decide (m.j0.no < m.j1.no)) then some m.j0 else if m.j1.ok then some m.j1 else none

/-- Fuelagrim writes its counters into the slot that does not hold the newer ones (R455). -/
def Meter.journal (m : Meter) (atLoss : Bool) : Meter :=
  let two := m.j0.ok && !(m.j1.ok && decide (m.j0.no < m.j1.no))
  let j : Journal :=
    { no := max m.j0.no m.j1.no + 1, atLoss := atLoss, events := m.eventCount, energy := m.energy, opS := m.opS, overS := m.overS
      seq := m.seq, lastEnergy := m.lastEnergy, lastOpS := m.lastOpS, macs := m.macs, bytes := m.bytes, gen := m.gen }
  let j := { j with crc := crc32 j.data, flag := true }
  if two then { m with j1 := j } else { m with j0 := j }

/-- The counters as a journal slot holds them (R455). -/
def Meter.restore (m : Meter) (j : Journal) : Meter :=
  { m with energy := j.energy, opS := j.opS, overS := j.overS, seq := j.seq, lastEnergy := j.lastEnergy, lastOpS := j.lastOpS
           macs := j.macs, bytes := j.bytes, gen := j.gen }

/-- Bytes [a, a + n) of the tag's memory; both are multiples of 4. -/
def Tag.bytes (t : Tag) (a n : Nat) : Bytes := ((t.mem.drop (a / 4)).take (n / 4)).flatMap fun w => leBytes 4 w.toNat

/-- Write a byte string at a multiple of 4. -/
def Tag.write (t : Tag) (a : Nat) (b : Bytes) : Tag :=
  let n := b.length / 4
  { t with mem := t.mem.take (a / 4) ++ (List.range n).map (fun i => BitVec.ofNat 32 (field b (4 * i) 4)) ++ t.mem.drop (a / 4 + n) }

/-- A slot of the tag holds a valid record of a type, which is a meter record (R457) or a status record (R476, R486); a VERSION other than 0 passes, as no level is in force before the host negotiates one (R7, R13; log entry 83). -/
def slotValid (ty : Nat) (b : Bytes) : Bool :=
  let n := field b 2 2
  field b (b.length - 4) 4 == commitFlag && byteAt b 0 != 0 && byteAt b 1 == ty && n % 4 == 0 && decide ((if ty = 0x70 then 472 else 64) ≤ n) && decide (n + 8 ≤ b.length) &&
    field b (b.length - 8) 4 == (crc32 (b.take n)).toNat

/-- An area of the tag: its first byte, slot size, record type and the offset of SEQ (R456, R475, R484). -/
structure TagArea where
  base : Nat
  slot : Nat
  ty : Nat
  seqAt : Nat
  deriving DecidableEq, Repr

/-- The meter and status areas (R484). -/
def meterArea : TagArea := { base := 0x100, slot := 512, ty := 0x70, seqAt := 16 }
def statusArea : TagArea := { base := 0x500, slot := 512, ty := 0x84, seqAt := 4 }

/-- SEQ of slot `k` of an area, when it is valid. -/
def Tag.seqOf (t : Tag) (r : TagArea) (k : Nat) : Option Nat :=
  let b := t.bytes (r.base + k * r.slot) r.slot
  if slotValid r.ty b then some (field b r.seqAt 4) else none

/-- SEQ of the record that counts in an area. -/
def Tag.seqNow (t : Tag) (r : TagArea) : Nat :=
  ((if slotOne (t.seqOf r 0) (t.seqOf r 1) then t.seqOf r 1 else t.seqOf r 0)).getD 0

/-- Write a record into the slot that does not hold the current one, slot 0 when none counts (R487). -/
def Tag.put (t : Tag) (r : TagArea) (b : Bytes) : Tag :=
  let k := if (t.seqOf r 0).isSome && !slotOne (t.seqOf r 0) (t.seqOf r 1) then 1 else 0
  let a := r.base + k * r.slot
  ((t.write a b).write (a + r.slot - 8) (leBytes 4 (crc32 b).toNat)).write (a + r.slot - 4) (leBytes 4 commitFlag)

/-! The status record (R485, R486). -/

/-- A status record of the module as it stands. -/
def State.statusBytes (s : State) : Bytes :=
  let b := s.boot
  let codes := (s.flash.logged.map (·.code)) ++ [0, 0, 0, 0]
  leBytes 1 1 ++ leBytes 1 0x84 ++ leBytes 2 64 ++ leBytes 4 (s.tag.seqNow statusArea + 1) ++
    leBytes 1 (b2n b.ready + 2 * b2n b.halted + 4 * b2n b.bank + 8 * b2n b.update) ++ leBytes 1 b.step ++ leBytes 2 b.code ++ leBytes 4 b.gen ++
    leBytes 4 b.ms ++ leBytes 2 s.inv.enabled ++ leBytes 1 s.inv.spares.sum ++ leBytes 1 0 ++ leBytes 2 s.inv.hbmPc ++ leBytes 1 s.inv.laserSpares ++
    leBytes 1 0 ++ ((codes.take 4).flatMap fun c => leBytes 2 c) ++ leBytes 28 0

/-- Replace the tag's state. -/
def State.modTag (s : State) (f : Tag → Tag) : State := s.setTag (f s.tag)

/-- The tag takes no wired write: an RF field is present, or its segment cannot be reached (R485, R500). -/
def State.tagRefuses (s : State) : Bool := s.tag.rf || s.steward.isolated.getLsbD 2 || s.steward.trunk

/-- The steward writes a status record: only with TAG_STATUS_EN, at most once in 60 s; one that the tag refuses waits (R485). -/
def State.sendStatus (s : State) : State :=
  let again := match s.tag.statusAt with | some t => decide (s.nowUs < t + 60000000) | none => false
  if !s.boot.tagStatusEn || again then s
  else
    let b := s.statusBytes
    let no := s.tagRefuses
    s.modTag fun t =>
      if no then { t with statusAt := some s.nowUs, statusPend := some (b, s.nowUs), statusLate := false }
      else { t.put statusArea b with statusAt := some s.nowUs, statusPend := none, statusLate := false }

/-! The fault log in flash (R478, R479, R508). -/

/-- Slots of the fault log (R466). -/
abbrev logSlots : Nat := 15360

/-- Write the oldest waiting entry into the slot after the newest; the first slot of a sector takes the 16 oldest entries with it (R478). -/
def State.putLog (s : State) : State :=
  match s.flash.logPend with
  | [] => s
  | (us, code, b) :: r =>
    let seq := ((s.flash.logged.head?.map (·.seq)).getD 0 + 1) % 2 ^ 32
    let old := if seq % 16 = 1 then s.flash.logged.take (logSlots - 16) else s.flash.logged
    (s.setFlash { s.flash with logPend := r, logged := { seq := seq, ups := s.flash.powerUps, us := us, code := code, rest := b } :: old }).sendStatus

/-- Write every waiting entry. -/
def State.putLogs : Nat → State → State
  | 0, s => s
  | n + 1, s => State.putLogs n s.putLog

/-! The starter image (R468, R481). -/

/-- GENERATION of an image. -/
def imageGen (b : Bytes) : Nat := field b 8 4

/-- A bank of the flash: A when the flag is false. -/
def Flash.bank (f : Flash) (b : Bool) : Bank := if b then f.b else f.a

/-- Replace a bank. -/
def Flash.setBank (f : Flash) (b : Bool) (v : Bank) : Flash := if b then { f with b := v } else { f with a := v }

/-- The update state is entered (R481 steps 1 and 2): the target is the bank not in use, and when no bank has passed the bank of the lower GENERATION, B when they are equal. Its commit flag is erased with it. -/
def State.enterUpdate (s : State) : State :=
  let target := if s.boot.step < 4 then decide (imageGen s.flash.b.image ≤ imageGen s.flash.a.image) else !s.boot.bank
  let s := s.setFlash (s.flash.setBank target {})
  let s := s.setBoot { s.boot with update := true, ready := false, updBank := target, updDone := false, updStatus := 0, facts := none }
  (s.setPins { s.pins with ready := false }).setPhase .update

end Sys2Proof.Machine
end

