-- ==== Sys2Proof/Machine/Ports.lean ====
section
/-! DEFINITION. Optical ports and their MACs: frames, flow control, configuration, lane failures (R319 to R336, R428). -/

namespace Sys2Proof.Machine

/-! Sub-ports. -/

/-- Sub-ports of a port's mode (R319). -/
def Port.subs (p : Port) : Nat := match p.mode with | 1 => 2 | 2 => 8 | _ => 1

/-- The sub-port that holds a lane (R321). -/
def Port.subOf (p : Port) (lane : Nat) : Nat := match p.mode with | 1 => lane / 4 | 2 => lane | _ => 0

/-- Engine of a port: engine e serves ports 2e and 2e + 1 (R340). -/
def engineOf (port : Nat) : Nat := port / 2

/-- A laser channel lights engine `e`. -/
def State.engineLit (s : State) (e : Nat) : Bool := s.optics.lasers.any fun l => l.engine == some e && (l.st == .lit)

/-- Let every flow send what waits for a port. -/
def State.pumpAll (s : State) : State := s.fab.flows.foldl (fun s f => State.pump f.ep f.cls f.unsent.length s) s

/-- A port that takes no new packet has its unacknowledged packets resent elsewhere (R296). -/
def State.portLost (s : State) (n : Nat) : State := if s.portUp n then s else s.resendPort n

/-- Frames of a sub-port that went down: PFT packets go to the other sub-ports that are up, if any is (R321). -/
def State.requeue (s : State) (n : Nat) (l : List (Nat × Bool × Egr)) : State :=
  l.foldl (fun s x => match x.2.2 with | .pft k => s.portSend n k x.2.1 | _ => s) s

/-- A sub-port goes down (R345, R347); received pauses end with the link (R332). -/
def State.subDown (s : State) (n sub : Nat) : State :=
  if (s.port n).subUp.getLsbD sub then
    let queue := ((s.port n).txOf sub).queue
    let s := s.modPort n fun p => { p with
      subUp := p.subUp &&& ~~~(1#8 <<< sub), evLink := true, cnt := updAt p.cnt 12 fun c => sat32 c 1, tx := updAt p.tx sub fun _ => {} }
    (s.raise 0x0610).requeue n queue
  else s

/-- Every sub-port of a port goes down, and its packets move to other ports (R296). -/
def State.portGone (s : State) (n : Nat) : State :=
  ((List.range 8).foldl (fun s k => s.subDown n k) (s.unqueue n fun _ => true)).portLost n

/-- The engine's island is unreachable (R520). -/
def State.engineFailed (s : State) (e : Nat) : Bool :=
  s.fabric.islands.any fun i => i.st == .failed && (match i.island with | .engine x => x.val == e | _ => false)

/-- Sub-port `sub` may run: the port is enabled, its engine is lit, reachable and not overheated, and its lanes are good (R334, R340, R428, R520). -/
def State.subMayRun (s : State) (n sub : Nat) : Bool :=
  let p := s.port n
  p.adminUp && decide (sub < p.subs) && !p.engineStop && s.engineLit (engineOf n) && !s.engineFailed (engineOf n) &&
    (match p.mode with
     | 1 => (p.laneFault &&& (0xF#8 <<< (4 * sub))) == 0
     | 2 => !p.laneFault.getLsbD sub
     | _ => p.width != 3)

/-- A PORT_DEGRADED bit takes a value, with the capacity-change event when it changes (R32, R36). -/
def State.setDegraded (s : State) (n : Nat) (b : Bool) : State :=
  if s.inv.degraded.getLsbD n = b then s
  else
    (s.setInv { s.inv with degraded := if b then s.inv.degraded ||| (1#16 <<< n) else s.inv.degraded &&& ~~~(1#16 <<< n) }).capacityChange regOptInv noReg 0

/-- PORT_DEGRADED clears when the port has trained with every lane of its mode: all its sub-ports are up and no lane has failed (R32, R336). -/
def State.fullAgain (s : State) (n : Nat) : State :=
  if (s.port n).laneFault = 0 ∧ ((List.range (s.port n).subs).all fun k => (s.port n).subUp.getLsbD k) = true then s.setDegraded n false else s

/-- A sub-port has trained and is reported up; it announces its address once, but sends no frame during a warm reset (R322, R334, R343). -/
def State.subRise (s : State) (n sub : Nat) : State :=
  if s.subMayRun n sub && !(s.port n).subUp.getLsbD sub then
    let s := ((s.modPort n fun p => { p with subUp := p.subUp ||| (1#8 <<< sub), evLink := true }).fullAgain n).raise 0x0611
    (if s.phase = .warm then s else s.subSend n sub 0 false .gratuitous).pumpAll
  else s

/-- PORT_DOWN (R296). -/
def execPortDown (port : Fin 16) (s : State) : Result := .next (s.portGone port.val)

/-- SUBPORT_UP (R334 step 5). -/
def execSubportUp (port : Fin 16) (sub : Fin 8) (s : State) : Result := .next (s.subRise port.val sub.val)

/-- TRAINING_RETRY (R334 step 6). -/
def execTrainingRetry (port : Fin 16) (sub : Fin 8) (trained : Bool) (s : State) : Result := .next (if trained then s.subRise port.val sub.val else s)

/-! Lanes (R333 to R336). -/

/-- Lanes of the two halves of a MODE 0b00 port: WIDTH by which half holds failed lanes (R334, R344). -/
def widthOf (fault : BitVec 8) : Nat :=
  let lo := (fault &&& 0x0F#8) != 0
  let hi := (fault &&& 0xF0#8) != 0
  match lo, hi with | false, false => 0 | true, false => 2 | false, true => 1 | true, true => 3

/-- The spare of a direction is free in the engine of port `n` (R333). -/
def State.spareFree (s : State) (n : Nat) (tx : Bool) : Bool :=
  let f : Port → Nat := if tx then (·.txSpare) else (·.rxSpare)
  f (s.port (2 * engineOf n)) == 15 && f (s.port (2 * engineOf n + 1)) == 15

/-- The spare of a direction takes a lane (R334 step 4). -/
def State.takeSpare (s : State) (n lane : Nat) (tx : Bool) : State :=
  let s := s.modPort n fun p => { p with
    evSpared := true, txSpare := if tx then lane else p.txSpare, rxSpare := if tx then p.rxSpare else lane }
  let s := s.setInv { s.inv with txSpares := if tx then s.inv.txSpares - 1 else s.inv.txSpares, rxSpares := if tx then s.inv.rxSpares else s.inv.rxSpares - 1 }
  (s.mapChanged.raise 0x0612).capacityChange regOptInv noReg 0

/-- Lanes without a spare: the port falls to fewer lanes (R334 step 4, R36). -/
def State.halve (s : State) (n : Nat) (fault : BitVec 8) : State :=
  let s := s.modPort n fun p =>
    let f := p.laneFault ||| fault
    { p with laneFault := f, evHalved := true, width := if p.mode = 0 ∨ p.mode = 3 then widthOf f else p.width }
  (s.raise 0x0613).setDegraded n true

/-- Step 4 of R334 for one lane: a faulty path takes the spare of its direction when that is free; a spare replaces the path, not a fibre (R333). -/
def State.placeLane (s : State) (f : LaneFault) : State :=
  if !f.pathOk && s.spareFree f.port.val f.tx then s.takeSpare f.port.val f.lane.val f.tx else s.halve f.port.val (1#8 <<< f.lane.val)

/-- A fault comes before another of the same cycle: the lower port, then the lower lane (R335). -/
def LaneFault.before (a b : LaneFault) : Bool := decide (8 * a.port.val + a.lane.val ≤ 8 * b.port.val + b.lane.val)

/-- Steps 1 and 2 of R334: the lane's sub-port goes down. -/
def State.laneDown (s : State) (f : LaneFault) : State :=
  let n := f.port.val
  let s := s.modPort n fun p => { p with evLane := true }
  (s.subDown n ((s.port n).subOf f.lane.val)).portLost n

/-- LANE_FAILURE (R333 to R335): the faults that reach step 4 in the same cycle, of lanes that have not failed. -/
def execLaneFailure (port : Fin 16) (lane : Fin 8) (tx : Bool) (found : LaneFinding) (s : State) : Result :=
  let faults := { port := port, lane := lane, tx := tx, pathOk := found.pathOk } :: found.also
  let l := sortBy LaneFault.before (faults.filter fun f => !(s.port f.port.val).laneFault.getLsbD f.lane.val)
  .next (l.foldl State.placeLane (l.foldl State.laneDown s))

/-- Sub-ports of a port that may run come up. -/
def State.raiseSubs (s : State) (n : Nat) : State := (List.range (s.port n).subs).foldl (fun s k => s.subRise n k) s

/-- A write of PORT_CTRL (R336); `faults`: the lanes that do not pass R333 now, to which R334 applies from step 3. Only a port that runs with fewer lanes, and whose engine can run it, tries. -/
def State.writePortCtrl (s : State) (n : Nat) (v : Word) (faults : List LaneFault) : State :=
  let can := (s.port n).adminUp && s.engineLit (engineOf n) && !(s.port n).engineStop && !s.engineFailed (engineOf n)
  if v.getLsbD 0 && s.inv.degraded.getLsbD n && can then
    let l := sortBy LaneFault.before (faults.filter fun f => f.port.val == n)
    let s := (s.portGone n).modPort n fun p => { p with laneFault := 0, width := 0 }
    let s := l.foldl State.placeLane s
    if l.isEmpty then s.raiseSubs n else s
  else s

/-- RETRY_FULL (R336). -/
def execRetryFull (port : Fin 16) (v : Word) (faults : List LaneFault) (s : State) : Result := .next (s.bar0 fun s => s.writePortCtrl port.val v faults)

/-! Flow control received (R326 to R328). -/

/-- Count in a port counter of 32 bits. -/
def Port.count (p : Port) (i : Nat) : Port := { p with cnt := updAt p.cnt i fun c => sat32 c 1 }

/-- Count a frame of `n` bytes and its bytes in counters `i` and `i + 1` of 64 bits (R345). -/
def Port.countFrame (p : Port) (i n : Nat) : Port :=
  { p with cnt := updAt (updAt p.cnt i fun c => (c + 1) % 2 ^ 64) (i + 1) fun c => (c + n) % 2 ^ 64 }

/-- The group address of MAC control frames, 01-80-C2-00-00-01 (R326). -/
def controlGroup : Bytes := [0x01, 0x80, 0xC2, 0x00, 0x00, 0x01]

/-- A MAC control frame's destination is the group address or the port's own (R326). -/
def State.controlTo (s : State) (n : Nat) (dst : Bytes) : Bool := dst == controlGroup || dst == s.macOf s.fab.ep n

/-- Bytes of a PAUSE or PFC frame: the least of Ethernet (log entry 99). -/
abbrev controlLen : Nat := 64

/-- A received flow-control frame changes a sub-port's transmitter where `mode` obeys it, or is discarded and counted (R326); one during a warm reset or on a sub-port that is down is not received (R343). -/
def State.flowFrame (s : State) (n sub : Nat) (dst : Bytes) (mode : Nat) (f : Port → SubTx → SubTx) : State :=
  if s.phase == .warm || !(s.port n).subUp.getLsbD sub then s
  else if (s.port n).fcMode == mode && s.controlTo n dst then
    (s.modPort n fun p => { (p.count 7).countFrame 2 controlLen with tx := updAt p.tx sub (f p) }).kickSub n sub
  else s.modPort n fun p => p.count 9

/-- PAUSE_FRAME (R326, R327). -/
def execPauseFrame (rx : CtrlRx) (time : BitVec 16) (s : State) : Result :=
  .next (s.flowFrame rx.port.val rx.sub.val rx.dst 1 fun _ t => { t with pauseAll := time.toNat })

/-- The pauses of a transmitter after a PFC frame: those of the priorities that both the vector and PFC_EN name (R327). -/
def Port.pfcPauses (p : Port) (vector : BitVec 8) (times : List (BitVec 16)) (old : List Nat) : List Nat :=
  old.zipIdx.map fun x => if vector.getLsbD x.2 && p.pfcEn.getLsbD x.2 then ((times[x.2]?).map BitVec.toNat).getD 0 else x.1

/-- PFC_FRAME (R326, R327). -/
def execPfcFrame (rx : CtrlRx) (vector : BitVec 8) (times : List (BitVec 16)) (s : State) : Result :=
  .next (s.flowFrame rx.port.val rx.sub.val rx.dst 2 fun p t => { t with pausePrio := p.pfcPauses vector times t.pausePrio })

/-- PAUSE_EXPIRY (R327): what waited goes out. -/
def execPauseExpiry (of : SubPort) (q : Option (Fin 8)) (s : State) : Result :=
  .next ((s.modTx of.port.val of.sub.val fun t =>
    match q with
    | none => { t with pauseAll := 0 }
    | some k => { t with pausePrio := updAt t.pausePrio k.val fun _ => 0 }).kickSub of.port.val of.sub.val)

/-- Every PCP of a sub-port that carries PFT traffic is held: those of the classes and of control records (R324, R328). -/
def Port.allHeld (p : Port) (sub : Nat) : Bool :=
  let t := p.txOf sub
  p.subUp.getLsbD sub && (decide (0 < t.pauseAll) || (p.fcMode == 2 && (p.ctrlPcp :: p.pcp).all fun q => decide (0 < t.pausePrio.getD q 0)))

/-- Some received pause holds a transmitter (HELD of R344). -/
def Port.isHeld (p : Port) : Bool := p.tx.any fun t => decide (0 < t.pauseAll) || t.pausePrio.any fun x => decide (0 < x)

/-- FLOW_STALL (R328): a sub-port has been held for STALL_MS, and the port counts as down for PFT. -/
def execFlowStall (port : Fin 16) (s : State) : Result :=
  let n := port.val
  if (List.range 8).any (s.port n).allHeld && !(s.port n).stalled then
    .next (((s.modPort n fun p => { p with stalled := true, evStall := true }).raise 0x0614).portLost n)
  else .next s

/-- STALL_CLEAR (R328): no hold has been in force for 1 ms. -/
def execStallClear (port : Fin 16) (s : State) : Result :=
  let n := port.val
  if (s.port n).stalled && !(s.port n).isHeld then .next (s.modPort n fun p => { p with stalled := false }).pumpAll else .next s

/-! Ingress and flow control sent (R322, R324, R329, R330). -/

/-- Priorities with PFC, ascending. -/
def Port.pfcList (p : Port) : List Nat := (List.range 8).filter fun q => p.pfcEn.getLsbD q

/-- Bytes of a share (R329). -/
def Port.shareSize (p : Port) : Nat :=
  let part := 2097152 / p.subs
  let n := if p.fcMode = 2 then p.pfcList.length + 1 else 1
  part / n / 4096 * 4096

/-- The share of a priority (R329). -/
def Port.shareOf (p : Port) (pcp : Nat) : Nat := if p.fcMode = 2 then (p.pfcList.findIdx? fun q => q == pcp).getD p.pfcList.length else 0

/-- A share of a sub-port. -/
def Port.share (p : Port) (sub k : Nat) : Share := (p.shares.find? fun x => x.sub == sub && x.k == k).getD { sub := sub, k := k }

/-- Replace a share. -/
def Port.setShare (p : Port) (x : Share) : Port := { p with shares := x :: p.shares.filter fun y => !(y.sub == x.sub && y.k == x.k) }

/-- Flow control covers share `k`; the last share of PFC mode generates nothing (R330). -/
def Port.covers (p : Port) (k : Nat) : Bool := (p.fcMode == 1 && k == 0) || (p.fcMode == 2 && decide (k < p.pfcList.length))

/-- Priority that a pause for share `k` names; 8 stands for PAUSE. -/
def Port.pausePcp (p : Port) (k : Nat) : Nat := if p.fcMode = 2 then p.pfcList.getD k 8 else 8

/-- Send a PAUSE or PFC frame for a share (R330); none goes out during a warm reset (R343), nor from a sub-port that is down, where a pause can only end (R334). -/
def State.sendPause (s : State) (n sub k time : Nat) : State :=
  if s.phase = .warm then s
  else if (s.port n).subUp.getLsbD sub = false then s.modPort n fun p => let x := p.share sub k; p.setShare { x with paused := x.paused && decide (0 < time) }
  else
  let pcp := (s.port n).pausePcp k
  (s.modPort n fun p => ((p.count 8).countFrame 0 controlLen).setShare { p.share sub k with paused := decide (0 < time) }).emit (.pause n sub pcp time)

/-- INGRESS_HIGH (R330). -/
def execIngressHigh (port : Fin 16) (sub : Fin 8) (k : Fin 5) (s : State) : Result :=
  let p := s.port port.val
  let x := p.share sub.val k.val
  if p.covers k.val && !x.paused && decide (p.shareSize * p.high < 64 * x.occ) then .next (s.sendPause port.val sub.val k.val p.quanta) else .next s

/-- PAUSE_REPEAT (R330). -/
def execPauseRepeat (port : Fin 16) (sub : Fin 8) (k : Fin 5) (s : State) : Result :=
  let p := s.port port.val
  let x := p.share sub.val k.val
  if x.paused && decide (p.shareSize * p.low ≤ 64 * x.occ) then .next (s.sendPause port.val sub.val k.val p.quanta) else .next s

/-- INGRESS_LOW (R330): bytes have left the share. -/
def execIngressLow (port : Fin 16) (sub : Fin 8) (k : Fin 5) (drained : Nat) (s : State) : Result :=
  let s := s.modPort port.val fun p => let x := p.share sub.val k.val; p.setShare { x with occ := x.occ - drained }
  let p := s.port port.val
  let x := p.share sub.val k.val
  if x.paused && decide (64 * x.occ < p.shareSize * p.low) then .next (s.sendPause port.val sub.val k.val 0) else .next s

/-- The frame's tag passes R324. -/
def Port.tagOk (p : Port) (f : Frame) : Bool :=
  !f.doubleTag && (match f.tag with | none => true | some (vid, _) => vid == 0 || vid.toNat == p.vid)

/-- A frame is one that the port takes besides MAC control frames, by its form (R322; log entry 92). -/
def State.frameOurs (s : State) (n : Nat) (f : Frame) : Bool :=
  match f.what with
  | .control => false
  | .ether t => t.toNat == s.fab.etype && f.dst == s.macOf s.fab.ep n
  | .udp a port => port.toNat == s.fab.udpPort && (a == s.ip4Of s.fab.ep n || a == s.ip6Of s.fab.ep n)
  | .arp | .neighbour => true

/-- A frame that is to wait in the ingress buffer finds room in its share, or is discarded (R329). -/
def Port.takeIn (p : Port) (sub : Nat) (f : Frame) : Port :=
  let k := p.shareOf (if p.tagEn then ((f.tag.map fun t => t.2.toNat).getD 0) else 0)
  let x := p.share sub k
  if p.shareSize < x.occ + f.len then p.count 6 else (p.setShare { x with occ := x.occ + f.len }).countFrame 2 f.len

/-- The FEC counters of a frame (R333, R345). -/
def Port.countFec (p : Port) (f : Frame) : Port := { p with cnt := updAt (updAt p.cnt 10 fun c => sat32 c f.fecCorr) 11 fun c => sat32 c f.fecUncorr }

/-- FRAME_RECEIVE (R322, R324, R326, R329, R343, R345). -/
def execFrameReceive (port : Fin 16) (sub : Fin 8) (f : Frame) (s : State) : Result :=
  let n := port.val
  if s.phase == .warm || !(s.port n).subUp.getLsbD sub.val then .next s
  else
    let ours := s.frameOurs n f
    let toUs := s.controlTo n f.dst
    .next (s.modPort n fun p =>
      let p := p.countFec f
      if !f.fcsOk then p.count 4
      else if p.maxFrame < f.len ∨ p.tagOk f = false then p.count 5
      else if f.what = .control then (if toUs then p.countFrame 2 f.len else p.count 9)
      else if ours then p.takeIn sub.val f
      else p.count 5)

/-! Address resolution (R285, R322). -/

/-- ARP_REQUEST (R322): answered for the port's own address. -/
def execArpRequest (port : Fin 16) (sub : Fin 8) (target : Bytes) (s : State) : Result :=
  let n := port.val
  if s.phase != .warm && (s.port n).subUp.getLsbD sub.val && target == s.ip4Of s.fab.ep n then .next (s.subSend n sub.val 0 false .arpReply) else .next s

/-- NEIGHBOUR_SOLICITATION (R322). -/
def execNeighbourSolicitation (port : Fin 16) (sub : Fin 8) (target : Bytes) (s : State) : Result :=
  let n := port.val
  if s.phase != .warm && (s.port n).subUp.getLsbD sub.val && target == s.ip6Of s.fab.ep n then .next (s.subSend n sub.val 0 false .neighbourAdv) else .next s

/-! Configuration (R332, R344, R345). -/

/-- Fields of the first group of R332 with what may not be set: the port after the write, or none when the write is ignored. -/
def Port.configure (p : Port) (reg v : Nat) : Option Port :=
  let same := fun (q : Port) => q.fcMode == p.fcMode && q.tagEn == p.tagEn && q.maxFrame == p.maxFrame && q.vid == p.vid &&
    q.ctrlPcp == p.ctrlPcp && q.pcp == p.pcp && q.pfcEn == p.pfcEn
  let gate := fun (q : Port) => if p.adminUp && !same q then none else some { q with lastError := 0 }
  match reg with
  | 0 =>
    let q := { p with adminUp := bit v 2, fcMode := bits v 4 3, tagEn := bit v 5, maxFrame := bits v 31 16 }
    if q.fcMode = 3 ∨ q.maxFrame < 1518 ∨ 9216 < q.maxFrame ∨ (q.fcMode = 2 ∧ q.tagEn = false) then none else gate q
  | 1 =>
    let q := { p with vid := bits v 11 0, ctrlPcp := bits v 14 12 }
    if q.vid = 0 ∨ q.vid = 4095 then none else gate q
  | 2 =>
    let q := { p with pcp := [bits v 2 0, bits v 5 3, bits v 8 6, bits v 11 9], pfcEn := BitVec.ofNat 8 (bits v 23 16) }
    if 4 < q.pfcList.length then none else gate q
  | 3 =>
    let q := { p with high := bits v 5 0, low := bits v 13 8, quanta := bits v 31 16 }
    if q.high ≤ q.low ∨ q.quanta = 0 then none else gate q
  | 4 => gate { p with c0Share := bits v 5 0, drr := [max 1 (bits v 11 8), max 1 (bits v 15 12), max 1 (bits v 19 16)], stallMs := max 1 (bits v 27 20) }
  | 5 => gate { p with hopLo := BitVec.ofNat 32 v }
  | _ => gate { p with hopHi := BitVec.ofNat 32 (v % 65536) }

/-- ADMIN_UP has been written 0: time 0 is sent for every pause outstanding, the sub-ports go down, received pauses end and the ingress buffer is emptied (R332). -/
def State.adminDown (s : State) (n : Nat) : State :=
  let s := ((s.port n).shares.filter (·.paused)).foldl (fun s x => s.sendPause n x.sub x.k 0) s
  (s.portGone n).modPort n fun p => { p with tx := List.replicate 8 {}, shares := [] }

/-- A write of a configuration register of a port (R332; what names a field: log entry 25). -/
def State.writePort (s : State) (n reg : Nat) (v : Word) : State :=
  match (s.port n).configure reg v.toNat with
  | none => s.modPort n fun p => { p with lastError := 0x0601 }
  | some q =>
    let was := (s.port n).adminUp
    if was && !q.adminUp then (s.adminDown n).modPort n fun p => { p with adminUp := false, lastError := 0 }
    else s.modPort n fun _ => q

/-- PORT_CFG_WRITE (R332). -/
def execPortCfgWrite (port : Fin 16) (reg : Fin 7) (v : Word) (s : State) : Result := .next (s.bar0 fun s => (s.writePort port.val reg.val v).pumpAll)

/-- A write of PORT_CNT_CLEAR (R345). -/
def State.clearCounters (s : State) (n : Nat) (v : Word) : State := if v.getLsbD 0 then s.modPort n fun p => { p with cnt := List.replicate 13 0 } else s

/-- PORT_CNT_CLEAR (R345). -/
def execPortCntClear (port : Fin 16) (v : Word) (s : State) : Result := .next (s.bar0 fun s => s.clearCounters port.val v)

/-! Engines (R428). -/

/-- ENGINE_HOT (R428). -/
def execEngineHot (_e : Fin 8) (s : State) : Result := .next ((s.pwrEvent 7).raise 0x0917)

/-- ENGINE_OVERHEAT (R428): its two ports stop sending and count as down. -/
def execEngineOverheat (e : Fin 8) (s : State) : Result :=
  let stop : Nat → State → State := fun n s => (s.portGone n).modPort n fun p => { p with engineStop := true }
  .next ((stop (2 * e.val + 1) (stop (2 * e.val) s)).pwrRaise 0x0918)

/-- ENGINE_COOLED (R428): the ports may train again. -/
def execEngineCooled (e : Fin 8) (s : State) : Result :=
  let go : Nat → State → State := fun n s => s.modPort n fun p => { p with engineStop := false }
  .next (go (2 * e.val + 1) (go (2 * e.val) s))

end Sys2Proof.Machine
end

