-- ==== Sys2Proof/Machine/Lasers.lean ====
section
/-! DEFINITION. The laser source block: ramps, shorts, rail faults, spares and wear (R337 to R343). -/

namespace Sys2Proof.Machine

/-- A laser channel. -/
def State.laser (s : State) (c : Nat) : Laser := s.optics.lasers.getD c {}

/-- Update the optics. -/
def State.modOptics (s : State) (f : Optics → Optics) : State := s.setOptics (f s.optics)

/-- Engine number that stands for the block's internal monitor (R338). -/
abbrev monitor : Nat := 8

/-- A channel ramps from dark, or has paused in such a ramp; those that ramp from threshold bias do so together (R338). -/
def State.ramping (s : State) : Bool := !s.optics.rampFor.isEmpty

/-- Operating bias of a channel: one value for its life (R337). -/
def laserBias (c : Nat) : Nat := Config.laserBias c % 601

/-- Present bias of channel `c` at time `t`: within a ramp a free value from the bias at its start to operating bias (R337, R346; log entry 106). -/
def Laser.present (l : Laser) (t c : Nat) : Nat := if l.st = .ramping then max l.bias (Config.laserReading 0 t c % (laserBias c + 1)) else l.bias

/-- Output of channel `c` below its calibrated value at time `t`, in 0.1 dB: of a lit channel a free value, at least what R342 found of a worn one (R346; log entry 106). -/
def Laser.below (l : Laser) (t c : Nat) : Nat := if l.st = .lit then max l.deficit (Config.laserReading 1 t c % 256) else l.deficit

/-- The next ramp starts when no other channel ramps and the rail is good (R338, R339). -/
def State.startRamp (s : State) : State :=
  match s.optics.rampQ with
  | [] => s
  | (c, e) :: r =>
    if s.ramping || !s.optics.rail || s.optics.allOff then s
    else
      ((s.modOptics fun o => { o with rampQ := r, rampFor := o.rampFor ++ [(c, e)] }).modLaser c fun l => { l with st := .ramping })

/-- The lowest-numbered good spare that is dark and has no ramp waiting (R340). -/
def State.goodSpare (s : State) : Option Nat :=
  (List.range 10).find? fun c =>
    let l := s.laser c
    !l.failed && l.st == .dark && l.engine.isNone && !(s.optics.rampQ.any fun x => x.1 == c && x.2 != monitor) && !(s.optics.rampFor.any fun x => x.1 == c)

/-- The ports of an engine go down. -/
def State.engineDown (s : State) (e : Nat) : State := (s.portGone (2 * e)).portGone (2 * e + 1)

/-- An engine has no channel left (R340). -/
def State.engineDark (s : State) (e : Nat) : State :=
  let s := s.modOptics fun o => { o with evDark := true }
  let s := (s.setInv { s.inv with
    laserActive := s.inv.laserActive - 1, degraded := s.inv.degraded ||| (3#16 <<< (2 * e)) }).raise 0x0622
  s.capacityChange regOptInv noReg 0

/-- A spare that is to feed engine `e` ramps or waits for its turn. -/
def State.spareComing (s : State) (e : Nat) : Bool := (s.optics.rampFor ++ s.optics.rampQ).any fun x => x.2 == e && (s.laser x.1).engine.isNone

/-- A good spare is in its monitor ramp: it is dark again when that ends (R338). -/
def State.spareChecked (s : State) : Bool :=
  s.optics.rampFor.any fun x => x.2 == monitor && !(s.laser x.1).failed

/-- A spare's ramp waits behind those of other spares, ahead of channels that have not yet started (R338). -/
def State.queueSpare (s : State) (c e : Nat) : State :=
  let spare : Nat × Nat → Bool := fun x => x.2 != monitor && (s.laser x.1).engine.isNone
  s.modOptics fun o =>
    let q := o.rampQ.filter fun x => x.1 != c
    { o with rampQ := q.takeWhile spare ++ (c, e) :: q.dropWhile spare }

/-- An engine, or the worn channel `w` of one, waits until a spare's monitor ramp ends (R31, R340). -/
def State.lackSpare (s : State) (w : Option Nat) (e : Nat) : State := s.modOptics fun o => { o with lacking := o.lacking ++ [(w, e)] }

/-- An engine that lost its channel gets the next spare, unless one is on its way to it; with none left it goes dark (R338, R340). -/
def State.respare (s : State) (e : Nat) : State :=
  if s.spareComing e then s
  else match s.goodSpare with
  | some c => s.queueSpare c e
  | none => if s.spareChecked then s.lackSpare none e else s.engineDark e

/-- The next spare is to take over the engine `e` of the worn channel `w`; with none left the channel stays in service (R340, R342). -/
def State.swapWorn (s : State) (w e : Nat) : State :=
  match s.goodSpare with
  | none => if s.spareChecked then s.lackSpare (some w) e else s
  | some sp => (s.queueSpare sp e).modOptics fun o => { o with worn := o.worn ++ [(w, sp)] }

/-- A monitor ramp has ended: what waited for a spare takes it, or goes without (R31, R340). -/
def State.serveLacking (s : State) : State :=
  let l := s.optics.lacking
  l.foldl (fun s x => match x.1 with | some w => s.swapWorn w x.2 | none => s.respare x.2) (s.modOptics fun o => { o with lacking := [] })

/-- LASER_SPARES falls by one. -/
def State.spareUsed (s : State) : State :=
  (s.setInv { s.inv with laserSpares := s.inv.laserSpares - 1 }).capacityChange regOptInv noReg 0

/-- LASER_SHORT (R339 steps 1, 2 and 5, R340). -/
def execLaserShort (ch : Fin 10) (s : State) : Result :=
  let c := ch.val
  let l := s.laser c
  if l.st == .dark || l.st == .failed then .next s
  else
    let s := (s.modLaser c fun l => { l with st := .failed, failed := true, bias := 0, engine := none })
    let aim := (s.optics.rampFor.find? fun x => x.1 == c).map (·.2)
    let pair := (s.optics.worn.find? fun x => x.2 == c).map (·.1)
    let s := s.modOptics fun o => { o with
      evShort := true, rail := false
      lasers := o.lasers.zipIdx.map fun x => if x.1.st = .ramping then { x.1 with st := .paused, bias := x.1.present s.nowUs x.2 } else x.1
      rampFor := o.rampFor.filter (fun x => x.1 != c), worn := o.worn.filter (fun x => x.2 != c && x.1 != c), lacking := o.lacking.filter fun x => x.1 != some c }
    let s := (s.mapChanged).raise 0x0620
    let s := if l.engine.isNone then s.spareUsed else s
    match l.engine, aim with
    | some e, _ => .next ((s.engineDown e).respare e)
    | none, some e => if e = monitor then .next s.serveLacking else .next (match pair with | some w => s.swapWorn w e | none => (s.engineDown e).respare e)
    | none, none => .next s

/-- LASER_RAIL_REGULATED (R339 steps 3 to 5): paused ramps resume, and a waiting spare starts in its turn. -/
def execLaserRailRegulated (s : State) : Result :=
  .next (s.modOptics fun o => { o with rail := true, lasers := o.lasers.map fun x => if x.st = .paused then { x with st := .ramping } else x }).startRamp

/-- LASER_RAIL_FAULT (R341): every channel is turned off, and all ports are down. LASER_ACTIVE keeps counting the channels assigned to an engine (log entry 107). -/
def execLaserRailFault (s : State) : Result :=
  if s.optics.rail then .next s
  else
    let s := s.modOptics fun o => { o with
      evRail := true, allOff := true, railFaults := o.railFaults + 1, rampFor := []
      rampQ := (o.rampFor.filter (fun x => (s.laser x.1).engine.isNone) ++ o.rampQ).filter (fun x => x.2 != monitor)
      lasers := o.lasers.map fun x => if x.failed then x else { x with st := .dark, bias := 0 } }
    .next ((List.range 16).foldl State.portGone (s.serveLacking.raise 0x0623))

/-- LASER_RESTART (R341): the start-up ramp of R338 runs again, leaving out failed channels; after a second rail fault every channel stays off. -/
def execLaserRestart (s : State) : Result :=
  if s.phase == .off || !s.optics.allOff || decide (2 ≤ s.optics.railFaults) then .next s
  else
    let feeding := (List.range 10).filterMap fun c => match (s.laser c).engine with | some e => if (s.laser c).failed then none else some (c, e) | none => none
    let spares := ((List.range 10).filter fun c => (s.laser c).engine.isNone && !(s.laser c).failed).map fun c => (c, monitor)
    let waiting := s.optics.rampQ
    .next (s.modOptics fun o => { o with
      allOff := false, rail := true, rampQ := waiting ++ feeding ++ spares.filter fun x => !waiting.any fun y => y.1 == x.1 }).startRamp

/-- A spare is lit and switched onto an engine: the worn channel that it replaces is turned off, or the failed one had gone before (R339 step 6, R342). -/
def State.takeOver (s : State) (c e : Nat) : State :=
  let old := (s.optics.worn.find? fun x => x.2 == c).map (·.1)
  let s := match old with | some w => (s.engineDown e).modLaser w fun l => { l with st := .failed, failed := true, bias := 0, engine := none } | none => s
  let s := s.modLaser c fun l => { l with engine := some e }
  let s := s.modOptics fun o => { o with evSpared := true, worn := o.worn.filter (fun x => x.2 != c), rampQ := o.rampQ.filter fun x => old != some x.1 }
  (s.mapChanged.raise 0x0621).spareUsed

/-- LASER_RAMP_DONE (R338, R339 step 6, R342): a spare checked by the monitor returns to dark; a channel that ramped from threshold bias is lit. -/
def execLaserRampDone (ch : Fin 10) (s : State) : Result :=
  let c := ch.val
  if (s.laser c).st != .ramping then .next s
  else
    let aim := (s.optics.rampFor.find? fun x => x.1 == c).map (·.2)
    let s := s.modOptics fun o => { o with rampFor := o.rampFor.filter fun x => x.1 != c }
    let s := match aim with
      | some 8 => (s.modLaser c fun l => { l with st := .dark, bias := 0 }).serveLacking
      | some e =>
        let s := s.modLaser c fun l => { l with st := .lit, bias := laserBias c }
        if (s.laser c).engine = some e then s else s.takeOver c e
      | none => s.modLaser c fun l => { l with st := .lit, bias := laserBias c }
    .next s.startRamp

/-- LASER_WORN (R342): a spare ramps in its turn; with none left the channel stays in service. -/
def execLaserWorn (ch : Fin 10) (s : State) : Result :=
  let c := ch.val
  let l := s.laser c
  match (if l.st == .lit && !s.optics.worn.any fun x => x.1 == c then l.engine else none) with
  | none => .next s
  | some e =>
    let s := (s.modLaser c fun l => { l with deficit := max 15 l.deficit, bias := 600 }).modOptics fun o => { o with evWorn := true }
    .next (s.swapWorn c e).startRamp

end Sys2Proof.Machine
end

