-- ==== Sys2Proof/Machine/Recovery.lean ====
section
/-! DEFINITION. Faults and recovery: core retirement and in-field tests, vat rows and pseudo-channels, warm reset, the stopped state (R29, R30, R375, R424, R482, R510 to R525). -/

namespace Sys2Proof.Machine

/-! Core retirement (R29, R424, R516). -/

/-- Cause codes of a core fault (R511). -/
def causeCode : CoreCause → Nat
  | .inFieldTest => 1 | .parity => 2 | .coreStore => 3 | .bond => 4 | .island => 5 | .noProgress => 6 | .selfTest => 7 | .freqFloor => 8

/-- A physical core is marked failed, with event 0x0D03 (R29 step 1, R516). -/
def State.failCore (s : State) (phys : Nat) (logical : Option Nat) (cause : Nat) : State :=
  (s.modCore phys fun c => { c with st := .failed, logical := none, testing := false }).event 2 0x0D03 none (coreDetail phys logical cause 1)

/-- The test that a spare has run when it takes a number, as the cause of R511: the self-test of start-up, or the in-field test (R464, R516 step 4). -/
def State.spareTest (s : State) : Nat := if s.phase == .run then causeCode .inFieldTest else causeCode .selfTest

/-- The timing margin of a physical core fails, and its frequency has room: DRIFT rises and the new FOP applies; its record and event 0x0915 follow (R424). -/
def State.raiseDrift (s : State) (ph : Nat) : State :=
  ((s.modCore ph fun c => { c with drift := c.drift + 1, mhz := PhysCore.clock { c with drift := c.drift + 1 } s.power.mode }).driftChanged).pwrEvent 6

/-- A failed margin has no room left below it (R424). -/
def PhysCore.atFloor (c : PhysCore) : Bool := decide (c.fused < 1600 + 25 * (c.drift + 1))

/-- The spares of a B-die are tried in ascending order: one that fails its own test, or whose margin fails at the frequency floor, is marked failed; the first that passes takes the logical number (R29 steps 2 and 3, R424, R516 step 4; log entry 28). -/
def State.trySpares (l : Nat) (bad : SpareTests) : List Nat → State → State
  | [], s => s
  | n :: r, s =>
    if bad.fail.contains n then State.trySpares l bad r (s.failCore n none s.spareTest)
    else if bad.margin.contains n && (s.core n).atFloor then State.trySpares l bad r (s.failCore n none (causeCode .freqFloor))
    else
      let s := if bad.margin.contains n then s.raiseDrift n else s
      (s.modCore n fun c => { c with st := .enabled, logical := some l, mhz := c.clock s.power.mode }).event 2 0x0D04 none (coreDetail n (some l) s.spareTest 0)

/-- The inventory's core fields follow the cores, and the registers that changed are reported, once start-up has loaded them (R32, R33, R511). -/
def State.coresChanged (s : State) : State :=
  if !s.inventoryLoaded then s else
  let v := s.countCores
  let regs := (if v.inv.enabled = s.inv.enabled ∧ v.inv.retired = s.inv.retired then [] else [regCoreInv]) ++
    (if v.inv.spares = s.inv.spares then [] else [regCoreSpares])
  v.capacityChange (regs.getD 0 noReg) (regs.getD 1 noReg) 0

/-- A logical core is retired: a spare takes its number, or the number stays absent and the job goes on; the inventory changes and the spare map is to be written (R29, R516 steps 3 to 5, R527). -/
def State.retireCore (s : State) (l cause : Nat) (bad : SpareTests) : State :=
  match s.physOf l with
  | none => s
  | some ph =>
    let s := s.clearEngines [l]
    let s := s.failCore ph (some l) cause
    let s := State.trySpares l bad (s.sparesOf (bdieOf ph)) s
    ((s.clearEngines [l]).coresChanged).mapChanged

/-- One more uncorrectable error (R510). -/
def State.countUncorr (s : State) : State := s.setErr { s.err with uncorr := sat32 s.err.uncorr 1 }

/-- Causes that are uncorrectable errors of R510. -/
def uncorrCause : CoreCause → Bool
  | .parity | .coreStore | .bond => true
  | _ => false

/-- A core fault: the command that holds the core ends with 0x0D81, and the core is retired; bond faults are among the causes (R516, R521). -/
def State.faultCore (s : State) (l : Nat) (cause : CoreCause) (bad : SpareTests) : State :=
  match s.physOf l with
  | none => s
  | some n =>
    let s := s.linkSend (interruptTo (bdieOf n) hDie 16)
    let s := if uncorrCause cause then s.countUncorr else s
    let s := match s.holder l with | some q => s.endCmd q 0x0D81 | none => s
    (s.retireCore l (causeCode cause) bad).settle

/-- CORE_FAULT (R516). -/
def execCoreFault (core : Fin 800) (cause : CoreCause) (badSpares : SpareTests) (s : State) : Result := .next (s.faultCore core.val cause badSpares)

/-- NO_PROGRESS_TIMEOUT (R516): the core has held a command for 10 ms without activity. -/
def execNoProgressTimeout (core : Fin 800) (badSpares : SpareTests) (s : State) : Result :=
  if (s.holder core.val).isSome then .next (s.faultCore core.val .noProgress badSpares) else .next s

/-- The core's timing margin fails: DRIFT rises by one, or at the frequency floor the core is retired; the flag tells that it stays (R424). -/
def State.marginFails (s : State) (l : Nat) (bad : SpareTests) : State × Bool :=
  match s.physOf l with
  | none => (s, true)
  | some ph =>
    if (s.core ph).atFloor then (s.retireCore l (causeCode .freqFloor) bad, false) else (s.raiseDrift ph, true)

/-! In-field tests (R518, R519). -/

/-- Replace the error block. -/
def State.modErr (s : State) (f : Err → Err) : State := s.setErr (f s.err)

/-- A logical core becomes due for a test, unless it is due or under test (R519). -/
def State.makeDue (s : State) (l : Nat) : State :=
  match s.physOf l with
  | none => s
  | some ph => if (s.core ph).testing || s.err.due.contains l then s else s.modErr fun e => { e with due := e.due ++ [l] }

/-- TEST_INTERVAL_DUE (R519). -/
def execTestIntervalDue (core : Fin 800) (s : State) : Result := if s.err.intervalH = 0 then .next s else .next (s.makeDue core.val)

/-- Cores of B-die `b` under test. -/
def State.testingOn (s : State) (b : Nat) : Nat := (s.cores.zipIdx.filter fun x => x.1.testing && bdieOf x.2 == b).length

/-- A due core may start its test: it holds no command, and fewer than PAR cores of its B-die are under test (R518 step 1, R519). -/
def State.testMayStart (s : State) (l : Nat) : Bool :=
  match s.physOf l with
  | none => false
  | some ph => (s.holder l).isNone && decide (s.testingOn (bdieOf ph) < s.err.par)

/-- IN_FIELD_TEST (R518 steps 1 and 2): the first due core that may start is closed to its partition and cleared. -/
def execInFieldTest (s : State) : Result :=
  match s.err.due.find? s.testMayStart with
  | none => .next s
  | some l =>
    let s := (s.clearEngines [l]).modErr fun e => { e with due := e.due.filter fun x => x != l }
    match s.physOf l with
    | none => .next s
    | some ph => .next (s.modCore ph fun c => { c with testing := true }).settle

/-- IN_FIELD_TEST_DONE (R518 steps 3 and 4). -/
def execInFieldTestDone (core : Fin 800) (bistOk marginOk : Bool) (badSpares : SpareTests) (s : State) : Result :=
  let l := core.val
  match s.physOf l with
  | none => .next s
  | some ph =>
    if !(s.core ph).testing then .next s
    else
      let s := s.modErr fun e => { e with tested := sat16 e.tested 1, lastCore := l }
      let (s, ok) :=
        if !bistOk then (s.retireCore l (causeCode .inFieldTest) badSpares, false)
        else if !marginOk then s.marginFails l badSpares
        else (s.event 0 0x0D05 none (coreDetail ph (some l) 1 0), true)
      let s := if ok then (s.modCore ph fun c => { c with testing := false }).restCores [l] else s
      .next (s.modErr fun e => { e with lastFail := !ok }).settle

/-- TEST_START: a write of ERR_TEST_CTRL (R519, R525). -/
def State.writeTest (s : State) (v : Word) : State :=
  let n := v.toNat
  let s := s.modErr fun e => { e with intervalH := bits n 7 0, par := max 1 (min 8 (bits n 11 8)), core := bits n 21 12 }
  if v.getLsbD 22 && decide (bits n 21 12 < 800) then s.makeDue (bits n 21 12) else s

/-- TEST_START (R519). -/
def execTestStart (v : Word) (s : State) : Result := .next (s.bar0 fun s => s.writeTest v)

/-- ERR_LOG_TAIL takes a value that does not pass HEAD (R506, R525). -/
def State.writeTail (s : State) (v : Word) : State :=
  s.modErr fun e =>
    let t := bits v.toNat 6 0
    if (e.head + 128 - e.tail) % 128 < (t + 128 - e.tail) % 128 then e else { e with tail := t }

/-- Writes to ERR_LOG_TAIL and to ERR_STATUS arrive: also in the stopped state (R524). -/
def State.errOpen (s : State) : Bool := s.barOpen || (s.phase == .stopped && s.link.st != .down && !s.link.d3hot)

/-- ERR_LOG_TAIL_WRITE (R506, R524). -/
def execErrLogTailWrite (v : Word) (s : State) : Result := if s.errOpen then .next (s.seen.writeTail v) else .next s

/-! Vat rows (R514). -/

/-- Microseconds of a day and of an hour. -/
abbrev dayUs : Nat := 86400000000
abbrev hourUs : Nat := 3600000000

/-- Offsets of PART_MEM_CAP_T1 and _T2 in BAR0 (R240). -/
abbrev regCapT1 : Nat := 0x180000
abbrev regCapT2 : Nat := 0x180004

/-- The lowest free spare row of a slice. -/
def State.freeSpareRow (s : State) (slice : Nat) : Option Nat :=
  (List.range 512).find? fun k => !(s.mem.vatRows.any fun r => r.1 == slice && r.2.2 == k)

/-- A vat row qualifies: a spare row takes its place, or its frame waits to be withdrawn (R514); `kind`: 1 corrected, 2 uncorrectable. -/
def State.spareRow (s : State) (slice row kind : Nat) : State :=
  let s := s.setMem { s.mem with vatCorr := s.mem.vatCorr.filter fun x => !(x.1 == slice && x.2.1 == row) }
  match s.freeSpareRow slice with
  | some k =>
    let s := s.setMem { s.mem with vatRows := s.mem.vatRows ++ [(slice, row, k)] }
    let s := (s.setInv { s.inv with vatSpares := s.inv.vatSpares - 1 }).event 2 0x0D06 none (memDetail 0 1 slice row kind)
    (s.capacityChange regMemInv noReg 0).mapChanged
  | none =>
    if s.mem.withdraw.contains (slice, row) then s else s.setMem { s.mem with withdraw := s.mem.withdraw ++ [(slice, row)] }

/-- T1 has a frame of a slice that no reservation needs (R211, R514). -/
def State.frameToSpare (s : State) (slice : Nat) : Bool :=
  decide (s.reserved .t1 + 1 ≤ s.mem.capT1) &&
    decide (((s.parts.filter (·.admitted)).map fun x => shareOf (x.resOf .t1) x.coreSet slice).sum + 1 ≤ s.mem.sliceCap.getD slice 0)

/-- FRAME_WITHDRAW (R514): the frame is free of data and no reservation needs it. -/
def execFrameWithdraw (slice : Fin 4) (s : State) : Result :=
  match s.mem.withdraw.find? fun x => x.1 == slice.val with
  | none => .next s
  | some (b, row) =>
    if !s.frameToSpare b then .next s
    else
      let s := s.setMem { s.mem with withdraw := s.mem.withdraw.erase (b, row), capT1 := s.mem.capT1 - 1, sliceCap := updAt s.mem.sliceCap b fun n => n - 1 }
      .next ((s.event 2 0x0D08 none (memDetail 0 1 b row 2)).capacityChange regCapT1 noReg 0)

/-! HBM4 pseudo-channels (R215, R515). -/

/-- Update a pseudo-channel. -/
def State.modPc (s : State) (k : Nat) (f : PcState → PcState) : State := s.setMem { s.mem with pcs := updAt s.mem.pcs k f }

/-- A pseudo-channel. -/
def State.pc (s : State) (k : Nat) : PcState := s.mem.pcs.getD k {}

/-- Slabs that must come back before one more pseudo-channel can go (R215). -/
def State.pcShort (s : State) : Nat := s.reserved .t2 + s.lentSlabs + pcSlabs - s.mem.capT2

/-- A pseudo-channel qualifies for retirement: lent slabs are reclaimed while the capacity condition does not hold (R515 steps 1 and 2). -/
def State.qualifyPc (s : State) (k : Nat) : State :=
  if (s.pc k).retired || (s.pc k).retiring then s
  else (s.modPc k fun c => { c with retiring := true }).reclaimSlabs s.pcShort

/-- A pseudo-channel is powered down (R515 step 4); `kind`: what brought it there. -/
def State.dropPc (s : State) (k kind : Nat) : State :=
  let s := s.modPc k fun c => { c with retired := true, retiring := false }
  let s := (s.setInv { s.inv with hbmPc := s.inv.hbmPc - 1 }).setMem { s.mem with pcs := updAt s.mem.pcs k fun c => { c with retired := true, retiring := false }, capT2 := s.mem.capT2 - pcSlabs }
  ((s.event 2 0x0D07 none (memDetail 0 2 (k / 64) k kind)).capacityChange regMemInv regCapT2 0).mapChanged

/-- PC_MOVE_DONE (R515 steps 3 and 4): pages that could not be moved leave their slabs LOST. -/
def execPcMoveDone (pc : Fin 512) (lost : List (BitVec 27)) (s : State) : Result :=
  let k := pc.val
  if !(s.pc k).retiring then .next s
  else if 0 < s.pcShort then .next (s.reclaimSlabs s.pcShort)
  else
    let gone := (lost.map BitVec.toNat).filter fun x => match s.slab? x with | some y => y.tier == some .t2 | none => false
    let s := gone.foldl (fun s x =>
      (s.loseSlabs (partOfKey x) [x]).countUncorr.event 3 0x0D02 (some (partOfKey x)) (memDetail (x * slabB) 2 (k / 64) k 2)) s
    .next (s.dropPc k (if (s.pc k).uncorr.length < 2 then 1 else 2)).settle

/-- Times of a list that lie within a span before now, with now added. -/
def State.recent (s : State) (span : Nat) (l : List Nat) : List Nat := s.nowUs :: l.filter fun t => decide (s.nowUs < t + span)

/-! Corrected and uncorrectable errors (R510 to R513). -/

/-- Index of a place among the ERR_CORR counters (R525). -/
def placeIx : Place → Nat
  | .coreStore => 0 | .bond => 1 | .vat => 2 | .hbm => 3 | .hub => 4

/-- Event 0x0D10, at most once per second for each place (R510). -/
def State.correctedEvent (s : State) (pl : Place) (unit row : Nat) : State :=
  let key := 0x0D1000 + placeIx pl
  let again := match lookupTime s.err.rates key with | some t => decide (s.nowUs < t + 1000000) | none => false
  if again then s
  else (s.modErr fun e => { e with rates := setTime e.rates key s.nowUs }).event 1 0x0D10 none
    (memDetail 0 (match pl with | .vat => 1 | .hbm => 2 | _ => 0) unit row 1)

/-- CORRECTED_ERROR (R510, R514 to R516). -/
def execCorrectedError (pl : Place) (slice : Fin 4) (unit : BitVec 16) (s : State) : Result :=
  let u := unit.toNat
  let s := s.modErr fun e => { e with corr := updAt e.corr (placeIx pl) fun n => sat32 n 1 }
  match pl with
  | .hub => .next (s.correctedEvent pl 0 0)
  | .vat =>
    let s := s.correctedEvent pl slice.val u
    let s := s.setMem { s.mem with vatCorr := (slice.val, u, s.nowUs) :: s.mem.vatCorr.filter fun x => decide (s.nowUs < x.2.2 + dayUs) }
    .next (if 2 ≤ (s.mem.vatCorr.filter fun x => x.1 == slice.val && x.2.1 == u).length then s.spareRow slice.val u 1 else s)
  | .hbm =>
    let s := (s.correctedEvent pl (u / 64) u).modPc u fun c => { c with corr := s.recent hourUs c.corr }
    .next (if 1000 < (s.pc u).corr.length then s.qualifyPc u else s)
  | _ =>
    let s := (s.correctedEvent pl 0 0).modCore u fun c => { c with corr := s.recent dayUs c.corr }
    if 3 ≤ (s.core u).corr.length then
      let s := s.modCore u fun c => { c with corr := [] }
      match (s.core u).logical with | some l => .next (s.makeDue l) | none => .next s
    else .next s

/-- Tier and slice of the slab that a read touched: a staging slab of the command in `q`, with the frame number that its commit gives it, or the mapped slab (R207, R513; log entry 29). -/
def State.readPlace (s : State) (addr : Nat) (staging : Option Nat) : Option (Tier × Nat) :=
  match staging with
  | some q =>
    let l := ((s.head? q).map (·.staged.slabs)).getD []
    (l.zipIdx.find? fun x => x.1.1 == keyOf addr).map fun x => (x.1.2.1, sliceOf x.1.2.2 (s.mem.nextFrame + x.2) addr)
  | none => (s.slab? (keyOf addr)).bind fun x => x.tier.map fun t => (t, sliceOf x.near x.frame addr)

/-- The row or pseudo-channel of an uncorrectable error is treated (R514, R515). -/
def State.treatUnit (s : State) (t : Tier) (slice unit : Nat) : State :=
  if t = .t1 then s.spareRow slice unit 2
  else
    let s := s.modPc unit fun c => { c with uncorr := s.recent dayUs c.uncorr }
    if 2 ≤ (s.pc unit).uncorr.length then s.qualifyPc unit else s

/-- The outcome of R513 for the slab at `addr`. -/
def State.loseRead (s : State) (addr : Nat) (k : UncorrKind) : State :=
  let key := keyOf addr
  let p := partOfKey key
  match k with
  | .committed q => ((s.loseSlabs p [key]).endCmd q.val 0x0D02)
  | .staging q => s.endCmd q.val 0x0D83
  | .migration => (s.abandonMove key).loseSlabs p [key]
  | .stream => (s.loseSlabs p [key]).destFails p
  | .landing => s.loseSlabs p [key]
  | .slabTable _ => s

/-- The queue whose staging slab was read. -/
def stagingQueue : UncorrKind → Option Nat
  | .staging q => some q.val
  | _ => none

/-- A slab-table entry of a partition is struck: the module resets the partition (R510, R517), and the row is treated (R514). -/
def State.tableStruck (s : State) (p addr unit : Nat) : State :=
  let slice := sliceOf none 0 addr
  let s := (s.countUncorr.resetPart p).event 4 0x0D20 (some p) (memDetail addr 1 slice unit 2)
  (s.spareRow slice unit 2).settle

/-- UNCORRECTABLE_READ (R512, R513): only when the second read fails too. -/
def execUncorrectableRead (addr : BitVec 48) (unit : BitVec 16) (k : UncorrKind) (second : Bool) (s : State) : Result :=
  if !second then .next s
  else match k with
    | .slabTable p => .next (s.tableStruck p.val addr.toNat unit.toNat)
    | _ =>
      match s.readPlace addr.toNat (stagingQueue k) with
      | none => .next s
      | some (t, slice) =>
        if t = .t1 ∨ t = .t2 then
          let u := unit.toNat
          let s := s.countUncorr.loseRead addr.toNat k
          let s := s.event 3 0x0D02 (some (partOfKey (keyOf addr.toNat)))
            (memDetail addr.toNat (if t = .t1 then 1 else 2) (if t = .t1 then slice else u / 64) u 2)
          .next (s.treatUnit t slice u).settle
        else .next s

/-! The stopped state and warm reset (R375, R482, R522 to R524). -/

/-- End every command of every queue that has one, without a record. -/
def State.killAll (s : State) : State :=
  ((List.range 64).filter fun q => !(s.queue q).fifo.isEmpty || (s.queue q).cqFull).foldl State.dropQueue s

/-- Every laser channel is turned off and no ramp waits. -/
def State.lasersOff (s : State) : State :=
  s.modOptics fun o => { o with
    allOff := true, rampQ := [], rampFor := [], worn := []
    lasers := o.lasers.map fun x => if x.failed then x else { x with st := .dark, bias := 0 } }

/-- Every port goes down. -/
def State.portsDown (s : State) : State := (List.range 16).foldl State.portGone s

/-- Retained host-loss epochs are lost (R371). -/
def State.allHleLost (s : State) : State :=
  s.setHle { s.hle with retained := [], lost := s.hle.retained.foldl (fun b r => b ||| (1#16 <<< r.1)) s.hle.lost }

/-- The module enters the stopped state (R524). -/
def State.stopModule (s : State) : State :=
  if s.phase == .stopped || s.phase == .off then s
  else
    let code := s.err.lastCode
    let seq := s.err.seq
    let s := s.killAll.allHleLost
    let s := (s.lasersOff.setPins { s.pins with ready := false }).setBoot { s.boot with ready := false, facts := none }
    let s := (s.setPhase .stopped).portsDown
    let s := s.event 5 0x0D40 none (changeDetail noReg noReg code seq 0)
    State.putLogs s.flash.logPend.length s

/-- A host-loss reset in progress is brought to its end, its exports abandoned (log entry 27). -/
def State.endLoss (s : State) : State :=
  if s.link.losing then ((List.range 16).foldl State.abandonEpoch s).finishLoss else s

/-- A warm reset begins (R375, R482 step 1): every command and partition goes, the grant and FLUSH_S return to reset, and the firmware copy is checked. -/
def State.warmReset (s : State) (f : StartFacts) : State :=
  if s.phase != .run then s
  else
    let s := s.endLoss.killAll
    let s := match s.fab.asking with | some (p, _, _) => s.failAdmit p 0 | none => s
    let s := ((List.range 16).foldl State.resetPart s).setGrants []
    let s := s.setLink { s.link with hostLevel := 0, effLevel := 0, flushS := 10 }
    let s := (s.setPins { s.pins with ready := false }).setBoot { s.boot with ready := false }
    let s := ((s.setSteward { s.steward with shed := 0, hot := 0, cool := 0 }).setPower { s.power with learnEff := min 160 s.power.learnMs }).setSec { s.sec with vca := [], certMsgs := [], measMsgs := [] }
    if s.boot.updReq then s.enterUpdate
    else if !f.firmwareOk then ((s.setBoot { s.boot with halted := true, code := 0x0B0C }).stopModule)
    else s.setPhase .warm

/-- A warm reset completes (R375, R482 steps 2 to 4): SESSION advances, and requests that waited are served. -/
def State.finishWarm (s : State) : State :=
  if s.phase != .warm then s
  else
    let s := (s.setPhase .run).advanceSession
    let s := (s.setPins { s.pins with ready := true }).setBoot { s.boot with ready := true, step := 10 }
    let s := ((s.setLink { s.link with warmDone := true }).raise 0x0712).msix 65
    let held := s.fab.heldReqs
    let s := s.modFab fun b => { b with heldReqs := [] }
    let s := held.foldl (fun s i => match i with | .cellarRequest h n l o len d => State.serveCellar h n l o len d s | _ => s) s
    match s.link.lossPend with
    | some c => (s.setLink { s.link with lossPend := none }).hostLossReset c
    | none => s

/-- Ten minutes (R522). -/
abbrev autoGapUs : Nat := 600000000

/-- The module climbs to rung 3 by itself, or stops (R522, R523). -/
def State.autoWarm (s : State) (f : StartFacts) : State :=
  if s.phase == .warm then s.stopModule
  else if s.phase != .run then s
  else
    let second := match s.err.lastAuto with | some t => decide (s.nowUs < t + autoGapUs) | none => false
    if second || !s.err.autoWarmEn then s.stopModule
    else
      let code := s.err.lastCode
      let seq := s.err.seq
      let s := s.modErr fun e => { e with autoWarm := true, autoWarms := satAdd 15 e.autoWarms 1, lastAuto := some s.nowUs }
      (s.event 5 0x0D31 none (changeDetail noReg noReg code seq 0)).warmReset f

/-- A write of ID_HOST_CTRL (R356, R375). -/
def State.writeHostCtrl (s : State) (v : Word) (f : StartFacts) : State :=
  let s := s.setLink { s.link with flushS := max 1 (bits v.toNat 15 8) }
  if v.getLsbD 0 && bits v.toNat 31 16 == 0x5A17 then s.warmReset f else s

/-- WARM_RESET (R375). -/
def execWarmReset (v : Word) (f : StartFacts) (s : State) : Result := .next (s.bar0 fun s => s.writeHostCtrl v f)

/-- WARM_RESET_TIMEOUT (R522): a warm reset has not completed within 2 s. -/
def execWarmResetTimeout (s : State) : Result := if s.phase == .warm then .next s.stopModule else .next s

/-- HUB_SRAM_UNCORRECTABLE (R510, R522). -/
def execHubSramUncorrectable (f : StartFacts) (s : State) : Result := .next (s.countUncorr.autoWarm f)

/-- PARTITION_RESET_OVERRUN (R517, R522). -/
def execPartitionResetOverrun (_p : Fin 16) (f : StartFacts) (s : State) : Result := .next (s.autoWarm f)

/-- WATCHDOG_EXPIRY (R522). -/
def execWatchdogExpiry (f : StartFacts) (s : State) : Result :=
  .next ((s.event 5 0x0D30 none (changeDetail noReg noReg 0 0 0)).autoWarm f)

/-! Field records as a command (R477, R478). -/

/-- FIELD_RECORD_WRITE (R477): a write that fails verification is repeated once; after a second failure its slot is invalid, the record in place counts, and the change waits for the next. -/
def execFieldRecordWrite (record : Fin 3) (ok1 ok2 : Bool) (s : State) : Result :=
  let dirty := match record.val with | 0 => s.flash.mapDirty | 1 => s.flash.driftDirty | _ => !s.flash.logPend.isEmpty
  if !dirty then .next s
  else if ok1 || ok2 then .next (match record.val with | 0 => s.putMap | 1 => s.putDrift | _ => s.putLog)
  else
    let f := s.flash
    let two := slotOne (SpareMap.seqOf f.map0) (SpareMap.seqOf f.map1)
    let twoD := slotOne (DriftRec.seqOf f.drift0) (DriftRec.seqOf f.drift1)
    let f := match record.val with
      | 0 => if two then { f with mapDirty := false, map0 := none } else { f with mapDirty := false, map1 := none }
      | 1 => if twoD then { f with driftDirty := false, driftRises := 0, drift0 := none } else { f with driftDirty := false, driftRises := 0, drift1 := none }
      | _ => { f with logPend := f.logPend.tail }
    let n := if record.val = 1 then s.flash.driftRises else 0
    .next ((List.range n).foldl (fun s _ => s.pwrRaise 0x0915) ((s.setFlash f).raise 0x0B0B))

end Sys2Proof.Machine
end

