-- ==== Sys2Proof/Machine/Package.lean ====
section
/-! DEFINITION. The package fabric: alignment lock, replay and sparing of die lanes, clock islands, and the rind (R377 to R396, R401 to R408, R520, R521). -/

namespace Sys2Proof.Machine

/-! Flits and alignment lock (R383 to R385). -/

/-- One step of the CRC-16 of R383, polynomial 0x8BB7. -/
def crc16Step (c : BitVec 16) (b : Bool) : BitVec 16 := if (c.getLsbD 15).xor b then (c <<< 1) ^^^ 0x8BB7#16 else c <<< 1

/-- The CRC-16 of a bit string. -/
def crc16 (b : List Bool) : BitVec 16 := b.foldl crc16Step 0xFFFF#16

/-- A descrambled flit of 256 bits, bit 0 first, passes its CRC (R383). -/
def flitOk (f : List Bool) : Bool :=
  let c := crc16 (f.take 240)
  f.length == 256 && (f.drop 240).zipIdx.all fun x => x.1 == c.getLsbD x.2

/-- A flit before scrambling (R383). -/
structure Flit where
  role : Nat
  vc : Nat
  sop : Bool
  eop : Bool
  seq : Nat
  payload : List Bool
  deriving DecidableEq, Repr

/-- `n` bits of a number, least significant first. -/
def bitsOf (n x : Nat) : List Bool := (List.range n).map fun i => Nat.testBit x i

/-- The number that a bit string spells, least significant first. -/
def ofBits : List Bool → Nat
  | [] => 0
  | b :: r => b2n b + 2 * ofBits r

/-- The 256 bits of a flit, its CRC last (R383). -/
def Flit.bits (f : Flit) : List Bool :=
  let b := bitsOf 2 f.role ++ bitsOf 2 f.vc ++ [f.sop, f.eop] ++ bitsOf 10 f.seq ++ (f.payload ++ List.replicate 224 false).take 224
  let c := crc16 b
  b ++ (List.range 16).map fun i => c.getLsbD i

/-- The flit that 256 descrambled bits spell; none when its CRC fails (R383). -/
def Flit.read (b : List Bool) : Option Flit :=
  if flitOk b then some { role := ofBits (b.take 2), vc := ofBits ((b.drop 2).take 2), sop := b.getD 4 false, eop := b.getD 5 false, seq := ofBits ((b.drop 6).take 10), payload := (b.drop 16).take 224 }
  else none

/-- A link control flit: the SEQ that it acknowledges, or with NAK the one that failed, and credit returns (R383, R387). -/
def controlFlit (seq ack : Nat) (nak : Bool) (credits : Nat) : Flit :=
  { role := 2, vc := 3, sop := true, eop := true, seq := seq, payload := bitsOf 10 ack ++ [nak] ++ bitsOf 9 credits }

/-- The flits of a packet on its lane, from its SEQ on; `data` gives each its payload (R383). -/
def LinkPkt.flitsOf (p : LinkPkt) (data : Nat → List Bool) : List Flit :=
  (List.range p.flits).map fun i => { role := p.role, vc := p.vc, sop := i == 0, eop := i + 1 == p.flits, seq := (p.seq + i) % 1024, payload := data i }

/-- Descramble bits with the scrambler of R384 from a register value (the register's form: log entry 30). -/
def descramble : BitVec 23 → List Bool → List Bool
  | _, [] => []
  | r, b :: bs => b.xor (r.getLsbD 22) :: descramble (if r.getLsbD 22 then (r <<< 1) ^^^ 0x210125#23 else r <<< 1) bs

/-- The alignment word, most significant bit first (R384). -/
def alignWord : List Bool := (List.range 16).map fun i => Nat.testBit 0xB38E (15 - i)

/-- Bits of a superframe and of its flits (R384). -/
abbrev superBits : Nat := 16400
abbrev flitsBits : Nat := 16384

/-- First bad flit among the descrambled flits of a superframe. -/
def badFlit (fs : List (List Bool)) : Option Nat := fs.findIdx? fun f => !flitOk f

/-- What a candidate at the head of `rx` shows in its next `n` superframes, `k` done (R385): none when it locks, else the last bit examined, counted from the candidate. -/
def candidate : Nat → Nat → List Bool → Option Nat
  | 0, _, _ => none
  | n + 1, k, rx =>
    let flits := (rx.drop 16).take flitsBits
    match badFlit (groupsOf 256 flitsBits (descramble 0x7FFFFF#23 flits)) with
    | some i => some (k * superBits + 16 + 256 * i + 255)
    | none =>
      let r := rx.drop superBits
      if r.take 16 = alignWord ∧ flits.length = flitsBits then candidate n (k + 1) r else some ((k + 1) * superBits + 15)

/-- The search of R385: `c` is the offset of the head of `rx`, and the first argument bounds the offsets tried. -/
def lockSearch : Nat → Nat → List Bool → Option Nat
  | 0, _, _ => none
  | n + 1, c, rx =>
    if rx.length < 16 then none
    else if rx.take 16 = alignWord then
      match candidate 3 0 rx with
      | none => some c
      | some e => if e < 512 then lockSearch n (c + 1) rx.tail else lockSearch n (c + e + 1) (rx.drop (e + 1))
    else lockSearch n (c + 1) rx.tail

/-! Die lanes (R386 to R390). -/

/-- Lanes that the memory role of a direction has given up (R390). -/
def DieLink.lostOf (k : DieLink) (dir : Nat) : Nat := ((k.loss.filter fun x => x.1 == dir).map (·.2.2)).sum

/-- The spare lanes of a direction that are free and good. -/
def DieLink.freeSpares (k : DieLink) (l dir : Nat) : List Nat :=
  (List.range (spareLanes l)).filter fun n => !(k.lanes.any fun x => x.dir == dir && x.spare == some n) && !(k.lane dir (activeLanes l + n)).failed

/-- The lowest spare lane of a direction that is free and good. -/
def DieLink.freeSpare (k : DieLink) (l dir : Nat) : Option Nat := (k.freeSpares l dir).head?

/-- Offset of ID_FAB_LINK_l (R406). -/
def regFabLink (l : Nat) : Nat := 0x304 + 8 * l

/-- The link is failed: start-up halts in its training step, and later the module stops (R390, R465, R521). -/
def State.linkFails (s : State) (l : Nat) : State :=
  let code := s.err.lastCode
  let seq := s.err.seq
  let s := s.modLink l fun k => { k with failed := true }
  if s.phase == .boot && decide (s.boot.step < 6) then s
  else (s.event 5 0x0D21 none (changeDetail (regFabLink l) noReg code seq l)).stopModule

/-- A direction has no spare left: a memory lane is given up, and takes the role of a failed lane of another role (R390, R521). -/
def State.loseMemLane (s : State) (l dir lane : Nat) : State :=
  let s := s.modLink l fun k =>
    let k := { k with loss := (dir, 0, k.lostOf dir + 1) :: k.loss.filter fun x => x.1 != dir }
    let k := if dir = 0 then { k with lost0 := satAdd 255 k.lost0 1 } else { k with lost1 := satAdd 255 k.lost1 1 }
    if k.roleOf lane = 0 then k
    else match k.lastMemory dir (8 * k.mem) with
      | none => k
      | some m => (k.setLane { k.lane dir m with gone := true }).setLane { k.lane dir lane with taken := some m }
  let s := (s.raise 0x0811).capacityChange (regFabLink l) noReg l
  let k := s.dieLink l
  if 8 * k.mem - k.lostOf dir < 64 then s.linkFails l else s

/-- The flits of a lane that are not acknowledged are sent again from those that the sender keeps, the last `n` flits at most, oldest first (R387). -/
def State.resendKept (s : State) (l dir lane n : Nat) (all : Bool) : State :=
  let k := s.dieLink l
  let l' := (keepFlits dir lane n (k.sent.filter fun x => x.1 == lane && x.2.dir == dir)).filter fun x => all || !x.2.acked
  s.setOut (s.out ++ l'.reverse.map fun x => .linkResend l dir lane x.2)

/-- Flits of a lane that are not acknowledged. -/
def DieLink.unacked (k : DieLink) (dir lane : Nat) : Nat := (((k.kept dir lane).filter fun p => !p.acked).map (·.flits)).sum

/-- What a lane has sent and nobody has acknowledged is replayed once it, or the lane that takes its hash entries, carries flits (R386, R388 step 2). -/
def State.replayLane (s : State) (l dir lane : Nat) : State :=
  let n := (s.dieLink l).unacked dir lane
  if n = 0 then s else (s.setFabric { s.fabric with replays := sat32 s.fabric.replays n }).resendKept l dir lane 1024 false

/-- A spare takes a lane's place: DIE_LANE_FAILURE trains it and holds until it has locked (R388 steps 3 and 4, R389). -/
def State.spareDieLane (s : State) (l dir lane n : Nat) : State :=
  let s := s.modLink l fun k =>
    let k := k.setLane { k.lane dir lane with failed := true, spare := some n, locked := true, losses := [], resend := none }
    if dir = 0 then { k with spare0 := k.spare0 - 1 } else { k with spare1 := k.spare1 - 1 }
  ((s.raise 0x0810).capacityChange (regFabLink l) noReg l).mapChanged

/-- The lane whose place a spare lane has taken. -/
def DieLink.servedBy (k : DieLink) (dir n : Nat) : Option Nat := (k.lanes.find? fun x => x.dir == dir && x.spare == some n).map (·.lane)

/-- An active lane fails, or the spare that had taken its place (R388, R390). -/
def State.laneFails (s : State) (l dir lane : Nat) : State :=
  let s := s.replayLane l dir lane
  match (s.dieLink l).freeSpare l dir with
  | some n => s.spareDieLane l dir lane n
  | none => (s.modLink l fun k => k.setLane { k.lane dir lane with failed := true, spare := none, taken := none, locked := false, resend := none }).loseMemLane l dir lane

/-- The lane whose role a memory lane has taken. -/
def DieLink.heldBy (k : DieLink) (dir m : Nat) : Option Nat := (k.lanes.find? fun x => x.dir == dir && x.taken == some m).map (·.lane)

/-- A lane fails: an active lane, a memory lane that has taken another's role, a spare in use, or a spare that serves none (R388, R390). -/
def State.failLane (s : State) (l dir lane : Nat) : State :=
  let k := s.dieLink l
  if lane < activeLanes l then
    if (k.lane dir lane).failed then s
    else match k.heldBy dir lane with
      | some x => (s.modLink l fun k => k.setLane { k.lane dir lane with failed := true, locked := false }).laneFails l dir x
      | none => s.laneFails l dir lane
  else if activeLanes l + spareLanes l ≤ lane ∨ (k.lane dir lane).failed = true then s
  else
    let s := s.modLink l fun k => k.setLane { k.lane dir lane with failed := true, locked := false }
    match k.servedBy dir (lane - activeLanes l) with
    | some x => s.laneFails l dir x
    | none =>
      (s.modLink l fun k => if dir = 0 then { k with spare0 := k.spare0 - 1 } else { k with spare1 := k.spare1 - 1 }).capacityChange (regFabLink l) noReg l

/-- The lane is searching for lock: it has lost it, or start-up has not trained the links yet and it has not locked. -/
def State.unlocked (s : State) (l dir lane : Nat) : Bool := !((s.dieLink l).lane dir lane).locked

/-- LANE_LOCK (R385): the lane is locked at the offset at which the search finds its alignment word, and its unacknowledged flits are replayed (R386). -/
def execLaneLock (l : Fin 6) (dir : Fin 2) (lane : Fin 2624) (rx : List Bool) (s : State) : Result :=
  let x := (s.dieLink l.val).lane dir.val lane.val
  if x.locked || (x.failed && x.spare.isNone) then .next s
  else match lockSearch (rx.length + 1) 0 rx with
    | none => .next s
    | some c => .next ((s.modLink l.val fun k => k.setLane { x with locked := true, resend := none, bad := [], offset := c }).replayLane l.val dir.val lane.val).linkServe

/-- LOCK_TIMEOUT (R386, R388). -/
def execLockTimeout (l : Fin 6) (dir : Fin 2) (lane : Fin 2624) (s : State) : Result :=
  if s.unlocked l.val dir.val lane.val then .next (s.failLane l.val dir.val lane.val).linkServe else .next s

/-- A locked lane loses lock: the eighth loss in one second fails it (R386, R388). -/
def State.loseLock (s : State) (l dir lane : Nat) : State :=
  let x := (s.dieLink l).lane dir lane
  let t := s.recent 1000000 x.losses
  let s := s.setFabric { s.fabric with relocks := sat32 s.fabric.relocks 1 }
  let s := s.modLink l fun k => k.setLane { x with locked := false, losses := t, bad := [] }
  if 8 ≤ t.length then (s.failLane l dir lane).linkServe else s

/-- LOSS_OF_LOCK (R386, R388). -/
def execLossOfLock (l : Fin 6) (dir : Fin 2) (lane : Fin 2624) (s : State) : Result :=
  if ((s.dieLink l.val).lane dir.val lane.val).locked then .next (s.loseLock l.val dir.val lane.val) else .next s

/-- The failed flits of the superframe of flit `q`: 64 flits whose SEQs share their quotient by 64 (R384, R386; log entry 30). -/
def DieLane.badWith (x : DieLane) (q : Nat) : List Nat := (q :: x.bad).filter fun y => y / 64 == q / 64

/-- FLIT_CRC_FAIL (R387): a NAK names the flit, and later flits are discarded until it comes again; the eighth failed flit of a superframe loses lock (R386). -/
def execFlitCrcFail (l : Fin 6) (dir : Fin 2) (lane : Fin 2624) (seq : BitVec 10) (s : State) : Result :=
  let x := (s.dieLink l.val).lane dir.val lane.val
  let q := seq.toNat
  let y := { x with bad := q :: x.bad, resend := some (x.resend.getD q) }
  let s := s.modLink l.val fun k => k.setLane y
  let s := if x.resend.isNone || x.resend == some q then s.emit (.flitNak l.val dir.val lane.val q) else s
  .next (if 8 ≤ (x.badWith q).length ∧ x.locked = true then s.loseLock l.val dir.val lane.val else s)

/-- NAK (R387): the sender resends from the named flit, in order, from those that it keeps. -/
def execNak (l : Fin 6) (dir : Fin 2) (lane : Fin 2624) (seq sent : BitVec 10) (s : State) : Result :=
  let n := if sent = seq then 1024 else (sent - seq).toNat
  let x := (s.dieLink l.val).lane dir.val lane.val
  let s := s.setFabric { s.fabric with replays := sat32 s.fabric.replays n }
  .next (((s.modLink l.val fun k => k.setLane { x with resend := none }).emit (.flitResend l.val dir.val lane.val seq.toNat n)).resendKept l.val dir.val lane.val n true)

/-- DIE_LANE_FAILURE (R388 to R390): of the lanes that fail in one cycle the lower number takes a spare first; what a lane had sent unacknowledged is sent again, and packets that waited for it go out on the one that takes its hash entries (R382). -/
def execDieLaneFailure (l : Fin 6) (dir : Fin 2) (lanes : FailedLanes) (s : State) : Result :=
  let ls := sortBy (fun a b => decide (a ≤ b)) ((lanes.lane :: lanes.also).map Fin.val)
  .next (ls.foldl (fun s x => s.failLane l.val dir.val x) s).linkServe

/-! Clock islands (R391 to R396, R520). -/

/-- An island that says nothing of its own: a core in S1, S2 or under test is closed, and with the module in S3 or S4 the vat slices and the HBM controllers are; any other runs (R391, R392, R429, R430). -/
def State.islRest (s : State) (i : Island) : IslandState :=
  match i with
  | .core p => if (s.core p.val).idle != .s0 || (s.core p.val).testing then .closed else .running
  | .vat _ | .hbm _ => if 3 ≤ s.power.idle then .closed else .running
  | _ => .running

/-- The record of an island. -/
def State.isl (s : State) (i : Island) : IslandRec := (s.fabric.islands.find? fun x => x.island == i).getD { island := i, st := s.islRest i }

/-- Replace the record of an island; one that says nothing of its own is dropped. -/
def State.setIsl (s : State) (r : IslandRec) : State :=
  let rest := s.fabric.islands.filter fun x => x.island != r.island
  s.setFabric { s.fabric with islands := if r.st == s.islRest r.island && r.held.isEmpty && r.back.isEmpty && r.behind.isEmpty then rest else rest ++ [r] }

/-- The island's router answers with 0x0881: it was declared unreachable, or it is a core that has failed or is fused off (R396). -/
def State.islDead (s : State) (i : Island) : Bool :=
  (s.isl i).st == .failed || (match i with | .core p => (s.core p.val).st == .failed || (s.core p.val).st == .fusedOff | _ => false)

/-- ISLAND_CLOSE (R392 step 1): the island is marked CLOSING; the close is committed when the block next idles or a packet finds it closed (log entry 31). -/
def execIslandClose (i : Island) (s : State) : Result :=
  let r := s.isl i
  if r.st == .running && !s.islDead i then .next (s.setIsl { r with st := .closing }) else .next s

/-- Requests of the island are outstanding, or its channels are not empty: a command holds the core, frames of the engine's ports have not gone, or packets of its die wait at a link (R392 step 2). -/
def State.islBusy (s : State) (i : Island) : Bool :=
  match i with
  | .core p => match (s.core p.val).logical with | some l => (s.holder l).isSome | none => false
  | .engine e => [2 * e.val, 2 * e.val + 1].any fun n => (s.port n).tx.any fun t => !t.queue.isEmpty
  | .vat _ | .hbm _ => s.fabric.links.any fun k => k.waiting.any fun p => p.src == islandDie i || p.dst == islandDie i
  | .hub _ => false

/-- Closes that have drained are committed (R392 steps 2 to 4). -/
def State.commitCloses (s : State) : State :=
  if s.fabric.islands.any fun r => r.st == .closing then
    s.setFabric { s.fabric with islands := s.fabric.islands.map fun r => if r.st = .closing ∧ s.islBusy r.island = false then { r with st := .closed } else r }
  else s

/-- A packet abandons the close of its island: the island runs again, the packet is delivered, and the requester of the close is told (R393). -/
def State.abandonClose (s : State) (r : IslandRec) (pkt : IslPkt) : State := ((s.setIsl { r with st := .running }).emit (.delivered pkt)).emit (.closeAbandoned r.island)

/-- CLOSE_ABANDON (R393). -/
def execCloseAbandon (a : IslArrival) (s : State) : Result :=
  let r := s.isl a.island
  if r.st == .closing && !s.islDead a.island then .next (s.abandonClose r a.pkt) else .next s

/-- Places in a router for packets of a closed island (R394). -/
abbrev heldPlaces : Nat := 16

/-- The packet takes a place; the first one requests the wake of the power controller, in the interrupt role (R378, R394). -/
def State.holdPacket (s : State) (r : IslandRec) (pkt : IslPkt) : State :=
  let s := (s.setFabric { s.fabric with held := sat32 s.fabric.held 1 }).setIsl { r with st := .waking, held := r.held ++ [pkt] }
  if r.held.isEmpty then s.linkSend (interruptTo (islandDie r.island) hDie 16) else s

/-- The packet goes back to its sender with 0x0880, to be resent after `us` (R395). -/
def State.returnPacket (s : State) (r : IslandRec) (pkt : IslPkt) (us : Nat) : State :=
  ((s.setFabric { s.fabric with returned := sat32 s.fabric.returned 1 }).setIsl { r with back := r.back ++ [(pkt, us)] }).emit (.returned pkt 0x0880)

/-- A packet is answered with 0x0881; the command of the core that sent it ends with that status and commits nothing (R396). -/
def State.answerDead (s : State) (pkt : IslPkt) : State :=
  let s := s.emit (.returned pkt 0x0881)
  if pkt.sender < 864 then
    match (s.core pkt.sender).logical.bind s.holder with
    | some q => (s.endCmd q 0x0881).settle
    | none => s
  else s

/-- A packet reaches the router of island `r`; a return sends it back for `us` (R393 to R396). -/
def State.arriveIsl (s : State) (r : IslandRec) (pkt : IslPkt) (us : Nat) : State :=
  if s.islDead r.island then s.answerDead pkt
  else if r.st == .running then s.emit (.delivered pkt)
  else if r.st == .closing then s.abandonClose r pkt
  else if r.held.length < heldPlaces then s.holdPacket r pkt
  else s.returnPacket r pkt us

/-- A sender's packet goes to its island, or waits behind one of the same sender that was returned (R395). -/
def State.sendIsl (s : State) (i : Island) (pkt : IslPkt) : State :=
  let r := s.isl i
  if r.back.any fun x => x.1.sender == pkt.sender then s.setIsl { r with behind := r.behind ++ [pkt] } else s.arriveIsl r pkt 2

/-- PACKET_HELD (R393 to R396). -/
def execPacketHeld (i : Island) (pkt : IslPkt) (s : State) : Result := .next (s.sendIsl i pkt)

/-- ISLAND_WAKE_DONE (R394): held packets are delivered in arrival order; a core is out of its idle state. -/
def execIslandWakeDone (i : Island) (s : State) : Result :=
  let r := s.isl i
  if r.st == .waking then
    let s := match i with | .core p => (s.modCore p.val fun c => { c with idle := .s0 }).restCores (s.core p.val).logical.toList | _ => s
    .next (r.held.foldl (fun s p => s.emit (.delivered p)) (s.setIsl { r with st := .running, held := [] }))
  else .next s

/-- RETURNED_PACKET_RESEND (R395, R396): each further return doubles the interval, up to 64 µs; once the packet is taken, those that its sender held behind it follow. -/
def execReturnedPacketResend (i : Island) (pkt : IslPkt) (s : State) : Result :=
  let r := s.isl i
  match r.back.find? fun x => x.1 == pkt with
  | none => .next s
  | some (_, us) =>
    let mine := r.behind.filter fun x => x.sender == pkt.sender
    let r := { r with back := r.back.filter fun x => x.1 != pkt }
    let s := (s.setIsl r).arriveIsl r pkt (min 64 (2 * us))
    if (s.isl i).back.any (fun x => x.1.sender == pkt.sender) || mine.isEmpty then .next s
    else
      let r := s.isl i
      .next (mine.foldl (fun s x => s.sendIsl i x) (s.setIsl { r with behind := r.behind.filter fun x => x.sender != pkt.sender }))

/-- Number of an island for DETAIL (R511). -/
def islNumber : Island → Nat
  | .core p => p.val | .vat b => b.val | .hbm x => x.val | .engine e => e.val | .hub k => k.val

/-- What happens to an island declared unreachable (R520). -/
def State.treatIsland (s : State) (i : Island) (f : StartFacts) : State :=
  let ev : Nat → State → State := fun cls s => s.event cls 0x0D22 none (changeDetail noReg noReg 0 0 (islNumber i))
  match i with
  | .core p =>
    let l := (s.core p.val).logical
    let s := s.event 2 0x0D22 none (coreDetail p.val l 5 1)
    match l with | some l => s.faultCore l .island { fail := f.spareFail, margin := f.spareMargin } | none => s
  | .hbm x => (List.range 64).foldl (fun s k => s.qualifyPc (64 * x.val + k)) (ev 2 s)
  | .engine e =>
    let s := (ev 2 s).engineDown e.val
    (s.setInv { s.inv with degraded := s.inv.degraded ||| (3#16 <<< (2 * e.val)) }).capacityChange regOptInv noReg 0
  | .vat _ => (ev 5 s).stopModule
  | .hub _ => (ev 5 s).autoWarm f

/-- WAKE_TIMEOUT (R396, R520): held packets are answered with 0x0881, and the command that waits for a core so answered ends with it. -/
def execWakeTimeout (i : Island) (f : StartFacts) (s : State) : Result :=
  let r := s.isl i
  if r.st != .waking then .next s
  else
    let s := s.setIsl { r with st := .failed, held := [] }
    let s := r.held.foldl State.answerDead s
    let s := match i with
      | .core p => (match (s.core p.val).logical.bind s.holder with | some q => if r.held.isEmpty then s else s.endCmd q 0x0881 | none => s)
      | _ => s
    .next (s.treatIsland i f)

/-! The rind (R401 to R404, R408). -/

/-- Client numbers of the guest traffic of partitions begin here, among those that ask for credit (R274). -/
abbrev guestWho : Nat := 2 ^ 40

/-- The guest die is fenced: requests that wait are dropped (R404 steps 2 and 3). -/
def State.fenceGuest (s : State) (cause : Nat) : State :=
  if s.inv.guest ≠ 1 then s
  else
    let s := (s.setInv { s.inv with guest := 2 }).setFabric { s.fabric with fenceCause := cause, guestWaits := [] }
    let s := s.modAdm fun a => { a with waiting := a.waiting.filter fun w => decide (w.who < guestWho) }
    (s.raise 0x0821).capacityChange regCoreInv noReg 0

/-- One more violation; FENCE_LIMIT of them fence the die (R401, R403, R404). -/
def State.violation (s : State) : State :=
  let s := s.setFabric { s.fabric with violations := satAdd 255 s.fabric.violations 1 }
  if s.fabric.fenceLimit ≠ 0 ∧ s.fabric.fenceLimit ≤ s.fabric.violations then s.fenceGuest 1 else s

/-- A request fails a check of R403. -/
def State.rindDeny (s : State) (answer : Out) : State := ((s.emit answer).raiseLimited 0x0820 0x0820 1000 none).violation

/-- The window of KIND 1 that holds a read whole (R403). -/
def State.readWin (s : State) (a n : Nat) : Option RindWin :=
  s.fabric.wins.find? fun w => w.kind == 1 && decide (w.part * extentB + w.base ≤ a) && decide (a + n ≤ w.part * extentB + w.base + w.size)

/-- Units of hub-ingress credit are free for a guest request of partition `p`, and none of its requests waits (R273, R274, R403). -/
def State.guestFree (s : State) (p : Nat) : Bool :=
  let before := s.adm.waiting.filter fun w => w.res == 1
  !(s.fabric.guestWaits.any fun x => x.1 == p) && (s.grantShares 1 p 3 1 (!before.any fun w => w.cls == 0) (!before.any fun w => w.part == p)).isSome

/-- The fourth and fifth checks of a read: the partition is admitted, and every slab is mapped (R403). -/
def State.guestMapped (s : State) (p a n : Nat) : Bool := (s.part p).admitted && (spanSlabs a n).all fun k => (s.slab? k).isSome

/-- The last checks of a read, and what answers it: the committed bytes, or an abort that is no violation where a slab is LOST (R403; log entry 39). -/
def State.guestRead (s : State) (p a n : Nat) : State :=
  let slabs := spanSlabs a n
  if s.guestMapped p a n = false then s.rindDeny .guestAbort
  else if slabs.any fun k => match s.slab? k with | some x => x.st == .lost | none => false then s.emit .guestAbort
  else s.emit (.guestData (s.dev.read a n))

/-- A write that passes is a BAR2 write of requester 0xFFFF (R403). -/
def State.guestWrite (s : State) (p a : Nat) (data : Bytes) : State :=
  if !(s.part p).admitted then s.rindDeny .guestAbort else s.bar2Write p (bits a 23 0) data 0xFFFF

/-- A guest request that has its credit is served; it gives the credit back at once (R147, R403). -/
def State.guestServe (s : State) (x : Nat × Nat × (Nat ⊕ Bytes)) : State :=
  match x.2.2 with
  | .inl n => s.guestRead x.1 x.2.1 n
  | .inr d => s.guestWrite x.1 x.2.1 d

/-- A guest request that passes the first checks is served, or waits for credit behind the earlier ones of its partition (R403). -/
def State.guestGo (s : State) (x : Nat × Nat × (Nat ⊕ Bytes)) : State :=
  if s.guestFree x.1 then s.guestServe x
  else
    let s := s.setFabric { s.fabric with guestWaits := s.fabric.guestWaits ++ [x] }
    if s.adm.waiting.any fun w => w.res == 1 && w.who == guestWho + x.1 then s
    else s.modAdm fun a => { a with waiting := a.waiting ++ [{ res := 1, part := x.1, cls := 3, units := 1, who := guestWho + x.1, since := s.nowUs }] }

/-- The guest requests of partition `p` that wait are served while credit is granted. -/
def State.serveGuest (p : Nat) : Nat → State → State
  | 0, s => s
  | n + 1, s =>
    match s.fabric.guestWaits.find? fun x => x.1 == p with
    | none => s
    | some x =>
      let (ok, s) := s.askCredit 1 p 3 1 (guestWho + p)
      if !ok then s
      else State.serveGuest p n (((s.releaseCredit 1 p 1).setFabric { s.fabric with guestWaits := s.fabric.guestWaits.erase x }).guestServe x)

/-- The checks of R403 that precede the address: the die is not fenced, the request is a Memory request of 1 to 256 bytes, not poisoned and without a link error (R401, R404), and a read is within the 64 outstanding; then `go`. With no guest die fitted there is no requester. -/
def State.guestChecks (s : State) (r : GuestAsk) (n : Nat) (read : Bool) (go : State) : State :=
  if s.inv.guest = 0 then s
  else if s.inv.guest ≠ 1 then s.rindDeny .guestAbort
  else if r.poisoned ∨ r.kind = .linkError then s.fenceGuest 3
  else if r.kind = .other ∨ 256 < n ∨ n = 0 then s.rindDeny .guestUnsupported
  else if read ∧ 64 ≤ (s.fabric.guestWaits.filter fun x => x.2.2.isLeft).length then s.rindDeny .guestUnsupported
  else go

/-- MEMORY_READ (R401, R403). -/
def execMemoryRead (req : GuestAsk) (len : BitVec 9) (s : State) : Result :=
  let a := req.addr.toNat
  let n := len.toNat
  .next (s.guestChecks req n true (match s.readWin a n with
    | none => s.rindDeny .guestAbort
    | some w => if s.guestMapped w.part a n then s.guestGo (w.part, a, .inl n) else s.rindDeny .guestAbort))

/-- MEMORY_WRITE (R401, R403). -/
def execMemoryWrite (req : GuestAsk) (data : Bytes) (s : State) : Result :=
  let a := req.addr.toNat
  let p := bits a 47 44
  .next (s.guestChecks req data.length false
    (if !(s.fabric.wins.any fun w => w.kind == 2 && w.part == p) || !(s.part p).admitted then s.rindDeny .guestAbort else s.guestGo (p, a, .inr data)))

/-! Credit (R274). -/

/-- Retry a waiting request for credit (R274): a collective's pull, a tile, a guest request, a move, a placement for a running command, or the copies of a commit; a command that waits to start asks again as the scheduler runs. -/
def State.retryCredit (s : State) (w : CreditReq) : State :=
  if guestWho ≤ w.who then State.serveGuest w.part s.fabric.guestWaits.length s
  else if 64 ≤ w.who then s.serveMoves
  else if w.res = 0 then s.runColl w.who
  else if w.res = 1 then (s.pushTiles w.who).settleRun w.who
  else if w.res = 3 then (State.allocate w.who (((s.head? w.who).map (·.staged.need.length)).getD 0) s).settleRun w.who
  else s.commitHead w.who

/-- Staging blocks that the collectives of partition `p` no longer hold (R310). -/
def State.dropBlocks (s : State) (p : Nat) : List Nat → Nat → State
  | [], _ => s
  | q :: r, n =>
    let h := ((s.collOf q).map (·.blocks)).getD 0
    State.dropBlocks (match s.collOf q with | some c => s.setColl { c with blocks := c.blocks - n } | none => s) p r (n - h)

/-- Hub-ingress units that the head commands of partition `p` no longer hold. -/
def State.dropHub (s : State) (p : Nat) : List Nat → Nat → State
  | [], _ => s
  | q :: r, n =>
    let h := ((s.head? q).map (·.hubUnits)).getD 0
    State.dropHub (s.modHead q fun c => { c with hubUnits := c.hubUnits - n }) p r (n - h)

/-- CREDIT_GRANT (R274): units of row `r` of R273 held by partition `p` are released, and waiting requests are granted by the rule, in arrival order. Move slots and slow-path places are released where the move or the request ends, so that for them only the waiting requests are served. -/
def execCreditGrant (r : Fin 4) (p : Fin 16) (units : Nat) (s : State) : Result :=
  let s := if r.val ≤ 1 then s.releaseCredit r.val p.val units else s
  let s := if r.val = 0 then s.dropBlocks p.val (s.queuesOf p.val) units else if r.val = 1 then s.dropHub p.val (s.queuesOf p.val) units else s
  .next ((s.adm.waiting.filter fun w => resRow w.res == r.val).foldl State.retryCredit s).settle

/-- GUEST_LINK_DOWN (R404). -/
def execGuestLinkDown (s : State) : Result := .next (s.fenceGuest 2)

/-- A write of ID_RIND_CTRL (R404, R408). -/
def State.writeRind (s : State) (v : Word) : State := if v.getLsbD 0 && bits v.toNat 31 16 == 0xFE0C then s.fenceGuest 4 else s

/-- FENCE (R404). -/
def execFence (v : Word) (s : State) : Result := .next (s.bar0 fun s => s.writeRind v)

end Sys2Proof.Machine
end

