-- ==== Sys2Proof/Machine/Thermal.lean ====
section
/-! DEFINITION. Power and thermal control: the cap, the issue limits, learning, droop, thermal limits and idle states (R410 to R434). -/

namespace Sys2Proof.Machine

/-- Replace the power block. -/
def State.modPower (s : State) (f : Power → Power) : State := s.setPower (f s.power)

/-- The sensor bus is degraded (R499). -/
def State.sensorDegraded (s : State) : Bool :=
  s.steward.isolated != 0 || s.steward.trunk || (s.steward.absent &&& 0x3FF#11) != 0

/-! The effective cap (R413, R416). -/

/-- Mean of the last 250 windows' estimates, over those that there have been (R414; log entry 33). -/
def meanOf (l : List Rat) : Rat := if l.isEmpty then 0 else l.sum / (l.length : Nat)

/-- C_eff and its source: the least of the three caps, the first of equals in the table's order, then the sensor margin (R413). -/
def State.capNow (s : State) : Rat × Nat :=
  let a := s.power.capW
  let b := s.power.boardCap
  let least : Nat × Nat := if b < a then (b, 2) else (a, 1)
  let least := if s.pins.brake && decide (500 < least.1) then (500, 3) else least
  if s.sensorDegraded && s.steward.margin != 0 then ((least.1 : Rat) * (100 - (s.steward.margin : Rat)) / 100, 4) else ((least.1 : Rat), least.2)

/-- C_eff takes its value; a fall below the present 1 ms mean brings the cut of R416 in the next window. -/
def State.updateCap (s : State) : State :=
  let (c, l) := s.capNow
  s.modPower fun p => { p with
    effCap := c, limiter := l
    cutPending := p.cutPending || (decide (c < p.effCap) && decide (c < meanOf p.wins)) }

/-- A cap as it is stored (R432, R496). -/
def clampCap (n : Nat) : Nat := max 500 (min 1100 n)

/-- A write of PWR_PEAK (R432). -/
def State.writePeak (s : State) (v : Word) : State := if v.getLsbD 16 then s.modPower fun p => { p with peak := 0 } else s

/-- PWR_PEAK_CLEAR (R432). -/
def execPwrPeakClear (v : Word) (s : State) : Result := .next (s.bar0 fun s => s.writePeak v)

/-- A write of PWR_CAP (R413, R432). -/
def State.writeCap (s : State) (v : Word) : State := (s.modPower fun p => { p with capW := clampCap (bits v.toNat 10 0) }).updateCap

/-- PWR_CAP_WRITE (R413). -/
def execPwrCapWrite (v : Word) (s : State) : Result := .next (s.bar0 fun s => s.writeCap v)

/-- The sideband serves SB_ registers: from the end of start-up step 2 until 54 V good deasserts, not while a warm reset restarts the steward (R495). -/
def State.smbOpen (s : State) : Bool := s.phase != .off && s.phase != .warm && s.phase != .shutdown && !(s.phase == .boot && decide (s.boot.step < 2))

/-- The registers other than SB_ID, SB_STATUS, SB_EVENT, SB_ALERT_EN, SB_BOOT_CTRL and SB_BOOT_DATA are served: not while halted or in the update state (R465). -/
def State.smbFull (s : State) : Bool := s.smbOpen && s.phase != .halted && s.phase != .update

/-- SB_CAP_WRITE (R413, R496). -/
def execSbCapWrite (v : Word) (s : State) : Result :=
  .next (if s.smbFull then (s.modPower fun p => { p with boardCap := clampCap (bits v.toNat 10 0) }).updateCap else s)

/-- A write of PWR_CTRL (R418, R419, R432): the reserved MODE is ignored. -/
def State.writeMode (s : State) (v : Word) : State :=
  let m := bits v.toNat 1 0
  let ms := max 1 (bits v.toNat 15 8)
  let two := s.steward.shed == 2
  let e := min 160 ms
  s.modPower fun p => { p with
    mode := if m = 3 then p.mode else m, learnMs := ms, learnEff := if two then max e p.learnEff else e }

/-- MODE_WRITE (R418). -/
def execModeWrite (v : Word) (s : State) : Result := .next (s.bar0 fun s => s.writeMode v)

/-- PWR_BRAKE_ASSERT (R40, R416). -/
def execPwrBrakeAssert (s : State) : Result :=
  if s.pins.brake then .next s
  else
    let s := s.setPins { s.pins with brake := true }
    if s.phase == .off then .next s else .next ((s.wakeNow.pwrEvent 4).raise 0x0913).updateCap

/-- PWR_BRAKE_RELEASE (R40). -/
def execPwrBrakeRelease (s : State) : Result := .next (s.setPins { s.pins with brake := false }).updateCap

/-! The issue limits (R414, R418 to R422). -/

/-- The bounds of R411 and R458: REL_W, ABS_W, REL, ABS. -/
def State.bounds (s : State) : Rat × Rat × Rat × Rat :=
  if s.power.locked && !s.power.clamped && !s.meter.fault then (6 / 100, 15, 2 / 100, 8) else (10 / 100, 20, 6 / 100, 15)

/-- q_rep of R422. -/
def qRep (c : Rat) : Nat := (max 1 (min 64 (64 * (c - 360) / 900).floor)).toNat

/-- Ceiling of a base-2 logarithm. -/
def clog2 (n : Nat) : Nat := if n ≤ 1 then 0 else Nat.log2 (n - 1) + 1

/-- Addresses of the operands of an entry, of its outputs, and of its chain (R149, R164, R258, R261, R301). -/
def State.phaseAddrs (s : State) (b : Bytes) : List Nat × List Nat × Nat :=
  let op := entOp b
  let d := field b 32 6
  let at_ : Nat → Nat := fun o => s.dev.num (d + o) 6
  if op = cPRODUCT then ([d, field b 38 6, field b 56 6], [field b 44 6], field b 50 6)
  else if op = cCHAINED then ([at_ 24, at_ 30, at_ 36], [field b 38 6], at_ 42)
  else if op = cCOLLECTIVE then ([at_ 18], [at_ 24], 0)
  else if op = cOPTIMISER then ([at_ 38, at_ 44, at_ 50], [at_ 56, at_ 62], 0)
  else ([], [], 0)

/-- The tensors of some operand addresses; one that is 0 or does not decode counts for nothing. -/
def State.phaseOpds (s : State) (p : Nat) (l : List Nat) : List Opd :=
  (l.filter (· != 0)).filterMap fun a => match s.operand p a false with | .ok o => some o | .error _ => none

/-- What the signature of R419 hashes, of the command at the head of queue `q`: OP, formats of the operands and the output, OPs of the chain, the logarithms of M, N and K, and the core count (log entry 32). -/
def State.phaseItems (s : State) (q : Nat) (c : Cmd) : List Nat :=
  let p := (s.queue q).part
  let (ins, outs, ch) := s.phaseAddrs c.entry
  let x := s.phaseOpds p ins
  let y := s.phaseOpds p outs
  let stages := if ch = 0 then [] else match s.readChain p ch ((x.head?.map (·.fmt)).getD 0) 0 with | .ok ch => ch.stages.map (·.op) | .error _ => []
  let m := (x.head?.map (·.shape.1)).getD 0
  let k := (x.head?.map (·.shape.2)).getD 0
  let n := ((if entOp c.entry = cPRODUCT then x[1]? else y.head?).map (·.shape.2)).getD 0
  [entOp c.entry] ++ x.map (·.fmt) ++ y.map (·.fmt) ++ stages ++ [clog2 m, clog2 n, clog2 k, c.cores.length]

/-- pa of a format in Barku compatibility mode (R420). -/
def barkuPa (f : Nat) : Rat := match pairClass f with | 1 => 1125 / 1000 | 2 => 1 | 3 => 1 | _ => 9 / 10

/-- pm of a core in Barku compatibility mode (R420). -/
def barkuPm : Rat := 4 / 10

/-- pa and pm of R420 for the command at the head of queue `q`: the pair of a product is its first two operands', that of a chained product the first pair's, Q and K (log entry 32). -/
def State.barkuPower (s : State) (q : Nat) (c : Cmd) : Rat × Rat :=
  let f := if entOp c.entry = cPRODUCT ∨ entOp c.entry = cCHAINED then ((s.phaseOpds (s.queue q).part ((s.phaseAddrs c.entry).1.take 1)).head?.map (·.fmt)).getD 0 else 0
  (barkuPa f, barkuPm)

/-- pa and pm of each core of the command at the head of queue `q`: learned in native mode, else of R420. -/
def State.phasePower (s : State) (q : Nat) (c : Cmd) : Rat × Rat :=
  let barku := s.barkuPower q c
  if s.power.mode = 1 then barku
  else match s.power.learn.find? fun e => e.1 == Config.phaseSignature (s.phaseItems q c) with
    | some e => e.2
    | none => barku

/-- A running core: logical number, whether it is of a class-0 set, pa and pm. -/
structure RunCore where
  core : Nat
  c0 : Bool
  pa : Rat
  pm : Rat
  deriving DecidableEq, Repr

/-- The running cores: those that a command holds. -/
def State.runCores (s : State) : List RunCore :=
  let c0 := s.parts.flatMap fun x => if x.admitted then x.c0Set else []
  s.queues.zipIdx.flatMap fun x => match x.1.fifo with
    | [] => []
    | c :: _ => if c.cores.isEmpty then [] else let (pa, pm) := s.phasePower x.2 c; c.cores.map fun l => { core := l, c0 := c0.contains l, pa := pa, pm := pm }

/-- q_G of a group with the budget left, and the budget after it (R414). -/
def groupLimit (ba : Rat) (g : List RunCore) : Nat × Rat :=
  let w := (g.map (·.pa)).sum
  let q : Nat := if w = 0 then 64 else (max 1 (min 64 (64 * ba / w).floor)).toNat
  (q, ba - (q : Rat) / 64 * w)

/-- Set the issue limits of the cores that are present. -/
def State.setLimits (s : State) (f : Nat → PhysCore → Nat) : State :=
  s.setCores (s.cores.map fun c => match c.logical with | some l => { c with q := f l c } | none => c)

/-- The issue limits of a window by R414 or R422; a core that no command holds starts again from 0, so that its draw rises by 8/64 in a window (R415; log entry 112). -/
def State.limitCores (s : State) (run : List RunCore) (pstatic est : Rat) : State :=
  let p := s.power
  let (relW, absW, rel, abs) := s.bounds
  let tgt := (p.effCap - abs) / (1 + rel)
  let pk := (1300 - absW) / (1 + relW)
  if p.mode = 2 then
    let q := qRep p.effCap
    s.setLimits fun l c => if run.any fun r => r.core == l then min q (min c.qT (c.q + 8)) else 0
  else
    let i := max (-100) (min 100 (p.integral + (tgt - meanOf p.wins) / 64))
    let ba := tgt - pstatic - (run.map (·.pm)).sum + i
    let (q0, ba) := groupLimit ba (run.filter (·.c0))
    let (q1, _) := groupLimit ba (run.filter fun r => !r.c0)
    (s.modPower fun p => { p with integral := i }).setLimits fun l c =>
      match run.find? fun r => r.core == l with
      | none => 0
      | some r => if pk < est then max 1 (c.q - 16) else min (if r.c0 then q0 else q1) (min c.qT (c.q + 8))

/-- The repeatability bound is broken: event 0x0914 at most once per second (R422). -/
def State.repeatBroken (s : State) : State :=
  if s.power.mode = 2 then ((s.modPower fun p => { p with repeatOk := false }).pwrEvent 5).raiseLimited 0x0914 0x0914 1000000 none else s

/-- The fields of PWR_ISSUE over the last 1 ms (R432). -/
def Power.issue (p : Power) : Power :=
  let h := p.qHist.filter fun x => x.2.2.1 != 0
  let n := (h.map (·.2.2.1)).sum
  { p with
    qMin := h.foldl (fun a x => min a x.1) 64
    qMean := if n = 0 then 64 else (h.map (·.2.1)).sum / n
    qC0 := h.foldl (fun a x => min a x.2.2.2) 64 }

/-- The power of a window's events in W: each count with the energy of one event, over 4 µs (R410). -/
def eventPower (l : List EventCount) : Rat := (l.map fun e => Config.eventWeight e.kind e.core * (e.n : Rat)).sum / 4

/-- POWER_WINDOW (R410, R414, R416, R418, R422): the estimate of a 4 µs window, the issue limits, and the clocks of the mode in force. -/
def execPowerWindow (events : List EventCount) (pstatic : PowerCond) (s : State) : Result :=
  let fixed := Config.staticPower pstatic
  let est := s.power.g * (fixed + eventPower events)
  let s := s.modPower fun p => { p with wins := (est :: p.wins).take 250, peak := max p.peak est, secSum := p.secSum + est, secWins := p.secWins + 1 }
  let run := s.runCores
  let s := (s.limitCores run fixed est).setClocks
  let s := if s.power.cutPending then
      (s.setLimits fun _ c => min c.q (qRep s.power.effCap)).modPower fun p => { p with cutPending := false }
    else s
  let ls := run.map (·.core)
  let on : List (Nat × Nat) := s.cores.filterMap fun c => match c.logical with | some l => if ls.contains l then some (l, c.q) else none | none => none
  let c0 := (run.filter (·.c0)).map (·.core)
  let s := s.modPower fun p => { p with
    qHist := ((on.foldl (fun a x => min a x.2) 64, (on.map (·.2)).sum, on.length, on.foldl (fun a x => if c0.contains x.1 then min a x.2 else a) 64) :: p.qHist).take 250 }
  let s := s.modPower Power.issue
  let hot := s.cores.any fun c => match c.logical with | some l => ls.contains l && decide (c.qT < qRep s.power.effCap) | none => false
  .next (if hot || decide (3 ≤ s.power.limiter) then s.repeatBroken else s)

/-- CORRECTION_UPDATE (R412, R458): g follows the ratio of Fuelagrim's mean over its last second to the mean estimate of that second; each second corrects once. -/
def execCorrectionUpdate (_meter _est : Unit) (s : State) : Result :=
  match s.power.second with
  | none => .next s
  | some (meter, est) =>
    let s := s.modPower fun p => { p with second := none }
    if s.meter.fault then .next s
    else
      let r := if est = 0 then Config.gainRatio meter else meter / est
      let d := if r < 1 then 1 - r else r - 1
      let g := s.power.g * (1 + (r - 1) / 16)
      let held := max (85 / 100) (min (115 / 100) g)
      let clamp := held == 85 / 100 || held == 115 / 100
      let was := s.power.clamped
      let good := if d < 25 / 10000 then s.power.goodSecs + 1 else 0
      let s := s.modPower fun p => { p with
        g := held, clamped := clamp, goodSecs := good
        locked := if 2 / 100 < d then false else p.locked || decide (16 ≤ good) }
      .next (if clamp && !was then s.pwrRaise 0x0919 else s)

/-- The values that a signature with no entry uses: those of R420 for a running command that has it (log entry 34). -/
def State.firstPower (s : State) (m : BitVec 32 × Rat × Rat) : Rat × Rat :=
  ((s.queues.zipIdx.filterMap fun x => match x.1.fifo with
    | [] => none
    | c :: _ => if c.cores.isEmpty || Config.phaseSignature (s.phaseItems x.2 c) != m.1 then none else some (s.barkuPower x.2 c)).head?).getD m.2

/-- One value moves by an eighth of its difference (R419). -/
def learnStep (value measured : Rat) : Rat := value + (measured - value) / 8

/-- An update of one entry of the learning table; `first`: what a signature with no entry has used until now (R419). -/
def learnOne (first : BitVec 32 × Rat × Rat → Rat × Rat) (l : List (BitVec 32 × Rat × Rat)) (m : BitVec 32 × Rat × Rat) : List (BitVec 32 × Rat × Rat) :=
  let v := match l.find? fun e => e.1 == m.1 with | some e => e.2 | none => first m
  ((m.1, learnStep v.1 m.2.1, learnStep v.2 m.2.2) :: l.filter fun e => e.1 != m.1).take 512

/-- LEARNING_UPDATE (R419). -/
def execLearningUpdate (m : List (BitVec 32 × Rat × Rat)) (s : State) : Result :=
  .next (s.modPower fun p => { p with learn := m.foldl (learnOne s.firstPower) p.learn })

/-! Droop (R423). -/

/-- C-die of a physical core (R23). -/
def cdieOf (phys : Nat) : Nat := phys / 72

/-- The droop cut of a C-die's cores. -/
def State.setDroop (s : State) (cdie : Nat) (f : PhysCore → Option Nat) : State :=
  s.setCores (s.cores.zipIdx.map fun x => if cdieOf x.2 = cdie then { x.1 with droop := f x.1 } else x.1)

/-- DROOP_TRIP (R423 steps 1 and 2): from then on no core of the rail issues, whatever of an earlier recovery was under way. -/
def execDroopTrip (cdie : Fin 12) (s : State) : Result :=
  let s := (s.setDroop cdie.val fun _ => some 0).modPower fun p => { p with droops := sat32 p.droops 1 }
  .next ((s.pwrEvent 1).raiseLimited 0x0910 0x0910 1000000 none).repeatBroken

/-- DROOP_RECOVERY (R423 steps 3 and 4): the stopped cores issue again at min(16, q); the limit then rises as time passes (step 5). -/
def execDroopRecovery (cdie : Fin 12) (s : State) : Result :=
  .next (s.setDroop cdie.val fun c => if c.droop = some 0 then (if c.q ≤ 16 then none else some 16) else c.droop)

/-! Thermal limits (R425 to R428). -/

/-- Throttle threshold of an island in °C (R425). -/
def throttleAt : ThermIsland → Int
  | .hbm _ => 95 | .stage _ => 115 | .engine _ => 85 | _ => 100

/-- Class of an island in PWR_THERM, and its number (R432). -/
def thermClass : ThermIsland → Nat × Nat
  | .core p => (0, p.val) | .bdie b _ => (1, b.val) | .hdie _ => (2, 0) | .hbm x => (3, x.val) | .stage n => (4, n.val) | .engine e => (5, e.val)

/-- The reading of an island reaches the module: that of a power stage needs its segment and its device (R499). -/
def State.thermSeen (s : State) (i : ThermIsland) : Bool :=
  match i with
  | .stage n => !s.steward.trunk && !s.steward.isolated.getLsbD 0 && !s.steward.absent.getLsbD n.val
  | _ => true

/-- The island of PWR_THERM: the least margin to its threshold, the first of equals by class and number. -/
def hottest : List (ThermIsland × Int) → Option (ThermIsland × Int)
  | [] => none
  | x :: r =>
    match hottest r with
    | none => some x
    | some y =>
      let mx := throttleAt x.1 - x.2
      let my := throttleAt y.1 - y.2
      if mx < my then some x
      else if my < mx then some y
      else if (thermClass x.1).1 < (thermClass y.1).1 ∨ ((thermClass x.1).1 = (thermClass y.1).1 ∧ (thermClass x.1).2 ≤ (thermClass y.1).2) then some x else some y

/-- Take in temperatures and refresh PWR_THERM (R425, R432). -/
def State.readTemps (s : State) (t : List (ThermIsland × Int)) : State :=
  let t := t.filter fun x => s.thermSeen x.1
  let all := t ++ s.power.temps.filter fun y => !(t.any fun x => x.1 == y.1)
  let s := s.modPower fun p => { p with temps := all }
  match hottest (all.filter fun x => s.thermSeen x.1) with
  | none => s
  | some (i, c) => s.modPower fun p => { p with
      hotC := c, hotClass := (thermClass i).1, hotIndex := (thermClass i).2, hotMargin := min 255 (throttleAt i - c).toNat }

/-- SENSOR_READ (R425). -/
def execSensorRead (t : List (ThermIsland × Int)) (s : State) : Result := .next (s.readTemps t)

/-- The ceiling of physical core `n` follows an island (R425). -/
def namesCore (i : ThermIsland) (n : Nat) : Bool :=
  match i with
  | .core p => p.val == n
  | .bdie b _ => bdieOf n == b.val
  | .hbm x => bdieOf n == x.val / 2
  | .engine _ => false
  | _ => true

/-- qT of physical core `n` after one more millisecond (R426). -/
def nextCeiling (temps : List (ThermIsland × Int)) (n qT : Nat) : Nat :=
  let mine := temps.filter fun x => namesCore x.1 n
  if mine.any fun x => decide (throttleAt x.1 < x.2) then max 1 (qT - 4)
  else if mine.all fun x => decide (x.2 + 3 ≤ throttleAt x.1) then min 64 (qT + 1)
  else qT

/-- THROTTLE_TICK (R426): 1 ms has passed. -/
def execThrottleTick (s : State) : Result :=
  let was := s.cores.any fun c => decide (c.qT < 64)
  let temps := s.power.temps.filter fun x => throttleAt x.1 - 3 < x.2
  let fell := s.cores.zipIdx.any fun x => x.1.qT == 64 && decide (nextCeiling temps x.2 x.1.qT < 64)
  let s := if temps.isEmpty && !was then s else s.setCores (s.cores.zipIdx.map fun x => { x.1 with qT := nextCeiling temps x.2 x.1.qT })
  let now := s.cores.any fun c => decide (c.qT < 64)
  let s := if fell then s.pwrEvent 2 else s
  let s := if was then s.modPower fun p => { p with throttleUs := sat32 p.throttleUs 1000 } else s
  .next (if now || was then (if s.tooSoon 0x0911 1000000 then s else s.wakeNow).raiseLimited 0x0911 0x0911 1000000 none else s)

/-- Trip threshold of an island (R425). -/
def tripAt (i : ThermIsland) : Int := throttleAt i + 10

/-- What the rails lose when they are turned off: commands, partitions, host state and every register go back to reset; flash, tag, Fuelagrim and pins stay (R43, R45). -/
def State.railsOff (s : State) (phase : RunPhase) : State :=
  let r := State.reset
  { r with
    pending := s.pending, nowUs := s.nowUs, fresh := s.fresh, phase := phase, pins := { s.pins with ready := false }, flash := s.flash, tag := s.tag
    meter := s.meter, out := s.out, mem := { r.mem with hostMem := s.mem.hostMem }, sec := { r.sec with debugAllow := s.sec.debugAllow, keys := s.sec.keys }, inv := { r.inv with serial := s.inv.serial, stepping := s.inv.stepping }
    fabric := { r.fabric with guestFitted := s.fabric.guestFitted } }

/-- The thermal shutdown of R427: the fault log is written, and the rails go off. -/
def State.thermalShutdown (s : State) : State :=
  let s := s.raise 0x0916
  (State.putLogs s.flash.logPend.length s).railsOff .shutdown

/-- Running commands end with a status, to be run again (R427 step 3). -/
def State.endRunning (s : State) (status : Nat) : State :=
  (List.range 64).foldl (fun s q => match s.head? q with
    | some c => if c.phase == .started || c.phase == .staged || c.phase == .poolWait then s.endCmd q status else s
    | none => s) s

/-- THERMAL_TRIP (R427). -/
def execThermalTrip (i : ThermIsland) (celsius : Int) (s : State) : Result :=
  let engine := (thermClass i).1 == 5
  if s.phase == .off || s.phase == .shutdown || engine || decide (celsius < tripAt i) then .next s
  else
    let s := s.wakeNow.readTemps [(i, celsius)]
    let trips := s.recent 600000000 s.power.trips
    let s := (s.modPower fun p => { p with trips := trips, tripped := true }).pwrEvent 3
    let s := s.endRunning 0x0990
    if 3 ≤ trips.length ∨ ((thermClass i).1 = 4 ∧ 130 ≤ celsius) then .next s.thermalShutdown else .next s.settle

/-- TRIP_RECOVERY (R427 steps 4 and 5): every island is 10 °C below its throttle threshold. -/
def execTripRecovery (s : State) : Result :=
  if s.power.tripped && s.power.temps.all fun x => decide (x.2 + 10 ≤ throttleAt x.1) then
    let fell := s.cores.any fun c => c.qT == 64
    let s := (s.modPower fun p => { p with tripped := false }).setCores (s.cores.map fun c => { c with qT := 32 })
    .next (if fell then s.pwrEvent 2 else s).settle
  else .next s

/-! Idle states (R429 to R431). -/

/-- Cores of a class-0 set. -/
def State.c0Cores (s : State) : List Nat := s.parts.flatMap fun x => if x.admitted then x.c0Set else []

/-- S2_ENTRY (R429): a core that has stood in S1, for no command holds it and none is ready for it, is power-gated. -/
def execS2Entry (core : Fin 864) (s : State) : Result :=
  let c := s.core core.val
  match c.logical with
  | none => .next s
  | some l =>
    if deepest s.power.tolUs < 2 || c.st != .enabled || c.idle != .s1 || c.testing || (s.holder l).isSome then .next s
    else .next (s.modCore core.val fun c => { c with idle := .s2 })

/-- The module counts as idle for S3 and S4 (R430). -/
def State.moduleIdle (s : State) : Bool :=
  s.phase == .run && s.queues.all (fun q => q.fifo.isEmpty) && s.fab.colls.isEmpty && !s.exporting && s.mem.migrations.isEmpty && s.mem.lent.isEmpty &&
    s.parts.all (fun p => p.leases.isEmpty && (!p.admitted || p.c0Cores == 0)) && s.hle.retained.isEmpty

/-- No receive window is open (R429). -/
def State.noWindows (s : State) : Bool := s.parts.all fun p => p.windows.isEmpty

/-- Every core is power-gated. -/
def State.gateCores (s : State) : State := s.setCores (s.cores.map fun c => if c.st = .enabled then { c with idle := .s2 } else c)

/-- S3_ENTRY (R429, R430): S4 when the tolerance allows it and no receive window is open; its lasers idle and its ports are down. -/
def execS3Entry (s : State) : Result :=
  let d := deepest s.power.tolUs
  if !s.moduleIdle || decide (d < 3) || decide (s.power.idle = 4) then .next s
  else if d = 4 ∧ s.noWindows = true then
    let s := (s.portsDown.gateCores).modPower fun p => { p with idle := 4 }
    .next (s.modOptics fun o => { o with lasers := o.lasers.zipIdx.map fun x => if x.1.st = .lit then { x.1 with st := .idle, bias := Config.laserIdle x.2 % 601 } else x.1 })
  else .next (s.gateCores.modPower fun p => { p with idle := 3 })

/-- WAKE (R431). -/
def execWake (s : State) : Result := .next s.wakeNow

/-- A write of PWR_IDLE: states deeper than the new value allows are left, and idle cores enter S1 where it allows that (R429 to R431). -/
def State.writeIdle (s : State) (v : Word) : State :=
  let tol := bits v.toNat 23 0
  let s := s.modPower fun p => { p with tolUs := tol }
  let d := deepest tol
  let s := if s.power.idle = 4 ∧ d = 3 then s.wakeNow.modPower fun p => { p with idle := 3 } else if d < s.power.idle then s.wakeNow else s
  if d < 2 ∧ s.power.idle = 0 then
    s.setCores (s.cores.map fun c => if c.idle = .s2 then { c with idle := if d = 1 then .s1 else .s0 } else if c.idle = .s1 ∧ d = 0 then { c with idle := .s0 } else c)
  else s.restCores (List.range 800)

/-- PWR_IDLE_WRITE (R430): the one BAR0 write that does not wake the module. -/
def execPwrIdleWrite (v : Word) (s : State) : Result := if s.barOpen then .next (s.hostAccess.writeIdle v) else .next s

end Sys2Proof.Machine
end

