-- ==== Sys2Proof/Machine/Security.lean ====
section
/-! DEFINITION. The security mailbox, the peer table, debug, and SPDM attestation (R436 to R452). -/

namespace Sys2Proof.Machine

/-- Replace the security block. -/
def State.modSec (s : State) (f : Sec → Sec) : State := s.setSec (f s.sec)

/-! The mailbox (R441, R450, R451). -/

/-- The request bytes of the mailbox. -/
def State.mboxReq (s : State) : Bytes := s.sec.mbox.take s.sec.reqLen

/-- An operation ends: the response replaces the request in the buffer (R450). -/
def State.mboxEnd (s : State) (status : Nat) (rsp : Bytes) : State :=
  s.modSec fun x => { x with status := status, rspLen := rsp.length, mbox := (rsp ++ x.mbox.drop rsp.length).take 4096 }

/-- A lease with an endpoint is held or granted (R229, R371). -/
def State.leaseWith (s : State) (f : Nat → Bool) : Bool :=
  s.parts.any (fun p => p.leases.any fun l => f l.lender) || s.mem.lent.any (fun l => f l.ep) || s.hle.retained.any fun r => r.2.2.2.any fun l => f l.lender

/-- An open epoch's records go to a storage endpoint: they are requests to it until the epoch ends (R183, R185). -/
def State.storesWith (s : State) (f : Nat → Bool) : Bool :=
  s.parts.any fun p => match p.stream.epoch with | some e => epochDest p.stream.cfg e == 3 && f (cfgStoreEp p.stream.cfg) | none => false

/-- A peer entry is in use: a PFT request to or from the endpoint is unacknowledged, or a lease with it is held or granted (R441). -/
def State.peerUsed (s : State) (f : Nat → Bool) : Bool :=
  s.fab.flows.any (fun w => f w.ep && (!w.unacked.isEmpty || !w.unsent.isEmpty || w.sinceAck != 0)) || s.storesWith f || s.leaseWith f

/-- Peer entries that the table holds (R440). -/
abbrev maxPeers : Nat := 8192

/-- The root digests that a peer's chain may end in: the Draique root of the boot ROM, and the SEC_ROOT slots that are occupied (R437, R440, R452). -/
def State.peerRoots (s : State) : List Bytes :=
  let slot : Nat → List Word := fun k => (s.sec.roots.drop (12 * k)).take 12
  s.sec.keys.vendorRoots.take 1 ++ (((List.range 4).map slot).filter fun l => l.any (· != 0)).map fun l => l.flatMap fun w => leBytes 4 w.toNat

/-- The peer entry that an endpoint's chain gives (R440, R442). -/
def State.peerEntry (s : State) (ep : Nat) (chain : Bytes) : Peer :=
  let key := chainKey (chainCerts chain)
  { ep := ep, pubKey := key, pairKey := pairKey s.sec.keys.identity.toNat s.ownKey key }

/-- PEER_ADD (R440 to R442). -/
def State.peerAdd (s : State) : State :=
  let b := s.mboxReq
  let ep := bits (field b 0 4) 19 0
  let n := field b 4 2
  let chain := b.drop 8
  if b.length < 8 ∨ b.length ≠ s.sec.reqLen ∨ b.length ≠ 8 + n then s.mboxEnd 0x0A01 []
  else if !chainVerifies s.peerRoots (chainCerts chain) then s.mboxEnd 0x0A02 []
  else
    let entry := s.peerEntry ep chain
    let key := entry.pubKey
    match s.sec.peers.find? fun x => x.ep == ep with
    | some x =>
      if x.pubKey = key then s.mboxEnd 0 []
      else if s.peerUsed fun e => e == ep then s.mboxEnd 0x0A06 []
      else (s.modSec fun y => { y with peers := y.peers.map fun z => if z.ep = ep then entry else z }).mboxEnd 0 []
    | none =>
      if maxPeers ≤ s.sec.peers.length then s.mboxEnd 0x0A04 [] else (s.modSec fun y => { y with peers := y.peers ++ [entry] }).mboxEnd 0 []

/-- PEER_REMOVE (R441). -/
def State.peerRemove (s : State) : State :=
  let b := s.mboxReq
  let ep := bits (field b 0 4) 19 0
  if b.length ≠ 4 then s.mboxEnd 0x0A01 []
  else if !s.hasPeer ep then s.mboxEnd 0 []
  else if s.peerUsed fun e => e == ep then s.mboxEnd 0x0A06 []
  else (s.modSec fun y => { y with peers := y.peers.filter fun z => z.ep != ep }).mboxEnd 0 []

/-- PEER_CLEAR (R441). -/
def State.peerClear (s : State) : State :=
  if s.sec.reqLen ≠ 0 then s.mboxEnd 0x0A01 []
  else if s.peerUsed fun _ => true then s.mboxEnd 0x0A06 []
  else (s.modSec fun y => { y with peers := [] }).mboxEnd 0 []

/-- The host-line cache is emptied: dirty lines go to host memory. -/
def State.emptyLines (s : State) : State :=
  let s := s.fabric.lines.foldl (fun s l => match l.dirtyData with | some d => s.hostWrite (64 * l.line) d | none => s) s
  s.setFabric { s.fabric with lines := [] }

/-- DEBUG_OPEN (R451). -/
def State.debugOpen (s : State) : State :=
  if s.sec.reqLen ≠ 0 then s.mboxEnd 0x0A01 []
  else if !s.sec.debugAllow || s.anyPart || s.adm.busy then s.mboxEnd 0x0A05 []
  else
    let s := ((s.setEngines []).setCoreMems []).emptyLines
    ((s.modSec fun y => { y with debugOpen := true, jtag := true }).raise 0x0A11).mboxEnd 0 []

/-- Return a chain; the operation takes no request (R450). -/
def State.chainOut (s : State) (k : Nat) : State := if s.sec.reqLen ≠ 0 then s.mboxEnd 0x0A01 [] else s.mboxEnd 0 (if k = 0 then s.sec.keys.chain else s.sec.keys.meterChain).flatten

/-- OP is written together with GO (R450, R452). -/
def State.mboxGo (s : State) (op : Nat) : State :=
  let s := s.modSec fun x => { x with op := op }
  match op with
  | 1 => s.chainOut 0
  | 2 => s.chainOut 1
  | 3 => s.peerAdd
  | 4 => s.peerRemove
  | 5 => s.peerClear
  | 6 => s.debugOpen
  | _ => s.mboxEnd 0x0A01 []

/-- GET_CHAIN (R450). -/
def execGetChain (s : State) : Result := .next (s.bar0 fun s => s.mboxGo 1)

/-- GET_METER_CHAIN (R450). -/
def execGetMeterChain (s : State) : Result := .next (s.bar0 fun s => s.mboxGo 2)

/-- PEER_ADD (R441). -/
def execPeerAdd (s : State) : Result := .next (s.bar0 fun s => s.mboxGo 3)

/-- PEER_REMOVE (R441). -/
def execPeerRemove (s : State) : Result := .next (s.bar0 fun s => s.mboxGo 4)

/-- PEER_CLEAR (R441). -/
def execPeerClear (s : State) : Result := .next (s.bar0 fun s => s.mboxGo 5)

/-- DEBUG_OPEN (R451). -/
def execDebugOpen (s : State) : Result := .next (s.bar0 fun s => s.mboxGo 6)

/-! SPDM (R446, R447); the layouts are those of DSP0274, as far as they are generally known (log entry 7). -/

/-- ID_DEVICE and ID_ARCH_LEVEL.LEVEL (R3, R6, R496). -/
abbrev idDevice : Nat := 0x7B011F5C
abbrev archLevel : Nat := 1

/-- The bank in use. -/
def State.bankInUse (s : State) : Bank := s.flash.bank s.boot.bank

/-- The section of a KIND in an image (R468, R469). -/
def imageSection (b : Bytes) (kind : Nat) : Option Bytes :=
  ((List.range (field b 14 2)).find? fun k => byteAt b (64 + 16 * k) == kind).map fun k => (b.drop (field b (68 + 16 * k) 4)).take (field b (72 + 16 * k) 4)

/-- The partition layout of measurement 7. -/
def State.layoutBytes (s : State) : Bytes :=
  leBytes 4 s.sec.layouts ++ s.parts.flatMap fun p =>
    leBytes 2 (b2n p.admitted) ++ leBytes 2 p.cores ++ leBytes 2 p.c0Cores ++ leBytes 2 0 ++ leBytes 8 p.queues.toNat

/-- Measurement block `i` (R447); `lanes`: debug-role lanes carry traffic, which nothing decides while debug is open. -/
def State.measurement (s : State) (lanes : Bool) (i : Nat) : Bytes :=
  match i with
  | 1 => Config.romDigest 1
  | 2 => sha384 s.bankInUse.image
  | 3 => sha384 ((imageSection s.bankInUse.image 1).getD [])
  | 4 => Config.romDigest 4
  | 5 => leBytes 1 (3 + 4 * b2n s.sec.debugAllow) ++ leBytes 1 s.flash.revoked.toNat ++ leBytes 2 s.flash.minFw ++ leBytes 12 0
  | 6 => leBytes 4 (b2n s.sec.debugOpen + 2 * b2n s.sec.jtag + 4 * b2n (lanes && s.sec.debugOpen))
  | 7 => s.layoutBytes
  | 8 => leBytes 8 s.inv.serial.toNat ++ leBytes 4 idDevice ++ leBytes 1 s.inv.stepping ++ leBytes 1 archLevel ++ leBytes 2 0
  | _ => []

/-- DMTFSpecMeasurementValueType of a block: bit 7 for a raw value; 0 immutable ROM, 1 mutable firmware, 2 hardware configuration, 3 firmware configuration (log entry 7). -/
def measureType (i : Nat) : Nat := match i with | 1 => 0x00 | 2 => 0x01 | 3 => 0x01 | 4 => 0x00 | 5 => 0x82 | 8 => 0x82 | _ => 0x83

/-- A measurement block in the DMTF form: index, specification, size, value type, value size and value (R447). -/
def State.measureBlock (s : State) (lanes : Bool) (i : Nat) : Bytes :=
  let m := s.measurement lanes i
  leBytes 1 i ++ leBytes 1 1 ++ leBytes 2 (m.length + 3) ++ leBytes 1 (measureType i) ++ leBytes 2 m.length ++ m

/-- All measurement blocks, of one cycle (R447). -/
def State.measureAll (s : State) (lanes : Bool) : Bytes := (List.range 8).flatMap fun k => s.measureBlock lanes (k + 1)

/-- A response code of SPDM. -/
abbrev rVersion : Nat := 0x04
abbrev rCapabilities : Nat := 0x61
abbrev rAlgorithms : Nat := 0x63
abbrev rDigests : Nat := 0x01
abbrev rCertificate : Nat := 0x02
abbrev rChallengeAuth : Nat := 0x03
abbrev rMeasurements : Nat := 0x60
abbrev rError : Nat := 0x7F

/-- A message of SPDM 1.3: version, code, two parameters, and what follows them. -/
def spdmMsg (code p1 p2 : Nat) (body : Bytes) : Bytes := leBytes 1 0x13 ++ leBytes 1 code ++ leBytes 1 p1 ++ leBytes 1 p2 ++ body

/-- A string as ASCII bytes. -/
def ascii (t : String) : Bytes := t.toList.map fun c => BitVec.ofNat 8 c.toNat

/-- The certificate chain of slot 0 with the chain header of SPDM: length, root digest, certificates (R437, R446). -/
def State.spdmChain (s : State) : Bytes :=
  let c := s.sec.keys.chain.flatten
  leBytes 2 (52 + c.length) ++ leBytes 2 0 ++ sha384 (s.sec.keys.chain.headD []) ++ c

/-- The identity key's signature over a transcript, in the form of SPDM 1.3: a prefix, the context right-aligned in 100 bytes, and the digest (R446, R447). -/
def State.spdmSign (s : State) (context : Bytes) (t : Bytes) : Bytes :=
  let v := ascii "dmtf-spdm-v1.3.*"
  let m := v ++ v ++ v ++ v ++ List.replicate (36 - context.length) 0 ++ context ++ sha384 t
  ecdsaSign s.sec.keys.identity.toNat (1 + Config.signNonce 0 m % (n384 - 1)) m

/-- SPDM requests are served: the function answers configuration requests and the module runs; at a raised shed level they are answered with ResponseNotReady (R446, R492). -/
def State.spdm (s : State) (f : State → State) : State :=
  if s.phase != .run || !s.link.cfgOk then s else if s.steward.shed ≠ 0 then s.emit .spdmNotReady else f s

/-- Answer a request of the connection (GET_VERSION to NEGOTIATE_ALGORITHMS), which every later signature covers; other transcripts start anew. -/
def State.spdmVca (s : State) (req rsp : Bytes) : State :=
  (s.modSec fun x => { x with vca := x.vca ++ req ++ rsp, certMsgs := [], measMsgs := [] }).emit (.spdm rsp)

/-- Answer GET_DIGESTS or GET_CERTIFICATE, which the signature of CHALLENGE covers. -/
def State.spdmCert (s : State) (req rsp : Bytes) : State :=
  (s.modSec fun x => { x with certMsgs := x.certMsgs ++ req ++ rsp, measMsgs := [] }).emit (.spdm rsp)

/-- Answer with an error response, invalid request. -/
def State.spdmError (s : State) : State := s.emit (.spdm (spdmMsg rError 1 0 []))

/-- RequesterContext, the last 8 bytes of a request of SPDM 1.3. -/
def reqContext (req : Bytes) : Bytes := (List.replicate 8 0 ++ req).drop req.length

/-- The responder's random nonce, 32 free bytes. -/
def State.drawNonce (s : State) : Bytes × State := ((List.range 32).map (Config.freeByte s.fresh), s.setFresh (s.fresh + 1))

/-- GET_VERSION (R446): version 1.3; it opens a connection. -/
def execGetVersion (req : Bytes) (s : State) : Result :=
  .next (s.spdm fun s => (s.modSec fun x => { x with vca := [] }).spdmVca req (leBytes 1 0x10 ++ leBytes 1 rVersion ++ leBytes 2 0 ++ leBytes 1 0 ++ leBytes 1 1 ++ leBytes 2 0x1300))

/-- GET_CAPABILITIES (R446): CTExponent 14; CERT_CAP, CHAL_CAP, MEAS_CAP with signature. -/
def execGetCapabilities (req : Bytes) (s : State) : Result :=
  .next (s.spdm fun s => s.spdmVca req (spdmMsg rCapabilities 0 0 (leBytes 1 0 ++ leBytes 1 14 ++ leBytes 2 0 ++ leBytes 4 0x16 ++ leBytes 4 (Config.spdmSize 0) ++ leBytes 4 (Config.spdmSize 1))))

/-- NEGOTIATE_ALGORITHMS (R446): DMTF measurements with SHA-384, ECDSA P-384, SHA-384. -/
def execNegotiateAlgorithms (req : Bytes) (s : State) : Result :=
  .next (s.spdm fun s => s.spdmVca req (spdmMsg rAlgorithms 0 0 (leBytes 2 36 ++ leBytes 1 1 ++ leBytes 1 0 ++ leBytes 4 0x04 ++ leBytes 4 0x80 ++ leBytes 4 0x02 ++ leBytes 16 0)))

/-- GET_DIGESTS (R446): slot 0. -/
def execGetDigests (req : Bytes) (s : State) : Result := .next (s.spdm fun s => s.spdmCert req (spdmMsg rDigests 1 1 (sha384 s.spdmChain)))

/-- GET_CERTIFICATE (R437, R446): a portion of the identity chain of slot 0. -/
def execGetCertificate (req : Bytes) (slot : BitVec 4) (offset len : Nat) (s : State) : Result :=
  .next (s.spdm fun s =>
    let rest := s.spdmChain.drop offset
    let part := rest.take len
    if slot ≠ 0 then s.spdmError else s.spdmCert req (spdmMsg rCertificate 0 0 (leBytes 2 part.length ++ leBytes 2 (rest.length - part.length) ++ part)))

/-- CHALLENGE (R446): signed over the connection, the certificate messages and itself; the measurement summary is the digest of all blocks, where the request asks for one. -/
def execChallenge (req : Bytes) (slot : BitVec 4) (_nonce : Bytes) (s : State) : Result :=
  .next (s.spdm fun s =>
    if slot ≠ 0 then s.spdmError
    else
      let (d, s) := s.draw
      let (n, s) := s.drawNonce
      let summary := if byteAt req 3 = 0 then [] else sha384 (s.measureAll (d % 2 == 1))
      let rsp := spdmMsg rChallengeAuth 0 1 (sha384 s.spdmChain ++ n ++ summary ++ leBytes 2 0 ++ reqContext req)
      let sig := s.spdmSign (ascii "responder-challenge_auth signing") (s.sec.vca ++ s.sec.certMsgs ++ req ++ rsp)
      (s.modSec fun x => { x with certMsgs := [], measMsgs := [] }).emit (.spdm (rsp ++ sig)))

/-- GET_MEASUREMENTS (R446, R447): the count, one block, or all blocks taken in the same cycle; a signature covers the connection, the unsigned answers before it, and itself. -/
def execGetMeasurements (req : Bytes) (index : BitVec 8) (signed : Bool) (_nonce : Bytes) (s : State) : Result :=
  .next (s.spdm fun s =>
    let i := index.toNat
    let (d, s) := s.draw
    let (n, s) := s.drawNonce
    let lanes := d % 2 == 1
    let body : Option (Nat × Nat × Bytes) :=
      if i = 0 then some (8, 0, [])
      else if i = 255 then some (0, 8, s.measureAll lanes)
      else if i ≤ 8 then some (0, 1, s.measureBlock lanes i)
      else none
    match body with
    | none => s.spdmError
    | some (count, blocks, rec) =>
      let rsp := spdmMsg rMeasurements count 0 (leBytes 1 blocks ++ leBytes 3 rec.length ++ rec ++ n ++ leBytes 2 0 ++ reqContext req)
      let l := s.sec.measMsgs ++ req ++ rsp
      if signed then (s.modSec fun x => { x with measMsgs := [] }).emit (.spdm (rsp ++ s.spdmSign (ascii "responder-measurements signing") (s.sec.vca ++ l)))
      else (s.modSec fun x => { x with measMsgs := l }).emit (.spdm rsp))

/-! What leaves the package (R438). -/

/-- The protected bytes of what the module sends: a packet sealed as R443 states; an answer to a cellar request, whose data the borrower has encrypted, sealed under the pairwise key; a stream record for the cellar encrypted as T4, and one for a storage endpoint sealed under its pairwise key; anything else is no data of R438. -/
def State.inTransit (s : State) : Out → Option Bytes
  | .pft _ k => some (s.wire k)
  | .cellarAnswer ep n data => some (gcmSeal (s.keyFor ep) (Config.transitNonce n data) [] data)
  | .stream _ 1 r => some ((List.range (ceilDiv r.length 128)).flatMap fun i =>
      xtsEncrypt (beBytes 64 s.sec.keys.memory.toNat) (Config.streamTweak r i) (padTo 128 ((r.drop (128 * i)).take 128)))
  | .stream p 3 r => some (gcmSeal (s.keyFor (cfgStoreEp (s.part p).stream.cfg)) (Config.transitNonce p r) [] r)
  | _ => none

end Sys2Proof.Machine
end

