-- ==== Sys2Proof/Machine/Metering.lean ====
section
/-! DEFINITION. Fuelagrim: energy, work counters, meter records and their copy in the service tag (R453 to R460). -/

namespace Sys2Proof.Machine

/-- Replace the meter. -/
def State.modMeter (s : State) (f : Meter → Meter) : State := s.setMeter (f s.meter)

/-- MACS[p] and BYTES[p] in the units of R454; remainders are carried. -/
def Meter.macsOf (m : Meter) (p : Nat) : Nat := m.macs.getD p 0 / 1024 % 2 ^ 64
def Meter.bytesOf (m : Meter) (p : Nat) : Nat := m.bytes.getD p 0 / 4096 % 2 ^ 64

/-- Mean input power since the previous record in mW (R457); with no second between, a free value (log entry 35). -/
def Meter.meanMw (m : Meter) : Nat := if m.opS = m.lastOpS then Config.meanNoTime (m.energy - m.lastEnergy) % 2 ^ 32 else (m.energy + 2 ^ 64 - m.lastEnergy) % 2 ^ 64 / (m.opS - m.lastOpS)

/-- Bytes 0 to 375 of a meter record (R457). -/
def State.meterBody (s : State) (kind : Nat) (lost : Bool) : Bytes :=
  let m := s.meter
  leBytes 1 1 ++ leBytes 1 0x70 ++ leBytes 2 472 ++
    leBytes 1 (kind + 4 * b2n m.faultRec + 8 * b2n m.overRec + 16 * b2n lost) ++ leBytes 1 m.paramSet ++ leBytes 2 0 ++
    leBytes 8 s.inv.serial.toNat ++ leBytes 8 (m.seq + 1) ++ leBytes 4 m.eventCount ++ leBytes 4 0 ++ leBytes 8 m.opS ++ leBytes 8 m.energy ++
    leBytes 4 m.meanMw ++ leBytes 4 m.overS ++ (if kind = 1 then m.nonce.flatMap fun w => leBytes 4 w.toNat else leBytes 32 0) ++
    ((List.range 16).flatMap fun p => leBytes 8 (m.macsOf p) ++ leBytes 8 (m.bytesOf p)) ++ ((List.range 16).flatMap fun p => leBytes 2 (m.gen.getD p 0))

/-- A meter record with its signature, 472 bytes. -/
def State.meterBytesOf (s : State) (kind : Nat) (lost : Bool) : Bytes :=
  let b := s.meterBody kind lost
  b ++ ecdsaSign s.meter.key.toNat (1 + Config.signNonce 1 b % (n384 - 1)) b

/-- Fuelagrim emits a record (R456). -/
def State.emitRecord (s : State) (kind : Nat) (lost : Bool) : State :=
  let b := s.meterBytesOf kind lost
  s.modMeter fun m => { m with
    record := b, seq := (m.seq + 1) % 2 ^ 64, faultRec := false, overRec := false, lastEnergy := m.energy, lastOpS := m.opS }

/-- Fuelagrim is measuring: its rail is up (R43, R427). -/
def State.metering (s : State) : Bool := s.pins.vin

/-- The module's power block takes in a second's mean input power, with the mean estimate of the same second; a mean above 1.005 × C_eff is an event, unless the self-check failed (R412, R417, R458). -/
def State.powerSecond (s : State) (w : Rat) : State :=
  if s.phase == .off || s.phase == .shutdown then s
  else
    let s := s.modPower fun p => { p with second := some (w, if p.secWins = 0 then 0 else p.secSum / (p.secWins : Nat)), secSum := 0, secWins := 0 }
    if !s.meter.fault && decide (s.power.effCap * 1005 / 1000 < w) then (s.pwrEvent 0).raise 0x0912 else s

/-- FUELAGRIM_SECOND (R412, R417, R453, R455, R457, R458, R460). -/
def execFuelagrimSecond (mj : Nat) (overRange : Bool) (checkOk : Bool) (s : State) : Result :=
  if !s.metering then .next s
  else
    let s := s.modMeter fun m => { m with
      energy := (m.energy + mj) % 2 ^ 64, powerDw := min 65535 (mj / 100), opS := m.opS + 1, overS := m.overS + b2n overRange
      overNow := overRange, overRec := m.overRec || overRange, fault := !checkOk, faultRec := m.faultRec || !checkOk }
    let s := s.modMeter fun m => m.journal false
    .next ((if checkOk || s.phase == .off || s.phase == .shutdown then s else s.raise 0x0A20).powerSecond ((mj : Rat) / 1000))

/-- METER_RECORD (R456): a KIND 0 record goes to the tag as well, or waits for it. -/
def execMeterRecord (s : State) : Result :=
  if !s.metering then .next s
  else
    let s := s.emitRecord 0 false
    let b := s.meter.record
    if s.tagRefuses then .next (s.modMeter fun m => { m with tagPend := some (b, s.nowUs), tagLate := false })
    else .next ((s.modTag fun t => t.put meterArea b).modMeter fun m => { m with tagPend := none, tagLate := false })

/-- METER_TAG_RETRY (R456): every 10 s; after 60 s event 0x0A22 is raised. -/
def execMeterTagRetry (s : State) : Result :=
  match s.meter.tagPend with
  | none => .next s
  | some (b, t) =>
    if !s.tagRefuses then .next ((s.modTag fun x => x.put meterArea b).modMeter fun m => { m with tagPend := none, tagLate := false })
    else if t + 60000000 ≤ s.nowUs ∧ s.meter.tagLate = false then .next ((s.modMeter fun m => { m with tagLate := true }).raise 0x0A22)
    else .next s

/-- A write of MTR_CTRL (R460). -/
def State.writeSign (s : State) (v : Word) : State := if v.getLsbD 0 then s.emitRecord 1 false else s

/-- SIGN (R456). -/
def execSign (v : Word) (s : State) : Result := .next (s.bar0 fun s => s.writeSign v)

/-- PARAMETER_SET_LOAD (R459): a set is appended to one-time memory, up to 15. -/
def execParameterSetLoad (s : State) : Result :=
  if 15 ≤ s.meter.paramSet then .next s
  else .next (s.modMeter fun m => { m with paramSet := m.paramSet + 1, otp := m.otp ++ [Config.paramSet (m.paramSet + 1)], eventCount := (m.eventCount + 1) % 2 ^ 32 })

end Sys2Proof.Machine
end

