-- ==== Sys2Proof/Machine/Flags.lean ====
section
/-! DEFINITION. Status words and flags: what every BAR0 register reads as, computed from the state (R6 to R8, R17 to R19, R33 to R36 and the register tables of every chapter). -/

namespace Sys2Proof.Machine

/-- A register word built from its fields: low bit, high bit, value; reserved bits read 0 (R18). -/
def fieldsWord (l : List (Nat × Nat × Nat)) : Word := BitVec.ofNat 32 ((l.map fun x => x.2.2 % 2 ^ (x.2.1 - x.1 + 1) * 2 ^ x.1).sum)

/-- A one-bit field. -/
def flagBit (k : Nat) (b : Bool) : Nat × Nat × Nat := (k, k, b2n b)

/-- The low and high halves of a 64-bit counter. -/
def loWord (n : Nat) : Word := BitVec.ofNat 32 n
def hiWord (n : Nat) : Word := BitVec.ofNat 32 (n / 2 ^ 32)

/-- A whole number of watts, as an estimate field shows it. -/
def wattField (r : Rat) : Nat := min 2047 r.floor.toNat

/-! The ID block. -/

/-- ID_CORE_INVENTORY (R33). -/
def State.coreInvWord (s : State) : Word := fieldsWord [(0, 9, s.inv.enabled), (16, 22, s.inv.spares.sum), (24, 29, s.inv.retired), (30, 31, s.inv.guest)]

/-- ID_CORE_SPARES (R34). -/
def State.coreSparesWord (s : State) : Word := fieldsWord ((List.range 4).map fun b => (8 * b, 8 * b + 7, s.inv.spares.getD b 0))

/-- ID_MEM_INVENTORY (R35). -/
def State.memInvWord (s : State) : Word := fieldsWord [(0, 9, s.inv.hbmPc), (16, 27, s.inv.vatSpares)]

/-- ID_OPTICS_INVENTORY (R36). -/
def State.optInvWord (s : State) : Word :=
  fieldsWord [(0, 3, s.inv.laserActive), (4, 5, s.inv.laserSpares), (8, 11, s.inv.txSpares), (12, 15, s.inv.rxSpares), (16, 31, s.inv.degraded.toNat)]

/-- ID_LINK_STATUS (R356). -/
def State.linkWord (s : State) : Word :=
  let l := s.link
  fieldsWord [(0, 2, l.speed), (3, 7, l.width), (8, 9, l.flit), flagBit 10 l.cache, (16, 31, l.retrains)]

/-- ID_HOST_STATUS (R356). -/
def State.hostStatusWord (s : State) : Word :=
  let l := s.link
  fieldsWord [flagBit 0 (s.phase == .warm), flagBit 1 l.hostLoss, flagBit 2 l.flushAbandoned, flagBit 3 l.warmDone, (8, 10, l.lastCause), (16, 31, l.hostLosses)]

/-- ID_HLE_STATUS (R372). -/
def State.hleStatusWord (s : State) : Word :=
  fieldsWord [(0, 15, (s.hle.retained.foldl (fun b r => b ||| (1#16 <<< r.1)) (0#16)).toNat), (16, 31, s.hle.lost.toNat)]

/-- ID_FAB_ROLES_l (R405). -/
def DieLink.rolesWord (d : DieLink) : Word := fieldsWord [(0, 8, d.mem), (9, 14, d.coh), (15, 18, d.int), (19, 22, d.dbg)]

/-- ID_FAB_LINK_l (R406). -/
def DieLink.linkWord (d : DieLink) : Word :=
  fieldsWord [(0, 6, d.spare0), (7, 13, d.spare1), (14, 21, d.lost0), (22, 29, d.lost1), flagBit 31 (d.lost0 != 0 || d.lost1 != 0)]

/-- ID_RIND_STATUS (R408). -/
def State.rindWord (s : State) : Word :=
  fieldsWord [(0, 4, (s.fabric.wins.filter fun w => w.kind == 1 || w.kind == 2).length), (8, 15, s.fabric.violations), (16, 18, s.fabric.fenceCause)]

/-- ID_BOOT_STATUS (R488). -/
def State.bootWord (s : State) : Word :=
  let b := s.boot
  fieldsWord [(0, 3, b.step), flagBit 4 b.ready, flagBit 5 b.halted, flagBit 6 b.bank, flagBit 7 b.update, (16, 31, b.code)]

/-- Slow-path requests outstanding: those that hold a place of the 32, and an admission that waits for its lenders (R491, R493; log entry 90). -/
def State.slowOut (s : State) : Nat := min 32 (s.fab.asking.toList.length + ((List.range 16).map (s.heldCredit 3)).sum)

/-- ID_STEWARD_LOAD (R493). -/
def State.loadWord (s : State) : Word :=
  fieldsWord [(0, 6, s.steward.load), (8, 9, s.steward.shed), (10, 15, s.slowOut), (16, 31, s.steward.slowWait)]

/-- SB_SENSOR_STATUS and ID_SENSOR_STATUS (R496). -/
def State.sensorWord (s : State) : Word :=
  let w := s.steward
  fieldsWord [(0, 2, w.isolated.toNat), flagBit 3 w.trunk, flagBit 4 s.sensorDegraded, (5, 15, w.absent.toNat), (16, 23, w.arbLost), (24, 31, w.clears)]

/-- The ID block by offset. -/
def State.readId (s : State) (o : Nat) : Word :=
  let h := s.hle
  if o = 0 then BitVec.ofNat 32 idDevice
  else if o = 4 then fieldsWord [(0, 7, s.inv.stepping)]
  else if o = 8 then fieldsWord [(0, 7, archLevel)]
  else if o = 0xC then fieldsWord [(0, 7, s.link.hostLevel)]
  else if o = 0x10 then fieldsWord [(0, 7, s.link.effLevel)]
  else if o = 0x18 then loWord s.inv.serial.toNat
  else if o = 0x1C then hiWord s.inv.serial.toNat
  else if o = 0x100 then s.coreInvWord
  else if o = 0x104 then s.coreSparesWord
  else if o = 0x108 then s.memInvWord
  else if o = 0x10C then s.optInvWord
  else if o = 0x110 then fieldsWord [flagBit 0 s.inv.stageListEn, flagBit 1 s.inv.tileProgEn]
  else if o = 0x200 then s.linkWord
  else if o = 0x204 then fieldsWord [(8, 15, s.link.flushS)]
  else if o = 0x208 then s.hostStatusWord
  else if o = 0x210 then loWord s.link.landDiscard
  else if o = 0x220 then s.hleStatusWord
  else if o = 0x224 then h.addrLo
  else if o = 0x228 then fieldsWord [(0, 19, h.addrHi.toNat)]
  else if o = 0x22C then loWord h.size
  else if o = 0x230 then fieldsWord [(0, 3, h.part), (16, 31, h.status)]
  else if o = 0x234 then loWord (s.hlePages h.part)
  else if 0x300 ≤ o ∧ o < 0x330 then (if o % 8 = 0 then (s.dieLink ((o - 0x300) / 8)).rolesWord else (s.dieLink ((o - 0x300) / 8)).linkWord)
  else if o = 0x330 then loWord s.fabric.replays
  else if o = 0x334 then loWord s.fabric.relocks
  else if o = 0x338 then loWord s.fabric.held
  else if o = 0x33C then loWord s.fabric.returned
  else if o = 0x340 then s.rindWord
  else if o = 0x400 then s.bootWord
  else if o = 0x404 then loWord s.boot.gen
  else if o = 0x408 then loWord s.boot.ms
  else if o = 0x500 then s.loadWord
  else if o = 0x504 then loWord s.steward.shedMs
  else if o = 0x508 then s.sensorWord
  else 0

/-! Queues and partitions. -/

/-- The counters of a page (R277); `part`: a partition page. -/
def Acct.read (a : Acct) (part : Bool) (o : Nat) : Word :=
  if 0x100 ≤ o ∧ o < 0x140 then loWord (a.hist.getD ((o - 0x100) / 4) 0)
  else if o = 0x140 then loWord a.waitSum
  else if o = 0x144 then hiWord a.waitSum
  else if o = 0x148 then loWord a.preempt
  else if o = 0x14C then loWord a.broken
  else if part ∧ 0x160 ≤ o ∧ o < 0x170 then loWord (a.resWait.getD ((o - 0x160) / 4) 0)
  else if part ∧ o = 0x170 then loWord a.c0Outside
  else 0

/-- HQ_CFG (R253). -/
def Queue.cfgWord (q : Queue) : Word :=
  fieldsWord [(0, 3, q.part), (4, 5, q.cls), flagBit 6 q.enable, flagBit 7 q.assigned, (8, 11, q.retryMax), (12, 15, q.log2), (16, 23, q.qweight)]

/-- A command of the queue is running (R253): its oldest one has started and waits neither for its record nor for ring room. -/
def Queue.running (q : Queue) : Bool :=
  match q.fifo with | [] => false | c :: _ => c.phase == .started || c.phase == .staged || c.phase == .poolWait

/-- A queue's page by offset (R253). -/
def Queue.read (q : Queue) (o : Nat) : Word :=
  if o = 0 then q.cfgWord
  else if o = 8 then q.sqLo
  else if o = 0xC then q.sqHi
  else if o = 0x10 then q.cqLo
  else if o = 0x14 then q.cqHi
  else if o = 0x20 then fieldsWord [(0, 15, q.sqTail)]
  else if o = 0x24 then fieldsWord [(0, 15, q.sqHead)]
  else if o = 0x28 then fieldsWord [(0, 15, q.cqHead)]
  else if o = 0x2C then fieldsWord [(0, 15, q.cqTail)]
  else if o = 0x30 then loWord q.seq
  else if o = 0x34 then fieldsWord [(0, 15, q.killIndex), flagBit 18 q.killDone, flagBit 19 q.tooLate]
  else if o = 0x38 then fieldsWord [flagBit 0 q.running, flagBit 1 q.ringError, flagBit 2 q.cqFull, (16, 31, q.lastError)]
  else q.acct.read false o

/-- Cores of a partition that are absent or under in-field test (PART_CFG.MISSING, R252). -/
def State.missingCores (s : State) (p : Nat) : Nat :=
  let held := s.cores.filterMap fun c => if c.testing then none else c.logical
  ((s.part p).coreSet.filter fun l => !held.contains l).length

/-- The tiers in order. -/
def allTiers : List Tier := [.t1, .t2, .t3, .t4]

/-- A partition's page by offset (R193 to R198, R236 to R239, R252, R317, R366). -/
def State.readPart (s : State) (p o : Nat) : Word :=
  let x := s.part p
  let st := x.stream
  if o = 0 then fieldsWord [(0, 9, x.cores), (10, 19, x.c0Cores), (20, 29, s.missingCores p), flagBit 31 x.admitted]
  else if o = 4 then fieldsWord [(0, 19, x.tokens)]
  else if 0x400 ≤ o ∧ o < 0x410 then fieldsWord [(0, 23, x.res.getD ((o - 0x400) / 4) 0)]
  else if 0x410 ≤ o ∧ o < 0x420 then fieldsWord [(0, 23, s.useOf p (allTiers.getD ((o - 0x410) / 4) .t1))]
  else if o = 0x420 then fieldsWord [(0, 11, x.stageT1), (16, 27, x.stageT2)]
  else if o = 0x424 then fieldsWord [(0, 9, x.t3Ms), (16, 25, x.t4Ms)]
  else if o = 0x428 then
    fieldsWord [flagBit 0 x.late, flagBit 1 x.failed, flagBit 2 x.lostBit, flagBit 3 x.reclaimBit, flagBit 4 (x.leases.any fun l => l.reclaim.isSome), (16, 31, s.lostCount p)]
  else if o = 0x800 then
    fieldsWord [flagBit 0 (!st.cfg.isEmpty && cfgDest st.cfg != 0), flagBit 1 st.epoch.isSome, flagBit 2 st.poolWait, flagBit 3 st.destLost, (16, 31, st.folded)]
  else if o = 0x804 then loWord st.last
  else if o = 0x808 then loWord st.head
  else if o = 0x80C then loWord st.tail
  else if o = 0x810 then fieldsWord [flagBit 0 st.diverged, flagBit 1 st.timeout, flagBit 2 st.held, (8, 15, st.mismatch), (16, 23, st.missing)]
  else if o = 0x814 then loWord st.dStep
  else if 0x818 ≤ o ∧ o < 0x838 then loWord (field st.digest (o - 0x818) 4)
  else if o = 0xA00 then fieldsWord ((List.range 5).map (fun k => (3 * k, 3 * k + 2, x.axes.getD k 7)) ++ [(16, 31, x.axesStatus)])
  else if o = 0xA04 then fieldsWord [(0, 15, x.fabMs)]
  else if o = 0xA10 then x.winLo
  else if o = 0xA14 then x.winHi
  else if o = 0xA18 then fieldsWord [(4, 15, x.winNo), (16, 31, x.winStatus)]
  else if o = 0xC00 then x.landLo
  else if o = 0xC04 then x.landHi
  else if o = 0xC08 then fieldsWord [flagBit 2 x.bound, (4, 9, x.landQueue), (16, 31, x.landStatus)]
  else if o = 0xC0C then fieldsWord [(0, 23, x.landTail)]
  else if o = 0xC10 then fieldsWord [(0, 23, x.landHead)]
  else if o = 0xC14 then loWord x.landDropped
  else if o = 0xC18 then fieldsWord [(0, 15, x.landReq), flagBit 16 x.landFilter]
  else x.acct.read true o

/-- The partition block's module-wide registers by offset (R240 to R243, R248, R275). -/
def State.readPartAll (s : State) (o : Nat) : Word :=
  if o < 0x10 then fieldsWord [(0, 23, s.capOf (allTiers.getD (o / 4) .t1))]
  else if o < 0x20 then fieldsWord [(0, 23, s.freeOf (allTiers.getD ((o - 0x10) / 4) .t1))]
  else if o = 0x20 then s.mem.t3Lo
  else if o = 0x24 then s.mem.t3Hi
  else if o = 0x28 then fieldsWord [(16, 31, s.mem.t3Status)]
  else if o = 0x2C then fieldsWord [(0, 23, s.mem.lendMax), (24, 31, s.mem.notice)]
  else if o = 0x30 then fieldsWord [(0, 23, s.lentSlabs), (24, 31, s.mem.lent.length)]
  else if o = 0x34 then fieldsWord [(0, 15, s.mem.cellarRate)]
  else if 0x40 ≤ o ∧ o < 0x60 then s.mem.lenders.getD ((o - 0x40) / 4) 0
  else if o = 0x100 then s.adm.addrLo
  else if o = 0x104 then s.adm.addrHi
  else if o = 0x108 then fieldsWord [flagBit 3 s.adm.busy, (4, 7, s.adm.part), (16, 31, s.adm.status)]
  else if o = 0x110 then fieldsWord [(0, 5, s.adm.carve.getD 0 0), (8, 13, s.adm.carve.getD 1 0), (16, 21, s.adm.carve.getD 2 0)]
  else 0

/-! The power block. -/

/-- PWR_CORE_n (R434). -/
def State.coreWord (s : State) (l : Nat) : Word :=
  match s.physOf l with
  | none => 0
  | some ph => let c := s.core ph; fieldsWord [(0, 10, c.fused), (12, 15, c.drift), (16, 26, c.fop), flagBit 31 true]

/-- PWR_THERM (R432). -/
def State.thermWord (s : State) : Word :=
  let p := s.power
  fieldsWord [(0, 7, unsigned8 p.hotC), (8, 10, p.hotClass), (11, 20, p.hotIndex), (24, 31, p.hotMargin)]

/-- The power block by offset (R432 to R434). -/
def State.readPwr (s : State) (o : Nat) : Word :=
  let p := s.power
  if o = 0 then fieldsWord [(0, 10, p.capW)]
  else if o = 4 then fieldsWord [(0, 1, p.mode), (8, 15, p.learnMs), (16, 23, p.learnEff)]
  else if o = 8 then fieldsWord [(0, 10, wattField p.effCap), (12, 14, p.limiter), flagBit 15 s.pins.brake, flagBit 16 p.repeatOk]
  else if o = 0xC then fieldsWord [(0, 10, wattField (meanOf p.wins)), (16, 26, wattField (p.wins.headD 0))]
  else if o = 0x10 then fieldsWord [(0, 10, wattField p.peak)]
  else if o = 0x14 then fieldsWord [(0, 15, (p.g * 16384).floor.toNat), flagBit 16 p.locked, flagBit 17 p.clamped]
  else if o = 0x18 then fieldsWord [(0, 6, p.qMin), (8, 14, p.qMean), (16, 22, p.qC0)]
  else if o = 0x1C then fieldsWord [(0, 23, p.tolUs), (24, 26, p.idle), (28, 30, deepest p.tolUs)]
  else if o = 0x20 then s.thermWord
  else if o = 0x24 then fieldsWord [(0, 7, p.event.toNat)]
  else if o = 0x28 then loWord p.droops
  else if o = 0x2C then loWord p.throttleUs
  else if 0x1000 ≤ o ∧ o < 0x1000 + 4 * 800 then s.coreWord ((o - 0x1000) / 4)
  else 0

/-! The error block. -/

/-- ERR_STATUS (R525). -/
def State.errStatusWord (s : State) : Word :=
  let e := s.err
  fieldsWord [flagBit 0 (e.head != e.tail), flagBit 1 e.overflow, flagBit 2 (s.phase == .stopped), flagBit 3 e.autoWarm, (4, 7, e.autoWarms), (16, 31, e.lastCode)]

/-- The error block by offset (R525). -/
def State.readErr (s : State) (o : Nat) : Word :=
  let e := s.err
  if o = 0 then s.errStatusWord
  else if o = 4 then fieldsWord [(0, 5, e.irqEn.toNat), flagBit 6 e.autoWarmEn]
  else if o = 8 then fieldsWord [(0, 6, e.head)]
  else if o = 0xC then fieldsWord [(0, 6, e.tail)]
  else if o = 0x10 then loWord e.dropped
  else if o = 0x14 then loWord e.suppressed
  else if o = 0x18 then loWord e.seq
  else if 0x20 ≤ o ∧ o < 0x34 then loWord (e.corr.getD ((o - 0x20) / 4) 0)
  else if o = 0x34 then loWord e.uncorr
  else if o = 0x40 then fieldsWord [(0, 7, e.intervalH), (8, 11, e.par), (12, 21, e.core)]
  else if o = 0x44 then fieldsWord [(0, 9, e.lastCore), flagBit 10 e.lastFail, (11, 15, (s.cores.filter (·.testing)).length), (16, 31, e.tested)]
  else if 0x1000 ≤ o ∧ o < 0x2000 then loWord (field (e.log.getD ((o - 0x1000) / 32) {}).encode ((o - 0x1000) % 32) 4)
  else 0

/-! The ports. -/

/-- PORT_CFG (R344). -/
def Port.cfgWord (p : Port) : Word := fieldsWord [(0, 1, p.mode), flagBit 2 p.adminUp, (3, 4, p.fcMode), flagBit 5 p.tagEn, (16, 31, p.maxFrame)]

/-- PORT_STATUS (R344). -/
def Port.statusWord (p : Port) : Word :=
  fieldsWord [(0, 7, p.subUp.toNat), (8, 9, p.width), flagBit 10 p.isHeld, flagBit 11 (p.shares.any (·.paused)), flagBit 12 p.stalled, (16, 23, p.laneFault.toNat),
    (24, 27, p.txSpare), (28, 31, p.rxSpare)]

/-- PORT_EVENT (R344). -/
def Port.eventWord (p : Port) : Word :=
  fieldsWord [flagBit 0 p.evLink, flagBit 1 p.evLane, flagBit 2 p.evSpared, flagBit 3 p.evHalved, flagBit 4 p.evStall, (16, 31, p.lastError)]

/-- A port's page by offset (R344, R345). -/
def Port.read (p : Port) (o : Nat) : Word :=
  if o = 0 then p.cfgWord
  else if o = 4 then fieldsWord [(0, 11, p.vid), (12, 14, p.ctrlPcp)]
  else if o = 8 then fieldsWord ((List.range 4).map (fun k => (3 * k, 3 * k + 2, p.pcp.getD k 0)) ++ [(16, 23, p.pfcEn.toNat)])
  else if o = 0xC then fieldsWord [(0, 5, p.high), (8, 13, p.low), (16, 31, p.quanta)]
  else if o = 0x10 then fieldsWord [(0, 5, p.c0Share), (8, 11, p.drr.getD 0 0), (12, 15, p.drr.getD 1 0), (16, 19, p.drr.getD 2 0), (20, 27, p.stallMs)]
  else if o = 0x14 then p.hopLo
  else if o = 0x18 then p.hopHi
  else if o = 0x20 then p.statusWord
  else if o = 0x24 then p.eventWord
  else if 0x100 ≤ o ∧ o < 0x120 then
    (if o % 8 = 0 then loWord (p.cnt.getD ((o - 0x100) / 8) 0) else hiWord (p.cnt.getD ((o - 0x100) / 8) 0))
  else if 0x120 ≤ o ∧ o < 0x144 then loWord (p.cnt.getD (4 + (o - 0x120) / 4) 0)
  else 0

/-- Codes of STATE (R346). -/
def laserCode : LaserState → Nat
  | .dark => 0 | .ramping => 1 | .lit => 2 | .idle => 3 | .paused => 4 | .failed => 5

/-- PORT_LASER_n (R346). -/
def Laser.word (l : Laser) (t c : Nat) : Word := fieldsWord [(0, 2, laserCode l.st), (4, 7, l.engine.getD 15), (8, 17, l.present t c), (20, 27, l.below t c)]

/-- The port block's module-wide registers by offset from 0x0048_0000 (R316, R346). -/
def State.readFab (s : State) (o : Nat) : Word :=
  let b := s.fab
  let x := s.optics
  if o = 0 then b.axis
  else if o = 4 then fieldsWord [(0, 19, b.ep), flagBit 31 b.valid]
  else if o = 8 then fieldsWord [(0, 1, b.encap), flagBit 2 b.payload, (8, 15, b.site), (16, 31, b.session)]
  else if o = 0xC then fieldsWord [(0, 15, b.etype), (16, 31, b.udpPort)]
  else if o = 0x10 then fieldsWord [(0, 7, b.net)]
  else if o = 0x14 then b.ip6Lo
  else if o = 0x18 then b.ip6Hi
  else if o = 0x1C then fieldsWord [(0, 11, b.rtoUs), (16, 27, b.pathMs)]
  else if o = 0x20 then loWord b.dup
  else if o = 0x24 then loWord b.resent
  else if o = 0x28 then loWord b.drop
  else if o = 0x2C then fieldsWord [(0, 19, b.lastEp), flagBit 31 b.lost]
  else if 0x100 ≤ o ∧ o < 0x128 then (s.laser ((o - 0x100) / 4)).word s.nowUs ((o - 0x100) / 4)
  else if o = 0x128 then fieldsWord [flagBit 0 x.evShort, flagBit 1 x.evRail, flagBit 2 x.evSpared, flagBit 3 x.evDark, flagBit 4 x.evWorn]
  else 0

/-! Security and the meter. -/

/-- SEC_SESSIONS.LEFT: advances that remain before the one that would reach 0xFFFF (R444, R452). -/
def State.sessionsLeft (s : State) : Nat := deadSession - 1 - s.fab.session

/-- The security block by offset (R452). -/
def State.readSec (s : State) (o : Nat) : Word :=
  let x := s.sec
  if o = 0 then fieldsWord [(0, 7, x.op), (16, 31, x.status)]
  else if o = 4 then fieldsWord [(0, 12, x.reqLen), (16, 28, x.rspLen)]
  else if o = 8 then fieldsWord [flagBit 0 x.debugAllow, flagBit 1 x.debugOpen, flagBit 2 x.jtag, (16, 29, x.peers.length)]
  else if o = 0xC then fieldsWord [(0, 15, s.sessionsLeft)]
  else if o = 0x10 then loWord x.tagFail
  else if o = 0x14 then loWord x.noKey
  else if 0x100 ≤ o ∧ o < 0x200 ∧ (o - 0x100) % 64 < 48 then x.roots.getD (12 * ((o - 0x100) / 64) + (o - 0x100) % 64 / 4) 0
  else if 0x1000 ≤ o ∧ o < 0x2000 then loWord (field x.mbox (o - 0x1000) 4)
  else 0

/-- Fuelagrim's registers by offset (R460). -/
def State.readMeter (s : State) (o : Nat) : Word :=
  let m := s.meter
  if o = 0 then fieldsWord [flagBit 0 s.metering, flagBit 1 m.fault, flagBit 2 m.overNow, (4, 7, m.paramSet)]
  else if o = 4 then loWord m.eventCount
  else if o = 8 then loWord m.energy
  else if o = 0xC then hiWord m.energy
  else if o = 0x10 then fieldsWord [(0, 15, m.powerDw)]
  else if o = 0x18 then loWord m.seq
  else if o = 0x1C then hiWord m.seq
  else if 0x40 ≤ o ∧ o < 0x60 then m.nonce.getD ((o - 0x40) / 4) 0
  else if 0x80 ≤ o ∧ o < 0xB0 then loWord (field (Config.romDigest 4) (o - 0x80) 4)
  else if 0x100 ≤ o ∧ o < 0x200 then
    let p := (o - 0x100) / 16
    match o % 16 with
    | 0 => loWord (m.macsOf p) | 4 => hiWord (m.macsOf p) | 8 => loWord (m.bytesOf p) | _ => hiWord (m.bytesOf p)
  else if 0x1000 ≤ o ∧ o < 0x11D8 then loWord (field m.record (o - 0x1000) 4)
  else 0

/-! BAR0. -/

/-- Which block a BAR0 offset lies in (R352): ID 0, HQ 1, PART 2, PWR 3, ERR 4, PORT 5, SEC 6, MTR 7, CXL 8, MSI-X table 9, nothing 10. -/
def blockOf (off : Nat) : Nat :=
  if off < 0x1000 then 0
  else if 0x10000 ≤ off ∧ off < 0x50000 then 1
  else if 0x100000 ≤ off ∧ off < 0x181000 then 2
  else if 0x200000 ≤ off ∧ off < 0x202000 then 3
  else if 0x300000 ≤ off ∧ off < 0x302000 then 4
  else if 0x400000 ≤ off ∧ off < 0x481000 then 5
  else if 0x500000 ≤ off ∧ off < 0x502000 then 6
  else if 0x600000 ≤ off ∧ off < 0x602000 then 7
  else if 0x800000 ≤ off ∧ off < 0x810000 then 8
  else if 0x900000 ≤ off ∧ off < 0x900480 ∨ 0x901000 ≤ off ∧ off < 0x90100C then 9
  else 10

/-- Word `w` of the MSI-X pending bit array (R352). -/
def State.pendingWord (s : State) (w : Nat) : Word := fieldsWord ((List.range 32).map fun i => flagBit i (s.link.heldVec.contains (32 * w + i)))

/-- What a configuration register reads as: the registers and capabilities that R348 and R351 describe (log entry 108). -/
def State.configWord (s : State) (r : CfgReg) : Word :=
  let c := s.link.cfg
  match r with
  | .ids => BitVec.ofNat 32 idDevice
  | .command => fieldsWord [(1, 2, c.command.toNat)]
  | .classCode => fieldsWord [(8, 31, 0x120000)]
  | .bar0Lo => fieldsWord [(0, 3, 0b0100), (24, 31, c.bar0 % 256)]
  | .bar0Hi => BitVec.ofNat 32 (c.bar0 / 256)
  | .bar2Lo => fieldsWord [(0, 3, 0b1100), (28, 31, c.bar2 % 16)]
  | .bar2Hi => BitVec.ofNat 32 (c.bar2 / 16)
  | .bar4 | .rom => 0
  | .devControl => fieldsWord [(5, 7, c.mps), (12, 14, c.mrrs)]
  | .linkControl => fieldsWord [flagBit 1 c.aspm]
  | .powerControl => fieldsWord [(0, 1, if s.link.d3hot then 3 else 0), flagBit 3 true]
  | .msixControl => fieldsWord [(0, 10, 71)]
  | .serialLo => loWord s.inv.serial.toNat
  | .serialHi => hiWord s.inv.serial.toNat
  | .cxlCapability => fieldsWord [flagBit 0 true, flagBit 1 true]

/-- What each BAR0 register holds, whatever the phase. -/
def State.regValue (s : State) (off : Nat) : Word :=
  match blockOf off with
  | 0 => s.readId off
  | 1 => (s.queue ((off - 0x10000) / 4096)).read ((off - 0x10000) % 4096)
  | 2 => if off < 0x110000 then s.readPart ((off - 0x100000) / 4096) ((off - 0x100000) % 4096) else if 0x180000 ≤ off then s.readPartAll (off - 0x180000) else 0
  | 3 => s.readPwr (off - 0x200000)
  | 4 => s.readErr (off - 0x300000)
  | 5 => if off < 0x410000 then (s.port ((off - 0x400000) / 4096)).read ((off - 0x400000) % 4096) else if 0x480000 ≤ off then s.readFab (off - 0x480000) else 0
  | 6 => s.readSec (off - 0x500000)
  | 7 => s.readMeter (off - 0x600000)
  | 8 => Config.cxlRegister (off - 0x800000)
  | 9 => if off < 0x901000 then s.link.msixTable.getD ((off - 0x900000) / 4) 0 else s.pendingWord ((off - 0x901000) / 4)
  | _ => 0

/-- What a host read of the BAR0 register at `off` returns: outside normal running only the ID block answers, and in the stopped state the error block as well (R353, R375, R463, R465, R524). -/
def State.readReg (s : State) (off : Nat) : Word :=
  if s.phase = .run ∨ blockOf off = 0 ∨ (s.phase = .stopped ∧ blockOf off = 4) then s.regValue off else 0

end Sys2Proof.Machine
end

