-- ==== Sys2Proof/Machine/Sideband.lean ====
section
/-! DEFINITION. The steward's load and what it sheds, the SMBus target and the sensor bus (R490 to R502). -/

namespace Sys2Proof.Machine

/-- Replace the steward. -/
def State.modSteward (s : State) (f : Steward → Steward) : State := s.setSteward (f s.steward)

/-! Load and shedding (R492, R493, R496). -/

/-- SB_STATUS as a mirror takes it (R496). -/
def State.sbStatusWord (s : State) : Word :=
  fieldsWord [(0, 3, s.boot.step), flagBit 4 s.boot.ready, flagBit 5 s.boot.halted, (6, 7, s.steward.shed), (16, 31, s.boot.code)]

/-- Every telemetry mirror takes its value (R496). -/
def State.refreshMirrors (s : State) : State :=
  let t := s.thermWord
  let l := s.loadWord
  let b := s.sbStatusWord
  s.modSteward fun w => { w with mirrorAge := 0, mPower := s.meter.powerDw, mCap := wattField s.power.effCap, mTherm := t, mLoad := l, mStatus := b }

/-- The shed level, the runs of hot and cool windows at that level, and the learning period in force (R492). -/
structure ShedState where
  level : Nat
  hot : Nat
  cool : Nat
  eff : Nat
  deriving DecidableEq, Repr

/-- The table of R492 for one window; `base` is LEARN_MS, at most 160. -/
def shedNext (hot cool : Bool) (base : Nat) (x : ShedState) : ShedState :=
  let h := if hot then x.hot + 1 else 0
  let c := if cool then x.cool + 1 else 0
  if x.level = 0 then { x with level := if hot then 1 else 0, hot := 0, cool := 0 }
  else if h = 3 then { level := 2, hot := 0, cool := 0, eff := min 160 (2 * x.eff) }
  else if c = 10 then
    if x.level = 1 then { x with level := 0, hot := 0, cool := 0 }
    else
      let e := max base (x.eff / 2)
      { level := if e = base then 1 else 2, hot := 0, cool := 0, eff := e }
  else { x with hot := h, cool := c }

/-- LOAD_WINDOW (R492, R493): the end of a 10 ms window. -/
def execLoadWindow (load : Fin 101) (waitUs : Nat) (s : State) : Result :=
  if !s.smbOpen then .next s
  else
    let w := s.steward
    let slow := decide (1000 < waitUs)
    let hot := decide (90 ≤ load.val) || slow
    let cool := decide (load.val < 70) && !slow
    let n := shedNext hot cool (min 160 s.power.learnMs) { level := w.shed, hot := w.hot, cool := w.cool, eff := s.power.learnEff }
    let s := s.modSteward fun w => { w with
      load := load.val, slowWait := min 65535 waitUs, shedMs := if w.shed = 0 then w.shedMs else sat32 w.shedMs 10
      shed := n.level, hot := n.hot, cool := n.cool, mirrorAge := w.mirrorAge + 1 }
    let s := s.modPower fun p => { p with learnEff := n.eff }
    let s := if w.shed < n.level then (s.raiseLimited 0x0C10 0x0C10 1000000 none).sbSet 0 else s
    .next (if n.level = 0 ∨ 10 ≤ s.steward.mirrorAge then s.refreshMirrors else s)

/-! The sensor bus (R497 to R501). -/

/-- Segment of a device (R497). -/
def segmentOf (d : Nat) : Nat := if d < 6 then 0 else if d < 10 then 1 else 2

/-- The trunk and the segment of a device are in reach. -/
def State.deviceReach (s : State) (d : Nat) : Bool := !s.steward.trunk && !s.steward.isolated.getLsbD (segmentOf d)

/-- One polled device: it acknowledges, or after 3 polls without an answer it is absent (R497). -/
def State.pollDevice (nak : List Nat) (s : State) (d : Nat) : State :=
  if !s.deviceReach d then s
  else if nak.contains d then
    let n := s.steward.naks.getD d 0 + 1
    let s := s.modSteward fun w => { w with naks := updAt w.naks d fun x => x + 1 }
    if n = 3 then (s.modSteward fun w => { w with absent := w.absent ||| (1#11 <<< d) }).raise 0x0C21 else s
  else s.modSteward fun w => { w with naks := updAt w.naks d fun _ => 0, absent := w.absent &&& ~~~(1#11 <<< d) }

/-- Isolation (R500): the trunk is tested, then each segment in `segs`, in ascending order. -/
def State.isolate (segs : List Nat) (f : PollFacts) (s : State) : State :=
  if !f.trunkOk then (s.modSteward fun w => { w with trunk := true }).raise 0x0C23
  else segs.foldl (fun s k => if f.segOk.contains k then s else (s.modSteward fun w => { w with isolated := w.isolated ||| (1#3 <<< k) }).raise 0x0C22) s

/-- After a change of the bus: SENSOR sets when it became degraded, and the cap follows its margin (R496, R499; R416). -/
def State.busChanged (s : State) (was : Bool) : State := (if s.sensorDegraded && !was then s.sbSet 1 else s).updateCap

/-- The sensor bus is polled: the steward runs (R497). -/
def State.busRuns (s : State) : Bool := s.smbOpen

/-- SENSOR_POLL (R497, R498). -/
def execSensorPoll (slow : Bool) (f : PollFacts) (s : State) : Result :=
  if !s.busRuns then .next s
  else
    let was := s.sensorDegraded
    let s := s.modSteward fun w => { w with arbLost := satAdd 255 w.arbLost f.arbLost, clears := satAdd 255 w.clears f.clears.val }
    let s := if f.clears = 0 then s else s.raiseLimited 0x0C20 0x0C20 1000000 none
    if f.stuck then
      if s.steward.trunk then .next s
      else .next ((s.isolate ((List.range 3).filter fun k => !s.steward.isolated.getLsbD k) f).busChanged was)
    else if 8 ≤ f.arbLost then .next s
    else .next (((List.range 6 ++ if slow then [6, 7, 8, 9] else []).foldl (State.pollDevice f.nak) s).busChanged was)

/-- RETEST: a write of SB_SENSOR_CFG (R496, R501). -/
def execRetest (v : Word) (f : PollFacts) (s : State) : Result :=
  if !s.smbFull then .next s
  else
    let was := s.sensorDegraded
    let s := s.modSteward fun w => { w with margin := min 50 (bits v.toNat 5 0) }
    if !v.getLsbD 6 then .next s.updateCap
    else if f.trunkOk && (List.range 3).all f.segOk.contains then
      .next ((s.modSteward fun w => { w with isolated := 0, trunk := false }).busChanged was)
    else .next ((s.isolate (List.range 3) f).busChanged was)

/-! The SMBus target (R494 to R496). -/

/-- ALERT_RESPONSE (R496): while it drives SMB_ALERT# the module answers with its address and releases the line. -/
def execAlertResponse (s : State) : Result :=
  if s.smbOpen && s.steward.alert then .next ((s.modSteward fun w => { w with alert := false }).emit (.smbAddress 0x5C)) else .next s

/-- SMBUS_TIMEOUT (R494): SCL has been low for 25 ms; the transaction is abandoned and has no effect. -/
def execSmbusTimeout (s : State) : Result := .next (if s.smbOpen then s.emit .smbReleased else s)

end Sys2Proof.Machine
end

