-- ==== Sys2Proof/Machine/Boot.lean ====
section
/-! DEFINITION. Power-up and power loss, the start-up steps, the starter image, and the update state (R42 to R45, R379, R402, R462 to R482). -/

namespace Sys2Proof.Machine

/-! The starter image (R402, R468 to R472). -/

/-- A section of an image: KIND, OFFSET and BYTES (R468). -/
structure ImgSection where
  kind : Nat
  off : Nat
  len : Nat
  deriving DecidableEq, Repr

/-- The sections of an image. -/
def imageSections (b : Bytes) : List ImgSection :=
  (List.range (field b 14 2)).map fun k => { kind := byteAt b (64 + 16 * k), off := field b (68 + 16 * k) 4, len := field b (72 + 16 * k) 4 }

/-- Two sections share no byte. -/
def ImgSection.apart (x y : ImgSection) : Bool := decide (x.off + x.len ≤ y.off) || decide (y.off + y.len ≤ x.off)

/-- No two of the sections overlap. -/
def sectionsApart : List ImgSection → Bool
  | [] => true
  | x :: r => r.all x.apart && sectionsApart r

/-- Greatest length of an image (R468). -/
abbrev maxImage : Nat := 31457276

/-- The header and the sections of an image meet R13, R468 and R469; VERSION is held against ID_ARCH_LEVEL (log entry 37). -/
def imageShape (b : Bytes) : Bool :=
  let n := field b 14 2
  let size := field b 4 4
  let sig := field b 16 4
  let chain := field b sig 4
  let secs := imageSections b
  let count : Nat → Nat := fun k => (secs.filter fun x => x.kind == k).length
  headerStatus archLevel (min b.length size) b 0x80 0x0001 64 == 0 && decide (size ≤ maxImage) && decide (size ≤ b.length) && decide (1 ≤ n) && decide (n ≤ 64) &&
    sig % 4 == 0 && secs.all (fun x => decide (1 ≤ x.kind) && decide (x.kind ≤ 4) && decide (64 + 16 * n ≤ x.off) && decide (x.off + x.len ≤ sig)) &&
    count 1 == 1 && decide (count 2 ≤ 1) && decide (count 3 ≤ 1) && decide (count 4 ≤ 1) && sectionsApart secs &&
    decide (sig + 4 * ceilDiv (4 + chain) 4 + 96 ≤ size)

/-- A bank passes the check of R472: shape, chain under a root that is not revoked, signature and firmware version. -/
def imageOk (f : Flash) (b : Bank) : Bool :=
  imageShape b.image && b.authentic && decide (b.root < 8) && !f.revoked.getLsbD b.root && decide (f.minFw ≤ field b.image 12 2)

/-- The candidates of R473: committed banks, the higher GENERATION first, bank A first of equals. -/
def bankOrder (f : Flash) : List Bool :=
  match f.a.flag, f.b.flag with
  | true, true => if imageGen f.a.image < imageGen f.b.image then [true, false] else [false, true]
  | true, false => [false]
  | false, true => [true]
  | false, false => []

/-- The first candidate that passes; every one that fails raises 0x0B02 (R473). -/
def State.chooseBank (s : State) : List Bool → Option Bool × State
  | [] => (none, s)
  | b :: r => if imageOk s.flash (s.flash.bank b) then (some b, s) else State.chooseBank (s.raise 0x0B02) r

/-! Register settings (R379, R470, R471). -/

/-- One register-settings entry; the flag tells whether the register holds RWS fields (R470). -/
def State.applySetting (s : State) (off v : Nat) : State × Bool :=
  if off = 0x110 then
    let t := bit v 1
    (s.setInv { s.inv with stageListEn := bit v 0 || !t, tileProgEn := t }, true)
  else if 0x300 ≤ off ∧ off < 0x330 ∧ off % 8 = 0 then
    (s.modLink ((off - 0x300) / 8) fun k => { k with mem := bits v 8 0, coh := bits v 14 9, int := bits v 18 15, dbg := bits v 22 19 }, true)
  else if off = 0x180110 then (s.modAdm fun a => { a with carve := [bits v 5 0, bits v 13 8, bits v 21 16] }, true)
  else if 0x400000 ≤ off ∧ off < 0x410000 ∧ off % 4096 = 0 then
    (s.modPort ((off - 0x400000) / 4096) fun p => { p with mode := if bits v 1 0 = 3 then 0 else bits v 1 0 }, true)
  else if off = 0x480000 then (s.modFab fun b => { b with axis := BitVec.ofNat 32 v }, true)
  else if 0x500100 ≤ off ∧ off < 0x500200 ∧ off % 4 = 0 ∧ (off - 0x500100) % 64 < 48 then
    (s.modSec fun x => { x with roots := updAt x.roots (12 * ((off - 0x500100) / 64) + (off - 0x500100) % 64 / 4) fun _ => BitVec.ofNat 32 v }, true)
  else (s, false)

/-- The entries in order; the first that names another register raises 0x0B03, once per image. -/
def State.applySettings (b : Bytes) : Nat → Nat → Bool → State → State
  | 0, _, _, s => s
  | n + 1, k, told, s =>
    let (s, ok) := s.applySetting (field b (8 * k) 4) (field b (8 * k + 4) 4)
    if ok || told then State.applySettings b n (k + 1) told s else State.applySettings b n (k + 1) true (s.raise 0x0B03)

/-- Valid role counts of link `l` (R379). -/
def rolesOk (l : Nat) (k : DieLink) : Bool :=
  k.mem + k.coh + k.int + k.dbg == activeLanes l / 8 && decide (8 ≤ k.coh) && decide (1 ≤ k.int) && decide (k.dbg ≤ 8)

/-- The lane roles of a link are applied, the default counts in place of invalid ones (R377, R379). -/
def State.applyRoles (s : State) (l : Nat) : State :=
  if rolesOk l (s.dieLink l) then s
  else (s.modLink l fun k => if l < 4 then { k with mem := 288, coh := 24, int := 4, dbg := 4 } else { k with mem := 112, coh := 12, int := 2, dbg := 2 }).raise 0x0801

/-- BOOT_CFG (R471). -/
def State.applyBootCfg (s : State) (v : Nat) : State :=
  let n := bits v 5 0
  s.setBoot { s.boot with bistPar := if 8 ≤ n ∧ n ≤ 54 then n else 24, tagStatusEn := bit v 6 }

/-- Window `k` of a rind window table (R402). -/
def rindWindow (b : Bytes) (k : Nat) : RindWin :=
  let o := 16 + 16 * k
  { kind := byteAt b o % 4, part := byteAt b o / 16, base := field b (o + 1) 6, size := field b (o + 7) 6 }

/-- A window meets R402. -/
def RindWin.ok (w : RindWin) : Bool :=
  match w.kind with
  | 0 => true
  | 1 => w.base % 4096 == 0 && w.size % 4096 == 0 && decide (4096 ≤ w.size) && decide (w.base + w.size ≤ extentB)
  | 2 => w.base == 0 && w.size == 0
  | _ => false

/-- The windows of a rind window table that meets R402 and R13. -/
def rindTable (b : Bytes) : Option (List RindWin) :=
  let n := byteAt b 4 % 32
  let ws := (List.range n).map (rindWindow b)
  if headerStatus archLevel b.length b 0x60 0x0001 (16 + 16 * n) = 0 ∧ 1 ≤ n ∧ n ≤ 16 ∧ ws.all RindWin.ok = true then some ws else none

/-- The rind window table is applied; without a valid one a fitted guest die is fenced from start-up with cause 5 (R402, R469). -/
def State.applyRind (s : State) (sec : Option Bytes) : State :=
  match sec.bind rindTable with
  | some ws => s.setFabric { s.fabric with wins := ws, fenceLimit := byteAt (sec.getD []) 5 }
  | none => if s.fabric.guestFitted then ((s.setFabric { s.fabric with fenceCause := 5 }).raise 0x0821).capacityChange regCoreInv noReg 0 else s

/-- Start-up step 5 (R462): settings, lane roles, BOOT_CFG and the rind window table of the bank in use. -/
def State.applyImage (s : State) : State :=
  let b := s.bankInUse.image
  let s := match imageSection b 2 with | some x => State.applySettings x (x.length / 8) 0 false s | none => s
  let s := (List.range 6).foldl State.applyRoles s
  let s := match imageSection b 4 with | some x => s.applyBootCfg (field x 0 4) | none => s
  s.applyRind (imageSection b 3)

/-- Start-up step 5 ends. -/
def State.bootSettings (s : State) : State :=
  let s := s.applyImage
  s.setBoot { s.boot with step := 5 }

/-! The steps of start-up (R462 to R465). -/

/-- Start-up halts with a code (R465). -/
def State.haltBoot (s : State) (code : Nat) : State :=
  let s := (s.setPins { s.pins with ready := false }).setBoot { s.boot with halted := true, ready := false, code := code, facts := none }
  let s := ((s.setPhase .halted).sbSet 3).sendStatus
  if s.boot.updReq ∧ code ≠ 0x0B09 then s.enterUpdate else s

/-- The spare map is taken in as stored (R28, R479). -/
def State.loadMap (s : State) (m : SpareMap) : State :=
  let s := s.setCores ((List.range 864).map fun n =>
    { st := m.states.getD n .fusedOff, logical := m.logical.getD n none, fused := s.flash.fused.getD n 0 })
  let s := s.setMem { s.mem with
    vatRows := m.rows
    pcs := (List.range 512).map fun k => { retired := m.pcs.getD k false } }
  let s := m.dieSpares.foldl (fun s x => s.modLink x.1 fun k => k.setLane { dir := x.2.1, lane := x.2.2.2, locked := false, failed := true, spare := some x.2.2.1 }) s
  let s := m.engines.zipIdx.foldl (fun s x =>
    let set : Option Nat → (Nat → Port → Port) → State → State := fun l f s => match l with | some l => s.modPort (2 * x.2 + l / 8) (f (l % 8)) | none => s
    set x.1.2 (fun l p => { p with rxSpare := l }) (set x.1.1 (fun l p => { p with txSpare := l }) s)) s
  let s := s.modOptics fun o => { o with
    lasers := (List.range 10).map fun c =>
      let l := m.lasers.getD c (none, false)
      { st := if l.2 then .failed else .dark, engine := l.1, failed := l.2 } }
  s.modFab fun b => { b with session := m.session }

/-- The drift record is taken in; without one every DRIFT starts at 0 (R424, R465). -/
def State.loadDrift (s : State) : State :=
  match s.flash.drift? with
  | some r => s.setCores (s.cores.zipIdx.map fun x => { x.1 with drift := r.drift.getD x.2 0 })
  | none => s.raise 0x0B05

/-- Start-up step 3: the field records, and whether a bank is committed (R465, R473). -/
def State.bootRecords (s : State) : State :=
  match s.flash.map? with
  | none => s.haltBoot 0x0B04
  | some m =>
    let s := (s.loadMap m).loadDrift
    if (bankOrder s.flash).isEmpty then s.haltBoot 0x0B01 else s.setBoot { s.boot with step := 3 }

/-- Start-up step 4: the image is checked, and the update state is entered when it is asked for (R472, R473, R481). -/
def State.bootImage (s : State) : State :=
  match s.chooseBank (bankOrder s.flash) with
  | (none, s) => s.haltBoot 0x0B01
  | (some b, s) =>
    let s := s.setBoot { s.boot with step := 4, bank := b, gen := imageGen (s.flash.bank b).image }
    if s.boot.updReq then s.enterUpdate else s

/-- Start-up step 6: training (R465); every lane that carries hash entries has locked by its end (R386). -/
def State.bootTrain (s : State) (f : StartFacts) : State :=
  let s := f.pcFail.foldl (fun s k => if k < 512 && !(s.pc k).retired then s.dropPc k 2 else s) s
  let s := f.linkFail.foldl State.linkFails s
  if s.fabric.links.any (·.failed) then s.haltBoot 0x0B0A
  else
    (s.setFabric { s.fabric with links := s.fabric.links.map fun k => { k with
      trained := true, lanes := k.lanes.map fun x => { x with locked := x.locked || !x.failed || x.spare.isSome || x.taken.isSome } } }).setBoot { s.boot with step := 6 }

/-- A channel that feeds an engine is lit at its operating bias (R338). -/
def State.lightLaser (s : State) (c e : Nat) : State := s.modLaser c fun l => { l with st := .lit, engine := some e, bias := laserBias c }

/-- A channel is latched off and marked failed (R339 step 2). -/
def State.latchLaser (s : State) (c : Nat) : State := (s.modLaser c fun l => { l with st := .failed, failed := true, engine := none, bias := 0 }).mapChanged

/-- Spares in ascending order take the place of an engine's failed channel (R340). -/
def State.startSpare (e : Nat) (bad : List Nat) : List Nat → State → State
  | [], s => (s.modOptics fun o => { o with evDark := true }).raise 0x0622
  | c :: r, s =>
    let l := s.laser c
    if l.failed || l.engine.isSome then State.startSpare e bad r s
    else if bad.contains c then State.startSpare e bad r (((s.latchLaser c).modOptics fun o => { o with evShort := true }).raise 0x0620)
    else (((s.lightLaser c e).modOptics fun o => { o with evSpared := true }).mapChanged).raise 0x0621

/-- One channel of the start-up ramp (R338 to R340). -/
def State.startLaser (bad : List Nat) (s : State) (c : Nat) : State :=
  let l := s.laser c
  match l.engine with
  | some e =>
    if l.failed || l.st == .lit then s
    else if bad.contains c then
      State.startSpare e bad (List.range 10) (((s.latchLaser c).modOptics fun o => { o with evShort := true }).raise 0x0620)
    else s.lightLaser c e
  | none => s

/-- A spare is checked in the block's monitor: one that fails is marked failed (R338). -/
def State.checkSpare (bad : List Nat) (s : State) (c : Nat) : State :=
  let l := s.laser c
  if l.engine.isNone && !l.failed && bad.contains c then s.latchLaser c else s

/-- The laser rail fails in the start-up ramp: the ramp runs again, and after a second fault every channel stays off (R341). -/
def State.railFails (s : State) (n : Nat) : State :=
  let fault : State → State := fun s => (s.modOptics fun o => { o with evRail := true, railFaults := o.railFaults + 1 }).raise 0x0623
  match n with
  | 0 => s
  | 1 => fault s
  | _ => (fault (fault s)).modOptics fun o => { o with
      allOff := true, rail := false, lasers := o.lasers.map fun x => if x.failed then x else { x with st := .dark, bias := 0 } }

/-- Start-up step 7: the channels ramp in ascending order, then the spares (R338). -/
def State.bootLasers (s : State) (f : StartFacts) : State :=
  let s := (List.range 10).foldl (State.startLaser f.laserFail) s
  let s := ((List.range 10).foldl (State.checkSpare f.laserFail) s).railFails f.railFaults
  s.setBoot { s.boot with step := 7 }

/-- Start-up step 8: self-test and the drift check of every enabled and spare core; retirements in the order detected, those of one cycle by logical number (R30, R424, R464). -/
def State.bootTest (s : State) (f : StartFacts) : State :=
  let s := f.spareFail.foldl (fun s n => if (s.core n).st = .spare then (s.failCore n none (causeCode .selfTest)).mapChanged else s) s
  let s := f.spareMargin.foldl (fun s n =>
    if (s.core n).st != .spare then s else if (s.core n).atFloor then (s.failCore n none (causeCode .freqFloor)).mapChanged else s.raiseDrift n) s
  let s := f.coreFail.foldl (fun s g => (sortBy (fun a b => decide (a.1 ≤ b.1)) g).foldl (fun s x =>
    if x.2 then (s.marginFails x.1 {}).1 else s.retireCore x.1 (causeCode .selfTest) {}) s) s
  s.setBoot { s.boot with step := 8 }

/-- Channels assigned to an engine and not failed: those that R36 counts as feeding one, lit or for a while turned off (log entry 107). -/
def State.feeding (s : State) : List Laser := s.optics.lasers.filter fun l => l.engine.isSome && !l.failed

/-- Engine `e` has a channel, or a spare is to take it over (R339, R340). -/
def State.engineServed (s : State) (e : Nat) : Bool :=
  (s.feeding.any fun l => l.engine == some e) || s.spareComing e || s.optics.lacking.any fun x => x.2 == e

/-- Ports of the engines that stay dark (R340). -/
def State.darkPorts (s : State) : BitVec 16 :=
  (List.range 8).foldl (fun b e => if s.engineServed e then b else b ||| (3#16 <<< (2 * e))) (0#16)

/-- Ports that run with fewer lanes than their mode (R36). -/
def State.shortPorts (s : State) : BitVec 16 :=
  (List.range 16).foldl (fun b n => if (s.port n).laneFault = 0 then b else b ||| (1#16 <<< n)) (0#16)

/-- The inventory and link registers are loaded (R32 to R36, R205, R215, R240, R406, R434). -/
def State.loadInventory (s : State) : State :=
  let used : (Port → Nat) → Nat := fun f => ((List.range 8).filter fun e => decide (f (s.port (2 * e)) < 8) || decide (f (s.port (2 * e + 1)) < 8)).length
  let pcs := (s.mem.pcs.filter fun c => !c.retired).length
  let s := s.countCores
  let s := s.setInv { s.inv with
    guest := if !s.fabric.guestFitted then 0 else if s.fabric.fenceCause = 0 then 1 else 2
    hbmPc := pcs
    vatSpares := 2048 - s.mem.vatRows.length
    laserActive := ((List.range 8).filter s.engineServed).length
    laserSpares := (s.optics.lasers.filter fun l => l.engine.isNone && !l.failed).length
    txSpares := 8 - used (·.txSpare)
    rxSpares := 8 - used (·.rxSpare)
    degraded := s.darkPorts ||| s.shortPorts }
  let s := s.setMem { s.mem with capT1 := 8064, sliceCap := [2016, 2016, 2016, 2016], capT2 := pcSlabs * pcs }
  (List.range 6).foldl (fun s l => s.modLink l fun k =>
    let free : Nat → Nat := fun d => (k.freeSpares l d).length
    { k with spare0 := free 0, spare1 := free 1 }) s

/-- Start-up step 9: the spare map is applied, and changed field records are written, the waiting entries of the fault log among them; SESSION advances with them (R292, R444, R462). -/
def State.bootInventory (s : State) : State :=
  let s := s.loadInventory
  let s := State.putLogs s.flash.logPend.length s
  let s := if s.flash.driftDirty then s.putDrift else s
  (s.advanceSession).setBoot { s.boot with step := 9 }

/-- Start-up step 10: the module is ready (R40, R462, R488, R496). -/
def State.bootReady (s : State) (f : StartFacts) : State :=
  let s := (s.setPhase .run).setBoot { s.boot with step := 10, ready := true, ms := f.readyMs, facts := none }
  let s := ((((s.setPins { s.pins with ready := true }).sbSet 4).sendStatus).setClocks.restCores (List.range 800)).updateCap
  f.portsUp.foldl (fun s n => if n < 16 then s.raiseSubs n else s) s

/-- The next step of the start-up in progress ends (R462; one on each idle step: log entry 1). -/
def State.bootStep (s : State) : State :=
  match s.boot.facts with
  | none => s
  | some f =>
    if s.phase != .boot then s
    else match s.boot.step with
      | 2 => s.bootRecords
      | 3 => s.bootImage
      | 4 => s.bootSettings
      | 5 => s.bootTrain f
      | 6 => s.bootLasers f
      | 7 => s.bootTest f
      | 8 => s.bootInventory
      | 9 => s.bootReady f
      | _ => s

/-! Power-up and power loss (R43 to R45, R455, R459). -/

/-- Fuelagrim resumes from its journal and emits a record of KIND 2 (R455, R456, R459). -/
def State.meterResume (s : State) : State :=
  let j := s.meter.newest
  let lost := (j.map (·.atLoss)).getD false
  let changed := match j with | some j => s.meter.eventCount != j.events | none => false
  let s := s.modMeter fun m => match j with | some j => m.restore j | none => m
  let s := s.modMeter fun m => { m with fault := false, overNow := false, powerDw := 0, nonce := List.replicate 8 0 }
  let s := s.emitRecord 2 lost
  if changed then s.raise 0x0A21 else s

/-- Power-up steps 1 to 4 and start-up steps 1 and 2 (R43, R462, R465). -/
def State.powerOn (s : State) (f : StartFacts) : State :=
  let s := (s.railsOff .boot).setNowUs 0
  let s := s.setPins { s.pins with vin := true }
  let s := (s.setFlash { s.flash with powerUps := s.flash.powerUps + 1 }).meterResume
  let s := (s.setBoot { s.boot with step := 1 }).updateCap
  if f.flashOk then s.setBoot { s.boot with step := 2, facts := some f } else s.haltBoot 0x0B09

/-- POWER_UP (R43, R462). -/
def execPowerUp (f : StartFacts) (s : State) : Result := if s.pins.vin then .next s else .next (s.powerOn f)

/-- RESTART_DELAY_EXPIRY (R44): the input has stayed up for 100 ms, and power-up starts. -/
def execRestartDelayExpiry (f : StartFacts) (s : State) : Result := if s.pins.vin then .next s else .next (s.powerOn f)

/-- POWER_LOSS (R43, R45, R455): the rails go off, Fuelagrim writes its journal, and what waited to be written to flash or tag is lost. -/
def execPowerLoss (s : State) : Result :=
  if !s.pins.vin then .next s
  else
    let s := s.railsOff .off
    let s := s.setPins { s.pins with vin := false }
    let s := s.setFlash { s.flash with mapDirty := false, driftDirty := false, driftRises := 0, logPend := [], logTimes := [] }
    let s := s.modTag fun t => { t with statusPend := none, statusLate := false, statusAt := none }
    .next (s.modMeter fun m => { m.journal true with tagPend := none, tagLate := false })

/-! The update state (R480, R481). -/

/-- COMMIT in the update state: the image is checked, and its bank's commit flag is programmed (R481 steps 4 and 5). -/
def State.commitImage (s : State) : State :=
  let t := s.boot.updBank
  let other := s.flash.bank (!t)
  let b := s.flash.bank t
  let root := imageRoot s.sec.keys.vendorRoots b.image
  let b := { b with authentic := root.isSome, root := root.getD 0 }
  if imageOk s.flash b && (!other.flag || decide (imageGen other.image < imageGen b.image)) then
    ((s.setFlash (s.flash.setBank t { b with flag := true })).setBoot { s.boot with updDone := true }).raise 0x0B08
  else s.setBoot { s.boot with updStatus := 0x0B07, updDone := true }

/-- A write of SB_BOOT_CTRL (R465, R480, R481). -/
def State.writeBootCtrl (s : State) (v : Word) : State :=
  if !s.smbOpen then s
  else
    let active := s.phase == .update
    let dead := s.boot.code = 0x0B09
    let s := if dead then s else s.setBoot { s.boot with updReq := v.getLsbD 0 }
    let s := if s.phase = .halted ∧ s.boot.updReq = true then s.enterUpdate else s
    let s := if active && v.getLsbD 1 && !s.boot.updDone then s.commitImage else s
    if active && v.getLsbD 2 && !s.boot.updDone then s.setBoot { s.boot with updDone := true } else s

/-- UPDATE (R480). -/
def execUpdate (v : Word) (s : State) : Result := .next (s.writeBootCtrl v)

/-- SB_BOOT_COMMIT (R481). -/
def execSbBootCommit (v : Word) (s : State) : Result := .next (s.writeBootCtrl v)

/-- SB_BOOT_ABORT (R480). -/
def execSbBootAbort (v : Word) (s : State) : Result := .next (s.writeBootCtrl v)

/-- SB_BOOT_DATA_WRITE (R480, R495): a block of 1 to 255 bytes is programmed at the next image offset of the target bank; any other length is a bad command. -/
def execSbBootDataWrite (data : Bytes) (s : State) : Result :=
  if !s.smbOpen then .next s
  else if data.length = 0 ∨ 255 < data.length then .next (s.sbSet 5)
  else if s.phase != .update then .next s
  else
    let t := s.boot.updBank
    let b := s.flash.bank t
    if b.flag then .next s else .next (s.setFlash (s.flash.setBank t { b with image := (b.image ++ data).take maxImage }))

/-! Idle steps. -/

/-- After a droop cut the limit of a core rises by 16/64 until it reaches q (R423 step 5). -/
def State.rampIssue (s : State) : State :=
  if s.cores.any fun c => match c.droop with | some k => k != 0 | none => false then
    s.setCores (s.cores.map fun c => match c.droop with
      | some k => if k = 0 then c else { c with droop := if c.q ≤ k + 16 then none else some (k + 16) }
      | none => c)
  else s

/-- What a step does with no command waiting (log entry 1): a microsecond passes, the limits of a droop recovery rise, the next step of start-up ends, a warm reset completes, flits are acknowledged, and clock closes that have drained are committed. -/
def State.idle (s : State) : State := s.tick.rampIssue.bootStep.finishWarm.ackLinks.commitCloses

end Sys2Proof.Machine
end

