-- ==== Sys2Proof/Machine/Tags.lean ====
section
/-! DEFINITION. The service tag over RF and its status record (R41, R483 to R487). The tag needs no power of the module's. -/

namespace Sys2Proof.Machine

/-! Answers: the flag byte, then the content; an error sets the flag (ISO/IEC 15693, which R483 names; log entry 38). -/

/-- An answer with content. -/
def State.tagAnswer (s : State) (b : Bytes) : State := s.emit (.tag (0x00#8 :: b))

/-- An error answer. -/
def State.tagError (s : State) (code : Byte) : State := s.emit (.tag [0x01#8, code])

/-- The tag obeys a reader's command only in a field. -/
def State.inField (s : State) (f : State → State) : State := if s.tag.rf then f s else s

/-- First block of the meter area; the blocks below it hold the identity written at manufacture (R484). -/
abbrev meterBlock : Nat := 0x40

/-- First block of the service area, the only one a reader may write (R484). -/
abbrev serviceBlock : Nat := 0x240

/-- LENGTH of the identity record, which no rule gives: a multiple of 4 that holds the header and SEQ and fits the one slot of 256 bytes (R12, R475, R484; log entry 3). -/
def identityLength : Nat := 8 + 4 * (Config.tagIdentity 0).toNat % 244

/-- A block of the identity record: the common header, then what was written at manufacture (R12, R484). -/
def identityBlock (k : Nat) : Word := if k = 0 then BitVec.ofNat 32 (leNat (leBytes 1 1 ++ leBytes 1 0x86 ++ leBytes 2 identityLength)) else Config.tagIdentity k

/-- Block `k` of the tag's memory; the slot of the identity record ends with its CRC-32 and commit flag (R475, R484). -/
def State.tagBlock (s : State) (k : Nat) : Word :=
  if k = 63 then BitVec.ofNat 32 commitFlag
  else if k = 62 then crc32 (((List.range (identityLength / 4)).flatMap fun i => leBytes 4 (identityBlock i).toNat))
  else if k < meterBlock then identityBlock k
  else s.tag.mem.getD k 0

/-- Blocks of the tag and the most that one command reads (R483). -/
abbrev tagBlocks : Nat := 2048
abbrev maxRead : Nat := 32

/-- INVENTORY (R483): a tag in the ready state, or selected, answers with its UID. -/
def execInventory (s : State) : Result := .next (s.inField fun s => if s.tag.mode = .quiet then s else s.tagAnswer (0x00#8 :: Config.tagUid))

/-- STAY_QUIET (R483): obeyed without an answer. -/
def execStayQuiet (s : State) : Result := .next (s.inField fun s => s.modTag fun t => { t with mode := .quiet })

/-- SELECT (R483). -/
def execSelect (s : State) : Result := .next (s.inField fun s => (s.modTag fun t => { t with mode := .selected }).tagAnswer [])

/-- RESET_TO_READY (R483). -/
def execResetToReady (s : State) : Result := .next (s.inField fun s => (s.modTag fun t => { t with mode := .ready }).tagAnswer [])

/-- READ_SINGLE_BLOCK (R483, R484). -/
def execReadSingleBlock (block : BitVec 11) (s : State) : Result := .next (s.inField fun s => s.tagAnswer (leBytes 4 (s.tagBlock block.toNat).toNat))

/-- READ_MULTIPLE_BLOCKS (R483, R484): up to 32 blocks. -/
def execReadMultipleBlocks (block : BitVec 11) (count : Nat) (s : State) : Result :=
  .next (s.inField fun s =>
    if count = 0 ∨ maxRead < count then s.tagError 0x03
    else if tagBlocks < block.toNat + count then s.tagError 0x10
    else s.tagAnswer ((List.range count).flatMap fun i => leBytes 4 (s.tagBlock (block.toNat + i)).toNat))

/-- WRITE_SINGLE_BLOCK (R483, R484): one block, atomically; outside the service area the tag refuses. -/
def execWriteSingleBlock (block : BitVec 11) (data : Word) (s : State) : Result :=
  .next (s.inField fun s =>
    if block.toNat < serviceBlock then s.tagError 0x12
    else (s.modTag fun t => { t with mem := updAt t.mem block.toNat fun _ => data }).tagAnswer [])

/-- GET_SYSTEM_INFORMATION (R483): the UID, and 2,048 blocks of 4 bytes. -/
def execGetSystemInformation (s : State) : Result :=
  .next (s.inField fun s => s.tagAnswer (0x04#8 :: Config.tagUid ++ leBytes 2 (tagBlocks - 1) ++ leBytes 1 3))

/-- RF_FIELD_PRESENT (R485): the tag refuses wired writes. -/
def execRfFieldPresent (s : State) : Result := .next (if s.tag.rf then s else s.modTag fun t => { t with rf := true, mode := .ready })

/-- FIELD_COLLAPSE (R487): a write under way has left its block as it was; the tag loses its RF state. -/
def execFieldCollapse (s : State) : Result := .next (s.modTag fun t => { t with rf := false, mode := .ready })

/-- STATUS_RECORD_RETRY (R485): every 10 s; after 60 s event 0x0B06 is raised. -/
def execStatusRecordRetry (s : State) : Result :=
  match s.tag.statusPend with
  | none => .next s
  | some (b, t) =>
    if s.phase == .off || s.phase == .shutdown then .next s
    else if !s.tagRefuses then .next (s.modTag fun x => { x.put statusArea b with statusPend := none, statusLate := false })
    else if t + 60000000 ≤ s.nowUs ∧ s.tag.statusLate = false then .next ((s.modTag fun x => { x with statusLate := true }).raise 0x0B06)
    else .next s

end Sys2Proof.Machine
end

