-- ==== Sys2Proof/Machine/Registers.lean ====
section
/-! DEFINITION. Host writes of the registers: what a write of each BAR0 register stores, clears, triggers or ignores (R17 to R19 and the register tables). -/

namespace Sys2Proof.Machine

/-! Accounting (R277). -/

/-- ACCT_CLEAR of a queue or a partition (R277). -/
def State.clearAcct (s : State) (part : Bool) (i : Nat) (v : Word) : State :=
  if !v.getLsbD 0 then s
  else if part then s.modPart (i % 16) fun x => { x with acct := {} } else s.modQueue i fun x => { x with acct := {} }

/-- ACCT_CLEAR (R277). -/
def execAcctClear (part : Bool) (i : Fin 64) (v : Word) (s : State) : Result := .next (s.bar0 fun s => s.clearAcct part i.val v)

/-! Blocks, by offset. The action bits of registers that have a row of their own act here as that row's command does,
with the host's memory as it stands and nothing failing outside the module. -/

/-- The facts of a reset in which nothing fails. -/
def goodFacts : StartFacts :=
  { flashOk := true, coreFail := [], spareFail := [], pcFail := [], linkFail := [], laserFail := [], portsUp := [], readyMs := 0, firmwareOk := true }

/-- A write of ID_HOST_STATUS (R356). -/
def State.writeHostStatus (s : State) (v : Word) : State :=
  s.setLink { s.link with
    hostLoss := s.link.hostLoss && !v.getLsbD 1, flushAbandoned := s.link.flushAbandoned && !v.getLsbD 2, warmDone := s.link.warmDone && !v.getLsbD 3 }

/-- The low 20 bits of a word: the high half of a host physical address. -/
def hi20 (v : Word) : Word := v &&& 0xFFFFF#32

/-- The ID block (R7, R356, R372, R408). -/
def State.writeId (s : State) (o : Nat) (v : Word) : State :=
  if o = 0xC then s.writeLevel v
  else if o = 0x204 then s.writeHostCtrl v goodFacts
  else if o = 0x208 then s.writeHostStatus v
  else if o = 0x220 then s.setHle { s.hle with lost := s.hle.lost &&& ~~~(BitVec.ofNat 16 (bits v.toNat 31 16)) }
  else if o = 0x224 then s.setHle { s.hle with addrLo := v }
  else if o = 0x228 then s.setHle { s.hle with addrHi := hi20 v }
  else if o = 0x22C then s.setHle { s.hle with size := v.toNat }
  else if o = 0x230 then s.writeHle v 0
  else if o = 0x344 then s.writeRind v
  else s

/-- HQ_CFG (R253, R254). -/
def State.writeQueueCfg (s : State) (q : Nat) (v : Word) : State :=
  let n := v.toNat
  let qu := s.queue q
  let free := !qu.enable && qu.fifo.isEmpty
  let cls := bits n 5 4
  let noC0 := cls == 0 && qu.assigned && (s.part qu.part).c0Cores == 0
  let s := s.modQueue q fun x => { x with
    cls := if free && !noC0 then cls else x.cls
    enable := v.getLsbD 6
    retryMax := bits n 11 8
    log2 := if free then bits n 15 12 else x.log2
    qweight := max 1 (bits n 23 16) }
  if v.getLsbD 6 && !qu.enable && s.link.effLevel != 0 && decide (4 ≤ (s.queue q).log2) then (State.fetchAll q (s.queue q).size s).kick else s

/-- A ring base is written only while ENABLE is 0 and the queue holds no command (R254). -/
def State.writeBase (s : State) (q : Nat) (f : Queue → Queue) : State :=
  let qu := s.queue q
  if !qu.enable && qu.fifo.isEmpty then s.modQueue q f else s

/-- A queue's page (R253, R277). -/
def State.writeQueue (s : State) (q o : Nat) (v : Word) : State :=
  if o = 0 then s.writeQueueCfg q v
  else if o = 8 then s.writeBase q fun x => { x with sqLo := v }
  else if o = 0xC then s.writeBase q fun x => { x with sqHi := hi20 v }
  else if o = 0x10 then s.writeBase q fun x => { x with cqLo := v }
  else if o = 0x14 then s.writeBase q fun x => { x with cqHi := hi20 v }
  else if o = 0x20 then s.doorbell q v
  else if o = 0x28 then ((s.modQueue q fun x => { x with cqHead := v.toNat % 65536 }).ringRoomNow q).settle
  else if o = 0x34 then s.writeKill q v
  else if o = 0x38 then s.modQueue q fun x => { x with ringError := x.ringError && !v.getLsbD 1 }
  else if o = 0x150 then s.clearAcct false q v
  else s

/-- A partition's page (R196 to R198, R238, R239, R277, R317, R366). -/
def State.writePart (s : State) (p o : Nat) (v : Word) : State :=
  let n := v.toNat
  if o = 0x150 then s.clearAcct true p v
  else if o = 0x424 then s.modPart p fun x => { x with t3Ms := max 1 (bits n 9 0), t4Ms := max 1 (bits n 25 16) }
  else if o = 0x428 then s.modPart p fun x => { x with
    late := x.late && !v.getLsbD 0, failed := x.failed && !v.getLsbD 1, lostBit := x.lostBit && !v.getLsbD 2, reclaimBit := x.reclaimBit && !v.getLsbD 3 }
  else if o = 0x800 then s.modStream p fun x => { x with destLost := x.destLost && !v.getLsbD 3 }
  else if o = 0x80C then s.writeStreamTail p v
  else if o = 0x810 then s.writeDigest p v
  else if o = 0xA00 then s.writeAxes p v
  else if o = 0xA04 then s.modPart p fun x => { x with fabMs := max 1 (bits n 15 0) }
  else if o = 0xA10 then s.modPart p fun x => { x with winLo := v }
  else if o = 0xA14 then s.modPart p fun x => { x with winHi := hi20 v }
  else if o = 0xA18 then s.writeWin p v
  else if o = 0xC00 then s.modPart p fun x => { x with landLo := v }
  else if o = 0xC04 then s.modPart p fun x => { x with landHi := v &&& 0xFFFF#32 }
  else if o = 0xC08 then s.writeLand p v
  else if o = 0xC10 then s.writeLandHead p v
  else if o = 0xC18 then s.modPart p fun x => { x with landReq := bits n 15 0, landFilter := v.getLsbD 16 }
  else s

/-- The partition block's module-wide registers (R241 to R243, R248). -/
def State.writePartAll (s : State) (o : Nat) (v : Word) : State :=
  if o = 0x20 then (if s.anyPart then s else s.setMem { s.mem with t3Lo := v })
  else if o = 0x24 then (if s.anyPart then s else s.setMem { s.mem with t3Hi := hi20 v })
  else if o = 0x28 then s.writeT3 v
  else if o = 0x2C then s.writeLend v
  else if o = 0x34 then s.setMem { s.mem with cellarRate := bits v.toNat 15 0 }
  else if 0x40 ≤ o ∧ o < 0x60 then s.setMem { s.mem with lenders := updAt s.mem.lenders ((o - 0x40) / 4) fun _ => v &&& 0x800FFFFF#32 }
  else if o = 0x100 then s.modAdm fun a => { a with addrLo := v }
  else if o = 0x104 then s.modAdm fun a => { a with addrHi := hi20 v }
  else if o = 0x108 then (s.writeAdmit v).settle
  else s

/-- The power block (R432, R433). -/
def State.writePwr (s : State) (o : Nat) (v : Word) : State :=
  if o = 0 then s.writeCap v
  else if o = 4 then s.writeMode v
  else if o = 0x10 then s.writePeak v
  else if o = 0x1C then s.writeIdle v
  else if o = 0x24 then s.modPower fun p => { p with event := p.event &&& ~~~(v.setWidth 8) }
  else s

/-- A write of ERR_STATUS (R525). -/
def State.writeErrStatus (s : State) (v : Word) : State := s.modErr fun e => { e with overflow := e.overflow && !v.getLsbD 1, autoWarm := e.autoWarm && !v.getLsbD 3 }

/-- The error block (R525). -/
def State.writeErr (s : State) (o : Nat) (v : Word) : State :=
  if o = 0 then s.writeErrStatus v
  else if o = 4 then s.modErr fun e => { e with irqEn := v.setWidth 6, autoWarmEn := v.getLsbD 6 }
  else if o = 0xC then s.writeTail v
  else if o = 0x40 then s.writeTest v
  else s

/-- A port's page (R344, R345). -/
def State.writePortPage (s : State) (n o : Nat) (v : Word) : State :=
  if o < 0x1C then (s.writePort n (o / 4) v).pumpAll
  else if o = 0x1C then s.writePortCtrl n v []
  else if o = 0x24 then s.modPort n fun p => { p with
    evLink := p.evLink && !v.getLsbD 0, evLane := p.evLane && !v.getLsbD 1, evSpared := p.evSpared && !v.getLsbD 2, evHalved := p.evHalved && !v.getLsbD 3
    evStall := p.evStall && !v.getLsbD 4 }
  else if o = 0x144 then s.clearCounters n v
  else s

/-- PORT_FAB_SELF.VALID was `was`: with VALID 0 no packet leaves the egress queues, and with VALID 1 what waits is sent (R284). -/
def State.validChanged (s : State) (was : Bool) : State :=
  if was && !s.fab.valid then (List.range 16).foldl (fun s n => s.unqueue n Egr.isPft) s
  else if !was && s.fab.valid then s.pumpAll
  else s

/-- The fabric's own registers that are written only while no partition exists (R316); VALID stays 0 once the session counter is used up (R444). -/
def State.writeFabOwn (s : State) (o : Nat) (v : Word) : State :=
  let n := v.toNat
  if o = 4 then (s.modFab fun b => { b with ep := bits n 19 0, valid := v.getLsbD 31 && b.session != deadSession }).validChanged s.fab.valid
  else if o = 8 then s.modFab fun b => { b with encap := if bits n 1 0 = 3 then b.encap else bits n 1 0, payload := v.getLsbD 2, site := bits n 15 8 }
  else if o = 0xC then s.modFab fun b => { b with etype := bits n 15 0, udpPort := bits n 31 16 }
  else if o = 0x10 then s.modFab fun b => { b with net := bits n 7 0 }
  else if o = 0x14 then s.modFab fun b => { b with ip6Lo := v }
  else if o = 0x18 then s.modFab fun b => { b with ip6Hi := v }
  else s

/-- The port block's module-wide registers (R316, R346). -/
def State.writeFab (s : State) (o : Nat) (v : Word) : State :=
  let n := v.toNat
  if 4 ≤ o ∧ o < 0x1C then (if s.anyPart then s else s.writeFabOwn o v)
  else if o = 0x1C then s.modFab fun b => { b with rtoUs := max 1 (bits n 11 0), pathMs := max 1 (bits n 27 16) }
  else if o = 0x2C then s.modFab fun b => { b with lost := b.lost && !v.getLsbD 31 }
  else if o = 0x128 then s.modOptics fun x => { x with
    evShort := x.evShort && !v.getLsbD 0, evRail := x.evRail && !v.getLsbD 1, evSpared := x.evSpared && !v.getLsbD 2, evDark := x.evDark && !v.getLsbD 3
    evWorn := x.evWorn && !v.getLsbD 4 }
  else s

/-- The security block (R450, R452): GO starts OP. -/
def State.writeSec (s : State) (o : Nat) (v : Word) : State :=
  let n := v.toNat
  if o = 0 then (if v.getLsbD 8 then s.mboxGo (bits n 7 0) else s.modSec fun x => { x with op := bits n 7 0 })
  else if o = 4 then s.modSec fun x => { x with reqLen := bits n 12 0 }
  else if 0x1000 ≤ o ∧ o < 0x2000 then s.modSec fun x => { x with mbox := patch x.mbox (o - 0x1000) (leBytes 4 n) }
  else s

/-- Fuelagrim's port takes SIGN and the nonce (R460). -/
def State.writeMeter (s : State) (o : Nat) (v : Word) : State :=
  if o = 0x20 then s.writeSign v
  else if 0x40 ≤ o ∧ o < 0x60 then s.modMeter fun m => { m with nonce := updAt m.nonce ((o - 0x40) / 4) fun _ => v }
  else s

/-- A 32-bit write of the register at `off` while every register takes writes; RO and RWS fields and offsets without a register ignore it (R17, R353). -/
def State.writeReg (s : State) (off : Nat) (v : Word) : State :=
  match blockOf off with
  | 0 => s.writeId off v
  | 1 => s.writeQueue ((off - 0x10000) / 4096) ((off - 0x10000) % 4096) v
  | 2 =>
    if off < 0x110000 then s.writePart ((off - 0x100000) / 4096) ((off - 0x100000) % 4096) v
    else if 0x180000 ≤ off then s.writePartAll (off - 0x180000) v else s
  | 3 => s.writePwr (off - 0x200000) v
  | 4 => s.writeErr (off - 0x300000) v
  | 5 =>
    if off < 0x410000 then s.writePortPage ((off - 0x400000) / 4096) ((off - 0x400000) % 4096) v
    else if 0x480000 ≤ off then s.writeFab (off - 0x480000) v else s
  | 6 => s.writeSec (off - 0x500000) v
  | 7 => s.writeMeter (off - 0x600000) v
  | 9 => if off < 0x901000 then (s.setLink { s.link with msixTable := updAt s.link.msixTable ((off - 0x900000) / 4) fun _ => v }).flushVec else s
  | _ => s

/-- Offsets of the registers that take writes outside normal running. -/
abbrev offLevel : Nat := 0xC
abbrev offHostStatus : Nat := 0x208
abbrev offErrStatus : Nat := 0x300000
abbrev offErrTail : Nat := 0x30000C
abbrev offPwrIdle : Nat := 0x20001C

/-- The host's accesses reach the module (R350, R367, R369). -/
def State.hostReaches (s : State) : Bool := s.link.st != .down && !s.link.d3hot && !s.link.losing

/-- The register at `off` takes a write now (R375, R463, R465, R524). -/
def State.regOpen (s : State) (off : Nat) : Bool :=
  s.hostReaches && (match s.phase with
    | .run => true
    | .boot | .halted | .update => off == offLevel
    | .warm => off == offHostStatus
    | .stopped => off == offErrTail || off == offErrStatus
    | _ => false)

/-- One 32-bit write as the host makes it; only PWR_IDLE does not wake the module (R431). -/
def State.hostWriteReg (s : State) (off : Nat) (v : Word) : State :=
  if s.regOpen off then ((if off = offPwrIdle ∨ s.phase ≠ .run then s else s.wakeNow).hostAccess).writeReg off v else s

/-! The SMBus target (R495, R496). -/

/-- SB_EVENT bits are cleared; SMB_ALERT# is let go when no enabled bit is left (R496). -/
def State.clearSbEvent (s : State) (v : Word) : State :=
  s.modSteward fun w =>
    let e := w.sbEvent &&& ~~~(BitVec.ofNat 6 v.toNat)
    { w with sbEvent := e, alert := w.alert && (e &&& w.alertEn) != 0 }

/-- SB_ALERT_EN is written; a set bit that becomes enabled drives SMB_ALERT# (R496). -/
def State.writeAlertEn (s : State) (v : Word) : State :=
  s.modSteward fun w =>
    let en := BitVec.ofNat 6 v.toNat
    { w with alertEn := en, alert := (w.sbEvent &&& en) != 0 && (w.alert || (w.sbEvent &&& en &&& ~~~w.alertEn) != 0) }

/-- A poll in which every device answers and every segment passes. -/
def goodPoll : PollFacts := { nak := [], arbLost := 0, clears := 0, stuck := false, trunkOk := true, segOk := [0, 1, 2] }

/-- The length that a block write of an SB_ register has; none for an unknown code (R495). -/
def sbLengthOk (code n : Nat) : Bool := if code = 0x11 then decide (1 ≤ n ∧ n ≤ 255) else decide (code ≤ 9 ∨ code = 0x10) && n == 4

/-- A block write over the SMBus: one with an unknown code, a wrong byte count or a bad PEC byte is discarded and sets BAD_CMD (R495, R496). -/
def State.smbusWrite (s : State) (code : Nat) (data : Bytes) (pecOk : Bool) : Result :=
  let v := BitVec.ofNat 32 (field data 0 4)
  if !s.smbOpen then .next s
  else if !(pecOk && sbLengthOk code data.length) then .next (s.sbSet 5)
  else if code = 0x02 then execSbCapWrite v s
  else if code = 0x05 then .next (s.clearSbEvent v)
  else if code = 0x06 then .next (s.writeAlertEn v)
  else if code = 0x08 then execRetest v goodPoll s
  else if code = 0x10 then execUpdate v s
  else if code = 0x11 then execSbBootDataWrite data s
  else .next s

/-- SB_BOOT_CTRL (R480). -/
def State.sbBootWord (s : State) : Word :=
  fieldsWord [flagBit 0 s.boot.updReq, flagBit 3 (s.phase == .update), flagBit 4 s.boot.updDone, (16, 31, s.boot.updStatus)]

/-- What an SB_ register reads as; in the halted and update states only those that R465 names (R495, R496). -/
def State.readSb (s : State) (code : Nat) : Word :=
  if !s.smbOpen then 0
  else if code = 0x00 then BitVec.ofNat 32 idDevice
  else if code = 0x01 then (if s.phase = .run then s.steward.mStatus else s.sbStatusWord)
  else if code = 0x05 then fieldsWord [(0, 5, s.steward.sbEvent.toNat)]
  else if code = 0x06 then fieldsWord [(0, 5, s.steward.alertEn.toNat)]
  else if code = 0x10 then s.sbBootWord
  else if !s.smbFull then 0
  else if code = 0x02 then fieldsWord [(0, 10, s.power.boardCap)]
  else if code = 0x03 then fieldsWord [(0, 15, s.steward.mPower), (16, 26, s.steward.mCap)]
  else if code = 0x04 then s.steward.mTherm
  else if code = 0x07 then s.steward.mLoad
  else if code = 0x08 then fieldsWord [(0, 5, s.steward.margin)]
  else if code = 0x09 then s.sensorWord
  else 0

/-- A write of a configuration register, which arrives while configuration requests are answered (R348, R351, R369; log entry 108). -/
def State.writeConfig (s : State) (r : CfgReg) (v : Word) : State :=
  let c := s.link.cfg
  let n := v.toNat
  let put : CfgSpace → State := fun c => s.setLink { s.link with cfg := c }
  if s.link.st == .down || !s.link.cfgOk then s
  else match r with
    | .command => put { c with command := BitVec.ofNat 2 (n / 2) }
    | .bar0Lo => put { c with bar0 := c.bar0 / 256 * 256 + bits n 31 24 }
    | .bar0Hi => put { c with bar0 := n * 256 + c.bar0 % 256 }
    | .bar2Lo => put { c with bar2 := c.bar2 / 16 * 16 + bits n 31 28 }
    | .bar2Hi => put { c with bar2 := n * 16 + c.bar2 % 16 }
    | .devControl => put { c with mps := if bits n 7 5 ≤ 2 then bits n 7 5 else c.mps, mrrs := if bits n 14 12 ≤ 5 then bits n 14 12 else c.mrrs }
    | .linkControl => put { c with aspm := bit n 1 }
    | _ => s

/-- REGISTER_WRITE (R17 to R19, R351, R495): a 32-bit write, or a 64-bit write whose lower half takes effect first, one that is not aligned being discarded (R353); or a block write over the SMBus. -/
def execRegisterWrite (w : RegWrite) (s : State) : Result :=
  match w with
  | .bar0 off lo none => if off.toNat % 4 = 0 then .next (s.hostWriteReg off.toNat lo) else .next s
  | .bar0 off lo (some h) => if off.toNat % 8 = 0 then .next ((s.hostWriteReg off.toNat lo).hostWriteReg (off.toNat + 4) h) else .next s
  | .smbus code data pecOk => s.smbusWrite code.toNat data pecOk
  | .config r v => .next (s.writeConfig r v)

end Sys2Proof.Machine
end

