-- ==== Sys2Proof/Machine/Dispatch.lean ====
section
/-! DEFINITION. The dispatch: one arm per command, each a direct call of its meaning. -/

namespace Sys2Proof.Machine

/-- The effect of a command on everything but the queue of waiting commands. -/
def exec (i : Instr) (s : State) : Host.Outcome State Fault Refusal :=
  match i with
  | .powerUp f => Sys2Proof.Machine.execPowerUp f s
  | .powerLoss => Sys2Proof.Machine.execPowerLoss s
  | .restartDelayExpiry f => Sys2Proof.Machine.execRestartDelayExpiry f s
  | .pwrBrakeAssert => Sys2Proof.Machine.execPwrBrakeAssert s
  | .pwrBrakeRelease => Sys2Proof.Machine.execPwrBrakeRelease s
  | .hostLossReset cause => Sys2Proof.Machine.execHostLossReset cause s
  | .flushTimeout => Sys2Proof.Machine.execFlushTimeout s
  | .linkRecovery => Sys2Proof.Machine.execLinkRecovery s
  | .linkReturnL0 speed width => Sys2Proof.Machine.execLinkReturnL0 speed width s
  | .linkLossTimeout => Sys2Proof.Machine.execLinkLossTimeout s
  | .d3hotEntry => Sys2Proof.Machine.execD3hotEntry s
  | .d0Return host => Sys2Proof.Machine.execD0Return host s
  | .warmReset v f => Sys2Proof.Machine.execWarmReset v f s
  | .warmResetTimeout => Sys2Proof.Machine.execWarmResetTimeout s
  | .idHostLevelWrite v => Sys2Proof.Machine.execIdHostLevelWrite v s
  | .registerWrite w => Sys2Proof.Machine.execRegisterWrite w s
  | .bar0AccessInvalid off size write => Sys2Proof.Machine.execBar0AccessInvalid off size write s
  | .bar2Read off => Sys2Proof.Machine.execBar2Read off s
  | .doorbell q v host => Sys2Proof.Machine.execDoorbell q v host s
  | .nop q => Sys2Proof.Machine.execNop q s
  | .product q => Sys2Proof.Machine.execProduct q s
  | .chained q => Sys2Proof.Machine.execChained q s
  | .collective q => Sys2Proof.Machine.execCollective q s
  | .exchange q => Sys2Proof.Machine.execExchange q s
  | .finish q => Sys2Proof.Machine.execFinish q s
  | .optimiser q => Sys2Proof.Machine.execOptimiser q s
  | .copyIn q host => Sys2Proof.Machine.execCopyIn q host s
  | .copyOut q => Sys2Proof.Machine.execCopyOut q s
  | .copy q => Sys2Proof.Machine.execCopy q s
  | .mapRegion q => Sys2Proof.Machine.execMapRegion q s
  | .unmapRegion q => Sys2Proof.Machine.execUnmapRegion q s
  | .registerGset q => Sys2Proof.Machine.execRegisterGset q s
  | .releaseGset q => Sys2Proof.Machine.execReleaseGset q s
  | .streamConfig q => Sys2Proof.Machine.execStreamConfig q s
  | .stepMark q => Sys2Proof.Machine.execStepMark q s
  | .commit q => Sys2Proof.Machine.execCommit q s
  | .completionRingRoom q => Sys2Proof.Machine.execCompletionRingRoom q s
  | .stagingWaitEnd q => Sys2Proof.Machine.execStagingWaitEnd q s
  | .creditGrant r p units => Sys2Proof.Machine.execCreditGrant r p units s
  | .poolWaitEnd p => Sys2Proof.Machine.execPoolWaitEnd p s
  | .tileAccept q => Sys2Proof.Machine.execTileAccept q s
  | .kill q v => Sys2Proof.Machine.execKill q v s
  | .killAll q v => Sys2Proof.Machine.execKillAll q v s
  | .c0BudgetExceeded q => Sys2Proof.Machine.execC0BudgetExceeded q s
  | .tokenRefill p => Sys2Proof.Machine.execTokenRefill p s
  | .fma core a => Sys2Proof.Machine.execFma core a s
  | .add core a => Sys2Proof.Machine.execAdd core a s
  | .mul core a => Sys2Proof.Machine.execMul core a s
  | .vmax core a => Sys2Proof.Machine.execVmax core a s
  | .vmin core a => Sys2Proof.Machine.execVmin core a s
  | .cmplt core a => Sys2Proof.Machine.execCmplt core a s
  | .sel core a => Sys2Proof.Machine.execSel core a s
  | .exp2 core a => Sys2Proof.Machine.execExp2 core a s
  | .log2 core a => Sys2Proof.Machine.execLog2 core a s
  | .rcp core a => Sys2Proof.Machine.execRcp core a s
  | .rsqrt core a => Sys2Proof.Machine.execRsqrt core a s
  | .rsum core a => Sys2Proof.Machine.execRsum core a s
  | .rmax core a => Sys2Proof.Machine.execRmax core a s
  | .cvt core a => Sys2Proof.Machine.execCvt core a s
  | .qnt core a => Sys2Proof.Machine.execQnt core a s
  | .accRead core a => Sys2Proof.Machine.execAccRead core a s
  | .ld core a => Sys2Proof.Machine.execLd core a s
  | .st core a => Sys2Proof.Machine.execSt core a s
  | .bcast core a => Sys2Proof.Machine.execBcast core a s
  | .loopRep core a => Sys2Proof.Machine.execLoopRep core a s
  | .endTile core a => Sys2Proof.Machine.execEndTile core a s
  | .sendTile core a => Sys2Proof.Machine.execSendTile core a s
  | .admitPart v host => Sys2Proof.Machine.execAdmit v host s
  | .modify v host => Sys2Proof.Machine.execModify v host s
  | .partitionReset v => Sys2Proof.Machine.execPartitionReset v s
  | .grant v host => Sys2Proof.Machine.execGrant v host s
  | .revoke v => Sys2Proof.Machine.execRevoke v s
  | .lendMaxWrite v => Sys2Proof.Machine.execLendMaxWrite v s
  | .windowOpen p v host => Sys2Proof.Machine.execWindowOpen p v host s
  | .windowClose p v => Sys2Proof.Machine.execWindowClose p v s
  | .partJobAxesWrite p v => Sys2Proof.Machine.execPartJobAxesWrite p v s
  | .bind p v => Sys2Proof.Machine.execBind p v s
  | .unbind p v => Sys2Proof.Machine.execUnbind p v s
  | .partLandHeadWrite p v => Sys2Proof.Machine.execPartLandHeadWrite p v s
  | .partStreamTailWrite p v => Sys2Proof.Machine.execPartStreamTailWrite p v s
  | .resume p v => Sys2Proof.Machine.execResume p v s
  | .readout v ok => Sys2Proof.Machine.execReadout v ok s
  | .discard v => Sys2Proof.Machine.execDiscard v s
  | .getChain => Sys2Proof.Machine.execGetChain s
  | .getMeterChain => Sys2Proof.Machine.execGetMeterChain s
  | .peerAdd => Sys2Proof.Machine.execPeerAdd s
  | .peerRemove => Sys2Proof.Machine.execPeerRemove s
  | .peerClear => Sys2Proof.Machine.execPeerClear s
  | .debugOpen => Sys2Proof.Machine.execDebugOpen s
  | .getVersion req => Sys2Proof.Machine.execGetVersion req s
  | .getCapabilities req => Sys2Proof.Machine.execGetCapabilities req s
  | .negotiateAlgorithms req => Sys2Proof.Machine.execNegotiateAlgorithms req s
  | .getDigests req => Sys2Proof.Machine.execGetDigests req s
  | .getCertificate req slot offset len => Sys2Proof.Machine.execGetCertificate req slot offset len s
  | .challenge req slot nonce => Sys2Proof.Machine.execChallenge req slot nonce s
  | .getMeasurements req index signed nonce => Sys2Proof.Machine.execGetMeasurements req index signed nonce s
  | .sign v => Sys2Proof.Machine.execSign v s
  | .pwrPeakClear v => Sys2Proof.Machine.execPwrPeakClear v s
  | .pwrCapWrite v => Sys2Proof.Machine.execPwrCapWrite v s
  | .modeWrite v => Sys2Proof.Machine.execModeWrite v s
  | .pwrIdleWrite v => Sys2Proof.Machine.execPwrIdleWrite v s
  | .portCfgWrite port reg v => Sys2Proof.Machine.execPortCfgWrite port reg v s
  | .retryFull port v faults => Sys2Proof.Machine.execRetryFull port v faults s
  | .portCntClear port v => Sys2Proof.Machine.execPortCntClear port v s
  | .acctClear part n v => Sys2Proof.Machine.execAcctClear part n v s
  | .errLogTailWrite v => Sys2Proof.Machine.execErrLogTailWrite v s
  | .testStart v => Sys2Proof.Machine.execTestStart v s
  | .fence v => Sys2Proof.Machine.execFence v s
  | .landingDataWrite off data requester => Sys2Proof.Machine.execLandingDataWrite off data requester s
  | .tailDoorbell p v requester => Sys2Proof.Machine.execTailDoorbell p v requester s
  | .update v => Sys2Proof.Machine.execUpdate v s
  | .sbBootDataWrite data => Sys2Proof.Machine.execSbBootDataWrite data s
  | .sbBootCommit v => Sys2Proof.Machine.execSbBootCommit v s
  | .sbBootAbort v => Sys2Proof.Machine.execSbBootAbort v s
  | .sbCapWrite v => Sys2Proof.Machine.execSbCapWrite v s
  | .retest v f => Sys2Proof.Machine.execRetest v f s
  | .alertResponse => Sys2Proof.Machine.execAlertResponse s
  | .smbusTimeout => Sys2Proof.Machine.execSmbusTimeout s
  | .windowTile h window attempt offset data => Sys2Proof.Machine.execWindowTile h window attempt offset data s
  | .collectivePiece h attempt coll offset data => Sys2Proof.Machine.execCollectivePiece h attempt coll offset data s
  | .collectivePull h attempt coll offset len => Sys2Proof.Machine.execCollectivePull h attempt coll offset len s
  | .collectiveAbort h attempt coll => Sys2Proof.Machine.execCollectiveAbort h attempt coll s
  | .collectiveAnnouncement h attempt coll value => Sys2Proof.Machine.execCollectiveAnnouncement h attempt coll value s
  | .cellarRequest h number lease offset len data => Sys2Proof.Machine.execCellarRequest h number lease offset len data s
  | .leaseRequest h bpart slabs => Sys2Proof.Machine.execLeaseRequest h bpart slabs s
  | .leaseGrant h bpart lease slabs noticeMs => Sys2Proof.Machine.execLeaseGrant h bpart lease slabs noticeMs s
  | .leaseRefuse h bpart => Sys2Proof.Machine.execLeaseRefuse h bpart s
  | .leaseReclaim h bpart lease noticeMs => Sys2Proof.Machine.execLeaseReclaim h bpart lease noticeMs s
  | .leaseRelease h bpart lease => Sys2Proof.Machine.execLeaseRelease h bpart lease s
  | .digestMessage h member step digest => Sys2Proof.Machine.execDigestMessage h member step digest s
  | .ack h cum bitmap => Sys2Proof.Machine.execAck h cum bitmap s
  | .noticeCommit h window attempt bytes tag => Sys2Proof.Machine.execNoticeCommit h window attempt bytes tag s
  | .noticeAbort h window attempt => Sys2Proof.Machine.execNoticeAbort h window attempt s
  | .ackTimer ep cls => Sys2Proof.Machine.execAckTimer ep cls s
  | .rtoExpiry ep cls seq => Sys2Proof.Machine.execRtoExpiry ep cls seq s
  | .portDown port => Sys2Proof.Machine.execPortDown port s
  | .requestDeadline r => Sys2Proof.Machine.execRequestDeadline r s
  | .endpointUnreachable ep => Sys2Proof.Machine.execEndpointUnreachable ep s
  | .lenderTimeout p => Sys2Proof.Machine.execLenderTimeout p s
  | .leaseAdmissionDeadline p => Sys2Proof.Machine.execLeaseAdmissionDeadline p s
  | .borrowerUnreachableEnd ep => Sys2Proof.Machine.execBorrowerUnreachableEnd ep s
  | .reclaimDeadline p lease => Sys2Proof.Machine.execReclaimDeadline p lease s
  | .reclaimNoticeEnd p lease => Sys2Proof.Machine.execReclaimNoticeEnd p lease s
  | .lenderNoticeExpiry lease => Sys2Proof.Machine.execLenderNoticeExpiry lease s
  | .missingTilesDeadline p window ep spart => Sys2Proof.Machine.execMissingTilesDeadline p window ep spart s
  | .pauseFrame rx time => Sys2Proof.Machine.execPauseFrame rx time s
  | .pfcFrame rx vector times => Sys2Proof.Machine.execPfcFrame rx vector times s
  | .pauseExpiry of q => Sys2Proof.Machine.execPauseExpiry of q s
  | .arpRequest port sub target => Sys2Proof.Machine.execArpRequest port sub target s
  | .neighbourSolicitation port sub target => Sys2Proof.Machine.execNeighbourSolicitation port sub target s
  | .frameReceive port sub f => Sys2Proof.Machine.execFrameReceive port sub f s
  | .ingressHigh port sub k => Sys2Proof.Machine.execIngressHigh port sub k s
  | .pauseRepeat port sub k => Sys2Proof.Machine.execPauseRepeat port sub k s
  | .ingressLow port sub k drained => Sys2Proof.Machine.execIngressLow port sub k drained s
  | .flowStall port => Sys2Proof.Machine.execFlowStall port s
  | .stallClear port => Sys2Proof.Machine.execStallClear port s
  | .laneFailure port lane tx found => Sys2Proof.Machine.execLaneFailure port lane tx found s
  | .subportUp port sub => Sys2Proof.Machine.execSubportUp port sub s
  | .trainingRetry port sub trained => Sys2Proof.Machine.execTrainingRetry port sub trained s
  | .laserShort ch => Sys2Proof.Machine.execLaserShort ch s
  | .laserRailRegulated => Sys2Proof.Machine.execLaserRailRegulated s
  | .laserRailFault => Sys2Proof.Machine.execLaserRailFault s
  | .laserRestart => Sys2Proof.Machine.execLaserRestart s
  | .laserRampDone ch => Sys2Proof.Machine.execLaserRampDone ch s
  | .laserWorn ch => Sys2Proof.Machine.execLaserWorn ch s
  | .engineHot e => Sys2Proof.Machine.execEngineHot e s
  | .engineOverheat e => Sys2Proof.Machine.execEngineOverheat e s
  | .engineCooled e => Sys2Proof.Machine.execEngineCooled e s
  | .laneLock l dir lane rx => Sys2Proof.Machine.execLaneLock l dir lane rx s
  | .lockTimeout l dir lane => Sys2Proof.Machine.execLockTimeout l dir lane s
  | .lossOfLock l dir lane => Sys2Proof.Machine.execLossOfLock l dir lane s
  | .flitCrcFail l dir lane seq => Sys2Proof.Machine.execFlitCrcFail l dir lane seq s
  | .nak l dir lane seq sent => Sys2Proof.Machine.execNak l dir lane seq sent s
  | .dieLaneFailure l dir lane => Sys2Proof.Machine.execDieLaneFailure l dir lane s
  | .islandClose x => Sys2Proof.Machine.execIslandClose x s
  | .closeAbandon x => Sys2Proof.Machine.execCloseAbandon x s
  | .packetHeld x pkt => Sys2Proof.Machine.execPacketHeld x pkt s
  | .islandWakeDone x => Sys2Proof.Machine.execIslandWakeDone x s
  | .returnedPacketResend x pkt => Sys2Proof.Machine.execReturnedPacketResend x pkt s
  | .wakeTimeout x f => Sys2Proof.Machine.execWakeTimeout x f s
  | .readRequest agent line => Sys2Proof.Machine.execReadRequest agent line s
  | .ownershipRequest agent line => Sys2Proof.Machine.execOwnershipRequest agent line s
  | .writeback agent line data => Sys2Proof.Machine.execWriteback agent line data s
  | .hostSnoop line inv => Sys2Proof.Machine.execHostSnoop line inv s
  | .memoryRead addr len => Sys2Proof.Machine.execMemoryRead addr len s
  | .memoryWrite addr data => Sys2Proof.Machine.execMemoryWrite addr data s
  | .guestLinkDown => Sys2Proof.Machine.execGuestLinkDown s
  | .powerWindow events pstatic => Sys2Proof.Machine.execPowerWindow events pstatic s
  | .correctionUpdate meter est => Sys2Proof.Machine.execCorrectionUpdate meter est s
  | .learningUpdate m => Sys2Proof.Machine.execLearningUpdate m s
  | .sensorRead t => Sys2Proof.Machine.execSensorRead t s
  | .throttleTick => Sys2Proof.Machine.execThrottleTick s
  | .thermalTrip x celsius => Sys2Proof.Machine.execThermalTrip x celsius s
  | .tripRecovery => Sys2Proof.Machine.execTripRecovery s
  | .droopTrip cdie => Sys2Proof.Machine.execDroopTrip cdie s
  | .droopRecovery cdie => Sys2Proof.Machine.execDroopRecovery cdie s
  | .s2Entry core => Sys2Proof.Machine.execS2Entry core s
  | .s3Entry => Sys2Proof.Machine.execS3Entry s
  | .wake => Sys2Proof.Machine.execWake s
  | .rebalance => Sys2Proof.Machine.execRebalance s
  | .accessCountHalving => Sys2Proof.Machine.execAccessCountHalving s
  | .migrationCopyDone slab => Sys2Proof.Machine.execMigrationCopyDone slab s
  | .sourceFrameFree slab => Sys2Proof.Machine.execSourceFrameFree slab s
  | .tierDeadline q slab => Sys2Proof.Machine.execTierDeadline q slab s
  | .transferErrorAnswer q slab => Sys2Proof.Machine.execTransferErrorAnswer q slab s
  | .uncorrectableRead addr unit k second => Sys2Proof.Machine.execUncorrectableRead addr unit k second s
  | .correctedError pl slice unit => Sys2Proof.Machine.execCorrectedError pl slice unit s
  | .frameWithdraw slice => Sys2Proof.Machine.execFrameWithdraw slice s
  | .pcMoveDone pc lost => Sys2Proof.Machine.execPcMoveDone pc lost s
  | .epochEnd p => Sys2Proof.Machine.execEpochEnd p s
  | .digestTimeout p => Sys2Proof.Machine.execDigestTimeout p s
  | .ringFullTimeout p => Sys2Proof.Machine.execRingFullTimeout p s
  | .loadWindow load waitUs => Sys2Proof.Machine.execLoadWindow load waitUs s
  | .watchdogExpiry f => Sys2Proof.Machine.execWatchdogExpiry f s
  | .sensorPoll slow f => Sys2Proof.Machine.execSensorPoll slow f s
  | .fieldRecordWrite record ok1 ok2 => Sys2Proof.Machine.execFieldRecordWrite record ok1 ok2 s
  | .fuelagrimSecond mj overRange checkOk => Sys2Proof.Machine.execFuelagrimSecond mj overRange checkOk s
  | .meterRecord => Sys2Proof.Machine.execMeterRecord s
  | .meterTagRetry => Sys2Proof.Machine.execMeterTagRetry s
  | .parameterSetLoad => Sys2Proof.Machine.execParameterSetLoad s
  | .statusRecordRetry => Sys2Proof.Machine.execStatusRecordRetry s
  | .inventory => Sys2Proof.Machine.execInventory s
  | .stayQuiet => Sys2Proof.Machine.execStayQuiet s
  | .select => Sys2Proof.Machine.execSelect s
  | .resetToReady => Sys2Proof.Machine.execResetToReady s
  | .readSingleBlock block => Sys2Proof.Machine.execReadSingleBlock block s
  | .readMultipleBlocks block count => Sys2Proof.Machine.execReadMultipleBlocks block count s
  | .writeSingleBlock block data => Sys2Proof.Machine.execWriteSingleBlock block data s
  | .getSystemInformation => Sys2Proof.Machine.execGetSystemInformation s
  | .coreFault core cause badSpares => Sys2Proof.Machine.execCoreFault core cause badSpares s
  | .noProgressTimeout core badSpares => Sys2Proof.Machine.execNoProgressTimeout core badSpares s
  | .testIntervalDue core => Sys2Proof.Machine.execTestIntervalDue core s
  | .inFieldTest => Sys2Proof.Machine.execInFieldTest s
  | .inFieldTestDone core bistOk marginOk badSpares => Sys2Proof.Machine.execInFieldTestDone core bistOk marginOk badSpares s
  | .hubSramUncorrectable f => Sys2Proof.Machine.execHubSramUncorrectable f s
  | .partitionResetOverrun p f => Sys2Proof.Machine.execPartitionResetOverrun p f s
  | .linkReachesL0 speed width flit cxlCache => Sys2Proof.Machine.execLinkReachesL0 speed width flit cxlCache s
  | .firstBar0AccessAfterHostLoss => Sys2Proof.Machine.execFirstBar0AccessAfterHostLoss s
  | .rfFieldPresent => Sys2Proof.Machine.execRfFieldPresent s
  | .fieldCollapse => Sys2Proof.Machine.execFieldCollapse s

end Sys2Proof.Machine
end

