-- ==== Sys2Proof/Safety.lean ====
section
/-! DEFINITION. What the claims call safe: the canonical form of every memory, the status words that fit their fields, and a step that goes on. -/

namespace Sys2Proof.Safety

open Sys2Proof.Machine

/-- Both memories of the module's state have the canonical form (R204, R224). -/
def MemoryCanonical (s : State) : Prop := Memory.wf s.mem.dev = true ∧ Memory.wf s.mem.hostMem = true

/-- The effective level is the lower of the module's level and the host's (R6, R8). -/
def LevelAgrees (s : State) : Prop := s.link.effLevel = effLevelOf s.link.hostLevel

/-- MOD_READY is high only while the module runs (R40). -/
def ReadyOnlyRunning (s : State) : Prop := s.pins.ready = true → s.phase = .run

/-- The step goes on to a next state. -/
def GoesOn (s : State) : Prop := ∃ t, step s = .next t

end Sys2Proof.Safety
end

