-- ==== Sys2Proof/Certificates/Slice0/Obligations.lean ====
section
/-! DEFINITION. The statements for the provers, family by family; each names the rules that it formalises. -/

open Sys2Proof
open Sys2Proof.Machine

namespace Sys2Proof.Claims

/-- The state in which a BAR0 write finds the registers: the module is awake and the access has been seen (R354, R431). -/
def atBar0 (s : State) : State := s.wakeNow.hostAccess

/-- Byte `a` of the device range. -/
def devByte (s : State) (a : Nat) : Byte := Memory.get s.mem.dev a

/-- Byte `a` of host memory. -/
def hostByte (s : State) (a : Nat) : Byte := Memory.get s.mem.hostMem a

/-- Every byte of both memories reads in `t` as in `s`. -/
def SameMemory (s t : State) : Prop := (∀ a, devByte t a = devByte s a) ∧ (∀ a, hostByte t a = hostByte s a)

/-- A command that the model answers with a next state. -/
def Completes (c : Instr) (s t : State) : Prop := exec c s = .next t

end Sys2Proof.Claims

/-- For every command c, queue rest r and state s whose queue is c followed by r, the step answers what exec answers for c on s with the queue r. On an empty queue the step answers the state after one idle microsecond, whose time is one more. What an idle step does is the model's choice (log entry 1). (R16, 01_package_and_module.md.) -/
def Obligations.StepRunsFrontCommand : Prop :=
  (∀ (c : Instr) (r : List Instr) (s : State), s.pending = c :: r → Machine.step s = exec c (s.setPending r)) ∧
  (∀ s : State, s.pending = [] → Machine.step s = .next s.idle) ∧
  (∀ s : State, s.phase = .run → s.err.irqPend = false → s.idle.nowUs = s.nowUs + 1)

/-- For every state s whose device range and host memory are in canonical form (addresses strictly rising, no byte listed that an unlisted address reads as), if the step answers a next state t then both memories of t are in canonical form. The canonical form is the model's own (log entry 4). (R200, R204, 06_memory_and_placement.md.) -/
def Obligations.EveryStepKeepsMemoryCanonical : Prop :=
  ∀ s t : State, Safety.MemoryCanonical s → Machine.step s = .next t → Safety.MemoryCanonical t

/-- For every command c and states s and t, if exec of c on s answers t then the queue of waiting commands of t is that of s. A step therefore removes exactly the command that it runs. The queue is the model's own. (R16, 01_package_and_module.md.) -/
def Obligations.EveryCommandLeavesTheQueue : Prop :=
  (∀ (c : Instr) (s t : State), exec c s = .next t → t.pending = s.pending) ∧
  (∀ (c : Instr) (r : List Instr) (s t : State), s.pending = c :: r → Machine.step s = .next t → t.pending = r)

/-- For every state s in which ID_EFFECTIVE_LEVEL holds the lower of ID_ARCH_LEVEL (1) and ID_HOST_LEVEL, if the step answers a next state t then ID_EFFECTIVE_LEVEL of t holds the lower of the two levels of t; the BAR0 words at 0x10, 0x08 and 0x0C read so, and bits 31 to 8 of each read 0. ID_EFFECTIVE_LEVEL reads 0 at reset, and no write of it has an effect. (R8.) -/
def Obligations.EveryStepKeepsEffectiveLevel : Prop :=
  (∀ s t : State, s.link.effLevel = min 1 s.link.hostLevel → Machine.step s = .next t → t.link.effLevel = min 1 t.link.hostLevel) ∧
  (∀ s : State, s.link.effLevel = min 1 s.link.hostLevel → s.link.hostLevel < 256 → s.phase = .run →
    s.readReg 0x8 = 1 ∧ s.readReg 0xC = BitVec.ofNat 32 s.link.hostLevel ∧ s.readReg 0x10 = BitVec.ofNat 32 (min 1 s.link.hostLevel)) ∧
  State.reset.link.effLevel = 0 ∧ State.reset.readReg 0x10 = 0 ∧ (∀ (s : State) (v : Word), s.writeReg 0x10 v = s)

/-- For every state s in which MOD_READY is high only in the running phase, if the step answers a next state t then MOD_READY of t is high only in the running phase: it is low while the rails are off, during start-up and a warm reset, while start-up is halted, in the update state and in the stopped state. (R40, R462, R465, R481, R482, R524.) -/
def Obligations.EveryStepKeepsReadyPinHonest : Prop :=
  ∀ s t : State, Safety.ReadyOnlyRunning s → Machine.step s = .next t → Safety.ReadyOnlyRunning t

/-- At reset both memories are in canonical form, the level in force is the lower of the two levels, MOD_READY is low, no command waits, there are 64 queues, 16 partitions, 864 cores and 16 ports, and no partition is admitted. (R8, R40, R200.) -/
def Obligations.ResetMeetsEveryInvariant : Prop :=
  Safety.MemoryCanonical State.reset ∧ State.reset.link.effLevel = min 1 State.reset.link.hostLevel ∧
    Safety.ReadyOnlyRunning State.reset ∧ State.reset.pending = [] ∧ State.reset.pins.ready = false ∧
    State.reset.queues.length = 64 ∧ State.reset.parts.length = 16 ∧ State.reset.cores.length = 864 ∧ State.reset.optics.ports.length = 16 ∧
    State.reset.anyPart = false

/-- For every command c and state s, exec of c on s answers a next state, so a step from every state answers one. An access past the end of a window, which R353 and R362 have discarded or completed with Unsupported Request, stops nothing. A step on an empty queue idles (log entry 1). (R348, R353, R362, 10_host_link.md.) -/
def Obligations.EveryCommandGoesOn : Prop :=
  (∀ (c : Instr) (s : State), ∃ t, exec c s = .next t) ∧ (∀ s : State, ∃ t, Machine.step s = .next t)

namespace Sys2Proof.Claims

/-- The vector engine on which the next instruction of core `k` runs: the tile in progress, or the next tile of the command that holds the core. -/
def engineAt (s : State) (k : Nat) : TileCtx := s.openTile k

/-- Core `k` is in service (R24), and its tile has executed fewer than 65,536 instructions (R140). -/
def TileReady (s : State) (k : Fin 864) : Prop := s.coreOn k.val = true ∧ (engineAt s k.val).done < 65536

/-- The tile-program instructions of core `k` with the operand fields `a`. -/
def tileInstrs (k : Fin 864) (a : TileArgs) : List Instr :=
  [.fma k a, .add k a, .mul k a, .vmax k a, .vmin k a, .cmplt k a, .sel k a, .exp2 k a, .log2 k a, .rcp k a, .rsqrt k a, .rsum k a, .rmax k a, .cvt k a,
    .qnt k a, .accRead k a, .ld k a, .st k a, .bcast k a, .loopRep k a, .endTile k a, .sendTile k a]

/-- `t` differs from `s` in the engine of core `k` only, which has counted one instruction more than `c`. -/
def OneEngine (s t : State) (k : Nat) (c : TileCtx) : Prop :=
  t = s.setEngines t.engines ∧ (∀ j, j ≠ k → t.engine j = s.engine j) ∧ (t.engine k).done = c.done + 1

/-- Between `c` and `d` no vector register but `r` and no buffer has changed. -/
def OnlyRegister (c d : TileCtx) (r : Nat) : Prop :=
  (∀ x, x ≠ r → d.reg x = c.reg x) ∧ d.out = c.out ∧ d.scratch = c.scratch ∧ d.param = c.param ∧ d.resid = c.resid ∧ d.acc = c.acc ∧ d.sends = c.sends

/-- An arithmetic instruction of core `k` writes `v` to VD and changes nothing else that a program or another core can see. -/
def WritesVd (c : Instr) (s : State) (k : Nat) (a : TileArgs) (v : List Word) : Prop :=
  ∃ t, exec c s = .next t ∧ OneEngine s t k (engineAt s k) ∧ (t.engine k).reg a.vd.toNat = v ∧ OnlyRegister (engineAt s k) (t.engine k) a.vd.toNat

end Sys2Proof.Claims

/-- For every core in service, operand fields and state in which the tile has executed fewer than 65,536 instructions, each of FMA, ADD, MUL, MAX, MIN, EXP2, LOG2, RCP and RSQRT answers a next state in which VD holds the operation's FP32 result of each lane of VA, VB and VC; every other vector register, every buffer, every other engine and every other part of the state is unchanged, and the instruction is counted. A core that is not in service (spare, failed or fused off) is powered down: each of the 22 tile-program instructions leaves it and the whole state as they are. (R24, R138, R139, R109.) -/
def Obligations.TileArithmeticWritesLanes : Prop :=
  (  ∀ (core : Fin 864) (a : TileArgs) (s : State), Claims.TileReady s core →
    let c := Claims.engineAt s core.val
    let va := c.reg a.va.toNat
    let vb := c.reg a.vb.toNat
    let vc := c.reg a.vc.toNat
    Claims.WritesVd (.fma core a) s core.val a (lanes3 fFma va vb vc) ∧
    Claims.WritesVd (.add core a) s core.val a (lanes2 fAdd va vb) ∧
    Claims.WritesVd (.mul core a) s core.val a (lanes2 fMul va vb) ∧
    Claims.WritesVd (.vmax core a) s core.val a (lanes2 fMax va vb) ∧
    Claims.WritesVd (.vmin core a) s core.val a (lanes2 fMin va vb) ∧
    Claims.WritesVd (.exp2 core a) s core.val a (va.map fExp2) ∧
    Claims.WritesVd (.log2 core a) s core.val a (va.map fLog2) ∧
    Claims.WritesVd (.rcp core a) s core.val a (va.map fRcp) ∧
    Claims.WritesVd (.rsqrt core a) s core.val a (va.map fRsqrt)) ∧
  (∀ (core : Fin 864) (a : TileArgs) (s : State) (i : Instr), s.coreOn core.val = false → i ∈ Claims.tileInstrs core a → exec i s = .next s)

/-- For every core in service, operand fields and state in which the tile has executed fewer than 65,536 instructions: CMPLT answers a next state in which lane i of VD, read as a mask, is selected exactly when lane i of VA is less than lane i of VB; SEL writes to lane i of VD the lane of VA where VC selects it and of VB elsewhere; RSUM and RMAX write the lane sum and the lane maximum of VA to all 128 lanes of VD. Nothing else changes. (R138, R139.) -/
def Obligations.TileMasksAndReductions : Prop :=
  ∀ (core : Fin 864) (a : TileArgs) (s : State), Claims.TileReady s core →
    let c := Claims.engineAt s core.val
    let va := c.reg a.va.toNat
    let vb := c.reg a.vb.toNat
    (∃ t, exec (.cmplt core a) s = .next t ∧ Claims.OneEngine s t core.val c ∧ Claims.OnlyRegister c (t.engine core.val) a.vd.toNat ∧
      ∀ i x y, va[i]? = some x → vb[i]? = some y → ((t.engine core.val).lane a.vd.toNat i = true ↔ (ofF32 x).lt (ofF32 y) = true)) ∧
    Claims.WritesVd (.sel core a) s core.val a ((List.range 128).map fun i => if c.lane a.vc.toNat i then va.getD i 0 else vb.getD i 0) ∧
    Claims.WritesVd (.rsum core a) s core.val a (List.replicate 128 (laneSum va)) ∧
    Claims.WritesVd (.rmax core a) s core.val a (List.replicate 128 (laneMax va))

/-- For every core in service, operand fields and state in which the tile has executed fewer than 65,536 instructions: CVT converts VA to FMT with RMODE and SAT and back to FP32 in VD; QNT converts to FMT with the exponent, rounding mode and saturation bit of the output descriptor's record where FMT and the output both carry one, else with exponent 0 and its own (log entry 11), and adds what it finds to the record's findings; ACC reads 128 accumulator elements of the current row from column IMM; LD loads 128 lanes from BUF at the access offset when they lie in the buffer; BCAST broadcasts the FP32 value at the access offset of BUF, and a free value where the buffer ends before it (R140 ends a command for LD and ST only; log entry 11). No other register and no buffer changes. (R138, R139, R132.) -/
def Obligations.TileConversionsAndLoads : Prop :=
  ∀ (core : Fin 864) (a : TileArgs) (s : State), Claims.TileReady s core →
    let c := Claims.engineAt s core.val
    let va := c.reg a.va.toNat
    let buf := c.buf a.buf.toNat
    Claims.WritesVd (.cvt core a) s core.val a (c.cvt a.fmt.toNat 0 a.rmode.toNat a.sat va) ∧
    Claims.WritesVd (.qnt core a) s core.val a (c.cvt a.fmt.toNat (c.qntRule a.fmt.toNat a).1 (c.qntRule a.fmt.toNat a).2.1 (c.qntRule a.fmt.toNat a).2.2 va) ∧
    Claims.WritesVd (.accRead core a) s core.val a ((List.range 128).map fun i => (c.acc.getD c.row []).getD (a.imm.toNat + i) 0) ∧
    (c.pastEnd a.buf.toNat a.fmt.toNat (c.offset a) = false →
      Claims.WritesVd (.ld core a) s core.val a (c.loadLanes a.buf.toNat a.fmt.toNat (c.offset a))) ∧
    Claims.WritesVd (.bcast core a) s core.val a (List.replicate 128
      (if buf.length < c.offset a + 4 then Config.pastBuffer a.buf.toNat (c.offset a) else BitVec.ofNat 32 (field buf (c.offset a) 4)))

/-- For every core in service, operand fields and state in which the tile has executed fewer than 65,536 instructions: ST to a buffer that holds the bytes stores the lanes of VA in FMT at the access offset, and in a format other than MXFP4 it replaces exactly those bytes; no other buffer changes. LOOP of n > 0 instructions opens a loop over the next n instructions with its count, where 0 stands for the tile's rows, and LOOP of none does nothing. END marks the tile complete. SEND appends the output buffer to what the tile has sent and hands the tile to the transmit path of the command that holds the core; with no such command nothing but the engine changes. Vector registers do not change. When the access of LD or ST reaches past its buffer, the command that holds the core ends with 0x0107 and commits nothing, then the scheduler goes on; with no such command only the engine records the fault. (R138, R139, R140, R264.) -/
def Obligations.TileStoresLoopsEndsAndFaults : Prop :=
  (∀ (core : Fin 864) (a : TileArgs) (s : State), Claims.TileReady s core →
    let c := Claims.engineAt s core.val
    let b := a.buf.toNat
    let f := a.fmt.toNat
    let bytes := c.laneBytes b f a.rmode.toNat a.sat (c.reg a.va.toNat)
    (c.pastEnd b f (c.offset a) = false →
      ∃ t, exec (.st core a) s = .next t ∧ Claims.OneEngine s t core.val c ∧ (∀ x, (t.engine core.val).reg x = c.reg x) ∧
        (t.engine core.val).buf b = (c.storeLanes b f (c.offset a) a.rmode.toNat a.sat (c.reg a.va.toNat)).buf b ∧
        (f ≠ fMXFP4 → (t.engine core.val).buf b = (c.buf b).take (c.offset a) ++ bytes ++ (c.buf b).drop (c.offset a + bytes.length)) ∧
        ∀ d, d ≠ b → (t.engine core.val).buf d = c.buf d) ∧
    (∃ t, exec (.loopRep core a) s = .next t ∧ Claims.OneEngine s t core.val c ∧ (∀ x, (t.engine core.val).reg x = c.reg x) ∧
      (0 < loopLen a → (t.engine core.val).pc = c.pc + 1 ∧
        (t.engine core.val).loops = { start := c.pc + 1, len := loopLen a, count := if loopCount a = 0 then c.m else loopCount a, iter := 0, rows := loopCount a == 0 } :: c.loops)) ∧
    (∃ t, exec (.endTile core a) s = .next t ∧ Claims.OneEngine s t core.val c ∧ (∀ x, (t.engine core.val).reg x = c.reg x) ∧ (t.engine core.val).ended = true) ∧
    (∃ u, Claims.OneEngine s u core.val c ∧ (∀ x, (u.engine core.val).reg x = c.reg x) ∧ (u.engine core.val).sends = c.sends ++ [c.out] ∧
      exec (.sendTile core a) s = .next (u.sendTile core.val) ∧
      (((s.core core.val).logical).bind s.holder = none → exec (.sendTile core a) s = .next u))) ∧
  (∀ (core : Fin 864) (a : TileArgs) (s : State) (i : Instr), i = .ld core a ∨ i = .st core a →
    let c := Claims.engineAt s core.val
    s.coreOn core.val = true → c.pastEnd a.buf.toNat a.fmt.toNat (c.offset a) = true →
    ∃ u, u = s.setEngines u.engines ∧ (u.engine core.val).fault = true ∧ (∀ x, (u.engine core.val).reg x = c.reg x) ∧
      exec i s = .next (match ((s.core core.val).logical).bind s.holder with | some q => (u.endCmd q 0x0107).settle | none => u))

namespace Sys2Proof.Claims

/-- The head command of queue `q` is `c`: started, not yet run, nothing of it staged, its entry good, with command code `op`, and no droop trip has stopped a core of it. -/
def Started (s : State) (q op : Nat) (c : Cmd) : Prop :=
  s.head? q = some c ∧ s.issueStopped c.cores = false ∧ c.phase = .started ∧ c.ran = false ∧ c.staged = {} ∧ c.tileWait = false ∧ c.verdict = 0 ∧ entOp c.entry = op

/-- In `u` the head command of queue `q` has run: `writes` and `recs` wait in staging slabs with the effect `eff`, and no byte that a host or another command can read has changed since `s`. -/
def RunStaged (s u : State) (q : Nat) (writes : List Host.Cell) (recs : List RecUpd) (eff : Effect) : Prop :=
  (∃ d, u.head? q = some d ∧ d.ran = true ∧ d.staged.writes = writes ∧ d.staged.recs = recs ∧ d.staged.effect = eff) ∧
    u.mem.dev = s.mem.dev

/-- As RunStaged, for a run that needs no staging slab: its cores are given back and it stands before its commit. -/
def RunReady (s u : State) (q : Nat) (eff : Effect) : Prop :=
  RunStaged s u q [] [] eff ∧ (∃ d, u.head? q = some d ∧ d.phase = .staged ∧ d.cores = []) ∧ u.mem = s.mem

/-- The partition that owns queue `q`. -/
def partOf (s : State) (q : Fin 64) : Nat := (s.queue q.val).part

/-- The completion record that queue `q` writes next, as host memory holds it in `u`. -/
def nextRecord (s u : State) (q : Nat) : Bytes := Memory.read u.mem.hostMem ((s.queue q).cqBase + 32 * (s.queue q).cqTail) 32

/-- Between `s` and `u` queue `q` has written one record with a status for command `c`, and lost its head command. A host byte outside the record is as before, unless it lies in a line of which the host-line cache or an agent held dirty data. -/
def Recorded (s u : State) (q : Nat) (c : Cmd) (status : Nat) : Prop :=
  (u.queue q).fifo = (s.queue q).fifo.tail ∧
    (u.queue q).seq = ((s.queue q).seq + 1) % 2 ^ 32 ∧ (u.queue q).cqTail = ((s.queue q).cqTail + 1) % (s.queue q).size ∧
    field (nextRecord s u q) 6 2 = status ∧ field (nextRecord s u q) 8 8 = entTag c.entry ∧
    field (nextRecord s u q) 20 4 = ((s.queue q).seq + 1) % 2 ^ 32 ∧ bit (byteAt (nextRecord s u q) 4) 0 = (s.queue q).phase ∧
    ∀ a, a < (s.queue q).cqBase + 32 * (s.queue q).cqTail ∨ (s.queue q).cqBase + 32 * (s.queue q).cqTail + 32 ≤ a →
      (∀ l ∈ s.fabric.lines, ∀ b, l.dirtyData = some b → a < 64 * l.line ∨ 64 * l.line + b.length ≤ a) → hostByte u a = hostByte s a

/-- The ring of queue `q` takes a record of its head command at once. -/
def TakesRecord (s : State) (q : Nat) : Prop :=
  s.queues.length = 64 ∧ (s.queue q).heldRecs = [] ∧ (s.queue q).ringRoom = true ∧ s.outbound = true

/-- A command of queue `q` that replaces no slab may pass its commit: no host-loss reset runs, its record can be written, and the retention pools hold no more than they may. -/
def CommitOpen (s : State) (q : Nat) : Prop :=
  Safety.MemoryCanonical s ∧ TakesRecord s q ∧ s.link.losing = false ∧ s.poolRoom (s.queue q).part [] = true

/-- The command `i` of queue `q`, which needs no staging slab, runs and stands before its commit in `u`; where its commit may pass, the commit of `u` gives `v` and writes its record with status 0. -/
def RunsThenCommits (i : Instr) (s u v : State) (q : Fin 64) (c : Cmd) (eff : Effect) : Prop :=
  exec i s = .next u.settle ∧ RunReady s u q.val eff ∧ (CommitOpen s q.val → u.effectStatus (s.queue q.val).part eff = 0 → (u.effectRoom (s.queue q.val).part eff).1 = true →
    exec (.commit q) u = .next v.settle ∧ Recorded s v q.val c 0)

/-- The cells of `n` bytes of a memory from `src`, moved to `dst`. -/
def movedCells (m : Memory) (src dst n : Nat) : List Host.Cell := (List.range n).map fun i => (dst + i, Memory.get m (src + i))

end Sys2Proof.Claims

/-- For every queue q, value v, host blocks and state s in which BAR0 writes arrive: while ID_EFFECTIVE_LEVEL reads 0 the doorbell only lets the access be seen and the host's bytes be stored; with a level in force, on a queue that is disabled or unassigned, whose rings have fewer than 16 entries, or with a TAIL past its ring, the doorbell sets RING_ERROR and LAST_ERROR 0x0407 and fetches nothing; otherwise, with HEAD inside the ring, HQ_SQ_TAIL takes TAIL, and then the scheduler runs: in L0 HQ_SQ_HEAD follows TAIL and the queue's fetched commands are those it had followed by one for each entry from HEAD to TAIL; in Recovery nothing is fetched. The fetch changes no byte of the device range. (R10.) -/
def Obligations.DoorbellFetchesEveryEntry : Prop :=
  ∀ (q : Fin 64) (v : Word) (host : List HostBlk) (s : State), s.queues.length = 64 → s.barOpen = true →
    let b := (Claims.atBar0 s).hostStore host
    let x := s.queue q.val
    let tail := v.toNat % 65536
    (s.link.effLevel = 0 → exec (.doorbell q v host) s = .next b) ∧
    (s.link.effLevel ≠ 0 → (x.enable = false ∨ x.assigned = false ∨ x.size ≤ tail ∨ x.log2 < 4) →
      exec (.doorbell q v host) s = .next (b.modQueue q.val fun y => { y with ringError := true, lastError := 0x0407 })) ∧
    (s.link.effLevel ≠ 0 → x.enable = true → x.assigned = true → tail < x.size → 4 ≤ x.log2 → x.sqHead < x.size →
      ∃ u : State, exec (.doorbell q v host) s = .next u.kick ∧ (u.queue q.val).sqTail = tail ∧
        (s.link.st = .l0 → (u.queue q.val).sqHead = tail ∧ ∃ l, (u.queue q.val).fifo = x.fifo ++ l ∧ l.length = (tail + x.size - x.sqHead) % x.size) ∧
        (s.link.st ≠ .l0 → (u.queue q.val).sqHead = x.sqHead ∧ (u.queue q.val).fifo = x.fifo) ∧
        (∀ j, j ≠ q.val → (u.queue j).fifo = (s.queue j).fifo ∧ (u.queue j).sqTail = (s.queue j).sqTail) ∧ u.mem.dev = b.mem.dev)

/-- For every queue q and state s whose head command has started: NOP, STEP_MARK, a MAP_REGION or UNMAP_REGION whose descriptor passes its checks, a REGISTER_GSET whose checks give its slabs, a RELEASE_GSET of a readable registered set, and a STREAM_CONFIG of a valid configuration each answer a next state in which the command stands before its commit point with its effect staged, holds no core, and no memory, region, slab or partition setting has changed; then waiting tiles and the scheduler go on. Where the commit may pass from there (no host-loss reset, ring and pools with room, the checks of its effect still met), COMMIT completes the command: the record carries status 0; NOP has changed no byte of the device range; a mapped region is listed and its slabs are mapped with its KIND, PIN and MODEL; an unmapped region's slabs are gone; a registered set is listed with its slabs; a released set is listed no more; a configuration waits for the next step mark; a step mark raises the step count by 1. (R159, R175, R176, R203, R257, R261, R263.) -/
def Obligations.EffectCommandsStageTheirEffect : Prop :=
  ∀ (q : Fin 64) (s : State) (c : Cmd), let p := Claims.partOf s q
    let d := regionDesc (c.entry.drop 32)
    (Claims.Started s q.val cNOP c → ∃ u v : State, Claims.RunsThenCommits (.nop q) s u v q c .none ∧ v.mem.dev = s.mem.dev ∧ v.mem.slabs = s.mem.slabs ∧ v.mem.regions = s.mem.regions) ∧
    (Claims.Started s q.val cMARK c → p < 16 → s.parts.length = 16 →
      ∃ u v : State, exec (.stepMark q) s = .next u.settle ∧ Claims.RunReady s u q.val .stepMark ∧
        (Claims.CommitOpen s q.val → exec (.commit q) u = .next v.settle ∧ (v.queue q.val).fifo = (s.queue q.val).fifo.tail) ∧
        (v.part p).stream.steps = (s.part p).stream.steps + 1) ∧
    (Claims.Started s q.val cMAP c → s.regionHeader c.entry = 0 → s.mapStatus p d = 0 →
      ∃ u v : State, Claims.RunsThenCommits (.mapRegion q) s u v q c (.mapRegion p (keyOf d.base) d.slabs d.kind d.model d.pin) ∧
        (⟨p, keyOf d.base, d.slabs, d.kind, d.pin, d.model⟩ : Region) ∈ v.mem.regions ∧
        ∀ k, keyOf d.base ≤ k → k < keyOf d.base + d.slabs → ∃ x, v.slab? k = some x ∧ x.part = p ∧ x.kind = d.kind ∧ x.pin = d.pin ∧ x.model = d.model ∧ x.st = .unwritten) ∧
    (Claims.Started s q.val cUNMAP c → s.regionHeader c.entry = 0 → s.unmapStatus p d = 0 →
      ∃ u v : State, Claims.RunsThenCommits (.unmapRegion q) s u v q c (.unmapRegion p (keyOf d.base) d.slabs) ∧
        (∀ r ∈ v.mem.regions, ¬ (r.base = keyOf d.base ∧ r.slabs = d.slabs)) ∧ ∀ k, keyOf d.base ≤ k → k < keyOf d.base + d.slabs → v.slab? k = none) ∧
    (∀ ks, Claims.Started s q.val cREGISTER c → s.registerCheck p (field c.entry 32 6) = .ok ks → p < 16 → s.parts.length = 16 →
      ∃ u v : State, Claims.RunsThenCommits (.registerGset q) s u v q c (.registerGset (field c.entry 32 6) ks) ∧ (field c.entry 32 6, ks, none) ∈ (v.part p).gsets) ∧
    (∀ g, Claims.Started s q.val cRELEASE c → s.readGset p (field c.entry 32 6) true = .ok g →
      ∃ u v : State, Claims.RunsThenCommits (.releaseGset q) s u v q c (.releaseGset (field c.entry 32 6)) ∧ ∀ g ∈ (v.part p).gsets, g.1 ≠ field c.entry 32 6) ∧
    (∀ cfg, Claims.Started s q.val cSTREAM c → s.readDesc p (field c.entry 32 6) 0x22 0x0204 (fun h => 96 + 8 * field h 6 2) 8 = .ok cfg → s.streamStatus p cfg = 0 →
      p < 16 → s.parts.length = 16 → ∃ u v : State, Claims.RunsThenCommits (.streamConfig q) s u v q c (.streamConfig cfg) ∧ (v.part p).stream.next = cfg)

/-- For every queue q, state s and started head command whose source and destination the partition may access, and whose source the host holds only while it can be asked: COPY stages the BYTES bytes of the device range at SRC for DST, COPY_IN what host memory holds at SRC (the ciphertext where a granted KIND 0 slab lies there, else the host's own bytes), and the device range does not change before the commit point; COPY_OUT writes the source's bytes to host memory at once and stages nothing, every other byte of host memory as before. While the host takes no outbound traffic COPY_IN and COPY_OUT wait: the state does not change. (R204, R257, R263.) -/
def Obligations.CopiesStageTheSourceBytes : Prop :=
  ∀ (q : Fin 64) (s : State) (c : Cmd) (host : List HostBlk), Safety.MemoryCanonical s →
    let p := Claims.partOf s q
    (Claims.Started s q.val cCOPY c →
      let (src, dst, n) := (field c.entry 32 6, field c.entry 38 6, field c.entry 48 4)
      s.readStatus p src n = 0 → s.writeStatus p dst n = 0 → s.hostHeld (spanSlabs src n) = false →
      ∃ u : State, exec (.copy q) s = .next u.settle ∧ Claims.RunStaged s u q.val (Claims.movedCells s.mem.dev src dst n) [] .none ∧ u.mem.hostMem = s.mem.hostMem) ∧
    (Claims.Started s q.val cCOPYIN c →
      let (src, dst, n) := (field c.entry 32 8, field c.entry 40 6, field c.entry 48 4)
      let b := s.hostStore host
      b.writeStatus p dst n = 0 → s.outbound = true →
      ∃ u : State, exec (.copyIn q host) s = .next u.settle ∧ Claims.RunStaged b u q.val (cellsAt dst (b.hostRead src n)) [] .none ∧ u.mem.hostMem = b.mem.hostMem ∧
        ((∀ i, i < n → b.t3Slab (src + i) = none) → cellsAt dst (b.hostRead src n) = Claims.movedCells b.mem.hostMem src dst n)) ∧
    (Claims.Started s q.val cCOPYOUT c →
      let (src, dst, n) := (field c.entry 32 6, field c.entry 40 8, field c.entry 48 4)
      s.readStatus p src n = 0 → s.outbound = true →
      ∃ u : State, exec (.copyOut q) s = .next u.settle ∧ Claims.RunStaged s u q.val [] [] .none ∧
        ∀ a, Claims.hostByte u a = if dst ≤ a ∧ a < dst + n then Claims.devByte s (src + (a - dst)) else Claims.hostByte s a) ∧
    (s.outbound = false → exec (.copyIn q host) s = .next s ∧ exec (.copyOut q) s = .next s)

/-- For every queue q, state s and started head command: where the run of a PRODUCT, CHAINED, FINISH or OPTIMISER gives a result r with no error, no tile of it goes to an endpoint without a peer entry, and no slab that it reads lies with a host that cannot be asked, the command answers a next state in which exactly r's output bytes and scale-state updates wait in staging slabs, and the device range is unchanged until the commit. (R146, R151, R165, R169, R204, R258, R263.) -/
def Obligations.MatrixCommandsStageTheirResults : Prop :=
  ∀ (q : Fin 64) (s : State) (c : Cmd) (r : RunRes), r.status = 0 → r.sends.any (fun x => !s.hasPeer x.1.ep) = false → s.hostHeld (r.reads.flatMap fun x => spanSlabs x.1 x.2) = false →
    let p := Claims.partOf s q
    let rows := (((s.part p).gsets.find? fun g => g.1 == field c.entry 32 6).bind (·.2.2)).getD (0, 16777216)
    (Claims.Started s q.val cPRODUCT c → s.runProduct p (s.queue q.val).cls c.entry = .ok r →
      ∃ u : State, exec (.product q) s = .next u.settle ∧ Claims.RunStaged s u q.val r.writes r.recs .none) ∧
    (Claims.Started s q.val cCHAINED c → s.runChained p c.entry = .ok r →
      ∃ u : State, exec (.chained q) s = .next u.settle ∧ Claims.RunStaged s u q.val r.writes r.recs .none) ∧
    (Claims.Started s q.val cFINISH c → s.runFinish p (field c.entry 32 6) rows.1 rows.2 = .ok r →
      ∃ u : State, exec (.finish q) s = .next u.settle ∧ Claims.RunStaged s u q.val r.writes r.recs .none) ∧
    (Claims.Started s q.val cOPTIMISER c → s.runOptimiser p (field c.entry 32 6) = .ok r →
      ∃ u : State, exec (.optimiser q) s = .next u.settle ∧ Claims.RunStaged s u q.val r.writes r.recs .none)

/-- For every queue q, state s and started head command whose run ends with a status st other than 0 (a COPY of an unreadable source, a MAP_REGION of a bad region, a PRODUCT that fails a check), the command answers a next state in which no byte of the device range has changed; with bit 7 of st 0 and room in the completion ring, the command leaves its queue, which keeps the commands behind it. Then waiting tiles and the scheduler go on. (R264, R267.) -/
def Obligations.FailedRunsCommitNothing : Prop :=
  ∀ (q : Fin 64) (s : State) (c : Cmd) (st : Nat), st ≠ 0 → s.queues.length = 64 →
    let p := Claims.partOf s q
    let ended : Instr → Prop := fun i => ∃ u : State, exec i s = .next u.settle ∧ u.mem.dev = s.mem.dev ∧
      (bit st 7 = false → (s.queue q.val).ringRoom = true → (u.queue q.val).fifo = (s.queue q.val).fifo.tail)
    (Claims.Started s q.val cCOPY c → s.readStatus p (field c.entry 32 6) (field c.entry 48 4) = st → ended (.copy q)) ∧
    (Claims.Started s q.val cMAP c → s.regionHeader c.entry = 0 → s.mapStatus p (regionDesc (c.entry.drop 32)) = st → ended (.mapRegion q)) ∧
    (Claims.Started s q.val cPRODUCT c → s.runProduct p (s.queue q.val).cls c.entry = .error st → ended (.product q))

/-- For every queue q, state s and started head command whose descriptors pass every check, and which runs no collective yet, COLLECTIVE and EXCHANGE answer a next state in which the attempt number of the collective is one more than it was, the queue runs the collective that the descriptors give, with its operation, members, own rank and packed source, an announcement has gone to every other rank (OP 0, 1 and 5), and in OP 2 and 4, which need no staging buffer, the first 64 pulls, or all of them, have gone out; no byte of the device range has changed. For OP 5 this is stated where no announcement has come early, since early row counts past the destination end it with 0x0501; for OP 4, where every early pull came from an endpoint that still has a peer entry, since an answer to one without ends it with 0x0A03. (R164, R306, R307, R309, R310.) -/
def Obligations.CollectivesStartAnAttempt : Prop :=
  ∀ (q : Fin 64) (s : State) (c : Cmd) (coll : Coll) (spans : List (Nat × Nat)) (ex : Bool),
    let p := Claims.partOf s q
    let key := collKey p coll.id
    Claims.Started s q.val (if ex then cEXCHANGE else cCOLLECTIVE) c → s.collOf q.val = none → s.buildColl p q.val c.entry ex = .ok (coll, spans) →
      (coll.op = 5 → s.fab.earlyAnn = []) → (coll.op = 4 → ∀ a ∈ s.fab.earlyPull, s.hasPeer a.2.1 = true) →
      ∃ (u : State) (d : Coll), exec (if ex then .exchange q else .collective q) s = .next u.settle ∧
        lookupTime u.fab.collTry key = some ((lookupTime s.fab.collTry key).getD 0 + 1) ∧ u.mem.dev = s.mem.dev ∧
        u.collOf q.val = some d ∧ d.attempt = (lookupTime s.fab.collTry key).getD 0 + 1 ∧ d.id = coll.id ∧ d.op = coll.op ∧ d.members = coll.members ∧
        d.self = coll.self ∧ d.src = coll.src ∧
        (coll.op ≤ 1 ∨ coll.op = 5 → ∀ r ∈ coll.ranks, ∃ n, (coll.epOf r, n) ∈ d.sent) ∧
        (coll.op = 2 ∨ coll.op = 4 → d.issued = min 64 coll.plan.length)

namespace Sys2Proof.Claims

/-- The commit of the head command `c` of queue `q` may pass now: its outputs are staged, or it has waited for a retained slab or for ring room, no host-loss reset runs, its slabs have stayed mapped since it started and are whole, every endpoint it sends to has a peer entry, what its effect needs still holds and has room, the migration DMA has credit for the pages carried over, the completion ring takes the record at once, and the retention pools have room (R159, R177, R203, R234, R263). -/
def CommitsNow (s : State) (q : Nat) (c : Cmd) : Prop :=
  s.head? q = some c ∧ (c.phase = .staged ∨ c.phase = .poolWait ∨ (c.phase = .ringWait ∧ c.result = 0)) ∧ s.link.losing = false ∧ TakesRecord s q ∧
    (∀ x ∈ c.staged.slabs, ∃ y, s.slab? x.1 = some y ∧ y.part = (s.queue q).part ∧ c.unmaps x.1 = false) ∧ (∀ t ∈ c.staged.sends, s.hasPeer t.ep = true) ∧
    (∀ k ∈ c.staged.partly, ∀ y, s.slab? k = some y → y.st ≠ .lost) ∧
    s.effectStatus (s.queue q).part c.staged.effect = 0 ∧ (s.effectRoom (s.queue q).part c.staged.effect).1 = true ∧
    (State.carryOver q c.staged.partly s).1 = true ∧ s.poolRoom (s.queue q).part (c.staged.slabs.map (·.1)) = true

/-- Export has released one retained slab of partition `p`, of T1 first (R177). -/
def released (s : State) (p : Nat) : State :=
  s.modStream p fun st => if st.retT1 = 0 then { st with retT2 := st.retT2 - 1 } else { st with retT1 := st.retT1 - 1, retNear := st.retNear.tail }

end Sys2Proof.Claims

/-- For every queue q and state s whose head command c has its outputs staged and may commit now, with no effect besides bytes, COMMIT answers a next state in which the device range is the old one with c's staged bytes written and its scale-state records updated, the command has left its queue, HQ_COMMIT_SEQ and the ring's tail have advanced, and the record of 32 bytes at the old tail carries status 0, the entry's TAG, the new SEQ and the ring's PHASE; every host byte outside that record is as before. (R261, R262, R263, R75.) -/
def Obligations.CommitPublishesTheRun : Prop :=
  ∀ (q : Fin 64) (s : State) (c : Cmd), Safety.MemoryCanonical s → Claims.CommitsNow s q.val c → c.staged.effect = .none →
    ∃ u : State, exec (.commit q) s = .next u.settle ∧
      u.mem.dev = c.staged.recs.foldl applyRecUpd (Memory.puts s.mem.dev c.staged.writes) ∧ Claims.Recorded s u q.val c 0

/-- For every queue q of an admitted partition p and state s whose head command may commit now and stages nothing but its effect: a mapped region's slabs are those of p with the KIND, PIN and MODEL of the descriptor, unwritten for tensors, and read 0; an unmapped region has no slab left; a registered gradient set is listed with its slabs pinned, and those that lie in T2, T3 or T4 are on their way to T1, each a migration, unless one that has switched still holds its source frame; a released one is listed no more; a stream configuration waits for the next step mark; a step mark raises the step count by 1; and a committed collective is listed as such and runs no more. The command has left its queue. (R159, R175, R176, R203, R263, R307.) -/
def Obligations.CommitAppliesItsEffect : Prop :=
  ∀ (q : Fin 64) (s : State) (c : Cmd), let p := (s.queue q.val).part
    p < 16 → s.parts.length = 16 → Safety.MemoryCanonical s → Claims.CommitsNow s q.val c → c.staged.slabs = [] → c.staged.writes = [] → c.staged.recs = [] →
    c.staged.sends = [] →
    ∃ u : State, exec (.commit q) s = .next u.settle ∧ (u.queue q.val).fifo = (s.queue q.val).fifo.tail ∧
      (∀ r base n kind model pin, c.staged.effect = .mapRegion r base n kind model pin → (∀ k, base ≤ k → k < base + n → s.slab? k = none) →
        ∀ k, base ≤ k → k < base + n →
          (∃ x, u.slab? k = some x ∧ x.part = p ∧ x.kind = kind ∧ x.pin = pin ∧ x.model = model ∧ (kind = 0 → x.st = .unwritten ∧ x.tier = none)) ∧
          ∀ a, keyOf a = k → Claims.devByte u a = 0) ∧
      (∀ r base n, c.staged.effect = .unmapRegion r base n → ∀ k, base ≤ k → k < base + n →
        u.slab? k = none ∧ ∀ a, keyOf a = k → Claims.devByte u a = 0) ∧
      (∀ a ks, c.staged.effect = .registerGset a ks → (a, ks, none) ∈ (u.part p).gsets ∧
        ∀ k ∈ ks, ∀ x, s.slab? k = some x → ∃ y, u.slab? k = some y ∧ y.gset = true ∧ (∀ t, x.tier = some t → t ≠ .t1 → (∀ m, s.migration? k = some m → m.switched = false) → ∃ m, u.migration? k = some m ∧ m.src = t ∧ m.dst = .t1)) ∧
      (∀ a, c.staged.effect = .releaseGset a → ∀ g ∈ (u.part p).gsets, g.1 ≠ a) ∧
      (∀ cfg, c.staged.effect = .streamConfig cfg → (u.part p).stream.next = cfg) ∧
      (c.staged.effect = .stepMark → (u.part p).stream.steps = (s.part p).stream.steps + 1) ∧
      (∀ id d, c.staged.effect = .collective id → s.collOf q.val = some d → (p, id, d.members, d.axis) ∈ u.fab.committed ∧ u.collOf q.val = none)

/-- For every queue q, value v and state s in which BAR0 writes arrive: KILL stores INDEX and sets DONE; where no fetched command has that index the queue is as before and TOO_LATE reads 0; where the head has it, may be killed and the ring takes its record, the head leaves with a record of status 0x0485; where the head has it and its error record waits for room, the kill is too late and the queue is as before; a command further back is taken out. ALL on a queue whose commands all may be killed, with room for their records, leaves no command. No byte of the device range changes. (R251, R253, R264, R266.) -/
def Obligations.KillsEndTheCommandTheyName : Prop :=
  ∀ (q : Fin 64) (v : Word) (s : State), s.barOpen = true → Safety.MemoryCanonical s → s.queues.length = 64 →
    let x := s.queue q.val
    let i := v.toNat % 65536
    (v.getLsbD 16 = true → v.getLsbD 17 = false →
      ∃ u : State, exec (.kill q v) s = .next u.settle ∧ (u.queue q.val).killIndex = i ∧ (u.queue q.val).killDone = true ∧ u.mem.dev = s.mem.dev ∧
        ((∀ c ∈ x.fifo, c.idx ≠ i) → (u.queue q.val).fifo = x.fifo ∧ (u.queue q.val).tooLate = false) ∧
        (∀ c, s.head? q.val = some c → c.idx = i → killable c = true → Claims.TakesRecord s q.val →
          Claims.Recorded s u q.val c 0x0485 ∧ (u.queue q.val).tooLate = false) ∧
        (∀ c, s.head? q.val = some c → c.idx = i → killable c = false → (u.queue q.val).fifo = x.fifo ∧ (u.queue q.val).tooLate = true) ∧
        (∀ n, x.fifo.findIdx? (fun c => c.idx == i) = some (n + 1) →
          (u.queue q.val).fifo = x.fifo.eraseIdx (n + 1) ∧ (u.queue q.val).tooLate = false)) ∧
    (v.getLsbD 17 = true → (∀ c ∈ x.fifo, killable c = true) → x.cqHead < x.size → x.cqTail < x.size → x.heldRecs.length + x.fifo.length ≤ x.cqRoom →
      ∃ u : State, exec (.killAll q v) s = .next u.settle ∧ (u.queue q.val).killDone = true ∧ (u.queue q.val).tooLate = false ∧ (u.queue q.val).fifo = [] ∧
        u.mem.dev = s.mem.dev)

/-- For every partition p and state s, TOKEN_REFILL answers a next state in which the tokens of p are the lower of C0_BURST and the old tokens plus C0_RATE, and everything else is as before. For every queue q whose head command is of class 0, within its envelope and not committed, with room for its record, C0_BUDGET_EXCEEDED ends it with a record of status 0x0404, changes no byte of the device range, and lets the other commands go on; a command of another class, or outside its envelope, is left as it is. (R264, R271, R272.) -/
def Obligations.BudgetAndTokensOfClassZero : Prop :=
  (∀ (p : Fin 16) (s : State), s.parts.length = 16 → ∃ t : State, exec (.tokenRefill p) s = .next t ∧
    (t.part p.val).tokens = min (s.part p.val).c0Burst ((s.part p.val).tokens + (s.part p.val).c0Rate) ∧
    { t.part p.val with tokens := (s.part p.val).tokens } = s.part p.val ∧ (∀ k, k ≠ p.val → t.part k = s.part k) ∧ t.setParts s.parts = s) ∧
  (∀ (q : Fin 64) (s : State) (c : Cmd), Safety.MemoryCanonical s → s.head? q.val = some c →
    ((s.queue q.val).cls = 0 → c.envelope = true → killable c = true → Claims.TakesRecord s q.val →
      ∃ u : State, exec (.c0BudgetExceeded q) s = .next u.settle ∧ Claims.Recorded s u q.val c 0x0404 ∧ u.mem.dev = s.mem.dev) ∧
    ((s.queue q.val).cls ≠ 0 ∨ c.envelope = false → exec (.c0BudgetExceeded q) s = .next s))

/-- STAGING_WAIT_END draws the next staging slab that the head command of q needs when a pool has one, and the command stands before its commit once none is missing and no tile waits. CREDIT_GRANT takes the units released from the shares that the partition holds of staging blocks and hub ingress (move slots and slow-path places are released where the move or request ends, log entry 16), and retries the requests that wait for the resource in their order. POOL_WAIT_END gives one retained slab back, of T1 first, and a head command that waited for it commits. TILE_ACCEPT hands the waiting tile for an endpoint with a peer entry to the transmit path when the rule of R274 grants its units. COMPLETION_RING_ROOM writes the waiting error record and lets the command leave, or commits the command that waited for room; with nothing waiting it clears CQ_FULL. (R147, R177, R213, R263, R273, R274.) -/
def Obligations.WaitsEndWhenRoomComes : Prop :=
  (∀ (q : Fin 64) (s : State) (c : Cmd) (k : Nat) (r : List Nat) (x : Tier × Option Nat) (s' : State), s.queues.length = 64 → s.head? q.val = some c →
    c.phase = .started → c.ran = true → c.staged.need = k :: r →
    s.takeStage (s.queue q.val).part (s.queue q.val).cls (c.staged.t1Only || s.t1Slab k) (s.homeOf c.staged.tiers k)
      (s.dieFor (s.queue q.val).part k c) = (some x, s') →
    ∃ (u : State) (d : Cmd), exec (.stagingWaitEnd q) s = .next u.settle ∧ u.head? q.val = some d ∧ u.mem.dev = s.mem.dev ∧
      c.staged.slabs ++ [(k, x.1, x.2)] <+: d.staged.slabs ∧ d.staged.need <:+ r ∧
      (d.staged.need = [] → s.tilesLeft q.val = false → d.phase = .staged ∧ d.cores = [])) ∧
  (∀ (r : Fin 4) (p : Fin 16) (units : Nat) (s : State), ∃ b : State,
    exec (.creditGrant r p units) s = .next ((s.adm.waiting.filter fun w => resRow w.res == r.val).foldl State.retryCredit b).settle ∧
      b.adm.waiting = s.adm.waiting ∧ b.mem = s.mem ∧ (2 ≤ r.val → b = s) ∧
      (r.val < 2 → ((List.range 17).map fun o => b.heldFrom r.val p.val o).sum = ((List.range 17).map fun o => s.heldFrom r.val p.val o).sum - units)) ∧
  (∀ (p : Fin 16) (s : State), s.parts.length = 16 →
    (∀ q ∈ s.queuesOf p.val, ∀ c, s.head? q = some c → c.phase ≠ .poolWait) → s.poolTries p.val = [] →
    ∃ u : State, exec (.poolWaitEnd p) s = .next u.settle ∧ u.mem = s.mem ∧ (u.part p.val).stream.poolWait = false ∧
      (u.part p.val).stream.retT1 + (u.part p.val).stream.retT2 = (s.part p.val).stream.retT1 + (s.part p.val).stream.retT2 - 1) ∧
  (∀ (p : Fin 16) (q : Fin 64) (s : State) (c : Cmd), q.val ∈ s.queuesOf p.val → Safety.MemoryCanonical s → c.phase = .poolWait → c.staged.effect = .none →
    Claims.CommitsNow (Claims.released s p.val) q.val c → (∀ k ∈ s.queuesOf p.val, k ≠ q.val → ∀ d, s.head? k = some d → d.phase ≠ .poolWait) →
    s.poolTries p.val = [] →
    ∃ u : State, exec (.poolWaitEnd p) s = .next u.settle ∧ (u.queue q.val).fifo = (s.queue q.val).fifo.tail ∧
      u.mem.dev = c.staged.recs.foldl applyRecUpd (Memory.puts s.mem.dev c.staged.writes)) ∧
  (∀ (q : Fin 64) (s : State) (c : Cmd) (t : TileSend) (l : List (Nat × Bytes)), s.queues.length = 64 → s.head? q.val = some c → c.phase = .started →
    c.tileWait = true → c.staged.sends = [t] → t.started = true → t.todo = [l] → s.hasPeer t.ep = true →
    (s.askCredit 1 (s.queue q.val).part (s.queue q.val).cls (ceilDiv (tileBytes l) 4096) q.val).1 = true →
    ∃ (u : State) (d : Cmd), exec (.tileAccept q) s = .next u.settle ∧ u.head? q.val = some d ∧ d.tileWait = false ∧
      d.staged.sends.map (fun x => (x.bytes, x.todo)) = [(t.bytes + tileBytes l, [])] ∧ u.mem.dev = s.mem.dev ∧
      (c.ran = true → c.staged.need = [] → d.phase = .staged)) ∧
  (∀ (q : Fin 64) (s : State) (c : Cmd), Safety.MemoryCanonical s → Claims.TakesRecord s q.val → s.heldTries q.val = [] → (s.queue q.val).landPending = false →
    (s.head? q.val = some c → c.phase = .ringWait → c.result ≠ 0 →
      ∃ u : State, exec (.completionRingRoom q) s = .next u.settle ∧ Claims.Recorded s u q.val c (c.result % 65536) ∧ u.mem.dev = s.mem.dev) ∧
    (Claims.CommitsNow s q.val c → c.phase = .ringWait → c.staged.effect = .none →
      ∃ u : State, exec (.completionRingRoom q) s = .next u.settle ∧ Claims.Recorded s u q.val c 0 ∧
        u.mem.dev = c.staged.recs.foldl applyRecUpd (Memory.puts s.mem.dev c.staged.writes)) ∧
    ((∀ c, s.head? q.val = some c → c.phase ≠ .ringWait) →
      exec (.completionRingRoom q) s = .next (s.modQueue q.val fun x => { x with cqFull := false }).settle))

namespace Sys2Proof.Claims

/-- The module climbs to a warm reset by itself: it runs, no host-loss reset runs, AUTO_WARM is enabled, no automatic warm reset began in the last 10 minutes, and no update waits (R522). -/
def ClimbsToWarm (s : State) : Prop :=
  s.phase = .run ∧ s.link.losing = false ∧ s.err.autoWarmEn = true ∧ s.boot.updReq = false ∧ s.parts.length = 16 ∧ s.queues.length = 64 ∧
    ∀ t, s.err.lastAuto = some t → t + autoGapUs ≤ s.nowUs

/-- In `t` a warm reset has begun: nothing is admitted, granted, fetched or in force (R375, R482). -/
def WarmBegan (t : State) : Prop :=
  t.phase = .warm ∧ t.pins.ready = false ∧ t.boot.ready = false ∧ t.anyPart = false ∧ (∀ q, (t.queue q).fifo = []) ∧ t.mem.grants = [] ∧
    t.link.hostLevel = 0 ∧ t.link.effLevel = 0 ∧ t.link.flushS = 10

/-- In `t` the module has stopped with event 0x0D40 (R524). -/
def Stopped (t : State) : Prop := t.phase = .stopped ∧ t.pins.ready = false ∧ t.boot.ready = false ∧ t.err.lastCode = 0x0D40

end Sys2Proof.Claims

/-- For every state s without the 54 V input, POWER_UP and RESTART_DELAY_EXPIRY answer a next state with the input up and time 0: with a good flash the module is in start-up after step 2, otherwise start-up has halted with code 0x0B09 and MOD_READY is low; one more power-up is counted, the energy total is that of the newer good journal slot, and nothing is mapped, queued or admitted. With the input up, POWER_LOSS answers a next state with the rails off, MOD_READY low, no partition, the device range blank, both banks of the flash as before, and the energy total, the event count and the record number in the newer slot of Fuelagrim's journal. (R43, R44, R45, R455, R459, R462, R465.) -/
def Obligations.PowerUpAndPowerLoss : Prop :=
  (∀ (f : StartFacts) (s : State) (i : Instr), s.pins.vin = false → (i = .powerUp f ∨ i = .restartDelayExpiry f) →
    ∃ t : State, exec i s = .next t ∧ t.pins.vin = true ∧ t.nowUs = 0 ∧ t.pins.ready = false ∧ t.anyPart = false ∧ t.mem.dev = [] ∧
      t.flash.powerUps = s.flash.powerUps + 1 ∧ (∀ q, (t.queue q).fifo = []) ∧ t.meter.energy = ((s.meter.newest.map (·.energy)).getD s.meter.energy) ∧
      (f.flashOk = true → t.phase = .boot ∧ t.boot.step = 2 ∧ t.boot.facts = some f) ∧
      (f.flashOk = false → t.phase = .halted ∧ t.boot.halted = true ∧ t.boot.code = 0x0B09)) ∧
  (∀ s : State, s.pins.vin = true →
    ∃ t : State, exec .powerLoss s = .next t ∧ t.phase = .off ∧ t.pins.vin = false ∧ t.pins.ready = false ∧ t.anyPart = false ∧ t.mem.dev = [] ∧
      (∀ q, (t.queue q).fifo = []) ∧ t.flash.a = s.flash.a ∧ t.flash.b = s.flash.b ∧ t.flash.map0 = s.flash.map0 ∧ t.flash.map1 = s.flash.map1 ∧
      (∃ j, t.meter.newest = some j ∧ j.atLoss = true ∧ j.energy = s.meter.energy ∧ j.events = s.meter.eventCount ∧ j.seq = s.meter.seq) ∧ t.tag.mem = s.tag.mem)

/-- For every state s in start-up with no command waiting: after step 2 without a valid spare map, or with no committed bank, the next step halts start-up with 0x0B04 or 0x0B01; after step 3 with no bank that passes its check it halts with 0x0B01, and with one it goes on with the first such bank of the order of R473; a failed die link after training halts with 0x0B0A; after step 9 the module is ready, with MOD_READY high and ID_BOOT_STATUS.STEP 10. One step of start-up ends on each idle step, which is the model's choice (log entry 1). (R40, R462, R465, R472, R473.) -/
def Obligations.StartUpHaltsOrReachesReady : Prop :=
  ∀ (s : State) (f : StartFacts), s.pending = [] → s.phase = .boot → s.boot.facts = some f → s.boot.updReq = false →
    let halts : Nat → Prop := fun code => ∃ t : State, Machine.step s = .next t ∧ t.phase = .halted ∧ t.boot.halted = true ∧ t.boot.code = code ∧ t.pins.ready = false
    (s.boot.step = 2 → s.flash.map? = none → halts 0x0B04) ∧
    (s.boot.step = 2 → s.flash.map? ≠ none → s.flash.a.flag = false → s.flash.b.flag = false → halts 0x0B01) ∧
    (s.boot.step = 3 → imageOk s.flash s.flash.a = false → imageOk s.flash s.flash.b = false → halts 0x0B01) ∧
    (s.boot.step = 3 → s.flash.a.flag = true → s.flash.b.flag = true → imageOk s.flash s.flash.a = true → imageOk s.flash s.flash.b = true →
      ∃ t : State, Machine.step s = .next t ∧ t.boot.step = 4 ∧ t.boot.bank = decide (imageGen s.flash.a.image < imageGen s.flash.b.image) ∧
        t.boot.gen = max (imageGen s.flash.a.image) (imageGen s.flash.b.image)) ∧
    (s.boot.step = 5 → (∃ l ∈ s.fabric.links, l.failed = true) → f.pcFail = [] → f.linkFail = [] → halts 0x0B0A) ∧
    (s.boot.step = 9 → ∃ t : State, Machine.step s = .next t ∧ t.phase = .run ∧ t.boot.ready = true ∧ t.boot.step = 10 ∧ t.pins.ready = true)

/-- For every state s whose SMBus target answers: UPDATE in a halted start-up (but for code 0x0B09) enters the update state with MOD_READY low and the target bank erased; while the module runs it only sets the bit. In the update state a block of 1 to 255 bytes is put after the target bank's image, and any other length sets BAD_CMD; COMMIT of an image that passes its check and is newer than the other committed bank sets the commit flag and DONE with event 0x0B08, otherwise STATUS is 0x0B07 and the flash is as before; ABORT sets DONE and leaves the flash. (R465, R472, R480, R481, R495.) -/
def Obligations.UpdateReplacesTheOtherBank : Prop :=
  ∀ (s : State) (v : Word), s.smbOpen = true →
    let b := s.flash.bank s.boot.updBank
    let c := { b with authentic := (imageRoot s.sec.keys.vendorRoots b.image).isSome, root := (imageRoot s.sec.keys.vendorRoots b.image).getD 0 }
    let o := s.flash.bank (!s.boot.updBank)
    (v.getLsbD 0 = true → s.phase = .halted → s.boot.code ≠ 0x0B09 →
      ∃ t : State, exec (.update v) s = .next t ∧ t.phase = .update ∧ t.pins.ready = false ∧ t.boot.update = true ∧ t.boot.updDone = false ∧
        t.flash.bank t.boot.updBank = {} ∧ t.flash.bank (!t.boot.updBank) = s.flash.bank (!t.boot.updBank)) ∧
    (s.phase = .run → s.boot.code ≠ 0x0B09 → exec (.update v) s = .next (s.setBoot { s.boot with updReq := v.getLsbD 0 })) ∧
    (∀ data : Bytes, 1 ≤ data.length → data.length ≤ 255 → s.phase = .update → b.flag = false →
      ∃ t : State, exec (.sbBootDataWrite data) s = .next t ∧ (t.flash.bank s.boot.updBank).image = (b.image ++ data).take maxImage ∧
        t.flash.bank (!s.boot.updBank) = o ∧ t.setFlash s.flash = s) ∧
    (∀ data : Bytes, (data.length = 0 ∨ 255 < data.length) →
      ∃ t : State, exec (.sbBootDataWrite data) s = .next t ∧ t.steward.sbEvent.getLsbD 5 = true ∧ t.flash = s.flash) ∧
    (s.phase = .update → s.boot.updDone = false → v.getLsbD 1 = true →
      ∃ t : State, exec (.sbBootCommit v) s = .next t ∧ t.boot.updDone = true ∧
        (imageOk s.flash c = true → (o.flag = false ∨ imageGen o.image < imageGen b.image) →
          (t.flash.bank s.boot.updBank).flag = true ∧ (t.flash.bank s.boot.updBank).image = b.image ∧ t.err.lastCode = 0x0B08) ∧
        ((imageOk s.flash c = false ∨ (o.flag = true ∧ imageGen b.image ≤ imageGen o.image)) → t.flash = s.flash ∧ t.boot.updStatus = 0x0B07)) ∧
    (s.phase = .update → s.boot.updDone = false → v.getLsbD 1 = false → v.getLsbD 2 = true →
      ∃ t : State, exec (.sbBootAbort v) s = .next t ∧ t.boot.updDone = true ∧ t.flash = s.flash)

/-- For every state s and start facts with good firmware: WARM_RESET with the key 0x5A17 begins a warm reset in which nothing is admitted, granted or queued and both levels are 0; without RESET or the key it only stores FLUSH_S. WATCHDOG_EXPIRY, HUB_SRAM_UNCORRECTABLE and PARTITION_RESET_OVERRUN begin one as well when the rules of R522 let the module climb, counting it, and otherwise stop the module. WARM_RESET_TIMEOUT during a warm reset stops it. A warm reset completes on an idle step, with SESSION advanced (log entry 1). (R375, R482, R510, R522, R523, R524.) -/
def Obligations.WarmResetsAndTheStoppedState : Prop :=
  (∀ (v : Word) (f : StartFacts) (s : State), s.barOpen = true → s.parts.length = 16 → s.queues.length = 64 →
    (v.getLsbD 0 = true → bits v.toNat 31 16 = 0x5A17 → s.boot.updReq = false → f.firmwareOk = true →
      ∃ t : State, exec (.warmReset v f) s = .next t ∧ Claims.WarmBegan t) ∧
    (v.getLsbD 0 = true → bits v.toNat 31 16 = 0x5A17 → s.boot.updReq = false → f.firmwareOk = false →
      ∃ t : State, exec (.warmReset v f) s = .next t ∧ Claims.Stopped t ∧ t.boot.code = 0x0B0C) ∧
    ((v.getLsbD 0 = false ∨ bits v.toNat 31 16 ≠ 0x5A17) →
      exec (.warmReset v f) s = .next ((Claims.atBar0 s).setLink { (Claims.atBar0 s).link with flushS := max 1 (bits v.toNat 15 8) }))) ∧
  (∀ (f : StartFacts) (p : Fin 16) (s : State) (i : Instr), Claims.ClimbsToWarm s → f.firmwareOk = true →
    (i = .watchdogExpiry f ∨ i = .hubSramUncorrectable f ∨ i = .partitionResetOverrun p f) →
    ∃ t : State, exec i s = .next t ∧ Claims.WarmBegan t ∧ t.err.autoWarm = true ∧ t.err.lastAuto = some s.nowUs ∧ t.err.autoWarms = min 15 (s.err.autoWarms + 1)) ∧
  (∀ (f : StartFacts) (p : Fin 16) (s : State) (i : Instr), (s.phase = .run ∧ (s.err.autoWarmEn = false ∨ ∃ t, s.err.lastAuto = some t ∧ s.nowUs < t + autoGapUs)) →
    (i = .watchdogExpiry f ∨ i = .hubSramUncorrectable f ∨ i = .partitionResetOverrun p f) → ∃ t : State, exec i s = .next t ∧ Claims.Stopped t) ∧
  (∀ s : State, s.phase = .warm → ∃ t : State, exec .warmResetTimeout s = .next t ∧ Claims.Stopped t) ∧
  (∀ s : State, s.phase = .warm → s.pending = [] → s.link.lossPend = none →
    ∃ t : State, Machine.step s = .next t ∧ t.phase = .run ∧ t.pins.ready = true ∧ t.boot.ready = true ∧ t.link.warmDone = true ∧
      t.fab.session = min deadSession (s.fab.session + 1))

namespace Sys2Proof.Claims

/-- In `t` a host-loss reset that began in `s` has ended: no partition, command, grant or level is left, SESSION has advanced and HOST_LOSS waits for the first access (R369 steps 5 to 7). -/
def LossDone (s t : State) : Prop :=
  t.anyPart = false ∧
    (∀ q, (s.queue q).assigned = true → (s.part (s.queue q).part).admitted = true → (t.queue q).fifo = [] ∧ (t.queue q).assigned = false) ∧
    t.mem.grants = [] ∧ t.link.hostLevel = 0 ∧ t.link.effLevel = 0 ∧ t.link.losing = false ∧
    t.link.hostLoss = true ∧ t.link.firstAccess = true ∧ t.link.hostLosses = min 65535 (s.link.hostLosses + 1) ∧
    t.fab.session = min deadSession (s.fab.session + 1) ∧ t.err.lastCode = 0x0711

/-- The interrupt messages that `s` held and that no mask holds have been sent in `t`, unless the host still takes nothing: `v` are those pending in `t`. -/
def HeldSent (s t : State) (v : List Nat) : Prop :=
  (t.outbound = true → (∀ n ∈ v, s.vecMasked n = true) ∧ ∀ n ∈ s.link.heldVec, s.vecMasked n = false → .msix n ∈ t.out) ∧
    (t.outbound = false → ∀ n ∈ s.link.heldVec, n ∈ v)

/-- No partition of `s` exports an epoch or has a configured stream destination. -/
def NoStreams (s : State) : Prop := ∀ x ∈ s.parts, x.stream.epoch = none ∧ cfgDest x.stream.cfg = 0

end Sys2Proof.Claims

/-- For every running state s in which no host-loss reset runs: HOST_LOSS_RESET, and LINK_LOSS_TIMEOUT out of L0 with cause 3, take the cause into LAST_CAUSE; when no partition has a stream to export, the reset ends at once with no partition, command, grant or level left, and otherwise, with an epoch exporting, it stays in progress and no BAR0 write arrives. A further cause during one changes nothing but the link. FLUSH_TIMEOUT ends one in progress with FLUSH_ABANDONED set. A cause during a warm reset waits, and one in start-up, a halted start-up or the update state sets both levels to 0 at once (the model's choices, log entry 27). (R9, R224, R356, R367, R369.) -/
def Obligations.HostLossResetEndsTheWork : Prop :=
  (∀ (c : HostLossCause) (s : State), s.phase = .run → s.link.losing = false → s.parts.length = 16 → s.queues.length = 64 →
    (Claims.NoStreams s → ∃ t : State, exec (.hostLossReset c) s = .next t ∧ Claims.LossDone s t ∧ t.link.lastCause = lossCode c ∧ (lossDowns c = true → t.link.st = .down)) ∧
    ((∃ x ∈ s.parts, x.admitted = true ∧ x.stream.epoch ≠ none) →
      ∃ t : State, exec (.hostLossReset c) s = .next t ∧ t.link.losing = true ∧ t.link.lastCause = lossCode c ∧ t.barOpen = false ∧ t.fabric.lines = []) ∧
    (s.link.st = .recovery → exec .linkLossTimeout s = exec (.hostLossReset .linkLoss) s)) ∧
  (∀ (c : HostLossCause) (s : State), s.phase = .run → s.link.losing = true →
    exec (.hostLossReset c) s = .next (if lossDowns c then s.setLink { s.link with st := .down, cfgOk := false } else s)) ∧
  (∀ s : State, s.phase = .run → s.link.losing = true → s.parts.length = 16 → s.queues.length = 64 →
    ∃ t : State, exec .flushTimeout s = .next t ∧ Claims.LossDone s t ∧ t.link.flushAbandoned = true) ∧
  (∀ (c : HostLossCause) (s : State), s.phase = .warm → s.link.lossPend = none →
    ∃ t : State, exec (.hostLossReset c) s = .next t ∧ t.link.lossPend = some c ∧ t.phase = .warm ∧ t.parts = s.parts) ∧
  (∀ (c : HostLossCause) (s : State), (s.phase = .boot ∨ s.phase = .halted ∨ s.phase = .update) → s.link.losing = false →
    ∃ t : State, exec (.hostLossReset c) s = .next t ∧ t.link.hostLevel = 0 ∧ t.link.effLevel = 0 ∧ t.link.hostLoss = true ∧ t.link.firstAccess = true ∧
      t.link.lastCause = lossCode c ∧ t.phase = s.phase ∧ t.parts = s.parts)

/-- For every state s: LINK_RECOVERY leaves L0 and changes nothing else; LINK_RETURN_L0 with a rate and width that R348 gives the link brings it back with them and one more retrain, in the flit mode it had where that fits the rate (which of the two it takes at 64 GT/s is free: log entry 108); LINK_REACHES_L0 with the rails on and a rate, width and flit mode of R348 sets L0, the flit mode and CXL.cache, and configuration requests are answered from the end of start-up step 2 on; with other operands neither changes anything; D3HOT_ENTRY on a trained link sets D3hot alone; D0_RETURN clears it and, in L0, fetches every waiting entry of an enabled queue. When the host takes outbound traffic again what waited for it goes on: the pending interrupt messages that are not masked are sent (log entry 12), and the rest of the link's registers are as before. The first BAR0 access after a host-loss reset raises vector 65 while HOST_LOSS is set, also before start-up is complete and in the stopped state; a masked vector, or one that the host cannot take, becomes pending. (R348, R349, R350, R352, R354, R367, R463, R524.) -/
def Obligations.HostLinkMovesBetweenItsStates : Prop :=
  (∀ s : State, s.link.st = .l0 → exec .linkRecovery s = .next (s.setLink { s.link with st := .recovery })) ∧
  (∀ (speed : BitVec 3) (width : BitVec 5) (s : State), s.link.st = .recovery →
    (linkWf speed.toNat width.toNat = true →
      ∃ (t : State) (v : List Nat), exec (.linkReturnL0 speed width) s = .next t ∧ Claims.HeldSent s t v ∧
        t.link = { s.link with
          st := .l0, speed := speed.toNat, width := width.toNat, flit := flitAfter speed.toNat s.link.flit s.draw.1
          retrains := min 65535 (s.link.retrains + 1), heldVec := v }) ∧
    (linkWf speed.toNat width.toNat = false → exec (.linkReturnL0 speed width) s = .next s)) ∧
  (∀ (speed : BitVec 3) (width : BitVec 5) (flit : BitVec 2) (cache : Bool) (s : State), s.phase ≠ .off →
    (linkWf speed.toNat width.toNat = true → flitFits speed.toNat flit.toNat = true →
      ∃ (t : State) (v : List Nat), exec (.linkReachesL0 speed width flit cache) s = .next t ∧ Claims.HeldSent s t v ∧
        t.link = { s.link with
          st := .l0, speed := speed.toNat, width := width.toNat, flit := flit.toNat, cache := cache
          cfgOk := !s.link.losing && decide (2 ≤ s.boot.step), heldVec := v }) ∧
    (linkWf speed.toNat width.toNat = false ∨ flitFits speed.toNat flit.toNat = false → exec (.linkReachesL0 speed width flit cache) s = .next s)) ∧
  (∀ s : State, s.link.st ≠ .down → exec .d3hotEntry s = .next (s.setLink { s.link with d3hot := true })) ∧
  (∀ (host : List HostBlk) (s : State), s.link.d3hot = true → s.queues.length = 64 →
    ∃ (t : State) (v : List Nat), exec (.d0Return host) s = .next t ∧ Claims.HeldSent s t v ∧ t.link = { s.link with d3hot := false, heldVec := v } ∧
      ∀ q, s.link.st = .l0 → s.link.losing = false → q < 64 → (s.queue q).enable = true → (s.queue q).assigned = true → (s.queue q).sqHead < (s.queue q).size → (s.queue q).sqTail < (s.queue q).size →
        (t.queue q).sqHead = (s.queue q).sqTail) ∧
  (∀ s : State, s.phase ≠ .off → s.phase ≠ .shutdown → s.link.st ≠ .down → s.link.d3hot = false → s.link.losing = false →
    ∃ t : State, exec .firstBar0AccessAfterHostLoss s = .next t ∧ (s.phase = .run → t.power.idle = 0) ∧ t.link.firstAccess = false ∧
      (s.outbound = true → s.vecMasked 65 = false →
        t.link = { s.link with firstAccess := false } ∧ t.out = s.out ++ (if s.link.firstAccess && s.link.hostLoss then [.msix 65] else [])) ∧
      (s.outbound = false ∨ s.vecMasked 65 = true → t.out = s.out ∧ (s.link.firstAccess = true → s.link.hostLoss = true → 65 ∈ t.link.heldVec)))

/-- For every state s in which the write arrives, a write of ID_HOST_LEVEL with CXL.cache enabled and no partition stores bits 7 to 0 and puts the lower of it and 1 in force, and otherwise changes nothing but the wake of a running module. With a trained link an invalid BAR0 read, and any BAR2 read, is answered with Unsupported Request and changes nothing else; an invalid BAR0 write changes nothing. (R7, R8, R9, R349, R353, R463.) -/
def Obligations.LevelWritesAndInvalidAccesses : Prop :=
  (∀ (v : Word) (s : State), s.levelOpen = true →
    let b := if s.phase = .run then Claims.atBar0 s else s.hostAccess
    (s.anyPart = false → s.link.cache = true →
      ∃ t : State, exec (.idHostLevelWrite v) s = .next t ∧
        t.link = { b.link with hostLevel := v.toNat % 256, effLevel := min 1 (v.toNat % 256) } ∧ t.setLink s.link = b.setLink s.link) ∧
    ((s.anyPart = true ∨ s.link.cache = false) → exec (.idHostLevelWrite v) s = .next b)) ∧
  (∀ (off : BitVec 24) (n : Nat) (s : State), s.link.st ≠ .down → exec (.bar0AccessInvalid off n false) s = .next (s.emit (.unsupported off.toNat))) ∧
  (∀ (off : BitVec 24) (n : Nat) (s : State), exec (.bar0AccessInvalid off n true) s = .next s) ∧
  (∀ (off : BitVec 28) (s : State), s.link.st ≠ .down → exec (.bar2Read off) s = .next (s.emit (.unsupported off.toNat)))

/-- For every partition p and state s: BIND with the registers that pass R361 binds the window with empty pointers, and UNBIND unbinds it. A data write inside the free part of a bound window, from a requester that the filter lets pass, stores its bytes in the ring and nothing else; one that does not fit, or runs past the ring's end, is dropped and counted; one to an unbound window, or to an offset past the ring, is counted in ID_LAND_DISCARD; the four bytes at 0xFF_F000 are the tail doorbell. A tail doorbell with a legal value moves TAIL, and writes a landing record with that TAIL when the completion ring takes it, otherwise the record waits. A legal value of PART_LAND_HEAD is taken and another is ignored. A BAR2 write before the module runs is counted in ID_LAND_DISCARD too. (R360, R361, R362, R363, R364, R365, R366.) -/
def Obligations.LandingApertureTakesWhatFits : Prop :=
  (∀ (p : Fin 16) (v : Word) (s : State), s.barOpen = true → s.parts.length = 16 →
    let b := (Claims.atBar0 s).modPart p.val fun x => { x with landQueue := bits v.toNat 9 4 }
    let x := b.part p.val
    let base := (x.landHi.toNat % 65536) * 2 ^ 32 + x.landLo.toNat
    (v.getLsbD 0 = true → v.getLsbD 1 = false → b.bindStatus p.val = 0 →
      ∃ t : State, exec (.bind p v) s = .next t ∧ t.setParts b.parts = b ∧
        ∃ n, t.part p.val = { x with landStatus := 0, bound := true, landTail := 0, landHead := 0, landSize := n * slabB, landBase := base } ∧
          ∃ r ∈ s.mem.regions, r.part = p.val ∧ r.base * slabB = base ∧ r.slabs = n) ∧
    (v.getLsbD 0 = true → v.getLsbD 1 = false → b.bindStatus p.val ≠ 0 →
      exec (.bind p v) s = .next (b.modPart p.val fun x => { x with landStatus := 0x0701 })) ∧
    (v.getLsbD 0 = false → v.getLsbD 1 = true → exec (.unbind p v) s = .next (b.modPart p.val fun x => { x with bound := false }))) ∧
  (∀ (off : BitVec 28) (data : Bytes) (req : BitVec 16) (s : State), ¬ (off.toNat % 16777216 = 0xFFF000 ∧ data.length = 4) →
    Safety.MemoryCanonical s →
    let p := off.toNat / 16777216
    let o := off.toNat % 16777216
    let x := s.part p
    (s.bar2Open = true → x.bound = true → x.filtered req.toNat = false → o < x.landSize → o + data.length ≤ x.landSize →
      (o + x.landSize - x.landTail) % x.landSize + data.length ≤ x.landFree →
      (∀ k ∈ spanSlabs (x.landBase + o) data.length, ∃ y, s.slab? k = some y ∧ y.st ≠ .lost) →
      ∃ t : State, exec (.landingDataWrite off data req) s = .next t ∧ t.parts = s.parts ∧ t.queues = s.queues ∧
        ∀ a, Claims.devByte t a =
          if x.landBase + o ≤ a ∧ a < x.landBase + o + data.length then data.getD (a - (x.landBase + o)) 0 else Claims.devByte s a) ∧
    (s.bar2Open = true → x.bound = true → x.filtered req.toNat = false → o < x.landSize → p < s.parts.length →
      (x.landSize < o + data.length ∨ x.landFree < (o + x.landSize - x.landTail) % x.landSize + data.length) →
      ∃ t : State, exec (.landingDataWrite off data req) s = .next t ∧ t.mem = s.mem ∧ (t.part p).landDropped = min 4294967295 (x.landDropped + 1)) ∧
    (s.bar2Open = true → x.bound = false ∨ x.landSize ≤ o → exec (.landingDataWrite off data req) s =
      .next (s.wakeNow.setLink { s.link with landDiscard := min 4294967295 (s.link.landDiscard + 1) })) ∧
    (s.bar2Open = false → exec (.landingDataWrite off data req) s =
      .next (s.setLink { s.link with landDiscard := min 4294967295 (s.link.landDiscard + 1) }))) ∧
  (∀ (p : Fin 16) (v : Word) (req : BitVec 16) (s : State),
    exec (.landingDataWrite (BitVec.ofNat 28 (16777216 * p.val + 0xFFF000)) (leBytes 4 v.toNat) req) s = exec (.tailDoorbell p v req) s) ∧
  (∀ (p : Fin 16) (v : Word) (req : BitVec 16) (s : State), s.bar2Open = true → s.parts.length = 16 → Safety.MemoryCanonical s →
    let x := s.part p.val
    let t := v.toNat % 2 ^ 24
    let d := (t + x.landSize - x.landTail) % x.landSize
    x.bound = true → x.filtered req.toNat = false → t % 128 = 0 → t < x.landSize → 0 < d → d ≤ x.landFree →
    (Claims.TakesRecord s x.landQueue → (s.queue x.landQueue).landPending = false → x.landQueue < 64 →
      ∃ u : State, exec (.tailDoorbell p v req) s = .next u.settle ∧ (u.part p.val).landTail = t ∧ u.mem.dev = s.mem.dev ∧
        field (Claims.nextRecord s u x.landQueue) 6 2 = 0 ∧ field (Claims.nextRecord s u x.landQueue) 8 8 = t) ∧
    ((s.queue x.landQueue).ringRoom = false → x.landQueue < s.queues.length →
      ∃ u : State, exec (.tailDoorbell p v req) s = .next u ∧ (u.part p.val).landTail = t ∧ (u.queue x.landQueue).landPending = true ∧
        (u.queue x.landQueue).cqFull = true ∧ u.mem = s.mem)) ∧
  (∀ (p : Fin 16) (v : Word) (s : State), s.barOpen = true → s.parts.length = 16 →
    let x := s.part p.val
    let h := v.toNat % 2 ^ 24
    ∃ t : State, exec (.partLandHeadWrite p v) s = .next t ∧ (∀ k, k ≠ p.val → t.part k = s.part k) ∧ t.setParts s.parts = Claims.atBar0 s ∧
      t.part p.val =
        if x.bound = true ∧ h % 128 = 0 ∧ h < x.landSize ∧ (h + x.landSize - x.landHead) % x.landSize ≤ (x.landTail + x.landSize - x.landHead) % x.landSize
        then { x with landHead := h } else x)

/-- For every partition p and state s with an open epoch e: EPOCH_END with a cellar or storage destination and no comparison sends every record left, closes the epoch and frees the retained slabs; RING_FULL_TIMEOUT of a host ring with records left, the end record among them, abandons it with event 0x0212; DIGEST_TIMEOUT of an open comparison counts the members without a digest as missing. Then waiting commits go on. A write of PART_STREAM_TAIL moves TAIL inside the ring's unread part and is otherwise ignored; a write of PART_DIGEST_STATUS clears the bits that it names. READOUT of a retained epoch that fits writes its records to host memory and ends it, DISCARD ends it, and a readout that cannot be served leaves it with its status. (R182, R183, R185, R190, R196, R197, R371, R372.) -/
def Obligations.StreamEpochsEndAndAreRead : Prop :=
  (∀ (p : Fin 16) (s : State) (e : Epoch), s.parts.length = 16 → (s.part p.val).stream.epoch = some e →
    let st := (s.part p.val).stream
    let d := epochDest st.cfg e
    (d ≠ 2 → e.compare = false → s.link.losing = false →
      ∃ u : State, exec (.epochEnd p) s = .next (u.retryPool p.val).settle ∧ u.mem = s.mem ∧
        (∀ r ∈ e.recs, .stream p.val d r ∈ u.out) ∧ .stream p.val d (endRecord { e with recs := [] }) ∈ u.out ∧
        (u.part p.val).stream.epoch = none ∧ (u.part p.val).stream.last = e.no ∧ (u.part p.val).stream.retT1 = 0 ∧ (u.part p.val).stream.retT2 = 0 ∧
        (u.part p.val).stream.hashes = e.hashes ∧ (u.part p.val).stream.needKey = st.needKey ∧ (u.part p.val).stream.opened = st.opened) ∧
    (d = 2 → e.recs ≠ [] ∨ e.compare = false → s.link.losing = false →
      ∃ u : State, exec (.ringFullTimeout p) s = .next (u.retryPool p.val).settle ∧ u.mem = s.mem ∧ (u.part p.val).stream.epoch = none ∧
        (u.part p.val).stream.destLost = true ∧ (u.part p.val).stream.needKey = true ∧ (u.part p.val).stream.retT1 = 0 ∧ (u.part p.val).stream.retT2 = 0 ∧
        u.err.lastCode = 0x0212) ∧
    (e.compare = true → e.recs ≠ [] →
      let miss := (List.range (cfgMembers st.cfg)).filter fun k => k != cfgSelf st.cfg && !st.got.any fun g => g.1 == k && g.2.1 == e.step
      ∃ u : State, exec (.digestTimeout p) s = .next u.settle ∧ u.mem = s.mem ∧
        (u.part p.val).stream.missing = (miss.map fun k => 2 ^ k).sum ∧ (u.part p.val).stream.timeout = (st.timeout || !miss.isEmpty) ∧
        (u.part p.val).stream.epoch.map (fun x => (x.compare, x.recs)) = some (false, e.recs))) ∧
  (∀ (p : Fin 16) (v : Word) (s : State), s.barOpen = true → s.parts.length = 16 →
    let st := (s.part p.val).stream
    let S := ringBytes st.cfg
    (v.toNat % 4 = 0 → v.toNat < S → (v.toNat + S - st.tail) % S ≤ (st.head + S - st.tail) % S → st.epoch = none →
      ∃ t : State, exec (.partStreamTailWrite p v) s = .next t ∧ (t.part p.val).stream.tail = v.toNat ∧ (t.part p.val).stream.head = st.head ∧ t.mem = s.mem) ∧
    ((v.toNat % 4 ≠ 0 ∨ S ≤ v.toNat ∨ (st.head + S - st.tail) % S < (v.toNat + S - st.tail) % S) →
      exec (.partStreamTailWrite p v) s = .next (Claims.atBar0 s)) ∧
    (∃ u : State, exec (.resume p v) s = .next u.settle ∧
      (u.part p.val).stream = { st with diverged := st.diverged && !v.getLsbD 0, timeout := st.timeout && !v.getLsbD 1, held := st.held && !v.getLsbD 3 } ∧
      (∀ k, k ≠ p.val → u.part k = s.part k) ∧ u.mem = s.mem)) ∧
  (∀ (v : Word) (ok : Fin 3) (s : State), s.barOpen = true → Safety.MemoryCanonical s →
    let p := v.toNat % 16
    let a := s.hle.addrHi.toNat * 2 ^ 32 + s.hle.addrLo.toNat
    (∀ r, v.getLsbD 4 = true → v.getLsbD 5 = false → s.hle? p = some r → a % 4096 = 0 → s.hlePages p ≤ s.hle.size → ok = 0 →
      ∃ t : State, exec (.readout v ok) s = .next t ∧ t.mem.hostMem = Memory.write s.mem.hostMem a r.2.2.1.flatten ∧ t.mem.dev = s.mem.dev ∧
        t.hle.retained = s.hle.retained.erase r ∧ t.hle.status = 0 ∧ t.hle.part = p) ∧
    (v.getLsbD 4 = true → v.getLsbD 5 = false → (s.hle? p = none ∨ a % 4096 ≠ 0 ∨ s.hle.size < s.hlePages p) →
      ∃ t : State, exec (.readout v ok) s = .next t ∧ t.mem = s.mem ∧ t.hle = { s.hle with part := p, status := 0x0715 }) ∧
    (∀ r, v.getLsbD 4 = true → v.getLsbD 5 = false → s.hle? p = some r → a % 4096 = 0 → s.hlePages p ≤ s.hle.size → ok ≠ 0 →
      ∃ t : State, exec (.readout v ok) s = .next t ∧ t.mem = s.mem ∧ t.hle = { s.hle with part := p, status := if ok = 1 then 0x0390 else 0x0391 }) ∧
    (v.getLsbD 4 = false → v.getLsbD 5 = true →
      ∃ t : State, exec (.discard v) s = .next t ∧ (∀ r, s.hle? p = some r → t.hle.retained = s.hle.retained.erase r) ∧ t.mem = s.mem ∧ ∀ k, k ≠ p → t.hle? k = s.hle? k))

namespace Sys2Proof.Claims

/-- A packet of TYPE `ty` and KIND `kind` passes every check of the transport and is new in its flow: PFT is in service, the module runs, the packet is for this endpoint, its sender has a peer entry, its tag is good, its base header passes R13 and its session is the one in force (R13, R284, R287, R289, R292, R293, R443, R445). -/
def Accepts (s : State) (h : PftHdr) (ty kind : Nat) : Prop :=
  s.fab.valid = true ∧ s.phase = .run ∧ h.dstEp.toNat = s.fab.ep ∧ s.hasPeer h.srcEp.toNat = true ∧ h.tagOk = true ∧ h.version ≠ 0 ∧ h.lengthOk = true ∧
    h.type_.toNat = ty ∧ h.kind.toNat = kind ∧
    (s.fab.sessions.find? fun y => y.1 == h.srcEp.toNat) = some (h.srcEp.toNat, h.session.toNat) ∧ s.rxNew h = true

/-- A control packet that is accepted and carries a lease message (R13, R229, R529). -/
def AcceptsLease (s : State) (h : PftHdr) : Prop := Accepts s h 0x50 5 ∧ h.msg.ok 0x33 = true

/-- The admission descriptor that a write of PART_ADMIT_CTRL with these host blocks reads. -/
def descOf (s : State) (host : List HostBlk) : Bytes := ((atBar0 s).hostStore host).admBytes

end Sys2Proof.Claims

/-- For every state s in which BAR0 writes arrive with no operation in progress: ADMIT of a descriptor that passes R13 and R246 with no T4 slabs wanted creates the partition with the descriptor's cores, weights, budget, reservations and queues, STATUS 0 and one more layout; MODIFY of one that passes R250 changes its cores, weights and budget; PARTITION_RESET of an admitted partition leaves no command, core, slab, region, lease or window of it, its device range reads 0 and its queues are unassigned. An ADMIT or MODIFY that fails its checks changes no partition and leaves its STATUS. (R211, R245, R246, R247, R248, R250, R251, R447.) -/
def Obligations.AdmissionCreatesThePartition : Prop :=
  (∀ (v : Word) (host : List HostBlk) (s : State), s.barOpen = true → s.adm.busy = false → s.parts.length = 16 → s.queues.length = 64 →
    let b := ((Claims.atBar0 s).hostStore host).modAdm fun a => { a with part := bits v.toNat 7 4 }
    let bs := Claims.descOf s host
    let d := admDesc bs
    (v.getLsbD 0 = true → v.getLsbD 1 = false → v.getLsbD 2 = false →
      (b.admHeader bs = 0 → b.admitStatus d false = 0 → b.admitStatus d true = 0 → d.resOf .t4 = 0 →
        ∃ u : State, exec (.admitPart v host) s = .next u.settle ∧ (u.part d.part).admitted = true ∧ (u.part d.part).cores = d.cores ∧
          (u.part d.part).c0Set.length = d.c0 ∧ (u.part d.part).c0Set.length + (u.part d.part).general.length = d.cores ∧
          (u.part d.part).weights = d.weights ∧ (u.part d.part).tokens = d.burst ∧ (u.part d.part).res = d.res ∧ (u.part d.part).leases = [] ∧
          (∀ q ∈ d.queueList, (u.queue q).assigned = true ∧ (u.queue q).part = d.part) ∧ (∀ k, k ≠ d.part → u.part k = s.part k) ∧
          u.adm.status = 0 ∧ u.adm.busy = false ∧ u.sec.layouts = (s.sec.layouts + 1) % 2 ^ 32) ∧
      (∀ st, st ≠ 0 → (b.admHeader bs = st ∨ (b.admHeader bs = 0 ∧ b.admitStatus d false = st)) →
        ∃ u : State, exec (.admitPart v host) s = .next u.settle ∧ u.adm.status = st ∧ u.parts = s.parts ∧ u.queues = s.queues ∧ u.mem = b.mem)) ∧
    (v.getLsbD 0 = false → v.getLsbD 1 = true → v.getLsbD 2 = false →
      (b.admHeader bs = 0 → b.modifyStatus d = 0 →
        ∃ u : State, exec (.modify v host) s = .next u.settle ∧
          u.part d.part = { s.part d.part with
            weights := d.weights, cores := d.cores, c0Cores := d.c0, c0Rate := d.rate, c0Burst := d.burst, tokens := min (s.part d.part).tokens d.burst
            c0Set := (u.part d.part).c0Set, general := (u.part d.part).general } ∧
          (u.part d.part).c0Set ++ (u.part d.part).general = b.assignCores d.part d.cores ∧ (∀ k, k ≠ d.part → u.part k = s.part k) ∧
          u.queues = s.queues ∧ u.adm.status = 0) ∧
      (∀ st, st ≠ 0 → (b.admHeader bs = st ∨ (b.admHeader bs = 0 ∧ b.modifyStatus d = st)) →
        ∃ u : State, exec (.modify v host) s = .next u.settle ∧ u.adm.status = st ∧ u.parts = s.parts ∧ u.queues = s.queues))) ∧
  (∀ (v : Word) (s : State), s.barOpen = true → s.adm.busy = false → s.parts.length = 16 → s.queues.length = 64 →
    let p := bits v.toNat 7 4
    v.getLsbD 0 = false → v.getLsbD 1 = false → v.getLsbD 2 = true → (s.part p).admitted = true →
      ∃ u : State, exec (.partitionReset v) s = .next u.settle ∧ (u.part p).admitted = false ∧ (u.part p).coreSet = [] ∧ (u.part p).leases = [] ∧
        (u.part p).windows = [] ∧ (u.part p).gsets = [] ∧ (u.part p).bound = false ∧ (∀ x ∈ u.mem.slabs, x.part ≠ p) ∧ (∀ r ∈ u.mem.regions, r.part ≠ p) ∧
        (∀ a, partOfKey (keyOf a) = p → Claims.devByte u a = 0) ∧ (∀ a, partOfKey (keyOf a) ≠ p → Claims.devByte u a = Claims.devByte s a) ∧
        (∀ q, (s.queue q).assigned = true → (s.queue q).part = p → (u.queue q).fifo = [] ∧ (u.queue q).assigned = false ∧ (u.queue q).sqTail = 0 ∧ (u.queue q).cqTail = 0) ∧
        u.sec.layouts = (s.sec.layouts + 1) % 2 ^ 32)

/-- For every state s in which BAR0 writes arrive and no partition exists: GRANT of a table that passes its checks adds its entries, and PART_MEM_CAP_T3 is the sum of the granted slabs; one that fails leaves the grant and STATUS 0x0305; REVOKE empties the grant. While a partition exists both are ignored. LEND_MAX_WRITE stores LEND_MAX and NOTICE (at least 5) and, with no more lent than that, changes nothing else. (R205, R224, R225, R228, R231, R240, R242.) -/
def Obligations.GrantedMemoryAndLending : Prop :=
  (∀ (v : Word) (host : List HostBlk) (s : State), s.barOpen = true →
    let b := (Claims.atBar0 s).hostStore host
    let tab := b.hostSeen (s.mem.t3Hi.toNat * 2 ^ 32 + s.mem.t3Lo.toNat) 4112
    (s.anyPart = false → v.getLsbD 0 = true → v.getLsbD 1 = false →
      (b.grantStatus tab = 0 → exec (.grant v host) s = .next (b.setMem { b.mem with
        t3Status := 0, grants := s.mem.grants ++ grantEntries tab, capT3 := ((s.mem.grants ++ grantEntries tab).map (·.2)).sum })) ∧
      (b.grantStatus tab ≠ 0 → exec (.grant v host) s = .next (b.setMem { b.mem with t3Status := 0x0305 }))) ∧
    (s.anyPart = true → exec (.grant v host) s = .next b)) ∧
  (∀ (v : Word) (s : State), s.barOpen = true →
    (s.anyPart = false → v.getLsbD 0 = false → v.getLsbD 1 = true →
      exec (.revoke v) s = .next ((Claims.atBar0 s).setMem { s.mem with grants := [], capT3 := 0 })) ∧
    (s.anyPart = true → exec (.revoke v) s = .next (Claims.atBar0 s))) ∧
  (∀ (v : Word) (s : State), s.barOpen = true → s.lentSlabs ≤ bits v.toNat 23 0 →
    exec (.lendMaxWrite v) s = .next ((Claims.atBar0 s).setMem { s.mem with lendMax := bits v.toNat 23 0, notice := max 5 (bits v.toNat 31 24) }))

/-- For every state s and accepted packet h: LEASE_REQUEST is granted the lower of the slabs wanted and those that may be lent, as a new lease of the sender with NOTICE_MS ten times NOTICE, and with none to lend no lease is made. A CELLAR_REQUEST inside a lease of its sender reads or writes that lease's bytes and is answered; one outside gets a PFT error response and changes no lease. LEASE_RELEASE, LENDER_NOTICE_EXPIRY of a lease under reclaim, and BORROWER_UNREACHABLE_END of an unreachable endpoint take the leases named back; the other leases stay. An accepted control packet whose record is no lease message of R229 changes nothing but its flow. (R228, R229, R230, R231, R448, R529.) -/
def Obligations.LendersGrantServeAndTakeBack : Prop :=
  (∀ (h : PftHdr) (bpart : Fin 16) (slabs : BitVec 32) (s : State), Claims.AcceptsLease s h →
    let r := (s.rxData h 5).1
    let n := min slabs.toNat s.lendRoom
    (0 < n → ∃ t : State, exec (.leaseRequest h bpart slabs) s = .next t ∧
      t.mem = { s.mem with
        nextLease := (s.mem.nextLease + 1) % 2 ^ 32
        lent := s.mem.lent ++ [{ ep := h.srcEp.toNat, bpart := bpart.val, id := s.mem.nextLease, slabs := n, noticeMs := 10 * s.mem.notice }] } ∧
      t.parts = s.parts) ∧
    (n = 0 → exec (.leaseRequest h bpart slabs) s = .next (r.sendCtrl h.srcEp.toNat bpart.val 0 (leaseMsg 3 bpart.val 0 0 0)))) ∧
  (∀ (h : PftHdr) (num : BitVec 16) (lease : BitVec 32) (off : BitVec 48) (len : Nat) (data : Option Bytes) (s : State), Claims.Accepts s h 0x50 6 →
    let n := match data with | some d => d.length | none => len
    let own := s.mem.lent.find? fun l => l.ep == h.srcEp.toNat && l.id == lease.toNat
    (∀ l, own = some l → off.toNat + n ≤ l.slabs * slabB → Memory.wf l.data = true →
      ∃ t : State, exec (.cellarRequest h num lease off len data) s = .next t ∧ t.mem.dev = s.mem.dev ∧
        (data = none → t.mem = s.mem ∧ .cellarAnswer h.srcEp.toNat num.toNat (Memory.read l.data off.toNat len) ∈ t.out) ∧
        (∀ d, data = some d → .cellarAnswer h.srcEp.toNat num.toNat [] ∈ t.out ∧
          ∀ x ∈ t.mem.lent, x.id = l.id → ∃ y ∈ s.mem.lent, y.id = l.id ∧ y.slabs = x.slabs ∧ (y = l → ∀ a, Memory.get x.data a =
            if off.toNat ≤ a ∧ a < off.toNat + n then d.getD (a - off.toNat) 0 else Memory.get l.data a))) ∧
    ((own = none ∨ ∃ l, own = some l ∧ l.slabs * slabB < off.toNat + n) →
      ∃ t : State, exec (.cellarRequest h num lease off len data) s = .next t ∧ t.mem = s.mem ∧ .cellarError h.srcEp.toNat num.toNat ∈ t.out)) ∧
  (∀ (h : PftHdr) (bpart : Fin 16) (lease : BitVec 32) (s : State), Claims.AcceptsLease s h → s.fab.asking = none →
    ∃ u : State, exec (.leaseRelease h bpart lease) s = .next u.settle ∧
      u.mem = { s.mem with lent := s.mem.lent.filter fun l => !(l.ep == h.srcEp.toNat && l.bpart == bpart.val && l.id == lease.toNat) }) ∧
  (∀ (lease : BitVec 32) (s : State), s.fab.asking = none →
    exec (.lenderNoticeExpiry lease) s = .next (s.setMem { s.mem with lent := s.mem.lent.filter fun l => !(l.reclaim && l.id == lease.toNat) }).settle) ∧
  (∀ (ep : BitVec 20) (s : State), s.fab.asking = none → (∃ x ∈ s.fab.unreachable, x.1 = ep.toNat) →
    exec (.borrowerUnreachableEnd ep) s = .next (s.setMem { s.mem with lent := s.mem.lent.filter fun l => !(l.ep == ep.toNat) }).settle) ∧
  (∀ (h : PftHdr) (p : Fin 16) (x y : BitVec 32) (ms : BitVec 16) (s : State) (i : Instr), Claims.Accepts s h 0x50 5 → h.msg.ok 0x33 = false →
    i ∈ [.leaseRequest h p x, .leaseRelease h p x, .leaseGrant h p x y ms, .leaseRefuse h p, .leaseReclaim h p x ms] → exec i s = .next (s.rxData h 5).1)

/-- For every state s that admits partition p by asking lender k: a LEASE_GRANT of that lender within the bound of R230 that still leaves slabs missing adds the lease and asks the next lender, and a LEASE_REFUSE or LENDER_TIMEOUT asks the next, the late request being sent no more; LEASE_ADMISSION_DEADLINE ends the admission with 0x0381 and gives every lease back. LEASE_RECLAIM of a held lease marks it, sets RECLAIM, turns its resident slabs to evacuating and abandons moves into it, and an open epoch whose destination is the cellar is abandoned with event 0x0212. At RECLAIM_DEADLINE the slabs still in it are lost; at RECLAIM_NOTICE_END the lease is gone and RES_T4 has fallen by its slabs. (R185, R213, R230, R232, R233.) -/
def Obligations.BorrowersCollectAndGiveBackLeases : Prop :=
  (∀ (h : PftHdr) (p : Fin 16) (k : Nat) (bs : Bytes) (s : State), s.parts.length = 16 → s.fab.asking = some (p.val, k, bs) → k < 8 →
    (admDesc bs).part = p.val →
    let asked := bits (s.mem.lenders.getD k 0).toNat 19 0
    (∀ lease slabs noticeMs, Claims.AcceptsLease s h → h.srcEp.toNat = asked → s.grantOk slabs.toNat noticeMs.toNat = true →
      ∃ b : State, exec (.leaseGrant h p lease slabs noticeMs) s = .next (b.askNext (k + 1) bs).settle ∧ b.mem = s.mem ∧
        (b.part p.val).leases = (s.part p.val).leases ++ [{ lender := asked, id := lease.toNat, slabs := slabs.toNat, noticeMs := noticeMs.toNat }]) ∧
    (Claims.AcceptsLease s h → h.srcEp.toNat = asked → exec (.leaseRefuse h p) s = .next (State.askNext (s.rxData h 5).1 (k + 1) bs).settle) ∧
    exec (.lenderTimeout p) s = .next ((s.forgetPkts [(asked, s.fab.askSeq)] ctrlClass).askNext (k + 1) bs).settle ∧
    (0 < (admDesc bs).resOf .t4 →
      ∃ t : State, exec (.leaseAdmissionDeadline p) s = .next t ∧ (t.part p.val).leases = [] ∧ t.adm.status = 0x0381 ∧ t.adm.busy = false ∧
        t.fab.asking = none ∧ t.mem = s.mem)) ∧
  (∀ (h : PftHdr) (p : Fin 16) (lease : BitVec 32) (ms : BitVec 16) (s : State), s.parts.length = 16 → Claims.AcceptsLease s h →
    (∃ l ∈ (s.part p.val).leases, l.lender = h.srcEp.toNat ∧ l.id = lease.toNat) →
    (∀ e, (s.part p.val).stream.epoch = some e → epochDest (s.part p.val).stream.cfg e = 1 → s.link.losing = false →
      ∃ u : State, exec (.leaseReclaim h p lease ms) s = .next (u.retryPool p.val).settle ∧ (u.part p.val).stream.epoch = none ∧
        (u.part p.val).stream.destLost = true ∧ (u.part p.val).reclaimBit = true ∧ u.err.lastCode = 0x0212) ∧
    ((∀ e, (s.part p.val).stream.epoch = some e → epochDest (s.part p.val).stream.cfg e ≠ 1) →
    ∃ t : State, exec (.leaseReclaim h p lease ms) s = .next t ∧ (t.part p.val).reclaimBit = true ∧
      (∀ l ∈ (t.part p.val).leases, l.lender = h.srcEp.toNat → l.id = lease.toNat → l.reclaim ≠ none ∧ l.noticeMs = ms.toNat) ∧
      (∀ k m, s.migration? k = some m → m.switched = false → m.lease = some (h.srcEp.toNat, lease.toNat) →
        ∀ y ∈ t.mem.migrations, y.key = k → y.lease ≠ some (h.srcEp.toNat, lease.toNat)) ∧ t.mem.dev = s.mem.dev ∧
      (∀ x ∈ t.mem.slabs, x.part = p.val → x.lease = some (h.srcEp.toNat, lease.toNat) → x.st ≠ .resident))) ∧
  (∀ (p : Fin 16) (lease : BitVec 32) (s : State), s.parts.length = 16 →
    (∃ t : State, exec (.reclaimDeadline p lease) s = .next t ∧
      ∀ l ∈ s.reclaimed p.val lease.toNat, ∀ x ∈ t.mem.slabs, x.part = p.val → x.lease ≠ some (l.lender, l.id) ∨ x.tier ≠ some .t4) ∧
    (∃ t : State, exec (.reclaimNoticeEnd p lease) s = .next t ∧
      (∀ l ∈ (t.part p.val).leases, l.id = lease.toNat → l.reclaim = none) ∧
      ∀ l, s.reclaimed p.val lease.toNat = [l] → ((s.part p.val).leases.filter fun x => x.lender == l.lender && x.id == l.id) = [l] →
        (t.part p.val).resOf .t4 = (s.part p.val).resOf .t4 - l.slabs))

/-- For every state s: ACCESS_COUNT_HALVING halves every access count and changes nothing else. REBALANCE changes no byte and no slab's tier, and while the steward sheds it does nothing. MIGRATION_COPY_DONE of a move that holds a slot of its DMA and has not switched puts the slab in its destination tier and frame, resident, and one of a move that still waits for a slot changes nothing; SOURCE_FRAME_FREE then forgets the move. TIER_DEADLINE and TRANSFER_ERROR_ANSWER of a move leave the slab in its source tier and frame, resident unless it is being evacuated; of a running command they end it with 0x0390 or 0x0391 and mark LATE or FAILED; in Recovery the deadline of a transfer with host memory does not count. None of them changes a byte of the device range. (R216, R217, R220, R221, R222, R223, R234, R367, R492.) -/
def Obligations.MigrationMovesSlabsUnchanged : Prop :=
  (∀ s : State, exec .accessCountHalving s = .next (s.setMem { s.mem with slabs := s.mem.slabs.map fun x => { x with access := x.access / 2 } })) ∧
  (∀ s : State, s.steward.shed ≠ 0 → exec .rebalance s = .next s) ∧
  (∀ s : State, s.steward.shed = 0 → ∃ t : State, exec .rebalance s = .next t ∧ t.mem.dev = s.mem.dev ∧ t.queues = s.queues ∧
    t.parts.map (fun x => { x with acct := {} }) = s.parts.map (fun x => { x with acct := {} }) ∧
    t.mem.slabs.map (fun x => (x.key, x.tier, x.frame, x.near)) = s.mem.slabs.map fun x => (x.key, x.tier, x.frame, x.near)) ∧
  (∀ (k : BitVec 27) (m : Migration) (x : Slab) (s : State), s.migration? k.toNat = some m → m.switched = false → s.slab? k.toNat = some x →
    (m.granted = true → ∃ t : State, exec (.migrationCopyDone k) s = .next t ∧ t.mem.dev = s.mem.dev ∧
      t.slab? k.toNat = some { x with
        tier := some m.dst, frame := m.frame, near := if m.dst = .t1 then m.near else none, st := .resident, lease := m.lease, moved := m.moved, spoilt := false } ∧
      (∀ j, j ≠ k.toNat → t.slab? j = s.slab? j) ∧ t.migration? k.toNat = some { m with switched := true }) ∧
    (m.granted = false → exec (.migrationCopyDone k) s = .next s)) ∧
  (∀ (k : BitVec 27) (m : Migration) (s : State), s.migration? k.toNat = some m → m.switched = true →
    ∃ t : State, exec (.sourceFrameFree k) s = .next t ∧ t.mem.dev = s.mem.dev ∧ t.queues = s.queues ∧
      ∀ y ∈ t.mem.migrations, y.key = k.toNat → y.switched = false) ∧
  (∀ (q : Fin 64) (k : BitVec 27) (m : Migration) (x : Slab) (s : State) (i : Instr), ((i = .tierDeadline q (some k) ∧ (s.link.st = .recovery → ∃ c ∈ s.fab.cellar, c.1 = moveWho k.toNat)) ∨ i = .transferErrorAnswer q (some k)) →
    s.migration? k.toNat = some m → m.switched = false → s.slab? k.toNat = some x → (∀ z ∈ s.mem.slabs, z.key = k.toNat → z = x) →
    ∃ (t : State) (y : Slab), exec i s = .next t ∧ t.mem.dev = s.mem.dev ∧ t.slab? k.toNat = some y ∧
      y.tier = x.tier ∧ y.frame = x.frame ∧ y.near = x.near ∧ y.lease = x.lease ∧ (∀ n ∈ t.mem.migrations, n.key = k.toNat → n.switched = false) ∧
      (x.lease = none → x.st ≠ .evacuating → t.migration? k.toNat = none ∧ y = { x with st := if x.st = .migrating then .resident else x.st })) ∧
  (∀ (q : Fin 64) (c : Cmd) (s : State), s.head? q.val = some c → (c.phase = .started ∨ c.phase = .staged) → s.queues.length = 64 →
    (s.queue q.val).part < 16 → s.parts.length = 16 →
    ((s.link.st = .recovery → ∃ c ∈ s.fab.cellar, c.1 = q.val) →
      ∃ b : State, exec (.tierDeadline q none) s = .next (b.endCmd q.val 0x0390).settle ∧ (b.part (s.queue q.val).part).late = true ∧ b.queues = s.queues ∧ b.mem = s.mem) ∧
    (s.link.st = .recovery → (∀ c ∈ s.fab.cellar, c.1 ≠ q.val) → exec (.tierDeadline q none) s = .next s) ∧
    (∃ b : State, exec (.transferErrorAnswer q none) s = .next (b.endCmd q.val 0x0391).settle ∧ (b.part (s.queue q.val).part).failed = true ∧ b.queues = s.queues ∧
      b.mem = s.mem))

namespace Sys2Proof.Claims

/-- An ACK (TYPE 0x51) passes the checks that precede its flow, and is newer than every ACK accepted from its sender (R13, R284, R287, R290, R292). -/
def AckArrives (s : State) (h : PftHdr) : Prop :=
  s.fab.valid = true ∧ s.phase = .run ∧ h.dstEp.toNat = s.fab.ep ∧ s.hasPeer h.srcEp.toNat = true ∧ h.tagOk = true ∧ h.version ≠ 0 ∧ h.lengthOk = true ∧ h.type_.toNat = 0x51 ∧
    (s.fab.sessions.find? fun y => y.1 == h.srcEp.toNat) = some (h.srcEp.toNat, h.session.toNat) ∧ (s.ackFlow h.srcEp.toNat).2 < h.seq.toNat

/-- The attempt of packet `h` with number `a` into the open window `w` of its partition is live: the partition is admitted, and no notice has closed a number as new (R302). -/
def Live (s : State) (h : PftHdr) (w : RecvWindow) (a : Nat) : Prop :=
  (s.part h.dstPart.val).admitted = true ∧ s.window? h.dstPart.val w.window = some w ∧
    newerAttempt a (w.closedOf h.srcEp.toNat h.srcPart.val) = true ∧ s.parts.length = 16

/-- The attempt that a packet belongs to, as it stands. -/
def tryOf (w : RecvWindow) (h : PftHdr) (a : Nat) : Option WinAttempt := w.try? h.srcEp.toNat h.srcPart.val a

end Sys2Proof.Claims

/-- For every state s and packet h of the TYPE ty and KIND k awaited, that passes the checks of R284, R443, R445 and R292 and is new in its flow, receiving it delivers it, its SEQ is accepted from then on, and no partition, queue or byte of memory changes; the module leaves S3. One of another KIND is accepted by its flow and not delivered. A packet of an endpoint without a peer entry raises SEC_PFT_NO_KEY, one with a bad tag, of another TYPE, or whose base header fails R13, SEC_PFT_TAG_FAIL (that the last two count there is the model's choice, log entry 92), and neither is delivered; a duplicate is counted and not delivered. (R284, R287, R289, R292, R293, R294, R431, R443, R445.) -/
def Obligations.AcceptedPacketsMoveTheirFlow : Prop :=
  ∀ (h : PftHdr) (ty kind : Nat) (s : State),
    (Claims.Accepts s h ty kind → (s.rx h ty kind).2 = true ∧ State.rxNew (s.rx h ty kind).1 h = false ∧ (s.rx h ty kind).1.parts = s.parts ∧
      (s.rx h ty kind).1.queues = s.queues ∧ (s.rx h ty kind).1.mem = s.mem ∧ (s.rx h ty kind).1.power.idle ≠ 3) ∧
    (∀ k, k ≠ kind → Claims.Accepts s h ty k → (s.rx h ty kind).2 = false ∧ State.rxNew (s.rx h ty kind).1 h = false ∧ (s.rx h ty kind).1.parts = s.parts) ∧
    (s.fab.valid = true → s.phase = .run → h.dstEp.toNat = s.fab.ep → s.hasPeer h.srcEp.toNat = false →
      (s.rx h ty kind).2 = false ∧ (s.rx h ty kind).1.sec.noKey = min 4294967295 (s.sec.noKey + 1) ∧ (s.rx h ty kind).1.fab = s.fab ∧
        (s.rx h ty kind).1.parts = s.parts) ∧
    (s.fab.valid = true → s.phase = .run → h.dstEp.toNat = s.fab.ep → s.hasPeer h.srcEp.toNat = true → (h.tagOk = false ∨ h.type_.toNat ≠ ty ∨ h.version = 0 ∨ h.lengthOk = false) →
      (s.rx h ty kind).2 = false ∧ (s.rx h ty kind).1.sec.tagFail = min 4294967295 (s.sec.tagFail + 1) ∧ (s.rx h ty kind).1.fab = s.fab ∧
        (s.rx h ty kind).1.parts = s.parts) ∧
    (Claims.Accepts s h ty kind → State.rx (s.rx h ty kind).1 h ty kind = ((State.rx (s.rx h ty kind).1 h ty kind).1, false) ∧
      (State.rx (s.rx h ty kind).1 h ty kind).1.fab.dup = min 4294967295 (s.fab.dup + 1))

/-- For every partition p and state s in which BAR0 writes arrive: OPEN of a descriptor that passes R299 adds its window with STATUS 0, and one that fails leaves the windows and its status; CLOSE of an open window drops it with every attempt in progress and no record, and of another gives 0x0504. A write of PART_JOB_AXES without queued commands or a stream sets the five axes, 4 and above meaning none, and otherwise leaves 0x0482 or 0x0205. Nothing but the partition's registers and windows changes. (R192, R283, R299, R317, R318.) -/
def Obligations.WindowsOpenCloseAndAxes : Prop :=
  ∀ (p : Fin 16) (v : Word) (host : List HostBlk) (s : State), s.barOpen = true → s.parts.length = 16 →
    let a := Claims.atBar0 s
    let b := (a.hostStore host).modPart p.val fun x => { x with winNo := bits v.toNat 15 4 }
    let x := b.part p.val
    let desc := b.hostSeen (x.winHi.toNat * 2 ^ 32 + x.winLo.toNat) 32
    (∀ w, v.getLsbD 0 = true → v.getLsbD 1 = false → b.windowOf p.val desc = .ok w →
      exec (.windowOpen p v host) s = .next (b.modPart p.val fun x => { x with winStatus := 0, windows := x.windows ++ [w] })) ∧
    (∀ st, v.getLsbD 0 = true → v.getLsbD 1 = false → b.windowOf p.val desc = .error st →
      exec (.windowOpen p v host) s = .next (b.modPart p.val fun x => { x with winStatus := st })) ∧
    (v.getLsbD 0 = false → v.getLsbD 1 = true →
      ∃ t : State, exec (.windowClose p v) s = .next t ∧ t.setParts s.parts = a ∧ (∀ k, k ≠ p.val → t.part k = s.part k) ∧
        (t.part p.val).windows = (s.part p.val).windows.filter (fun w => w.window != bits v.toNat 15 4) ∧
        (t.part p.val).winStatus = if (s.window? p.val (bits v.toNat 15 4)).isSome then 0 else 0x0504) ∧
    (∃ t : State, exec (.partJobAxesWrite p v) s = .next t ∧ t.setParts s.parts = a ∧ (∀ k, k ≠ p.val → t.part k = s.part k) ∧
      (s.partBusy p.val = true → (t.part p.val).axesStatus = 0x0482 ∧ (t.part p.val).axes = (s.part p.val).axes) ∧
      (s.partBusy p.val = false → cfgDest (s.part p.val).stream.cfg ≠ 0 → (t.part p.val).axesStatus = 0x0205 ∧ (t.part p.val).axes = (s.part p.val).axes) ∧
      (s.partBusy p.val = false → cfgDest (s.part p.val).stream.cfg = 0 → (t.part p.val).axesStatus = 0 ∧
        ∀ k, k < 5 → (t.part p.val).axes.getD k 0 = if v.toNat / 2 ^ (3 * k) % 8 < 4 then v.toNat / 2 ^ (3 * k) % 8 else 7))

/-- For every accepted packet h of a live attempt into an open window w: a tile of a permitted sender inside the window adds its bytes to the attempt and changes no byte of the device range, and one that finds no staging slab is dropped and counted; one outside the window, or of another sender, marks the attempt as bad and is counted in PORT_FAB_DROP. A commit notice of a whole attempt puts its bytes in the device range and writes a record with STATUS 0 and the notice's TAG, and waits with POOL_WAIT while the retention pools are full; of a bad one it writes 0x0505 and commits nothing; before the tiles are whole it waits. An abort notice, and the deadline of the missing tiles (record 0x0584), discard the attempt. A tile for a window that is not open is counted and dropped. (R177, R263, R299, R300, R302, R448.) -/
def Obligations.WindowAttemptsCommitOrVanish : Prop :=
  (∀ (h : PftHdr) (w : RecvWindow) (win : BitVec 16) (a : BitVec 32) (off : BitVec 48) (data : Bytes) (s : State), Claims.Accepts s h 0x50 0 →
    win.toNat = w.window → Claims.Live s h w a.toNat →
    let p := h.dstPart.val
    let t0 := (Claims.tryOf w h a.toNat).getD { ep := h.srcEp.toNat, part := h.srcPart.val, attempt := a.toNat }
    let t := { t0 with firstUs := some (t0.firstUs.getD s.nowUs) }
    t0.notice = none →
    (w.senders.contains (h.srcEp.toNat, h.srcPart.val) = true → off.toNat + data.length ≤ w.bytes → t0.bad = false →
      (∀ b, State.holdSlabs (s.rxOpen h 0x50).1 p w.window t (w.missing t off.toNat data.length) = some b →
        ∃ (u : State) (w' : RecvWindow) (t' : WinAttempt), exec (.windowTile h win a off data) s = .next u.settle ∧ u.window? p w.window = some w' ∧
          Claims.tryOf w' h a.toNat = some t' ∧ t'.got = t0.got + data.length ∧ t'.writes = t0.writes ++ cellsAt (w.base + off.toNat) data ∧ t'.bad = false ∧
          t'.firstUs = t.firstUs ∧ u.mem.dev = s.mem.dev ∧ u.queues = s.queues) ∧
      (State.holdSlabs (s.rxOpen h 0x50).1 p w.window t (w.missing t off.toNat data.length) = none →
        exec (.windowTile h win a off data) s = .next (((s.rxOpen h 0x50).1.fabDrop).refillOnce p).settle)) ∧
    ((w.senders.contains (h.srcEp.toNat, h.srcPart.val) = false ∨ w.bytes < off.toNat + data.length) →
      ∃ (u : State) (w' : RecvWindow) (t' : WinAttempt), exec (.windowTile h win a off data) s = .next u.settle ∧ u.window? p w.window = some w' ∧
        Claims.tryOf w' h a.toNat = some t' ∧ t'.bad = true ∧ t'.writes = [] ∧ u.mem = s.mem ∧
        (t0.bad = false → u.fab.drop = min 4294967295 (s.fab.drop + 1)))) ∧
  (∀ (h : PftHdr) (win : BitVec 16) (a : BitVec 32) (off : BitVec 48) (data : Bytes) (s : State), Claims.Accepts s h 0x50 0 →
    s.window? h.dstPart.val win.toNat = none →
    ∃ u : State, exec (.windowTile h win a off data) s = .next u.settle ∧ u.mem = s.mem ∧ u.parts = s.parts ∧ u.fab.drop = min 4294967295 (s.fab.drop + 1)) ∧
  (∀ (h : PftHdr) (w : RecvWindow) (t : WinAttempt) (win : BitVec 16) (a : BitVec 32) (bytes : BitVec 48) (tag : BitVec 64) (s : State),
    win.toNat = w.window → Claims.Live s h w a.toNat → Claims.tryOf w h a.toNat = some t → Safety.MemoryCanonical s → w.queue < 64 →
    let p := h.dstPart.val
    let ended : State → Prop := fun u => ∃ w', u.window? p w.window = some w' ∧ Claims.tryOf w' h a.toNat = none
    (Claims.Accepts s h 0x52 1 →
      (t.bad = false → bytes.toNat ≤ t.got → Claims.TakesRecord s w.queue →
        (s.poolRoom p (t.slabs.map (·.1)) = true →
          ∃ u : State, exec (.noticeCommit h win a bytes tag) s = .next u.settle ∧ ended u ∧
            u.mem.dev = Memory.puts s.mem.dev (t.writes.filter fun c => (s.slab? (keyOf c.1)).isSome) ∧
            field (Claims.nextRecord s u w.queue) 6 2 = 0 ∧ field (Claims.nextRecord s u w.queue) 8 8 = tag.toNat) ∧
        (s.poolRoom p (t.slabs.map (·.1)) = false →
          ∃ (u : State) (w' : RecvWindow) (t' : WinAttempt), exec (.noticeCommit h win a bytes tag) s = .next u.settle ∧ u.mem = s.mem ∧ u.queues = s.queues ∧
            u.window? p w.window = some w' ∧ Claims.tryOf w' h a.toNat = some t' ∧ t'.poolWait = true ∧ t'.writes = t.writes ∧ (u.part p).stream.poolWait = true)) ∧
      (t.bad = true → Claims.TakesRecord s w.queue →
        ∃ u : State, exec (.noticeCommit h win a bytes tag) s = .next u.settle ∧ ended u ∧ u.mem.dev = s.mem.dev ∧
          field (Claims.nextRecord s u w.queue) 6 2 = 0x0505) ∧
      (t.bad = false → t.got < bytes.toNat →
        ∃ (u : State) (w' : RecvWindow) (t' : WinAttempt), exec (.noticeCommit h win a bytes tag) s = .next u.settle ∧ u.mem = s.mem ∧ u.queues = s.queues ∧
          u.window? p w.window = some w' ∧ Claims.tryOf w' h a.toNat = some t' ∧ t'.notice = some (bytes.toNat, tag.toNat) ∧ t'.got = t.got)) ∧
    (Claims.Accepts s h 0x52 2 → ∃ u : State, exec (.noticeAbort h win a) s = .next u.settle ∧ ended u ∧ u.mem = s.mem ∧ u.queues = s.queues)) ∧
  (∀ (p : Fin 16) (win : BitVec 16) (ep : BitVec 20) (sp : Fin 16) (w : RecvWindow) (t : WinAttempt) (n tag : Nat) (s : State), s.parts.length = 16 →
    s.window? p.val win.toNat = some w → w.tries = [t] → t.ep = ep.toNat → t.part = sp.val → t.held = false → t.bad = false → t.notice = some (n, tag) → t.got < n →
    Claims.TakesRecord s w.queue → w.queue < 64 → Safety.MemoryCanonical s →
    ∃ (u : State) (w' : RecvWindow), exec (.missingTilesDeadline p win ep sp) s = .next u.settle ∧ u.window? p.val win.toNat = some w' ∧ w'.tries = [] ∧
      u.mem.dev = s.mem.dev ∧ field (Claims.nextRecord s u w.queue) 6 2 = 0x0584)

/-- For every accepted packet h for an admitted partition p: a piece of a running collective from a member is taken once, a pull from a member is answered, and an announcement is noted, each before the collective goes on; an abort of a member ends the collective's command with 0x0582 and is kept for that member alone. With no collective of that COLL_ID in a group of the sender a pull of a COLL_ID that has committed there is answered by an abort on its axis, and another pull or an announcement waits for the collective, unless the attempt has been aborted. A digest of a member that the configuration names, for the step under comparison or one of the next two, is kept for the comparison, which is then decided if it is complete; a control record of another TYPE is discarded. No byte of memory changes before that. (R189, R190, R289, R309, R311, R312, R448, R529.) -/
def Obligations.CollectivePacketsReachTheirCollective : Prop :=
  ∀ (h : PftHdr) (s : State), (s.part h.dstPart.val).admitted = true → s.parts.length = 16 →
    let p := h.dstPart.val
    let b : Nat → State := fun k => (s.rxData h k).1
    (∀ (att : BitVec 16) (id : BitVec 32) (c : Coll) (r : Nat), s.findColl p id.toNat h.srcEp.toNat h.srcPart.val = some c → c.rankOf h.srcEp.toNat h.srcPart.val = some r →
      s.isAborted h id.toNat att.toNat = false →
      (∀ (off : BitVec 48) (data : Bytes), Claims.Accepts s h 0x50 1 → (∀ g ∈ c.got, g.1 = r → g.2.1 ≠ off.toNat) →
        exec (.collectivePiece h att id off data) s = .next (((b 1).setColl { c with got := c.got ++ [(r, off.toNat, data)] }).runColl c.queue).settle) ∧
      (∀ (off : BitVec 48) (data : Bytes), Claims.Accepts s h 0x50 1 → (∃ g ∈ c.got, g.1 = r ∧ g.2.1 = off.toNat) →
        exec (.collectivePiece h att id off data) s = .next (b 1)) ∧
      (∀ (off : BitVec 48) (len : BitVec 32), Claims.Accepts s h 0x50 2 →
        exec (.collectivePull h att id off len) s = .next (((b 2).answerPull c.queue r off.toNat len.toNat).runColl c.queue).settle) ∧
      (∀ v : BitVec 32, Claims.Accepts s h 0x50 4 →
        exec (.collectiveAnnouncement h att id v) s = .next (((b 4).setColl (c.announce r v.toNat)).runColl c.queue).settle) ∧
      (Claims.Accepts s h 0x50 3 →
        ∃ u : State, exec (.collectiveAbort h att id) s = .next (u.endCmd c.queue 0x0582).settle ∧ u.mem = s.mem ∧ u.queues = s.queues ∧ u.fab.colls = s.fab.colls ∧
          u.fab.collAborted = s.fab.collAborted ++ [(collKey p id.toNat, memberKey h.srcEp.toNat h.srcPart.val, att.toNat)])) ∧
    (∀ (att : BitVec 16) (id : BitVec 32), s.findColl p id.toNat h.srcEp.toNat h.srcPart.val = none → s.isAborted h id.toNat att.toNat = false →
      (∀ (off : BitVec 48) (len : BitVec 32), Claims.Accepts s h 0x50 2 →
        let done := s.fab.committed.find? fun x => x.1 == p && x.2.1 == id.toNat && x.2.2.1.contains (h.srcEp.toNat, h.srcPart.val)
        (∀ x, done = some x → exec (.collectivePull h att id off len) s = .next
          ((b 2).sendData1 h.srcEp.toNat h.srcPart.val h.srcClass.val x.2.2.2 p 3 (((lookupTime s.fab.collTry (collKey p id.toNat)).getD 0) % 65536) id.toNat 0 []).1) ∧
        (done = none → ∃ t : State, exec (.collectivePull h att id off len) s = .next t ∧ t.mem = s.mem ∧ t.queues = s.queues ∧
          t.fab.earlyPull = s.fab.earlyPull ++ [(collKey p id.toNat, h.srcEp.toNat, h.srcPart.val, att.toNat, off.toNat, len.toNat)])) ∧
      (∀ v : BitVec 32, Claims.Accepts s h 0x50 4 → ∃ t : State, exec (.collectiveAnnouncement h att id v) s = .next t ∧ t.mem = s.mem ∧ t.queues = s.queues ∧
        t.fab.earlyAnn = s.fab.earlyAnn ++ [(collKey p id.toNat, h.srcEp.toNat, h.srcPart.val, att.toNat, v.toNat)])) ∧
    (∀ (k : BitVec 4) (step : BitVec 64) (d : Bytes), Claims.Accepts s h 0x50 5 →
      let cfg := (s.part p).stream.cfg
      (h.msg.ok 0x26 = true → k.toNat < cfgMembers cfg → cfgMember cfg k.toNat = h.srcEp.toNat → (s.part p).stream.keepsDigest step.toNat = true →
        ∃ u : State, exec (.digestMessage h k step d) s = .next (((u.tryDigest p).closeEpoch p).epochOver p (s.part p).stream.epoch) ∧ u.mem = s.mem ∧
          (k.toNat, step.toNat, d) ∈ (u.part p).stream.got ∧ (u.part p).stream.epoch = (s.part p).stream.epoch) ∧
      ((h.msg.ok 0x26 = false ∨ cfgMembers cfg ≤ k.toNat ∨ cfgMember cfg k.toNat ≠ h.srcEp.toNat ∨ (s.part p).stream.keepsDigest step.toNat = false) →
        exec (.digestMessage h k step d) s = .next (b 5)))

/-- For every state s: an ACK that arrives in order releases exactly the packets at or below CUM or in its BITMAP, and others of the flow may follow. ACK_TIMER of a flow with an ACK due hands a port of the axis an ACK with CUM, BITMAP and the next ACK SEQ, and nothing is due any more. RTO_EXPIRY of an unacknowledged packet with a port to take it hands that port the same packet again, with twice the time-out, at most 1,600 µs, and takes it out of the queues of the port that carried it. REQUEST_DEADLINE ends a command that has something unacknowledged with 0x0581, or 0x0390 for a cellar request, and forgets a late request that no running command, cellar client, admission or comparison owns: a notice, a tile of a command that has committed, or a lease message. ENDPOINT_UNREACHABLE of an endpoint with packets or an epoch outstanding, or that lends to this module, records the endpoint and ends every lease of it. (R233, R234, R290, R293, R294, R295, R297, R298.) -/
def Obligations.TransportTimersAndFailures : Prop :=
  (∀ (h : PftHdr) (cum : BitVec 48) (bm : BitVec 256) (s : State), Claims.AckArrives s h →
    ∃ (b : State) (l : List (Nat × Nat × Nat × Pkt)), exec (.ack h cum bm) s = .next b.runColls.settle ∧ b.mem = s.mem ∧ b.parts = s.parts ∧
      (b.flow h.srcEp.toNat h.srcClass.val).unacked =
        (s.flow h.srcEp.toNat h.srcClass.val).unacked.filter (fun u => !(decide (u.1 ≤ cum.toNat) ||
          (decide (cum.toNat < u.1) && bm.getLsbD (u.1 - cum.toNat - 1)))) ++ l) ∧
  (∀ (ep : BitVec 20) (cls : Fin 4) (s : State), s.fab.valid = true →
    let f := s.flow ep.toNat cls.val
    (∀ port, 0 < f.sinceAck → s.ackOn f.ackPort = some port →
      ∃ u : State, exec (.ackTimer ep cls) s = .next (u.portSend port { srcEp := s.fab.ep, cls := cls.val, dstEp := ep.toNat, seq := (s.ackFlow (ep.toNat)).1, session := s.fab.session, body := .ack f.cum (ackBitmap f.cum f.bitmap) } false) ∧
        u.mem = s.mem ∧ u.optics = s.optics ∧ u.out = s.out ∧ u.flow ep.toNat cls.val = { f with sinceAck := 0 } ∧
        u.ackFlow ep.toNat = ((s.ackFlow ep.toNat).1 + 1, (s.ackFlow ep.toNat).2)) ∧
    (∀ (seq : BitVec 48) (port port' rto : Nat) (k : Pkt), f.unacked.find? (fun u => u.1 == seq.toNat) = some (seq.toNat, port, rto, k) →
      s.pickPort (portAxis s.fab.axis port) (some port) = some port' →
      ∃ u : State, exec (.rtoExpiry ep cls seq) s = .next (u.portSend port' k false) ∧ u.mem = s.mem ∧ u.out = s.out ∧
        u.fab.resent = min 4294967295 (s.fab.resent + 1) ∧ (∀ tx ∈ (u.port port).tx, ∀ x ∈ tx.queue, x.2.2 ≠ .pft k) ∧
        (u.flow ep.toNat cls.val).unacked.find? (fun u => u.1 == seq.toNat) = some (seq.toNat, port', min 1600 (2 * rto), k))) ∧
  (∀ (q : Fin 64) (c : Cmd) (s : State), s.head? q.val = some c → s.queues.length = 64 → (s.queue q.val).part < 16 → s.parts.length = 16 →
    (c.phase ≠ .queued → killable c = true → s.unackedBy q.val = true →
      ∃ b : State, exec (.requestDeadline (.ofCommand q)) s = .next (b.endCmd q.val 0x0581).settle ∧ b.queues = s.queues ∧ b.mem = s.mem ∧ b.parts = s.parts) ∧
    ((c.phase = .started ∨ c.phase = .staged) →
      ∃ b : State, exec (.requestDeadline (.cellar q)) s = .next (b.endCmd q.val 0x0390).settle ∧ b.queues = s.queues ∧ b.mem = s.mem ∧
        (b.part (s.queue q.val).part).late = true)) ∧
  (∀ (ep : BitVec 20) (cls : Fin 4) (seq : BitVec 48) (s : State),
    (s.reqOwned ep.toNat cls.val seq.toNat = false → (∃ u ∈ (s.flow ep.toNat cls.val).unacked, u.1 = seq.toNat) →
      ∃ t : State, exec (.requestDeadline (.notice ep cls seq)) s = .next t ∧ t.mem = s.mem ∧ t.queues = s.queues ∧ t.parts = s.parts ∧
        (t.flow ep.toNat cls.val).unacked = (s.flow ep.toNat cls.val).unacked.filter fun u => u.1 != seq.toNat) ∧
    (s.reqOwned ep.toNat cls.val seq.toNat = true → exec (.requestDeadline (.notice ep cls seq)) s = .next s)) ∧
  (∀ (ep : BitVec 20) (s : State), s.parts.length = 16 →
    (s.outstanding ep.toNat = true ∨ s.storesAt ep.toNat ≠ [] ∨ ∃ k, ∃ l ∈ (s.part k).leases, l.lender = ep.toNat) →
    ∃ u : State, exec (.endpointUnreachable ep) s = .next u.settle ∧ u.fab.lost = true ∧ u.fab.lastEp = ep.toNat ∧
      (∃ x ∈ u.fab.unreachable, x.1 = ep.toNat) ∧ ∀ k, ∀ l ∈ (u.part k).leases, l.lender ≠ ep.toNat)

namespace Sys2Proof.Claims

/-- C_eff by R413: the least of the host's cap, the board's cap and, with PWR_BRAKE# low, 500 W; less the sensor margin while the sensor bus is degraded. -/
def capRule (s : State) : Rat :=
  let least := min s.power.capW s.power.boardCap
  let least := ((if s.pins.brake then min least 500 else least : Nat) : Rat)
  if s.sensorDegraded then least * (100 - (s.steward.margin : Rat)) / 100 else least

/-- A cap as it is stored (R432, R496). -/
def heldCap (v : Word) : Nat := if v.toNat % 2048 < 500 then 500 else if 1100 < v.toNat % 2048 then 1100 else v.toNat % 2048

end Sys2Proof.Claims

/-- For every state s: PWR_CAP and the board's SB_CAP store 500 to 1,100 W, PWR_BRAKE# going low or high moves its pin, and after each C_eff is that of R413; a brake that goes low sets PWR_EVENT.BRAKE with event 0x0913. PWR_CTRL stores the mode (a write of 3 leaves it) and the learning period (0 reads 1). PWR_PEAK.CLEAR zeroes the peak. PWR_IDLE stores the tolerance, and the module's idle state is then no deeper than it allows. Each changes only the power block (and the pin), besides the wake of a BAR0 write. (R40, R413, R416, R418, R430, R431, R432, R496.) -/
def Obligations.CapsBrakeAndModesSetThePowerBlock : Prop :=
  (∀ (v : Word) (s : State), s.barOpen = true →
    let b := Claims.atBar0 s
    (∃ t : State, exec (.pwrCapWrite v) s = .next t ∧ t.setPower b.power = b ∧ t.power.capW = Claims.heldCap v ∧ t.power.boardCap = s.power.boardCap ∧
      t.power.effCap = Claims.capRule t) ∧
    (∃ t : State, exec (.modeWrite v) s = .next t ∧ t.setPower b.power = b ∧ t.power.mode = (if v.toNat % 4 = 3 then s.power.mode else v.toNat % 4) ∧
      t.power.learnMs = max 1 (v.toNat / 256 % 256) ∧ (s.steward.shed ≠ 2 → t.power.learnEff = min 160 (max 1 (v.toNat / 256 % 256)))) ∧
    (v.getLsbD 16 = true → exec (.pwrPeakClear v) s = .next (b.setPower { b.power with peak := 0 })) ∧
    (∃ t : State, exec (.pwrIdleWrite v) s = .next t ∧ t.power.tolUs = v.toNat % 2 ^ 24 ∧ t.power.idle ≤ deepest (v.toNat % 2 ^ 24) ∧
      (s.power.idle ≤ deepest (v.toNat % 2 ^ 24) → t.power.idle = s.power.idle) ∧ t.mem = s.mem ∧ t.queues = s.queues ∧ t.parts = s.parts ∧
      (80 ≤ v.toNat % 2 ^ 24 → s.power.idle = 0 → ∀ n, { t.core n with idle := (s.core n).idle } = s.core n ∧ ((t.core n).idle ≠ (s.core n).idle → (t.core n).idle = .s1)))) ∧
  (∀ (v : Word) (s : State), s.smbFull = true →
    ∃ t : State, exec (.sbCapWrite v) s = .next t ∧ t.setPower s.power = s ∧ t.power.boardCap = Claims.heldCap v ∧ t.power.capW = s.power.capW ∧
      t.power.effCap = Claims.capRule t) ∧
  (∀ s : State, s.phase ≠ .off → s.pins.brake = false →
    ∃ t : State, exec .pwrBrakeAssert s = .next t ∧ t.pins = { s.pins with brake := true } ∧ t.power.event.getLsbD 4 = true ∧ t.err.lastCode = 0x0913 ∧
      t.power.effCap = Claims.capRule t ∧ t.mem = s.mem ∧ t.queues = s.queues) ∧
  (∀ s : State, ∃ t : State, exec .pwrBrakeRelease s = .next t ∧ t.pins = { s.pins with brake := false } ∧ t.power.effCap = Claims.capRule t ∧
    (t.setPower s.power).setPins s.pins = s)

/-- For every state s: POWER_WINDOW takes its estimate g × (P_static + events), the events weighted by kind and core, as the newest of 250 windows, into the peak and into the second's sum; no core's limit q rises by more than 8, that of a core that no command holds is 0 (log entry 112), and with the estimate above Pk, outside repeatability mode and with no cut pending, each running core's falls by 16, not below 1; every core present takes the clock of the mode in force. CORRECTION_UPDATE uses each of Fuelagrim's seconds once: it moves g by a sixteenth of r − 1 within 0.85 to 1.15, r being the meter's mean over the mean estimate of that second, unlocks it when r is more than 2 % off, and raises 0x0919 when g comes to be clamped; a second with a meter fault changes nothing. LEARNING_UPDATE moves an entry by an eighth of its difference, in a table of at most 512; a signature with no entry moves so from the R420 values that its command has used (log entry 34). With a mean estimate of 0, r is a free value (log entry 76). (R410, R412, R414, R415, R418, R419, R422, R458.) -/
def Obligations.PowerWindowsLimitIssue : Prop :=
  (∀ (events : List EventCount) (pstatic : PowerCond) (s : State),
    let est := s.power.g * (Config.staticPower pstatic + (events.map fun e => Config.eventWeight e.kind e.core * (e.n : Rat)).sum / 4)
    ∃ t : State, exec (.powerWindow events pstatic) s = .next t ∧ t.power.wins = (est :: s.power.wins).take 250 ∧ t.power.peak = max s.power.peak est ∧
      t.power.secSum = s.power.secSum + est ∧ t.power.secWins = s.power.secWins + 1 ∧ t.mem = s.mem ∧ t.queues = s.queues ∧ t.parts = s.parts ∧
      (∀ n, (t.core n).q ≤ (s.core n).q + 8 ∧ { t.core n with q := (s.core n).q, mhz := (s.core n).mhz } = s.core n) ∧
      (∀ n l, n < s.cores.length → (s.core n).logical = some l → (t.core n).mhz = (s.core n).clock s.power.mode ∧
        ((∀ r ∈ s.runCores, r.core ≠ l) → (t.core n).q = 0) ∧
        (s.power.cutPending = false →
          let u := s.setPower { s.power with wins := (est :: s.power.wins).take 250, peak := max s.power.peak est, secSum := s.power.secSum + est, secWins := s.power.secWins + 1 }
          (t.core n).q = ((u.limitCores s.runCores (Config.staticPower pstatic) est).core n).q))) ∧
  (∀ (pstatic est : Rat) (n l : Nat) (s : State), s.power.mode ≠ 2 → (1300 - s.bounds.2.1) / (1 + s.bounds.1) < est → n < s.cores.length →
    (s.core n).logical = some l → (∃ r ∈ s.runCores, r.core = l) → ((s.limitCores s.runCores pstatic est).core n).q = max 1 ((s.core n).q - 16)) ∧
  (∀ (u v : Unit) (s : State), s.power.second = none → exec (.correctionUpdate u v) s = .next s) ∧
  (∀ (u v : Unit) (meter est : Rat) (s : State), s.power.second = some (meter, est) →
    (s.meter.fault = true → exec (.correctionUpdate u v) s = .next (s.setPower { s.power with second := none })) ∧
    (s.meter.fault = false →
      let r := if est = 0 then Config.gainRatio meter else meter / est
      ∃ t : State, exec (.correctionUpdate u v) s = .next t ∧ t.power.second = none ∧ t.power.g = max (85 / 100) (min (115 / 100) (s.power.g * (1 + (r - 1) / 16))) ∧
        ((r < 98 / 100 ∨ 102 / 100 < r) → t.power.locked = false) ∧ (t.power.clamped = (t.power.g == 85 / 100 || t.power.g == 115 / 100)) ∧
        (t.power.clamped = true → s.power.clamped = false → t.err.lastCode = 0x0919) ∧ t.power.event = s.power.event ∧ t.cores = s.cores ∧ t.mem = s.mem)) ∧
  (∀ (sig : BitVec 32) (pa pm : Rat) (s : State),
    ∃ t : State, exec (.learningUpdate [(sig, pa, pm)]) s = .next t ∧ t.setPower s.power = s ∧ t.power.learn.length ≤ 512 ∧
      t.power.learn.find? (fun e => e.1 == sig) = (let v := match s.power.learn.find? fun e => e.1 == sig with
          | some e => e.2 | none => s.firstPower (sig, pa, pm)
        some (sig, v.1 + (pa - v.1) / 8, v.2 + (pm - v.2) / 8)))

/-- For every state s: SENSOR_READ takes in the readings that reach the module, and PWR_THERM.MARGIN_C is at most the margin of any island. THROTTLE_TICK moves each core's ceiling by the rule of R426 and counts 1,000 µs while one is below 64. THERMAL_TRIP of an island at its trip threshold sets TRIP, holds starts and puts each running command that may be re-run back in its queue with no byte changed; a third trip within 10 minutes turns the rails off. TRIP_RECOVERY with every island cool lets commands start with ceilings of 32, and sets THROTTLE where a ceiling was 64 before. DROOP_TRIP stops the cores of its C-die, whatever recovery was under way, and is counted; DROOP_RECOVERY lets each stopped core issue again at the lower of 16 and its limit; neither changes q. (R423, R425, R426, R427, R432, R433, R499.) -/
def Obligations.HeatThrottlesAndTrips : Prop :=
  (∀ (l : List (ThermIsland × Int)) (s : State), ∃ t : State, exec (.sensorRead l) s = .next t ∧ t.setPower s.power = s ∧
    (∀ x ∈ l, s.thermSeen x.1 = true → x ∈ t.power.temps) ∧ (∀ x ∈ s.power.temps, (∀ y ∈ l, y.1 ≠ x.1) → x ∈ t.power.temps) ∧
    (∀ x ∈ t.power.temps, s.thermSeen x.1 = true → (t.power.hotMargin : Int) ≤ max 0 (throttleAt x.1 - x.2))) ∧
  (∀ s : State, ∃ t : State, exec .throttleTick s = .next t ∧ t.mem = s.mem ∧ t.queues = s.queues ∧
    (∀ n, n < s.cores.length → (s.core n).qT ≤ 64 →
      (t.core n) = { s.core n with qT :=
        if ∃ x ∈ s.power.temps, namesCore x.1 n = true ∧ throttleAt x.1 < x.2 then max 1 ((s.core n).qT - 4)
        else if ∀ x ∈ s.power.temps, namesCore x.1 n = true → x.2 + 3 ≤ throttleAt x.1 then min 64 ((s.core n).qT + 1)
        else (s.core n).qT }) ∧
    t.power.throttleUs = if s.cores.any (fun c => decide (c.qT < 64)) then min 4294967295 (s.power.throttleUs + 1000) else s.power.throttleUs) ∧
  (∀ (i : ThermIsland) (c : Int) (s : State), s.phase ≠ .off → s.phase ≠ .shutdown → (thermClass i).1 ≠ 5 → tripAt i ≤ c → s.queues.length = 64 →
    let trips := s.recent 600000000 s.power.trips
    (trips.length < 3 → ¬ ((thermClass i).1 = 4 ∧ 130 ≤ c) →
      ∃ u : State, exec (.thermalTrip i c) s = .next u.settle ∧ u.power.tripped = true ∧ u.power.event.getLsbD 3 = true ∧ u.power.trips = trips ∧
        u.mem.dev = s.mem.dev ∧
        ∀ q d, q < 64 → s.head? q = some d → (d.phase = .started ∨ d.phase = .staged ∨ d.phase = .poolWait) → entNoRetry d.entry = false →
          d.reruns < (s.queue q).retryMax → ∃ e, u.head? q = some e ∧ e.phase = .queued ∧ e.reruns = d.reruns + 1 ∧ e.cores = [] ∧ e.entry = d.entry) ∧
    (3 ≤ trips.length → ∃ t : State, exec (.thermalTrip i c) s = .next t ∧ t.phase = .shutdown ∧ t.pins.ready = false ∧ t.anyPart = false ∧
      t.pins.vin = s.pins.vin ∧ t.meter.energy = s.meter.energy ∧ t.mem.dev = [])) ∧
  (∀ s : State, s.power.tripped = true → (∀ x ∈ s.power.temps, x.2 + 10 ≤ throttleAt x.1) →
    ∃ u : State, exec .tripRecovery s = .next u.settle ∧ u.power.tripped = false ∧ u.cores = (s.cores.map fun c => { c with qT := 32 }) ∧ u.mem = s.mem ∧ u.queues = s.queues ∧
      ((∃ c ∈ s.cores, c.qT = 64) → u.power.event = s.power.event ||| 4#8) ∧ ((∀ c ∈ s.cores, c.qT ≠ 64) → u.power = { s.power with tripped := false })) ∧
  (∀ (d : Fin 12) (s : State), ∃ t : State, exec (.droopTrip d) s = .next t ∧ t.power.droops = min 4294967295 (s.power.droops + 1) ∧
    t.power.event.getLsbD 1 = true ∧ t.mem = s.mem ∧ t.queues = s.queues ∧
    ∀ n, n < s.cores.length → t.core n = { s.core n with droop := if n / 72 = d.val then some 0 else (s.core n).droop }) ∧
  (∀ (d : Fin 12) (s : State), ∃ t : State, exec (.droopRecovery d) s = .next t ∧ t.setCores s.cores = s ∧
    ∀ n, n < s.cores.length →
      let k : Option Nat := if n / 72 = d.val ∧ (s.core n).droop = some 0 then (if (s.core n).q ≤ 16 then none else some 16) else (s.core n).droop
      t.core n = { s.core n with droop := k })

/-- For every state s: S2_ENTRY of an enabled core in S1 that no command holds and that is not under test, with a tolerance that allows S2, gates that core and changes nothing else; a core in S0 or S2 stays as it is. S3_ENTRY of an idle module enters S4 when the tolerance allows it and no receive window is open, with no laser at operating bias, and S3 otherwise; a module that is not idle stays as it is. WAKE brings the module back to the active state, its idle lasers ramping to their operating bias. (R429, R430, R431.) -/
def Obligations.IdleStatesAreEnteredAndLeft : Prop :=
  (∀ (n : Fin 864) (l : Nat) (s : State), (s.core n.val).logical = some l → (s.core n.val).st = .enabled → (s.core n.val).testing = false → s.holder l = none →
    (s.core n.val).idle = .s1 → 80 ≤ s.power.tolUs → exec (.s2Entry n) s = .next (s.modCore n.val fun c => { c with idle := .s2 })) ∧
  (∀ (n : Fin 864) (s : State), (s.core n.val).idle ≠ .s1 → exec (.s2Entry n) s = .next s) ∧
  (∀ s : State, s.moduleIdle = true → s.power.idle ≠ 4 →
    (40000 ≤ s.power.tolUs → (∀ x ∈ s.parts, x.windows = []) →
      ∃ t : State, exec .s3Entry s = .next t ∧ t.power.idle = 4 ∧ (∀ x ∈ t.optics.lasers, x.st ≠ .lit) ∧ (∀ c ∈ t.cores, c.st = .enabled → c.idle = .s2) ∧ t.mem = s.mem) ∧
    (3000 ≤ s.power.tolUs → (s.power.tolUs < 40000 ∨ ∃ x ∈ s.parts, x.windows ≠ []) →
      ∃ t : State, exec .s3Entry s = .next t ∧ t.power = { s.power with idle := 3 } ∧ (∀ c ∈ t.cores, c.st = .enabled → c.idle = .s2) ∧ t.mem = s.mem ∧
        t.optics = s.optics) ∧
    (s.power.tolUs < 3000 → exec .s3Entry s = .next s)) ∧
  (∀ s : State, s.moduleIdle = false → exec .s3Entry s = .next s) ∧
  (∀ s : State, ∃ t : State, exec .wake s = .next t ∧ t.power = { s.power with idle := 0 } ∧
    (s.power.idle ≠ 0 → ∀ x ∈ t.optics.lasers, x.st ≠ .idle) ∧ t.mem = s.mem ∧ t.queues = s.queues)

namespace Sys2Proof.Claims

/-- A mailbox operation leaves `status` and `rsp`: the response replaces the request, and nothing outside the security block changes (R450, R452). -/
def MailboxEnds (b t : State) (status : Nat) (rsp : Bytes) : Prop :=
  t.setSec b.sec = b ∧ t.sec.status = status ∧ t.sec.rspLen = rsp.length ∧ t.sec.mbox = (rsp ++ b.sec.mbox.drop rsp.length).take 4096 ∧
    t.sec.debugOpen = b.sec.debugOpen

/-- A peer entry is in use: a request to or from an endpoint that `f` names is unacknowledged, an open epoch's records go to it, or a lease with it is held or granted (R183, R441). -/
def PeerInUse (s : State) (f : Nat → Prop) : Prop :=
  (∃ w ∈ s.fab.flows, f w.ep ∧ (w.unacked ≠ [] ∨ w.unsent ≠ [] ∨ w.sinceAck ≠ 0)) ∨
  (∃ p ∈ s.parts, ∃ e, p.stream.epoch = some e ∧ epochDest p.stream.cfg e = 3 ∧ f (cfgStoreEp p.stream.cfg)) ∨
  (∃ p ∈ s.parts, ∃ l ∈ p.leases, f l.lender) ∨ (∃ l ∈ s.mem.lent, f l.ep) ∨ (∃ r ∈ s.hle.retained, ∃ l ∈ r.2.2.2, f l.lender)

/-- The mailbox request of `s` (R450, R452). -/
def request (s : State) : Bytes := s.sec.mbox.take s.sec.reqLen

/-- SPDM requests are served now (R446, R492). -/
def Attests (s : State) : Prop := s.phase = .run ∧ s.link.cfgOk = true ∧ s.steward.shed = 0

/-- A message of SPDM 1.3: version, code and two parameters, and what follows them. -/
def message (code p1 p2 : Nat) (body : Bytes) : Bytes := [0x13, BitVec.ofNat 8 code, BitVec.ofNat 8 p1, BitVec.ofNat 8 p2] ++ body

/-- An answer of the connection: it and its request join what every later signature covers; other transcripts start anew (R446; layouts: log entry 7). -/
def SaysVca (s t : State) (req m : Bytes) : Prop :=
  t = (s.setSec { s.sec with vca := s.sec.vca ++ req ++ m, certMsgs := [], measMsgs := [] }).emit (.spdm m)

/-- An answer on certificates: it and its request join what the signature of CHALLENGE covers. -/
def SaysCert (s t : State) (req m : Bytes) : Prop :=
  t = (s.setSec { s.sec with certMsgs := s.sec.certMsgs ++ req ++ m, measMsgs := [] }).emit (.spdm m)

/-- The certificate chain of slot 0 as SPDM carries it: length, root digest and the certificates (R437, R446). -/
def slotChain (s : State) : Bytes :=
  leBytes 2 (52 + s.sec.keys.chain.flatten.length) ++ leBytes 2 0 ++ sha384 (s.sec.keys.chain.headD []) ++ s.sec.keys.chain.flatten

/-- What follows the nonce of an answer that may be signed: no opaque data, and the requester's context. -/
def trailer (req : Bytes) : Bytes := [0, 0] ++ reqContext req

end Sys2Proof.Claims

/-- Every BAR0 register reads as a 32-bit word. For every state s, a register write that is not naturally aligned changes nothing; an aligned 64-bit write of two registers answers what the 32-bit write of the lower register and then that of the upper one answer. A 32-bit write of a plain register stores its value: PART_ADMIT_ADDR_LO, ID_HLE_ADDR_LO and SEC_MBOX_DATA_0 read back as written, and a write of ID_DEVICE (offset 0) has no effect. While the SMBus target answers, a block write with an unknown code, a wrong byte count or a bad PEC byte sets BAD_CMD and nothing else; SB_EVENT clears the bits written 1 and SB_ALERT_EN stores its six bits, and with no enabled bit set SMB_ALERT# is let go. A write of ACCT_CLEAR with bit 0 zeroes the counters of its page and nothing else, and without it changes nothing. (R19.) -/
def Obligations.RegisterWritesTakeEffectInOrder : Prop :=
  (∀ (off : BitVec 24) (v : Word) (s : State), off.toNat % 4 ≠ 0 → exec (.registerWrite (.bar0 off v none)) s = .next s) ∧
  (∀ (off : BitVec 24) (v h : Word) (s : State), off.toNat % 8 ≠ 0 → exec (.registerWrite (.bar0 off v (some h))) s = .next s) ∧
  (∀ (off : BitVec 24) (v h : Word) (s : State), off.toNat % 8 = 0 →
    ∃ t : State, exec (.registerWrite (.bar0 off v none)) s = .next t ∧ exec (.registerWrite (.bar0 off v (some h))) s = exec (.registerWrite (.bar0 (off + 4) h none)) t) ∧
  (∀ (v : Word) (s : State), s.barOpen = true →
    (∃ t : State, exec (.registerWrite (.bar0 0x180100 v none)) s = .next t ∧ t.readReg 0x180100 = v ∧ t.adm = { s.adm with addrLo := v } ∧ t.mem = s.mem) ∧
    (∃ t : State, exec (.registerWrite (.bar0 0x224 v none)) s = .next t ∧ t.readReg 0x224 = v ∧ t.hle = { s.hle with addrLo := v } ∧ t.mem = s.mem) ∧
    (s.sec.mbox.length = 4096 → ∃ t : State, exec (.registerWrite (.bar0 0x501000 v none)) s = .next t ∧ t.readReg 0x501000 = v ∧ t.sec.mbox.drop 4 = s.sec.mbox.drop 4) ∧
    exec (.registerWrite (.bar0 0 v none)) s = .next (Claims.atBar0 s)) ∧
  (∀ (code : BitVec 8) (data : Bytes) (pecOk : Bool) (s : State), s.smbOpen = true →
    (pecOk = false ∨ sbLengthOk code.toNat data.length = false → exec (.registerWrite (.smbus code data pecOk)) s = .next (s.sbSet 5)) ∧
    (data.length = 4 → ∃ t : State, exec (.registerWrite (.smbus 0x05 data true)) s = .next t ∧
      t.steward.sbEvent = s.steward.sbEvent &&& ~~~(BitVec.ofNat 6 (field data 0 4)) ∧ t.steward.alertEn = s.steward.alertEn ∧
      ((t.steward.sbEvent &&& t.steward.alertEn) = 0 → t.steward.alert = false) ∧ t.mem = s.mem ∧ t.queues = s.queues) ∧
    (data.length = 4 → ∃ t : State, exec (.registerWrite (.smbus 0x06 data true)) s = .next t ∧
      t.steward.alertEn = BitVec.ofNat 6 (field data 0 4) ∧ t.steward.sbEvent = s.steward.sbEvent ∧
      ((t.steward.sbEvent &&& t.steward.alertEn) = 0 → t.steward.alert = false) ∧ t.mem = s.mem ∧ t.queues = s.queues)) ∧
  (∀ (i : Fin 64) (v : Word) (s : State), s.barOpen = true → s.queues.length = 64 → s.parts.length = 16 →
    (v.getLsbD 0 = true →
      exec (.acctClear false i v) s = .next ((Claims.atBar0 s).modQueue i.val fun x => { x with acct := {} }) ∧
      exec (.acctClear true i v) s = .next ((Claims.atBar0 s).modPart (i.val % 16) fun x => { x with acct := {} })) ∧
    (v.getLsbD 0 = false → ∀ part, exec (.acctClear part i v) s = .next (Claims.atBar0 s)))

/-- For every state s in which the write arrives: GET_CHAIN and GET_METER_CHAIN without a request answer the chain. PEER_ADD of a request that fits answers 0x0A02 for a chain that R440 does not accept; the entry of a new endpoint is added unless the table holds 8,192 (0x0A04), one with the same key changes nothing, and one with another key is replaced unless it is in use (0x0A06). PEER_REMOVE and PEER_CLEAR remove entries that are not in use, answer 0x0A06 for those in use, and an absent endpoint succeeds. DEBUG_OPEN opens debug, clears the engines and the core stores, empties the host-line cache and raises 0x0A11 only with the fuse set, no partition and no admission; else 0x0A05. A wrong length ends in 0x0A01. (R437, R440, R441, R442, R450, R451, R461.) -/
def Obligations.MailboxOperationsAnswerTheHost : Prop :=
  (∀ s : State, s.barOpen = true →
    let b := Claims.atBar0 s
    let req := Claims.request s
    let ep := field req 0 4 % 2 ^ 20
    let chain := req.drop 8
    let key := chainKey (chainCerts chain)
    let entry : Peer := { ep := ep, pubKey := key, pairKey := pairKey s.sec.keys.identity.toNat (publicKey s.sec.keys.identity.toNat) key }
    let fits := 8 ≤ req.length ∧ req.length = s.sec.reqLen ∧ req.length = 8 + field req 4 2
    let held := s.sec.peers.find? fun x => x.ep == ep
    (∃ t : State, exec .getChain s = .next t ∧ Claims.MailboxEnds b t (if s.sec.reqLen = 0 then 0 else 0x0A01) (if s.sec.reqLen = 0 then s.sec.keys.chain.flatten else []) ∧
      t.sec.peers = s.sec.peers) ∧
    (∃ t : State, exec .getMeterChain s = .next t ∧ Claims.MailboxEnds b t (if s.sec.reqLen = 0 then 0 else 0x0A01) (if s.sec.reqLen = 0 then s.sec.keys.meterChain.flatten else []) ∧
      t.sec.peers = s.sec.peers) ∧
    (∃ t : State, exec .peerAdd s = .next t ∧ ∃ status, Claims.MailboxEnds b t status [] ∧ (status ≠ 0 → t.sec.peers = s.sec.peers) ∧
      (¬ fits → status = 0x0A01) ∧
      (fits → chainVerifies s.peerRoots (chainCerts chain) = false → status = 0x0A02) ∧
      (fits → chainVerifies s.peerRoots (chainCerts chain) = true →
        (held = none → s.sec.peers.length < 8192 → status = 0 ∧ t.sec.peers = s.sec.peers ++ [entry]) ∧
        (held = none → 8192 ≤ s.sec.peers.length → status = 0x0A04) ∧
        (∀ x, held = some x →
          (x.pubKey = key → status = 0 ∧ t.sec.peers = s.sec.peers) ∧
          (x.pubKey ≠ key → Claims.PeerInUse s (· = ep) → status = 0x0A06) ∧
          (x.pubKey ≠ key → ¬ Claims.PeerInUse s (· = ep) → status = 0 ∧ t.sec.peers = s.sec.peers.map fun z => if z.ep = ep then entry else z)))) ∧
    (∃ t : State, exec .peerRemove s = .next t ∧ ∃ status, Claims.MailboxEnds b t status [] ∧ (status ≠ 0 → t.sec.peers = s.sec.peers) ∧
      (req.length ≠ 4 → status = 0x0A01) ∧
      (req.length = 4 → held = none → status = 0 ∧ t.sec.peers = s.sec.peers) ∧
      (req.length = 4 → held ≠ none → Claims.PeerInUse s (· = ep) → status = 0x0A06) ∧
      (req.length = 4 → held ≠ none → ¬ Claims.PeerInUse s (· = ep) → status = 0 ∧ ∀ z, z ∈ t.sec.peers ↔ z ∈ s.sec.peers ∧ z.ep ≠ ep)) ∧
    (∃ t : State, exec .peerClear s = .next t ∧ ∃ status, Claims.MailboxEnds b t status [] ∧ (status ≠ 0 → t.sec.peers = s.sec.peers) ∧
      (s.sec.reqLen ≠ 0 → status = 0x0A01) ∧
      (s.sec.reqLen = 0 → Claims.PeerInUse s (fun _ => True) → status = 0x0A06) ∧
      (s.sec.reqLen = 0 → ¬ Claims.PeerInUse s (fun _ => True) → status = 0 ∧ t.sec.peers = [])) ∧
    (s.sec.reqLen ≠ 0 → ∃ t : State, exec .debugOpen s = .next t ∧ Claims.MailboxEnds b t 0x0A01 [] ∧ t.sec.peers = s.sec.peers) ∧
    (s.sec.reqLen = 0 → (s.sec.debugAllow = false ∨ s.anyPart = true ∨ s.adm.busy = true) →
      ∃ t : State, exec .debugOpen s = .next t ∧ Claims.MailboxEnds b t 0x0A05 [] ∧ t.sec.peers = s.sec.peers) ∧
    (s.sec.reqLen = 0 → s.sec.debugAllow = true → s.anyPart = false → s.adm.busy = false →
      ∃ t : State, exec .debugOpen s = .next t ∧ t.sec.status = 0 ∧ t.sec.debugOpen = true ∧ t.sec.jtag = true ∧ t.err.lastCode = 0x0A11 ∧
        t.engines = [] ∧ t.coreMems = [] ∧ t.fabric.lines = [] ∧ t.mem.dev = s.mem.dev ∧ t.sec.peers = s.sec.peers ∧ t.flash.revoked = s.flash.revoked ∧ t.meter = s.meter))

/-- For every state s that serves SPDM requests: GET_VERSION opens a connection and answers version 1.3; GET_CAPABILITIES, NEGOTIATE_ALGORITHMS, GET_DIGESTS and GET_CERTIFICATE of slot 0 answer the items of R446; CHALLENGE of slot 0 answers the chain's digest, a fresh nonce and the summary that it asks for, signed over the connection, the certificate messages, its request and itself; a signed GET_MEASUREMENTS of index 255 answers blocks 1 to 8 of one cycle, signed over the connection, the unsigned answers before it, its request and itself. The firmware, configuration, fuse, debug, layout and identity blocks have the contents of R447 and 48, 48, 16, 4, 260 and 16 bytes. At a raised shed level the answer is ResponseNotReady, and a function that does not answer configuration requests answers nothing. The byte layouts around these items are the model's choice (log entry 7). (R437, R446, R447, R492.) -/
def Obligations.AttestationAnswersOverSpdm : Prop :=
  (∀ (req : Bytes) (s : State), Claims.Attests s →
    (∃ t : State, exec (.getVersion req) s = .next t ∧ Claims.SaysVca (s.setSec { s.sec with vca := [] }) t req [0x10, 0x04, 0, 0, 0, 1, 0, 0x13]) ∧
    (∃ t : State, exec (.getCapabilities req) s = .next t ∧
      Claims.SaysVca s t req (Claims.message 0x61 0 0 ([0, 14, 0, 0, 0x16, 0, 0, 0] ++ leBytes 4 (Config.spdmSize 0) ++ leBytes 4 (Config.spdmSize 1)))) ∧
    (∃ t : State, exec (.negotiateAlgorithms req) s = .next t ∧
      Claims.SaysVca s t req (Claims.message 0x63 0 0 ([36, 0, 1, 0, 4, 0, 0, 0, 0x80, 0, 0, 0, 2, 0, 0, 0] ++ List.replicate 16 0))) ∧
    (∃ t : State, exec (.getDigests req) s = .next t ∧ Claims.SaysCert s t req (Claims.message 0x01 1 1 (sha384 (Claims.slotChain s)))) ∧
    (∀ off len, ∃ t : State, exec (.getCertificate req 0 off len) s = .next t ∧
      let rest := (Claims.slotChain s).drop off
      Claims.SaysCert s t req (Claims.message 0x02 0 0 (leBytes 2 (min len rest.length) ++ leBytes 2 (rest.length - min len rest.length) ++ rest.take len))) ∧
    (∀ nonce, ∃ t : State, exec (.challenge req 0 nonce) s = .next t ∧ ∃ lanes k, s.fresh ≤ k ∧ k < t.fresh ∧
      let summary := if byteAt req 3 = 0 then [] else sha384 ((List.range 8).flatMap fun i => s.measureBlock lanes (i + 1))
      let m := Claims.message 0x03 0 1 (sha384 (Claims.slotChain s) ++ (List.range 32).map (Config.freeByte k) ++ summary ++ Claims.trailer req)
      t.out = s.out ++ [.spdm (m ++ s.spdmSign (ascii "responder-challenge_auth signing") (s.sec.vca ++ s.sec.certMsgs ++ req ++ m))] ∧
        t.sec = { s.sec with certMsgs := [], measMsgs := [] } ∧ t.mem = s.mem ∧ t.parts = s.parts) ∧
    (∀ nonce, ∃ t : State, exec (.getMeasurements req 255 true nonce) s = .next t ∧ ∃ lanes k, s.fresh ≤ k ∧ k < t.fresh ∧
      let blocks := (List.range 8).flatMap fun i => s.measureBlock lanes (i + 1)
      let m := Claims.message 0x60 0 0 ([8] ++ leBytes 3 blocks.length ++ blocks ++ (List.range 32).map (Config.freeByte k) ++ Claims.trailer req)
      t.out = s.out ++ [.spdm (m ++ s.spdmSign (ascii "responder-measurements signing") (s.sec.vca ++ s.sec.measMsgs ++ req ++ m))] ∧
        t.sec = { s.sec with measMsgs := [] } ∧ t.mem = s.mem ∧ t.parts = s.parts) ∧
    (∀ nonce, ∃ t : State, exec (.getMeasurements req 0 false nonce) s = .next t ∧ ∃ k, s.fresh ≤ k ∧ k < t.fresh ∧
      let m := Claims.message 0x60 8 0 ([0, 0, 0, 0] ++ (List.range 32).map (Config.freeByte k) ++ Claims.trailer req)
      t.out = s.out ++ [.spdm m] ∧ t.sec = { s.sec with measMsgs := s.sec.measMsgs ++ req ++ m }) ∧
    (∀ (slot : BitVec 4) (nonce : Bytes) (off len : Nat), slot ≠ 0 →
      exec (.challenge req slot nonce) s = .next (s.emit (.spdm [0x13, 0x7F, 1, 0])) ∧
      exec (.getCertificate req slot off len) s = .next (s.emit (.spdm [0x13, 0x7F, 1, 0])))) ∧
  (∀ (s : State) (lanes : Bool), s.parts.length = 16 →
    s.measurement lanes 2 = sha384 s.bankInUse.image ∧ (s.measurement lanes 2).length = 48 ∧ (s.measurement lanes 3).length = 48 ∧
    s.measurement lanes 5 = leBytes 1 (3 + if s.sec.debugAllow then 4 else 0) ++ leBytes 1 s.flash.revoked.toNat ++ leBytes 2 s.flash.minFw ++ List.replicate 12 0#8 ∧
    (s.sec.debugOpen = false → s.measurement lanes 6 = leBytes 4 (if s.sec.jtag then 2 else 0)) ∧
    (s.measurement lanes 7).length = 260 ∧ field (s.measurement lanes 7) 0 4 = s.sec.layouts % 2 ^ 32 ∧
    (∀ p, p < 16 → field (s.measurement lanes 7) (4 + 16 * p) 1 = (if (s.part p).admitted then 1 else 0) ∧
      field (s.measurement lanes 7) (6 + 16 * p) 2 = (s.part p).cores % 65536 ∧ field (s.measurement lanes 7) (8 + 16 * p) 2 = (s.part p).c0Cores % 65536 ∧
      field (s.measurement lanes 7) (12 + 16 * p) 8 = (s.part p).queues.toNat) ∧
    s.measurement lanes 8 = leBytes 8 s.inv.serial.toNat ++ leBytes 4 0x7B011F5C ++ leBytes 1 s.inv.stepping ++ leBytes 1 1 ++ [0#8, 0#8]) ∧
  (∀ (req : Bytes) (s : State), s.phase = .run → s.link.cfgOk = true → s.steward.shed ≠ 0 → exec (.getDigests req) s = .next (s.emit .spdmNotReady)) ∧
  (∀ (req : Bytes) (s : State), (s.phase ≠ .run ∨ s.link.cfgOk = false) → exec (.getDigests req) s = .next s)

/-- For every state s with Fuelagrim's rail up: FUELAGRIM_SECOND adds the energy and one second and puts the counters into the journal slot that does not hold the newer ones; while the rails are on the power block takes in the second's mean, a failed check sets FAULT and raises event 0x0A20, and otherwise a mean above 1.005 × C_eff sets CAP_EXCEEDED and raises 0x0912. SIGN emits a KIND 1 record: RECORD_SEQ rises by one, MTR_RECORD holds 472 bytes with the header, serial, sequence, energy and nonce, signed over bytes 0 to 375. METER_RECORD emits a KIND 0 record with a nonce of zeros and writes it into the tag, or keeps it while the tag refuses; METER_TAG_RETRY writes it when the tag accepts, and raises 0x0A22 once after 60 s. PARAMETER_SET_LOAD appends a set and advances EVENT_COUNTER, and does nothing once 15 sets are held. Each changes only the meter, the tag, the power block and the event records. (R412, R417, R455, R456, R457, R458, R459, R460.) -/
def Obligations.FuelagrimMetersAndSigns : Prop :=
  (∀ (mj : Nat) (ovr ok : Bool) (s : State), s.pins.vin = true →
    ∃ t : State, exec (.fuelagrimSecond mj ovr ok) s = .next t ∧ t.meter.energy = (s.meter.energy + mj) % 2 ^ 64 ∧ t.meter.opS = s.meter.opS + 1 ∧
      t.meter.overS = s.meter.overS + (if ovr then 1 else 0) ∧ t.meter.overNow = ovr ∧ t.meter.fault = !ok ∧ t.meter.macs = s.meter.macs ∧ t.meter.bytes = s.meter.bytes ∧
      (∃ j, t.meter.newest = some j ∧ j.atLoss = false ∧ j.energy = t.meter.energy ∧ j.opS = t.meter.opS ∧ j.macs = s.meter.macs ∧ j.bytes = s.meter.bytes ∧ j.events = s.meter.eventCount) ∧
      (∀ k, s.meter.newest = some k → t.meter.j0 = k ∨ t.meter.j1 = k) ∧
      ((s.phase = .off ∨ s.phase = .shutdown) → t.setMeter s.meter = s) ∧
      (s.phase ≠ .off → s.phase ≠ .shutdown →
        t.power.second = some ((mj : Rat) / 1000, if s.power.secWins = 0 then 0 else s.power.secSum / (s.power.secWins : Nat)) ∧ t.power.secSum = 0 ∧ t.power.secWins = 0 ∧
        (ok = false → t.err.lastCode = 0x0A20 ∧ t.meter.faultRec = true ∧ t.power.event = s.power.event) ∧
        (ok = true → (mj : Rat) / 1000 ≤ s.power.effCap * 1005 / 1000 → (t.setMeter s.meter).setPower s.power = s) ∧
        (ok = true → s.power.effCap * 1005 / 1000 < (mj : Rat) / 1000 → t.power.event = s.power.event ||| 1#8 ∧ t.err.lastCode = 0x0912)) ∧ t.mem = s.mem) ∧
  (∀ (mj : Nat) (ovr ok : Bool) (s : State), s.pins.vin = false → exec (.fuelagrimSecond mj ovr ok) s = .next s) ∧
  (∀ (v : Word) (s : State), s.barOpen = true →
    (v.getLsbD 0 = false → exec (.sign v) s = .next (Claims.atBar0 s)) ∧
    (v.getLsbD 0 = true → s.meter.nonce.length = 8 →
      ∃ t : State, exec (.sign v) s = .next t ∧ t.setMeter s.meter = Claims.atBar0 s ∧ t.meter.seq = (s.meter.seq + 1) % 2 ^ 64 ∧
        t.meter.energy = s.meter.energy ∧ t.meter.eventCount = s.meter.eventCount ∧
        let r := t.meter.record
        r.length = 472 ∧ field r 1 1 = 0x70 ∧ field r 2 2 = 472 ∧ field r 4 1 % 4 = 1 ∧ field r 8 8 = s.inv.serial.toNat ∧ field r 16 8 = t.meter.seq ∧
        field r 24 4 = s.meter.eventCount % 2 ^ 32 ∧ field r 40 8 = s.meter.energy % 2 ^ 64 ∧ (∀ n, n < 8 → field r (56 + 4 * n) 4 = (s.meter.nonce.getD n 0).toNat) ∧
        (∀ p, p < 16 → field r (88 + 16 * p) 8 = s.meter.macs.getD p 0 / 1024 % 2 ^ 64 ∧ field r (96 + 16 * p) 8 = s.meter.bytes.getD p 0 / 4096 % 2 ^ 64 ∧
          field r (344 + 2 * p) 2 = s.meter.gen.getD p 0 % 65536) ∧
        r.drop 376 = ecdsaSign s.meter.key.toNat (1 + Config.signNonce 1 (r.take 376) % (n384 - 1)) (r.take 376))) ∧
  (∀ s : State, s.pins.vin = true →
    ∃ t : State, exec .meterRecord s = .next t ∧ t.meter.seq = (s.meter.seq + 1) % 2 ^ 64 ∧ t.meter.record.length = 472 ∧ field t.meter.record 4 1 % 4 = 0 ∧
      (∀ n, n < 32 → t.meter.record.getD (56 + n) 0 = 0) ∧ t.mem = s.mem ∧
      (s.tagRefuses = true → t.meter.tagPend = some (t.meter.record, s.nowUs) ∧ t.tag = s.tag) ∧
      (s.tagRefuses = false → s.tag.mem.length = 2048 → t.meter.tagPend = none ∧ ∃ slot, slot < 2 ∧
        (∀ k, k < 118 → (t.tag.mem.getD (0x40 + 128 * slot + k) 0).toNat = field t.meter.record (4 * k) 4) ∧
        (∀ k, (k < 0x40 + 128 * slot ∨ 0x40 + 128 * slot + 128 ≤ k) → t.tag.mem.getD k 0 = s.tag.mem.getD k 0))) ∧
  (∀ (s : State) (r : Bytes) (since : Nat), s.meter.tagPend = some (r, since) →
    (s.tagRefuses = false → ∃ t : State, exec .meterTagRetry s = .next t ∧ t.meter = { s.meter with tagPend := none, tagLate := false } ∧ t.mem = s.mem) ∧
    (s.tagRefuses = true → since + 60000000 ≤ s.nowUs → s.meter.tagLate = false →
      ∃ t : State, exec .meterTagRetry s = .next t ∧ t.err.lastCode = 0x0A22 ∧ t.meter = { s.meter with tagLate := true } ∧ t.tag = s.tag) ∧
    (s.tagRefuses = true → (s.nowUs < since + 60000000 ∨ s.meter.tagLate = true) → exec .meterTagRetry s = .next s)) ∧
  (∀ s : State, s.meter.tagPend = none → exec .meterTagRetry s = .next s) ∧
  (∀ s : State, s.meter.paramSet < 15 →
    exec .parameterSetLoad s = .next (s.setMeter { s.meter with paramSet := s.meter.paramSet + 1, otp := s.meter.otp ++ [Config.paramSet (s.meter.paramSet + 1)], eventCount := (s.meter.eventCount + 1) % 2 ^ 32 })) ∧
  (∀ s : State, 15 ≤ s.meter.paramSet → exec .parameterSetLoad s = .next s)

namespace Sys2Proof.Claims

/-- The pauses in force on the transmitters of a port (R327). -/
def pauses (p : Port) : List (Nat × List Nat) := p.tx.map fun x => (x.pauseAll, x.pausePrio)

/-- Two states of a port that differ in their counters and in what waits for egress alone. -/
def SamePort (p q : Port) : Prop := { p with cnt := q.cnt, tx := q.tx } = q ∧ pauses p = pauses q

/-- `t` differs from `s` in port `n` alone, and in what has gone out. -/
def OnlyPort (s t : State) (n : Nat) : Prop :=
  { t with optics := s.optics, out := s.out } = s ∧ { t.optics with ports := s.optics.ports } = s.optics ∧ ∀ k, k ≠ n → t.port k = s.port k

/-- Counter `k` of R345 has counted `inc k` more: one of frames and bytes modulo 2^64, another up to its greatest value. -/
def Counts (p q : List Nat) (inc : Nat → Nat) : Prop :=
  ∀ k, q.getD k 0 = if inc k = 0 then p.getD k 0 else if k < 4 then (p.getD k 0 + inc k) % 2 ^ 64 else min 4294967295 (p.getD k 0 + inc k)

/-- The counters after the FEC counts that came with frame `f` (R333, R345). -/
def fecCounts (l : List Nat) (f : Frame) : List Nat :=
  l.zipIdx.map fun x => if x.2 = 10 then min 4294967295 (x.1 + f.fecCorr) else if x.2 = 11 then min 4294967295 (x.1 + f.fecUncorr) else x.1

/-- Sub-port `sub` of port `n` differs from `p` in its transmitter alone, which is `f` of what it was, but for what has left its queues. -/
def TxSet (p q : Port) (sub : Nat) (f : SubTx → SubTx) : Prop :=
  { p with cnt := q.cnt, tx := q.tx } = q ∧ (∀ k, k ≠ sub → q.txOf k = p.txOf k) ∧
    (q.txOf sub).pauseAll = (f (p.txOf sub)).pauseAll ∧ (q.txOf sub).pausePrio = (f (p.txOf sub)).pausePrio ∧ ∀ x ∈ (q.txOf sub).queue, x ∈ (p.txOf sub).queue

/-- The module ignores the value `v` for configuration register `reg` of port `p`: PORT_CFG, PORT_VLAN, PORT_PCP and PORT_FC have values and times that R332 excludes. -/
def CfgIgnored (p : Port) (reg v : Nat) : Prop :=
  match reg with
  | 0 => v / 8 % 4 = 3 ∨ v / 65536 % 65536 < 1518 ∨ 9216 < v / 65536 % 65536 ∨ (v / 8 % 4 = 2 ∧ v / 32 % 2 = 0) ∨
      (p.adminUp = true ∧ (v / 8 % 4 ≠ p.fcMode ∨ (v / 32 % 2 = 1) ≠ (p.tagEn = true) ∨ v / 65536 % 65536 ≠ p.maxFrame))
  | 1 => v % 4096 = 0 ∨ v % 4096 = 4095 ∨ (p.adminUp = true ∧ (v % 4096 ≠ p.vid ∨ v / 4096 % 8 ≠ p.ctrlPcp))
  | 2 => 4 < ((List.range 8).filter fun q => v / 2 ^ (16 + q) % 2 = 1).length ∨
      (p.adminUp = true ∧ ((List.range 4).map (fun c => v / 2 ^ (3 * c) % 8) ≠ p.pcp ∨ v / 65536 % 256 ≠ p.pfcEn.toNat))
  | 3 => v % 64 ≤ v / 256 % 64 ∨ v / 65536 % 65536 = 0
  | _ => False

/-- The port with the value `v` in configuration register `reg` (R344). -/
def cfgStored (p : Port) (reg v : Nat) : Port :=
  match reg with
  | 0 => { p with adminUp := v / 4 % 2 == 1, fcMode := v / 8 % 4, tagEn := v / 32 % 2 == 1, maxFrame := v / 65536 % 65536, lastError := 0 }
  | 1 => { p with vid := v % 4096, ctrlPcp := v / 4096 % 8, lastError := 0 }
  | 2 => { p with pcp := (List.range 4).map (fun c => v / 2 ^ (3 * c) % 8), pfcEn := BitVec.ofNat 8 (v / 65536), lastError := 0 }
  | 3 => { p with high := v % 64, low := v / 256 % 64, quanta := v / 65536 % 65536, lastError := 0 }
  | 4 => { p with c0Share := v % 64, drr := [max 1 (v / 256 % 16), max 1 (v / 4096 % 16), max 1 (v / 65536 % 16)],
                  stallMs := max 1 (v / 1048576 % 256), lastError := 0 }
  | 5 => { p with hopLo := BitVec.ofNat 32 v, lastError := 0 }
  | _ => { p with hopHi := BitVec.ofNat 32 (v % 65536), lastError := 0 }

/-- Sub-ports of a mode (R319). -/
def subCount (mode : Nat) : Nat := if mode = 1 then 2 else if mode = 2 then 8 else 1

/-- A laser channel lights engine `e`, and its island can be reached (R340, R520). -/
def EngineRuns (s : State) (e : Nat) : Prop :=
  (∃ l ∈ s.optics.lasers, l.engine = some e ∧ l.st = .lit) ∧
    ∀ i ∈ s.fabric.islands, i.st = .failed → ∀ x : Fin 8, i.island = .engine x → x.val ≠ e

end Sys2Proof.Claims

/-- For every port n and state s in which the write arrives: a write of a configuration register that R332 excludes leaves the port with LAST_ERROR 0x0601; another stores its fields with LAST_ERROR 0, and one that takes ADMIN_UP to 0 also brings every sub-port down, sends time 0 for each pause outstanding of a sub-port that is up, ends received pauses and empties its queues and the ingress buffer. RETRY_FULL of a degraded port that is enabled and whose engine runs it brings it up at full width with PORT_DEGRADED clear when every lane passes; a lane that does not takes the spare of its direction when its path is at fault and the spare is free, PORT_DEGRADED staying set until the port trains, and otherwise leaves the port on the lanes left. PORT_CNT_CLEAR zeroes the counters of its page. Other ports change only their counters and queues. Which write names a field of the first group is the model's reading (log entry 25). (R332, R336, R344, R345.) -/
def Obligations.PortWritesFollowTheirRules : Prop :=
  ∀ (n : Fin 16) (s : State), s.barOpen = true → s.optics.ports.length = 16 →
    let p := s.port n.val
    (∀ (reg : Fin 7) (v : Word),
      let st := Claims.cfgStored p reg.val v.toNat
      ∃ t : State, exec (.portCfgWrite n reg v) s = .next t ∧ t.mem = s.mem ∧ t.queues = s.queues ∧ t.parts = s.parts ∧
        (∀ k, k ≠ n.val → Claims.SamePort (t.port k) (s.port k)) ∧
        (Claims.CfgIgnored p reg.val v.toNat → Claims.SamePort (t.port n.val) { p with lastError := 0x0601 }) ∧
        (¬ Claims.CfgIgnored p reg.val v.toNat → ¬ (p.adminUp = true ∧ st.adminUp = false) → Claims.SamePort (t.port n.val) st) ∧
        (¬ Claims.CfgIgnored p reg.val v.toNat → p.adminUp = true → st.adminUp = false →
          (t.port n.val).adminUp = false ∧ (t.port n.val).subUp = 0 ∧ (t.port n.val).tx = List.replicate 8 {} ∧
          (t.port n.val).shares = [] ∧ (t.port n.val).lastError = 0 ∧ (t.port n.val).maxFrame = p.maxFrame ∧
          ∀ x ∈ p.shares, x.paused = true → p.subUp.getLsbD x.sub = true → .pause n.val x.sub (p.pausePcp x.k) 0 ∈ t.out)) ∧
    (∀ (v : Word) (faults : List LaneFault),
      let can := p.adminUp = true ∧ p.engineStop = false ∧ Claims.EngineRuns s (n.val / 2)
      ((v.getLsbD 0 = false ∨ s.inv.degraded.getLsbD n.val = false ∨ ¬ can) → exec (.retryFull n v faults) s = .next (Claims.atBar0 s)) ∧
      (v.getLsbD 0 = true → s.inv.degraded.getLsbD n.val = true → can →
        ∃ t : State, exec (.retryFull n v faults) s = .next t ∧ t.mem = s.mem ∧ t.queues = s.queues ∧ (∀ k, k ≠ n.val → Claims.SamePort (t.port k) (s.port k)) ∧
          ((∀ f ∈ faults, f.port ≠ n) → t.inv.degraded.getLsbD n.val = false ∧ (t.port n.val).laneFault = 0 ∧ (t.port n.val).width = 0 ∧
            ∀ k, k < Claims.subCount p.mode → (t.port n.val).subUp.getLsbD k = true) ∧
          (∀ lane tx pathOk, faults = [{ port := n, lane := lane, tx := tx, pathOk := pathOk }] →
            (t.port n.val).subUp = 0 ∧
            (pathOk = false → s.spareFree n.val tx = true → t.inv.degraded = s.inv.degraded ∧ (t.port n.val).laneFault = 0 ∧ (t.port n.val).width = 0 ∧
              (if tx then (t.port n.val).txSpare else (t.port n.val).rxSpare) = lane.val ∧ (t.port n.val).evSpared = true) ∧
            ((pathOk = true ∨ s.spareFree n.val tx = false) → t.inv.degraded = s.inv.degraded ∧ (t.port n.val).laneFault = 1#8 <<< lane.val ∧ t.err.lastCode = 0x0613 ∧
              (p.mode = 0 → (t.port n.val).width = if lane.val < 4 then 2 else 1))))) ∧
    (∀ v : Word,
      (v.getLsbD 0 = true → exec (.portCntClear n v) s = .next ((Claims.atBar0 s).modPort n.val fun p => { p with cnt := List.replicate 13 0 })) ∧
      (v.getLsbD 0 = false → exec (.portCntClear n v) s = .next (Claims.atBar0 s)))

/-- For every port n and state s: PORT_DOWN brings every sub-port down and keeps every unacknowledged packet, of which a lone one that another port of the axis can take is handed to that port. A sub-port that may run comes up at SUBPORT_UP, or at a TRAINING_RETRY that trained, is announced once outside a warm reset, raises 0x0611, and clears PORT_DEGRADED when it is the last sub-port of a port with no failed lane; one that may not, or is up, changes nothing. LANE_FAILURE of a lane brings its sub-port down and no other; with a faulty path and the spare of that direction free, the spare takes the lane; otherwise the lane stays failed, PORT_DEGRADED is set, and a MODE 0b00 port runs on the half without a failed lane, if one is left. The order in which lanes of one cycle are named does not matter: the lower port, then the lower lane, goes first. (R36, R296, R321, R322, R333, R334, R335.) -/
def Obligations.PortsTrainAndLoseLanes : Prop :=
  ∀ (n : Fin 16) (s : State), s.optics.ports.length = 16 → (∀ x ∈ s.optics.ports, x.tx.length = 8) →
    let p := s.port n.val
    (∃ t : State, exec (.portDown n) s = .next t ∧ (t.port n.val).subUp = 0 ∧ (p.subUp ≠ 0 → (t.port n.val).evLink = true ∧ t.err.lastCode = 0x0610) ∧
      (∀ k, k ≠ n.val → Claims.SamePort (t.port k) (s.port k)) ∧ t.mem = s.mem ∧ t.queues = s.queues ∧ t.parts = s.parts ∧
      (∀ ep cls, (t.flow ep cls).unacked.map (·.1) = (s.flow ep cls).unacked.map (·.1)) ∧
      (∀ ep cls q rto k m, s.fab.valid = true → s.fab.flows = [{ s.flow ep cls with ep := ep, cls := cls }] → (s.flow ep cls).unacked = [(q, n.val, rto, k)] →
        m ≠ n.val → s.pickPort (portAxis s.fab.axis n.val) (some n.val) = some m →
        (t.flow ep cls).unacked = [(q, m, rto, k)] ∧ ((∃ e, .pft e k ∈ t.out) ∨ ∃ x ∈ (t.port m).tx, ∃ y ∈ x.queue, y.2.2 = .pft k))) ∧
    (∀ k : Fin 8,
      let may := p.adminUp = true ∧ k.val < Claims.subCount p.mode ∧ p.engineStop = false ∧ Claims.EngineRuns s (n.val / 2) ∧
        (p.mode = 1 → p.laneFault &&& (0xF#8 <<< (4 * k.val)) = 0) ∧ (p.mode = 2 → p.laneFault.getLsbD k.val = false) ∧
        (p.mode ≠ 1 → p.mode ≠ 2 → p.width ≠ 3)
      (may → p.subUp.getLsbD k.val = false →
        ∃ t : State, exec (.subportUp n k) s = .next t ∧ (t.port n.val).subUp = p.subUp ||| (1#8 <<< k.val) ∧ (t.port n.val).evLink = true ∧
          t.err.lastCode = 0x0611 ∧
          (t.inv.degraded.getLsbD n.val = (s.inv.degraded.getLsbD n.val && !(decide (p.laneFault = 0) &&
            (List.range (Claims.subCount p.mode)).all fun j => j == k.val || p.subUp.getLsbD j))) ∧ t.mem = s.mem ∧ t.queues = s.queues ∧ (∀ j, j ≠ n.val → Claims.SamePort (t.port j) (s.port j)) ∧
          (s.phase ≠ .warm → (p.txOf k.val).pauseAll = 0 → (p.txOf k.val).pausePrio.getD p.ctrlPcp 0 = 0 → .gratuitous n.val k.val (p.tagFor 0) ∈ t.out)) ∧
      ((¬ may ∨ p.subUp.getLsbD k.val = true) → exec (.subportUp n k) s = .next s) ∧
      exec (.trainingRetry n k true) s = exec (.subportUp n k) s ∧ exec (.trainingRetry n k false) s = .next s) ∧
    (∀ (lane : Fin 8) (tx pathOk : Bool),
      let sub := if p.mode = 1 then lane.val / 4 else if p.mode = 2 then lane.val else 0
      let sib := s.port (2 * (n.val / 2) + (1 - n.val % 2))
      let spare := pathOk = false ∧ (if tx then p.txSpare else p.rxSpare) = 15 ∧ (if tx then sib.txSpare else sib.rxSpare) = 15
      (p.laneFault.getLsbD lane.val = true → exec (.laneFailure n lane tx ⟨pathOk, []⟩) s = .next s) ∧
      (p.laneFault.getLsbD lane.val = false →
        ∃ t : State, exec (.laneFailure n lane tx ⟨pathOk, []⟩) s = .next t ∧
          let q := t.port n.val
          q.evLane = true ∧ q.subUp.getLsbD sub = false ∧ (∀ k, k ≠ sub → q.subUp.getLsbD k = p.subUp.getLsbD k) ∧
          t.mem = s.mem ∧ t.queues = s.queues ∧ (∀ j, j ≠ n.val → Claims.SamePort (t.port j) (s.port j)) ∧
          (spare → q.evSpared = true ∧ q.laneFault = p.laneFault ∧ q.width = p.width ∧ (if tx then q.txSpare else q.rxSpare) = lane.val ∧
            (if tx then q.rxSpare = p.rxSpare else q.txSpare = p.txSpare) ∧ t.inv.degraded = s.inv.degraded ∧
            (if tx then t.inv.txSpares = s.inv.txSpares - 1 else t.inv.rxSpares = s.inv.rxSpares - 1) ∧ t.flash.mapDirty = true) ∧
          (¬ spare → q.evHalved = true ∧ q.laneFault = p.laneFault ||| (1#8 <<< lane.val) ∧ t.inv.degraded.getLsbD n.val = true ∧
            q.txSpare = p.txSpare ∧ q.rxSpare = p.rxSpare ∧
            (p.mode = 0 → q.width = if q.laneFault &&& 0x0F#8 = 0 then 1 else if q.laneFault &&& 0xF0#8 = 0 then 2 else 3)))) ∧
    (∀ f g : LaneFault, (f.port ≠ g.port ∨ f.lane ≠ g.lane) → exec (.laneFailure f.port f.lane f.tx ⟨f.pathOk, [g]⟩) s = exec (.laneFailure g.port g.lane g.tx ⟨g.pathOk, [f]⟩) s)

/-- For every port n, sub-port and state s outside a warm reset: on a sub-port that is up, a PAUSE_FRAME to the group address or the port's own in FC_MODE 0b01 sets the pause of that sub-port, and PFC_FRAME in 0b10 those of its enabled priorities, and each is counted as received; another is discarded and counted, and on a sub-port that is down, or during a warm reset, nothing is received. While a PAUSE is in force nothing leaves the sub-port. PAUSE_EXPIRY ends a pause. INGRESS_HIGH of a covered share above HIGH with no pause outstanding sends PAUSE_QUANTA, PAUSE_REPEAT sends it again while the share is at or above LOW, and INGRESS_LOW below LOW sends time 0; otherwise, and from a sub-port that is down, nothing is sent. FLOW_STALL of a port with a sub-port held for every PCP of PFT makes it count as down with event 0x0614 and its link up, and STALL_CLEAR with no hold ends that. The egress picks nothing under a PAUSE, else control, else class 0 within its share, else a class with a frame that no pause holds. The 64 bytes that a control frame counts are PRESUMED from Ethernet (log entry 99). (R325, R326, R327, R328, R329, R330, R343, R345.) -/
def Obligations.FlowControlFollowsItsFrames : Prop :=
  ∀ (n : Fin 16) (sub : Fin 8) (s : State), s.optics.ports.length = 16 → (s.port n.val).cnt.length = 13 → (s.port n.val).tx.length = 8 →
    ((s.port n.val).txOf sub.val).pausePrio.length = 8 →
    let p := s.port n.val
    let received : Nat → Nat := fun k => if k = 7 then 1 else if k = 2 then 1 else if k = 3 then 64 else 0
    let refused : State → Prop := fun t => Claims.OnlyPort s t n.val ∧ t.out = s.out ∧ { p with cnt := (t.port n.val).cnt } = t.port n.val ∧
      Claims.Counts p.cnt (t.port n.val).cnt fun k => if k = 9 then 1 else 0
    ((s.phase = .warm ∨ p.subUp.getLsbD sub.val = false) →
      (∀ dst time, exec (.pauseFrame ⟨n, sub, dst⟩ time) s = .next s) ∧ (∀ dst v l, exec (.pfcFrame ⟨n, sub, dst⟩ v l) s = .next s)) ∧
    (s.phase ≠ .warm → p.subUp.getLsbD sub.val = true →
      ∀ dst : Bytes,
      let ours := dst = [0x01, 0x80, 0xC2, 0x00, 0x00, 0x01] ∨ dst = s.macOf s.fab.ep n.val
      (∀ time : BitVec 16, ∃ t : State, exec (.pauseFrame ⟨n, sub, dst⟩ time) s = .next t ∧
        (p.fcMode = 1 ∧ ours → Claims.OnlyPort s t n.val ∧ Claims.TxSet p (t.port n.val) sub.val (fun x => { x with pauseAll := time.toNat }) ∧
          (time ≠ 0 → t.out = s.out ∧ (t.port n.val).txOf sub.val = { p.txOf sub.val with pauseAll := time.toNat } ∧ Claims.Counts p.cnt (t.port n.val).cnt received) ∧
          ∀ k, 2 ≤ k → (t.port n.val).cnt.getD k 0 = if k < 4 then (p.cnt.getD k 0 + received k) % 2 ^ 64 else if k = 7 then min 4294967295 (p.cnt.getD k 0 + 1) else p.cnt.getD k 0) ∧
        (¬ (p.fcMode = 1 ∧ ours) → refused t)) ∧
      (∀ (v : BitVec 8) (l : List (BitVec 16)), ∃ t : State, exec (.pfcFrame ⟨n, sub, dst⟩ v l) s = .next t ∧
        (p.fcMode = 2 ∧ ours → Claims.OnlyPort s t n.val ∧
          Claims.TxSet p (t.port n.val) sub.val (fun x => { x with pausePrio := (List.range 8).map fun q => if v.getLsbD q = true ∧ p.pfcEn.getLsbD q = true then (l.getD q 0).toNat else x.pausePrio.getD q 0 }) ∧
          (t.port n.val).cnt.getD 7 0 = min 4294967295 (p.cnt.getD 7 0 + 1)) ∧
        (¬ (p.fcMode = 2 ∧ ours) → refused t))) ∧
    (s.phase ≠ .warm → ∀ k : Fin 5,
        let x := p.share sub.val k.val
        let pfc := (List.range 8).filter fun q => p.pfcEn.getLsbD q
        let size := 2097152 / Claims.subCount p.mode / (if p.fcMode = 2 then pfc.length + 1 else 1) / 4096 * 4096
        let covered := (p.fcMode = 1 ∧ k.val = 0) ∨ (p.fcMode = 2 ∧ k.val < pfc.length)
        let pcp := if p.fcMode = 2 then pfc.getD k.val 8 else 8
        let sends := fun (t : State) (time : Nat) (occ : Nat) => Claims.OnlyPort s t n.val ∧ ((t.port n.val).share sub.val k.val).occ = occ ∧
          (p.subUp.getLsbD sub.val = true → t.out = s.out ++ [.pause n.val sub.val pcp time] ∧ ((t.port n.val).share sub.val k.val).paused = decide (0 < time) ∧
            Claims.Counts p.cnt (t.port n.val).cnt (fun k => if k = 8 then 1 else if k = 0 then 1 else if k = 1 then 64 else 0)) ∧
          (p.subUp.getLsbD sub.val = false → t.out = s.out ∧ ((t.port n.val).share sub.val k.val).paused = (x.paused && decide (0 < time)) ∧ (t.port n.val).cnt = p.cnt)
        (covered → x.paused = false → size * p.high < 64 * x.occ → ∃ t : State, exec (.ingressHigh n sub k) s = .next t ∧ sends t p.quanta x.occ) ∧
        (¬ (covered ∧ x.paused = false ∧ size * p.high < 64 * x.occ) → exec (.ingressHigh n sub k) s = .next s) ∧
        (x.paused = true → size * p.low ≤ 64 * x.occ → ∃ t : State, exec (.pauseRepeat n sub k) s = .next t ∧ sends t p.quanta x.occ) ∧
        (¬ (x.paused = true ∧ size * p.low ≤ 64 * x.occ) → exec (.pauseRepeat n sub k) s = .next s) ∧
        (∀ d, x.paused = true → 64 * (x.occ - d) < size * p.low → ∃ t : State, exec (.ingressLow n sub k d) s = .next t ∧ sends t 0 (x.occ - d)) ∧
        (∀ d, ¬ (x.paused = true ∧ 64 * (x.occ - d) < size * p.low) →
          ∃ t : State, exec (.ingressLow n sub k d) s = .next t ∧ Claims.OnlyPort s t n.val ∧ (t.port n.val).cnt = p.cnt ∧ t.out = s.out ∧
            ((t.port n.val).share sub.val k.val).paused = x.paused ∧ ((t.port n.val).share sub.val k.val).occ = x.occ - d)) ∧
    (∃ t : State, exec (.pauseExpiry ⟨n, sub⟩ none) s = .next t ∧ Claims.OnlyPort s t n.val ∧ Claims.TxSet p (t.port n.val) sub.val fun x => { x with pauseAll := 0 }) ∧
    (∀ q : Fin 8, ∃ t : State, exec (.pauseExpiry ⟨n, sub⟩ (some q)) s = .next t ∧ Claims.OnlyPort s t n.val ∧
      Claims.TxSet p (t.port n.val) sub.val fun x => { x with pausePrio := updAt x.pausePrio q.val fun _ => 0 }) ∧
    (let held := ∃ k, k < 8 ∧ p.subUp.getLsbD k = true ∧ (0 < (p.txOf k).pauseAll ∨ (p.fcMode = 2 ∧ ∀ q ∈ p.ctrlPcp :: p.pcp, 0 < (p.txOf k).pausePrio.getD q 0))
     (held → p.stalled = false →
      ∃ t : State, exec (.flowStall n) s = .next t ∧ Claims.SamePort (t.port n.val) { p with stalled := true, evStall := true } ∧ t.err.lastCode = 0x0614 ∧
        t.portUp n.val = false ∧ t.mem = s.mem ∧ t.queues = s.queues) ∧
     ((¬ held ∨ p.stalled = true) → exec (.flowStall n) s = .next s)) ∧
    (let any := ∃ x ∈ p.tx, 0 < x.pauseAll ∨ ∃ y ∈ x.pausePrio, 0 < y
     (p.stalled = true → ¬ any →
       ∃ t : State, exec (.stallClear n) s = .next t ∧ Claims.SamePort (t.port n.val) { p with stalled := false } ∧ t.mem = s.mem ∧ t.queues = s.queues) ∧
     ((p.stalled = false ∨ any) → exec (.stallClear n) s = .next s)) ∧
    (∀ (x : SubTx) (now : Nat) (size : Egr → Nat),
      (0 < x.pauseAll → x.pick p now size = none) ∧
      (x.pauseAll = 0 → x.ready p 0 = true → x.pick p now size = some (0, x)) ∧
      (x.pauseAll = 0 → x.ready p 0 = false → x.ready p 1 = true → x.c0Within p now = true → x.pick p now size = some (1, x)) ∧
      (∀ q y, x.pick p now size = some (q, y) → x.ready p q = true ∧ y.queue = x.queue ∧ y.pausePrio = x.pausePrio ∧ y.pauseAll = 0))

/-- For every port n and state s: a frame on a sub-port that is up, outside a warm reset, is counted as bad FCS, as filtered (too long, a wrong tag, not what R322 takes: PORT_ETYPE to the port's own address, a datagram to its own IP address and PORT_UDP, ARP or a neighbour solicitation), as a control frame not for the port, as lacking buffer, or as accepted with its bytes, and one that is accepted, but for a control frame, fills its share; its FEC counts are added to the port's; otherwise it is ignored. ARP requests and neighbour solicitations for the port's own address, made of NET or the IPv6 prefix and EP × 16 + n, are answered as soon as no pause holds control, and others not. ENGINE_HOT sets the power event with 0x0917, which wakes the module. ENGINE_OVERHEAT stops the engine's two ports with 0x0918, which wakes the module, and leaves the lasers of one that is awake, and ENGINE_COOLED lets the ports train again. Frames are told apart by their form (log entry 92). (R285, R322, R324, R326, R329, R333, R343, R345, R428.) -/
def Obligations.FramesAndEnginesActOnTheirPorts : Prop :=
  (∀ (n : Fin 16) (sub : Fin 8) (f : Frame) (s : State), s.optics.ports.length = 16 → (s.port n.val).cnt.length = 13 →
    let p := s.port n.val
    let tagOk := f.doubleTag = false ∧ ∀ vid pcp, f.tag = some (vid, pcp) → vid = 0 ∨ vid.toNat = p.vid
    let pcp := if p.tagEn then (match f.tag with | some (_, q) => q.toNat | none => 0) else 0
    let x := p.share sub.val (p.shareOf pcp)
    let own := s.macOf s.fab.ep n.val
    let taken : Prop := match f.what with
      | .control => False
      | .ether e => e.toNat = s.fab.etype ∧ f.dst = own
      | .udp a port => port.toNat = s.fab.udpPort ∧ (a = s.ip4Of s.fab.ep n.val ∨ a = s.ip6Of s.fab.ep n.val)
      | .arp => True
      | .neighbour => True
    let toUs := f.dst = [0x01, 0x80, 0xC2, 0x00, 0x00, 0x01] ∨ f.dst = own
    let passes := f.fcsOk = true ∧ f.len ≤ p.maxFrame ∧ tagOk
    let one : Nat → Nat → Nat := fun i k => if k = i then 1 else 0
    let whole : Nat → Nat := fun k => if k = 2 then 1 else if k = 3 then f.len else 0
    ((s.phase = .warm ∨ p.subUp.getLsbD sub.val = false) → exec (.frameReceive n sub f) s = .next s) ∧
    (s.phase ≠ .warm → p.subUp.getLsbD sub.val = true →
      ∃ t : State, exec (.frameReceive n sub f) s = .next t ∧ Claims.OnlyPort s t n.val ∧ t.out = s.out ∧
        let q := t.port n.val
        let counts := Claims.Counts (Claims.fecCounts p.cnt f) q.cnt
        (f.fcsOk = false → { p with cnt := q.cnt } = q ∧ counts (one 4)) ∧
        (f.fcsOk = true → (p.maxFrame < f.len ∨ ¬ tagOk ∨ (f.what ≠ .control ∧ ¬ taken)) → { p with cnt := q.cnt } = q ∧ counts (one 5)) ∧
        (passes → f.what = .control → { p with cnt := q.cnt } = q ∧ (toUs → counts whole) ∧ (¬ toUs → counts (one 9))) ∧
        (passes → taken → p.shareSize < x.occ + f.len → { p with cnt := q.cnt } = q ∧ counts (one 6)) ∧
        (passes → taken → x.occ + f.len ≤ p.shareSize →
          counts whole ∧ { p with cnt := q.cnt, shares := q.shares } = q ∧ (q.share sub.val (p.shareOf pcp)).occ = x.occ + f.len))) ∧
  (∀ (n : Fin 16) (sub : Fin 8) (target : Bytes) (s : State), s.optics.ports.length = 16 → (s.port n.val).tx.length = 8 →
    let p := s.port n.val
    let addr := beBytes 3 (s.fab.ep * 16 + n.val)
    let up := s.phase ≠ .warm ∧ p.subUp.getLsbD sub.val = true
    let free := (p.txOf sub.val).pauseAll = 0 ∧ (p.txOf sub.val).pausePrio.getD p.ctrlPcp 0 = 0
    let ip4 := beBytes 1 s.fab.net ++ addr
    let ip6 := beBytes 4 s.fab.ip6Hi.toNat ++ beBytes 4 s.fab.ip6Lo.toNat ++ beBytes 5 0 ++ addr
    (up → target = ip4 → ∃ t : State, exec (.arpRequest n sub target) s = .next t ∧ Claims.OnlyPort s t n.val ∧ Claims.SamePort p (t.port n.val) ∧
      (free → .arpReply n.val sub.val (p.tagFor 0) ∈ t.out)) ∧
    ((¬ up ∨ target ≠ ip4) → exec (.arpRequest n sub target) s = .next s) ∧
    (up → target = ip6 → ∃ t : State, exec (.neighbourSolicitation n sub target) s = .next t ∧ Claims.OnlyPort s t n.val ∧ Claims.SamePort p (t.port n.val) ∧
      (free → .neighbourAdv n.val sub.val (p.tagFor 0) ∈ t.out)) ∧
    ((¬ up ∨ target ≠ ip6) → exec (.neighbourSolicitation n sub target) s = .next s)) ∧
  (∀ (e : Fin 8) (s : State), s.optics.ports.length = 16 →
    (∃ t : State, exec (.engineHot e) s = .next t ∧ t.power = { s.power with event := s.power.event ||| 0x80#8, idle := 0 } ∧ t.err.lastCode = 0x0917 ∧
      t.optics.ports = s.optics.ports ∧ t.mem = s.mem ∧ t.fab = s.fab) ∧
    (∃ t : State, exec (.engineOverheat e) s = .next t ∧ t.err.lastCode = 0x0918 ∧ t.power.idle = 0 ∧ (s.power.idle = 0 → t.optics.lasers = s.optics.lasers) ∧ t.mem = s.mem ∧ t.queues = s.queues ∧
      (∀ n, n / 2 = e.val → (t.port n).subUp = 0 ∧ (t.port n).engineStop = true) ∧ (∀ n, n / 2 ≠ e.val → Claims.SamePort (t.port n) (s.port n))) ∧
    (∃ t : State, exec (.engineCooled e) s = .next t ∧ t.setOptics s.optics = s ∧ { t.optics with ports := s.optics.ports } = s.optics ∧
      ∀ n, t.port n = if n / 2 = e.val then { s.port n with engineStop := false } else s.port n))

/-- For every channel c and state s: LASER_SHORT of a channel that carries current latches it failed, pauses every ramp, raises the SHORT event, and gives its engine, unless a spare is on its way to it, the lowest-numbered good dark spare, whose ramp waits behind those of other spares only; with none, the engine waits for a spare that is in its monitor ramp, and with none there either it goes dark with LASER_ACTIVE one less. LASER_RAIL_REGULATED resumes the paused ramps. LASER_RAIL_FAULT turns every channel off and brings every port down; LASER_RESTART lets the good channels ramp again, but not after a second rail fault. A ramp that is done is lit with its channel's operating bias, a free value up to 600 mA, and when meant for another channel's engine, is switched onto it with event 0x0621; a monitor ramp ends dark, and an engine that waited takes the spare. LASER_WORN sends a spare for the worn channel, which stays lit until then. (R31, R337, R338, R339, R340, R341, R342, R346.) -/
def Obligations.LasersAreRampedSparedAndLost : Prop :=
  (∀ (c : Fin 10) (s : State), s.optics.lasers.length = 10 → s.optics.ports.length = 16 →
    let l := s.laser c.val
    ((l.st = .dark ∨ l.st = .failed) → exec (.laserShort c) s = .next s) ∧
    (l.st ≠ .dark → l.st ≠ .failed →
      ∃ t : State, exec (.laserShort c) s = .next t ∧ (t.laser c.val).st = .failed ∧ (t.laser c.val).failed = true ∧ (t.laser c.val).engine = none ∧
        t.optics.evShort = true ∧ t.optics.rail = false ∧ t.flash.mapDirty = true ∧ t.mem = s.mem ∧ t.queues = s.queues ∧
        (∀ k, k ≠ c.val → t.laser k = if (s.laser k).st = .ramping then { s.laser k with st := .paused, bias := (s.laser k).present s.nowUs k } else s.laser k) ∧
        (∀ e sp, l.engine = some e → e < 8 → (∀ x ∈ s.optics.rampFor, x.2 = e → x.1 = c.val ∨ (s.laser x.1).engine ≠ none) →
          (∀ x ∈ s.optics.rampQ, x.2 = e → x.1 ≠ c.val ∧ (s.laser x.1).engine ≠ none) →
          (let ok := fun k => k < 10 ∧ k ≠ c.val ∧ (s.laser k).failed = false ∧ (s.laser k).st = .dark ∧ (s.laser k).engine = none ∧
              (∀ x ∈ s.optics.rampQ, x.1 = k → x.2 = 8) ∧ (∀ x ∈ s.optics.rampFor, x.1 ≠ k)
           let checked := ∃ x ∈ s.optics.rampFor, x.1 ≠ c.val ∧ x.2 = 8 ∧ (s.laser x.1).failed = false
           (ok sp → (∀ k, k < sp → ¬ ok k) → (∃ a b, t.optics.rampQ = a ++ (sp, e) :: b ∧ ∀ x ∈ a, x.2 ≠ 8 ∧ (t.laser x.1).engine = none) ∧
              t.inv.laserActive = s.inv.laserActive) ∧
           ((∀ k, ¬ ok k) → checked → (none, e) ∈ t.optics.lacking ∧ t.optics.evDark = s.optics.evDark ∧ t.inv.laserActive = s.inv.laserActive) ∧
           ((∀ k, ¬ ok k) → ¬ checked → t.optics.evDark = true ∧ t.inv.laserActive = s.inv.laserActive - 1 ∧ t.inv.degraded.getLsbD (2 * e) = true ∧
              t.inv.degraded.getLsbD (2 * e + 1) = true)) ∧ (t.port (2 * e)).subUp = 0 ∧ (t.port (2 * e + 1)).subUp = 0) ∧
        (l.engine = none → t.inv.laserSpares = s.inv.laserSpares - 1))) ∧
  (∀ s : State, s.optics.lasers.length = 10 →
    ∃ t : State, exec .laserRailRegulated s = .next t ∧ t.optics.rail = true ∧ t.setOptics s.optics = s ∧ t.optics.ports = s.optics.ports ∧
      ∀ k, k < 10 → (s.laser k).st = .paused → (t.laser k).st = .ramping) ∧
  (∀ s : State, (s.optics.rail = true → exec .laserRailFault s = .next s) ∧
    (s.optics.rail = false → s.optics.lasers.length = 10 → s.optics.ports.length = 16 →
      ∃ t : State, exec .laserRailFault s = .next t ∧ t.optics.evRail = true ∧ t.optics.allOff = true ∧ t.optics.railFaults = s.optics.railFaults + 1 ∧
        (∀ k, k < 10 → (s.laser k).failed = false → t.laser k = { s.laser k with st := .dark, bias := 0 }) ∧ (∀ n, n < 16 → (t.port n).subUp = 0) ∧
        t.mem = s.mem ∧ t.queues = s.queues)) ∧
  (∀ s : State, s.optics.lasers.length = 10 →
    ((s.phase = .off ∨ s.optics.allOff = false ∨ 2 ≤ s.optics.railFaults) → exec .laserRestart s = .next s) ∧
    (s.phase ≠ .off → s.optics.allOff = true → s.optics.railFaults < 2 → s.ramping = false →
      ∃ t : State, exec .laserRestart s = .next t ∧ t.setOptics s.optics = s ∧ t.optics.allOff = false ∧ t.optics.rail = true ∧
        ∀ k, k < 10 → (s.laser k).failed = false →
          (t.laser k).st = .ramping ∨ ∃ x ∈ t.optics.rampQ, x.1 = k)) ∧
  (∀ (c : Fin 10) (s : State), s.optics.lasers.length = 10 → s.optics.ports.length = 16 →
    let ready := (s.laser c.val).st = .ramping ∧ s.optics.rampQ = []
    ((s.laser c.val).st ≠ .ramping → exec (.laserRampDone c) s = .next s) ∧
    (ready → (∀ x ∈ s.optics.rampFor, x.1 ≠ c.val) →
      ∃ t : State, exec (.laserRampDone c) s = .next t ∧ t.laser c.val = { s.laser c.val with st := .lit, bias := laserBias c.val } ∧ t.mem = s.mem) ∧
    (ready → s.optics.rampFor = [(c.val, 8)] →
      ∃ t : State, exec (.laserRampDone c) s = .next t ∧ t.mem = s.mem ∧ t.queues = s.queues ∧
        (s.optics.lacking = [] → t.laser c.val = { s.laser c.val with st := .dark, bias := 0 } ∧ t.optics.rampFor = []) ∧
        (∀ e, s.optics.lacking = [(none, e)] → e < 8 → s.goodSpare = none → (s.laser c.val).failed = false → (s.laser c.val).engine = none →
          s.optics.rail = true → s.optics.allOff = false → (t.laser c.val).st = .ramping ∧ t.optics.rampFor = [(c.val, e)] ∧ t.optics.lacking = [])) ∧
    (∀ e, ready → s.optics.rampFor = [(c.val, e)] → e < 8 → s.optics.worn = [] →
      ∃ t : State, exec (.laserRampDone c) s = .next t ∧ (t.laser c.val).st = .lit ∧ (t.laser c.val).engine = some e ∧ (t.laser c.val).bias = laserBias c.val ∧
        (t.laser c.val).bias ≤ 600 ∧ t.optics.rampFor = [] ∧ t.mem = s.mem ∧ t.queues = s.queues ∧
        ((s.laser c.val).engine ≠ some e → t.optics.evSpared = true ∧ t.inv.laserSpares = s.inv.laserSpares - 1 ∧ t.flash.mapDirty = true)) ∧
    (∀ e w, ready → s.optics.rampFor = [(c.val, e)] → e < 8 → s.optics.worn = [(w, c.val)] → w < 10 →
      w ≠ c.val → (s.laser c.val).engine = none →
      ∃ t : State, exec (.laserRampDone c) s = .next t ∧ (t.laser c.val).engine = some e ∧ (t.laser w).st = .failed ∧ (t.laser w).failed = true ∧
        (t.laser w).engine = none ∧ t.optics.worn = [])) ∧
  (∀ (c : Fin 10) (s : State), s.optics.lasers.length = 10 →
    (((s.laser c.val).st ≠ .lit ∨ (s.laser c.val).engine = none ∨ ∃ x ∈ s.optics.worn, x.1 = c.val) → exec (.laserWorn c) s = .next s) ∧
    (∀ e, (s.laser c.val).st = .lit → (s.laser c.val).engine = some e → (∀ x ∈ s.optics.worn, x.1 ≠ c.val) → (∀ x ∈ s.optics.rampQ, x.1 ≠ c.val) →
      ∃ t : State, exec (.laserWorn c) s = .next t ∧ t.setOptics s.optics = s ∧ t.optics.evWorn = true ∧ t.optics.ports = s.optics.ports ∧
        (t.laser c.val).st = .lit ∧ (t.laser c.val).engine = some e ∧ 15 ≤ (t.laser c.val).deficit ∧
        (∀ sp, s.goodSpare = some sp → t.optics.worn = s.optics.worn ++ [(c.val, sp)]) ∧ (s.goodSpare = none → t.optics.worn = s.optics.worn)))

namespace Sys2Proof.Claims

/-- Spare lane `n` of direction `dir` of link `l` serves no lane and has not failed (R388). -/
def SpareOpen (s : State) (l dir n : Nat) : Prop :=
  n < spareLanes l ∧ (∀ x ∈ (s.dieLink l).lanes, x.dir = dir → x.spare ≠ some n) ∧ ((s.dieLink l).lane dir (activeLanes l + n)).failed = false

/-- The router of island `i` answers every packet with 0x0881: the island was declared unreachable, or it is a failed or fused-off core (R396). -/
def Dead (s : State) (i : Island) : Prop :=
  (s.isl i).st = .failed ∨ ∃ p, i = .core p ∧ ((s.core p.val).st = .failed ∨ (s.core p.val).st = .fusedOff)

/-- The rind has refused a request with `ans`: it counts as a violation, the limit fences the guest die with cause 1, and no byte moves (R403, R404). -/
def Denied (s t : State) (ans : Out) : Prop :=
  let v := min 255 (s.fabric.violations + 1)
  ans ∈ t.out ∧ t.fabric.violations = v ∧ t.mem = s.mem ∧ t.queues = s.queues ∧ t.parts = s.parts ∧
    (s.inv.guest = 1 → s.fabric.fenceLimit ≠ 0 → s.fabric.fenceLimit ≤ v → t.inv.guest = 2 ∧ t.fabric.fenceCause = 1) ∧
    ((s.fabric.fenceLimit = 0 ∨ v < s.fabric.fenceLimit) → t.inv.guest = s.inv.guest)

/-- A read of `n` bytes at `a` lies wholly in window `w` of KIND 1 (R403). -/
def InReadWindow (w : RindWin) (a n : Nat) : Prop := w.kind = 1 ∧ w.part * 2 ^ 44 + w.base ≤ a ∧ a + n ≤ w.part * 2 ^ 44 + w.base + w.size

end Sys2Proof.Claims

/-- For every link l, direction and lane, and state s: LANE_LOCK locks a searching lane whose bits show the alignment word in four superframes with 192 good flits, after which its unacknowledged flits are sent again and waiting packets may go, and not one whose bits hold no alignment word; LOSS_OF_LOCK is counted in RELOCKS, and the eighth in one second fails the lane, as LOCK_TIMEOUT of an unlocked lane does. FLIT_CRC_FAIL sends a NAK naming the first flit that failed, the eighth failed flit of a superframe loses lock, and NAK resends from the named flit what the sender keeps, oldest first, and counts. Of the lanes that fail in one cycle the lower number is served first. An active lane that fails takes the lowest free spare with SPAREn one less; without a spare LOSTn rises by one, a lane of another role takes a memory lane's place, and with fewer than 64 memory lanes left the link fails and the module stops; a failed memory lane that stood in another's place leaves that one to the next spare. The egress of a direction sends control first, then the interrupt role, then responses, and only packets that wait. No route crosses more than three links. The scrambler's form, and which memory lane is given up, are the model's choice (log entries 30, 96). (R377, R378, R381, R384, R385, R386, R387, R388, R389, R390, R406, R521.) -/
def Obligations.DieLanesLockReplayAndAreSpared : Prop :=
  alignWord = [true, false, true, true, false, false, true, true, true, false, false, false, true, true, true, false] ∧
  (∀ (l : Fin 6) (dir : Fin 2) (lane : Fin 2624) (s : State), s.fabric.links.length = 6 →
    let k := s.dieLink l.val
    let x := k.lane dir.val lane.val
    let now := s.nowUs :: x.losses.filter fun t => decide (s.nowUs < t + 1000000)
    let alone := ∀ y ∈ k.lanes, y.dir = dir.val → y.taken ≠ some lane.val
    (∀ rx : List Bool,
      ((x.locked = true ∨ (x.failed = true ∧ x.spare = none)) → exec (.laneLock l dir lane rx) s = .next s) ∧
      (x.locked = false → (x.failed = false ∨ x.spare ≠ none) → (∀ n, n < 4 → (rx.drop (16400 * n)).take 16 = alignWord) →
        (∀ n, n < 3 → ∀ i, i < 64 → flitOk (((descramble 0x7FFFFF#23 ((rx.drop (16400 * n + 16)).take 16384)).drop (256 * i)).take 256) = true) →
        exec (.laneLock l dir lane rx) s = .next ((s.modLink l.val fun k => k.setLane { x with locked := true, resend := none, bad := [], offset := 0 }).replayLane l.val dir.val lane.val).linkServe) ∧
      ((∀ n, (rx.drop n).take 16 ≠ alignWord) → exec (.laneLock l dir lane rx) s = .next s)) ∧
    (x.locked = false → exec (.lockTimeout l dir lane) s = exec (.dieLaneFailure l dir { lane := lane }) s) ∧
    (x.locked = true → exec (.lockTimeout l dir lane) s = .next s) ∧
    (x.locked = false → exec (.lossOfLock l dir lane) s = .next s) ∧
    (x.locked = true → ∃ t : State, exec (.lossOfLock l dir lane) s = .next t ∧ t.fabric.relocks = min 4294967295 (s.fabric.relocks + 1) ∧
      (now.length < 8 → (t.dieLink l.val).lane dir.val lane.val = { x with locked := false, losses := now, bad := [] } ∧ t.setFabric s.fabric = s) ∧
      (8 ≤ now.length → lane.val < activeLanes l.val → x.failed = false → ((t.dieLink l.val).lane dir.val lane.val).failed = true)) ∧
    (∀ seq sent : BitVec 10,
      (let bad := (seq.toNat :: x.bad).filter fun y => y / 64 == seq.toNat / 64
       let u := s.modLink l.val fun k => k.setLane { x with bad := seq.toNat :: x.bad, resend := some (x.resend.getD seq.toNat) }
       let v := if x.resend = none ∨ x.resend = some seq.toNat then u.emit (.flitNak l.val dir.val lane.val seq.toNat) else u
       ((bad.length < 8 ∨ x.locked = false) → exec (.flitCrcFail l dir lane seq) s = .next v) ∧
       (8 ≤ bad.length → x.locked = true → exec (.flitCrcFail l dir lane seq) s = exec (.lossOfLock l dir lane) v)) ∧
      (∃ t : State, exec (.nak l dir lane seq sent) s = .next t ∧
        let n := if (sent.toNat + 1024 - seq.toNat) % 1024 = 0 then 1024 else (sent.toNat + 1024 - seq.toNat) % 1024
        t.out = s.out ++ [.flitResend l.val dir.val lane.val seq.toNat n] ++
          ((keepFlits dir.val lane.val n (k.sent.filter fun y => y.1 == lane.val && y.2.dir == dir.val)).reverse.map fun y => .linkResend l.val dir.val lane.val y.2) ∧ t.fabric.replays = min 4294967295 (s.fabric.replays + n) ∧
        (t.dieLink l.val).lane dir.val lane.val = { x with resend := none })) ∧
    (lane.val < activeLanes l.val → x.failed = true → exec (.dieLaneFailure l dir { lane := lane }) s = .next s.linkServe) ∧
    (lane.val < activeLanes l.val → x.failed = false →
      (∀ n, Claims.SpareOpen s l.val dir.val n → (∀ m, m < n → ¬ Claims.SpareOpen s l.val dir.val m) →
        ∃ t : State, exec (.dieLaneFailure l dir { lane := lane }) s = .next t ∧ t.mem = s.mem ∧ t.queues = s.queues ∧ t.flash.mapDirty = true ∧
          let k' := t.dieLink l.val
          (alone → k'.lane dir.val lane.val = { x with failed := true, spare := some n, locked := true, losses := [], resend := none }) ∧
          (∀ y, k.lanes.find? (fun y => y.dir == dir.val && y.taken == some lane.val) = some y →
            (k'.lane dir.val lane.val).failed = true ∧ ∃ m, m ≤ n ∧ (k'.lane dir.val y.lane).spare = some m ∧ ((k.lanes.map fun z => (z.dir, z.lane)).Nodup → m = n)) ∧
          k'.spare0 = (if dir = 0 then k.spare0 - 1 else k.spare0) ∧ k'.spare1 = (if dir = 0 then k.spare1 else k.spare1 - 1) ∧
          k'.lost0 = k.lost0 ∧ k'.lost1 = k.lost1 ∧ k'.failed = k.failed) ∧
      ((∀ n, ¬ Claims.SpareOpen s l.val dir.val n) → alone →
        ∃ t : State, exec (.dieLaneFailure l dir { lane := lane }) s = .next t ∧
          let k' := t.dieLink l.val
          (k'.lane dir.val lane.val).failed = true ∧ (k'.lane dir.val lane.val).spare = none ∧
          (lane.val < 8 * k.mem → (k'.lane dir.val lane.val).taken = none) ∧
          (8 * k.mem ≤ lane.val → ∀ m, k.lastMemory dir.val (8 * k.mem) = some m →
            (k'.lane dir.val lane.val).taken = some m ∧ (k'.lane dir.val m).gone = true) ∧
          k'.lost0 = (if dir = 0 then min 255 (k.lost0 + 1) else k.lost0) ∧ k'.lost1 = (if dir = 0 then k.lost1 else min 255 (k.lost1 + 1)) ∧
          (64 ≤ 8 * k.mem - (k.lostOf dir.val + 1) → k'.failed = k.failed ∧ t.phase = s.phase ∧ t.mem = s.mem ∧ t.queues = s.queues) ∧
          (8 * k.mem - (k.lostOf dir.val + 1) < 64 → (s.phase = .run ∨ (s.phase = .boot ∧ 6 ≤ s.boot.step)) → k'.failed = true ∧ t.phase = .stopped ∧ t.pins.ready = false) ∧
          (8 * k.mem - (k.lostOf dir.val + 1) < 64 → s.phase = .boot → s.boot.step < 6 → k'.failed = true ∧ t.phase = .boot))) ∧
    (∀ m : Fin 2624, m ≠ lane → exec (.dieLaneFailure l dir { lane := lane, also := [m] }) s = exec (.dieLaneFailure l dir { lane := m, also := [lane] }) s)) ∧
  (∀ (k : DieLink) (l now : Nat) (w : Nat → Nat) (dir : Nat) (p : LinkPkt) (a : LinkArb), k.choose l now w dir = some (p, a) →
    let c := k.ownFirst dir (k.ready l [] (k.waiting.filter fun y => y.dir == dir))
    p ∈ c ∧ p ∈ k.waiting ∧ p.dir = dir ∧ ((∃ y ∈ c, y.vc = 3) → p.vc = 3) ∧ ((∀ y ∈ c, y.vc ≠ 3) → (∃ y ∈ c, y.role = 2) → p.role = 2) ∧
      ((∀ y ∈ c, y.vc ≠ 3 ∧ y.role ≠ 2) → (∃ y ∈ c, y.vc = 1) → p.vc = 1)) ∧
  (∀ (a b : Fin 5) (page : Nat), (linkRoute a.val b.val page).length ≤ 3 ∧ (linkRoute a.val b.val page = [] ↔ a = b) ∧
    ∀ x ∈ linkRoute a.val b.val page, x.1 < 6 ∧ x.2 < 2)

/-- For every island i and state s: ISLAND_CLOSE of a running island marks it closing; a packet for it, CLOSE_ABANDON among them, takes that back, is delivered, and the requester is told; a closing island with nothing outstanding is closed when the module next idles (log entry 31). A packet for a running island is delivered; for another one it is held while fewer than 16 are, with a wake requested, and otherwise returned with 0x0880, to be resent after 2 µs, doubling to 64 µs, while later packets of its sender wait behind it. ISLAND_WAKE_DONE delivers the held packets in arrival order. A dead island answers every packet with 0x0881, with which the command of the core that sent it ends. WAKE_TIMEOUT answers the held packets with it and treats the island: an engine's ports go down, a stack's pseudo-channels retire, a core fails, a vat slice stops the module, and a hub block starts a warm reset. (R391, R392, R393, R394, R395, R396, R407, R520.) -/
def Obligations.IslandsCloseHoldAndWake : Prop :=
  (∀ (i : Island) (s : State),
    let r := s.isl i
    (r.st = .running → ¬ Claims.Dead s i →
      ∃ t : State, exec (.islandClose i) s = .next t ∧ t.isl i = { r with st := .closing } ∧ t.setFabric s.fabric = s ∧
        ∀ j, j ≠ i → t.isl j = s.isl j) ∧
    ((r.st ≠ .running ∨ Claims.Dead s i) → exec (.islandClose i) s = .next s) ∧
    (r.st = .closing → s.pending = [] → s.phase = .run →
      ∃ t : State, Machine.step s = .next t ∧ (t.isl i).st = if t.islBusy i = true then .closing else .closed) ∧
    (∀ pkt : IslPkt,
      let away := ∃ x ∈ r.back, x.1.sender = pkt.sender
      (r.st = .closing → ¬ Claims.Dead s i →
        ∃ t : State, exec (.closeAbandon { island := i, pkt := pkt }) s = .next t ∧ t.isl i = { r with st := .running } ∧
          t.out = s.out ++ [.delivered pkt, .closeAbandoned i] ∧ ∀ j, j ≠ i → t.isl j = s.isl j) ∧
      ((r.st ≠ .closing ∨ Claims.Dead s i) → exec (.closeAbandon { island := i, pkt := pkt }) s = .next s) ∧
      (away → ∃ t : State, exec (.packetHeld i pkt) s = .next t ∧ t.isl i = { r with behind := r.behind ++ [pkt] } ∧ t.out = s.out ∧ t.setFabric s.fabric = s) ∧
      (¬ away →
        (Claims.Dead s i → 864 ≤ pkt.sender → exec (.packetHeld i pkt) s = .next (s.emit (.returned pkt 0x0881))) ∧
        (∀ l q, Claims.Dead s i → pkt.sender < 864 → (s.core pkt.sender).logical = some l → s.holder l = some q →
          exec (.packetHeld i pkt) s = .next ((s.emit (.returned pkt 0x0881)).endCmd q 0x0881).settle) ∧
        (¬ Claims.Dead s i → r.st = .running → exec (.packetHeld i pkt) s = .next (s.emit (.delivered pkt))) ∧
        (¬ Claims.Dead s i → r.st = .closing → exec (.packetHeld i pkt) s = exec (.closeAbandon { island := i, pkt := pkt }) s) ∧
        (¬ Claims.Dead s i → r.st ≠ .running → r.st ≠ .closing → r.held.length < 16 →
          ∃ t : State, exec (.packetHeld i pkt) s = .next t ∧ t.isl i = { r with st := .waking, held := r.held ++ [pkt] } ∧
            t.fabric.held = min 4294967295 (s.fabric.held + 1) ∧ t.out = s.out ∧ t.fabric.returned = s.fabric.returned) ∧
        (¬ Claims.Dead s i → r.st ≠ .running → r.st ≠ .closing → 16 ≤ r.held.length →
          ∃ t : State, exec (.packetHeld i pkt) s = .next t ∧ t.isl i = { r with back := r.back ++ [(pkt, 2)] } ∧
            t.fabric.returned = min 4294967295 (s.fabric.returned + 1) ∧ t.out = s.out ++ [.returned pkt 0x0880])) ∧
      ((∀ x ∈ r.back, x.1 ≠ pkt) → exec (.returnedPacketResend i pkt) s = .next s) ∧
      (∀ us, r.back.find? (fun x => x.1 == pkt) = some (pkt, us) → ¬ Claims.Dead s i →
        ∃ t : State, exec (.returnedPacketResend i pkt) s = .next t ∧
          let back := r.back.filter fun x => x.1 != pkt
          let mine := r.behind.filter fun x => x.sender == pkt.sender
          (r.st = .running → (∀ x ∈ back, x.1.sender ≠ pkt.sender) → t.out = s.out ++ [.delivered pkt] ++ mine.map .delivered ∧
            t.isl i = { r with back := back, behind := r.behind.filter fun x => x.sender != pkt.sender }) ∧
          (r.st ≠ .running → r.st ≠ .closing → r.held.length < 16 → mine = [] →
            t.out = s.out ∧ t.isl i = { r with back := back, st := .waking, held := r.held ++ [pkt] }) ∧
          (r.st ≠ .running → r.st ≠ .closing → 16 ≤ r.held.length →
            t.out = s.out ++ [.returned pkt 0x0880] ∧ t.isl i = { r with back := back ++ [(pkt, min 64 (2 * us))] })) ∧
      (∀ us, r.back.find? (fun x => x.1 == pkt) = some (pkt, us) → Claims.Dead s i → 864 ≤ pkt.sender → (∀ x ∈ r.behind, x.sender ≠ pkt.sender) →
        ∃ t : State, exec (.returnedPacketResend i pkt) s = .next t ∧ t.out = s.out ++ [.returned pkt 0x0881] ∧
          t.isl i = { r with back := r.back.filter fun x => x.1 != pkt })) ∧
    (r.st = .waking → ∃ t : State, exec (.islandWakeDone i) s = .next t ∧ t.isl i = { r with st := .running, held := [] } ∧
      t.out = s.out ++ r.held.map .delivered ∧ ∀ p, i = .core p → s.cores.length = 864 → (t.core p.val).idle ≠ .s2) ∧
    (r.st ≠ .waking → exec (.islandWakeDone i) s = .next s ∧ ∀ f, exec (.wakeTimeout i f) s = .next s)) ∧
  (∀ (f : StartFacts) (s : State), s.phase = .run →
    (∀ e : Fin 8, (s.isl (.engine e)).st = .waking → s.optics.ports.length = 16 →
      ∃ t : State, exec (.wakeTimeout (.engine e) f) s = .next t ∧ (t.isl (.engine e)).st = .failed ∧ (∀ n, n / 2 = e.val → (t.port n).subUp = 0) ∧
        t.inv.degraded.getLsbD (2 * e.val) = true ∧ t.inv.degraded.getLsbD (2 * e.val + 1) = true ∧
        (∀ p ∈ (s.isl (.engine e)).held, .returned p 0x0881 ∈ t.out) ∧
        ((∀ p ∈ (s.isl (.engine e)).held, 864 ≤ p.sender) → t.mem = s.mem ∧ t.queues = s.queues)) ∧
    (∀ x : Fin 8, (s.isl (.hbm x)).st = .waking → s.mem.pcs.length = 512 →
      ∃ t : State, exec (.wakeTimeout (.hbm x) f) s = .next t ∧ (t.isl (.hbm x)).st = .failed ∧
        ∀ n, n / 64 = x.val → (t.pc n).retiring = true ∨ (t.pc n).retired = true) ∧
    (∀ (p : Fin 864) (l : Nat), (s.isl (.core p)).st = .waking → (s.core p.val).logical = some l → s.physOf l = some p.val → s.cores.length = 864 →
      ∃ u : State, exec (.wakeTimeout (.core p) f) s = .next u.settle ∧ (u.core p.val).st = .failed ∧ (u.core p.val).logical = none) ∧
    (∀ b : Fin 4, (s.isl (.vat b)).st = .waking →
      ∃ t : State, exec (.wakeTimeout (.vat b) f) s = .next t ∧ t.phase = .stopped ∧ t.pins.ready = false) ∧
    (∀ h : Fin 7, (s.isl (.hub h)).st = .waking → s.err.autoWarmEn = true → s.err.lastAuto = none → s.boot.updReq = false → f.firmwareOk = true →
      ∃ t : State, exec (.wakeTimeout (.hub h) f) s = .next t ∧ t.phase = .warm ∧ t.err.autoWarm = true ∧ t.pins.ready = false))

/-- For every state s: a guest read of 1 to 256 bytes that lies in a window of KIND 1 of an admitted partition, with every slab mapped and none lost, is answered with those bytes and changes nothing else; a guest write to a partition with a window of KIND 2 is the BAR2 write of requester 0xFFFF; either waits, with no byte moved, while its partition has no hub-ingress credit or has an earlier request that waits. Any other request of a fitted guest die, and every one of a fenced one, is answered with an abort or Unsupported Request, counts as a violation, moves no byte, and fences the die when FENCE_LIMIT is reached. FENCE with its key fences it with cause 4, GUEST_LINK_DOWN with cause 2, poisoned data or an uncorrectable link error with cause 3. A LOST slab gives an abort that is no violation (the model's choice, log entry 39). (R273, R401, R402, R403, R404, R408.) -/
def Obligations.RindGuardsTheModule : Prop :=
  (∀ (req : GuestAsk) (len : BitVec 9) (data : Bytes) (s : State),
    let a := req.addr.toNat
    let n := len.toNat
    let p := a / 2 ^ 44 % 16
    let plain := req.kind = .memory ∧ req.poisoned = false
    let reads := (s.fabric.guestWaits.filter fun x => x.2.2.isLeft).length
    let mapped := ∀ k ∈ spanSlabs a n, ∃ y, s.slab? k = some y
    let waits := fun (t : State) (x : Nat × Nat × (Nat ⊕ Bytes)) => t.fabric.guestWaits = s.fabric.guestWaits ++ [x] ∧ t.out = s.out ∧ t.mem = s.mem ∧
      t.queues = s.queues ∧ t.parts = s.parts
    (s.inv.guest = 0 → exec (.memoryRead req len) s = .next s ∧ exec (.memoryWrite req data) s = .next s) ∧
    (s.inv.guest = 2 → (∃ t : State, exec (.memoryRead req len) s = .next t ∧ Claims.Denied s t .guestAbort) ∧
      ∃ t : State, exec (.memoryWrite req data) s = .next t ∧ Claims.Denied s t .guestAbort) ∧
    (s.inv.guest = 1 → (req.poisoned = true ∨ req.kind = .linkError) → ∀ c, (c = .memoryRead req len ∨ c = .memoryWrite req data) →
      ∃ t : State, exec c s = .next t ∧ t.inv.guest = 2 ∧ t.fabric.fenceCause = 3 ∧ t.fabric.violations = s.fabric.violations ∧ t.out = s.out ∧ t.mem = s.mem) ∧
    (s.inv.guest = 1 → req.poisoned = false → req.kind = .other →
      (∃ t : State, exec (.memoryRead req len) s = .next t ∧ Claims.Denied s t .guestUnsupported) ∧
      ∃ t : State, exec (.memoryWrite req data) s = .next t ∧ Claims.Denied s t .guestUnsupported) ∧
    (s.inv.guest = 1 → plain → (n = 0 ∨ 256 < n ∨ 64 ≤ reads) → ∃ t : State, exec (.memoryRead req len) s = .next t ∧ Claims.Denied s t .guestUnsupported) ∧
    (s.inv.guest = 1 → plain → 0 < n → n ≤ 256 → reads < 64 →
      ((∀ w ∈ s.fabric.wins, ¬ Claims.InReadWindow w a n) → ∃ t : State, exec (.memoryRead req len) s = .next t ∧ Claims.Denied s t .guestAbort) ∧
      ((∃ w ∈ s.fabric.wins, Claims.InReadWindow w a n) → ∃ w ∈ s.fabric.wins, Claims.InReadWindow w a n ∧
        (((s.part w.part).admitted = false ∨ ¬ mapped) → ∃ t : State, exec (.memoryRead req len) s = .next t ∧ Claims.Denied s t .guestAbort) ∧
        ((s.part w.part).admitted = true → mapped →
          (s.guestFree w.part = false → ∃ t : State, exec (.memoryRead req len) s = .next t ∧ waits t (w.part, a, .inl n)) ∧
          (s.guestFree w.part = true → (∀ k ∈ spanSlabs a n, ∀ y, s.slab? k = some y → y.st ≠ .lost) →
            exec (.memoryRead req len) s = .next (s.emit (.guestData ((List.range n).map fun i => Claims.devByte s (a + i))))) ∧
          (s.guestFree w.part = true → (∃ k ∈ spanSlabs a n, ∃ y, s.slab? k = some y ∧ y.st = .lost) → exec (.memoryRead req len) s = .next (s.emit .guestAbort))))) ∧
    (let open' := (∃ w ∈ s.fabric.wins, w.kind = 2 ∧ w.part = p) ∧ (s.part p).admitted = true
     s.inv.guest = 1 → plain →
      ((data.length = 0 ∨ 256 < data.length) → ∃ t : State, exec (.memoryWrite req data) s = .next t ∧ Claims.Denied s t .guestUnsupported) ∧
      (0 < data.length → data.length ≤ 256 → ¬ open' → ∃ t : State, exec (.memoryWrite req data) s = .next t ∧ Claims.Denied s t .guestAbort) ∧
      (0 < data.length → data.length ≤ 256 → open' →
        (s.guestFree p = true → exec (.memoryWrite req data) s = exec (.landingDataWrite (BitVec.ofNat 28 (p * 2 ^ 24 + a % 2 ^ 24)) data 0xFFFF) s) ∧
        (s.guestFree p = false → ∃ t : State, exec (.memoryWrite req data) s = .next t ∧ waits t (p, a, .inr data))))) ∧
  (∀ (v : Word) (s : State), s.barOpen = true →
    (v.getLsbD 0 = true → v.toNat / 65536 = 0xFE0C → s.inv.guest = 1 →
      ∃ t : State, exec (.fence v) s = .next t ∧ t.inv.guest = 2 ∧ t.fabric.fenceCause = 4 ∧ t.mem = s.mem ∧ t.queues = s.queues ∧ t.parts = s.parts) ∧
    ((v.getLsbD 0 = false ∨ v.toNat / 65536 ≠ 0xFE0C ∨ s.inv.guest ≠ 1) → exec (.fence v) s = .next (Claims.atBar0 s))) ∧
  (∀ s : State, s.inv.guest = 1 → ∃ t : State, exec .guestLinkDown s = .next t ∧ t.inv.guest = 2 ∧ t.fabric.fenceCause = 2 ∧
    t.fabric.violations = s.fabric.violations ∧ t.mem = s.mem ∧ t.queues = s.queues) ∧
  (∀ s : State, s.inv.guest ≠ 1 → exec .guestLinkDown s = .next s)

/-- For every host line outside the submission rings and state s: a read request of agent 2 or 3 for a line without waiting requests leaves its agent as the only sharer, and an ownership request of agent 0, 1 or 2 as the owner, every other copy being invalidated once its data is in the cache; the host is asked for a line that the cache does not hold; an owner's update makes its copy dirty; while the host cannot be asked, or others wait, a request waits behind them. A WRITEBACK by the owner puts its data in the host-line cache and leaves it without a copy; one by another agent changes nothing. Of the requests of one cycle writebacks go first, then ownership, then reads. Lines of a submission ring are read past the cache. A HOST_SNOOP in L0 is answered, of a dirty line with its data, which goes to the host's memory, and drops the line; then the waiting requests are granted in their order. Other lines, and the device range, stay as they are. (R357, R358, R397, R398, R399, R400.) -/
def Obligations.DirectoryOrdersHostLines : Prop :=
  (∀ (agent : Fin 4) (line : BitVec 46) (s : State),
    let l := s.dirLine line.toNat
    let ready := s.outbound = true ∧ l.waiting = []
    let host := s.hostMem.read (64 * line.toNat) 64
    let room := l.cached ≠ none ∨ s.fabric.lines.length < 524288
    let same := fun t : State => (t.setFabric s.fabric).setOut s.out = s ∧ { t.fabric with lines := s.fabric.lines } = s.fabric
    let only := fun t : State => same t ∧ ∀ n, n ≠ line.toNat → t.dirLine n = s.dirLine n
    let asks := fun (t : State) (r : CxlReq) => t.out = s.out ++ if l.cached = none then [.cxl r line.toNat] else []
    (s.inSubmission line.toNat = false →
      (agent.val < 2 → exec (.readRequest { agent := agent } line) s = .next s) ∧
      (2 ≤ agent.val → ready → room → ∃ t : State, exec (.readRequest { agent := agent } line) s = .next t ∧ only t ∧ asks t .rdCurr ∧
        t.dirLine line.toNat = { l with owner := none, sharers := [agent.val], cached := some (l.buf.getD (l.cached.getD host)), dirty := l.dirty || l.buf.isSome, buf := none }) ∧
      (2 ≤ agent.val → ¬ ready → ∃ t : State, exec (.readRequest { agent := agent } line) s = .next t ∧ only t ∧ t.out = s.out ∧
        t.dirLine line.toNat = { l with waiting := l.waiting ++ [(agent.val, .read)] }) ∧
      (∀ u : Option (Nat × Bytes), (∀ x, u = some x → x.1 + x.2.length ≤ 64) →
        (agent.val = 3 → exec (.ownershipRequest { agent := agent, update := u } line) s = .next s) ∧
        (agent.val < 3 → ready → room → ∃ t : State, exec (.ownershipRequest { agent := agent, update := u } line) s = .next t ∧ only t ∧ asks t .rdOwn ∧
          (l.owner = some agent.val → t.dirLine line.toNat = { l with
            sharers := [], cached := some (l.cached.getD host), buf := match u with | some x => some (patch (l.buf.getD (l.cached.getD host)) x.1 x.2) | none => l.buf }) ∧
          (l.owner ≠ some agent.val → t.dirLine line.toNat = { l with
            owner := some agent.val, sharers := [], cached := some (l.buf.getD (l.cached.getD host)), dirty := l.dirty || l.buf.isSome
            buf := u.map fun x => patch (l.buf.getD (l.cached.getD host)) x.1 x.2 })) ∧
        (agent.val < 3 → ¬ ready → ∃ t : State, exec (.ownershipRequest { agent := agent, update := u } line) s = .next t ∧ only t ∧ t.out = s.out ∧
          t.dirLine line.toNat = { l with waiting := l.waiting ++ [(agent.val, .own u)] })) ∧
      (∀ data : Bytes, data.length = 64 →
        (agent.val < 3 → l.owner = some agent.val → ∃ t : State, exec (.writeback { agent := agent } line data) s = .next t ∧ only t ∧ t.out = s.out ∧
          t.dirLine line.toNat = { l with owner := none, cached := some data, dirty := true, buf := none }) ∧
        ((agent.val = 3 ∨ l.owner ≠ some agent.val) → exec (.writeback { agent := agent } line data) s = .next s))) ∧
    (s.inSubmission line.toNat = true →
      (2 ≤ agent.val → exec (.readRequest { agent := agent } line) s = .next (s.emit (.cxl .rdCurr line.toNat))) ∧
      (∀ u data, exec (.ownershipRequest { agent := agent, update := u } line) s = .next s ∧ exec (.writeback { agent := agent } line data) s = .next s)) ∧
    (∀ (b : Fin 4) (data : Bytes), data.length = 64 → 2 ≤ agent.val → b.val < 3 →
      exec (.readRequest { agent := agent, also := [(b, .own none)] } line) s = exec (.ownershipRequest { agent := b, also := [(agent, .read)] } line) s ∧
      exec (.readRequest { agent := agent, also := [(b, .writeback data)] } line) s = exec (.writeback { agent := b, also := [(agent, .read)] } line data) s)) ∧
  (∀ (line : BitVec 46) (inv : Bool) (s : State), Safety.MemoryCanonical s →
    let l := s.dirLine line.toNat
    let dirty := l.buf.or (if l.dirty = true then l.cached else none)
    (s.link.st ≠ .l0 → exec (.hostSnoop line inv) s = .next s) ∧
    (s.link.st = .l0 → ∃ t : State, exec (.hostSnoop line inv) s = .next t ∧ t.mem.dev = s.mem.dev ∧
      (∃ r, (∀ x ∈ r, ∃ q n, x = .cxl q n) ∧ t.out = s.out ++ (match dirty with | some d => .snoopData line.toNat d | none => .snoopClean line.toNat) :: r) ∧
      (∀ d, dirty = some d → (∀ i, i < d.length → Claims.hostByte t (64 * line.toNat + i) = d.getD i 0) ∧
        ∀ a, (a < 64 * line.toNat ∨ 64 * line.toNat + d.length ≤ a) → Claims.hostByte t a = Claims.hostByte s a) ∧
      (dirty = none → t.mem = s.mem) ∧
      ((l.waiting = [] ∨ s.outbound = false) → t.dirLine line.toNat = { line := line.toNat, waiting := l.waiting }) ∧
      (s.outbound = true → (t.dirLine line.toNat).waiting = [] ∧
        (∀ (w : List (Nat × DirReq)) (g : Nat) u, l.waiting = w ++ [(g, .own u)] → (t.dirLine line.toNat).owner = some g) ∧
        (∀ (w : List (Nat × DirReq)) (g : Nat), l.waiting = w ++ [(g, .read)] → (t.dirLine line.toNat).sharers = [g])) ∧
      (∀ n, n ≠ line.toNat → (s.dirLine n).waiting = [] → t.dirLine n = s.dirLine n)))

namespace Sys2Proof.Claims

/-- A logical core becomes due: it is held, not under test and not due yet (R519). -/
def dueAfter (s : State) (l : Nat) : List Nat :=
  match s.physOf l with
  | some ph => if (s.core ph).testing = true ∨ l ∈ s.err.due then s.err.due else s.err.due ++ [l]
  | none => s.err.due

end Sys2Proof.Claims

/-- For every state s: a fault of a held core fails it, gives its number to the first spare of its B-die that passes its own tests, whose DRIFT rises when only its margin fails, and re-runs the command that held it; NO_PROGRESS_TIMEOUT is one when a command holds the core. Tests become due once, start on a free core, and end in service or in retirement. A twice uncorrectable read makes the slab LOST, ends its user and treats the row or pseudo-channel; one in a slab table resets the partition. Corrected errors are counted and qualify a row, a pseudo-channel or a core; frames are withdrawn and pseudo-channels dropped when free. FIELD_RECORD_WRITE empties what waits, or raises 0x0B0B; a written drift record is followed by event 0x0915 of each rise. Each event takes the next log entry, the oldest giving way when 127 wait, and ERR_LOG_TAIL never passes HEAD. (R29, R424, R477, R505, R506, R510, R512, R513, R514, R515, R516, R518.) -/
def Obligations.FaultsAreTreatedWhereTheyStrike : Prop :=
  (∀ (core : Fin 800) (cause : CoreCause) (bad : SpareTests) (s : State), s.physOf core.val = none → exec (.coreFault core cause bad) s = .next s) ∧
  (∀ (core : Fin 800) (cause : CoreCause) (bad : SpareTests) (s : State) (ph : Nat), s.physOf core.val = some ph → s.cores.length = 864 → (s.core ph).st ≠ .spare →
    ∃ u : State, exec (.coreFault core cause bad) s = .next u.settle ∧ (u.core ph).st = .failed ∧ (u.core ph).logical = none ∧ u.flash.mapDirty = true ∧
      u.mem.dev = s.mem.dev ∧ (∀ n, n / 216 ≠ ph / 216 → { u.core n with idle := (s.core n).idle } = s.core n) ∧
      (∀ n, (s.sparesOf (ph / 216)).find? (fun m => !bad.fail.contains m && !(bad.margin.contains m && decide ((s.core m).fused < 1600 + 25 * ((s.core m).drift + 1)))) = some n →
        (u.core n).st = .enabled ∧ (u.core n).logical = some core.val ∧ (u.core n).drift = (s.core n).drift + (if bad.margin.contains n then 1 else 0) ∧
          ∀ m ∈ s.sparesOf (ph / 216), m < n → (u.core m).st = .failed) ∧
      (∀ q d, q < s.queues.length → s.holder core.val = some q → s.head? q = some d → d.phase = .started → entNoRetry d.entry = false →
        d.reruns < (s.queue q).retryMax → ∃ e, u.head? q = some e ∧ e.phase = .queued ∧ e.reruns = d.reruns + 1 ∧ e.entry = d.entry)) ∧
  (∀ (core : Fin 800) (bad : SpareTests) (s : State),
    (s.holder core.val = none → exec (.noProgressTimeout core bad) s = .next s) ∧
    (s.holder core.val ≠ none → exec (.noProgressTimeout core bad) s = exec (.coreFault core .noProgress bad) s)) ∧
  (∀ (v : Word) (s : State), s.barOpen = true →
    exec (.testStart v) s = .next ((Claims.atBar0 s).setErr { s.err with
      intervalH := v.toNat % 256, par := max 1 (min 8 (v.toNat / 256 % 16)), core := v.toNat / 4096 % 1024
      due := if v.getLsbD 22 = true ∧ v.toNat / 4096 % 1024 < 800 then Claims.dueAfter s (v.toNat / 4096 % 1024) else s.err.due })) ∧
  (∀ (core : Fin 800) (s : State),
    exec (.testIntervalDue core) s = .next (if s.err.intervalH = 0 then s else s.setErr { s.err with due := Claims.dueAfter s core.val })) ∧
  (∀ s : State, s.err.due = [] → exec .inFieldTest s = .next s) ∧
  (∀ (l ph : Nat) (r : List Nat) (s : State), s.err.due = l :: r → s.physOf l = some ph → s.holder l = none → s.cores.length = 864 →
    (s.cores.zipIdx.filter fun x => x.1.testing && x.2 / 216 == ph / 216).length < s.err.par →
    ∃ u : State, exec .inFieldTest s = .next u.settle ∧ u.core ph = { s.core ph with testing := true } ∧ (∀ n, n ≠ ph → u.core n = s.core n) ∧
      u.err.due = r.filter (· ≠ l) ∧ u.mem = s.mem ∧ u.queues = s.queues) ∧
  (∀ (core : Fin 800) (bist margin : Bool) (bad : SpareTests) (s : State),
    (∀ ph, s.physOf core.val = some ph → (s.core ph).testing = false → exec (.inFieldTestDone core bist margin bad) s = .next s) ∧
    (s.physOf core.val = none → exec (.inFieldTestDone core bist margin bad) s = .next s) ∧
    (∀ ph, s.physOf core.val = some ph → (s.core ph).testing = true → s.cores.length = 864 →
      ∃ u : State, exec (.inFieldTestDone core bist margin bad) s = .next u.settle ∧ u.err.lastCore = core.val ∧ u.err.tested = min 65535 (s.err.tested + 1) ∧
        let c := s.core ph
        let room := 1600 + 25 * (c.drift + 1) ≤ c.fused
        (bist = true → margin = true → { u.core ph with idle := c.idle } = { c with testing := false } ∧ u.err.lastFail = false ∧ u.err.lastCode = 0x0D05) ∧
        (bist = true → margin = false → room → { u.core ph with idle := c.idle } = { c with testing := false, drift := c.drift + 1, mhz := PhysCore.clock { c with drift := c.drift + 1 } s.power.mode } ∧
          u.err.lastFail = false ∧ u.power.event.getLsbD 6 = true ∧ u.flash.driftDirty = true ∧ u.flash.driftRises = s.flash.driftRises + 1) ∧
        ((bist = false ∨ (margin = false ∧ ¬ room)) → (u.core ph).st = .failed ∧ (u.core ph).logical = none ∧ u.err.lastFail = true ∧ u.flash.mapDirty = true))) ∧
  (∀ (v : Word) (s : State),
    (s.errOpen = false → exec (.errLogTailWrite v) s = .next s) ∧
    (s.errOpen = true → ∃ t : State, exec (.errLogTailWrite v) s = .next t ∧ t.mem = s.mem ∧ t.queues = s.queues ∧
      t.err = { s.err with tail := if (v.toNat % 128 + 128 - s.err.tail) % 128 ≤ (s.err.head + 128 - s.err.tail) % 128 then v.toNat % 128 else s.err.tail })) ∧
  (∀ (cls code : Nat) (part : Option Nat) (detail : Bytes) (s : State), s.err.head < 128 → s.err.log.length = 128 →
    let t := s.event cls code part detail
    let full := (s.err.head + 128 - s.err.tail) % 128 = 127
    t.err.log.getD s.err.head {} = { cls := cls, part := part, code := code, seq := (s.err.seq + 1) % 2 ^ 32, us := s.nowUs, detail := detail, written := true } ∧
    (∀ k, k ≠ s.err.head → t.err.log.getD k {} = s.err.log.getD k {}) ∧ t.err.head = (s.err.head + 1) % 128 ∧ t.err.lastCode = code ∧
    (full → t.err.tail = (s.err.tail + 1) % 128 ∧ t.err.overflow = true ∧ t.err.dropped = min 4294967295 (s.err.dropped + 1)) ∧
    (¬ full → t.err.tail = s.err.tail ∧ t.err.overflow = s.err.overflow ∧ t.err.dropped = s.err.dropped)) ∧
  (∀ (addr : BitVec 48) (unit : BitVec 16) (k : UncorrKind) (s : State), exec (.uncorrectableRead addr unit k false) s = .next s) ∧
  (∀ (addr : BitVec 48) (unit : BitVec 16) (k : UncorrKind) (s : State) (x : Slab),
    (k = .landing ∨ k = .migration ∨ (∃ q, k = .committed q) ∨
      (k = .stream ∧ s.link.losing = false ∧ ∀ q d, s.head? q = some d → d.phase ≠ .poolWait)) → s.slab? (keyOf addr.toNat) = some x → (x.tier = some .t1 ∨ x.tier = some .t2) →
    ∃ u : State, exec (.uncorrectableRead addr unit k true) s = .next u.settle ∧ u.err.uncorr = min 4294967295 (s.err.uncorr + 1) ∧
      (∃ y, u.slab? (keyOf addr.toNat) = some y ∧ y.st = .lost) ∧
      (x.tier = some .t1 → ∀ b n, x.near = some b → s.freeSpareRow b = some n → (b, unit.toNat, n) ∈ u.mem.vatRows) ∧
      (x.tier = some .t2 → s.mem.pcs.length = 512 → unit.toNat < 512 → (s.pc unit.toNat).retired = false →
        ((∃ t ∈ (s.pc unit.toNat).uncorr, s.nowUs < t + 86400000000) → (u.pc unit.toNat).retiring = true) ∧
        ((∀ t ∈ (s.pc unit.toNat).uncorr, t + 86400000000 ≤ s.nowUs) → (u.pc unit.toNat).retiring = (s.pc unit.toNat).retiring))) ∧
  (∀ (addr : BitVec 48) (unit : BitVec 16) (p : Fin 16) (s : State), (s.part p.val).admitted = true → s.parts.length = 16 →
    ∃ u : State, exec (.uncorrectableRead addr unit (.slabTable p) true) s = .next u.settle ∧ (u.part p.val).admitted = false ∧
      u.err.uncorr = min 4294967295 (s.err.uncorr + 1)) ∧
  (∀ (pl : Place) (slice : Fin 4) (unit : BitVec 16) (s : State), s.err.corr.length = 5 →
    ∃ t : State, exec (.correctedError pl slice unit) s = .next t ∧ t.mem.dev = s.mem.dev ∧ t.mem.slabs = s.mem.slabs ∧
      (∀ i, t.err.corr.getD i 0 = if i = placeIx pl then min 4294967295 (s.err.corr.getD i 0 + 1) else s.err.corr.getD i 0) ∧
      (pl = .vat → ((∃ x ∈ s.mem.vatCorr, x.1 = slice.val ∧ x.2.1 = unit.toNat ∧ s.nowUs < x.2.2 + 86400000000) →
          (∀ n, s.freeSpareRow slice.val = some n → t.mem.vatRows = s.mem.vatRows ++ [(slice.val, unit.toNat, n)] ∧ t.inv.vatSpares = s.inv.vatSpares - 1 ∧
            t.flash.mapDirty = true) ∧
          (s.freeSpareRow slice.val = none → (slice.val, unit.toNat) ∈ t.mem.withdraw)) ∧
        ((∀ x ∈ s.mem.vatCorr, x.1 = slice.val → x.2.1 = unit.toNat → x.2.2 + 86400000000 ≤ s.nowUs) → t.mem.vatRows = s.mem.vatRows)) ∧
      (pl = .hbm → s.mem.pcs.length = 512 → unit.toNat < 512 → (s.pc unit.toNat).retired = false →
        (t.pc unit.toNat).retiring = ((s.pc unit.toNat).retiring ||
          decide (1000 ≤ ((s.pc unit.toNat).corr.filter fun x => decide (s.nowUs < x + 3600000000)).length))) ∧
      (∀ l, pl = .coreStore ∨ pl = .bond → s.cores.length = 864 → unit.toNat < 864 → (s.core unit.toNat).logical = some l → s.physOf l = some unit.toNat →
        t.err.due = if 2 ≤ ((s.core unit.toNat).corr.filter fun x => decide (s.nowUs < x + 86400000000)).length then Claims.dueAfter s l else s.err.due)) ∧
  (∀ (slice : Fin 4) (s : State),
    ((∀ x ∈ s.mem.withdraw, x.1 ≠ slice.val) → exec (.frameWithdraw slice) s = .next s) ∧
    (∀ row, s.mem.withdraw.find? (fun x => x.1 == slice.val) = some (slice.val, row) →
      (s.frameToSpare slice.val = false → exec (.frameWithdraw slice) s = .next s) ∧
      (s.frameToSpare slice.val = true → s.mem.sliceCap.length = 4 →
        ∃ t : State, exec (.frameWithdraw slice) s = .next t ∧ t.mem.capT1 = s.mem.capT1 - 1 ∧ t.mem.withdraw = s.mem.withdraw.erase (slice.val, row) ∧
          (∀ b, t.mem.sliceCap.getD b 0 = if b = slice.val then s.mem.sliceCap.getD b 0 - 1 else s.mem.sliceCap.getD b 0) ∧ t.err.lastCode = 0x0D01 ∧
          t.mem.slabs = s.mem.slabs ∧ t.mem.dev = s.mem.dev))) ∧
  (∀ (pc : Fin 512) (lost : List (BitVec 27)) (s : State), s.mem.pcs.length = 512 →
    ((s.pc pc.val).retiring = false → exec (.pcMoveDone pc lost) s = .next s) ∧
    ((s.pc pc.val).retiring = true → s.reserved .t2 + s.lentSlabs + 288 ≤ s.mem.capT2 →
      ∃ u : State, exec (.pcMoveDone pc lost) s = .next u.settle ∧ (u.pc pc.val).retired = true ∧ (u.pc pc.val).retiring = false ∧
        u.inv.hbmPc = s.inv.hbmPc - 1 ∧ u.mem.capT2 = s.mem.capT2 - 288 ∧ u.flash.mapDirty = true ∧
        (∀ k ∈ lost, ∀ x, s.slab? k.toNat = some x → x.tier = some .t2 → ∃ y, u.slab? k.toNat = some y ∧ y.st = .lost) ∧
        (lost = [] → u.mem.dev = s.mem.dev ∧ u.mem.slabs = s.mem.slabs)) ∧
    ((s.pc pc.val).retiring = true → s.mem.capT2 < s.reserved .t2 + s.lentSlabs + 288 →
      ∃ t : State, exec (.pcMoveDone pc lost) s = .next t ∧ (t.pc pc.val).retired = (s.pc pc.val).retired ∧ t.mem.capT2 = s.mem.capT2)) ∧
  (∀ (record : Fin 3) (ok1 ok2 : Bool) (s : State),
    let dirty := (record = 0 ∧ s.flash.mapDirty = true) ∨ (record = 1 ∧ s.flash.driftDirty = true) ∨ (record = 2 ∧ s.flash.logPend ≠ [])
    (¬ dirty → exec (.fieldRecordWrite record ok1 ok2) s = .next s) ∧
    (dirty → ∃ t : State, exec (.fieldRecordWrite record ok1 ok2) s = .next t ∧ t.mem = s.mem ∧ t.queues = s.queues ∧
      (record = 0 → t.flash.mapDirty = false) ∧ (record = 1 → t.flash.driftDirty = false) ∧
      ((ok1 = true ∨ ok2 = true) → record = 2 → t.flash.logPend = s.flash.logPend.tail ∧
        ∀ us code b r, s.flash.logPend = (us, code, b) :: r →
          ∃ x, t.flash.logged.head? = some x ∧ x.us = us ∧ x.code = code ∧ x.rest = b ∧ x.ups = s.flash.powerUps ∧ x.hdr.type_ = 0x83) ∧
      (record = 1 → 0 < s.flash.driftRises → t.err.lastCode = 0x0915 ∧ t.flash.driftRises = 0) ∧
      (ok1 = false → ok2 = false → t.flash.logged = s.flash.logged ∧ ((record ≠ 1 ∨ s.flash.driftRises = 0) → t.err.lastCode = 0x0B0B))))

/-- For every state s: LOAD_WINDOW follows the table of R492, and a rise sets OVERLOAD. SENSOR_POLL counts missed acknowledgements, the third making a device absent until it answers; a stuck line tests the trunk and the segments in reach. RETEST stores MARGIN, and clears isolation when the trunk and every segment pass. ALERT_RESPONSE answers 0x5C and releases the alert, SMBUS_TIMEOUT releases the bus. The identity record begins with VERSION 1 and TYPE 0x86, and its slot ends with the commit flag. In a field the tag answers reads of its 2,048 blocks, takes writes from block 0x240 on and refuses others, and a quiet tag does not answer INVENTORY; without a field it does nothing. A refused status record is written when the tag accepts, with event 0x0B06 after 60 s. Answers follow ISO 15693 (the model's choice, log entry 38). (R483, R484, R485, R492, R493, R494, R496, R497, R498, R499, R500, R501.) -/
def Obligations.SidebandAndTagAnswerTheirReaders : Prop :=
  (∀ (load : Fin 101) (wait : Nat) (s : State),
    (s.smbOpen = false → exec (.loadWindow load wait) s = .next s) ∧
    (s.smbOpen = true → ∃ t : State, exec (.loadWindow load wait) s = .next t ∧ t.mem = s.mem ∧ t.queues = s.queues ∧ t.parts = s.parts ∧
      let w := s.steward
      let hot := 90 ≤ load.val ∨ 1000 < wait
      let cool := load.val < 70 ∧ ¬ 1000 < wait
      let base := min 160 s.power.learnMs
      t.steward.load = load.val ∧ t.steward.slowWait = min 65535 wait ∧
      t.steward.shedMs = (if w.shed = 0 then w.shedMs else min 4294967295 (w.shedMs + 10)) ∧
      (w.shed = 0 → hot → t.steward.shed = 1 ∧ t.steward.sbEvent.getLsbD 0 = true) ∧ (w.shed = 0 → ¬ hot → t.steward.shed = 0) ∧
      (w.shed ≠ 0 → hot → w.hot + 1 ≠ 3 → t.steward.shed = w.shed ∧ t.steward.hot = w.hot + 1 ∧ t.steward.cool = 0) ∧
      (w.shed ≠ 0 → hot → w.hot + 1 = 3 → t.steward.shed = 2 ∧ t.power.learnEff = min 160 (2 * s.power.learnEff)) ∧
      (w.shed = 1 → cool → w.cool + 1 = 10 → t.steward.shed = 0 ∧ t.power.learnEff = s.power.learnEff) ∧
      (w.shed = 2 → cool → w.cool + 1 = 10 → t.power.learnEff = max base (s.power.learnEff / 2) ∧
        t.steward.shed = if max base (s.power.learnEff / 2) = base then 1 else 2) ∧
      (w.shed ≠ 0 → cool → w.cool + 1 ≠ 10 → t.steward.shed = w.shed ∧ t.steward.cool = w.cool + 1 ∧ t.steward.hot = 0) ∧
      (w.shed ≠ 0 → ¬ hot → ¬ cool → t.steward.shed = w.shed ∧ t.steward.hot = 0 ∧ t.steward.cool = 0))) ∧
  (∀ (slow : Bool) (f : PollFacts) (s : State),
    (s.smbOpen = false → exec (.sensorPoll slow f) s = .next s) ∧
    (s.smbOpen = true → ∃ t : State, exec (.sensorPoll slow f) s = .next t ∧ t.mem = s.mem ∧ t.queues = s.queues ∧ t.parts = s.parts ∧
      t.steward.arbLost = min 255 (s.steward.arbLost + f.arbLost) ∧ t.steward.clears = min 255 (s.steward.clears + f.clears.val) ∧
      (f.stuck = false → f.arbLost < 8 → s.steward.naks.length = 11 → t.steward.isolated = s.steward.isolated ∧ t.steward.trunk = s.steward.trunk ∧
        t.power.effCap = Claims.capRule t ∧
        ∀ d, d < 11 →
          let polled := (d < 6 ∨ (slow = true ∧ d < 10)) ∧ s.steward.trunk = false ∧ s.steward.isolated.getLsbD (if d < 6 then 0 else if d < 10 then 1 else 2) = false
          (polled → d ∈ f.nak → t.steward.naks.getD d 0 = s.steward.naks.getD d 0 + 1 ∧
            t.steward.absent.getLsbD d = (s.steward.absent.getLsbD d || decide (s.steward.naks.getD d 0 = 2))) ∧
          (polled → d ∉ f.nak → t.steward.naks.getD d 0 = 0 ∧ t.steward.absent.getLsbD d = false) ∧
          (¬ polled → t.steward.naks.getD d 0 = s.steward.naks.getD d 0 ∧ t.steward.absent.getLsbD d = s.steward.absent.getLsbD d)) ∧
      (f.stuck = false → 8 ≤ f.arbLost → t.steward.naks = s.steward.naks ∧ t.steward.absent = s.steward.absent ∧ t.steward.isolated = s.steward.isolated) ∧
      (f.stuck = true → s.steward.trunk = false → f.trunkOk = false → t.steward.trunk = true ∧ t.steward.isolated = s.steward.isolated ∧
        t.err.lastCode = 0x0C23 ∧ t.power.effCap = Claims.capRule t) ∧
      (f.stuck = true → s.steward.trunk = false → f.trunkOk = true → t.steward.trunk = false ∧ t.power.effCap = Claims.capRule t ∧
        ∀ k, k < 3 → t.steward.isolated.getLsbD k = (s.steward.isolated.getLsbD k || !f.segOk.contains k)))) ∧
  (∀ (v : Word) (f : PollFacts) (s : State),
    (s.smbFull = false → exec (.retest v f) s = .next s) ∧
    (s.smbFull = true → ∃ t : State, exec (.retest v f) s = .next t ∧ t.steward.margin = min 50 (v.toNat % 64) ∧ t.power.effCap = Claims.capRule t ∧
      t.mem = s.mem ∧ t.queues = s.queues ∧ t.steward.absent = s.steward.absent ∧
      (v.getLsbD 6 = false → t.steward.isolated = s.steward.isolated ∧ t.steward.trunk = s.steward.trunk) ∧
      (v.getLsbD 6 = true → f.trunkOk = true → (∀ k, k < 3 → k ∈ f.segOk) → t.steward.isolated = 0 ∧ t.steward.trunk = false) ∧
      (v.getLsbD 6 = true → f.trunkOk = false → t.steward.trunk = true ∧ t.steward.isolated = s.steward.isolated) ∧
      (v.getLsbD 6 = true → f.trunkOk = true → (∃ k, k < 3 ∧ k ∉ f.segOk) →
        ∀ k, k < 3 → t.steward.isolated.getLsbD k = (s.steward.isolated.getLsbD k || !f.segOk.contains k)))) ∧
  (∀ s : State,
    (s.smbOpen = true → s.steward.alert = true → exec .alertResponse s = .next ((s.setSteward { s.steward with alert := false }).emit (.smbAddress 0x5C))) ∧
    ((s.smbOpen = false ∨ s.steward.alert = false) → exec .alertResponse s = .next s) ∧
    (s.smbOpen = true → exec .smbusTimeout s = .next (s.emit .smbReleased)) ∧ (s.smbOpen = false → exec .smbusTimeout s = .next s)) ∧
  (∀ s : State,
    let block := fun n => if n < 0x40 then s.tagBlock n else s.tag.mem.getD n 0
    let ok := fun b : Bytes => s.emit (.tag (0x00#8 :: b))
    let err := fun code : Byte => s.emit (.tag [0x01#8, code])
    let mode := fun m : TagMode => s.setTag { s.tag with mode := m }
    (s.tagBlock 0).toNat % 65536 = 0x8601 ∧ s.tagBlock 63 = 0x5A5AA5A5 ∧
    (s.tag.rf = true →
      (s.tag.mode ≠ .quiet → exec .inventory s = .next (ok (0x00#8 :: Config.tagUid))) ∧ (s.tag.mode = .quiet → exec .inventory s = .next s) ∧
      exec .stayQuiet s = .next (mode .quiet) ∧ exec .select s = .next ((mode .selected).emit (.tag [0x00#8])) ∧
      exec .resetToReady s = .next ((mode .ready).emit (.tag [0x00#8])) ∧
      exec .getSystemInformation s = .next (ok (0x04#8 :: Config.tagUid ++ [0xFF#8, 0x07#8, 0x03#8])) ∧
      (∀ b : BitVec 11, exec (.readSingleBlock b) s = .next (ok (leBytes 4 (block b.toNat).toNat))) ∧
      (∀ (b : BitVec 11) (n : Nat),
        (0 < n → n ≤ 32 → b.toNat + n ≤ 2048 →
          exec (.readMultipleBlocks b n) s = .next (ok ((List.range n).flatMap fun i => leBytes 4 (block (b.toNat + i)).toNat))) ∧
        ((n = 0 ∨ 32 < n) → exec (.readMultipleBlocks b n) s = .next (err 0x03)) ∧
        (0 < n → n ≤ 32 → 2048 < b.toNat + n → exec (.readMultipleBlocks b n) s = .next (err 0x10))) ∧
      (∀ (b : BitVec 11) (d : Word),
        (b.toNat < 0x240 → exec (.writeSingleBlock b d) s = .next (err 0x12)) ∧
        (0x240 ≤ b.toNat → s.tag.mem.length = 2048 → ∃ t : State, exec (.writeSingleBlock b d) s = .next t ∧ t.setTag s.tag = ok [] ∧
          { t.tag with mem := s.tag.mem } = s.tag ∧ ∀ n, t.tag.mem.getD n 0 = if n = b.toNat then d else s.tag.mem.getD n 0)) ∧
      exec .rfFieldPresent s = .next s ∧ exec .fieldCollapse s = .next (s.setTag { s.tag with rf := false, mode := .ready })) ∧
    (s.tag.rf = false → exec .rfFieldPresent s = .next (s.setTag { s.tag with rf := true, mode := .ready }) ∧
      ∀ i : Instr, (i = .inventory ∨ i = .stayQuiet ∨ i = .select ∨ i = .resetToReady ∨ i = .getSystemInformation ∨ (∃ b, i = .readSingleBlock b) ∨
        (∃ b n, i = .readMultipleBlocks b n) ∨ ∃ b d, i = .writeSingleBlock b d) → exec i s = .next s)) ∧
  (∀ s : State,
    (s.tag.statusPend = none → exec .statusRecordRetry s = .next s) ∧
    (∀ r since, s.tag.statusPend = some (r, since) →
      ((s.phase = .off ∨ s.phase = .shutdown) → exec .statusRecordRetry s = .next s) ∧
      (s.phase ≠ .off → s.phase ≠ .shutdown →
        (s.tagRefuses = false → ∃ t : State, exec .statusRecordRetry s = .next t ∧ t.setTag s.tag = s ∧ t.tag.statusPend = none ∧ t.tag.statusLate = false) ∧
        (s.tagRefuses = true → since + 60000000 ≤ s.nowUs → s.tag.statusLate = false →
          ∃ t : State, exec .statusRecordRetry s = .next t ∧ t.err.lastCode = 0x0B06 ∧ t.tag = { s.tag with statusLate := true } ∧ t.mem = s.mem) ∧
        (s.tagRefuses = true → (s.nowUs < since + 60000000 ∨ s.tag.statusLate = true) → exec .statusRecordRetry s = .next s))))
end

