-- ==== Sys2Proof/Laws/Memory.lean ====
section
/-! SUPPORT. Laws of the memories: reads after writes, and the canonical form kept by every memory operation (R204, R224). -/

namespace Sys2Proof.Machine

/-- Reading one byte after writing one: the byte written there, the old one elsewhere. -/
theorem Memory.get_put (m : Memory) (a b : Nat) (v : Byte) (h : Memory.wf m = true) :
    Memory.get (Memory.put m a v) b = if b = a then v else Memory.get m b := by
  suffices H : ∀ (m : Memory) (lo : Option Nat), Memory.wfFrom lo m = true →
      Memory.get (Memory.put m a v) b = if b = a then v else Memory.get m b from H m none h
  intro m
  induction m with
  | nil => intro lo _; simp only [Memory.put]; split <;> rename_i hv <;> simp only [Memory.get] <;> grind [Memory.blank]
  | cons c r ih =>
    obtain ⟨k, w⟩ := c
    intro lo hw
    simp only [Memory.wfFrom, Bool.and_eq_true, decide_eq_true_eq] at hw
    have hr := ih (some k) hw.2
    have fresh : ∀ (r : Memory) (x y : Nat), Memory.wfFrom (some x) r = true → y ≤ x → Memory.get r y = Memory.blank := by
      intro r
      induction r with
      | nil => intros; rfl
      | cons c r ih =>
        obtain ⟨k, w⟩ := c
        intro x y hx hy
        simp only [Memory.wfFrom, Bool.and_eq_true, decide_eq_true_eq] at hx
        simp only [Memory.get]
        rw [if_neg (by omega)]
        exact ih k y hx.2 (by omega)
    simp only [Memory.put]
    split
    · split
      · rename_i hak hv
        simp only [Memory.get]
        by_cases hb : b = a
        · subst hb; rw [if_neg (by omega), if_pos rfl, hv]; exact fresh r k b hw.2 (by omega)
        · rw [if_neg hb]
      · simp only [Memory.get]; grind
    · split
      · rename_i hak he
        subst he
        split
        · rename_i hv
          simp only [Memory.get]
          by_cases hb : b = a
          · subst hb; rw [if_pos rfl, hv]; exact fresh r b b hw.2 (Nat.le_refl _)
          · rw [if_neg hb, if_neg (fun x => hb x.symm)]
        · simp only [Memory.get]; grind
      · simp only [Memory.get]; grind

/-- Writing one byte keeps a bound below the addresses. -/
theorem Memory.wfFrom_put (m : Memory) (lo : Option Nat) (a : Nat) (v : Byte) (h : Memory.wfFrom lo m = true) (ha : ∀ x, lo = some x → x < a) :
    Memory.wfFrom lo (Memory.put m a v) = true := by
  induction m generalizing lo with
  | nil =>
    simp only [Memory.put]
    split
    · rfl
    · rename_i hv
      cases lo with
      | none => simp [Memory.wfFrom, hv]
      | some x => simp [Memory.wfFrom, hv, ha x rfl]
  | cons c r ih =>
    obtain ⟨k, w⟩ := c
    simp only [Memory.wfFrom, Bool.and_eq_true, decide_eq_true_eq] at h
    simp only [Memory.put]
    split
    · rename_i hk
      split
      · simp only [Memory.wfFrom, Bool.and_eq_true, decide_eq_true_eq]; exact h
      · rename_i hv
        simp only [Memory.wfFrom, Bool.and_eq_true, decide_eq_true_eq]
        refine ⟨⟨?_, hv⟩, ⟨hk, h.1.2⟩, h.2⟩
        cases lo with
        | none => rfl
        | some x => exact decide_eq_true (ha x rfl)
    · split
      · rename_i hk he
        subst he
        split
        · have up : ∀ (r : Memory) (lo lo' : Option Nat), Memory.wfFrom lo r = true → (∀ x, lo' = some x → ∃ y, lo = some y ∧ x ≤ y) → Memory.wfFrom lo' r = true := by
            intro r lo lo' hr hl
            cases r with
            | nil => rfl
            | cons c r =>
              obtain ⟨k, w⟩ := c
              simp only [Memory.wfFrom, Bool.and_eq_true, decide_eq_true_eq] at hr ⊢
              refine ⟨⟨?_, hr.1.2⟩, hr.2⟩
              cases lo' with
              | none => rfl
              | some x =>
                obtain ⟨y, hy, hxy⟩ := hl x rfl
                subst hy
                have := hr.1.1
                simp only [decide_eq_true_eq] at this ⊢
                omega
          apply up r (some a) lo h.2
          intro x hx
          refine ⟨a, rfl, Nat.le_of_lt (ha x hx)⟩
        · rename_i hv
          simp only [Memory.wfFrom, Bool.and_eq_true, decide_eq_true_eq]
          exact ⟨⟨h.1.1, hv⟩, h.2⟩
      · rename_i hk he
        simp only [Memory.wfFrom, Bool.and_eq_true, decide_eq_true_eq]
        refine ⟨h.1, ih (some k) h.2 ?_⟩
        intro x hx
        cases hx
        omega

/-- Writing one byte keeps the canonical form. -/
theorem Memory.wf_put (m : Memory) (a : Nat) (v : Byte) (h : Memory.wf m = true) : Memory.wf (Memory.put m a v) = true :=
  Memory.wfFrom_put m none a v h (by simp)

/-- Writing a byte string keeps the canonical form. -/
theorem Memory.wf_write (m : Memory) (a : Nat) (bs : Bytes) (h : Memory.wf m = true) : Memory.wf (Memory.write m a bs) = true := by
  induction bs generalizing m a with
  | nil => exact h
  | cons b bs ih => exact ih _ _ (Memory.wf_put m a b h)

/-- Writing a list of cells keeps the canonical form. -/
theorem Memory.wf_puts (m : Memory) (l : List Host.Cell) (h : Memory.wf m = true) : Memory.wf (Memory.puts m l) = true := by
  induction l generalizing m with
  | nil => exact h
  | cons c r ih => exact ih _ (Memory.wf_put m c.1 c.2 h)

/-- Dropping cells keeps a bound and the canonical form. -/
theorem Memory.wfFrom_filter (m : Memory) (p : Host.Cell → Bool) (lo lo' : Option Nat) (h : Memory.wfFrom lo m = true)
    (hl : ∀ x, lo' = some x → ∃ y, lo = some y ∧ x ≤ y) : Memory.wfFrom lo' (m.filter p) = true := by
  induction m generalizing lo lo' with
  | nil => rfl
  | cons c r ih =>
    obtain ⟨k, w⟩ := c
    simp only [Memory.wfFrom, Bool.and_eq_true, decide_eq_true_eq] at h
    rw [List.filter_cons]
    split
    · simp only [Memory.wfFrom, Bool.and_eq_true, decide_eq_true_eq]
      refine ⟨⟨?_, h.1.2⟩, ih (some k) (some k) h.2 (fun x hx => ⟨k, rfl, by cases hx; exact Nat.le_refl _⟩)⟩
      cases lo' with
      | none => rfl
      | some x =>
        obtain ⟨y, hy, hxy⟩ := hl x rfl
        subst hy
        have := h.1.1
        simp only [decide_eq_true_eq] at this ⊢
        omega
    · refine ih (some k) lo' h.2 ?_
      intro x hx
      obtain ⟨y, hy, hxy⟩ := hl x hx
      subst hy
      have := h.1.1
      simp only [decide_eq_true_eq] at this
      exact ⟨k, rfl, by omega⟩

/-- Forgetting a range keeps the canonical form. -/
theorem Memory.wf_clear (m : Memory) (lo hi : Nat) (h : Memory.wf m = true) : Memory.wf (Memory.clear m lo hi) = true :=
  Memory.wfFrom_filter m _ none none h (by simp)

/-- A byte string that is written reads back; every other byte reads as before. -/
theorem Memory.get_write (m : Memory) (a b : Nat) (bs : Bytes) (h : Memory.wf m = true) :
    Memory.get (Memory.write m a bs) b = if a ≤ b ∧ b < a + bs.length then bs.getD (b - a) 0 else Memory.get m b := by
  induction bs generalizing m a with
  | nil => simp only [Memory.write, List.length_nil]; rw [if_neg (by omega)]
  | cons c bs ih =>
    simp only [Memory.write]
    rw [ih _ _ (Memory.wf_put m a c h), Memory.get_put m a b c h]
    by_cases h1 : a + 1 ≤ b ∧ b < a + 1 + bs.length
    · rw [if_pos h1, if_pos (by simp only [List.length_cons]; omega)]
      obtain ⟨n, hn⟩ : ∃ n, b - a = n + 1 := ⟨b - a - 1, by omega⟩
      rw [hn, List.getD_cons_succ, show b - (a + 1) = n by omega]
    · rw [if_neg h1]
      by_cases h2 : b = a
      · subst h2; rw [if_pos rfl, if_pos (by simp), Nat.sub_self, List.getD_cons_zero]
      · rw [if_neg h2, if_neg (by simp only [List.length_cons]; omega)]

/-- Reading gives the length asked for. -/
@[simp] theorem Memory.read_length (m : Memory) (a n : Nat) : (Memory.read m a n).length = n := by
  induction n generalizing a with
  | zero => rfl
  | succ n ih => simp [Memory.read, ih]

end Sys2Proof.Machine
end

