-- ==== Sys2Proof/Laws/State.lean ====
section
/-! SUPPORT. One lemma per field per update of the state, each true by rfl. -/

namespace Sys2Proof.Machine

variable (s : State)

@[simp] theorem State.setPending_pending (v : List Instr) : (s.setPending v).pending = v := rfl
@[simp] theorem State.setPending_nowUs (v : List Instr) : (s.setPending v).nowUs = s.nowUs := rfl
@[simp] theorem State.setPending_fresh (v : List Instr) : (s.setPending v).fresh = s.fresh := rfl
@[simp] theorem State.setPending_phase (v : List Instr) : (s.setPending v).phase = s.phase := rfl
@[simp] theorem State.setPending_pins (v : List Instr) : (s.setPending v).pins = s.pins := rfl
@[simp] theorem State.setPending_link (v : List Instr) : (s.setPending v).link = s.link := rfl
@[simp] theorem State.setPending_inv (v : List Instr) : (s.setPending v).inv = s.inv := rfl
@[simp] theorem State.setPending_adm (v : List Instr) : (s.setPending v).adm = s.adm := rfl
@[simp] theorem State.setPending_parts (v : List Instr) : (s.setPending v).parts = s.parts := rfl
@[simp] theorem State.setPending_queues (v : List Instr) : (s.setPending v).queues = s.queues := rfl
@[simp] theorem State.setPending_mem (v : List Instr) : (s.setPending v).mem = s.mem := rfl
@[simp] theorem State.setPending_cores (v : List Instr) : (s.setPending v).cores = s.cores := rfl
@[simp] theorem State.setPending_engines (v : List Instr) : (s.setPending v).engines = s.engines := rfl
@[simp] theorem State.setPending_coreMems (v : List Instr) : (s.setPending v).coreMems = s.coreMems := rfl
@[simp] theorem State.setPending_fab (v : List Instr) : (s.setPending v).fab = s.fab := rfl
@[simp] theorem State.setPending_optics (v : List Instr) : (s.setPending v).optics = s.optics := rfl
@[simp] theorem State.setPending_fabric (v : List Instr) : (s.setPending v).fabric = s.fabric := rfl
@[simp] theorem State.setPending_power (v : List Instr) : (s.setPending v).power = s.power := rfl
@[simp] theorem State.setPending_sec (v : List Instr) : (s.setPending v).sec = s.sec := rfl
@[simp] theorem State.setPending_meter (v : List Instr) : (s.setPending v).meter = s.meter := rfl
@[simp] theorem State.setPending_flash (v : List Instr) : (s.setPending v).flash = s.flash := rfl
@[simp] theorem State.setPending_tag (v : List Instr) : (s.setPending v).tag = s.tag := rfl
@[simp] theorem State.setPending_boot (v : List Instr) : (s.setPending v).boot = s.boot := rfl
@[simp] theorem State.setPending_steward (v : List Instr) : (s.setPending v).steward = s.steward := rfl
@[simp] theorem State.setPending_err (v : List Instr) : (s.setPending v).err = s.err := rfl
@[simp] theorem State.setPending_hle (v : List Instr) : (s.setPending v).hle = s.hle := rfl
@[simp] theorem State.setPending_out (v : List Instr) : (s.setPending v).out = s.out := rfl

@[simp] theorem State.setNowUs_pending (v : Nat) : (s.setNowUs v).pending = s.pending := rfl
@[simp] theorem State.setNowUs_nowUs (v : Nat) : (s.setNowUs v).nowUs = v := rfl
@[simp] theorem State.setNowUs_fresh (v : Nat) : (s.setNowUs v).fresh = s.fresh := rfl
@[simp] theorem State.setNowUs_phase (v : Nat) : (s.setNowUs v).phase = s.phase := rfl
@[simp] theorem State.setNowUs_pins (v : Nat) : (s.setNowUs v).pins = s.pins := rfl
@[simp] theorem State.setNowUs_link (v : Nat) : (s.setNowUs v).link = s.link := rfl
@[simp] theorem State.setNowUs_inv (v : Nat) : (s.setNowUs v).inv = s.inv := rfl
@[simp] theorem State.setNowUs_adm (v : Nat) : (s.setNowUs v).adm = s.adm := rfl
@[simp] theorem State.setNowUs_parts (v : Nat) : (s.setNowUs v).parts = s.parts := rfl
@[simp] theorem State.setNowUs_queues (v : Nat) : (s.setNowUs v).queues = s.queues := rfl
@[simp] theorem State.setNowUs_mem (v : Nat) : (s.setNowUs v).mem = s.mem := rfl
@[simp] theorem State.setNowUs_cores (v : Nat) : (s.setNowUs v).cores = s.cores := rfl
@[simp] theorem State.setNowUs_engines (v : Nat) : (s.setNowUs v).engines = s.engines := rfl
@[simp] theorem State.setNowUs_coreMems (v : Nat) : (s.setNowUs v).coreMems = s.coreMems := rfl
@[simp] theorem State.setNowUs_fab (v : Nat) : (s.setNowUs v).fab = s.fab := rfl
@[simp] theorem State.setNowUs_optics (v : Nat) : (s.setNowUs v).optics = s.optics := rfl
@[simp] theorem State.setNowUs_fabric (v : Nat) : (s.setNowUs v).fabric = s.fabric := rfl
@[simp] theorem State.setNowUs_power (v : Nat) : (s.setNowUs v).power = s.power := rfl
@[simp] theorem State.setNowUs_sec (v : Nat) : (s.setNowUs v).sec = s.sec := rfl
@[simp] theorem State.setNowUs_meter (v : Nat) : (s.setNowUs v).meter = s.meter := rfl
@[simp] theorem State.setNowUs_flash (v : Nat) : (s.setNowUs v).flash = s.flash := rfl
@[simp] theorem State.setNowUs_tag (v : Nat) : (s.setNowUs v).tag = s.tag := rfl
@[simp] theorem State.setNowUs_boot (v : Nat) : (s.setNowUs v).boot = s.boot := rfl
@[simp] theorem State.setNowUs_steward (v : Nat) : (s.setNowUs v).steward = s.steward := rfl
@[simp] theorem State.setNowUs_err (v : Nat) : (s.setNowUs v).err = s.err := rfl
@[simp] theorem State.setNowUs_hle (v : Nat) : (s.setNowUs v).hle = s.hle := rfl
@[simp] theorem State.setNowUs_out (v : Nat) : (s.setNowUs v).out = s.out := rfl

@[simp] theorem State.setFresh_pending (v : Nat) : (s.setFresh v).pending = s.pending := rfl
@[simp] theorem State.setFresh_nowUs (v : Nat) : (s.setFresh v).nowUs = s.nowUs := rfl
@[simp] theorem State.setFresh_fresh (v : Nat) : (s.setFresh v).fresh = v := rfl
@[simp] theorem State.setFresh_phase (v : Nat) : (s.setFresh v).phase = s.phase := rfl
@[simp] theorem State.setFresh_pins (v : Nat) : (s.setFresh v).pins = s.pins := rfl
@[simp] theorem State.setFresh_link (v : Nat) : (s.setFresh v).link = s.link := rfl
@[simp] theorem State.setFresh_inv (v : Nat) : (s.setFresh v).inv = s.inv := rfl
@[simp] theorem State.setFresh_adm (v : Nat) : (s.setFresh v).adm = s.adm := rfl
@[simp] theorem State.setFresh_parts (v : Nat) : (s.setFresh v).parts = s.parts := rfl
@[simp] theorem State.setFresh_queues (v : Nat) : (s.setFresh v).queues = s.queues := rfl
@[simp] theorem State.setFresh_mem (v : Nat) : (s.setFresh v).mem = s.mem := rfl
@[simp] theorem State.setFresh_cores (v : Nat) : (s.setFresh v).cores = s.cores := rfl
@[simp] theorem State.setFresh_engines (v : Nat) : (s.setFresh v).engines = s.engines := rfl
@[simp] theorem State.setFresh_coreMems (v : Nat) : (s.setFresh v).coreMems = s.coreMems := rfl
@[simp] theorem State.setFresh_fab (v : Nat) : (s.setFresh v).fab = s.fab := rfl
@[simp] theorem State.setFresh_optics (v : Nat) : (s.setFresh v).optics = s.optics := rfl
@[simp] theorem State.setFresh_fabric (v : Nat) : (s.setFresh v).fabric = s.fabric := rfl
@[simp] theorem State.setFresh_power (v : Nat) : (s.setFresh v).power = s.power := rfl
@[simp] theorem State.setFresh_sec (v : Nat) : (s.setFresh v).sec = s.sec := rfl
@[simp] theorem State.setFresh_meter (v : Nat) : (s.setFresh v).meter = s.meter := rfl
@[simp] theorem State.setFresh_flash (v : Nat) : (s.setFresh v).flash = s.flash := rfl
@[simp] theorem State.setFresh_tag (v : Nat) : (s.setFresh v).tag = s.tag := rfl
@[simp] theorem State.setFresh_boot (v : Nat) : (s.setFresh v).boot = s.boot := rfl
@[simp] theorem State.setFresh_steward (v : Nat) : (s.setFresh v).steward = s.steward := rfl
@[simp] theorem State.setFresh_err (v : Nat) : (s.setFresh v).err = s.err := rfl
@[simp] theorem State.setFresh_hle (v : Nat) : (s.setFresh v).hle = s.hle := rfl
@[simp] theorem State.setFresh_out (v : Nat) : (s.setFresh v).out = s.out := rfl

@[simp] theorem State.setPhase_pending (v : RunPhase) : (s.setPhase v).pending = s.pending := rfl
@[simp] theorem State.setPhase_nowUs (v : RunPhase) : (s.setPhase v).nowUs = s.nowUs := rfl
@[simp] theorem State.setPhase_fresh (v : RunPhase) : (s.setPhase v).fresh = s.fresh := rfl
@[simp] theorem State.setPhase_phase (v : RunPhase) : (s.setPhase v).phase = v := rfl
@[simp] theorem State.setPhase_pins (v : RunPhase) : (s.setPhase v).pins = s.pins := rfl
@[simp] theorem State.setPhase_link (v : RunPhase) : (s.setPhase v).link = s.link := rfl
@[simp] theorem State.setPhase_inv (v : RunPhase) : (s.setPhase v).inv = s.inv := rfl
@[simp] theorem State.setPhase_adm (v : RunPhase) : (s.setPhase v).adm = s.adm := rfl
@[simp] theorem State.setPhase_parts (v : RunPhase) : (s.setPhase v).parts = s.parts := rfl
@[simp] theorem State.setPhase_queues (v : RunPhase) : (s.setPhase v).queues = s.queues := rfl
@[simp] theorem State.setPhase_mem (v : RunPhase) : (s.setPhase v).mem = s.mem := rfl
@[simp] theorem State.setPhase_cores (v : RunPhase) : (s.setPhase v).cores = s.cores := rfl
@[simp] theorem State.setPhase_engines (v : RunPhase) : (s.setPhase v).engines = s.engines := rfl
@[simp] theorem State.setPhase_coreMems (v : RunPhase) : (s.setPhase v).coreMems = s.coreMems := rfl
@[simp] theorem State.setPhase_fab (v : RunPhase) : (s.setPhase v).fab = s.fab := rfl
@[simp] theorem State.setPhase_optics (v : RunPhase) : (s.setPhase v).optics = s.optics := rfl
@[simp] theorem State.setPhase_fabric (v : RunPhase) : (s.setPhase v).fabric = s.fabric := rfl
@[simp] theorem State.setPhase_power (v : RunPhase) : (s.setPhase v).power = s.power := rfl
@[simp] theorem State.setPhase_sec (v : RunPhase) : (s.setPhase v).sec = s.sec := rfl
@[simp] theorem State.setPhase_meter (v : RunPhase) : (s.setPhase v).meter = s.meter := rfl
@[simp] theorem State.setPhase_flash (v : RunPhase) : (s.setPhase v).flash = s.flash := rfl
@[simp] theorem State.setPhase_tag (v : RunPhase) : (s.setPhase v).tag = s.tag := rfl
@[simp] theorem State.setPhase_boot (v : RunPhase) : (s.setPhase v).boot = s.boot := rfl
@[simp] theorem State.setPhase_steward (v : RunPhase) : (s.setPhase v).steward = s.steward := rfl
@[simp] theorem State.setPhase_err (v : RunPhase) : (s.setPhase v).err = s.err := rfl
@[simp] theorem State.setPhase_hle (v : RunPhase) : (s.setPhase v).hle = s.hle := rfl
@[simp] theorem State.setPhase_out (v : RunPhase) : (s.setPhase v).out = s.out := rfl

@[simp] theorem State.setPins_pending (v : Pins) : (s.setPins v).pending = s.pending := rfl
@[simp] theorem State.setPins_nowUs (v : Pins) : (s.setPins v).nowUs = s.nowUs := rfl
@[simp] theorem State.setPins_fresh (v : Pins) : (s.setPins v).fresh = s.fresh := rfl
@[simp] theorem State.setPins_phase (v : Pins) : (s.setPins v).phase = s.phase := rfl
@[simp] theorem State.setPins_pins (v : Pins) : (s.setPins v).pins = v := rfl
@[simp] theorem State.setPins_link (v : Pins) : (s.setPins v).link = s.link := rfl
@[simp] theorem State.setPins_inv (v : Pins) : (s.setPins v).inv = s.inv := rfl
@[simp] theorem State.setPins_adm (v : Pins) : (s.setPins v).adm = s.adm := rfl
@[simp] theorem State.setPins_parts (v : Pins) : (s.setPins v).parts = s.parts := rfl
@[simp] theorem State.setPins_queues (v : Pins) : (s.setPins v).queues = s.queues := rfl
@[simp] theorem State.setPins_mem (v : Pins) : (s.setPins v).mem = s.mem := rfl
@[simp] theorem State.setPins_cores (v : Pins) : (s.setPins v).cores = s.cores := rfl
@[simp] theorem State.setPins_engines (v : Pins) : (s.setPins v).engines = s.engines := rfl
@[simp] theorem State.setPins_coreMems (v : Pins) : (s.setPins v).coreMems = s.coreMems := rfl
@[simp] theorem State.setPins_fab (v : Pins) : (s.setPins v).fab = s.fab := rfl
@[simp] theorem State.setPins_optics (v : Pins) : (s.setPins v).optics = s.optics := rfl
@[simp] theorem State.setPins_fabric (v : Pins) : (s.setPins v).fabric = s.fabric := rfl
@[simp] theorem State.setPins_power (v : Pins) : (s.setPins v).power = s.power := rfl
@[simp] theorem State.setPins_sec (v : Pins) : (s.setPins v).sec = s.sec := rfl
@[simp] theorem State.setPins_meter (v : Pins) : (s.setPins v).meter = s.meter := rfl
@[simp] theorem State.setPins_flash (v : Pins) : (s.setPins v).flash = s.flash := rfl
@[simp] theorem State.setPins_tag (v : Pins) : (s.setPins v).tag = s.tag := rfl
@[simp] theorem State.setPins_boot (v : Pins) : (s.setPins v).boot = s.boot := rfl
@[simp] theorem State.setPins_steward (v : Pins) : (s.setPins v).steward = s.steward := rfl
@[simp] theorem State.setPins_err (v : Pins) : (s.setPins v).err = s.err := rfl
@[simp] theorem State.setPins_hle (v : Pins) : (s.setPins v).hle = s.hle := rfl
@[simp] theorem State.setPins_out (v : Pins) : (s.setPins v).out = s.out := rfl

@[simp] theorem State.setLink_pending (v : Link) : (s.setLink v).pending = s.pending := rfl
@[simp] theorem State.setLink_nowUs (v : Link) : (s.setLink v).nowUs = s.nowUs := rfl
@[simp] theorem State.setLink_fresh (v : Link) : (s.setLink v).fresh = s.fresh := rfl
@[simp] theorem State.setLink_phase (v : Link) : (s.setLink v).phase = s.phase := rfl
@[simp] theorem State.setLink_pins (v : Link) : (s.setLink v).pins = s.pins := rfl
@[simp] theorem State.setLink_link (v : Link) : (s.setLink v).link = v := rfl
@[simp] theorem State.setLink_inv (v : Link) : (s.setLink v).inv = s.inv := rfl
@[simp] theorem State.setLink_adm (v : Link) : (s.setLink v).adm = s.adm := rfl
@[simp] theorem State.setLink_parts (v : Link) : (s.setLink v).parts = s.parts := rfl
@[simp] theorem State.setLink_queues (v : Link) : (s.setLink v).queues = s.queues := rfl
@[simp] theorem State.setLink_mem (v : Link) : (s.setLink v).mem = s.mem := rfl
@[simp] theorem State.setLink_cores (v : Link) : (s.setLink v).cores = s.cores := rfl
@[simp] theorem State.setLink_engines (v : Link) : (s.setLink v).engines = s.engines := rfl
@[simp] theorem State.setLink_coreMems (v : Link) : (s.setLink v).coreMems = s.coreMems := rfl
@[simp] theorem State.setLink_fab (v : Link) : (s.setLink v).fab = s.fab := rfl
@[simp] theorem State.setLink_optics (v : Link) : (s.setLink v).optics = s.optics := rfl
@[simp] theorem State.setLink_fabric (v : Link) : (s.setLink v).fabric = s.fabric := rfl
@[simp] theorem State.setLink_power (v : Link) : (s.setLink v).power = s.power := rfl
@[simp] theorem State.setLink_sec (v : Link) : (s.setLink v).sec = s.sec := rfl
@[simp] theorem State.setLink_meter (v : Link) : (s.setLink v).meter = s.meter := rfl
@[simp] theorem State.setLink_flash (v : Link) : (s.setLink v).flash = s.flash := rfl
@[simp] theorem State.setLink_tag (v : Link) : (s.setLink v).tag = s.tag := rfl
@[simp] theorem State.setLink_boot (v : Link) : (s.setLink v).boot = s.boot := rfl
@[simp] theorem State.setLink_steward (v : Link) : (s.setLink v).steward = s.steward := rfl
@[simp] theorem State.setLink_err (v : Link) : (s.setLink v).err = s.err := rfl
@[simp] theorem State.setLink_hle (v : Link) : (s.setLink v).hle = s.hle := rfl
@[simp] theorem State.setLink_out (v : Link) : (s.setLink v).out = s.out := rfl

@[simp] theorem State.setInv_pending (v : Inv) : (s.setInv v).pending = s.pending := rfl
@[simp] theorem State.setInv_nowUs (v : Inv) : (s.setInv v).nowUs = s.nowUs := rfl
@[simp] theorem State.setInv_fresh (v : Inv) : (s.setInv v).fresh = s.fresh := rfl
@[simp] theorem State.setInv_phase (v : Inv) : (s.setInv v).phase = s.phase := rfl
@[simp] theorem State.setInv_pins (v : Inv) : (s.setInv v).pins = s.pins := rfl
@[simp] theorem State.setInv_link (v : Inv) : (s.setInv v).link = s.link := rfl
@[simp] theorem State.setInv_inv (v : Inv) : (s.setInv v).inv = v := rfl
@[simp] theorem State.setInv_adm (v : Inv) : (s.setInv v).adm = s.adm := rfl
@[simp] theorem State.setInv_parts (v : Inv) : (s.setInv v).parts = s.parts := rfl
@[simp] theorem State.setInv_queues (v : Inv) : (s.setInv v).queues = s.queues := rfl
@[simp] theorem State.setInv_mem (v : Inv) : (s.setInv v).mem = s.mem := rfl
@[simp] theorem State.setInv_cores (v : Inv) : (s.setInv v).cores = s.cores := rfl
@[simp] theorem State.setInv_engines (v : Inv) : (s.setInv v).engines = s.engines := rfl
@[simp] theorem State.setInv_coreMems (v : Inv) : (s.setInv v).coreMems = s.coreMems := rfl
@[simp] theorem State.setInv_fab (v : Inv) : (s.setInv v).fab = s.fab := rfl
@[simp] theorem State.setInv_optics (v : Inv) : (s.setInv v).optics = s.optics := rfl
@[simp] theorem State.setInv_fabric (v : Inv) : (s.setInv v).fabric = s.fabric := rfl
@[simp] theorem State.setInv_power (v : Inv) : (s.setInv v).power = s.power := rfl
@[simp] theorem State.setInv_sec (v : Inv) : (s.setInv v).sec = s.sec := rfl
@[simp] theorem State.setInv_meter (v : Inv) : (s.setInv v).meter = s.meter := rfl
@[simp] theorem State.setInv_flash (v : Inv) : (s.setInv v).flash = s.flash := rfl
@[simp] theorem State.setInv_tag (v : Inv) : (s.setInv v).tag = s.tag := rfl
@[simp] theorem State.setInv_boot (v : Inv) : (s.setInv v).boot = s.boot := rfl
@[simp] theorem State.setInv_steward (v : Inv) : (s.setInv v).steward = s.steward := rfl
@[simp] theorem State.setInv_err (v : Inv) : (s.setInv v).err = s.err := rfl
@[simp] theorem State.setInv_hle (v : Inv) : (s.setInv v).hle = s.hle := rfl
@[simp] theorem State.setInv_out (v : Inv) : (s.setInv v).out = s.out := rfl

@[simp] theorem State.setAdm_pending (v : Adm) : (s.setAdm v).pending = s.pending := rfl
@[simp] theorem State.setAdm_nowUs (v : Adm) : (s.setAdm v).nowUs = s.nowUs := rfl
@[simp] theorem State.setAdm_fresh (v : Adm) : (s.setAdm v).fresh = s.fresh := rfl
@[simp] theorem State.setAdm_phase (v : Adm) : (s.setAdm v).phase = s.phase := rfl
@[simp] theorem State.setAdm_pins (v : Adm) : (s.setAdm v).pins = s.pins := rfl
@[simp] theorem State.setAdm_link (v : Adm) : (s.setAdm v).link = s.link := rfl
@[simp] theorem State.setAdm_inv (v : Adm) : (s.setAdm v).inv = s.inv := rfl
@[simp] theorem State.setAdm_adm (v : Adm) : (s.setAdm v).adm = v := rfl
@[simp] theorem State.setAdm_parts (v : Adm) : (s.setAdm v).parts = s.parts := rfl
@[simp] theorem State.setAdm_queues (v : Adm) : (s.setAdm v).queues = s.queues := rfl
@[simp] theorem State.setAdm_mem (v : Adm) : (s.setAdm v).mem = s.mem := rfl
@[simp] theorem State.setAdm_cores (v : Adm) : (s.setAdm v).cores = s.cores := rfl
@[simp] theorem State.setAdm_engines (v : Adm) : (s.setAdm v).engines = s.engines := rfl
@[simp] theorem State.setAdm_coreMems (v : Adm) : (s.setAdm v).coreMems = s.coreMems := rfl
@[simp] theorem State.setAdm_fab (v : Adm) : (s.setAdm v).fab = s.fab := rfl
@[simp] theorem State.setAdm_optics (v : Adm) : (s.setAdm v).optics = s.optics := rfl
@[simp] theorem State.setAdm_fabric (v : Adm) : (s.setAdm v).fabric = s.fabric := rfl
@[simp] theorem State.setAdm_power (v : Adm) : (s.setAdm v).power = s.power := rfl
@[simp] theorem State.setAdm_sec (v : Adm) : (s.setAdm v).sec = s.sec := rfl
@[simp] theorem State.setAdm_meter (v : Adm) : (s.setAdm v).meter = s.meter := rfl
@[simp] theorem State.setAdm_flash (v : Adm) : (s.setAdm v).flash = s.flash := rfl
@[simp] theorem State.setAdm_tag (v : Adm) : (s.setAdm v).tag = s.tag := rfl
@[simp] theorem State.setAdm_boot (v : Adm) : (s.setAdm v).boot = s.boot := rfl
@[simp] theorem State.setAdm_steward (v : Adm) : (s.setAdm v).steward = s.steward := rfl
@[simp] theorem State.setAdm_err (v : Adm) : (s.setAdm v).err = s.err := rfl
@[simp] theorem State.setAdm_hle (v : Adm) : (s.setAdm v).hle = s.hle := rfl
@[simp] theorem State.setAdm_out (v : Adm) : (s.setAdm v).out = s.out := rfl

@[simp] theorem State.setParts_pending (v : List Part) : (s.setParts v).pending = s.pending := rfl
@[simp] theorem State.setParts_nowUs (v : List Part) : (s.setParts v).nowUs = s.nowUs := rfl
@[simp] theorem State.setParts_fresh (v : List Part) : (s.setParts v).fresh = s.fresh := rfl
@[simp] theorem State.setParts_phase (v : List Part) : (s.setParts v).phase = s.phase := rfl
@[simp] theorem State.setParts_pins (v : List Part) : (s.setParts v).pins = s.pins := rfl
@[simp] theorem State.setParts_link (v : List Part) : (s.setParts v).link = s.link := rfl
@[simp] theorem State.setParts_inv (v : List Part) : (s.setParts v).inv = s.inv := rfl
@[simp] theorem State.setParts_adm (v : List Part) : (s.setParts v).adm = s.adm := rfl
@[simp] theorem State.setParts_parts (v : List Part) : (s.setParts v).parts = v := rfl
@[simp] theorem State.setParts_queues (v : List Part) : (s.setParts v).queues = s.queues := rfl
@[simp] theorem State.setParts_mem (v : List Part) : (s.setParts v).mem = s.mem := rfl
@[simp] theorem State.setParts_cores (v : List Part) : (s.setParts v).cores = s.cores := rfl
@[simp] theorem State.setParts_engines (v : List Part) : (s.setParts v).engines = s.engines := rfl
@[simp] theorem State.setParts_coreMems (v : List Part) : (s.setParts v).coreMems = s.coreMems := rfl
@[simp] theorem State.setParts_fab (v : List Part) : (s.setParts v).fab = s.fab := rfl
@[simp] theorem State.setParts_optics (v : List Part) : (s.setParts v).optics = s.optics := rfl
@[simp] theorem State.setParts_fabric (v : List Part) : (s.setParts v).fabric = s.fabric := rfl
@[simp] theorem State.setParts_power (v : List Part) : (s.setParts v).power = s.power := rfl
@[simp] theorem State.setParts_sec (v : List Part) : (s.setParts v).sec = s.sec := rfl
@[simp] theorem State.setParts_meter (v : List Part) : (s.setParts v).meter = s.meter := rfl
@[simp] theorem State.setParts_flash (v : List Part) : (s.setParts v).flash = s.flash := rfl
@[simp] theorem State.setParts_tag (v : List Part) : (s.setParts v).tag = s.tag := rfl
@[simp] theorem State.setParts_boot (v : List Part) : (s.setParts v).boot = s.boot := rfl
@[simp] theorem State.setParts_steward (v : List Part) : (s.setParts v).steward = s.steward := rfl
@[simp] theorem State.setParts_err (v : List Part) : (s.setParts v).err = s.err := rfl
@[simp] theorem State.setParts_hle (v : List Part) : (s.setParts v).hle = s.hle := rfl
@[simp] theorem State.setParts_out (v : List Part) : (s.setParts v).out = s.out := rfl

@[simp] theorem State.setQueues_pending (v : List Queue) : (s.setQueues v).pending = s.pending := rfl
@[simp] theorem State.setQueues_nowUs (v : List Queue) : (s.setQueues v).nowUs = s.nowUs := rfl
@[simp] theorem State.setQueues_fresh (v : List Queue) : (s.setQueues v).fresh = s.fresh := rfl
@[simp] theorem State.setQueues_phase (v : List Queue) : (s.setQueues v).phase = s.phase := rfl
@[simp] theorem State.setQueues_pins (v : List Queue) : (s.setQueues v).pins = s.pins := rfl
@[simp] theorem State.setQueues_link (v : List Queue) : (s.setQueues v).link = s.link := rfl
@[simp] theorem State.setQueues_inv (v : List Queue) : (s.setQueues v).inv = s.inv := rfl
@[simp] theorem State.setQueues_adm (v : List Queue) : (s.setQueues v).adm = s.adm := rfl
@[simp] theorem State.setQueues_parts (v : List Queue) : (s.setQueues v).parts = s.parts := rfl
@[simp] theorem State.setQueues_queues (v : List Queue) : (s.setQueues v).queues = v := rfl
@[simp] theorem State.setQueues_mem (v : List Queue) : (s.setQueues v).mem = s.mem := rfl
@[simp] theorem State.setQueues_cores (v : List Queue) : (s.setQueues v).cores = s.cores := rfl
@[simp] theorem State.setQueues_engines (v : List Queue) : (s.setQueues v).engines = s.engines := rfl
@[simp] theorem State.setQueues_coreMems (v : List Queue) : (s.setQueues v).coreMems = s.coreMems := rfl
@[simp] theorem State.setQueues_fab (v : List Queue) : (s.setQueues v).fab = s.fab := rfl
@[simp] theorem State.setQueues_optics (v : List Queue) : (s.setQueues v).optics = s.optics := rfl
@[simp] theorem State.setQueues_fabric (v : List Queue) : (s.setQueues v).fabric = s.fabric := rfl
@[simp] theorem State.setQueues_power (v : List Queue) : (s.setQueues v).power = s.power := rfl
@[simp] theorem State.setQueues_sec (v : List Queue) : (s.setQueues v).sec = s.sec := rfl
@[simp] theorem State.setQueues_meter (v : List Queue) : (s.setQueues v).meter = s.meter := rfl
@[simp] theorem State.setQueues_flash (v : List Queue) : (s.setQueues v).flash = s.flash := rfl
@[simp] theorem State.setQueues_tag (v : List Queue) : (s.setQueues v).tag = s.tag := rfl
@[simp] theorem State.setQueues_boot (v : List Queue) : (s.setQueues v).boot = s.boot := rfl
@[simp] theorem State.setQueues_steward (v : List Queue) : (s.setQueues v).steward = s.steward := rfl
@[simp] theorem State.setQueues_err (v : List Queue) : (s.setQueues v).err = s.err := rfl
@[simp] theorem State.setQueues_hle (v : List Queue) : (s.setQueues v).hle = s.hle := rfl
@[simp] theorem State.setQueues_out (v : List Queue) : (s.setQueues v).out = s.out := rfl

@[simp] theorem State.setMem_pending (v : Mem) : (s.setMem v).pending = s.pending := rfl
@[simp] theorem State.setMem_nowUs (v : Mem) : (s.setMem v).nowUs = s.nowUs := rfl
@[simp] theorem State.setMem_fresh (v : Mem) : (s.setMem v).fresh = s.fresh := rfl
@[simp] theorem State.setMem_phase (v : Mem) : (s.setMem v).phase = s.phase := rfl
@[simp] theorem State.setMem_pins (v : Mem) : (s.setMem v).pins = s.pins := rfl
@[simp] theorem State.setMem_link (v : Mem) : (s.setMem v).link = s.link := rfl
@[simp] theorem State.setMem_inv (v : Mem) : (s.setMem v).inv = s.inv := rfl
@[simp] theorem State.setMem_adm (v : Mem) : (s.setMem v).adm = s.adm := rfl
@[simp] theorem State.setMem_parts (v : Mem) : (s.setMem v).parts = s.parts := rfl
@[simp] theorem State.setMem_queues (v : Mem) : (s.setMem v).queues = s.queues := rfl
@[simp] theorem State.setMem_mem (v : Mem) : (s.setMem v).mem = v := rfl
@[simp] theorem State.setMem_cores (v : Mem) : (s.setMem v).cores = s.cores := rfl
@[simp] theorem State.setMem_engines (v : Mem) : (s.setMem v).engines = s.engines := rfl
@[simp] theorem State.setMem_coreMems (v : Mem) : (s.setMem v).coreMems = s.coreMems := rfl
@[simp] theorem State.setMem_fab (v : Mem) : (s.setMem v).fab = s.fab := rfl
@[simp] theorem State.setMem_optics (v : Mem) : (s.setMem v).optics = s.optics := rfl
@[simp] theorem State.setMem_fabric (v : Mem) : (s.setMem v).fabric = s.fabric := rfl
@[simp] theorem State.setMem_power (v : Mem) : (s.setMem v).power = s.power := rfl
@[simp] theorem State.setMem_sec (v : Mem) : (s.setMem v).sec = s.sec := rfl
@[simp] theorem State.setMem_meter (v : Mem) : (s.setMem v).meter = s.meter := rfl
@[simp] theorem State.setMem_flash (v : Mem) : (s.setMem v).flash = s.flash := rfl
@[simp] theorem State.setMem_tag (v : Mem) : (s.setMem v).tag = s.tag := rfl
@[simp] theorem State.setMem_boot (v : Mem) : (s.setMem v).boot = s.boot := rfl
@[simp] theorem State.setMem_steward (v : Mem) : (s.setMem v).steward = s.steward := rfl
@[simp] theorem State.setMem_err (v : Mem) : (s.setMem v).err = s.err := rfl
@[simp] theorem State.setMem_hle (v : Mem) : (s.setMem v).hle = s.hle := rfl
@[simp] theorem State.setMem_out (v : Mem) : (s.setMem v).out = s.out := rfl

@[simp] theorem State.setCores_pending (v : List PhysCore) : (s.setCores v).pending = s.pending := rfl
@[simp] theorem State.setCores_nowUs (v : List PhysCore) : (s.setCores v).nowUs = s.nowUs := rfl
@[simp] theorem State.setCores_fresh (v : List PhysCore) : (s.setCores v).fresh = s.fresh := rfl
@[simp] theorem State.setCores_phase (v : List PhysCore) : (s.setCores v).phase = s.phase := rfl
@[simp] theorem State.setCores_pins (v : List PhysCore) : (s.setCores v).pins = s.pins := rfl
@[simp] theorem State.setCores_link (v : List PhysCore) : (s.setCores v).link = s.link := rfl
@[simp] theorem State.setCores_inv (v : List PhysCore) : (s.setCores v).inv = s.inv := rfl
@[simp] theorem State.setCores_adm (v : List PhysCore) : (s.setCores v).adm = s.adm := rfl
@[simp] theorem State.setCores_parts (v : List PhysCore) : (s.setCores v).parts = s.parts := rfl
@[simp] theorem State.setCores_queues (v : List PhysCore) : (s.setCores v).queues = s.queues := rfl
@[simp] theorem State.setCores_mem (v : List PhysCore) : (s.setCores v).mem = s.mem := rfl
@[simp] theorem State.setCores_cores (v : List PhysCore) : (s.setCores v).cores = v := rfl
@[simp] theorem State.setCores_engines (v : List PhysCore) : (s.setCores v).engines = s.engines := rfl
@[simp] theorem State.setCores_coreMems (v : List PhysCore) : (s.setCores v).coreMems = s.coreMems := rfl
@[simp] theorem State.setCores_fab (v : List PhysCore) : (s.setCores v).fab = s.fab := rfl
@[simp] theorem State.setCores_optics (v : List PhysCore) : (s.setCores v).optics = s.optics := rfl
@[simp] theorem State.setCores_fabric (v : List PhysCore) : (s.setCores v).fabric = s.fabric := rfl
@[simp] theorem State.setCores_power (v : List PhysCore) : (s.setCores v).power = s.power := rfl
@[simp] theorem State.setCores_sec (v : List PhysCore) : (s.setCores v).sec = s.sec := rfl
@[simp] theorem State.setCores_meter (v : List PhysCore) : (s.setCores v).meter = s.meter := rfl
@[simp] theorem State.setCores_flash (v : List PhysCore) : (s.setCores v).flash = s.flash := rfl
@[simp] theorem State.setCores_tag (v : List PhysCore) : (s.setCores v).tag = s.tag := rfl
@[simp] theorem State.setCores_boot (v : List PhysCore) : (s.setCores v).boot = s.boot := rfl
@[simp] theorem State.setCores_steward (v : List PhysCore) : (s.setCores v).steward = s.steward := rfl
@[simp] theorem State.setCores_err (v : List PhysCore) : (s.setCores v).err = s.err := rfl
@[simp] theorem State.setCores_hle (v : List PhysCore) : (s.setCores v).hle = s.hle := rfl
@[simp] theorem State.setCores_out (v : List PhysCore) : (s.setCores v).out = s.out := rfl

@[simp] theorem State.setCoreMems_pending (v : List (Nat × CoreMem)) : (s.setCoreMems v).pending = s.pending := rfl
@[simp] theorem State.setCoreMems_nowUs (v : List (Nat × CoreMem)) : (s.setCoreMems v).nowUs = s.nowUs := rfl
@[simp] theorem State.setCoreMems_fresh (v : List (Nat × CoreMem)) : (s.setCoreMems v).fresh = s.fresh := rfl
@[simp] theorem State.setCoreMems_phase (v : List (Nat × CoreMem)) : (s.setCoreMems v).phase = s.phase := rfl
@[simp] theorem State.setCoreMems_pins (v : List (Nat × CoreMem)) : (s.setCoreMems v).pins = s.pins := rfl
@[simp] theorem State.setCoreMems_link (v : List (Nat × CoreMem)) : (s.setCoreMems v).link = s.link := rfl
@[simp] theorem State.setCoreMems_inv (v : List (Nat × CoreMem)) : (s.setCoreMems v).inv = s.inv := rfl
@[simp] theorem State.setCoreMems_adm (v : List (Nat × CoreMem)) : (s.setCoreMems v).adm = s.adm := rfl
@[simp] theorem State.setCoreMems_parts (v : List (Nat × CoreMem)) : (s.setCoreMems v).parts = s.parts := rfl
@[simp] theorem State.setCoreMems_queues (v : List (Nat × CoreMem)) : (s.setCoreMems v).queues = s.queues := rfl
@[simp] theorem State.setCoreMems_mem (v : List (Nat × CoreMem)) : (s.setCoreMems v).mem = s.mem := rfl
@[simp] theorem State.setCoreMems_cores (v : List (Nat × CoreMem)) : (s.setCoreMems v).cores = s.cores := rfl
@[simp] theorem State.setCoreMems_engines (v : List (Nat × CoreMem)) : (s.setCoreMems v).engines = s.engines := rfl
@[simp] theorem State.setCoreMems_coreMems (v : List (Nat × CoreMem)) : (s.setCoreMems v).coreMems = v := rfl
@[simp] theorem State.setCoreMems_fab (v : List (Nat × CoreMem)) : (s.setCoreMems v).fab = s.fab := rfl
@[simp] theorem State.setCoreMems_optics (v : List (Nat × CoreMem)) : (s.setCoreMems v).optics = s.optics := rfl
@[simp] theorem State.setCoreMems_fabric (v : List (Nat × CoreMem)) : (s.setCoreMems v).fabric = s.fabric := rfl
@[simp] theorem State.setCoreMems_power (v : List (Nat × CoreMem)) : (s.setCoreMems v).power = s.power := rfl
@[simp] theorem State.setCoreMems_sec (v : List (Nat × CoreMem)) : (s.setCoreMems v).sec = s.sec := rfl
@[simp] theorem State.setCoreMems_meter (v : List (Nat × CoreMem)) : (s.setCoreMems v).meter = s.meter := rfl
@[simp] theorem State.setCoreMems_flash (v : List (Nat × CoreMem)) : (s.setCoreMems v).flash = s.flash := rfl
@[simp] theorem State.setCoreMems_tag (v : List (Nat × CoreMem)) : (s.setCoreMems v).tag = s.tag := rfl
@[simp] theorem State.setCoreMems_boot (v : List (Nat × CoreMem)) : (s.setCoreMems v).boot = s.boot := rfl
@[simp] theorem State.setCoreMems_steward (v : List (Nat × CoreMem)) : (s.setCoreMems v).steward = s.steward := rfl
@[simp] theorem State.setCoreMems_err (v : List (Nat × CoreMem)) : (s.setCoreMems v).err = s.err := rfl
@[simp] theorem State.setCoreMems_hle (v : List (Nat × CoreMem)) : (s.setCoreMems v).hle = s.hle := rfl
@[simp] theorem State.setCoreMems_out (v : List (Nat × CoreMem)) : (s.setCoreMems v).out = s.out := rfl

@[simp] theorem State.setEngines_pending (v : List (Nat × TileCtx)) : (s.setEngines v).pending = s.pending := rfl
@[simp] theorem State.setEngines_nowUs (v : List (Nat × TileCtx)) : (s.setEngines v).nowUs = s.nowUs := rfl
@[simp] theorem State.setEngines_fresh (v : List (Nat × TileCtx)) : (s.setEngines v).fresh = s.fresh := rfl
@[simp] theorem State.setEngines_phase (v : List (Nat × TileCtx)) : (s.setEngines v).phase = s.phase := rfl
@[simp] theorem State.setEngines_pins (v : List (Nat × TileCtx)) : (s.setEngines v).pins = s.pins := rfl
@[simp] theorem State.setEngines_link (v : List (Nat × TileCtx)) : (s.setEngines v).link = s.link := rfl
@[simp] theorem State.setEngines_inv (v : List (Nat × TileCtx)) : (s.setEngines v).inv = s.inv := rfl
@[simp] theorem State.setEngines_adm (v : List (Nat × TileCtx)) : (s.setEngines v).adm = s.adm := rfl
@[simp] theorem State.setEngines_parts (v : List (Nat × TileCtx)) : (s.setEngines v).parts = s.parts := rfl
@[simp] theorem State.setEngines_queues (v : List (Nat × TileCtx)) : (s.setEngines v).queues = s.queues := rfl
@[simp] theorem State.setEngines_mem (v : List (Nat × TileCtx)) : (s.setEngines v).mem = s.mem := rfl
@[simp] theorem State.setEngines_cores (v : List (Nat × TileCtx)) : (s.setEngines v).cores = s.cores := rfl
@[simp] theorem State.setEngines_engines (v : List (Nat × TileCtx)) : (s.setEngines v).engines = v := rfl
@[simp] theorem State.setEngines_coreMems (v : List (Nat × TileCtx)) : (s.setEngines v).coreMems = s.coreMems := rfl
@[simp] theorem State.setEngines_fab (v : List (Nat × TileCtx)) : (s.setEngines v).fab = s.fab := rfl
@[simp] theorem State.setEngines_optics (v : List (Nat × TileCtx)) : (s.setEngines v).optics = s.optics := rfl
@[simp] theorem State.setEngines_fabric (v : List (Nat × TileCtx)) : (s.setEngines v).fabric = s.fabric := rfl
@[simp] theorem State.setEngines_power (v : List (Nat × TileCtx)) : (s.setEngines v).power = s.power := rfl
@[simp] theorem State.setEngines_sec (v : List (Nat × TileCtx)) : (s.setEngines v).sec = s.sec := rfl
@[simp] theorem State.setEngines_meter (v : List (Nat × TileCtx)) : (s.setEngines v).meter = s.meter := rfl
@[simp] theorem State.setEngines_flash (v : List (Nat × TileCtx)) : (s.setEngines v).flash = s.flash := rfl
@[simp] theorem State.setEngines_tag (v : List (Nat × TileCtx)) : (s.setEngines v).tag = s.tag := rfl
@[simp] theorem State.setEngines_boot (v : List (Nat × TileCtx)) : (s.setEngines v).boot = s.boot := rfl
@[simp] theorem State.setEngines_steward (v : List (Nat × TileCtx)) : (s.setEngines v).steward = s.steward := rfl
@[simp] theorem State.setEngines_err (v : List (Nat × TileCtx)) : (s.setEngines v).err = s.err := rfl
@[simp] theorem State.setEngines_hle (v : List (Nat × TileCtx)) : (s.setEngines v).hle = s.hle := rfl
@[simp] theorem State.setEngines_out (v : List (Nat × TileCtx)) : (s.setEngines v).out = s.out := rfl

@[simp] theorem State.setFab_pending (v : Fab) : (s.setFab v).pending = s.pending := rfl
@[simp] theorem State.setFab_nowUs (v : Fab) : (s.setFab v).nowUs = s.nowUs := rfl
@[simp] theorem State.setFab_fresh (v : Fab) : (s.setFab v).fresh = s.fresh := rfl
@[simp] theorem State.setFab_phase (v : Fab) : (s.setFab v).phase = s.phase := rfl
@[simp] theorem State.setFab_pins (v : Fab) : (s.setFab v).pins = s.pins := rfl
@[simp] theorem State.setFab_link (v : Fab) : (s.setFab v).link = s.link := rfl
@[simp] theorem State.setFab_inv (v : Fab) : (s.setFab v).inv = s.inv := rfl
@[simp] theorem State.setFab_adm (v : Fab) : (s.setFab v).adm = s.adm := rfl
@[simp] theorem State.setFab_parts (v : Fab) : (s.setFab v).parts = s.parts := rfl
@[simp] theorem State.setFab_queues (v : Fab) : (s.setFab v).queues = s.queues := rfl
@[simp] theorem State.setFab_mem (v : Fab) : (s.setFab v).mem = s.mem := rfl
@[simp] theorem State.setFab_cores (v : Fab) : (s.setFab v).cores = s.cores := rfl
@[simp] theorem State.setFab_engines (v : Fab) : (s.setFab v).engines = s.engines := rfl
@[simp] theorem State.setFab_coreMems (v : Fab) : (s.setFab v).coreMems = s.coreMems := rfl
@[simp] theorem State.setFab_fab (v : Fab) : (s.setFab v).fab = v := rfl
@[simp] theorem State.setFab_optics (v : Fab) : (s.setFab v).optics = s.optics := rfl
@[simp] theorem State.setFab_fabric (v : Fab) : (s.setFab v).fabric = s.fabric := rfl
@[simp] theorem State.setFab_power (v : Fab) : (s.setFab v).power = s.power := rfl
@[simp] theorem State.setFab_sec (v : Fab) : (s.setFab v).sec = s.sec := rfl
@[simp] theorem State.setFab_meter (v : Fab) : (s.setFab v).meter = s.meter := rfl
@[simp] theorem State.setFab_flash (v : Fab) : (s.setFab v).flash = s.flash := rfl
@[simp] theorem State.setFab_tag (v : Fab) : (s.setFab v).tag = s.tag := rfl
@[simp] theorem State.setFab_boot (v : Fab) : (s.setFab v).boot = s.boot := rfl
@[simp] theorem State.setFab_steward (v : Fab) : (s.setFab v).steward = s.steward := rfl
@[simp] theorem State.setFab_err (v : Fab) : (s.setFab v).err = s.err := rfl
@[simp] theorem State.setFab_hle (v : Fab) : (s.setFab v).hle = s.hle := rfl
@[simp] theorem State.setFab_out (v : Fab) : (s.setFab v).out = s.out := rfl

@[simp] theorem State.setOptics_pending (v : Optics) : (s.setOptics v).pending = s.pending := rfl
@[simp] theorem State.setOptics_nowUs (v : Optics) : (s.setOptics v).nowUs = s.nowUs := rfl
@[simp] theorem State.setOptics_fresh (v : Optics) : (s.setOptics v).fresh = s.fresh := rfl
@[simp] theorem State.setOptics_phase (v : Optics) : (s.setOptics v).phase = s.phase := rfl
@[simp] theorem State.setOptics_pins (v : Optics) : (s.setOptics v).pins = s.pins := rfl
@[simp] theorem State.setOptics_link (v : Optics) : (s.setOptics v).link = s.link := rfl
@[simp] theorem State.setOptics_inv (v : Optics) : (s.setOptics v).inv = s.inv := rfl
@[simp] theorem State.setOptics_adm (v : Optics) : (s.setOptics v).adm = s.adm := rfl
@[simp] theorem State.setOptics_parts (v : Optics) : (s.setOptics v).parts = s.parts := rfl
@[simp] theorem State.setOptics_queues (v : Optics) : (s.setOptics v).queues = s.queues := rfl
@[simp] theorem State.setOptics_mem (v : Optics) : (s.setOptics v).mem = s.mem := rfl
@[simp] theorem State.setOptics_cores (v : Optics) : (s.setOptics v).cores = s.cores := rfl
@[simp] theorem State.setOptics_engines (v : Optics) : (s.setOptics v).engines = s.engines := rfl
@[simp] theorem State.setOptics_coreMems (v : Optics) : (s.setOptics v).coreMems = s.coreMems := rfl
@[simp] theorem State.setOptics_fab (v : Optics) : (s.setOptics v).fab = s.fab := rfl
@[simp] theorem State.setOptics_optics (v : Optics) : (s.setOptics v).optics = v := rfl
@[simp] theorem State.setOptics_fabric (v : Optics) : (s.setOptics v).fabric = s.fabric := rfl
@[simp] theorem State.setOptics_power (v : Optics) : (s.setOptics v).power = s.power := rfl
@[simp] theorem State.setOptics_sec (v : Optics) : (s.setOptics v).sec = s.sec := rfl
@[simp] theorem State.setOptics_meter (v : Optics) : (s.setOptics v).meter = s.meter := rfl
@[simp] theorem State.setOptics_flash (v : Optics) : (s.setOptics v).flash = s.flash := rfl
@[simp] theorem State.setOptics_tag (v : Optics) : (s.setOptics v).tag = s.tag := rfl
@[simp] theorem State.setOptics_boot (v : Optics) : (s.setOptics v).boot = s.boot := rfl
@[simp] theorem State.setOptics_steward (v : Optics) : (s.setOptics v).steward = s.steward := rfl
@[simp] theorem State.setOptics_err (v : Optics) : (s.setOptics v).err = s.err := rfl
@[simp] theorem State.setOptics_hle (v : Optics) : (s.setOptics v).hle = s.hle := rfl
@[simp] theorem State.setOptics_out (v : Optics) : (s.setOptics v).out = s.out := rfl

@[simp] theorem State.setFabric_pending (v : Fabric) : (s.setFabric v).pending = s.pending := rfl
@[simp] theorem State.setFabric_nowUs (v : Fabric) : (s.setFabric v).nowUs = s.nowUs := rfl
@[simp] theorem State.setFabric_fresh (v : Fabric) : (s.setFabric v).fresh = s.fresh := rfl
@[simp] theorem State.setFabric_phase (v : Fabric) : (s.setFabric v).phase = s.phase := rfl
@[simp] theorem State.setFabric_pins (v : Fabric) : (s.setFabric v).pins = s.pins := rfl
@[simp] theorem State.setFabric_link (v : Fabric) : (s.setFabric v).link = s.link := rfl
@[simp] theorem State.setFabric_inv (v : Fabric) : (s.setFabric v).inv = s.inv := rfl
@[simp] theorem State.setFabric_adm (v : Fabric) : (s.setFabric v).adm = s.adm := rfl
@[simp] theorem State.setFabric_parts (v : Fabric) : (s.setFabric v).parts = s.parts := rfl
@[simp] theorem State.setFabric_queues (v : Fabric) : (s.setFabric v).queues = s.queues := rfl
@[simp] theorem State.setFabric_mem (v : Fabric) : (s.setFabric v).mem = s.mem := rfl
@[simp] theorem State.setFabric_cores (v : Fabric) : (s.setFabric v).cores = s.cores := rfl
@[simp] theorem State.setFabric_engines (v : Fabric) : (s.setFabric v).engines = s.engines := rfl
@[simp] theorem State.setFabric_coreMems (v : Fabric) : (s.setFabric v).coreMems = s.coreMems := rfl
@[simp] theorem State.setFabric_fab (v : Fabric) : (s.setFabric v).fab = s.fab := rfl
@[simp] theorem State.setFabric_optics (v : Fabric) : (s.setFabric v).optics = s.optics := rfl
@[simp] theorem State.setFabric_fabric (v : Fabric) : (s.setFabric v).fabric = v := rfl
@[simp] theorem State.setFabric_power (v : Fabric) : (s.setFabric v).power = s.power := rfl
@[simp] theorem State.setFabric_sec (v : Fabric) : (s.setFabric v).sec = s.sec := rfl
@[simp] theorem State.setFabric_meter (v : Fabric) : (s.setFabric v).meter = s.meter := rfl
@[simp] theorem State.setFabric_flash (v : Fabric) : (s.setFabric v).flash = s.flash := rfl
@[simp] theorem State.setFabric_tag (v : Fabric) : (s.setFabric v).tag = s.tag := rfl
@[simp] theorem State.setFabric_boot (v : Fabric) : (s.setFabric v).boot = s.boot := rfl
@[simp] theorem State.setFabric_steward (v : Fabric) : (s.setFabric v).steward = s.steward := rfl
@[simp] theorem State.setFabric_err (v : Fabric) : (s.setFabric v).err = s.err := rfl
@[simp] theorem State.setFabric_hle (v : Fabric) : (s.setFabric v).hle = s.hle := rfl
@[simp] theorem State.setFabric_out (v : Fabric) : (s.setFabric v).out = s.out := rfl

@[simp] theorem State.setPower_pending (v : Power) : (s.setPower v).pending = s.pending := rfl
@[simp] theorem State.setPower_nowUs (v : Power) : (s.setPower v).nowUs = s.nowUs := rfl
@[simp] theorem State.setPower_fresh (v : Power) : (s.setPower v).fresh = s.fresh := rfl
@[simp] theorem State.setPower_phase (v : Power) : (s.setPower v).phase = s.phase := rfl
@[simp] theorem State.setPower_pins (v : Power) : (s.setPower v).pins = s.pins := rfl
@[simp] theorem State.setPower_link (v : Power) : (s.setPower v).link = s.link := rfl
@[simp] theorem State.setPower_inv (v : Power) : (s.setPower v).inv = s.inv := rfl
@[simp] theorem State.setPower_adm (v : Power) : (s.setPower v).adm = s.adm := rfl
@[simp] theorem State.setPower_parts (v : Power) : (s.setPower v).parts = s.parts := rfl
@[simp] theorem State.setPower_queues (v : Power) : (s.setPower v).queues = s.queues := rfl
@[simp] theorem State.setPower_mem (v : Power) : (s.setPower v).mem = s.mem := rfl
@[simp] theorem State.setPower_cores (v : Power) : (s.setPower v).cores = s.cores := rfl
@[simp] theorem State.setPower_engines (v : Power) : (s.setPower v).engines = s.engines := rfl
@[simp] theorem State.setPower_coreMems (v : Power) : (s.setPower v).coreMems = s.coreMems := rfl
@[simp] theorem State.setPower_fab (v : Power) : (s.setPower v).fab = s.fab := rfl
@[simp] theorem State.setPower_optics (v : Power) : (s.setPower v).optics = s.optics := rfl
@[simp] theorem State.setPower_fabric (v : Power) : (s.setPower v).fabric = s.fabric := rfl
@[simp] theorem State.setPower_power (v : Power) : (s.setPower v).power = v := rfl
@[simp] theorem State.setPower_sec (v : Power) : (s.setPower v).sec = s.sec := rfl
@[simp] theorem State.setPower_meter (v : Power) : (s.setPower v).meter = s.meter := rfl
@[simp] theorem State.setPower_flash (v : Power) : (s.setPower v).flash = s.flash := rfl
@[simp] theorem State.setPower_tag (v : Power) : (s.setPower v).tag = s.tag := rfl
@[simp] theorem State.setPower_boot (v : Power) : (s.setPower v).boot = s.boot := rfl
@[simp] theorem State.setPower_steward (v : Power) : (s.setPower v).steward = s.steward := rfl
@[simp] theorem State.setPower_err (v : Power) : (s.setPower v).err = s.err := rfl
@[simp] theorem State.setPower_hle (v : Power) : (s.setPower v).hle = s.hle := rfl
@[simp] theorem State.setPower_out (v : Power) : (s.setPower v).out = s.out := rfl

@[simp] theorem State.setSec_pending (v : Sec) : (s.setSec v).pending = s.pending := rfl
@[simp] theorem State.setSec_nowUs (v : Sec) : (s.setSec v).nowUs = s.nowUs := rfl
@[simp] theorem State.setSec_fresh (v : Sec) : (s.setSec v).fresh = s.fresh := rfl
@[simp] theorem State.setSec_phase (v : Sec) : (s.setSec v).phase = s.phase := rfl
@[simp] theorem State.setSec_pins (v : Sec) : (s.setSec v).pins = s.pins := rfl
@[simp] theorem State.setSec_link (v : Sec) : (s.setSec v).link = s.link := rfl
@[simp] theorem State.setSec_inv (v : Sec) : (s.setSec v).inv = s.inv := rfl
@[simp] theorem State.setSec_adm (v : Sec) : (s.setSec v).adm = s.adm := rfl
@[simp] theorem State.setSec_parts (v : Sec) : (s.setSec v).parts = s.parts := rfl
@[simp] theorem State.setSec_queues (v : Sec) : (s.setSec v).queues = s.queues := rfl
@[simp] theorem State.setSec_mem (v : Sec) : (s.setSec v).mem = s.mem := rfl
@[simp] theorem State.setSec_cores (v : Sec) : (s.setSec v).cores = s.cores := rfl
@[simp] theorem State.setSec_engines (v : Sec) : (s.setSec v).engines = s.engines := rfl
@[simp] theorem State.setSec_coreMems (v : Sec) : (s.setSec v).coreMems = s.coreMems := rfl
@[simp] theorem State.setSec_fab (v : Sec) : (s.setSec v).fab = s.fab := rfl
@[simp] theorem State.setSec_optics (v : Sec) : (s.setSec v).optics = s.optics := rfl
@[simp] theorem State.setSec_fabric (v : Sec) : (s.setSec v).fabric = s.fabric := rfl
@[simp] theorem State.setSec_power (v : Sec) : (s.setSec v).power = s.power := rfl
@[simp] theorem State.setSec_sec (v : Sec) : (s.setSec v).sec = v := rfl
@[simp] theorem State.setSec_meter (v : Sec) : (s.setSec v).meter = s.meter := rfl
@[simp] theorem State.setSec_flash (v : Sec) : (s.setSec v).flash = s.flash := rfl
@[simp] theorem State.setSec_tag (v : Sec) : (s.setSec v).tag = s.tag := rfl
@[simp] theorem State.setSec_boot (v : Sec) : (s.setSec v).boot = s.boot := rfl
@[simp] theorem State.setSec_steward (v : Sec) : (s.setSec v).steward = s.steward := rfl
@[simp] theorem State.setSec_err (v : Sec) : (s.setSec v).err = s.err := rfl
@[simp] theorem State.setSec_hle (v : Sec) : (s.setSec v).hle = s.hle := rfl
@[simp] theorem State.setSec_out (v : Sec) : (s.setSec v).out = s.out := rfl

@[simp] theorem State.setMeter_pending (v : Meter) : (s.setMeter v).pending = s.pending := rfl
@[simp] theorem State.setMeter_nowUs (v : Meter) : (s.setMeter v).nowUs = s.nowUs := rfl
@[simp] theorem State.setMeter_fresh (v : Meter) : (s.setMeter v).fresh = s.fresh := rfl
@[simp] theorem State.setMeter_phase (v : Meter) : (s.setMeter v).phase = s.phase := rfl
@[simp] theorem State.setMeter_pins (v : Meter) : (s.setMeter v).pins = s.pins := rfl
@[simp] theorem State.setMeter_link (v : Meter) : (s.setMeter v).link = s.link := rfl
@[simp] theorem State.setMeter_inv (v : Meter) : (s.setMeter v).inv = s.inv := rfl
@[simp] theorem State.setMeter_adm (v : Meter) : (s.setMeter v).adm = s.adm := rfl
@[simp] theorem State.setMeter_parts (v : Meter) : (s.setMeter v).parts = s.parts := rfl
@[simp] theorem State.setMeter_queues (v : Meter) : (s.setMeter v).queues = s.queues := rfl
@[simp] theorem State.setMeter_mem (v : Meter) : (s.setMeter v).mem = s.mem := rfl
@[simp] theorem State.setMeter_cores (v : Meter) : (s.setMeter v).cores = s.cores := rfl
@[simp] theorem State.setMeter_engines (v : Meter) : (s.setMeter v).engines = s.engines := rfl
@[simp] theorem State.setMeter_coreMems (v : Meter) : (s.setMeter v).coreMems = s.coreMems := rfl
@[simp] theorem State.setMeter_fab (v : Meter) : (s.setMeter v).fab = s.fab := rfl
@[simp] theorem State.setMeter_optics (v : Meter) : (s.setMeter v).optics = s.optics := rfl
@[simp] theorem State.setMeter_fabric (v : Meter) : (s.setMeter v).fabric = s.fabric := rfl
@[simp] theorem State.setMeter_power (v : Meter) : (s.setMeter v).power = s.power := rfl
@[simp] theorem State.setMeter_sec (v : Meter) : (s.setMeter v).sec = s.sec := rfl
@[simp] theorem State.setMeter_meter (v : Meter) : (s.setMeter v).meter = v := rfl
@[simp] theorem State.setMeter_flash (v : Meter) : (s.setMeter v).flash = s.flash := rfl
@[simp] theorem State.setMeter_tag (v : Meter) : (s.setMeter v).tag = s.tag := rfl
@[simp] theorem State.setMeter_boot (v : Meter) : (s.setMeter v).boot = s.boot := rfl
@[simp] theorem State.setMeter_steward (v : Meter) : (s.setMeter v).steward = s.steward := rfl
@[simp] theorem State.setMeter_err (v : Meter) : (s.setMeter v).err = s.err := rfl
@[simp] theorem State.setMeter_hle (v : Meter) : (s.setMeter v).hle = s.hle := rfl
@[simp] theorem State.setMeter_out (v : Meter) : (s.setMeter v).out = s.out := rfl

@[simp] theorem State.setFlash_pending (v : Flash) : (s.setFlash v).pending = s.pending := rfl
@[simp] theorem State.setFlash_nowUs (v : Flash) : (s.setFlash v).nowUs = s.nowUs := rfl
@[simp] theorem State.setFlash_fresh (v : Flash) : (s.setFlash v).fresh = s.fresh := rfl
@[simp] theorem State.setFlash_phase (v : Flash) : (s.setFlash v).phase = s.phase := rfl
@[simp] theorem State.setFlash_pins (v : Flash) : (s.setFlash v).pins = s.pins := rfl
@[simp] theorem State.setFlash_link (v : Flash) : (s.setFlash v).link = s.link := rfl
@[simp] theorem State.setFlash_inv (v : Flash) : (s.setFlash v).inv = s.inv := rfl
@[simp] theorem State.setFlash_adm (v : Flash) : (s.setFlash v).adm = s.adm := rfl
@[simp] theorem State.setFlash_parts (v : Flash) : (s.setFlash v).parts = s.parts := rfl
@[simp] theorem State.setFlash_queues (v : Flash) : (s.setFlash v).queues = s.queues := rfl
@[simp] theorem State.setFlash_mem (v : Flash) : (s.setFlash v).mem = s.mem := rfl
@[simp] theorem State.setFlash_cores (v : Flash) : (s.setFlash v).cores = s.cores := rfl
@[simp] theorem State.setFlash_engines (v : Flash) : (s.setFlash v).engines = s.engines := rfl
@[simp] theorem State.setFlash_coreMems (v : Flash) : (s.setFlash v).coreMems = s.coreMems := rfl
@[simp] theorem State.setFlash_fab (v : Flash) : (s.setFlash v).fab = s.fab := rfl
@[simp] theorem State.setFlash_optics (v : Flash) : (s.setFlash v).optics = s.optics := rfl
@[simp] theorem State.setFlash_fabric (v : Flash) : (s.setFlash v).fabric = s.fabric := rfl
@[simp] theorem State.setFlash_power (v : Flash) : (s.setFlash v).power = s.power := rfl
@[simp] theorem State.setFlash_sec (v : Flash) : (s.setFlash v).sec = s.sec := rfl
@[simp] theorem State.setFlash_meter (v : Flash) : (s.setFlash v).meter = s.meter := rfl
@[simp] theorem State.setFlash_flash (v : Flash) : (s.setFlash v).flash = v := rfl
@[simp] theorem State.setFlash_tag (v : Flash) : (s.setFlash v).tag = s.tag := rfl
@[simp] theorem State.setFlash_boot (v : Flash) : (s.setFlash v).boot = s.boot := rfl
@[simp] theorem State.setFlash_steward (v : Flash) : (s.setFlash v).steward = s.steward := rfl
@[simp] theorem State.setFlash_err (v : Flash) : (s.setFlash v).err = s.err := rfl
@[simp] theorem State.setFlash_hle (v : Flash) : (s.setFlash v).hle = s.hle := rfl
@[simp] theorem State.setFlash_out (v : Flash) : (s.setFlash v).out = s.out := rfl

@[simp] theorem State.setTag_pending (v : Tag) : (s.setTag v).pending = s.pending := rfl
@[simp] theorem State.setTag_nowUs (v : Tag) : (s.setTag v).nowUs = s.nowUs := rfl
@[simp] theorem State.setTag_fresh (v : Tag) : (s.setTag v).fresh = s.fresh := rfl
@[simp] theorem State.setTag_phase (v : Tag) : (s.setTag v).phase = s.phase := rfl
@[simp] theorem State.setTag_pins (v : Tag) : (s.setTag v).pins = s.pins := rfl
@[simp] theorem State.setTag_link (v : Tag) : (s.setTag v).link = s.link := rfl
@[simp] theorem State.setTag_inv (v : Tag) : (s.setTag v).inv = s.inv := rfl
@[simp] theorem State.setTag_adm (v : Tag) : (s.setTag v).adm = s.adm := rfl
@[simp] theorem State.setTag_parts (v : Tag) : (s.setTag v).parts = s.parts := rfl
@[simp] theorem State.setTag_queues (v : Tag) : (s.setTag v).queues = s.queues := rfl
@[simp] theorem State.setTag_mem (v : Tag) : (s.setTag v).mem = s.mem := rfl
@[simp] theorem State.setTag_cores (v : Tag) : (s.setTag v).cores = s.cores := rfl
@[simp] theorem State.setTag_engines (v : Tag) : (s.setTag v).engines = s.engines := rfl
@[simp] theorem State.setTag_coreMems (v : Tag) : (s.setTag v).coreMems = s.coreMems := rfl
@[simp] theorem State.setTag_fab (v : Tag) : (s.setTag v).fab = s.fab := rfl
@[simp] theorem State.setTag_optics (v : Tag) : (s.setTag v).optics = s.optics := rfl
@[simp] theorem State.setTag_fabric (v : Tag) : (s.setTag v).fabric = s.fabric := rfl
@[simp] theorem State.setTag_power (v : Tag) : (s.setTag v).power = s.power := rfl
@[simp] theorem State.setTag_sec (v : Tag) : (s.setTag v).sec = s.sec := rfl
@[simp] theorem State.setTag_meter (v : Tag) : (s.setTag v).meter = s.meter := rfl
@[simp] theorem State.setTag_flash (v : Tag) : (s.setTag v).flash = s.flash := rfl
@[simp] theorem State.setTag_tag (v : Tag) : (s.setTag v).tag = v := rfl
@[simp] theorem State.setTag_boot (v : Tag) : (s.setTag v).boot = s.boot := rfl
@[simp] theorem State.setTag_steward (v : Tag) : (s.setTag v).steward = s.steward := rfl
@[simp] theorem State.setTag_err (v : Tag) : (s.setTag v).err = s.err := rfl
@[simp] theorem State.setTag_hle (v : Tag) : (s.setTag v).hle = s.hle := rfl
@[simp] theorem State.setTag_out (v : Tag) : (s.setTag v).out = s.out := rfl

@[simp] theorem State.setBoot_pending (v : Boot) : (s.setBoot v).pending = s.pending := rfl
@[simp] theorem State.setBoot_nowUs (v : Boot) : (s.setBoot v).nowUs = s.nowUs := rfl
@[simp] theorem State.setBoot_fresh (v : Boot) : (s.setBoot v).fresh = s.fresh := rfl
@[simp] theorem State.setBoot_phase (v : Boot) : (s.setBoot v).phase = s.phase := rfl
@[simp] theorem State.setBoot_pins (v : Boot) : (s.setBoot v).pins = s.pins := rfl
@[simp] theorem State.setBoot_link (v : Boot) : (s.setBoot v).link = s.link := rfl
@[simp] theorem State.setBoot_inv (v : Boot) : (s.setBoot v).inv = s.inv := rfl
@[simp] theorem State.setBoot_adm (v : Boot) : (s.setBoot v).adm = s.adm := rfl
@[simp] theorem State.setBoot_parts (v : Boot) : (s.setBoot v).parts = s.parts := rfl
@[simp] theorem State.setBoot_queues (v : Boot) : (s.setBoot v).queues = s.queues := rfl
@[simp] theorem State.setBoot_mem (v : Boot) : (s.setBoot v).mem = s.mem := rfl
@[simp] theorem State.setBoot_cores (v : Boot) : (s.setBoot v).cores = s.cores := rfl
@[simp] theorem State.setBoot_engines (v : Boot) : (s.setBoot v).engines = s.engines := rfl
@[simp] theorem State.setBoot_coreMems (v : Boot) : (s.setBoot v).coreMems = s.coreMems := rfl
@[simp] theorem State.setBoot_fab (v : Boot) : (s.setBoot v).fab = s.fab := rfl
@[simp] theorem State.setBoot_optics (v : Boot) : (s.setBoot v).optics = s.optics := rfl
@[simp] theorem State.setBoot_fabric (v : Boot) : (s.setBoot v).fabric = s.fabric := rfl
@[simp] theorem State.setBoot_power (v : Boot) : (s.setBoot v).power = s.power := rfl
@[simp] theorem State.setBoot_sec (v : Boot) : (s.setBoot v).sec = s.sec := rfl
@[simp] theorem State.setBoot_meter (v : Boot) : (s.setBoot v).meter = s.meter := rfl
@[simp] theorem State.setBoot_flash (v : Boot) : (s.setBoot v).flash = s.flash := rfl
@[simp] theorem State.setBoot_tag (v : Boot) : (s.setBoot v).tag = s.tag := rfl
@[simp] theorem State.setBoot_boot (v : Boot) : (s.setBoot v).boot = v := rfl
@[simp] theorem State.setBoot_steward (v : Boot) : (s.setBoot v).steward = s.steward := rfl
@[simp] theorem State.setBoot_err (v : Boot) : (s.setBoot v).err = s.err := rfl
@[simp] theorem State.setBoot_hle (v : Boot) : (s.setBoot v).hle = s.hle := rfl
@[simp] theorem State.setBoot_out (v : Boot) : (s.setBoot v).out = s.out := rfl

@[simp] theorem State.setSteward_pending (v : Steward) : (s.setSteward v).pending = s.pending := rfl
@[simp] theorem State.setSteward_nowUs (v : Steward) : (s.setSteward v).nowUs = s.nowUs := rfl
@[simp] theorem State.setSteward_fresh (v : Steward) : (s.setSteward v).fresh = s.fresh := rfl
@[simp] theorem State.setSteward_phase (v : Steward) : (s.setSteward v).phase = s.phase := rfl
@[simp] theorem State.setSteward_pins (v : Steward) : (s.setSteward v).pins = s.pins := rfl
@[simp] theorem State.setSteward_link (v : Steward) : (s.setSteward v).link = s.link := rfl
@[simp] theorem State.setSteward_inv (v : Steward) : (s.setSteward v).inv = s.inv := rfl
@[simp] theorem State.setSteward_adm (v : Steward) : (s.setSteward v).adm = s.adm := rfl
@[simp] theorem State.setSteward_parts (v : Steward) : (s.setSteward v).parts = s.parts := rfl
@[simp] theorem State.setSteward_queues (v : Steward) : (s.setSteward v).queues = s.queues := rfl
@[simp] theorem State.setSteward_mem (v : Steward) : (s.setSteward v).mem = s.mem := rfl
@[simp] theorem State.setSteward_cores (v : Steward) : (s.setSteward v).cores = s.cores := rfl
@[simp] theorem State.setSteward_engines (v : Steward) : (s.setSteward v).engines = s.engines := rfl
@[simp] theorem State.setSteward_coreMems (v : Steward) : (s.setSteward v).coreMems = s.coreMems := rfl
@[simp] theorem State.setSteward_fab (v : Steward) : (s.setSteward v).fab = s.fab := rfl
@[simp] theorem State.setSteward_optics (v : Steward) : (s.setSteward v).optics = s.optics := rfl
@[simp] theorem State.setSteward_fabric (v : Steward) : (s.setSteward v).fabric = s.fabric := rfl
@[simp] theorem State.setSteward_power (v : Steward) : (s.setSteward v).power = s.power := rfl
@[simp] theorem State.setSteward_sec (v : Steward) : (s.setSteward v).sec = s.sec := rfl
@[simp] theorem State.setSteward_meter (v : Steward) : (s.setSteward v).meter = s.meter := rfl
@[simp] theorem State.setSteward_flash (v : Steward) : (s.setSteward v).flash = s.flash := rfl
@[simp] theorem State.setSteward_tag (v : Steward) : (s.setSteward v).tag = s.tag := rfl
@[simp] theorem State.setSteward_boot (v : Steward) : (s.setSteward v).boot = s.boot := rfl
@[simp] theorem State.setSteward_steward (v : Steward) : (s.setSteward v).steward = v := rfl
@[simp] theorem State.setSteward_err (v : Steward) : (s.setSteward v).err = s.err := rfl
@[simp] theorem State.setSteward_hle (v : Steward) : (s.setSteward v).hle = s.hle := rfl
@[simp] theorem State.setSteward_out (v : Steward) : (s.setSteward v).out = s.out := rfl

@[simp] theorem State.setErr_pending (v : Err) : (s.setErr v).pending = s.pending := rfl
@[simp] theorem State.setErr_nowUs (v : Err) : (s.setErr v).nowUs = s.nowUs := rfl
@[simp] theorem State.setErr_fresh (v : Err) : (s.setErr v).fresh = s.fresh := rfl
@[simp] theorem State.setErr_phase (v : Err) : (s.setErr v).phase = s.phase := rfl
@[simp] theorem State.setErr_pins (v : Err) : (s.setErr v).pins = s.pins := rfl
@[simp] theorem State.setErr_link (v : Err) : (s.setErr v).link = s.link := rfl
@[simp] theorem State.setErr_inv (v : Err) : (s.setErr v).inv = s.inv := rfl
@[simp] theorem State.setErr_adm (v : Err) : (s.setErr v).adm = s.adm := rfl
@[simp] theorem State.setErr_parts (v : Err) : (s.setErr v).parts = s.parts := rfl
@[simp] theorem State.setErr_queues (v : Err) : (s.setErr v).queues = s.queues := rfl
@[simp] theorem State.setErr_mem (v : Err) : (s.setErr v).mem = s.mem := rfl
@[simp] theorem State.setErr_cores (v : Err) : (s.setErr v).cores = s.cores := rfl
@[simp] theorem State.setErr_engines (v : Err) : (s.setErr v).engines = s.engines := rfl
@[simp] theorem State.setErr_coreMems (v : Err) : (s.setErr v).coreMems = s.coreMems := rfl
@[simp] theorem State.setErr_fab (v : Err) : (s.setErr v).fab = s.fab := rfl
@[simp] theorem State.setErr_optics (v : Err) : (s.setErr v).optics = s.optics := rfl
@[simp] theorem State.setErr_fabric (v : Err) : (s.setErr v).fabric = s.fabric := rfl
@[simp] theorem State.setErr_power (v : Err) : (s.setErr v).power = s.power := rfl
@[simp] theorem State.setErr_sec (v : Err) : (s.setErr v).sec = s.sec := rfl
@[simp] theorem State.setErr_meter (v : Err) : (s.setErr v).meter = s.meter := rfl
@[simp] theorem State.setErr_flash (v : Err) : (s.setErr v).flash = s.flash := rfl
@[simp] theorem State.setErr_tag (v : Err) : (s.setErr v).tag = s.tag := rfl
@[simp] theorem State.setErr_boot (v : Err) : (s.setErr v).boot = s.boot := rfl
@[simp] theorem State.setErr_steward (v : Err) : (s.setErr v).steward = s.steward := rfl
@[simp] theorem State.setErr_err (v : Err) : (s.setErr v).err = v := rfl
@[simp] theorem State.setErr_hle (v : Err) : (s.setErr v).hle = s.hle := rfl
@[simp] theorem State.setErr_out (v : Err) : (s.setErr v).out = s.out := rfl

@[simp] theorem State.setHle_pending (v : Hle) : (s.setHle v).pending = s.pending := rfl
@[simp] theorem State.setHle_nowUs (v : Hle) : (s.setHle v).nowUs = s.nowUs := rfl
@[simp] theorem State.setHle_fresh (v : Hle) : (s.setHle v).fresh = s.fresh := rfl
@[simp] theorem State.setHle_phase (v : Hle) : (s.setHle v).phase = s.phase := rfl
@[simp] theorem State.setHle_pins (v : Hle) : (s.setHle v).pins = s.pins := rfl
@[simp] theorem State.setHle_link (v : Hle) : (s.setHle v).link = s.link := rfl
@[simp] theorem State.setHle_inv (v : Hle) : (s.setHle v).inv = s.inv := rfl
@[simp] theorem State.setHle_adm (v : Hle) : (s.setHle v).adm = s.adm := rfl
@[simp] theorem State.setHle_parts (v : Hle) : (s.setHle v).parts = s.parts := rfl
@[simp] theorem State.setHle_queues (v : Hle) : (s.setHle v).queues = s.queues := rfl
@[simp] theorem State.setHle_mem (v : Hle) : (s.setHle v).mem = s.mem := rfl
@[simp] theorem State.setHle_cores (v : Hle) : (s.setHle v).cores = s.cores := rfl
@[simp] theorem State.setHle_engines (v : Hle) : (s.setHle v).engines = s.engines := rfl
@[simp] theorem State.setHle_coreMems (v : Hle) : (s.setHle v).coreMems = s.coreMems := rfl
@[simp] theorem State.setHle_fab (v : Hle) : (s.setHle v).fab = s.fab := rfl
@[simp] theorem State.setHle_optics (v : Hle) : (s.setHle v).optics = s.optics := rfl
@[simp] theorem State.setHle_fabric (v : Hle) : (s.setHle v).fabric = s.fabric := rfl
@[simp] theorem State.setHle_power (v : Hle) : (s.setHle v).power = s.power := rfl
@[simp] theorem State.setHle_sec (v : Hle) : (s.setHle v).sec = s.sec := rfl
@[simp] theorem State.setHle_meter (v : Hle) : (s.setHle v).meter = s.meter := rfl
@[simp] theorem State.setHle_flash (v : Hle) : (s.setHle v).flash = s.flash := rfl
@[simp] theorem State.setHle_tag (v : Hle) : (s.setHle v).tag = s.tag := rfl
@[simp] theorem State.setHle_boot (v : Hle) : (s.setHle v).boot = s.boot := rfl
@[simp] theorem State.setHle_steward (v : Hle) : (s.setHle v).steward = s.steward := rfl
@[simp] theorem State.setHle_err (v : Hle) : (s.setHle v).err = s.err := rfl
@[simp] theorem State.setHle_hle (v : Hle) : (s.setHle v).hle = v := rfl
@[simp] theorem State.setHle_out (v : Hle) : (s.setHle v).out = s.out := rfl

@[simp] theorem State.setOut_pending (v : List Out) : (s.setOut v).pending = s.pending := rfl
@[simp] theorem State.setOut_nowUs (v : List Out) : (s.setOut v).nowUs = s.nowUs := rfl
@[simp] theorem State.setOut_fresh (v : List Out) : (s.setOut v).fresh = s.fresh := rfl
@[simp] theorem State.setOut_phase (v : List Out) : (s.setOut v).phase = s.phase := rfl
@[simp] theorem State.setOut_pins (v : List Out) : (s.setOut v).pins = s.pins := rfl
@[simp] theorem State.setOut_link (v : List Out) : (s.setOut v).link = s.link := rfl
@[simp] theorem State.setOut_inv (v : List Out) : (s.setOut v).inv = s.inv := rfl
@[simp] theorem State.setOut_adm (v : List Out) : (s.setOut v).adm = s.adm := rfl
@[simp] theorem State.setOut_parts (v : List Out) : (s.setOut v).parts = s.parts := rfl
@[simp] theorem State.setOut_queues (v : List Out) : (s.setOut v).queues = s.queues := rfl
@[simp] theorem State.setOut_mem (v : List Out) : (s.setOut v).mem = s.mem := rfl
@[simp] theorem State.setOut_cores (v : List Out) : (s.setOut v).cores = s.cores := rfl
@[simp] theorem State.setOut_engines (v : List Out) : (s.setOut v).engines = s.engines := rfl
@[simp] theorem State.setOut_coreMems (v : List Out) : (s.setOut v).coreMems = s.coreMems := rfl
@[simp] theorem State.setOut_fab (v : List Out) : (s.setOut v).fab = s.fab := rfl
@[simp] theorem State.setOut_optics (v : List Out) : (s.setOut v).optics = s.optics := rfl
@[simp] theorem State.setOut_fabric (v : List Out) : (s.setOut v).fabric = s.fabric := rfl
@[simp] theorem State.setOut_power (v : List Out) : (s.setOut v).power = s.power := rfl
@[simp] theorem State.setOut_sec (v : List Out) : (s.setOut v).sec = s.sec := rfl
@[simp] theorem State.setOut_meter (v : List Out) : (s.setOut v).meter = s.meter := rfl
@[simp] theorem State.setOut_flash (v : List Out) : (s.setOut v).flash = s.flash := rfl
@[simp] theorem State.setOut_tag (v : List Out) : (s.setOut v).tag = s.tag := rfl
@[simp] theorem State.setOut_boot (v : List Out) : (s.setOut v).boot = s.boot := rfl
@[simp] theorem State.setOut_steward (v : List Out) : (s.setOut v).steward = s.steward := rfl
@[simp] theorem State.setOut_err (v : List Out) : (s.setOut v).err = s.err := rfl
@[simp] theorem State.setOut_hle (v : List Out) : (s.setOut v).hle = s.hle := rfl
@[simp] theorem State.setOut_out (v : List Out) : (s.setOut v).out = v := rfl

end Sys2Proof.Machine
end

