-- ==== Sys2Proof/Laws/Kept.lean ====
section
/-! SUPPORT. What no operation of the module breaks, as one relation that is carried through every operation: the queue of waiting commands, the canonical memories, the level in force, MOD_READY, and the numbers of queues, partitions and cores. -/

namespace Sys2Proof.Machine

/-- The numbers of queues, partitions and physical cores (R23, R245, R253). -/
def Shape (s : State) : Prop := s.queues.length = 64 ∧ s.parts.length = 16 ∧ s.cores.length = 864

/-- From `s` to `t` the queue of waiting commands is the same, and each invariant that `s` meets is met by `t`. -/
structure Keeps (s t : State) : Prop where
  pending : t.pending = s.pending
  canon : Safety.MemoryCanonical s → Safety.MemoryCanonical t
  level : Safety.LevelAgrees s → Safety.LevelAgrees t
  ready : Safety.ReadyOnlyRunning s → Safety.ReadyOnlyRunning t
  shape : Shape s → Shape t

theorem Keeps.refl (s : State) : Keeps s s := ⟨rfl, id, id, id, id⟩

theorem Keeps.trans {s t u : State} (h : Keeps s t) (k : Keeps t u) : Keeps s u :=
  ⟨k.pending.trans h.pending, k.canon ∘ h.canon, k.level ∘ h.level, k.ready ∘ h.ready, k.shape ∘ h.shape⟩

/-- A pair whose state is kept. -/
structure KeepsP {α : Type} (s0 : State) (p : State × α) : Prop where
  out : ∀ t x, p = (t, x) → Keeps s0 t

/-- A pair whose second part is a state that is kept. -/
structure KeepsQ {α : Type} (s0 : State) (p : α × State) : Prop where
  out : ∀ x t, p = (x, t) → Keeps s0 t

/-- A triple whose last part is a state that is kept. -/
structure KeepsQ2 {α β : Type} (s0 : State) (p : α × β × State) : Prop where
  out : ∀ x y t, p = (x, y, t) → Keeps s0 t

/-- An optional state that is kept. -/
structure KeepsO (s0 : State) (p : Option State) : Prop where
  out : ∀ t, p = some t → Keeps s0 t

/-- An optional triple whose middle part is a state that is kept. -/
structure KeepsOX {α β : Type} (s0 : State) (p : Option (α × State × β)) : Prop where
  out : ∀ x t y, p = some (x, t, y) → Keeps s0 t

/-- An outcome whose next state, if it has one, is kept. -/
structure KeepsR (s0 : State) (r : Result) : Prop where
  out : ∀ t, r = .next t → Keeps s0 t

theorem KeepsP.pair {α : Type} {s0 t : State} {x : α} (h : Keeps s0 t) : KeepsP s0 (t, x) := ⟨by intro _ _ e; cases e; exact h⟩
theorem KeepsQ.pair {α : Type} {s0 t : State} {x : α} (h : Keeps s0 t) : KeepsQ s0 (x, t) := ⟨by intro _ _ e; cases e; exact h⟩
theorem KeepsQ2.pair {α β : Type} {s0 t : State} {x : α} {y : β} (h : Keeps s0 t) : KeepsQ2 s0 (x, y, t) := ⟨by intro _ _ _ e; cases e; exact h⟩
theorem KeepsO.none {s0 : State} : KeepsO s0 none := ⟨by intro _ e; cases e⟩
theorem KeepsO.some {s0 t : State} (h : Keeps s0 t) : KeepsO s0 (some t) := ⟨by intro _ e; cases e; exact h⟩
theorem KeepsOX.none {α β : Type} {s0 : State} : KeepsOX s0 (none : Option (α × State × β)) := ⟨by intro _ _ _ e; cases e⟩
theorem KeepsOX.some {α β : Type} {s0 t : State} {x : α} {y : β} (h : Keeps s0 t) : KeepsOX s0 (some (x, t, y)) := ⟨by intro _ _ _ e; cases e; exact h⟩
theorem KeepsR.next {s0 t : State} (h : Keeps s0 t) : KeepsR s0 (.next t) := ⟨by intro _ e; cases e; exact h⟩
theorem KeepsR.fault {s0 : State} {r : Fault} : KeepsR s0 (.fault r) := ⟨by intro _ e; cases e⟩

theorem KeepsP.of {α : Type} {s0 t : State} {p : State × α} {x : α} (h : KeepsP s0 p) (e : p = (t, x)) : Keeps s0 t := h.out _ _ e
theorem KeepsQ.of {α : Type} {s0 t : State} {p : α × State} {x : α} (h : KeepsQ s0 p) (e : p = (x, t)) : Keeps s0 t := h.out _ _ e
theorem KeepsQ2.of {α β : Type} {s0 t : State} {p : α × β × State} {x : α} {y : β} (h : KeepsQ2 s0 p) (e : p = (x, y, t)) : Keeps s0 t := h.out _ _ _ e
theorem KeepsO.of {s0 t : State} {p : Option State} (h : KeepsO s0 p) (e : p = Option.some t) : Keeps s0 t := h.out _ e
theorem KeepsOX.of {α β : Type} {s0 t : State} {p : Option (α × State × β)} {x : α} {y : β} (h : KeepsOX s0 p) (e : p = Option.some (x, t, y)) : Keeps s0 t := h.out _ _ _ e
theorem KeepsP.fst {α : Type} {s0 : State} {p : State × α} (h : KeepsP s0 p) : Keeps s0 p.1 := h.out _ _ rfl
theorem KeepsQ.snd {α : Type} {s0 : State} {p : α × State} (h : KeepsQ s0 p) : Keeps s0 p.2 := h.out _ _ rfl

/-- A choice between two kept states. -/
theorem Keeps.ite {c : Prop} [Decidable c] {s0 a b : State} (ha : Keeps s0 a) (hb : Keeps s0 b) : Keeps s0 (if c then a else b) := by
  split
  · exact ha
  · exact hb

/-- A fold whose steps keep keeps. -/
theorem Keeps.foldl {α : Type} {s0 : State} (f : State → α → State) (l : List α) (s : State)
    (hf : ∀ s x, Keeps s0 s → Keeps s0 (f s x)) (h : Keeps s0 s) : Keeps s0 (l.foldl f s) := by
  induction l generalizing s with
  | nil => exact h
  | cons x r ih => exact ih _ (hf _ _ h)

section
variable {s0 s : State}

theorem Keeps.setNowUs (v : Nat) (h : Keeps s0 s) : Keeps s0 (s.setNowUs v) := h.trans ⟨rfl, id, id, id, id⟩
theorem Keeps.setFresh (v : Nat) (h : Keeps s0 s) : Keeps s0 (s.setFresh v) := h.trans ⟨rfl, id, id, id, id⟩
theorem Keeps.setInv (v : Inv) (h : Keeps s0 s) : Keeps s0 (s.setInv v) := h.trans ⟨rfl, id, id, id, id⟩
theorem Keeps.setAdm (v : Adm) (h : Keeps s0 s) : Keeps s0 (s.setAdm v) := h.trans ⟨rfl, id, id, id, id⟩
theorem Keeps.setEngines (v : List (Nat × TileCtx)) (h : Keeps s0 s) : Keeps s0 (s.setEngines v) := h.trans ⟨rfl, id, id, id, id⟩
theorem Keeps.setCoreMems (v : List (Nat × CoreMem)) (h : Keeps s0 s) : Keeps s0 (s.setCoreMems v) := h.trans ⟨rfl, id, id, id, id⟩
theorem Keeps.setFab (v : Fab) (h : Keeps s0 s) : Keeps s0 (s.setFab v) := h.trans ⟨rfl, id, id, id, id⟩
theorem Keeps.setOptics (v : Optics) (h : Keeps s0 s) : Keeps s0 (s.setOptics v) := h.trans ⟨rfl, id, id, id, id⟩
theorem Keeps.setFabric (v : Fabric) (h : Keeps s0 s) : Keeps s0 (s.setFabric v) := h.trans ⟨rfl, id, id, id, id⟩
theorem Keeps.setPower (v : Power) (h : Keeps s0 s) : Keeps s0 (s.setPower v) := h.trans ⟨rfl, id, id, id, id⟩
theorem Keeps.setSec (v : Sec) (h : Keeps s0 s) : Keeps s0 (s.setSec v) := h.trans ⟨rfl, id, id, id, id⟩
theorem Keeps.setMeter (v : Meter) (h : Keeps s0 s) : Keeps s0 (s.setMeter v) := h.trans ⟨rfl, id, id, id, id⟩
theorem Keeps.setFlash (v : Flash) (h : Keeps s0 s) : Keeps s0 (s.setFlash v) := h.trans ⟨rfl, id, id, id, id⟩
theorem Keeps.setTag (v : Tag) (h : Keeps s0 s) : Keeps s0 (s.setTag v) := h.trans ⟨rfl, id, id, id, id⟩
theorem Keeps.setBoot (v : Boot) (h : Keeps s0 s) : Keeps s0 (s.setBoot v) := h.trans ⟨rfl, id, id, id, id⟩
theorem Keeps.setSteward (v : Steward) (h : Keeps s0 s) : Keeps s0 (s.setSteward v) := h.trans ⟨rfl, id, id, id, id⟩
theorem Keeps.setErr (v : Err) (h : Keeps s0 s) : Keeps s0 (s.setErr v) := h.trans ⟨rfl, id, id, id, id⟩
theorem Keeps.setHle (v : Hle) (h : Keeps s0 s) : Keeps s0 (s.setHle v) := h.trans ⟨rfl, id, id, id, id⟩
theorem Keeps.setOut (v : List Out) (h : Keeps s0 s) : Keeps s0 (s.setOut v) := h.trans ⟨rfl, id, id, id, id⟩

theorem Keeps.setPhase (v : RunPhase) (h : Keeps s0 s) (hr : v = .run ∨ s.pins.ready = false) : Keeps s0 (s.setPhase v) :=
  h.trans ⟨rfl, id, id, fun _ k => hr.elim (fun e => e) (fun e => by simp [e] at k), id⟩
theorem Keeps.setPins (v : Pins) (h : Keeps s0 s) (hr : v.ready = s.pins.ready ∨ v.ready = false ∨ s.phase = .run) : Keeps s0 (s.setPins v) :=
  h.trans ⟨rfl, id, id, fun r k => by
    rcases hr with e | e | e
    · exact r (e ▸ k)
    · simp [e] at k
    · exact e, id⟩
theorem Keeps.setLink (v : Link) (h : Keeps s0 s) (hl : (v.hostLevel = s.link.hostLevel ∧ v.effLevel = s.link.effLevel) ∨ v.effLevel = effLevelOf v.hostLevel) : Keeps s0 (s.setLink v) :=
  h.trans ⟨rfl, id, fun l => by
    rcases hl with e | e
    · unfold Safety.LevelAgrees at *; simp [e.1, e.2, l]
    · exact e, id, id⟩
theorem Keeps.setParts (v : List Part) (h : Keeps s0 s) (hl : v.length = s.parts.length) : Keeps s0 (s.setParts v) :=
  h.trans ⟨rfl, id, id, id, fun k => ⟨k.1, hl.trans k.2.1, k.2.2⟩⟩
theorem Keeps.setQueues (v : List Queue) (h : Keeps s0 s) (hl : v.length = s.queues.length) : Keeps s0 (s.setQueues v) :=
  h.trans ⟨rfl, id, id, id, fun k => ⟨hl.trans k.1, k.2⟩⟩
theorem Keeps.setCores (v : List PhysCore) (h : Keeps s0 s) (hl : v.length = s.cores.length ∨ v.length = 864) : Keeps s0 (s.setCores v) :=
  h.trans ⟨rfl, id, id, id, fun k => ⟨k.1, k.2.1, hl.elim (fun e => e.trans k.2.2) id⟩⟩
theorem Keeps.setMem (v : Mem) (h : Keeps s0 s) (hm : Safety.MemoryCanonical s → Memory.wf v.dev = true ∧ Memory.wf v.hostMem = true) : Keeps s0 (s.setMem v) :=
  h.trans ⟨rfl, hm, id, id, id⟩

end

end Sys2Proof.Machine
end

