-- ==== Sys2Proof/Laws/KeptOps.lean ====
section
/-! SUPPORT. What the operations and commands of the shared operations, operands, chains, tiles and matrix commands keep. -/

namespace Sys2Proof.Machine

theorem Keeps.modPart {s0 : State} (s : State) (p : Nat) (f : Part → Part) (h : Keeps s0 s) : Keeps s0 (State.modPart s p f) := by
  unfold Sys2Proof.Machine.State.modPart
  try dsimp only
  repeat' first | with_reducible assumption | with_reducible refine Keeps.setParts _ ?_ ?_ | dsimp only | simp

theorem Keeps.modQueue {s0 : State} (s : State) (q : Nat) (f : Queue → Queue) (h : Keeps s0 s) : Keeps s0 (State.modQueue s q f) := by
  unfold Sys2Proof.Machine.State.modQueue
  try dsimp only
  repeat' first | with_reducible assumption | with_reducible refine Keeps.setQueues _ ?_ ?_ | dsimp only | simp

theorem Keeps.modPort {s0 : State} (s : State) (a1 : Nat) (f : Port → Port) (h : Keeps s0 s) : Keeps s0 (State.modPort s a1 f) := by
  unfold Sys2Proof.Machine.State.modPort
  try dsimp only
  repeat' first | with_reducible assumption | with_reducible refine Keeps.setOptics _ ?_

theorem Keeps.modLaser {s0 : State} (s : State) (c : Nat) (f : Laser → Laser) (h : Keeps s0 s) : Keeps s0 (State.modLaser s c f) := by
  unfold Sys2Proof.Machine.State.modLaser
  try dsimp only
  repeat' first | with_reducible assumption | with_reducible refine Keeps.setOptics _ ?_

theorem Keeps.modCore {s0 : State} (s : State) (a1 : Nat) (f : PhysCore → PhysCore) (h : Keeps s0 s) : Keeps s0 (State.modCore s a1 f) := by
  unfold Sys2Proof.Machine.State.modCore
  try dsimp only
  repeat' first | with_reducible assumption | with_reducible refine Keeps.setCores _ ?_ ?_ | dsimp only | simp

theorem Keeps.setDev {s0 : State} (s : State) (m : Memory) (h : Keeps s0 s) (hm : Safety.MemoryCanonical s → Memory.wf m = true) : Keeps s0 (s.setDev m) :=
  Keeps.setMem _ h fun k => ⟨hm k, k.2⟩

theorem Keeps.setHostMem {s0 : State} (s : State) (m : Memory) (h : Keeps s0 s) (hm : Safety.MemoryCanonical s → Memory.wf m = true) : Keeps s0 (s.setHostMem m) :=
  Keeps.setMem _ h fun k => ⟨k.1, hm k⟩

theorem Keeps.hostWrite {s0 : State} (s : State) (a : Nat) (bs : Bytes) (h : Keeps s0 s) : Keeps s0 (s.hostWrite a bs) :=
  Keeps.setHostMem _ _ h fun k => Memory.wf_write _ _ _ k.2

theorem Keeps.setLine {s0 : State} (s : State) (l : DirLine) (h : Keeps s0 s) : Keeps s0 (State.setLine s l) := by
  unfold Sys2Proof.Machine.State.setLine
  try dsimp only
  repeat'
      first
      | with_reducible assumption | with_reducible refine Keeps.setFabric _ ?_

theorem Keeps.evictLine {s0 : State} (s : State) (line : Nat) (h : Keeps s0 s) : Keeps s0 (State.evictLine s line) := by
  unfold Sys2Proof.Machine.State.evictLine
  try dsimp only
  repeat' first | with_reducible assumption | with_reducible refine Keeps.setLine _ _ ?_ | with_reducible refine Keeps.hostWrite _ _ _ ?_ | split

theorem Keeps.emit {s0 : State} (s : State) (o : Out) (h : Keeps s0 s) : Keeps s0 (State.emit s o) := by
  unfold Sys2Proof.Machine.State.emit
  try dsimp only
  repeat' first | with_reducible assumption | with_reducible refine Keeps.setOut _ ?_

theorem Keeps.cxlAsk {s0 : State} (s : State) (rs : List CxlReq) (ls : List Nat) (h : Keeps s0 s) : Keeps s0 (State.cxlAsk s rs ls) := by
  unfold Sys2Proof.Machine.State.cxlAsk
  try dsimp only
  repeat' first | with_reducible assumption | with_reducible refine Keeps.setOut _ ?_

theorem Keeps.coherentWrite {s0 : State} (s : State) (a : Nat) (bs : Bytes) (h : Keeps s0 s) : Keeps s0 (State.coherentWrite s a bs) := by
  unfold Sys2Proof.Machine.State.coherentWrite
  try dsimp only
  repeat'
      first
      | with_reducible assumption | with_reducible refine Keeps.cxlAsk _ _ _ ?_ | with_reducible refine Keeps.evictLine _ _ ?_
      | with_reducible refine Keeps.hostWrite _ _ _ ?_ | with_reducible refine Keeps.foldl _ _ _ ?_ ?_ | intro _

theorem Keeps.draw {s0 : State} (s : State) (h : Keeps s0 s) : KeepsQ s0 (State.draw s) := by
  unfold Sys2Proof.Machine.State.draw
  try dsimp only
  repeat' first | with_reducible assumption | with_reducible refine Keeps.setFresh _ ?_ | with_reducible refine KeepsQ.pair ?_

theorem Keeps.msix {s0 : State} (s : State) (v : Nat) (h : Keeps s0 s) : Keeps s0 (State.msix s v) := by
  unfold Sys2Proof.Machine.State.msix
  try dsimp only
  repeat'
      first
      | with_reducible assumption | with_reducible refine Keeps.setLink _ ?_ ?_ | with_reducible refine Keeps.emit _ _ ?_
      | with_reducible refine Keeps.ite ?_ ?_ | split | dsimp only | exact Or.inr rfl | simp

theorem Keeps.flushVec {s0 : State} (s : State) (h : Keeps s0 s) : Keeps s0 (State.flushVec s) := by
  unfold Sys2Proof.Machine.State.flushVec
  try dsimp only
  repeat'
      first
      | with_reducible assumption | with_reducible refine Keeps.setLink _ ?_ ?_ | with_reducible refine Keeps.msix _ _ ?_
      | with_reducible refine Keeps.foldl _ _ _ ?_ ?_ | with_reducible refine Keeps.ite ?_ ?_ | intro _ | split | dsimp only | exact Or.inr rfl
      | simp

theorem Keeps.raiseIrq {s0 : State} (s : State) (h : Keeps s0 s) : Keeps s0 (State.raiseIrq s) := by
  unfold Sys2Proof.Machine.State.raiseIrq
  try dsimp only
  repeat'
      first
      | with_reducible assumption | with_reducible refine Keeps.setErr _ ?_ | with_reducible refine Keeps.msix _ _ ?_
      | with_reducible refine Keeps.ite ?_ ?_ | split

theorem Keeps.faultLog {s0 : State} (s : State) (cls : Nat) (part : Option Nat) (code : Nat) (detail : Bytes) (h : Keeps s0 s) : Keeps s0 (State.faultLog s cls part code detail) := by
  unfold Sys2Proof.Machine.State.faultLog
  try dsimp only
  repeat'
      first
      | with_reducible assumption | with_reducible refine Keeps.setErr _ ?_ | with_reducible refine Keeps.setFlash _ ?_
      | with_reducible refine Keeps.ite ?_ ?_

theorem Keeps.event {s0 : State} (s : State) (cls code : Nat) (part : Option Nat) (detail : Bytes) (h : Keeps s0 s) : Keeps s0 (State.event s cls code part detail) := by
  unfold Sys2Proof.Machine.State.event
  try dsimp only
  repeat'
      first
      | with_reducible assumption | with_reducible refine Keeps.setErr _ ?_ | with_reducible refine Keeps.faultLog _ _ _ _ _ ?_
      | with_reducible refine Keeps.raiseIrq _ ?_ | with_reducible refine Keeps.ite ?_ ?_

theorem Keeps.raise {s0 : State} (s : State) (code : Nat) (h : Keeps s0 s) : Keeps s0 (State.raise s code) := by
  unfold Sys2Proof.Machine.State.raise
  try dsimp only
  repeat' first | with_reducible assumption | with_reducible refine Keeps.event _ _ _ _ _ ?_

theorem Keeps.raiseP {s0 : State} (s : State) (code p : Nat) (h : Keeps s0 s) : Keeps s0 (State.raiseP s code p) := by
  unfold Sys2Proof.Machine.State.raiseP
  try dsimp only
  repeat' first | with_reducible assumption | with_reducible refine Keeps.event _ _ _ _ _ ?_

theorem Keeps.raiseLimited {s0 : State} (s : State) (code key gapUs : Nat) (part : Option Nat) (h : Keeps s0 s) : Keeps s0 (State.raiseLimited s code key gapUs part) := by
  unfold Sys2Proof.Machine.State.raiseLimited
  try dsimp only
  repeat'
      first
      | with_reducible assumption | with_reducible refine Keeps.setErr _ ?_ | with_reducible refine Keeps.event _ _ _ _ _ ?_
      | with_reducible refine Keeps.ite ?_ ?_

theorem Keeps.capacityChange {s0 : State} (s : State) (reg1 reg2 num : Nat) (h : Keeps s0 s) : Keeps s0 (State.capacityChange s reg1 reg2 num) := by
  unfold Sys2Proof.Machine.State.capacityChange
  try dsimp only
  repeat' first | with_reducible assumption | with_reducible refine Keeps.event _ _ _ _ _ ?_ | with_reducible refine Keeps.ite ?_ ?_

theorem Keeps.sbSet {s0 : State} (s : State) (a1 : Nat) (h : Keeps s0 s) : Keeps s0 (State.sbSet s a1) := by
  unfold Sys2Proof.Machine.State.sbSet
  try dsimp only
  repeat' first | with_reducible assumption | with_reducible refine Keeps.setSteward _ ?_

theorem Keeps.wakeNow {s0 : State} (s : State) (h : Keeps s0 s) : Keeps s0 (State.wakeNow s) := by
  unfold Sys2Proof.Machine.State.wakeNow
  try dsimp only
  repeat'
      first
      | with_reducible assumption | with_reducible refine Keeps.setOptics _ ?_ | with_reducible refine Keeps.setPower _ ?_
      | with_reducible refine Keeps.ite ?_ ?_

theorem Keeps.setClocks {s0 : State} (s : State) (h : Keeps s0 s) : Keeps s0 (State.setClocks s) := by
  unfold Sys2Proof.Machine.State.setClocks
  try dsimp only
  repeat'
      first
      | with_reducible assumption | with_reducible refine Keeps.setCores _ ?_ ?_ | with_reducible refine Keeps.ite ?_ ?_ | intro _ | split | dsimp only
      | simp

theorem Keeps.pwrRaise {s0 : State} (s : State) (code : Nat) (h : Keeps s0 s) : Keeps s0 (State.pwrRaise s code) := by
  unfold Sys2Proof.Machine.State.pwrRaise
  try dsimp only
  repeat' first | with_reducible assumption | with_reducible refine Keeps.wakeNow _ ?_ | with_reducible refine Keeps.raise _ _ ?_

theorem Keeps.pwrEvent {s0 : State} (s : State) (b : Nat) (h : Keeps s0 s) : Keeps s0 (State.pwrEvent s b) := by
  unfold Sys2Proof.Machine.State.pwrEvent
  try dsimp only
  repeat'
      first
      | with_reducible assumption | with_reducible refine Keeps.setPower _ ?_ | with_reducible refine Keeps.wakeNow _ ?_
      | with_reducible refine Keeps.sbSet _ _ ?_ | with_reducible refine Keeps.ite ?_ ?_

theorem Keeps.mapChanged {s0 : State} (s : State) (h : Keeps s0 s) : Keeps s0 (State.mapChanged s) := by
  unfold Sys2Proof.Machine.State.mapChanged
  try dsimp only
  repeat' first | with_reducible assumption | with_reducible refine Keeps.setFlash _ ?_

theorem Keeps.driftChanged {s0 : State} (s : State) (h : Keeps s0 s) : Keeps s0 (State.driftChanged s) := by
  unfold Sys2Proof.Machine.State.driftChanged
  try dsimp only
  repeat' first | with_reducible assumption | with_reducible refine Keeps.setFlash _ ?_

theorem Keeps.countCores {s0 : State} (s : State) (h : Keeps s0 s) : Keeps s0 (State.countCores s) := by
  unfold Sys2Proof.Machine.State.countCores
  try dsimp only
  repeat' first | with_reducible assumption | with_reducible refine Keeps.setInv _ ?_

theorem Keeps.hostAccess {s0 : State} (s : State) (h : Keeps s0 s) : Keeps s0 (State.hostAccess s) := by
  unfold Sys2Proof.Machine.State.hostAccess
  try dsimp only
  repeat'
      first
      | with_reducible assumption | with_reducible refine Keeps.setLink _ ?_ ?_ | with_reducible refine Keeps.msix _ _ ?_
      | with_reducible refine Keeps.ite ?_ ?_ | split | dsimp only | exact Or.inr rfl | simp

theorem Keeps.bar0 {s0 : State} (s : State) (f : State → State) (h : Keeps s0 s) (hf : ∀ x, Keeps s0 x → Keeps s0 (f x)) : Keeps s0 (s.bar0 f) := by
  unfold State.bar0
  split
  · exact hf _ (Keeps.hostAccess _ (Keeps.wakeNow _ h))
  · exact h

theorem Keeps.seen {s0 : State} (s : State) (h : Keeps s0 s) : Keeps s0 (State.seen s) := by
  unfold Sys2Proof.Machine.State.seen
  try dsimp only
  repeat'
      first
      | with_reducible assumption | with_reducible refine Keeps.hostAccess _ ?_ | with_reducible refine Keeps.wakeNow _ ?_
      | with_reducible refine Keeps.ite ?_ ?_

theorem Keeps.tick {s0 : State} (s : State) (h : Keeps s0 s) : Keeps s0 (State.tick s) := by
  unfold Sys2Proof.Machine.State.tick
  try dsimp only
  repeat'
      first
      | with_reducible assumption | with_reducible refine Keeps.setNowUs _ ?_ | with_reducible refine Keeps.setErr _ ?_
      | with_reducible refine Keeps.msix _ _ ?_ | with_reducible refine Keeps.ite ?_ ?_ | split

theorem Keeps.setSlabs {s0 : State} (s : State) (v : List Slab) (h : Keeps s0 s) : Keeps s0 (State.setSlabs s v) := by
  unfold Sys2Proof.Machine.State.setSlabs
  try dsimp only
  repeat'
      first
      | with_reducible assumption | with_reducible refine Keeps.setMem _ ?_ ?_ | exact fun (k : Safety.MemoryCanonical _) => k

theorem Keeps.modSlab {s0 : State} (s : State) (a1 : Nat) (f : Slab → Slab) (h : Keeps s0 s) : Keeps s0 (State.modSlab s a1 f) := by
  unfold Sys2Proof.Machine.State.modSlab
  try dsimp only
  repeat'
      first
      | with_reducible assumption | with_reducible refine Keeps.setSlabs _ _ ?_

theorem Keeps.setMigrations {s0 : State} (s : State) (v : List Migration) (h : Keeps s0 s) : Keeps s0 (State.setMigrations s v) := by
  unfold Sys2Proof.Machine.State.setMigrations
  try dsimp only
  repeat'
      first
      | with_reducible assumption | with_reducible refine Keeps.setMem _ ?_ ?_ | exact fun (k : Safety.MemoryCanonical _) => k

theorem Keeps.touch {s0 : State} (s : State) (read : Bool) (a a3 : Nat) (h : Keeps s0 s) : Keeps s0 (State.touch s read a a3) := by
  unfold Sys2Proof.Machine.State.touch
  try dsimp only
  repeat'
      first
      | with_reducible assumption | with_reducible refine Keeps.setSlabs _ _ ?_

theorem Keeps.choosePlace {s0 : State} (s : State) (p : Nat) (t1Only : Bool) (h : Keeps s0 s) : KeepsQ s0 (State.choosePlace s p t1Only) := by
  unfold Sys2Proof.Machine.State.choosePlace
  try dsimp only
  repeat'
      first
      | with_reducible assumption | with_reducible refine Keeps.draw _ ?_ | with_reducible refine KeepsQ.of (Keeps.draw _ ?_) (by assumption)
      | with_reducible refine KeepsQ.snd (Keeps.draw _ ?_) | with_reducible refine KeepsQ.pair ?_ | split | dsimp only

theorem Keeps.nextFrame {s0 : State} (s : State) (h : Keeps s0 s) : KeepsQ s0 (State.nextFrame s) := by
  unfold Sys2Proof.Machine.State.nextFrame
  try dsimp only
  repeat'
      first
      | with_reducible assumption | with_reducible refine Keeps.setMem _ ?_ ?_ | with_reducible refine KeepsQ.pair ?_
      | exact fun (k : Safety.MemoryCanonical _) => k

theorem Keeps.frameFor {s0 : State} (s : State) (a1 : Tier) (lease : Option (Nat × Nat)) (h : Keeps s0 s) : KeepsQ s0 (State.frameFor s a1 lease) := by
  unfold Sys2Proof.Machine.State.frameFor
  try dsimp only
  repeat'
      first
      | with_reducible assumption | with_reducible refine Keeps.nextFrame _ ?_ | with_reducible refine KeepsQ.of (Keeps.nextFrame _ ?_) (by assumption)
      | with_reducible refine KeepsQ.snd (Keeps.nextFrame _ ?_) | with_reducible refine KeepsQ.pair ?_ | split

theorem Keeps.addSlab {s0 : State} (s : State) (a1 : Slab) (h : Keeps s0 s) : Keeps s0 (State.addSlab s a1) := by
  unfold Sys2Proof.Machine.State.addSlab
  try dsimp only
  repeat' first | with_reducible assumption | with_reducible refine Keeps.setSlabs _ _ ?_

theorem Keeps.mapRegion {s0 : State} (s : State) (p : Nat) (d : RegionDesc) (h : Keeps s0 s) : Keeps s0 (State.mapRegion s p d) := by
  unfold Sys2Proof.Machine.State.mapRegion
  try dsimp only
  repeat'
      first
      | with_reducible assumption | with_reducible refine Keeps.setMem _ ?_ ?_ | with_reducible refine Keeps.addSlab _ _ ?_
      | with_reducible refine Keeps.setSlabs _ _ ?_ | with_reducible refine Keeps.foldl _ _ _ ?_ ?_ | with_reducible refine Keeps.ite ?_ ?_
      | exact fun (k : Safety.MemoryCanonical _) => k | exact fun k => ⟨Memory.wf_clear _ _ _ k.1, k.2⟩ | exact fun k => Memory.wf_clear _ _ _ k.1 | intro _

theorem Keeps.ringToHost {s0 : State} (s : State) (a : Nat) (data : Bytes) (h : Keeps s0 s) : Keeps s0 (State.ringToHost s a data) := by
  unfold Sys2Proof.Machine.State.ringToHost
  try dsimp only
  repeat'
      first
      | with_reducible assumption | with_reducible refine Keeps.coherentWrite _ _ _ ?_ | with_reducible refine Keeps.foldl _ _ _ ?_ ?_
      | with_reducible refine Keeps.ite ?_ ?_ | intro _ | split

theorem Keeps.writeInPlace {s0 : State} (s : State) (a : Nat) (data : Bytes) (h : Keeps s0 s) : Keeps s0 (State.writeInPlace s a data) := by
  unfold Sys2Proof.Machine.State.writeInPlace
  try dsimp only
  repeat'
      first
      | with_reducible assumption | with_reducible refine Keeps.ringToHost _ _ _ ?_ | with_reducible refine Keeps.setSlabs _ _ ?_
      | with_reducible refine Keeps.setDev _ _ ?_ ?_ | with_reducible refine Keeps.ite ?_ ?_ | exact fun (k : Safety.MemoryCanonical _) => k
      | exact fun k => Memory.wf_write _ _ _ k.1

theorem Keeps.hostAlter {s0 : State} (s : State) (a : Nat) (data : Bytes) (a3 : Nat) (h : Keeps s0 s) : Keeps s0 (State.hostAlter s a data a3) := by
  unfold Sys2Proof.Machine.State.hostAlter
  try dsimp only
  repeat'
      first
      | with_reducible assumption | with_reducible refine Keeps.modSlab _ _ _ ?_ | with_reducible refine Keeps.setDev _ _ ?_ ?_
      | with_reducible refine Keeps.ite ?_ ?_ | exact fun (k : Safety.MemoryCanonical _) => k | exact fun k => Memory.wf_write _ _ _ k.1 | intro _ | split

@[simp] theorem State.hostAlter_link (s : State) (a : Nat) (data : Bytes) (h : Nat) : (s.hostAlter a data h).link = s.link := by
  unfold State.hostAlter
  dsimp only
  split
  · rfl
  · split
    · simp only [State.setDev, State.setMem_link]
    · simp only [State.modSlab, State.setSlabs, State.setDev, State.setMem_link]

theorem State.hostAlters_link (s : State) (a : Nat) (data : Bytes) (l : List Nat) : (l.foldl (fun s h => s.hostAlter a data h) s).link = s.link := by
  induction l generalizing s with
  | nil => rfl
  | cons x r ih => exact (ih _).trans (State.hostAlter_link _ _ _ _)

@[simp] theorem State.hostStore_link (s : State) (l : List HostBlk) : (s.hostStore l).link = s.link := by
  induction l generalizing s with
  | nil => rfl
  | cons x r ih => rw [State.hostStore, ih, State.hostAlters_link, State.hostWrite, State.setHostMem, State.setMem_link]

theorem Keeps.hostStore {s0 : State} (s : State) (l : List HostBlk) (h : Keeps s0 s) : Keeps s0 (s.hostStore l) := by
  induction l generalizing s with
  | nil => exact h
  | cons x r ih => exact ih _ (Keeps.foldl _ _ _ (fun _ _ k => Keeps.hostAlter _ _ _ _ k) (Keeps.hostWrite _ _ _ h))

theorem Keeps.modAdm {s0 : State} (s : State) (f : Adm → Adm) (h : Keeps s0 s) : Keeps s0 (State.modAdm s f) := by
  unfold Sys2Proof.Machine.State.modAdm
  try dsimp only
  repeat' first | with_reducible assumption | with_reducible refine Keeps.setAdm _ ?_

theorem Keeps.setCredit {s0 : State} (s : State) (a1 p o v : Nat) (h : Keeps s0 s) : Keeps s0 (State.setCredit s a1 p o v) := by
  unfold Sys2Proof.Machine.State.setCredit
  try dsimp only
  repeat' first | with_reducible assumption | with_reducible refine Keeps.modAdm _ _ ?_

theorem Keeps.countWait {s0 : State} (s : State) (w : CreditReq) (h : Keeps s0 s) : Keeps s0 (State.countWait s w) := by
  unfold Sys2Proof.Machine.State.countWait
  try dsimp only
  repeat' first | with_reducible assumption | with_reducible refine Keeps.modPart _ _ _ ?_

theorem Keeps.holdShares {s0 : State} (s : State) (a1 p : Nat) (l : List (Nat × Nat)) (h : Keeps s0 s) : Keeps s0 (State.holdShares s a1 p l) := by
  unfold Sys2Proof.Machine.State.holdShares
  try dsimp only
  repeat'
      first
      | with_reducible assumption | with_reducible refine Keeps.setCredit _ _ _ _ _ ?_ | with_reducible refine Keeps.foldl _ _ _ ?_ ?_ | intro _

theorem Keeps.askCredit {s0 : State} (s : State) (a1 p cls a4 who : Nat) (h : Keeps s0 s) : KeepsQ s0 (State.askCredit s a1 p cls a4 who) := by
  unfold Sys2Proof.Machine.State.askCredit
  try dsimp only
  repeat'
      first
      | with_reducible assumption | with_reducible refine Keeps.holdShares _ _ _ _ ?_ | with_reducible refine Keeps.countWait _ _ ?_
      | with_reducible refine Keeps.modAdm _ _ ?_ | with_reducible refine KeepsQ.pair ?_ | intro _ | split

theorem Keeps.releaseFrom {s0 : State} (r p : Nat) (l : List Nat) (n : Nat) (s : State) (h : Keeps s0 s) : Keeps s0 (State.releaseFrom r p l n s) := by
  induction l generalizing n s with
  | nil => cases n <;> exact h
  | cons o l ih =>
    cases n with
    | zero => exact h
    | succ n => exact ih _ _ (Keeps.ite h (Keeps.setCredit _ _ _ _ _ h))

theorem Keeps.releaseCredit {s0 : State} (s : State) (a1 p a3 : Nat) (h : Keeps s0 s) : Keeps s0 (State.releaseCredit s a1 p a3) := by
  unfold Sys2Proof.Machine.State.releaseCredit
  try dsimp only
  repeat' first | with_reducible assumption | with_reducible refine Keeps.releaseFrom _ _ _ _ _ ?_

theorem Keeps.dropWaiting {s0 : State} (s : State) (who : Nat) (h : Keeps s0 s) : Keeps s0 (State.dropWaiting s who) := by
  unfold Sys2Proof.Machine.State.dropWaiting
  try dsimp only
  repeat'
      first
      | with_reducible assumption | with_reducible refine Keeps.countWait _ _ ?_ | with_reducible refine Keeps.modAdm _ _ ?_
      | with_reducible refine Keeps.foldl _ _ _ ?_ ?_ | intro _

theorem Keeps.orderMoves {s0 : State} (s : State) (b : Nat) (h : Keeps s0 s) : Keeps s0 (State.orderMoves s b) := by
  unfold Sys2Proof.Machine.State.orderMoves
  try dsimp only
  repeat' first | with_reducible assumption | with_reducible refine Keeps.modAdm _ _ ?_

theorem Keeps.grantMoves {s0 : State} (b : Nat) (a1 : List Migration) (a2 : State) (h : Keeps s0 a2) : Keeps s0 (State.grantMoves b a1 a2) := by
  induction a1 generalizing b a2 with
  | nil => (unfold Sys2Proof.Machine.State.grantMoves; try dsimp only); repeat'
      first
      | with_reducible assumption
  | cons x r ih => (unfold Sys2Proof.Machine.State.grantMoves; try dsimp only); repeat'
      first
      | with_reducible assumption | (with_reducible refine ih _ _ ?_) | with_reducible refine Keeps.askCredit _ _ _ _ _ _ ?_
      | with_reducible refine KeepsQ.of (Keeps.askCredit _ _ _ _ _ _ ?_) (by assumption) | with_reducible refine KeepsQ.snd (Keeps.askCredit _ _ _ _ _ _ ?_)
      | with_reducible refine Keeps.setMigrations _ _ ?_ | with_reducible refine Keeps.ite ?_ ?_

theorem Keeps.serveMoves {s0 : State} (s : State) (h : Keeps s0 s) : Keeps s0 (State.serveMoves s) := by
  unfold Sys2Proof.Machine.State.serveMoves
  try dsimp only
  repeat'
      first
      | with_reducible assumption | with_reducible refine Keeps.grantMoves _ _ _ ?_ | with_reducible refine Keeps.orderMoves _ _ ?_
      | with_reducible refine Keeps.foldl _ _ _ ?_ ?_ | with_reducible refine Keeps.ite ?_ ?_ | intro _

theorem Keeps.dropMoves {s0 : State} (s : State) (f : Migration → Bool) (h : Keeps s0 s) : Keeps s0 (State.dropMoves s f) := by
  unfold Sys2Proof.Machine.State.dropMoves
  try dsimp only
  repeat'
      first
      | with_reducible assumption | with_reducible refine Keeps.serveMoves _ ?_ | with_reducible refine Keeps.dropWaiting _ _ ?_
      | with_reducible refine Keeps.releaseCredit _ _ _ _ ?_ | with_reducible refine Keeps.setMigrations _ _ ?_
      | with_reducible refine Keeps.foldl _ _ _ ?_ ?_ | with_reducible refine Keeps.ite ?_ ?_ | intro _

theorem Keeps.noteUnmap {s0 : State} (s : State) (a1 a2 : Nat) (h : Keeps s0 s) : Keeps s0 (State.noteUnmap s a1 a2) := by
  unfold Sys2Proof.Machine.State.noteUnmap
  try dsimp only
  repeat'
      first
      | with_reducible assumption | with_reducible refine Keeps.setQueues _ ?_ ?_ | with_reducible refine Keeps.ite ?_ ?_ | intro _ | split | dsimp only
      | simp

theorem Keeps.unmapSlabs {s0 : State} (s : State) (a1 a2 : Nat) (h : Keeps s0 s) : Keeps s0 (State.unmapSlabs s a1 a2) := by
  unfold Sys2Proof.Machine.State.unmapSlabs
  try dsimp only
  repeat'
      first
      | with_reducible assumption | with_reducible refine Keeps.setMem _ ?_ ?_ | with_reducible refine Keeps.noteUnmap _ _ _ ?_
      | with_reducible refine Keeps.dropMoves _ _ ?_ | exact fun (k : Safety.MemoryCanonical _) => k | exact fun k => ⟨Memory.wf_clear _ _ _ k.1, k.2⟩

theorem Keeps.loseSlab {s0 : State} (s : State) (a1 : Nat) (h : Keeps s0 s) : Keeps s0 (State.loseSlab s a1) := by
  unfold Sys2Proof.Machine.State.loseSlab
  try dsimp only
  repeat'
      first
      | with_reducible assumption | with_reducible refine Keeps.dropMoves _ _ ?_ | with_reducible refine Keeps.modSlab _ _ _ ?_
      | with_reducible refine Keeps.setDev _ _ ?_ ?_ | with_reducible refine Keeps.modPart _ _ _ ?_ | exact fun (k : Safety.MemoryCanonical _) => k
      | exact fun k => ⟨Memory.wf_clear _ _ _ k.1, k.2⟩ | exact fun k => Memory.wf_clear _ _ _ k.1 | intro _ | split

theorem Keeps.loseSlabs {s0 : State} (s : State) (p : Nat) (ks : List Nat) (h : Keeps s0 s) : Keeps s0 (State.loseSlabs s p ks) := by
  unfold Sys2Proof.Machine.State.loseSlabs
  try dsimp only
  repeat'
      first
      | with_reducible assumption | with_reducible refine Keeps.loseSlab _ _ ?_ | with_reducible refine Keeps.raiseP _ _ _ ?_
      | with_reducible refine Keeps.foldl _ _ _ ?_ ?_ | with_reducible refine Keeps.ite ?_ ?_ | intro _

theorem Keeps.startMove {s0 : State} (s : State) (a1 : Nat) (dst : Tier) (cls : Nat) (rank : optParam Nat 2) (h : Keeps s0 s) : Keeps s0 (State.startMove s a1 dst cls rank) := by
  unfold Sys2Proof.Machine.State.startMove
  try dsimp only
  repeat'
      first
      | with_reducible assumption | with_reducible refine Keeps.serveMoves _ ?_ | with_reducible refine Keeps.frameFor _ _ _ ?_
      | with_reducible refine KeepsQ.of (Keeps.frameFor _ _ _ ?_) (by assumption) | with_reducible refine KeepsQ.snd (Keeps.frameFor _ _ _ ?_)
      | with_reducible refine Keeps.setMigrations _ _ ?_ | with_reducible refine Keeps.modSlab _ _ _ ?_ | with_reducible refine Keeps.ite ?_ ?_ | intro _
      | split

theorem Keeps.demote {s0 : State} (s : State) (p a2 cls : Nat) (h : Keeps s0 s) : Keeps s0 (State.demote s p a2 cls) := by
  unfold Sys2Proof.Machine.State.demote
  try dsimp only
  repeat' first | with_reducible assumption | with_reducible refine Keeps.startMove _ _ _ _ _ ?_ | with_reducible refine Keeps.ite ?_ ?_

theorem Keeps.refillTier {s0 : State} (p : Nat) (a1 : Tier) (a2 : Nat) (a3 : State) (h : Keeps s0 a3) : Keeps s0 (State.refillTier p a1 a2 a3) := by
  induction a2 generalizing p a1 a3 with
  | zero => (unfold Sys2Proof.Machine.State.refillTier; try dsimp only); repeat'
      first
      | with_reducible assumption
  | succ n ih => (unfold Sys2Proof.Machine.State.refillTier; try dsimp only); repeat'
      first
      | with_reducible assumption | (with_reducible refine ih _ _ _ ?_) | with_reducible refine Keeps.demote _ _ _ _ ?_ | intro _ | split

theorem Keeps.refill {s0 : State} (s : State) (p : Nat) (h : Keeps s0 s) : Keeps s0 (State.refill s p) := by
  unfold Sys2Proof.Machine.State.refill
  try dsimp only
  repeat' first | with_reducible assumption | with_reducible refine Keeps.refillTier _ _ _ _ ?_

theorem Keeps.abandonMove {s0 : State} (s : State) (a1 : Nat) (h : Keeps s0 s) : Keeps s0 (State.abandonMove s a1) := by
  unfold Sys2Proof.Machine.State.abandonMove
  try dsimp only
  repeat'
      first
      | with_reducible assumption | with_reducible refine Keeps.dropMoves _ _ ?_ | with_reducible refine Keeps.modSlab _ _ _ ?_
      | with_reducible refine Keeps.ite ?_ ?_ | intro _ | split

theorem Keeps.dropLease {s0 : State} (s : State) (p lender id : Nat) (h : Keeps s0 s) : Keeps s0 (State.dropLease s p lender id) := by
  unfold Sys2Proof.Machine.State.dropLease
  try dsimp only
  repeat' first | with_reducible assumption | with_reducible refine Keeps.modPart _ _ _ ?_

theorem Keeps.endLease {s0 : State} (s : State) (p lender id : Nat) (h : Keeps s0 s) : Keeps s0 (State.endLease s p lender id) := by
  unfold Sys2Proof.Machine.State.endLease
  try dsimp only
  repeat' first | with_reducible assumption | with_reducible refine Keeps.dropLease _ _ _ _ ?_ | with_reducible refine Keeps.loseSlabs _ _ _ ?_

theorem Keeps.touches {s0 : State} (s : State) (read : Bool) (l : List (Nat × Nat)) (h : Keeps s0 s) : Keeps s0 (State.touches s read l) := by
  unfold Sys2Proof.Machine.State.touches
  try dsimp only
  repeat'
      first
      | with_reducible assumption | with_reducible refine Keeps.touch _ _ _ _ ?_ | with_reducible refine Keeps.foldl _ _ _ ?_ ?_ | intro _

theorem Keeps.modFab {s0 : State} (s : State) (f : Fab → Fab) (h : Keeps s0 s) : Keeps s0 (State.modFab s f) := by
  unfold Sys2Proof.Machine.State.modFab
  try dsimp only
  repeat' first | with_reducible assumption | with_reducible refine Keeps.setFab _ ?_

theorem Keeps.modTx {s0 : State} (s : State) (a1 sub : Nat) (f : SubTx → SubTx) (h : Keeps s0 s) : Keeps s0 (State.modTx s a1 sub f) := by
  unfold Sys2Proof.Machine.State.modTx
  try dsimp only
  repeat' first | with_reducible assumption | with_reducible refine Keeps.modPort _ _ _ ?_

theorem KeepsO.map {α : Type} {s0 : State} (o : Option α) (f : α → State) (h : ∀ x, Keeps s0 (f x)) : KeepsO s0 (o.map f) := by
  cases o with
  | none => exact KeepsO.none
  | some x => exact KeepsO.some (h x)

theorem Keeps.sendNext {s0 : State} (s : State) (n sub : Nat) (h : Keeps s0 s) : KeepsO s0 (State.sendNext s n sub) := by
  unfold State.sendNext
  dsimp only
  split
  · exact KeepsO.none
  · exact KeepsO.map _ _ fun _ => Keeps.emit _ _ (Keeps.modPort _ _ _ (Keeps.modTx _ _ _ _ h))

theorem Keeps.serveSub {s0 : State} (port sub a2 : Nat) (a3 : State) (h : Keeps s0 a3) : Keeps s0 (State.serveSub port sub a2 a3) := by
  induction a2 generalizing port sub a3 with
  | zero => (unfold Sys2Proof.Machine.State.serveSub; try dsimp only); repeat'
      first
      | with_reducible assumption
  | succ n ih => (unfold Sys2Proof.Machine.State.serveSub; try dsimp only); repeat'
      first
      | with_reducible assumption | (with_reducible refine ih _ _ _ ?_) | with_reducible refine Keeps.sendNext _ _ _ ?_
      | with_reducible refine KeepsO.of (Keeps.sendNext _ _ _ ?_) (by assumption) | split

theorem Keeps.kickSub {s0 : State} (s : State) (a1 sub : Nat) (h : Keeps s0 s) : Keeps s0 (State.kickSub s a1 sub) := by
  unfold Sys2Proof.Machine.State.kickSub
  try dsimp only
  repeat' first | with_reducible assumption | with_reducible refine Keeps.serveSub _ _ _ _ ?_ | with_reducible refine Keeps.ite ?_ ?_

theorem Keeps.subSend {s0 : State} (s : State) (a1 sub q : Nat) (again : Bool) (a5 : Egr) (h : Keeps s0 s) : Keeps s0 (State.subSend s a1 sub q again a5) := by
  unfold Sys2Proof.Machine.State.subSend
  try dsimp only
  repeat'
      first
      | with_reducible assumption | with_reducible refine Keeps.kickSub _ _ _ ?_ | with_reducible refine Keeps.modTx _ _ _ _ ?_

theorem Keeps.portSend {s0 : State} (s : State) (a1 : Nat) (a2 : Pkt) (again : Bool) (h : Keeps s0 s) : Keeps s0 (State.portSend s a1 a2 again) := by
  unfold Sys2Proof.Machine.State.portSend
  try dsimp only
  repeat' first | with_reducible assumption | with_reducible refine Keeps.subSend _ _ _ _ _ _ ?_ | split

theorem Keeps.unqueue {s0 : State} (s : State) (a1 : Nat) (f : Egr → Bool) (h : Keeps s0 s) : Keeps s0 (State.unqueue s a1 f) := by
  unfold Sys2Proof.Machine.State.unqueue
  try dsimp only
  repeat'
      first
      | with_reducible assumption | with_reducible refine Keeps.modPort _ _ _ ?_ | with_reducible refine Keeps.ite ?_ ?_

end Sys2Proof.Machine
end

