-- ==== Sys2Proof/Laws/KeptQueues.lean ====
section
/-! SUPPORT. What the operations and commands of the transport, the stream, the queues, commits, collectives and the queue and tile commands keep. -/

namespace Sys2Proof.Machine

theorem Keeps.setFlow {s0 : State} (s : State) (f : Flow) (h : Keeps s0 s) : Keeps s0 (State.setFlow s f) := by
  unfold Sys2Proof.Machine.State.setFlow
  try dsimp only
  repeat' first | with_reducible assumption | with_reducible refine Keeps.modFab _ _ ?_

theorem Keeps.pump {s0 : State} (ep cls a2 : Nat) (a3 : State) (h : Keeps s0 a3) : Keeps s0 (State.pump ep cls a2 a3) := by
  induction a2 generalizing ep cls a3 with
  | zero => (unfold Sys2Proof.Machine.State.pump; try dsimp only); repeat'
      first
      | with_reducible assumption
  | succ n ih => (unfold Sys2Proof.Machine.State.pump; try dsimp only); repeat'
      first
      | with_reducible assumption | (with_reducible refine ih _ _ _ ?_) | with_reducible refine Keeps.setFlow _ _ ?_
      | with_reducible refine Keeps.portSend _ _ _ _ ?_ | with_reducible refine Keeps.ite ?_ ?_ | split

theorem Keeps.sendPkt {s0 : State} (s : State) (ep part cls axis src : Nat) (body : PktBody) (h : Keeps s0 s) : KeepsP s0 (State.sendPkt s ep part cls axis src body) := by
  unfold Sys2Proof.Machine.State.sendPkt
  try dsimp only
  repeat'
      first
      | with_reducible assumption | with_reducible refine Keeps.pump _ _ _ _ ?_ | with_reducible refine Keeps.setFlow _ _ ?_
      | with_reducible refine KeepsP.pair ?_ | split

theorem Keeps.sendData1 {s0 : State} (s : State) (ep part cls axis src kind tag id off : Nat) (pay : Bytes) (h : Keeps s0 s) : KeepsP s0 (State.sendData1 s ep part cls axis src kind tag id off pay) := by
  unfold Sys2Proof.Machine.State.sendData1
  try dsimp only
  repeat'
      first
      | with_reducible assumption | with_reducible refine Keeps.sendPkt _ _ _ _ _ _ _ ?_

theorem Keeps.sendChunks {s0 : State} (ep part cls axis src kind tag id a8 a9 : Nat) (a10 : Bytes) (a11 : State) (h : Keeps s0 a11) : KeepsP s0 (State.sendChunks ep part cls axis src kind tag id a8 a9 a10 a11) := by
  induction a8 generalizing ep part cls axis src kind tag id a9 a10 a11 with
  | zero => (unfold Sys2Proof.Machine.State.sendChunks; try dsimp only); repeat'
      first
      | with_reducible assumption | (with_reducible refine ih _ _ _ _ _ _ _ _ _ _ _ ?_)
      | (with_reducible refine KeepsP.fst (ih _ _ _ _ _ _ _ _ _ _ _ ?_))
      | with_reducible refine Keeps.sendData1 _ _ _ _ _ _ _ _ _ _ _ ?_
      | with_reducible refine KeepsP.of (Keeps.sendData1 _ _ _ _ _ _ _ _ _ _ _ ?_) (by assumption)
      | with_reducible refine KeepsP.fst (Keeps.sendData1 _ _ _ _ _ _ _ _ _ _ _ ?_) | with_reducible refine KeepsP.pair ?_
  | succ n ih => (unfold Sys2Proof.Machine.State.sendChunks; try dsimp only); repeat'
      first
      | with_reducible assumption | (with_reducible refine ih _ _ _ _ _ _ _ _ _ _ _ ?_)
      | (with_reducible refine KeepsP.of (ih _ _ _ _ _ _ _ _ _ _ _ ?_) (by assumption)) | (with_reducible refine KeepsP.fst (ih _ _ _ _ _ _ _ _ _ _ _ ?_))
      | with_reducible refine Keeps.sendData1 _ _ _ _ _ _ _ _ _ _ _ ?_
      | with_reducible refine KeepsP.of (Keeps.sendData1 _ _ _ _ _ _ _ _ _ _ _ ?_) (by assumption)
      | with_reducible refine KeepsP.fst (Keeps.sendData1 _ _ _ _ _ _ _ _ _ _ _ ?_) | with_reducible refine KeepsP.pair ?_ | split | dsimp only

theorem Keeps.sendNotice {s0 : State} (s : State) (ep part cls axis src kind window attempt bytes tag : Nat) (h : Keeps s0 s) : KeepsP s0 (State.sendNotice s ep part cls axis src kind window attempt bytes tag) := by
  unfold Sys2Proof.Machine.State.sendNotice
  try dsimp only
  repeat'
      first
      | with_reducible assumption | with_reducible refine Keeps.sendPkt _ _ _ _ _ _ _ ?_

theorem Keeps.meterBytes {s0 : State} (s : State) (p a2 : Nat) (h : Keeps s0 s) : Keeps s0 (State.meterBytes s p a2) := by
  unfold Sys2Proof.Machine.State.meterBytes
  try dsimp only
  repeat' first | with_reducible assumption | with_reducible refine Keeps.setMeter _ ?_

theorem Keeps.sendCtrl {s0 : State} (s : State) (ep part src : Nat) (record : Bytes) (h : Keeps s0 s) : Keeps s0 (State.sendCtrl s ep part src record) := by
  unfold Sys2Proof.Machine.State.sendCtrl
  try dsimp only
  repeat'
      first
      | with_reducible assumption | with_reducible refine Keeps.sendData1 _ _ _ _ _ _ _ _ _ _ _ ?_
      | with_reducible refine KeepsP.of (Keeps.sendData1 _ _ _ _ _ _ _ _ _ _ _ ?_) (by assumption)
      | with_reducible refine KeepsP.fst (Keeps.sendData1 _ _ _ _ _ _ _ _ _ _ _ ?_)

theorem Keeps.partCtrl {s0 : State} (s : State) (ep part src : Nat) (record : Bytes) (h : Keeps s0 s) : Keeps s0 (State.partCtrl s ep part src record) := by
  unfold Sys2Proof.Machine.State.partCtrl
  try dsimp only
  repeat' first | with_reducible assumption | with_reducible refine Keeps.sendCtrl _ _ _ _ _ ?_ | with_reducible refine Keeps.meterBytes _ _ _ ?_

theorem Keeps.forgetPkts {s0 : State} (s : State) (l : List (Nat × Nat)) (cls : Nat) (h : Keeps s0 s) : Keeps s0 (State.forgetPkts s l cls) := by
  unfold Sys2Proof.Machine.State.forgetPkts
  try dsimp only
  repeat' first | with_reducible assumption | with_reducible refine Keeps.modFab _ _ ?_

theorem Keeps.cellarReq {s0 : State} (s : State) (who src : Nat) (lease : Nat × Nat) (off : Nat) (data : Option Bytes) (a6 : Nat) (h : Keeps s0 s) : Keeps s0 (State.cellarReq s who src lease off data a6) := by
  unfold Sys2Proof.Machine.State.cellarReq
  try dsimp only
  repeat'
      first
      | with_reducible assumption | with_reducible refine Keeps.meterBytes _ _ _ ?_ | with_reducible refine Keeps.sendData1 _ _ _ _ _ _ _ _ _ _ _ ?_
      | with_reducible refine KeepsP.of (Keeps.sendData1 _ _ _ _ _ _ _ _ _ _ _ ?_) (by assumption)
      | with_reducible refine KeepsP.fst (Keeps.sendData1 _ _ _ _ _ _ _ _ _ _ _ ?_) | with_reducible refine Keeps.modFab _ _ ?_

theorem Keeps.forgetCellar {s0 : State} (s : State) (who : Nat) (h : Keeps s0 s) : Keeps s0 (State.forgetCellar s who) := by
  unfold Sys2Proof.Machine.State.forgetCellar
  try dsimp only
  repeat'
      first
      | with_reducible assumption | with_reducible refine Keeps.forgetPkts _ _ _ ?_ | with_reducible refine Keeps.modFab _ _ ?_
      | with_reducible refine Keeps.ite ?_ ?_

theorem Keeps.cellarRead {s0 : State} (s : State) (who a a3 : Nat) (h : Keeps s0 s) : Keeps s0 (State.cellarRead s who a a3) := by
  unfold Sys2Proof.Machine.State.cellarRead
  try dsimp only
  repeat'
      first
      | with_reducible assumption | with_reducible refine Keeps.cellarReq _ _ _ _ _ _ _ ?_ | with_reducible refine Keeps.foldl _ _ _ ?_ ?_
      | with_reducible refine Keeps.ite ?_ ?_ | intro _ | split

theorem Keeps.cellarFill {s0 : State} (s : State) (a1 : Nat) (lease : Nat × Nat) (f : Nat) (h : Keeps s0 s) : Keeps s0 (State.cellarFill s a1 lease f) := by
  unfold Sys2Proof.Machine.State.cellarFill
  try dsimp only
  repeat'
      first
      | with_reducible assumption | with_reducible refine Keeps.cellarReq _ _ _ _ _ _ _ ?_ | with_reducible refine Keeps.foldl _ _ _ ?_ ?_ | intro _

theorem Keeps.setAckFlow {s0 : State} (s : State) (ep : Nat) (v : Nat × Nat) (h : Keeps s0 s) : Keeps s0 (State.setAckFlow s ep v) := by
  unfold Sys2Proof.Machine.State.setAckFlow
  try dsimp only
  repeat' first | with_reducible assumption | with_reducible refine Keeps.modFab _ _ ?_

theorem Keeps.sendAck {s0 : State} (s : State) (a1 ep cls : Nat) (h : Keeps s0 s) : Keeps s0 (State.sendAck s a1 ep cls) := by
  unfold Sys2Proof.Machine.State.sendAck
  try dsimp only
  repeat'
      first
      | with_reducible assumption | with_reducible refine Keeps.setAckFlow _ _ _ ?_ | with_reducible refine Keeps.setFlow _ _ ?_
      | with_reducible refine Keeps.portSend _ _ _ _ ?_ | with_reducible refine Keeps.ite ?_ ?_ | split

theorem Keeps.fabDrop {s0 : State} (s : State) (h : Keeps s0 s) : Keeps s0 (State.fabDrop s) := by
  unfold Sys2Proof.Machine.State.fabDrop
  try dsimp only
  repeat' first | with_reducible assumption | with_reducible refine Keeps.modFab _ _ ?_

theorem Keeps.reach {s0 : State} (s : State) (ep : Nat) (h : Keeps s0 s) : Keeps s0 (State.reach s ep) := by
  unfold Sys2Proof.Machine.State.reach
  try dsimp only
  repeat' first | with_reducible assumption | with_reducible refine Keeps.modFab _ _ ?_

theorem Keeps.rxAccept {s0 : State} (a0 : State) (a1 : PftHdr) (h0 : Keeps s0 a0) : KeepsP s0 (State.rxAccept a0 a1) := by
  unfold State.rxAccept
  simp only []
  split
  · exact KeepsP.pair (Keeps.sendAck _ _ _ _ (Keeps.modFab _ _ h0))
  · split
    · exact KeepsP.pair (Keeps.fabDrop _ h0)
    · refine KeepsP.pair ?_
      split
      · exact Keeps.sendAck _ _ _ _ (Keeps.reach _ _ (Keeps.setFlow _ _ h0))
      · exact Keeps.reach _ _ (Keeps.setFlow _ _ h0)

theorem Keeps.newSession {s0 : State} (s : State) (ep a2 : Nat) (h : Keeps s0 s) : Keeps s0 (State.newSession s ep a2) := by
  unfold Sys2Proof.Machine.State.newSession
  try dsimp only
  repeat'
      first
      | with_reducible assumption | with_reducible refine Keeps.setParts _ ?_ ?_ | with_reducible refine Keeps.modFab _ _ ?_
      | with_reducible refine Keeps.ite ?_ ?_ | intro _ | split | dsimp only | simp

theorem Keeps.rxOpen {s0 : State} (s : State) (a1 : PftHdr) (ty : Nat) (h : Keeps s0 s) : KeepsP s0 (State.rxOpen s a1 ty) := by
  unfold Sys2Proof.Machine.State.rxOpen
  try dsimp only
  repeat'
      first
      | with_reducible assumption | with_reducible refine Keeps.setSec _ ?_ | with_reducible refine Keeps.newSession _ _ _ ?_
      | with_reducible refine Keeps.wakeNow _ ?_ | with_reducible refine Keeps.raiseLimited _ _ _ _ _ ?_ | with_reducible refine KeepsP.pair ?_ | intro _
      | split

theorem Keeps.rx {s0 : State} (s : State) (a1 : PftHdr) (ty kind : Nat) (h : Keeps s0 s) : KeepsP s0 (State.rx s a1 ty kind) := by
  unfold Sys2Proof.Machine.State.rx
  try dsimp only
  repeat'
      first
      | with_reducible assumption | with_reducible refine Keeps.rxOpen _ _ _ ?_ | with_reducible refine KeepsP.of (Keeps.rxOpen _ _ _ ?_) (by assumption)
      | with_reducible refine KeepsP.fst (Keeps.rxOpen _ _ _ ?_) | with_reducible refine Keeps.rxAccept _ _ ?_
      | with_reducible refine KeepsP.of (Keeps.rxAccept _ _ ?_) (by assumption) | with_reducible refine KeepsP.fst (Keeps.rxAccept _ _ ?_)
      | with_reducible refine KeepsP.pair ?_ | split | dsimp only

theorem Keeps.rxData {s0 : State} (s : State) (a1 : PftHdr) (kind : Nat) (h : Keeps s0 s) : KeepsP s0 (State.rxData s a1 kind) := by
  unfold Sys2Proof.Machine.State.rxData
  try dsimp only
  repeat'
      first
      | with_reducible assumption | with_reducible refine Keeps.rx _ _ _ _ ?_

theorem Keeps.rxLease {s0 : State} (s : State) (a1 : PftHdr) (h : Keeps s0 s) : KeepsP s0 (State.rxLease s a1) := by
  unfold Sys2Proof.Machine.State.rxLease
  try dsimp only
  repeat'
      first
      | with_reducible assumption | with_reducible refine Keeps.rxData _ _ _ ?_ | with_reducible refine KeepsP.of (Keeps.rxData _ _ _ ?_) (by assumption)
      | with_reducible refine KeepsP.fst (Keeps.rxData _ _ _ ?_) | with_reducible refine KeepsP.pair ?_

theorem Keeps.rxAck {s0 : State} (s : State) (a1 : PftHdr) (cum : Nat) (bm : BitVec 256) (h : Keeps s0 s) : Keeps s0 (State.rxAck s a1 cum bm) := by
  unfold Sys2Proof.Machine.State.rxAck
  try dsimp only
  repeat'
      first
      | with_reducible assumption | with_reducible refine Keeps.rxOpen _ _ _ ?_ | with_reducible refine KeepsP.of (Keeps.rxOpen _ _ _ ?_) (by assumption)
      | with_reducible refine KeepsP.fst (Keeps.rxOpen _ _ _ ?_) | with_reducible refine Keeps.reach _ _ ?_
      | with_reducible refine Keeps.setAckFlow _ _ _ ?_ | with_reducible refine Keeps.pump _ _ _ _ ?_ | with_reducible refine Keeps.setFlow _ _ ?_
      | with_reducible refine Keeps.ite ?_ ?_

theorem Keeps.resend {s0 : State} (ep cls : Nat) (alone : Bool) (a3 : List Nat) (a4 : State) (h : Keeps s0 a4) : Keeps s0 (State.resend ep cls alone a3 a4) := by
  induction a3 generalizing ep cls alone a4 with
  | nil => (unfold Sys2Proof.Machine.State.resend; try dsimp only); repeat'
      first
      | with_reducible assumption
  | cons x r ih => (unfold Sys2Proof.Machine.State.resend; try dsimp only); repeat'
      first
      | with_reducible assumption | (with_reducible refine ih _ _ _ _ ?_) | with_reducible refine Keeps.setFlow _ _ ?_
      | with_reducible refine Keeps.unqueue _ _ _ ?_ | with_reducible refine Keeps.portSend _ _ _ _ ?_ | with_reducible refine Keeps.modFab _ _ ?_
      | with_reducible refine Keeps.ite ?_ ?_ | intro _ | split

theorem Keeps.nextAttempt {s0 : State} (s : State) (ep part window : Nat) (h : Keeps s0 s) : KeepsQ s0 (State.nextAttempt s ep part window) := by
  unfold Sys2Proof.Machine.State.nextAttempt
  try dsimp only
  repeat' first | with_reducible assumption | with_reducible refine Keeps.modFab _ _ ?_ | with_reducible refine KeepsQ.pair ?_

theorem Keeps.setColl {s0 : State} (s : State) (c : Coll) (h : Keeps s0 s) : Keeps s0 (State.setColl s c) := by
  unfold Sys2Proof.Machine.State.setColl
  try dsimp only
  repeat' first | with_reducible assumption | with_reducible refine Keeps.modFab _ _ ?_

theorem Keeps.dropColl {s0 : State} (s : State) (q : Nat) (h : Keeps s0 s) : Keeps s0 (State.dropColl s q) := by
  unfold Sys2Proof.Machine.State.dropColl
  try dsimp only
  repeat'
      first
      | with_reducible assumption | with_reducible refine Keeps.modFab _ _ ?_ | with_reducible refine Keeps.releaseCredit _ _ _ _ ?_ | intro _ | split

theorem Keeps.abortColl {s0 : State} (s : State) (q : Nat) (h : Keeps s0 s) : Keeps s0 (State.abortColl s q) := by
  unfold Sys2Proof.Machine.State.abortColl
  try dsimp only
  repeat'
      first
      | with_reducible assumption | with_reducible refine Keeps.dropColl _ _ ?_ | with_reducible refine Keeps.sendData1 _ _ _ _ _ _ _ _ _ _ _ ?_
      | with_reducible refine KeepsP.of (Keeps.sendData1 _ _ _ _ _ _ _ _ _ _ _ ?_) (by assumption)
      | with_reducible refine KeepsP.fst (Keeps.sendData1 _ _ _ _ _ _ _ _ _ _ _ ?_) | with_reducible refine Keeps.foldl _ _ _ ?_ ?_ | intro _ | split

theorem Keeps.modLink {s0 : State} (s : State) (l : Nat) (f : DieLink → DieLink) (h : Keeps s0 s) : Keeps s0 (State.modLink s l f) := by
  unfold Sys2Proof.Machine.State.modLink
  try dsimp only
  repeat' first | with_reducible assumption | with_reducible refine Keeps.setFabric _ ?_

theorem Keeps.linkServe {s0 : State} (s : State) (h : Keeps s0 s) : Keeps s0 (State.linkServe s) := by
  unfold Sys2Proof.Machine.State.linkServe
  try dsimp only
  repeat' first | with_reducible assumption | with_reducible refine Keeps.setFabric _ ?_

theorem Keeps.linkSend {s0 : State} (s : State) (l : List LinkPkt) (h : Keeps s0 s) : Keeps s0 (State.linkSend s l) := by
  unfold Sys2Proof.Machine.State.linkSend
  try dsimp only
  repeat'
      first
      | with_reducible assumption | with_reducible refine Keeps.setFabric _ ?_ | with_reducible refine Keeps.linkServe _ ?_
      | with_reducible refine Keeps.foldl _ _ _ ?_ ?_ | with_reducible refine Keeps.ite ?_ ?_

theorem Keeps.ackLinks {s0 : State} (s : State) (h : Keeps s0 s) : Keeps s0 (State.ackLinks s) := by
  unfold Sys2Proof.Machine.State.ackLinks
  try dsimp only
  repeat'
      first
      | with_reducible assumption | with_reducible refine Keeps.setFabric _ ?_ | with_reducible refine Keeps.setOut _ ?_
      | with_reducible refine Keeps.ite ?_ ?_

theorem Keeps.modStream {s0 : State} (s : State) (p : Nat) (f : Stream → Stream) (h : Keeps s0 s) : Keeps s0 (State.modStream s p f) := by
  unfold Sys2Proof.Machine.State.modStream
  try dsimp only
  repeat' first | with_reducible assumption | with_reducible refine Keeps.modPart _ _ _ ?_

theorem Keeps.ringPut {s0 : State} (s : State) (p : Nat) (b : Bytes) (h : Keeps s0 s) : Keeps s0 (State.ringPut s p b) := by
  unfold Sys2Proof.Machine.State.ringPut
  try dsimp only
  repeat'
      first
      | with_reducible assumption | with_reducible refine Keeps.modStream _ _ _ ?_ | with_reducible refine Keeps.writeInPlace _ _ _ ?_

theorem Keeps.ringWrite {s0 : State} (s : State) (p : Nat) (a2 : Bytes) (h : Keeps s0 s) : KeepsP s0 (State.ringWrite s p a2) := by
  unfold Sys2Proof.Machine.State.ringWrite
  try dsimp only
  repeat' first | with_reducible assumption | with_reducible refine Keeps.ringPut _ _ _ ?_ | with_reducible refine KeepsP.pair ?_ | split

theorem Keeps.sendRecord {s0 : State} (s : State) (p : Nat) (e : Epoch) (a3 : Bytes) (h : Keeps s0 s) : KeepsP s0 (State.sendRecord s p e a3) := by
  unfold Sys2Proof.Machine.State.sendRecord
  try dsimp only
  repeat'
      first
      | with_reducible assumption | with_reducible refine Keeps.ringWrite _ _ _ ?_
      | with_reducible refine KeepsP.of (Keeps.ringWrite _ _ _ ?_) (by assumption) | with_reducible refine KeepsP.fst (Keeps.ringWrite _ _ _ ?_)
      | with_reducible refine Keeps.meterBytes _ _ _ ?_ | with_reducible refine Keeps.emit _ _ ?_ | with_reducible refine KeepsP.pair ?_ | split

theorem Keeps.sendRecords {s0 : State} (p : Nat) (e : Epoch) (a2 : List Bytes) (a3 : State) (h : Keeps s0 a3) : KeepsP s0 (State.sendRecords p e a2 a3) := by
  induction a2 generalizing p e a3 with
  | nil => (unfold Sys2Proof.Machine.State.sendRecords; try dsimp only); repeat'
      first
      | with_reducible assumption | (with_reducible refine ih _ _ _ ?_)
      | (with_reducible refine KeepsP.fst (ih _ _ _ ?_)) | with_reducible refine Keeps.sendRecord _ _ _ _ ?_
      | with_reducible refine KeepsP.of (Keeps.sendRecord _ _ _ _ ?_) (by assumption) | with_reducible refine KeepsP.fst (Keeps.sendRecord _ _ _ _ ?_)
      | with_reducible refine KeepsP.pair ?_
  | cons x r ih => (unfold Sys2Proof.Machine.State.sendRecords; try dsimp only); repeat'
      first
      | with_reducible assumption | (with_reducible refine ih _ _ _ ?_) | (with_reducible refine KeepsP.of (ih _ _ _ ?_) (by assumption))
      | (with_reducible refine KeepsP.fst (ih _ _ _ ?_)) | with_reducible refine Keeps.sendRecord _ _ _ _ ?_
      | with_reducible refine KeepsP.of (Keeps.sendRecord _ _ _ _ ?_) (by assumption) | with_reducible refine KeepsP.fst (Keeps.sendRecord _ _ _ _ ?_)
      | with_reducible refine KeepsP.pair ?_ | split | dsimp only

theorem Keeps.sendDigest {s0 : State} (s : State) (p : Nat) (c : Bytes) (step : Nat) (d : Bytes) (h : Keeps s0 s) : Keeps s0 (State.sendDigest s p c step d) := by
  unfold Sys2Proof.Machine.State.sendDigest
  try dsimp only
  repeat'
      first
      | with_reducible assumption | with_reducible refine Keeps.modStream _ _ _ ?_ | with_reducible refine Keeps.meterBytes _ _ _ ?_
      | with_reducible refine Keeps.sendData1 _ _ _ _ _ _ _ _ _ _ _ ?_
      | with_reducible refine KeepsP.of (Keeps.sendData1 _ _ _ _ _ _ _ _ _ _ _ ?_) (by assumption)
      | with_reducible refine KeepsP.fst (Keeps.sendData1 _ _ _ _ _ _ _ _ _ _ _ ?_) | with_reducible refine Keeps.foldl _ _ _ ?_ ?_
      | with_reducible refine Keeps.ite ?_ ?_ | intro _

theorem Keeps.decideDigest {s0 : State} (s : State) (p : Nat) (h : Keeps s0 s) : Keeps s0 (State.decideDigest s p) := by
  unfold Sys2Proof.Machine.State.decideDigest
  try dsimp only
  repeat'
      first
      | with_reducible assumption | with_reducible refine Keeps.modStream _ _ _ ?_ | with_reducible refine Keeps.raiseP _ _ _ ?_
      | with_reducible refine Keeps.foldl _ _ _ ?_ ?_ | intro _ | split

theorem Keeps.tryDigest {s0 : State} (s : State) (p : Nat) (h : Keeps s0 s) : Keeps s0 (State.tryDigest s p) := by
  unfold Sys2Proof.Machine.State.tryDigest
  try dsimp only
  repeat'
      first
      | with_reducible assumption | with_reducible refine Keeps.decideDigest _ _ ?_ | with_reducible refine Keeps.ite ?_ ?_ | intro _ | split

theorem Keeps.openEpoch {s0 : State} (s : State) (p : Nat) (hostLoss toCellar key : Bool) (h : Keeps s0 s) : Keeps s0 (State.openEpoch s p hostLoss toCellar key) := by
  unfold Sys2Proof.Machine.State.openEpoch
  try dsimp only
  repeat'
      first
      | with_reducible assumption | with_reducible refine Keeps.tryDigest _ _ ?_ | with_reducible refine Keeps.sendDigest _ _ _ _ _ ?_
      | with_reducible refine Keeps.sendRecord _ _ _ _ ?_ | with_reducible refine KeepsP.of (Keeps.sendRecord _ _ _ _ ?_) (by assumption)
      | with_reducible refine KeepsP.fst (Keeps.sendRecord _ _ _ _ ?_) | with_reducible refine Keeps.modStream _ _ _ ?_
      | with_reducible refine Keeps.meterBytes _ _ _ ?_ | with_reducible refine Keeps.ite ?_ ?_

theorem Keeps.stepMark {s0 : State} (s : State) (p : Nat) (h : Keeps s0 s) : Keeps s0 (State.stepMark s p) := by
  unfold Sys2Proof.Machine.State.stepMark
  try dsimp only
  repeat'
      first
      | with_reducible assumption | with_reducible refine Keeps.openEpoch _ _ _ _ _ ?_ | with_reducible refine Keeps.modStream _ _ _ ?_
      | with_reducible refine Keeps.ite ?_ ?_

theorem Keeps.exportEpoch {s0 : State} (s : State) (p : Nat) (h : Keeps s0 s) : Keeps s0 (State.exportEpoch s p) := by
  unfold Sys2Proof.Machine.State.exportEpoch
  try dsimp only
  repeat'
      first
      | with_reducible assumption | with_reducible refine Keeps.sendRecords _ _ _ _ ?_
      | with_reducible refine KeepsP.of (Keeps.sendRecords _ _ _ _ ?_) (by assumption) | with_reducible refine KeepsP.fst (Keeps.sendRecords _ _ _ _ ?_)
      | with_reducible refine Keeps.modStream _ _ _ ?_ | with_reducible refine Keeps.linkSend _ _ ?_ | with_reducible refine Keeps.cellarRead _ _ _ _ ?_
      | with_reducible refine Keeps.foldl _ _ _ ?_ ?_ | intro _ | split

theorem Keeps.abandonEpoch {s0 : State} (s : State) (p : Nat) (h : Keeps s0 s) : Keeps s0 (State.abandonEpoch s p) := by
  unfold Sys2Proof.Machine.State.abandonEpoch
  try dsimp only
  repeat'
      first
      | with_reducible assumption | with_reducible refine Keeps.modStream _ _ _ ?_ | with_reducible refine Keeps.forgetCellar _ _ ?_
      | with_reducible refine Keeps.raiseP _ _ _ ?_ | with_reducible refine Keeps.ite ?_ ?_

theorem Keeps.closeEpoch {s0 : State} (s : State) (p : Nat) (h : Keeps s0 s) : Keeps s0 (State.closeEpoch s p) := by
  unfold Sys2Proof.Machine.State.closeEpoch
  try dsimp only
  repeat'
      first
      | with_reducible assumption | with_reducible refine Keeps.sendRecord _ _ _ _ ?_
      | with_reducible refine KeepsP.of (Keeps.sendRecord _ _ _ _ ?_) (by assumption) | with_reducible refine KeepsP.fst (Keeps.sendRecord _ _ _ _ ?_)
      | with_reducible refine Keeps.modStream _ _ _ ?_ | with_reducible refine Keeps.ite ?_ ?_ | intro _ | split

theorem Keeps.retain {s0 : State} (s : State) (p : Nat) (ks : List Nat) (h : Keeps s0 s) : Keeps s0 (State.retain s p ks) := by
  unfold Sys2Proof.Machine.State.retain
  try dsimp only
  repeat' first | with_reducible assumption | with_reducible refine Keeps.modStream _ _ _ ?_

theorem Keeps.writeRecord {s0 : State} (s : State) (q : Nat) (a2 : Bytes) (h : Keeps s0 s) : Keeps s0 (State.writeRecord s q a2) := by
  unfold Sys2Proof.Machine.State.writeRecord
  try dsimp only
  repeat'
      first
      | with_reducible assumption | with_reducible refine Keeps.msix _ _ ?_ | with_reducible refine Keeps.coherentWrite _ _ _ ?_
      | with_reducible refine Keeps.modQueue _ _ _ ?_ | with_reducible refine Keeps.ite ?_ ?_

theorem Keeps.flushRecs {s0 : State} (q a1 : Nat) (a2 : State) (h : Keeps s0 a2) : Keeps s0 (State.flushRecs q a1 a2) := by
  induction a1 generalizing q a2 with
  | zero => (unfold Sys2Proof.Machine.State.flushRecs; try dsimp only); repeat'
      first
      | with_reducible assumption
  | succ n ih => (unfold Sys2Proof.Machine.State.flushRecs; try dsimp only); repeat'
      first
      | with_reducible assumption | (with_reducible refine ih _ _ ?_) | with_reducible refine Keeps.writeRecord _ _ _ ?_
      | with_reducible refine Keeps.modQueue _ _ _ ?_ | with_reducible refine Keeps.ite ?_ ?_ | intro _ | split

theorem Keeps.putRecord {s0 : State} (s : State) (q : Nat) (a2 : Bytes) (h : Keeps s0 s) : Keeps s0 (State.putRecord s q a2) := by
  unfold Sys2Proof.Machine.State.putRecord
  try dsimp only
  repeat'
      first
      | with_reducible assumption | with_reducible refine Keeps.flushRecs _ _ _ ?_ | with_reducible refine Keeps.modQueue _ _ _ ?_

theorem Keeps.modAcct {s0 : State} (s : State) (q : Nat) (f : Acct → Acct) (h : Keeps s0 s) : Keeps s0 (State.modAcct s q f) := by
  unfold Sys2Proof.Machine.State.modAcct
  try dsimp only
  repeat'
      first
      | with_reducible assumption | with_reducible refine Keeps.modQueue _ _ _ ?_ | with_reducible refine Keeps.modPart _ _ _ ?_

theorem Keeps.modHead {s0 : State} (s : State) (q : Nat) (f : Cmd → Cmd) (h : Keeps s0 s) : Keeps s0 (State.modHead s q f) := by
  unfold Sys2Proof.Machine.State.modHead
  try dsimp only
  repeat' first | with_reducible assumption | with_reducible refine Keeps.modQueue _ _ _ ?_

theorem Keeps.beginWait {s0 : State} (s : State) (q : Nat) (h : Keeps s0 s) : Keeps s0 (State.beginWait s q) := by
  unfold Sys2Proof.Machine.State.beginWait
  try dsimp only
  repeat' first | with_reducible assumption | with_reducible refine Keeps.modHead _ _ _ ?_

theorem Keeps.endWait {s0 : State} (s : State) (q : Nat) (h : Keeps s0 s) : Keeps s0 (State.endWait s q) := by
  unfold Sys2Proof.Machine.State.endWait
  try dsimp only
  repeat' first | with_reducible assumption | with_reducible refine Keeps.modHead _ _ _ ?_

theorem Keeps.complete {s0 : State} (s : State) (q : Nat) (c : Cmd) (status : Nat) (h : Keeps s0 s) : Keeps s0 (State.complete s q c status) := by
  unfold Sys2Proof.Machine.State.complete
  try dsimp only
  repeat'
      first
      | with_reducible assumption | with_reducible refine Keeps.modAcct _ _ _ ?_ | with_reducible refine Keeps.putRecord _ _ _ ?_

theorem Keeps.fetchOne {s0 : State} (s : State) (q : Nat) (h : Keeps s0 s) : Keeps s0 (State.fetchOne s q) := by
  unfold Sys2Proof.Machine.State.fetchOne
  try dsimp only
  repeat'
      first
      | with_reducible assumption | with_reducible refine Keeps.modAdm _ _ ?_ | with_reducible refine Keeps.cxlAsk _ _ _ ?_
      | with_reducible refine Keeps.modQueue _ _ _ ?_ | with_reducible refine Keeps.modPart _ _ _ ?_ | with_reducible refine Keeps.ite ?_ ?_

theorem Keeps.fetchAll {s0 : State} (q a1 : Nat) (a2 : State) (h : Keeps s0 a2) : Keeps s0 (State.fetchAll q a1 a2) := by
  induction a1 generalizing q a2 with
  | zero => (unfold Sys2Proof.Machine.State.fetchAll; try dsimp only); repeat'
      first
      | with_reducible assumption
  | succ n ih => (unfold Sys2Proof.Machine.State.fetchAll; try dsimp only); repeat'
      first
      | with_reducible assumption | (with_reducible refine ih _ _ ?_) | with_reducible refine Keeps.fetchOne _ _ ?_ | with_reducible refine Keeps.ite ?_ ?_

theorem Keeps.clearEngines {s0 : State} (s : State) (ls : List Nat) (h : Keeps s0 s) : Keeps s0 (State.clearEngines s ls) := by
  unfold Sys2Proof.Machine.State.clearEngines
  try dsimp only
  repeat'
      first
      | with_reducible assumption | with_reducible refine Keeps.setCoreMems _ ?_ | with_reducible refine Keeps.setEngines _ ?_
      | with_reducible refine Keeps.ite ?_ ?_

theorem Keeps.openIslands {s0 : State} (s : State) (ls : List Nat) (h : Keeps s0 s) : Keeps s0 (State.openIslands s ls) := by
  unfold Sys2Proof.Machine.State.openIslands
  try dsimp only
  repeat'
      first
      | with_reducible assumption | with_reducible refine Keeps.setFabric _ ?_ | with_reducible refine Keeps.setOut _ ?_
      | with_reducible refine Keeps.ite ?_ ?_

theorem Keeps.wakeCores {s0 : State} (s : State) (ls : List Nat) (h : Keeps s0 s) : Keeps s0 (State.wakeCores s ls) := by
  unfold Sys2Proof.Machine.State.wakeCores
  try dsimp only
  repeat'
      first
      | with_reducible assumption | with_reducible refine Keeps.setCores _ ?_ ?_ | with_reducible refine Keeps.openIslands _ _ ?_
      | with_reducible refine Keeps.ite ?_ ?_ | intro _ | split | dsimp only | simp

theorem Keeps.restCores {s0 : State} (s : State) (ls : List Nat) (h : Keeps s0 s) : Keeps s0 (State.restCores s ls) := by
  unfold Sys2Proof.Machine.State.restCores
  try dsimp only
  repeat'
      first
      | with_reducible assumption | with_reducible refine Keeps.setCores _ ?_ ?_ | with_reducible refine Keeps.ite ?_ ?_ | intro _ | split | dsimp only
      | simp

theorem Keeps.keepPieces {s0 : State} (s : State) (p : Nat) (pairs : List (Nat × Nat)) (h : Keeps s0 s) : Keeps s0 (State.keepPieces s p pairs) := by
  unfold Sys2Proof.Machine.State.keepPieces
  try dsimp only
  repeat'
      first
      | with_reducible assumption | with_reducible refine Keeps.setSlabs _ _ ?_ | with_reducible refine Keeps.ite ?_ ?_

/-- A result that stands only when a check passes. -/
theorem Keeps.okOr {α : Type} {s0 s : State} (x : Except Nat α) (f : α → State) (h : Keeps s0 s) (k : ∀ t, Keeps s0 (f t)) : Keeps s0 (Sys2Proof.Machine.okOr x s f) := by
  cases x with
  | error _ => exact h
  | ok t => exact k t

theorem Keeps.assignPieces {s0 : State} (s : State) (p : Nat) (b : Bytes) (cores : List (Nat × List (Nat × Nat))) (h : Keeps s0 s) :
    Keeps s0 (State.assignPieces s p b cores) :=
  Keeps.okOr _ _ h fun _ => Keeps.okOr _ _ h fun _ => Keeps.keepPieces _ _ _ h

theorem Keeps.assignAttn {s0 : State} (s : State) (p : Nat) (b : Bytes) (cores : List (Nat × List (Nat × Nat))) (h : Keeps s0 s) : Keeps s0 (State.assignAttn s p b cores) :=
  Keeps.okOr _ _ h fun _ => by
    split
    · exact h
    · exact Keeps.keepPieces _ _ _ h

theorem Keeps.assignOn {s0 : State} (s : State) (p : Nat) (b : Bytes) (cores : List (Nat × List (Nat × Nat))) (h : Keeps s0 s) : Keeps s0 (State.assignOn s p b cores) := by
  unfold Sys2Proof.Machine.State.assignOn
  try dsimp only
  repeat'
      first
      | with_reducible assumption | with_reducible refine Keeps.assignAttn _ _ _ _ ?_ | with_reducible refine Keeps.assignPieces _ _ _ _ ?_
      | with_reducible refine Keeps.ite ?_ ?_

theorem Keeps.newTiles {s0 : State} (s : State) (ls : List Nat) (h : Keeps s0 s) : Keeps s0 (State.newTiles s ls) := by
  unfold Sys2Proof.Machine.State.newTiles
  try dsimp only
  repeat'
      first
      | with_reducible assumption | with_reducible refine Keeps.setEngines _ ?_ | with_reducible refine Keeps.ite ?_ ?_

theorem Keeps.startHead {s0 : State} (s : State) (q : Nat) (on : List (Nat × List (Nat × Nat))) (h : Keeps s0 s) : Keeps s0 (State.startHead s q on) := by
  unfold Sys2Proof.Machine.State.startHead
  try dsimp only
  repeat'
      first
      | with_reducible assumption | with_reducible refine Keeps.newTiles _ _ ?_ | with_reducible refine Keeps.wakeCores _ _ ?_
      | with_reducible refine Keeps.clearEngines _ _ ?_ | with_reducible refine Keeps.modHead _ _ _ ?_

theorem Keeps.releaseCores {s0 : State} (s : State) (q : Nat) (h : Keeps s0 s) : Keeps s0 (State.releaseCores s q) := by
  unfold Sys2Proof.Machine.State.releaseCores
  try dsimp only
  repeat'
      first
      | with_reducible assumption | with_reducible refine Keeps.restCores _ _ ?_ | with_reducible refine Keeps.clearEngines _ _ ?_
      | with_reducible refine Keeps.modHead _ _ _ ?_ | with_reducible refine Keeps.modQueue _ _ _ ?_ | with_reducible refine Keeps.modPart _ _ _ ?_
      | with_reducible refine Keeps.ite ?_ ?_ | intro _ | split

theorem Keeps.abortNotices {s0 : State} (s : State) (q : Nat) (h : Keeps s0 s) : Keeps s0 (State.abortNotices s q) := by
  unfold Sys2Proof.Machine.State.abortNotices
  try dsimp only
  repeat'
      first
      | with_reducible assumption | with_reducible refine Keeps.sendNotice _ _ _ _ _ _ _ _ _ _ _ ?_
      | with_reducible refine KeepsP.of (Keeps.sendNotice _ _ _ _ _ _ _ _ _ _ _ ?_) (by assumption)
      | with_reducible refine KeepsP.fst (Keeps.sendNotice _ _ _ _ _ _ _ _ _ _ _ ?_) | with_reducible refine Keeps.foldl _ _ _ ?_ ?_ | intro _ | split

theorem Keeps.answerSlow {s0 : State} (s : State) (q : Nat) (h : Keeps s0 s) : Keeps s0 (State.answerSlow s q) := by
  unfold Sys2Proof.Machine.State.answerSlow
  try dsimp only
  repeat'
      first
      | with_reducible assumption | with_reducible refine Keeps.modHead _ _ _ ?_ | with_reducible refine Keeps.releaseCredit _ _ _ _ ?_
      | with_reducible refine Keeps.ite ?_ ?_

theorem Keeps.discardRun {s0 : State} (s : State) (q : Nat) (h : Keeps s0 s) : Keeps s0 (State.discardRun s q) := by
  unfold Sys2Proof.Machine.State.discardRun
  try dsimp only
  repeat'
      first
      | with_reducible assumption | with_reducible refine Keeps.answerSlow _ _ ?_ | with_reducible refine Keeps.abortNotices _ _ ?_
      | with_reducible refine Keeps.releaseCores _ _ ?_ | with_reducible refine Keeps.clearEngines _ _ ?_ | with_reducible refine Keeps.modHead _ _ _ ?_
      | with_reducible refine Keeps.abortColl _ _ ?_ | with_reducible refine Keeps.dropWaiting _ _ ?_ | with_reducible refine Keeps.releaseCredit _ _ _ _ ?_

theorem Keeps.fixPoolWait {s0 : State} (s : State) (p : Nat) (h : Keeps s0 s) : Keeps s0 (State.fixPoolWait s p) := by
  unfold Sys2Proof.Machine.State.fixPoolWait
  try dsimp only
  repeat'
      first
      | with_reducible assumption | with_reducible refine Keeps.modStream _ _ _ ?_ | with_reducible refine Keeps.ite ?_ ?_

theorem Keeps.popHead {s0 : State} (s : State) (q : Nat) (h : Keeps s0 s) : Keeps s0 (State.popHead s q) := by
  unfold Sys2Proof.Machine.State.popHead
  try dsimp only
  repeat' first | with_reducible assumption | with_reducible refine Keeps.modQueue _ _ _ ?_

theorem Keeps.endFinal {s0 : State} (s : State) (q status : Nat) (h : Keeps s0 s) : Keeps s0 (State.endFinal s q status) := by
  unfold Sys2Proof.Machine.State.endFinal
  try dsimp only
  repeat'
      first
      | with_reducible assumption | with_reducible refine Keeps.popHead _ _ ?_ | with_reducible refine Keeps.complete _ _ _ _ ?_
      | with_reducible refine Keeps.modHead _ _ _ ?_ | with_reducible refine Keeps.modQueue _ _ _ ?_ | with_reducible refine Keeps.ite ?_ ?_ | intro _
      | split

theorem Keeps.endCmd {s0 : State} (s : State) (q status : Nat) (h : Keeps s0 s) : Keeps s0 (State.endCmd s q status) := by
  unfold Sys2Proof.Machine.State.endCmd
  try dsimp only
  repeat'
      first
      | with_reducible assumption | with_reducible refine Keeps.endFinal _ _ _ ?_ | with_reducible refine Keeps.fixPoolWait _ _ ?_
      | with_reducible refine Keeps.discardRun _ _ ?_ | with_reducible refine Keeps.modHead _ _ _ ?_ | with_reducible refine Keeps.ite ?_ ?_ | intro _
      | split

theorem Keeps.preempt {s0 : State} (s : State) (q : Nat) (h : Keeps s0 s) : Keeps s0 (State.preempt s q) := by
  unfold Sys2Proof.Machine.State.preempt
  try dsimp only
  repeat'
      first
      | with_reducible assumption | with_reducible refine Keeps.discardRun _ _ ?_ | with_reducible refine Keeps.modHead _ _ _ ?_
      | with_reducible refine Keeps.modAcct _ _ _ ?_ | with_reducible refine Keeps.linkSend _ _ ?_

theorem Keeps.reclaim {s0 : State} (q p a2 : Nat) (a3 : State) (h : Keeps s0 a3) : Keeps s0 (State.reclaim q p a2 a3) := by
  induction a2 generalizing q p a3 with
  | zero => (unfold Sys2Proof.Machine.State.reclaim; try dsimp only); repeat'
      first
      | with_reducible assumption
  | succ n ih => (unfold Sys2Proof.Machine.State.reclaim; try dsimp only); repeat'
      first
      | with_reducible assumption | (with_reducible refine ih _ _ _ ?_) | with_reducible refine Keeps.preempt _ _ ?_ | with_reducible refine Keeps.ite ?_ ?_
      | split

theorem Keeps.broken {s0 : State} (s : State) (v : Nat) (q : Option Nat) (h : Keeps s0 s) : Keeps s0 (State.broken s v q) := by
  unfold Sys2Proof.Machine.State.broken
  try dsimp only
  repeat'
      first
      | with_reducible assumption | with_reducible refine Keeps.event _ _ _ _ _ ?_ | with_reducible refine Keeps.modQueue _ _ _ ?_
      | with_reducible refine Keeps.modPart _ _ _ ?_ | intro _ | split

theorem Keeps.freeCore {s0 : State} (s : State) (l : Nat) (h : Keeps s0 s) : Keeps s0 (State.freeCore s l) := by
  unfold Sys2Proof.Machine.State.freeCore
  try dsimp only
  repeat' first | with_reducible assumption | with_reducible refine Keeps.preempt _ _ ?_ | split

theorem Keeps.replace {s0 : State} (s : State) (p l : Nat) (c : Claim) (h : Keeps s0 s) : KeepsQ s0 (State.replace s p l c) := by
  unfold Sys2Proof.Machine.State.replace
  try dsimp only
  repeat'
      first
      | with_reducible assumption | with_reducible refine Keeps.freeCore _ _ ?_ | with_reducible refine Keeps.preempt _ _ ?_
      | with_reducible refine KeepsQ.pair ?_ | intro _ | split

theorem Keeps.claim {s0 : State} (p : Nat) (l : List Nat) (c : Claim) (s : State) (h : Keeps s0 s) : KeepsQ s0 (State.claim p l c s) := by
  induction l generalizing c s with
  | nil => exact KeepsQ.pair h
  | cons x r ih =>
    unfold State.claim
    split
    · exact ih _ _ (Keeps.freeCore _ _ h)
    · exact ih _ _ (KeepsQ.snd (Keeps.replace _ _ _ _ h))

theorem Keeps.startC0 {s0 : State} (s : State) (q : Nat) (h : Keeps s0 s) : KeepsO s0 (State.startC0 s q) := by
  unfold State.startC0
  dsimp only
  split
  · exact KeepsO.none
  · split
    · exact KeepsO.some (Keeps.startHead _ _ _ h)
    · split
      · exact KeepsO.none
      · split
        · exact KeepsO.none
        · have k := fun l => KeepsQ.snd (Keeps.claim (s.queue q).part l {} s h)
          have m : ∀ (x : State) (l : List (Nat × Option Nat)) (y : List (Nat × List (Nat × Nat))), Keeps s0 x →
              Keeps s0 (l.foldl (fun s v => s.broken v.1 v.2) (y.foldl (fun s x => s.freeCore x.1) x)) := fun x l y e =>
            Keeps.foldl _ _ _ (fun _ _ e => Keeps.broken _ _ _ e) (Keeps.foldl _ _ _ (fun _ _ e => Keeps.freeCore _ _ e) e)
          exact KeepsO.some (Keeps.startHead _ _ _ (Keeps.assignOn _ _ _ _ (Keeps.linkSend _ _ (m _ _ _ (k _)))))

theorem Keeps.startOn {s0 : State} (s : State) (q : Nat) (cores : List Nat) (h : Keeps s0 s) : Keeps s0 (State.startOn s q cores) := by
  unfold Sys2Proof.Machine.State.startOn
  try dsimp only
  repeat'
      first
      | with_reducible assumption | with_reducible refine Keeps.startHead _ _ _ ?_ | with_reducible refine Keeps.assignOn _ _ _ _ ?_ | split

theorem Keeps.findSome {α : Type} {s0 : State} (f : α → Option State) (l : List α) (h : ∀ x, KeepsO s0 (f x)) : KeepsO s0 (l.findSome? f) := by
  refine ⟨fun t e => ?_⟩
  obtain ⟨x, _, hx⟩ := List.exists_of_findSome?_eq_some e
  exact (h x).out _ hx

theorem Keeps.bindMap {α β : Type} {s0 : State} (o : Option α) (f : α → Option β) (g : α → β → State) (h : ∀ a b, Keeps s0 (g a b)) :
    KeepsO s0 (o.bind fun a => (f a).map (g a)) := by
  refine ⟨fun t e => ?_⟩
  cases o with
  | none => cases e
  | some a =>
    simp only [Option.bind_some] at e
    cases hf : f a with
    | none => rw [hf] at e; cases e
    | some b => rw [hf] at e; cases e; exact h a b

theorem Keeps.scheduleStep {s0 : State} (s : State) (h : Keeps s0 s) : KeepsO s0 (State.scheduleStep s) := by
  unfold State.scheduleStep
  dsimp only
  split
  · exact KeepsO.some (Keeps.endFinal _ _ _ h)
  · split
    · exact KeepsO.some (Keeps.endFinal _ _ _ h)
    · split
      · rename_i e
        refine KeepsO.some (KeepsO.of (Keeps.findSome _ _ fun p => Keeps.findSome _ _ fun q => Keeps.startC0 _ _ h) e)
      · split
        · rename_i e
          exact KeepsO.some (KeepsO.of (Keeps.findSome _ _ fun p => Keeps.bindMap _ _ _ fun q cs => Keeps.startOn _ _ _ h) e)
        · exact Keeps.findSome _ _ fun p => Keeps.bindMap _ _ _ fun q cs => Keeps.startOn _ _ _ (Keeps.reclaim _ _ _ _ h)

theorem Keeps.readyQueue {s0 : State} (s : State) (q : Nat) (h : Keeps s0 s) : Keeps s0 (State.readyQueue s q) := by
  unfold Sys2Proof.Machine.State.readyQueue
  try dsimp only
  repeat'
      first
      | with_reducible assumption | with_reducible refine Keeps.modQueue _ _ _ ?_ | with_reducible refine Keeps.ite ?_ ?_

theorem Keeps.readyPart {s0 : State} (s : State) (p : Nat) (h : Keeps s0 s) : Keeps s0 (State.readyPart s p) := by
  unfold Sys2Proof.Machine.State.readyPart
  try dsimp only
  repeat'
      first
      | with_reducible assumption | with_reducible refine Keeps.modPart _ _ _ ?_ | with_reducible refine Keeps.ite ?_ ?_

theorem Keeps.serveSlow {s0 : State} (s : State) (q : Nat) (h : Keeps s0 s) : Keeps s0 (State.serveSlow s q) := by
  unfold Sys2Proof.Machine.State.serveSlow
  try dsimp only
  repeat'
      first
      | with_reducible assumption | with_reducible refine Keeps.modHead _ _ _ ?_ | with_reducible refine Keeps.refill _ _ ?_
      | with_reducible refine Keeps.releaseCredit _ _ _ _ ?_ | with_reducible refine Keeps.modAdm _ _ ?_ | with_reducible refine Keeps.ite ?_ ?_

theorem Keeps.askSlow {s0 : State} (s : State) (h : Keeps s0 s) : Keeps s0 (State.askSlow s) := by
  unfold Sys2Proof.Machine.State.askSlow
  try dsimp only
  repeat'
      first
      | with_reducible assumption | with_reducible refine Keeps.serveSlow _ _ ?_ | with_reducible refine Keeps.beginWait _ _ ?_
      | with_reducible refine Keeps.askCredit _ _ _ _ _ _ ?_ | with_reducible refine KeepsQ.of (Keeps.askCredit _ _ _ _ _ _ ?_) (by assumption)
      | with_reducible refine KeepsQ.snd (Keeps.askCredit _ _ _ _ _ _ ?_) | with_reducible refine Keeps.foldl _ _ _ ?_ ?_
      | with_reducible refine Keeps.ite ?_ ?_ | intro _

theorem Keeps.noteReady {s0 : State} (s : State) (h : Keeps s0 s) : Keeps s0 (State.noteReady s) := by
  unfold Sys2Proof.Machine.State.noteReady
  try dsimp only
  repeat'
      first
      | with_reducible assumption | with_reducible refine Keeps.askSlow _ ?_ | with_reducible refine Keeps.readyPart _ _ ?_
      | with_reducible refine Keeps.readyQueue _ _ ?_ | with_reducible refine Keeps.foldl _ _ _ ?_ ?_ | intro _

theorem Keeps.schedule {s0 : State} (a0 : Nat) (a1 : State) (h : Keeps s0 a1) : Keeps s0 (State.schedule a0 a1) := by
  induction a0 generalizing a1 with
  | zero => (unfold Sys2Proof.Machine.State.schedule; try dsimp only); repeat'
      first
      | with_reducible assumption
  | succ n ih => (unfold Sys2Proof.Machine.State.schedule; try dsimp only); repeat'
      first
      | with_reducible assumption | (with_reducible refine ih _ ?_) | with_reducible refine Keeps.scheduleStep _ ?_
      | with_reducible refine KeepsO.of (Keeps.scheduleStep _ ?_) (by assumption) | split

theorem Keeps.kick {s0 : State} (s : State) (h : Keeps s0 s) : Keeps s0 (State.kick s) := by
  unfold Sys2Proof.Machine.State.kick
  try dsimp only
  repeat' first | with_reducible assumption | with_reducible refine Keeps.schedule _ _ ?_ | with_reducible refine Keeps.noteReady _ ?_

theorem Keeps.takeStage {s0 : State} (s : State) (p cls : Nat) (t1Only : Bool) (home : Option Tier) (die : Option Nat) (h : Keeps s0 s) : KeepsQ s0 (State.takeStage s p cls t1Only home die) := by
  unfold Sys2Proof.Machine.State.takeStage
  try dsimp only
  repeat'
      first
      | with_reducible assumption | with_reducible refine Keeps.draw _ ?_ | with_reducible refine KeepsQ.of (Keeps.draw _ ?_) (by assumption)
      | with_reducible refine KeepsQ.snd (Keeps.draw _ ?_) | with_reducible refine KeepsQ.pair ?_ | intro _ | split | dsimp only

theorem Keeps.evacuate {s0 : State} (s : State) (p : Nat) (h : Keeps s0 s) : Keeps s0 (State.evacuate s p) := by
  unfold Sys2Proof.Machine.State.evacuate
  try dsimp only
  repeat'
      first
      | with_reducible assumption | with_reducible refine Keeps.startMove _ _ _ _ _ ?_ | with_reducible refine Keeps.setSlabs _ _ ?_
      | with_reducible refine Keeps.foldl _ _ _ ?_ ?_ | with_reducible refine Keeps.ite ?_ ?_ | intro _

theorem Keeps.refillFor {s0 : State} (s : State) (p cls who : Nat) (h : Keeps s0 s) : Keeps s0 (State.refillFor s p cls who) := by
  unfold Sys2Proof.Machine.State.refillFor
  try dsimp only
  repeat'
      first
      | with_reducible assumption | with_reducible refine Keeps.refill _ _ ?_ | with_reducible refine Keeps.releaseCredit _ _ _ _ ?_
      | with_reducible refine Keeps.askCredit _ _ _ _ _ _ ?_ | with_reducible refine KeepsQ.of (Keeps.askCredit _ _ _ _ _ _ ?_) (by assumption)
      | with_reducible refine KeepsQ.snd (Keeps.askCredit _ _ _ _ _ _ ?_) | with_reducible refine Keeps.ite ?_ ?_

theorem Keeps.allocate {s0 : State} (q a1 : Nat) (a2 : State) (h : Keeps s0 a2) : Keeps s0 (State.allocate q a1 a2) := by
  induction a1 generalizing q a2 with
  | zero => (unfold Sys2Proof.Machine.State.allocate; try dsimp only); repeat'
      first
      | with_reducible assumption
  | succ n ih => (unfold Sys2Proof.Machine.State.allocate; try dsimp only); repeat'
      first
      | with_reducible assumption | (with_reducible refine ih _ _ ?_) | with_reducible refine Keeps.refillFor _ _ _ _ ?_
      | with_reducible refine Keeps.takeStage _ _ _ _ _ _ ?_ | with_reducible refine KeepsQ.of (Keeps.takeStage _ _ _ _ _ _ ?_) (by assumption)
      | with_reducible refine KeepsQ.snd (Keeps.takeStage _ _ _ _ _ _ ?_) | with_reducible refine Keeps.beginWait _ _ ?_
      | with_reducible refine Keeps.modHead _ _ _ ?_ | intro _ | split

theorem Keeps.meterVectors {s0 : State} (s : State) (p a2 : Nat) (h : Keeps s0 s) : Keeps s0 (State.meterVectors s p a2) := by
  unfold Sys2Proof.Machine.State.meterVectors
  try dsimp only
  repeat' first | with_reducible assumption | with_reducible refine Keeps.setMeter _ ?_

theorem Keeps.setSends {s0 : State} (s : State) (q : Nat) (l : List TileSend) (h : Keeps s0 s) : Keeps s0 (State.setSends s q l) := by
  unfold Sys2Proof.Machine.State.setSends
  try dsimp only
  repeat' first | with_reducible assumption | with_reducible refine Keeps.modHead _ _ _ ?_

theorem Keeps.acceptTile {s0 : State} (s : State) (q : Nat) (t : TileSend) (l : List (Nat × Bytes)) (h : Keeps s0 s) :
    KeepsP s0 (State.acceptTile s q t l) := by
  have m : ∀ (l : List (Nat × Bytes)) (x : State × List Nat), Keeps s0 x.1 → Keeps s0 (l.foldl (fun (x : State × List Nat) y =>
      let z := State.sendChunks t.ep t.part (s.queue q).cls ((s.axisOf (s.queue q).part t.cut).getD anyAxis) (s.queue q).part 0 t.window t.attempt y.2.length y.1 y.2 x.1
      (z.1, x.2 ++ z.2)) x).1 := by
    intro l
    induction l with
    | nil => exact fun _ k => k
    | cons y r ih =>
      refine fun x k => ih _ ?_
      exact (Keeps.sendChunks t.ep t.part (s.queue q).cls ((s.axisOf (s.queue q).part t.cut).getD anyAxis) (s.queue q).part 0 t.window t.attempt y.2.length y.1 y.2 x.1 k).fst
  exact KeepsP.pair (Keeps.modHead _ _ _ (Keeps.meterBytes _ _ _ (m l (s, []) h)))

theorem Keeps.pushWindow {s0 : State} (q a1 : Nat) (a2 : TileSend) (a3 : State) (h : Keeps s0 a3) : KeepsP s0 (State.pushWindow q a1 a2 a3) := by
  induction a1 generalizing q a2 a3 with
  | zero => (unfold Sys2Proof.Machine.State.pushWindow; try dsimp only); repeat'
      first
      | with_reducible assumption | (with_reducible refine ih _ _ _ ?_)
      | (with_reducible refine KeepsP.fst (ih _ _ _ ?_)) | with_reducible refine Keeps.acceptTile _ _ _ _ ?_
      | with_reducible refine KeepsP.of (Keeps.acceptTile _ _ _ _ ?_) (by assumption) | with_reducible refine KeepsP.fst (Keeps.acceptTile _ _ _ _ ?_)
      | with_reducible refine Keeps.askCredit _ _ _ _ _ _ ?_ | with_reducible refine KeepsQ.of (Keeps.askCredit _ _ _ _ _ _ ?_) (by assumption)
      | with_reducible refine KeepsQ.snd (Keeps.askCredit _ _ _ _ _ _ ?_) | with_reducible refine KeepsP.pair ?_
  | succ n ih => (unfold Sys2Proof.Machine.State.pushWindow; try dsimp only); repeat'
      first
      | with_reducible assumption | (with_reducible refine ih _ _ _ ?_) | (with_reducible refine KeepsP.of (ih _ _ _ ?_) (by assumption))
      | (with_reducible refine KeepsP.fst (ih _ _ _ ?_)) | with_reducible refine Keeps.acceptTile _ _ _ _ ?_
      | with_reducible refine KeepsP.of (Keeps.acceptTile _ _ _ _ ?_) (by assumption) | with_reducible refine KeepsP.fst (Keeps.acceptTile _ _ _ _ ?_)
      | with_reducible refine Keeps.askCredit _ _ _ _ _ _ ?_ | with_reducible refine KeepsQ.of (Keeps.askCredit _ _ _ _ _ _ ?_) (by assumption)
      | with_reducible refine KeepsQ.snd (Keeps.askCredit _ _ _ _ _ _ ?_) | with_reducible refine KeepsP.pair ?_ | split

theorem Keeps.pushSends {s0 : State} (q : Nat) (a1 : List TileSend) (a2 : State) (h : Keeps s0 a2) : KeepsP s0 (State.pushSends q a1 a2) := by
  induction a1 generalizing q a2 with
  | nil => (unfold Sys2Proof.Machine.State.pushSends; try dsimp only); repeat'
      first
      | with_reducible assumption | (with_reducible refine ih _ _ ?_)
      | (with_reducible refine KeepsP.fst (ih _ _ ?_)) | with_reducible refine Keeps.pushWindow _ _ _ _ ?_
      | with_reducible refine KeepsP.of (Keeps.pushWindow _ _ _ _ ?_) (by assumption) | with_reducible refine KeepsP.fst (Keeps.pushWindow _ _ _ _ ?_)
      | with_reducible refine Keeps.nextAttempt _ _ _ _ ?_ | with_reducible refine KeepsQ.of (Keeps.nextAttempt _ _ _ _ ?_) (by assumption)
      | with_reducible refine KeepsQ.snd (Keeps.nextAttempt _ _ _ _ ?_) | with_reducible refine KeepsP.pair ?_
  | cons x r ih => (unfold Sys2Proof.Machine.State.pushSends; try dsimp only); repeat'
      first
      | with_reducible assumption | (with_reducible refine ih _ _ ?_) | (with_reducible refine KeepsP.of (ih _ _ ?_) (by assumption))
      | (with_reducible refine KeepsP.fst (ih _ _ ?_)) | with_reducible refine Keeps.pushWindow _ _ _ _ ?_
      | with_reducible refine KeepsP.of (Keeps.pushWindow _ _ _ _ ?_) (by assumption) | with_reducible refine KeepsP.fst (Keeps.pushWindow _ _ _ _ ?_)
      | with_reducible refine Keeps.nextAttempt _ _ _ _ ?_ | with_reducible refine KeepsQ.of (Keeps.nextAttempt _ _ _ _ ?_) (by assumption)
      | with_reducible refine KeepsQ.snd (Keeps.nextAttempt _ _ _ _ ?_) | with_reducible refine KeepsP.pair ?_ | split | dsimp only

theorem Keeps.pushTiles {s0 : State} (s : State) (q : Nat) (h : Keeps s0 s) : Keeps s0 (State.pushTiles s q) := by
  unfold Sys2Proof.Machine.State.pushTiles
  try dsimp only
  repeat'
      first
      | with_reducible assumption | with_reducible refine Keeps.pushSends _ _ _ ?_
      | with_reducible refine KeepsP.of (Keeps.pushSends _ _ _ ?_) (by assumption) | with_reducible refine KeepsP.fst (Keeps.pushSends _ _ _ ?_)
      | with_reducible refine Keeps.setSends _ _ _ ?_ | with_reducible refine Keeps.endCmd _ _ _ ?_ | with_reducible refine Keeps.beginWait _ _ ?_
      | with_reducible refine Keeps.modHead _ _ _ ?_ | with_reducible refine Keeps.ite ?_ ?_ | intro _ | split

theorem Keeps.settleRun {s0 : State} (s : State) (q : Nat) (h : Keeps s0 s) : Keeps s0 (State.settleRun s q) := by
  unfold Sys2Proof.Machine.State.settleRun
  try dsimp only
  repeat'
      first
      | with_reducible assumption | with_reducible refine Keeps.releaseCores _ _ ?_ | with_reducible refine Keeps.endWait _ _ ?_
      | with_reducible refine Keeps.modHead _ _ _ ?_ | with_reducible refine Keeps.linkSend _ _ ?_ | with_reducible refine Keeps.meterBytes _ _ _ ?_
      | with_reducible refine Keeps.ite ?_ ?_ | intro _ | split

theorem Keeps.stageRun {s0 : State} (s : State) (q : Nat) (a2 : RunRes) (eff : Effect) (h : Keeps s0 s) : Keeps s0 (State.stageRun s q a2 eff) := by
  unfold Sys2Proof.Machine.State.stageRun
  try dsimp only
  repeat'
      first
      | with_reducible assumption | with_reducible refine Keeps.setFresh _ ?_ | with_reducible refine Keeps.settleRun _ _ ?_
      | with_reducible refine Keeps.pushTiles _ _ ?_ | with_reducible refine Keeps.meterVectors _ _ _ ?_ | with_reducible refine Keeps.allocate _ _ _ ?_
      | with_reducible refine Keeps.endCmd _ _ _ ?_ | with_reducible refine Keeps.answerSlow _ _ ?_ | with_reducible refine Keeps.modHead _ _ _ ?_
      | with_reducible refine Keeps.linkSend _ _ ?_ | with_reducible refine Keeps.cellarRead _ _ _ _ ?_ | with_reducible refine Keeps.meterBytes _ _ _ ?_
      | with_reducible refine Keeps.touches _ _ _ ?_ | with_reducible refine Keeps.foldl _ _ _ ?_ ?_ | with_reducible refine Keeps.ite ?_ ?_ | intro _

theorem Keeps.settleSlabs {s0 : State} (s : State) (p : Nat) (slabs : List (Nat × Tier × Option Nat)) (writes : List Host.Cell) (h : Keeps s0 s) : Keeps s0 (State.settleSlabs s p slabs writes) := by
  unfold Sys2Proof.Machine.State.settleSlabs
  try dsimp only
  repeat'
      first
      | with_reducible assumption | with_reducible refine Keeps.retain _ _ _ ?_ | with_reducible refine Keeps.startMove _ _ _ _ _ ?_
      | with_reducible refine Keeps.dropMoves _ _ ?_ | with_reducible refine Keeps.nextFrame _ ?_
      | with_reducible refine KeepsQ.of (Keeps.nextFrame _ ?_) (by assumption) | with_reducible refine KeepsQ.snd (Keeps.nextFrame _ ?_)
      | with_reducible refine Keeps.modSlab _ _ _ ?_ | with_reducible refine Keeps.setDev _ _ ?_ ?_ | with_reducible refine Keeps.foldl _ _ _ ?_ ?_
      | exact fun (k : Safety.MemoryCanonical _) => k | exact fun k => Memory.wf_puts _ _ k.1 | intro _

theorem Keeps.setHomes {s0 : State} (s : State) (l : List (Nat × Tier)) (h : Keeps s0 s) : Keeps s0 (State.setHomes s l) := by
  unfold Sys2Proof.Machine.State.setHomes
  try dsimp only
  repeat'
      first
      | with_reducible assumption | with_reducible refine Keeps.setSlabs _ _ ?_ | with_reducible refine Keeps.ite ?_ ?_

theorem Keeps.pinSlab {s0 : State} (s : State) (a1 : Nat) (h : Keeps s0 s) : KeepsO s0 (State.pinSlab s a1) := by
  unfold Sys2Proof.Machine.State.pinSlab
  try dsimp only
  repeat'
      first
      | with_reducible assumption | with_reducible refine Keeps.abandonMove _ _ ?_ | with_reducible refine Keeps.startMove _ _ _ _ _ ?_
      | with_reducible refine Keeps.modSlab _ _ _ ?_ | with_reducible exact KeepsO.none | with_reducible refine KeepsO.some ?_ | intro _ | split

theorem Keeps.pinAll {s0 : State} (l : List Nat) (s : State) (h : Keeps s0 s) : KeepsO s0 (State.pinAll l s) := by
  induction l generalizing s with
  | nil => exact KeepsO.some h
  | cons k r ih =>
    have m := Keeps.pinSlab s k h
    unfold State.pinAll
    cases e : s.pinSlab k with
    | none => exact KeepsO.none
    | some x => exact ih _ (m.of e)

theorem Keeps.addGset {s0 : State} (s : State) (p a : Nat) (keys : List Nat) (h : Keeps s0 s) : Keeps s0 (State.addGset s p a keys) := by
  refine Keeps.modPart _ _ _ ?_
  cases e : State.pinAll keys s with
  | none => exact h
  | some x => exact (Keeps.pinAll _ _ h).of e

theorem Keeps.dropGset {s0 : State} (s : State) (p a : Nat) (h : Keeps s0 s) : Keeps s0 (State.dropGset s p a) := by
  unfold Sys2Proof.Machine.State.dropGset
  try dsimp only
  repeat'
      first
      | with_reducible assumption | with_reducible refine Keeps.setSlabs _ _ ?_ | with_reducible refine Keeps.modPart _ _ _ ?_

theorem Keeps.applyEffect {s0 : State} (s : State) (q : Nat) (e : Effect) (h : Keeps s0 s) : Keeps s0 (State.applyEffect s q e) := by
  unfold Sys2Proof.Machine.State.applyEffect
  try dsimp only
  repeat'
      first
      | with_reducible assumption | with_reducible refine Keeps.dropGset _ _ _ ?_ | with_reducible refine Keeps.addGset _ _ _ _ ?_
      | with_reducible refine Keeps.stepMark _ _ ?_ | with_reducible refine Keeps.modStream _ _ _ ?_ | with_reducible refine Keeps.dropColl _ _ ?_
      | with_reducible refine Keeps.modFab _ _ ?_ | with_reducible refine Keeps.unmapSlabs _ _ _ ?_ | with_reducible refine Keeps.mapRegion _ _ _ ?_
      | with_reducible refine Keeps.modPart _ _ _ ?_ | with_reducible refine Keeps.ite ?_ ?_ | intro _ | split

theorem Keeps.commitNotices {s0 : State} (s : State) (q : Nat) (h : Keeps s0 s) : Keeps s0 (State.commitNotices s q) := by
  unfold Sys2Proof.Machine.State.commitNotices
  try dsimp only
  repeat'
      first
      | with_reducible assumption | with_reducible refine Keeps.sendNotice _ _ _ _ _ _ _ _ _ _ _ ?_
      | with_reducible refine KeepsP.of (Keeps.sendNotice _ _ _ _ _ _ _ _ _ _ _ ?_) (by assumption)
      | with_reducible refine KeepsP.fst (Keeps.sendNotice _ _ _ _ _ _ _ _ _ _ _ ?_) | with_reducible refine Keeps.foldl _ _ _ ?_ ?_ | intro _ | split

theorem Memory.wf_applyRecUpd (m : Memory) (u : RecUpd) (h : Memory.wf m = true) : Memory.wf (applyRecUpd m u) = true := by
  unfold applyRecUpd
  dsimp only
  split <;> repeat' first | with_reducible exact h | with_reducible apply Memory.wf_write

theorem Memory.wf_applyRecUpds (l : List RecUpd) (m : Memory) (h : Memory.wf m = true) : Memory.wf (l.foldl applyRecUpd m) = true := by
  induction l generalizing m with
  | nil => exact h
  | cons u r ih => exact ih _ (Memory.wf_applyRecUpd m u h)

theorem Keeps.publish {s0 : State} (s : State) (q : Nat) (l : List RecUpd) (e : Effect) (h : Keeps s0 s) :
    Keeps s0 (((s.setDev (l.foldl applyRecUpd s.dev)).applyEffect q e).commitNotices q) :=
  Keeps.commitNotices _ _ (Keeps.applyEffect _ _ _ (Keeps.setDev _ _ h fun c => Memory.wf_applyRecUpds _ _ c.1))

theorem Keeps.commitPoint {s0 : State} (s : State) (q : Nat) (h : Keeps s0 s) : Keeps s0 (State.commitPoint s q) := by
  unfold State.commitPoint
  split
  · exact h
  · rename_i c _
    have k := Keeps.setHomes _ c.staged.tiers (Keeps.settleSlabs _ (s.queue q).part c.staged.slabs c.staged.writes (Keeps.endWait _ q h))
    dsimp only
    generalize ((s.endWait q).settleSlabs (s.queue q).part c.staged.slabs c.staged.writes).setHomes c.staged.tiers = x at k
    have m := Keeps.publish x q c.staged.recs c.staged.effect k
    generalize ((x.setDev (c.staged.recs.foldl applyRecUpd x.dev)).applyEffect q c.staged.effect).commitNotices q = y at m
    split
    · exact m
    · exact Keeps.fixPoolWait _ _ (Keeps.complete _ _ _ _ (Keeps.popHead _ _ m))

theorem Keeps.effectRoom {s0 : State} (s : State) (p : Nat) (e : Effect) (h : Keeps s0 s) : KeepsQ s0 (State.effectRoom s p e) := by
  unfold Sys2Proof.Machine.State.effectRoom
  try dsimp only
  repeat'
      first
      | with_reducible assumption | with_reducible refine Keeps.pinAll _ _ ?_ | with_reducible refine KeepsO.of (Keeps.pinAll _ _ ?_) (by assumption)
      | with_reducible refine Keeps.refillTier _ _ _ _ ?_ | with_reducible refine KeepsQ.pair ?_ | intro _ | split

theorem Keeps.carryReads {s0 : State} (s : State) (q : Nat) (a2 : Slab) (h : Keeps s0 s) : Keeps s0 (State.carryReads s q a2) := by
  unfold Sys2Proof.Machine.State.carryReads
  try dsimp only
  repeat'
      first
      | with_reducible assumption | with_reducible refine Keeps.cellarRead _ _ _ _ ?_ | with_reducible refine Keeps.meterBytes _ _ _ ?_
      | with_reducible refine Keeps.foldl _ _ _ ?_ ?_ | with_reducible refine Keeps.ite ?_ ?_ | intro _

theorem Keeps.carryOver {s0 : State} (q : Nat) (a1 : List Nat) (a2 : State) (h : Keeps s0 a2) : KeepsQ s0 (State.carryOver q a1 a2) := by
  induction a1 generalizing q a2 with
  | nil => (unfold Sys2Proof.Machine.State.carryOver; try dsimp only); repeat'
      first
      | with_reducible assumption | (with_reducible refine ih _ _ ?_)
      | (with_reducible refine KeepsQ.snd (ih _ _ ?_)) | with_reducible refine Keeps.carryReads _ _ _ ?_
      | with_reducible refine Keeps.releaseCredit _ _ _ _ ?_ | with_reducible refine Keeps.askCredit _ _ _ _ _ _ ?_
      | with_reducible refine KeepsQ.of (Keeps.askCredit _ _ _ _ _ _ ?_) (by assumption) | with_reducible refine KeepsQ.snd (Keeps.askCredit _ _ _ _ _ _ ?_)
      | with_reducible refine KeepsQ.pair ?_
  | cons x r ih => (unfold Sys2Proof.Machine.State.carryOver; try dsimp only); repeat'
      first
      | with_reducible assumption | (with_reducible refine ih _ _ ?_) | (with_reducible refine KeepsQ.of (ih _ _ ?_) (by assumption))
      | (with_reducible refine KeepsQ.snd (ih _ _ ?_)) | with_reducible refine Keeps.carryReads _ _ _ ?_
      | with_reducible refine Keeps.releaseCredit _ _ _ _ ?_ | with_reducible refine Keeps.askCredit _ _ _ _ _ _ ?_
      | with_reducible refine KeepsQ.of (Keeps.askCredit _ _ _ _ _ _ ?_) (by assumption) | with_reducible refine KeepsQ.snd (Keeps.askCredit _ _ _ _ _ _ ?_)
      | with_reducible refine KeepsQ.pair ?_ | split

theorem Keeps.commitHead {s0 : State} (s : State) (q : Nat) (h : Keeps s0 s) : Keeps s0 (State.commitHead s q) := by
  unfold Sys2Proof.Machine.State.commitHead
  try dsimp only
  repeat'
      first
      | with_reducible assumption | with_reducible refine Keeps.carryOver _ _ _ ?_
      | with_reducible refine KeepsQ.of (Keeps.carryOver _ _ _ ?_) (by assumption) | with_reducible refine KeepsQ.snd (Keeps.carryOver _ _ _ ?_)
      | with_reducible refine Keeps.effectRoom _ _ _ ?_ | with_reducible refine KeepsQ.of (Keeps.effectRoom _ _ _ ?_) (by assumption)
      | with_reducible refine KeepsQ.snd (Keeps.effectRoom _ _ _ ?_) | with_reducible refine Keeps.commitPoint _ _ ?_
      | with_reducible refine Keeps.endCmd _ _ _ ?_ | with_reducible refine Keeps.fixPoolWait _ _ ?_ | with_reducible refine Keeps.beginWait _ _ ?_
      | with_reducible refine Keeps.modHead _ _ _ ?_ | with_reducible refine Keeps.modQueue _ _ _ ?_ | with_reducible refine Keeps.ite ?_ ?_ | intro _
      | split

theorem Keeps.wakeTiles {s0 : State} (s : State) (h : Keeps s0 s) : Keeps s0 (State.wakeTiles s) := by
  unfold Sys2Proof.Machine.State.wakeTiles
  try dsimp only
  repeat'
      first
      | with_reducible assumption | with_reducible refine Keeps.settleRun _ _ ?_ | with_reducible refine Keeps.pushTiles _ _ ?_
      | with_reducible refine Keeps.foldl _ _ _ ?_ ?_ | with_reducible refine Keeps.ite ?_ ?_ | intro _ | split

theorem Keeps.evacuateAll {s0 : State} (s : State) (h : Keeps s0 s) : Keeps s0 (State.evacuateAll s) := by
  unfold Sys2Proof.Machine.State.evacuateAll
  try dsimp only
  repeat'
      first
      | with_reducible assumption | with_reducible refine Keeps.evacuate _ _ ?_ | with_reducible refine Keeps.foldl _ _ _ ?_ ?_
      | with_reducible refine Keeps.ite ?_ ?_ | intro _

theorem Keeps.settle {s0 : State} (s : State) (h : Keeps s0 s) : Keeps s0 (State.settle s) := by
  unfold Sys2Proof.Machine.State.settle
  try dsimp only
  repeat'
      first
      | with_reducible assumption | with_reducible refine Keeps.evacuateAll _ ?_ | with_reducible refine Keeps.wakeTiles _ ?_
      | with_reducible refine Keeps.kick _ ?_

theorem Keeps.killIndexed {s0 : State} (s : State) (q i : Nat) (h : Keeps s0 s) : KeepsP s0 (State.killIndexed s q i) := by
  unfold Sys2Proof.Machine.State.killIndexed
  try dsimp only
  repeat'
      first
      | with_reducible assumption | with_reducible refine Keeps.endFinal _ _ _ ?_ | with_reducible refine Keeps.fixPoolWait _ _ ?_
      | with_reducible refine Keeps.discardRun _ _ ?_ | with_reducible refine Keeps.complete _ _ _ _ ?_ | with_reducible refine Keeps.modQueue _ _ _ ?_
      | with_reducible refine KeepsP.pair ?_ | intro _ | split

theorem Keeps.killEach {s0 : State} (q : Nat) (a1 : List Nat) (a2 : State) (h : Keeps s0 a2) : KeepsP s0 (State.killEach q a1 a2) := by
  induction a1 generalizing q a2 with
  | nil => (unfold Sys2Proof.Machine.State.killEach; try dsimp only); repeat'
      first
      | with_reducible assumption | (with_reducible refine ih _ _ ?_)
      | (with_reducible refine KeepsP.fst (ih _ _ ?_)) | with_reducible refine Keeps.killIndexed _ _ _ ?_
      | with_reducible refine KeepsP.of (Keeps.killIndexed _ _ _ ?_) (by assumption) | with_reducible refine KeepsP.fst (Keeps.killIndexed _ _ _ ?_)
      | with_reducible refine KeepsP.pair ?_
  | cons x r ih => (unfold Sys2Proof.Machine.State.killEach; try dsimp only); repeat'
      first
      | with_reducible assumption | (with_reducible refine ih _ _ ?_) | (with_reducible refine KeepsP.of (ih _ _ ?_) (by assumption))
      | (with_reducible refine KeepsP.fst (ih _ _ ?_)) | with_reducible refine Keeps.killIndexed _ _ _ ?_
      | with_reducible refine KeepsP.of (Keeps.killIndexed _ _ _ ?_) (by assumption) | with_reducible refine KeepsP.fst (Keeps.killIndexed _ _ _ ?_)
      | with_reducible refine KeepsP.pair ?_

theorem Keeps.dropQueue {s0 : State} (s : State) (q : Nat) (h : Keeps s0 s) : Keeps s0 (State.dropQueue s q) := by
  unfold Sys2Proof.Machine.State.dropQueue
  try dsimp only
  repeat'
      first
      | with_reducible assumption | with_reducible refine Keeps.discardRun _ _ ?_ | with_reducible refine Keeps.modQueue _ _ _ ?_

theorem Keeps.freeQueue {s0 : State} (s : State) (q : Nat) (h : Keeps s0 s) : Keeps s0 (State.freeQueue s q) := by
  unfold Sys2Proof.Machine.State.freeQueue
  try dsimp only
  repeat' first | with_reducible assumption | with_reducible refine Keeps.modQueue _ _ _ ?_

theorem Keeps.releaseLeases {s0 : State} (s : State) (p : Nat) (l : List Lease) (h : Keeps s0 s) : Keeps s0 (State.releaseLeases s p l) := by
  unfold Sys2Proof.Machine.State.releaseLeases
  try dsimp only
  repeat'
      first
      | with_reducible assumption | with_reducible refine Keeps.partCtrl _ _ _ _ _ ?_ | with_reducible refine Keeps.foldl _ _ _ ?_ ?_ | intro _

theorem Keeps.loseHle {s0 : State} (s : State) (f : Nat → Lease → Bool) (h : Keeps s0 s) : Keeps s0 (State.loseHle s f) := by
  unfold Sys2Proof.Machine.State.loseHle
  try dsimp only
  repeat'
      first
      | with_reducible assumption | with_reducible refine Keeps.setHle _ ?_ | with_reducible refine Keeps.releaseLeases _ _ _ ?_
      | with_reducible refine Keeps.foldl _ _ _ ?_ ?_ | intro _

theorem Keeps.freePartition {s0 : State} (s : State) (p : Nat) (keep : List Lease) (h : Keeps s0 s) : Keeps s0 (State.freePartition s p keep) := by
  unfold Sys2Proof.Machine.State.freePartition
  try dsimp only
  repeat'
      first
      | with_reducible assumption | with_reducible refine Keeps.setMem _ ?_ ?_ | with_reducible refine Keeps.releaseLeases _ _ _ ?_
      | with_reducible refine Keeps.freeQueue _ _ ?_ | with_reducible refine Keeps.clearEngines _ _ ?_ | with_reducible refine Keeps.dropMoves _ _ ?_
      | with_reducible refine Keeps.modPart _ _ _ ?_ | with_reducible refine Keeps.foldl _ _ _ ?_ ?_ | exact fun (k : Safety.MemoryCanonical _) => k
      | exact fun k => ⟨Memory.wf_clear _ _ _ k.1, k.2⟩ | exact fun k => Memory.wf_clear _ _ _ k.1 | intro _

theorem Keeps.resetPart {s0 : State} (s : State) (p : Nat) (h : Keeps s0 s) : Keeps s0 (State.resetPart s p) := by
  unfold Sys2Proof.Machine.State.resetPart
  try dsimp only
  repeat'
      first
      | with_reducible assumption | with_reducible refine Keeps.setSec _ ?_ | with_reducible refine Keeps.freePartition _ _ _ ?_
      | with_reducible refine Keeps.dropQueue _ _ ?_ | with_reducible refine Keeps.foldl _ _ _ ?_ ?_ | with_reducible refine Keeps.ite ?_ ?_ | intro _

theorem Keeps.freeBlocks {s0 : State} (s : State) (q : Nat) (h : Keeps s0 s) : Keeps s0 (State.freeBlocks s q) := by
  unfold Sys2Proof.Machine.State.freeBlocks
  try dsimp only
  repeat'
      first
      | with_reducible assumption | with_reducible refine Keeps.setColl _ _ ?_ | with_reducible refine Keeps.releaseCredit _ _ _ _ ?_
      | with_reducible refine Keeps.ite ?_ ?_ | split

theorem Keeps.collSend {s0 : State} (s : State) (c : Coll) (a2 kind off : Nat) (b : Bytes) (h : Keeps s0 s) : KeepsP s0 (State.collSend s c a2 kind off b) := by
  unfold Sys2Proof.Machine.State.collSend
  try dsimp only
  repeat'
      first
      | with_reducible assumption | with_reducible refine Keeps.meterBytes _ _ _ ?_ | with_reducible refine Keeps.sendChunks _ _ _ _ _ _ _ _ _ _ _ _ ?_
      | with_reducible refine KeepsP.of (Keeps.sendChunks _ _ _ _ _ _ _ _ _ _ _ _ ?_) (by assumption)
      | with_reducible refine KeepsP.fst (Keeps.sendChunks _ _ _ _ _ _ _ _ _ _ _ _ ?_) | with_reducible refine KeepsP.pair ?_ | split

theorem Keeps.sendPulls {s0 : State} (q a1 : Nat) (a2 : State) (h : Keeps s0 a2) : Keeps s0 (State.sendPulls q a1 a2) := by
  induction a1 generalizing q a2 with
  | zero => (unfold Sys2Proof.Machine.State.sendPulls; try dsimp only); repeat'
      first
      | with_reducible assumption
  | succ n ih => (unfold Sys2Proof.Machine.State.sendPulls; try dsimp only); repeat'
      first
      | with_reducible assumption | (with_reducible refine ih _ _ ?_) | with_reducible refine Keeps.collSend _ _ _ _ _ _ ?_
      | with_reducible refine KeepsP.of (Keeps.collSend _ _ _ _ _ _ ?_) (by assumption) | with_reducible refine KeepsP.fst (Keeps.collSend _ _ _ _ _ _ ?_)
      | with_reducible refine Keeps.endCmd _ _ _ ?_ | with_reducible refine Keeps.endWait _ _ ?_ | with_reducible refine Keeps.beginWait _ _ ?_
      | with_reducible refine Keeps.setColl _ _ ?_ | with_reducible refine Keeps.askCredit _ _ _ _ _ _ ?_
      | with_reducible refine KeepsQ.of (Keeps.askCredit _ _ _ _ _ _ ?_) (by assumption) | with_reducible refine KeepsQ.snd (Keeps.askCredit _ _ _ _ _ _ ?_)
      | with_reducible refine Keeps.ite ?_ ?_ | intro _ | split

theorem Keeps.answerPull {s0 : State} (s : State) (q a2 off len : Nat) (h : Keeps s0 s) : Keeps s0 (State.answerPull s q a2 off len) := by
  unfold Sys2Proof.Machine.State.answerPull
  try dsimp only
  repeat'
      first
      | with_reducible assumption | with_reducible refine Keeps.collSend _ _ _ _ _ _ ?_
      | with_reducible refine KeepsP.of (Keeps.collSend _ _ _ _ _ _ ?_) (by assumption) | with_reducible refine KeepsP.fst (Keeps.collSend _ _ _ _ _ _ ?_)
      | with_reducible refine Keeps.endCmd _ _ _ ?_ | with_reducible refine Keeps.setColl _ _ ?_ | with_reducible refine Keeps.ite ?_ ?_ | intro _ | split

theorem Keeps.runColl {s0 : State} (s : State) (q : Nat) (h : Keeps s0 s) : Keeps s0 (State.runColl s q) := by
  unfold Sys2Proof.Machine.State.runColl
  try dsimp only
  repeat'
      first
      | with_reducible assumption | with_reducible refine Keeps.answerPull _ _ _ _ _ ?_ | with_reducible refine Keeps.sendPulls _ _ _ ?_
      | with_reducible refine Keeps.freeBlocks _ _ ?_ | with_reducible refine Keeps.stageRun _ _ _ _ ?_ | with_reducible refine Keeps.endCmd _ _ _ ?_
      | with_reducible refine Keeps.endWait _ _ ?_ | with_reducible refine Keeps.setColl _ _ ?_ | with_reducible refine Keeps.foldl _ _ _ ?_ ?_
      | with_reducible refine Keeps.ite ?_ ?_ | intro _ | split

theorem Keeps.announceTo {s0 : State} (c : Coll) (a1 : List Nat) (a2 : State) (h : Keeps s0 a2) : KeepsP s0 (State.announceTo c a1 a2) := by
  induction a1 generalizing c a2 with
  | nil => (unfold Sys2Proof.Machine.State.announceTo; try dsimp only); repeat'
      first
      | with_reducible assumption | (with_reducible refine ih _ _ ?_)
      | (with_reducible refine KeepsP.fst (ih _ _ ?_)) | with_reducible refine Keeps.collSend _ _ _ _ _ _ ?_
      | with_reducible refine KeepsP.of (Keeps.collSend _ _ _ _ _ _ ?_) (by assumption) | with_reducible refine KeepsP.fst (Keeps.collSend _ _ _ _ _ _ ?_)
      | with_reducible refine KeepsP.pair ?_
  | cons x r ih => (unfold Sys2Proof.Machine.State.announceTo; try dsimp only); repeat'
      first
      | with_reducible assumption | (with_reducible refine ih _ _ ?_) | (with_reducible refine KeepsP.of (ih _ _ ?_) (by assumption))
      | (with_reducible refine KeepsP.fst (ih _ _ ?_)) | with_reducible refine Keeps.collSend _ _ _ _ _ _ ?_
      | with_reducible refine KeepsP.of (Keeps.collSend _ _ _ _ _ _ ?_) (by assumption) | with_reducible refine KeepsP.fst (Keeps.collSend _ _ _ _ _ _ ?_)
      | with_reducible refine KeepsP.pair ?_

theorem Keeps.startColl {s0 : State} (s : State) (q : Nat) (entry : Bytes) (exchange : Bool) (h : Keeps s0 s) : Keeps s0 (State.startColl s q entry exchange) := by
  unfold Sys2Proof.Machine.State.startColl
  try dsimp only
  repeat'
      first
      | with_reducible assumption | with_reducible refine Keeps.announceTo _ _ _ ?_
      | with_reducible refine KeepsP.of (Keeps.announceTo _ _ _ ?_) (by assumption) | with_reducible refine KeepsP.fst (Keeps.announceTo _ _ _ ?_)
      | with_reducible refine Keeps.runColl _ _ ?_ | with_reducible refine Keeps.answerPull _ _ _ _ _ ?_ | with_reducible refine Keeps.endCmd _ _ _ ?_
      | with_reducible refine Keeps.setColl _ _ ?_ | with_reducible refine Keeps.cellarRead _ _ _ _ ?_ | with_reducible refine Keeps.meterBytes _ _ _ ?_
      | with_reducible refine Keeps.modFab _ _ ?_ | with_reducible refine Keeps.touches _ _ _ ?_ | with_reducible refine Keeps.foldl _ _ _ ?_ ?_
      | with_reducible refine Keeps.ite ?_ ?_ | intro _ | split

theorem Keeps.runColls {s0 : State} (s : State) (h : Keeps s0 s) : Keeps s0 (State.runColls s) := by
  unfold Sys2Proof.Machine.State.runColls
  try dsimp only
  repeat'
      first
      | with_reducible assumption | with_reducible refine Keeps.runColl _ _ ?_ | with_reducible refine Keeps.foldl _ _ _ ?_ ?_ | intro _

theorem Keeps.setCoreMem {s0 : State} (s : State) (core : Nat) (c : CoreMem) (h : Keeps s0 s) : Keeps s0 (State.setCoreMem s core c) := by
  unfold Sys2Proof.Machine.State.setCoreMem
  try dsimp only
  repeat' first | with_reducible assumption | with_reducible refine Keeps.setCoreMems _ ?_

theorem Keeps.modCoreMem {s0 : State} (s : State) (l : Nat) (f : CoreMem → CoreMem) (h : Keeps s0 s) : Keeps s0 (State.modCoreMem s l f) := by
  unfold Sys2Proof.Machine.State.modCoreMem
  try dsimp only
  repeat' first | with_reducible assumption | with_reducible refine Keeps.setCoreMem _ _ _ ?_ | split

theorem Keeps.movePart {s0 : State} (s : State) (p : Nat) (c0 : Bool) (own core : Nat) (a5 : Nat × Nat) (h : Keeps s0 s) : Keeps s0 (State.movePart s p c0 own core a5) := by
  unfold Sys2Proof.Machine.State.movePart
  try dsimp only
  repeat'
      first
      | with_reducible assumption | with_reducible refine Keeps.setCoreMem _ _ _ ?_ | with_reducible refine Keeps.linkSend _ _ ?_
      | with_reducible refine Keeps.ite ?_ ?_ | intro _ | split

theorem Keeps.moveParts {s0 : State} (s : State) (p : Nat) (c0 : Bool) (held : List (Nat × List (Nat × Nat))) (h : Keeps s0 s) : Keeps s0 (State.moveParts s p c0 held) := by
  unfold Sys2Proof.Machine.State.moveParts
  try dsimp only
  repeat'
      first
      | with_reducible assumption | with_reducible refine Keeps.movePart _ _ _ _ _ _ ?_ | with_reducible refine Keeps.foldl _ _ _ ?_ ?_ | intro _ | split

theorem Keeps.fillMems {s0 : State} (s : State) (q : Nat) (b : Bytes) (out : List Host.Cell) (h : Keeps s0 s) : Keeps s0 (State.fillMems s q b out) :=
  Keeps.okOr _ _ h fun _ => Keeps.okOr _ _ h fun _ => Keeps.moveParts _ _ _ _ (Keeps.foldl _ _ _ (fun _ _ k => Keeps.modCoreMem _ _ _ k) h)

theorem Keeps.fillChained {s0 : State} (s : State) (q : Nat) (b : Bytes) (out : List Host.Cell) (h : Keeps s0 s) : Keeps s0 (State.fillChained s q b out) :=
  Keeps.okOr _ _ h fun _ => Keeps.okOr _ _ h fun _ => Keeps.ite h (Keeps.foldl _ _ _ (fun _ _ k => Keeps.modCoreMem _ _ _ k) h)

theorem Keeps.runHead {s0 : State} (s : State) (q op : Nat) (f : State → Bytes → State) (h : Keeps s0 s) (hf : ∀ x b, Keeps s0 x → Keeps s0 (f x b)) :
    Keeps s0 (s.runHead q op f) := by
  unfold State.runHead
  split
  · exact h
  · split
    · exact Keeps.settle _ (hf _ _ h)
    · exact h

theorem Keeps.doorbell {s0 : State} (s : State) (q : Nat) (v : Word) (h : Keeps s0 s) : Keeps s0 (State.doorbell s q v) := by
  unfold Sys2Proof.Machine.State.doorbell
  try dsimp only
  repeat'
      first
      | with_reducible assumption | with_reducible refine Keeps.kick _ ?_ | with_reducible refine Keeps.fetchAll _ _ _ ?_
      | with_reducible refine Keeps.modQueue _ _ _ ?_ | with_reducible refine Keeps.ite ?_ ?_

theorem Keeps.execDoorbell {s0 : State} (q : Fin 64) (v : Word) (host : List HostBlk) (s : State) (h : Keeps s0 s) : KeepsR s0 (execDoorbell q v host s) := by
  unfold Sys2Proof.Machine.execDoorbell
  try dsimp only
  repeat'
      first
      | with_reducible assumption | with_reducible refine Keeps.doorbell _ _ _ ?_ | with_reducible refine Keeps.hostStore _ _ ?_
      | with_reducible refine Keeps.bar0 _ _ ?_ ?_ | with_reducible refine KeepsR.next ?_ | intro _

theorem Keeps.execNop {s0 : State} (q : Fin 64) (s : State) (h : Keeps s0 s) : KeepsR s0 (execNop q s) := by
  unfold Sys2Proof.Machine.execNop
  try dsimp only
  repeat'
      first
      | with_reducible assumption | with_reducible refine Keeps.runHead _ _ _ _ ?_ ?_ | with_reducible refine Keeps.stageRun _ _ _ _ ?_
      | with_reducible refine KeepsR.next ?_ | intro _

theorem Keeps.execProduct {s0 : State} (q : Fin 64) (s : State) (h : Keeps s0 s) : KeepsR s0 (execProduct q s) := by
  unfold Sys2Proof.Machine.execProduct
  try dsimp only
  repeat'
      first
      | with_reducible assumption | with_reducible refine Keeps.runHead _ _ _ _ ?_ ?_ | with_reducible refine Keeps.fillMems _ _ _ _ ?_
      | with_reducible refine Keeps.stageRun _ _ _ _ ?_ | with_reducible refine KeepsR.next ?_ | intro _ | split

theorem Keeps.execChained {s0 : State} (q : Fin 64) (s : State) (h : Keeps s0 s) : KeepsR s0 (execChained q s) := by
  unfold Sys2Proof.Machine.execChained
  try dsimp only
  repeat'
      first
      | with_reducible assumption | with_reducible refine Keeps.runHead _ _ _ _ ?_ ?_ | with_reducible refine Keeps.fillChained _ _ _ _ ?_
      | with_reducible refine Keeps.stageRun _ _ _ _ ?_ | with_reducible refine KeepsR.next ?_ | intro _ | split

theorem Keeps.execCollective {s0 : State} (q : Fin 64) (s : State) (h : Keeps s0 s) : KeepsR s0 (execCollective q s) := by
  unfold Sys2Proof.Machine.execCollective
  try dsimp only
  repeat'
      first
      | with_reducible assumption | with_reducible refine Keeps.runHead _ _ _ _ ?_ ?_ | with_reducible refine Keeps.startColl _ _ _ _ ?_
      | with_reducible refine KeepsR.next ?_ | intro _ | split

theorem Keeps.execExchange {s0 : State} (q : Fin 64) (s : State) (h : Keeps s0 s) : KeepsR s0 (execExchange q s) := by
  unfold Sys2Proof.Machine.execExchange
  try dsimp only
  repeat'
      first
      | with_reducible assumption | with_reducible refine Keeps.runHead _ _ _ _ ?_ ?_ | with_reducible refine Keeps.startColl _ _ _ _ ?_
      | with_reducible refine KeepsR.next ?_ | intro _ | split

theorem Keeps.execFinish {s0 : State} (q : Fin 64) (s : State) (h : Keeps s0 s) : KeepsR s0 (execFinish q s) := by
  unfold Sys2Proof.Machine.execFinish
  try dsimp only
  repeat'
      first
      | with_reducible assumption | with_reducible refine Keeps.runHead _ _ _ _ ?_ ?_ | with_reducible refine Keeps.stageRun _ _ _ _ ?_
      | with_reducible refine KeepsR.next ?_ | intro _

theorem Keeps.execOptimiser {s0 : State} (q : Fin 64) (s : State) (h : Keeps s0 s) : KeepsR s0 (execOptimiser q s) := by
  unfold Sys2Proof.Machine.execOptimiser
  try dsimp only
  repeat'
      first
      | with_reducible assumption | with_reducible refine Keeps.runHead _ _ _ _ ?_ ?_ | with_reducible refine Keeps.stageRun _ _ _ _ ?_
      | with_reducible refine KeepsR.next ?_ | intro _

theorem Keeps.execCopyIn {s0 : State} (q : Fin 64) (host : List HostBlk) (s : State) (h : Keeps s0 s) : KeepsR s0 (execCopyIn q host s) := by
  unfold Sys2Proof.Machine.execCopyIn
  try dsimp only
  repeat'
      first
      | with_reducible assumption | with_reducible refine Keeps.runHead _ _ _ _ ?_ ?_ | with_reducible refine Keeps.stageRun _ _ _ _ ?_
      | with_reducible refine Keeps.hostStore _ _ ?_ | with_reducible refine KeepsR.next ?_ | intro _ | split

theorem Keeps.execCopyOut {s0 : State} (q : Fin 64) (s : State) (h : Keeps s0 s) : KeepsR s0 (execCopyOut q s) := by
  unfold Sys2Proof.Machine.execCopyOut
  try dsimp only
  repeat'
      first
      | with_reducible assumption | with_reducible refine Keeps.runHead _ _ _ _ ?_ ?_ | with_reducible refine Keeps.stageRun _ _ _ _ ?_
      | with_reducible refine Keeps.hostWrite _ _ _ ?_ | with_reducible refine KeepsR.next ?_ | intro _ | split

theorem Keeps.execCopy {s0 : State} (q : Fin 64) (s : State) (h : Keeps s0 s) : KeepsR s0 (execCopy q s) := by
  unfold Sys2Proof.Machine.execCopy
  try dsimp only
  repeat'
      first
      | with_reducible assumption | with_reducible refine Keeps.runHead _ _ _ _ ?_ ?_ | with_reducible refine Keeps.stageRun _ _ _ _ ?_
      | with_reducible refine KeepsR.next ?_ | intro _

theorem Keeps.execMapRegion {s0 : State} (q : Fin 64) (s : State) (h : Keeps s0 s) : KeepsR s0 (execMapRegion q s) := by
  unfold Sys2Proof.Machine.execMapRegion
  try dsimp only
  repeat'
      first
      | with_reducible assumption | with_reducible refine Keeps.runHead _ _ _ _ ?_ ?_ | with_reducible refine Keeps.stageRun _ _ _ _ ?_
      | with_reducible refine KeepsR.next ?_ | intro _

theorem Keeps.execUnmapRegion {s0 : State} (q : Fin 64) (s : State) (h : Keeps s0 s) : KeepsR s0 (execUnmapRegion q s) := by
  unfold Sys2Proof.Machine.execUnmapRegion
  try dsimp only
  repeat'
      first
      | with_reducible assumption | with_reducible refine Keeps.runHead _ _ _ _ ?_ ?_ | with_reducible refine Keeps.stageRun _ _ _ _ ?_
      | with_reducible refine KeepsR.next ?_ | intro _

theorem Keeps.execRegisterGset {s0 : State} (q : Fin 64) (s : State) (h : Keeps s0 s) : KeepsR s0 (execRegisterGset q s) := by
  unfold Sys2Proof.Machine.execRegisterGset
  try dsimp only
  repeat'
      first
      | with_reducible assumption | with_reducible refine Keeps.runHead _ _ _ _ ?_ ?_ | with_reducible refine Keeps.stageRun _ _ _ _ ?_
      | with_reducible refine KeepsR.next ?_ | intro _ | split

theorem Keeps.execReleaseGset {s0 : State} (q : Fin 64) (s : State) (h : Keeps s0 s) : KeepsR s0 (execReleaseGset q s) := by
  unfold Sys2Proof.Machine.execReleaseGset
  try dsimp only
  repeat'
      first
      | with_reducible assumption | with_reducible refine Keeps.runHead _ _ _ _ ?_ ?_ | with_reducible refine Keeps.stageRun _ _ _ _ ?_
      | with_reducible refine KeepsR.next ?_ | intro _ | split

theorem Keeps.execStreamConfig {s0 : State} (q : Fin 64) (s : State) (h : Keeps s0 s) : KeepsR s0 (execStreamConfig q s) := by
  unfold Sys2Proof.Machine.execStreamConfig
  try dsimp only
  repeat'
      first
      | with_reducible assumption | with_reducible refine Keeps.runHead _ _ _ _ ?_ ?_ | with_reducible refine Keeps.stageRun _ _ _ _ ?_
      | with_reducible refine KeepsR.next ?_ | intro _ | split

theorem Keeps.execStepMark {s0 : State} (q : Fin 64) (s : State) (h : Keeps s0 s) : KeepsR s0 (execStepMark q s) := by
  unfold Sys2Proof.Machine.execStepMark
  try dsimp only
  repeat'
      first
      | with_reducible assumption | with_reducible refine Keeps.runHead _ _ _ _ ?_ ?_ | with_reducible refine Keeps.stageRun _ _ _ _ ?_
      | with_reducible refine KeepsR.next ?_ | intro _

theorem Keeps.execCommit {s0 : State} (q : Fin 64) (s : State) (h : Keeps s0 s) : KeepsR s0 (execCommit q s) := by
  unfold Sys2Proof.Machine.execCommit
  try dsimp only
  repeat'
      first
      | with_reducible assumption | with_reducible refine Keeps.settle _ ?_ | with_reducible refine Keeps.commitHead _ _ ?_
      | with_reducible refine KeepsR.next ?_

theorem Keeps.execStagingWaitEnd {s0 : State} (q : Fin 64) (s : State) (h : Keeps s0 s) : KeepsR s0 (execStagingWaitEnd q s) := by
  unfold Sys2Proof.Machine.execStagingWaitEnd
  try dsimp only
  repeat'
      first
      | with_reducible assumption | with_reducible refine Keeps.settle _ ?_ | with_reducible refine Keeps.settleRun _ _ ?_
      | with_reducible refine Keeps.allocate _ _ _ ?_ | with_reducible refine KeepsR.next ?_

theorem Keeps.execTileAccept {s0 : State} (q : Fin 64) (s : State) (h : Keeps s0 s) : KeepsR s0 (execTileAccept q s) := by
  unfold Sys2Proof.Machine.execTileAccept
  try dsimp only
  repeat'
      first
      | with_reducible assumption | with_reducible refine Keeps.settle _ ?_ | with_reducible refine Keeps.settleRun _ _ ?_
      | with_reducible refine Keeps.pushTiles _ _ ?_ | with_reducible refine KeepsR.next ?_ | split

theorem Keeps.writeKill {s0 : State} (s : State) (q : Nat) (v : Word) (h : Keeps s0 s) : Keeps s0 (State.writeKill s q v) := by
  unfold Sys2Proof.Machine.State.writeKill
  try dsimp only
  repeat'
      first
      | with_reducible assumption | with_reducible refine Keeps.killEach _ _ _ ?_
      | with_reducible refine KeepsP.of (Keeps.killEach _ _ _ ?_) (by assumption) | with_reducible refine KeepsP.fst (Keeps.killEach _ _ _ ?_)
      | with_reducible refine Keeps.killIndexed _ _ _ ?_ | with_reducible refine KeepsP.of (Keeps.killIndexed _ _ _ ?_) (by assumption)
      | with_reducible refine KeepsP.fst (Keeps.killIndexed _ _ _ ?_) | with_reducible refine Keeps.settle _ ?_
      | with_reducible refine Keeps.modQueue _ _ _ ?_ | with_reducible refine Keeps.ite ?_ ?_

theorem Keeps.execKill {s0 : State} (q : Fin 64) (v : Word) (s : State) (h : Keeps s0 s) : KeepsR s0 (execKill q v s) := by
  unfold Sys2Proof.Machine.execKill
  try dsimp only
  repeat'
      first
      | with_reducible assumption | with_reducible refine Keeps.writeKill _ _ _ ?_ | with_reducible refine Keeps.bar0 _ _ ?_ ?_
      | with_reducible refine KeepsR.next ?_ | intro _

theorem Keeps.execKillAll {s0 : State} (q : Fin 64) (v : Word) (s : State) (h : Keeps s0 s) : KeepsR s0 (execKillAll q v s) := by
  unfold Sys2Proof.Machine.execKillAll
  try dsimp only
  repeat'
      first
      | with_reducible assumption | with_reducible refine Keeps.writeKill _ _ _ ?_ | with_reducible refine Keeps.bar0 _ _ ?_ ?_
      | with_reducible refine KeepsR.next ?_ | intro _

theorem Keeps.execC0BudgetExceeded {s0 : State} (q : Fin 64) (s : State) (h : Keeps s0 s) : KeepsR s0 (execC0BudgetExceeded q s) := by
  unfold Sys2Proof.Machine.execC0BudgetExceeded
  try dsimp only
  repeat'
      first
      | with_reducible assumption | with_reducible refine Keeps.settle _ ?_ | with_reducible refine Keeps.endFinal _ _ _ ?_
      | with_reducible refine Keeps.fixPoolWait _ _ ?_ | with_reducible refine Keeps.discardRun _ _ ?_ | with_reducible refine KeepsR.next ?_ | split

theorem Keeps.execTokenRefill {s0 : State} (p : Fin 16) (s : State) (h : Keeps s0 s) : KeepsR s0 (execTokenRefill p s) := by
  unfold Sys2Proof.Machine.execTokenRefill
  try dsimp only
  repeat' first | with_reducible assumption | with_reducible refine Keeps.modPart _ _ _ ?_ | with_reducible refine KeepsR.next ?_

theorem Keeps.setEngine {s0 : State} (s : State) (core : Nat) (c : TileCtx) (h : Keeps s0 s) : Keeps s0 (State.setEngine s core c) := by
  unfold Sys2Proof.Machine.State.setEngine
  try dsimp only
  repeat' first | with_reducible assumption | with_reducible refine Keeps.setEngines _ ?_

theorem Keeps.tileOn {s0 : State} (s : State) (core op : Nat) (a : TileArgs) (h : Keeps s0 s) : Keeps s0 (State.tileOn s core op a) := by
  unfold Sys2Proof.Machine.State.tileOn
  try dsimp only
  repeat'
      first
      | with_reducible assumption | with_reducible refine Keeps.setEngine _ _ _ ?_ | with_reducible refine Keeps.settle _ ?_
      | with_reducible refine Keeps.endCmd _ _ _ ?_ | with_reducible refine Keeps.ite ?_ ?_ | split

theorem Keeps.execFma {s0 : State} (core : Fin 864) (a : TileArgs) (s : State) (h : Keeps s0 s) : KeepsR s0 (execFma core a s) := by
  unfold Sys2Proof.Machine.execFma
  try dsimp only
  repeat' first | with_reducible assumption | with_reducible refine Keeps.tileOn _ _ _ _ ?_ | with_reducible refine KeepsR.next ?_

theorem Keeps.execAdd {s0 : State} (core : Fin 864) (a : TileArgs) (s : State) (h : Keeps s0 s) : KeepsR s0 (execAdd core a s) := by
  unfold Sys2Proof.Machine.execAdd
  try dsimp only
  repeat' first | with_reducible assumption | with_reducible refine Keeps.tileOn _ _ _ _ ?_ | with_reducible refine KeepsR.next ?_

theorem Keeps.execMul {s0 : State} (core : Fin 864) (a : TileArgs) (s : State) (h : Keeps s0 s) : KeepsR s0 (execMul core a s) := by
  unfold Sys2Proof.Machine.execMul
  try dsimp only
  repeat' first | with_reducible assumption | with_reducible refine Keeps.tileOn _ _ _ _ ?_ | with_reducible refine KeepsR.next ?_

theorem Keeps.execVmax {s0 : State} (core : Fin 864) (a : TileArgs) (s : State) (h : Keeps s0 s) : KeepsR s0 (execVmax core a s) := by
  unfold Sys2Proof.Machine.execVmax
  try dsimp only
  repeat' first | with_reducible assumption | with_reducible refine Keeps.tileOn _ _ _ _ ?_ | with_reducible refine KeepsR.next ?_

theorem Keeps.execVmin {s0 : State} (core : Fin 864) (a : TileArgs) (s : State) (h : Keeps s0 s) : KeepsR s0 (execVmin core a s) := by
  unfold Sys2Proof.Machine.execVmin
  try dsimp only
  repeat' first | with_reducible assumption | with_reducible refine Keeps.tileOn _ _ _ _ ?_ | with_reducible refine KeepsR.next ?_

theorem Keeps.execCmplt {s0 : State} (core : Fin 864) (a : TileArgs) (s : State) (h : Keeps s0 s) : KeepsR s0 (execCmplt core a s) := by
  unfold Sys2Proof.Machine.execCmplt
  try dsimp only
  repeat' first | with_reducible assumption | with_reducible refine Keeps.tileOn _ _ _ _ ?_ | with_reducible refine KeepsR.next ?_

theorem Keeps.execSel {s0 : State} (core : Fin 864) (a : TileArgs) (s : State) (h : Keeps s0 s) : KeepsR s0 (execSel core a s) := by
  unfold Sys2Proof.Machine.execSel
  try dsimp only
  repeat' first | with_reducible assumption | with_reducible refine Keeps.tileOn _ _ _ _ ?_ | with_reducible refine KeepsR.next ?_

theorem Keeps.execExp2 {s0 : State} (core : Fin 864) (a : TileArgs) (s : State) (h : Keeps s0 s) : KeepsR s0 (execExp2 core a s) := by
  unfold Sys2Proof.Machine.execExp2
  try dsimp only
  repeat' first | with_reducible assumption | with_reducible refine Keeps.tileOn _ _ _ _ ?_ | with_reducible refine KeepsR.next ?_

theorem Keeps.execLog2 {s0 : State} (core : Fin 864) (a : TileArgs) (s : State) (h : Keeps s0 s) : KeepsR s0 (execLog2 core a s) := by
  unfold Sys2Proof.Machine.execLog2
  try dsimp only
  repeat' first | with_reducible assumption | with_reducible refine Keeps.tileOn _ _ _ _ ?_ | with_reducible refine KeepsR.next ?_

theorem Keeps.execRcp {s0 : State} (core : Fin 864) (a : TileArgs) (s : State) (h : Keeps s0 s) : KeepsR s0 (execRcp core a s) := by
  unfold Sys2Proof.Machine.execRcp
  try dsimp only
  repeat' first | with_reducible assumption | with_reducible refine Keeps.tileOn _ _ _ _ ?_ | with_reducible refine KeepsR.next ?_

theorem Keeps.execRsqrt {s0 : State} (core : Fin 864) (a : TileArgs) (s : State) (h : Keeps s0 s) : KeepsR s0 (execRsqrt core a s) := by
  unfold Sys2Proof.Machine.execRsqrt
  try dsimp only
  repeat' first | with_reducible assumption | with_reducible refine Keeps.tileOn _ _ _ _ ?_ | with_reducible refine KeepsR.next ?_

theorem Keeps.execRsum {s0 : State} (core : Fin 864) (a : TileArgs) (s : State) (h : Keeps s0 s) : KeepsR s0 (execRsum core a s) := by
  unfold Sys2Proof.Machine.execRsum
  try dsimp only
  repeat' first | with_reducible assumption | with_reducible refine Keeps.tileOn _ _ _ _ ?_ | with_reducible refine KeepsR.next ?_

theorem Keeps.execRmax {s0 : State} (core : Fin 864) (a : TileArgs) (s : State) (h : Keeps s0 s) : KeepsR s0 (execRmax core a s) := by
  unfold Sys2Proof.Machine.execRmax
  try dsimp only
  repeat' first | with_reducible assumption | with_reducible refine Keeps.tileOn _ _ _ _ ?_ | with_reducible refine KeepsR.next ?_

theorem Keeps.execCvt {s0 : State} (core : Fin 864) (a : TileArgs) (s : State) (h : Keeps s0 s) : KeepsR s0 (execCvt core a s) := by
  unfold Sys2Proof.Machine.execCvt
  try dsimp only
  repeat' first | with_reducible assumption | with_reducible refine Keeps.tileOn _ _ _ _ ?_ | with_reducible refine KeepsR.next ?_

theorem Keeps.execQnt {s0 : State} (core : Fin 864) (a : TileArgs) (s : State) (h : Keeps s0 s) : KeepsR s0 (execQnt core a s) := by
  unfold Sys2Proof.Machine.execQnt
  try dsimp only
  repeat' first | with_reducible assumption | with_reducible refine Keeps.tileOn _ _ _ _ ?_ | with_reducible refine KeepsR.next ?_

theorem Keeps.execAccRead {s0 : State} (core : Fin 864) (a : TileArgs) (s : State) (h : Keeps s0 s) : KeepsR s0 (execAccRead core a s) := by
  unfold Sys2Proof.Machine.execAccRead
  try dsimp only
  repeat' first | with_reducible assumption | with_reducible refine Keeps.tileOn _ _ _ _ ?_ | with_reducible refine KeepsR.next ?_

theorem Keeps.execLd {s0 : State} (core : Fin 864) (a : TileArgs) (s : State) (h : Keeps s0 s) : KeepsR s0 (execLd core a s) := by
  unfold Sys2Proof.Machine.execLd
  try dsimp only
  repeat' first | with_reducible assumption | with_reducible refine Keeps.tileOn _ _ _ _ ?_ | with_reducible refine KeepsR.next ?_

theorem Keeps.execSt {s0 : State} (core : Fin 864) (a : TileArgs) (s : State) (h : Keeps s0 s) : KeepsR s0 (execSt core a s) := by
  unfold Sys2Proof.Machine.execSt
  try dsimp only
  repeat' first | with_reducible assumption | with_reducible refine Keeps.tileOn _ _ _ _ ?_ | with_reducible refine KeepsR.next ?_

theorem Keeps.execBcast {s0 : State} (core : Fin 864) (a : TileArgs) (s : State) (h : Keeps s0 s) : KeepsR s0 (execBcast core a s) := by
  unfold Sys2Proof.Machine.execBcast
  try dsimp only
  repeat' first | with_reducible assumption | with_reducible refine Keeps.tileOn _ _ _ _ ?_ | with_reducible refine KeepsR.next ?_

theorem Keeps.execLoopRep {s0 : State} (core : Fin 864) (a : TileArgs) (s : State) (h : Keeps s0 s) : KeepsR s0 (execLoopRep core a s) := by
  unfold Sys2Proof.Machine.execLoopRep
  try dsimp only
  repeat' first | with_reducible assumption | with_reducible refine Keeps.tileOn _ _ _ _ ?_ | with_reducible refine KeepsR.next ?_

theorem Keeps.execEndTile {s0 : State} (core : Fin 864) (a : TileArgs) (s : State) (h : Keeps s0 s) : KeepsR s0 (execEndTile core a s) := by
  unfold Sys2Proof.Machine.execEndTile
  try dsimp only
  repeat' first | with_reducible assumption | with_reducible refine Keeps.tileOn _ _ _ _ ?_ | with_reducible refine KeepsR.next ?_

theorem Keeps.sendTile {s0 : State} (s : State) (core : Nat) (h : Keeps s0 s) : Keeps s0 (State.sendTile s core) := by
  unfold State.sendTile
  dsimp only
  split
  · split
    · exact h
    · exact Keeps.ite (Keeps.pushTiles _ _ (Keeps.setSends _ _ _ h)) (Keeps.settle _ (Keeps.endCmd _ _ _ h))
  · exact h

theorem Keeps.execSendTile {s0 : State} (core : Fin 864) (a : TileArgs) (s : State) (h : Keeps s0 s) : KeepsR s0 (execSendTile core a s) := by
  unfold Sys2Proof.Machine.execSendTile
  try dsimp only
  repeat'
      first
      | with_reducible assumption | with_reducible refine Keeps.sendTile _ _ ?_ | with_reducible refine Keeps.tileOn _ _ _ _ ?_
      | with_reducible refine KeepsR.next ?_ | with_reducible exact KeepsR.fault | split

end Sys2Proof.Machine
end

