-- ==== Sys2Proof/Laws/KeptPartitions.lean ====
section
/-! SUPPORT. What the operations and commands of partitions, windows, the directory and the host link keep. -/

namespace Sys2Proof.Machine

theorem Keeps.endAdmit {s0 : State} (s : State) (status : Nat) (h : Keeps s0 s) : Keeps s0 (State.endAdmit s status) := by
  unfold Sys2Proof.Machine.State.endAdmit
  try dsimp only
  repeat' first | with_reducible assumption | with_reducible refine Keeps.modFab _ _ ?_ | with_reducible refine Keeps.modAdm _ _ ?_

theorem Keeps.countLayout {s0 : State} (s : State) (h : Keeps s0 s) : Keeps s0 (State.countLayout s) := by
  unfold Sys2Proof.Machine.State.countLayout
  try dsimp only
  repeat' first | with_reducible assumption | with_reducible refine Keeps.setSec _ ?_

theorem Keeps.failAdmit {s0 : State} (s : State) (p status : Nat) (h : Keeps s0 s) : Keeps s0 (State.failAdmit s p status) := by
  unfold Sys2Proof.Machine.State.failAdmit
  try dsimp only
  repeat'
      first
      | with_reducible assumption | with_reducible refine Keeps.endAdmit _ _ ?_ | with_reducible refine Keeps.releaseLeases _ _ _ ?_
      | with_reducible refine Keeps.modPart _ _ _ ?_

theorem Keeps.createPart {s0 : State} (s : State) (d : AdmDesc) (h : Keeps s0 s) : Keeps s0 (State.createPart s d) := by
  unfold Sys2Proof.Machine.State.createPart
  try dsimp only
  repeat'
      first
      | with_reducible assumption | with_reducible refine Keeps.setMeter _ ?_ | with_reducible refine Keeps.countLayout _ ?_
      | with_reducible refine Keeps.endAdmit _ _ ?_ | with_reducible refine Keeps.modQueue _ _ _ ?_ | with_reducible refine Keeps.modPart _ _ _ ?_
      | with_reducible refine Keeps.foldl _ _ _ ?_ ?_ | intro _

theorem Keeps.tryAdmit {s0 : State} (s : State) (d : AdmDesc) (h : Keeps s0 s) : Keeps s0 (State.tryAdmit s d) := by
  unfold Sys2Proof.Machine.State.tryAdmit
  try dsimp only
  repeat'
      first
      | with_reducible assumption | with_reducible refine Keeps.createPart _ _ ?_ | with_reducible refine Keeps.failAdmit _ _ _ ?_
      | with_reducible refine Keeps.ite ?_ ?_

theorem Keeps.askFrom {s0 : State} (b : Bytes) (a1 : List Nat) (a2 : State) (h : Keeps s0 a2) : Keeps s0 (State.askFrom b a1 a2) := by
  induction a1 generalizing b a2 with
  | nil => (unfold Sys2Proof.Machine.State.askFrom; try dsimp only); repeat'
      first
      | with_reducible assumption | (with_reducible refine ih _ _ ?_) | with_reducible refine Keeps.failAdmit _ _ _ ?_
  | cons x r ih => (unfold Sys2Proof.Machine.State.askFrom; try dsimp only); repeat'
      first
      | with_reducible assumption | (with_reducible refine ih _ _ ?_) | with_reducible refine Keeps.failAdmit _ _ _ ?_
      | with_reducible refine Keeps.partCtrl _ _ _ _ _ ?_ | with_reducible refine Keeps.modFab _ _ ?_ | with_reducible refine Keeps.ite ?_ ?_

theorem Keeps.askNext {s0 : State} (s : State) (a1 : Nat) (b : Bytes) (h : Keeps s0 s) : Keeps s0 (State.askNext s a1 b) := by
  unfold Sys2Proof.Machine.State.askNext
  try dsimp only
  repeat'
      first
      | with_reducible assumption | with_reducible refine Keeps.askFrom _ _ _ ?_ | with_reducible refine Keeps.tryAdmit _ _ ?_
      | with_reducible refine Keeps.ite ?_ ?_

theorem Keeps.reclaimLent {s0 : State} (a0 : Nat) (a1 : List Lent) (a2 : State) (h : Keeps s0 a2) : Keeps s0 (State.reclaimLent a0 a1 a2) := by
  induction a1 generalizing a0 a2 with
  | nil => (unfold Sys2Proof.Machine.State.reclaimLent; try dsimp only); repeat'
      first
      | with_reducible assumption
  | cons x r ih => (unfold Sys2Proof.Machine.State.reclaimLent; try dsimp only); repeat'
      first
      | with_reducible assumption | (with_reducible refine ih _ _ ?_) | with_reducible refine Keeps.setMem _ ?_ ?_
      | with_reducible refine Keeps.sendCtrl _ _ _ _ _ ?_ | with_reducible refine Keeps.ite ?_ ?_ | exact fun (k : Safety.MemoryCanonical _) => k

theorem Keeps.reclaimSlabs {s0 : State} (s : State) (a1 : Nat) (h : Keeps s0 s) : Keeps s0 (State.reclaimSlabs s a1) := by
  unfold Sys2Proof.Machine.State.reclaimSlabs
  try dsimp only
  repeat' first | with_reducible assumption | with_reducible refine Keeps.reclaimLent _ _ _ ?_

theorem Keeps.lentBack {s0 : State} (s : State) (h : Keeps s0 s) : Keeps s0 (State.lentBack s) := by
  unfold Sys2Proof.Machine.State.lentBack
  try dsimp only
  repeat' first | with_reducible assumption | with_reducible refine Keeps.askNext _ _ _ ?_ | with_reducible refine Keeps.ite ?_ ?_ | split

theorem Keeps.takeBack {s0 : State} (s : State) (f : Lent → Bool) (h : Keeps s0 s) : Keeps s0 (State.takeBack s f) := by
  unfold Sys2Proof.Machine.State.takeBack
  try dsimp only
  repeat'
      first
      | with_reducible assumption | with_reducible refine Keeps.setMem _ ?_ ?_ | with_reducible refine Keeps.lentBack _ ?_
      | exact fun (k : Safety.MemoryCanonical _) => k

theorem Keeps.admitNow {s0 : State} (s : State) (h : Keeps s0 s) : Keeps s0 (State.admitNow s) := by
  unfold Sys2Proof.Machine.State.admitNow
  try dsimp only
  repeat'
      first
      | with_reducible assumption | with_reducible refine Keeps.reclaimSlabs _ _ ?_ | with_reducible refine Keeps.askNext _ _ _ ?_
      | with_reducible refine Keeps.endAdmit _ _ ?_ | with_reducible refine Keeps.modFab _ _ ?_ | with_reducible refine Keeps.modAdm _ _ ?_
      | with_reducible refine Keeps.modPart _ _ _ ?_ | with_reducible refine Keeps.ite ?_ ?_

theorem Keeps.modifyNow {s0 : State} (s : State) (h : Keeps s0 s) : Keeps s0 (State.modifyNow s) := by
  unfold Sys2Proof.Machine.State.modifyNow
  try dsimp only
  repeat'
      first
      | with_reducible assumption | with_reducible refine Keeps.countLayout _ ?_ | with_reducible refine Keeps.endAdmit _ _ ?_
      | with_reducible refine Keeps.clearEngines _ _ ?_ | with_reducible refine Keeps.modPart _ _ _ ?_ | with_reducible refine Keeps.ite ?_ ?_

theorem Keeps.writeAdmit {s0 : State} (s : State) (v : Word) (h : Keeps s0 s) : Keeps s0 (State.writeAdmit s v) := by
  unfold Sys2Proof.Machine.State.writeAdmit
  try dsimp only
  repeat'
      first
      | with_reducible assumption | with_reducible refine Keeps.modifyNow _ ?_ | with_reducible refine Keeps.admitNow _ ?_
      | with_reducible refine Keeps.endAdmit _ _ ?_ | with_reducible refine Keeps.resetPart _ _ ?_ | with_reducible refine Keeps.modAdm _ _ ?_
      | with_reducible refine Keeps.ite ?_ ?_

theorem Keeps.execAdmit {s0 : State} (v : Word) (host : List HostBlk) (s : State) (h : Keeps s0 s) : KeepsR s0 (execAdmit v host s) := by
  unfold Sys2Proof.Machine.execAdmit
  try dsimp only
  repeat'
      first
      | with_reducible assumption | with_reducible refine Keeps.writeAdmit _ _ ?_ | with_reducible refine Keeps.settle _ ?_
      | with_reducible refine Keeps.hostStore _ _ ?_ | with_reducible refine Keeps.bar0 _ _ ?_ ?_ | with_reducible refine KeepsR.next ?_ | intro _

theorem Keeps.execModify {s0 : State} (v : Word) (host : List HostBlk) (s : State) (h : Keeps s0 s) : KeepsR s0 (execModify v host s) := by
  unfold Sys2Proof.Machine.execModify
  try dsimp only
  repeat'
      first
      | with_reducible assumption | with_reducible refine Keeps.writeAdmit _ _ ?_ | with_reducible refine Keeps.settle _ ?_
      | with_reducible refine Keeps.hostStore _ _ ?_ | with_reducible refine Keeps.bar0 _ _ ?_ ?_ | with_reducible refine KeepsR.next ?_ | intro _

theorem Keeps.execPartitionReset {s0 : State} (v : Word) (s : State) (h : Keeps s0 s) : KeepsR s0 (execPartitionReset v s) := by
  unfold Sys2Proof.Machine.execPartitionReset
  try dsimp only
  repeat'
      first
      | with_reducible assumption | with_reducible refine Keeps.writeAdmit _ _ ?_ | with_reducible refine Keeps.settle _ ?_
      | with_reducible refine Keeps.bar0 _ _ ?_ ?_ | with_reducible refine KeepsR.next ?_ | intro _

theorem Keeps.setGrants {s0 : State} (s : State) (l : List (Nat × Nat)) (h : Keeps s0 s) : Keeps s0 (State.setGrants s l) := by
  unfold Sys2Proof.Machine.State.setGrants
  try dsimp only
  repeat'
      first
      | with_reducible assumption | with_reducible refine Keeps.setMem _ ?_ ?_ | exact fun (k : Safety.MemoryCanonical _) => k

theorem Keeps.writeT3 {s0 : State} (s : State) (v : Word) (h : Keeps s0 s) : Keeps s0 (State.writeT3 s v) := by
  unfold Sys2Proof.Machine.State.writeT3
  try dsimp only
  repeat'
      first
      | with_reducible assumption | with_reducible refine Keeps.setMem _ ?_ ?_ | with_reducible refine Keeps.setGrants _ _ ?_
      | with_reducible refine Keeps.ite ?_ ?_ | exact fun (k : Safety.MemoryCanonical _) => k

theorem Keeps.execGrant {s0 : State} (v : Word) (host : List HostBlk) (s : State) (h : Keeps s0 s) : KeepsR s0 (execGrant v host s) := by
  unfold Sys2Proof.Machine.execGrant
  try dsimp only
  repeat'
      first
      | with_reducible assumption | with_reducible refine Keeps.writeT3 _ _ ?_ | with_reducible refine Keeps.hostStore _ _ ?_
      | with_reducible refine Keeps.bar0 _ _ ?_ ?_ | with_reducible refine KeepsR.next ?_ | intro _

theorem Keeps.execRevoke {s0 : State} (v : Word) (s : State) (h : Keeps s0 s) : KeepsR s0 (execRevoke v s) := by
  unfold Sys2Proof.Machine.execRevoke
  try dsimp only
  repeat'
      first
      | with_reducible assumption | with_reducible refine Keeps.writeT3 _ _ ?_ | with_reducible refine Keeps.bar0 _ _ ?_ ?_
      | with_reducible refine KeepsR.next ?_ | intro _

theorem Keeps.writeLend {s0 : State} (s : State) (v : Word) (h : Keeps s0 s) : Keeps s0 (State.writeLend s v) := by
  unfold Sys2Proof.Machine.State.writeLend
  try dsimp only
  repeat'
      first
      | with_reducible assumption | with_reducible refine Keeps.setMem _ ?_ ?_ | with_reducible refine Keeps.reclaimSlabs _ _ ?_
      | exact fun (k : Safety.MemoryCanonical _) => k

theorem Keeps.execLendMaxWrite {s0 : State} (v : Word) (s : State) (h : Keeps s0 s) : KeepsR s0 (execLendMaxWrite v s) := by
  unfold Sys2Proof.Machine.execLendMaxWrite
  try dsimp only
  repeat'
      first
      | with_reducible assumption | with_reducible refine Keeps.writeLend _ _ ?_ | with_reducible refine Keeps.bar0 _ _ ?_ ?_
      | with_reducible refine KeepsR.next ?_ | intro _

theorem Keeps.execLeaseRequest {s0 : State} (a0 : PftHdr) (bpart : Fin 16) (slabs : BitVec 32) (s : State) (h : Keeps s0 s) : KeepsR s0 (execLeaseRequest a0 bpart slabs s) := by
  unfold Sys2Proof.Machine.execLeaseRequest
  try dsimp only
  repeat'
      first
      | with_reducible assumption | with_reducible refine Keeps.setMem _ ?_ ?_ | with_reducible refine Keeps.rxLease _ _ ?_
      | with_reducible refine KeepsP.of (Keeps.rxLease _ _ ?_) (by assumption) | with_reducible refine KeepsP.fst (Keeps.rxLease _ _ ?_)
      | with_reducible refine Keeps.sendCtrl _ _ _ _ _ ?_ | with_reducible refine KeepsR.next ?_ | exact fun (k : Safety.MemoryCanonical _) => k | split

theorem Keeps.execLeaseRelease {s0 : State} (a0 : PftHdr) (bpart : Fin 16) (lease : BitVec 32) (s : State) (h : Keeps s0 s) : KeepsR s0 (execLeaseRelease a0 bpart lease s) := by
  unfold Sys2Proof.Machine.execLeaseRelease
  try dsimp only
  repeat'
      first
      | with_reducible assumption | with_reducible refine Keeps.takeBack _ _ ?_ | with_reducible refine Keeps.settle _ ?_
      | with_reducible refine Keeps.rxLease _ _ ?_ | with_reducible refine KeepsP.of (Keeps.rxLease _ _ ?_) (by assumption)
      | with_reducible refine KeepsP.fst (Keeps.rxLease _ _ ?_) | with_reducible refine KeepsR.next ?_ | intro _ | split

theorem Keeps.execLenderNoticeExpiry {s0 : State} (lease : BitVec 32) (s : State) (h : Keeps s0 s) : KeepsR s0 (execLenderNoticeExpiry lease s) := by
  unfold Sys2Proof.Machine.execLenderNoticeExpiry
  try dsimp only
  repeat'
      first
      | with_reducible assumption | with_reducible refine Keeps.takeBack _ _ ?_ | with_reducible refine Keeps.settle _ ?_
      | with_reducible refine KeepsR.next ?_

theorem Keeps.execBorrowerUnreachableEnd {s0 : State} (ep : BitVec 20) (s : State) (h : Keeps s0 s) : KeepsR s0 (execBorrowerUnreachableEnd ep s) := by
  unfold Sys2Proof.Machine.execBorrowerUnreachableEnd
  try dsimp only
  repeat'
      first
      | with_reducible assumption | with_reducible refine Keeps.takeBack _ _ ?_ | with_reducible refine Keeps.settle _ ?_
      | with_reducible refine KeepsR.next ?_ | intro _ | split

theorem Keeps.serveCellar {s0 : State} (a0 : PftHdr) (number : BitVec 16) (lease : BitVec 32) (offset : BitVec 48) (len : Nat) (data : Option Bytes) (s : State) (h : Keeps s0 s) : Keeps s0 (State.serveCellar a0 number lease offset len data s) := by
  unfold Sys2Proof.Machine.State.serveCellar
  try dsimp only
  repeat'
      first
      | with_reducible assumption | with_reducible refine Keeps.setMem _ ?_ ?_ | with_reducible refine Keeps.rxData _ _ _ ?_
      | with_reducible refine KeepsP.of (Keeps.rxData _ _ _ ?_) (by assumption) | with_reducible refine KeepsP.fst (Keeps.rxData _ _ _ ?_)
      | with_reducible refine Keeps.emit _ _ ?_ | with_reducible refine Keeps.ite ?_ ?_ | exact fun (k : Safety.MemoryCanonical _) => k
      | exact fun k => Memory.wf_write _ _ _ k.1 | intro _ | split

theorem Keeps.execCellarRequest {s0 : State} (a0 : PftHdr) (number : BitVec 16) (lease : BitVec 32) (offset : BitVec 48) (len : Nat) (data : Option Bytes) (s : State) (h : Keeps s0 s) : KeepsR s0 (execCellarRequest a0 number lease offset len data s) := by
  unfold Sys2Proof.Machine.execCellarRequest
  try dsimp only
  repeat'
      first
      | with_reducible assumption | with_reducible refine Keeps.serveCellar _ _ _ _ _ _ _ ?_ | with_reducible refine Keeps.modFab _ _ ?_
      | with_reducible refine KeepsR.next ?_ | intro _ | split

theorem Keeps.execLeaseGrant {s0 : State} (a0 : PftHdr) (bpart : Fin 16) (lease : BitVec 32) (slabs : BitVec 32) (noticeMs : BitVec 16) (s : State) (h : Keeps s0 s) : KeepsR s0 (execLeaseGrant a0 bpart lease slabs noticeMs s) := by
  unfold Sys2Proof.Machine.execLeaseGrant
  try dsimp only
  repeat'
      first
      | with_reducible assumption | with_reducible refine Keeps.askNext _ _ _ ?_ | with_reducible refine Keeps.settle _ ?_
      | with_reducible refine Keeps.rxLease _ _ ?_ | with_reducible refine KeepsP.of (Keeps.rxLease _ _ ?_) (by assumption)
      | with_reducible refine KeepsP.fst (Keeps.rxLease _ _ ?_) | with_reducible refine Keeps.partCtrl _ _ _ _ _ ?_
      | with_reducible refine Keeps.modPart _ _ _ ?_ | with_reducible refine KeepsR.next ?_ | intro _ | split

theorem Keeps.execLeaseRefuse {s0 : State} (a0 : PftHdr) (bpart : Fin 16) (s : State) (h : Keeps s0 s) : KeepsR s0 (execLeaseRefuse a0 bpart s) := by
  unfold Sys2Proof.Machine.execLeaseRefuse
  try dsimp only
  repeat'
      first
      | with_reducible assumption | with_reducible refine Keeps.askNext _ _ _ ?_ | with_reducible refine Keeps.settle _ ?_
      | with_reducible refine Keeps.rxLease _ _ ?_ | with_reducible refine KeepsP.of (Keeps.rxLease _ _ ?_) (by assumption)
      | with_reducible refine KeepsP.fst (Keeps.rxLease _ _ ?_) | with_reducible refine KeepsR.next ?_ | split

theorem Keeps.execLenderTimeout {s0 : State} (p : Fin 16) (s : State) (h : Keeps s0 s) : KeepsR s0 (execLenderTimeout p s) := by
  unfold Sys2Proof.Machine.execLenderTimeout
  try dsimp only
  repeat'
      first
      | with_reducible assumption | with_reducible refine Keeps.askNext _ _ _ ?_ | with_reducible refine Keeps.settle _ ?_
      | with_reducible refine Keeps.forgetPkts _ _ _ ?_ | with_reducible refine KeepsR.next ?_ | split

theorem Keeps.execLeaseAdmissionDeadline {s0 : State} (p : Fin 16) (s : State) (h : Keeps s0 s) : KeepsR s0 (execLeaseAdmissionDeadline p s) := by
  unfold Sys2Proof.Machine.execLeaseAdmissionDeadline
  try dsimp only
  repeat' first | with_reducible assumption | with_reducible refine Keeps.failAdmit _ _ _ ?_ | with_reducible refine KeepsR.next ?_ | split

theorem Keeps.execReclaimDeadline {s0 : State} (p : Fin 16) (lease : BitVec 32) (s : State) (h : Keeps s0 s) : KeepsR s0 (execReclaimDeadline p lease s) := by
  unfold Sys2Proof.Machine.execReclaimDeadline
  try dsimp only
  repeat'
      first
      | with_reducible assumption | with_reducible refine Keeps.loseSlabs _ _ _ ?_ | with_reducible refine Keeps.foldl _ _ _ ?_ ?_
      | with_reducible refine KeepsR.next ?_ | intro _

theorem Keeps.execReclaimNoticeEnd {s0 : State} (p : Fin 16) (lease : BitVec 32) (s : State) (h : Keeps s0 s) : KeepsR s0 (execReclaimNoticeEnd p lease s) := by
  unfold Sys2Proof.Machine.execReclaimNoticeEnd
  try dsimp only
  repeat'
      first
      | with_reducible assumption | with_reducible refine Keeps.partCtrl _ _ _ _ _ ?_ | with_reducible refine Keeps.endLease _ _ _ _ ?_
      | with_reducible refine Keeps.foldl _ _ _ ?_ ?_ | with_reducible refine KeepsR.next ?_ | intro _

theorem Keeps.promote {s0 : State} (s : State) (p : Nat) (a2 : Slab) (h : Keeps s0 s) : Keeps s0 (State.promote s p a2) := by
  unfold Sys2Proof.Machine.State.promote
  try dsimp only
  repeat'
      first
      | with_reducible assumption | with_reducible refine Keeps.demote _ _ _ _ ?_ | with_reducible refine Keeps.startMove _ _ _ _ _ ?_
      | with_reducible refine Keeps.ite ?_ ?_ | intro _ | split

theorem Keeps.rebalancePart {s0 : State} (s : State) (p : Nat) (h : Keeps s0 s) : Keeps s0 (State.rebalancePart s p) := by
  unfold Sys2Proof.Machine.State.rebalancePart
  try dsimp only
  repeat'
      first
      | with_reducible assumption | with_reducible refine Keeps.promote _ _ _ ?_ | with_reducible refine Keeps.foldl _ _ _ ?_ ?_ | intro _

theorem Keeps.execRebalance {s0 : State} (s : State) (h : Keeps s0 s) : KeepsR s0 (execRebalance s) := by
  unfold Sys2Proof.Machine.execRebalance
  try dsimp only
  repeat'
      first
      | with_reducible assumption | with_reducible refine Keeps.rebalancePart _ _ ?_ | with_reducible refine Keeps.foldl _ _ _ ?_ ?_
      | with_reducible refine KeepsR.next ?_ | intro _ | split

theorem Keeps.execAccessCountHalving {s0 : State} (s : State) (h : Keeps s0 s) : KeepsR s0 (execAccessCountHalving s) := by
  unfold Sys2Proof.Machine.execAccessCountHalving
  try dsimp only
  repeat' first | with_reducible assumption | with_reducible refine Keeps.setSlabs _ _ ?_ | with_reducible refine KeepsR.next ?_

theorem Keeps.switchMove {s0 : State} (s : State) (m : Migration) (h : Keeps s0 s) : Keeps s0 (State.switchMove s m) := by
  unfold Sys2Proof.Machine.State.switchMove
  try dsimp only
  repeat'
      first
      | with_reducible assumption | with_reducible refine Keeps.linkSend _ _ ?_ | with_reducible refine Keeps.cellarFill _ _ _ _ ?_
      | with_reducible refine Keeps.cellarRead _ _ _ _ ?_ | with_reducible refine Keeps.meterBytes _ _ _ ?_
      | with_reducible refine Keeps.setMigrations _ _ ?_ | with_reducible refine Keeps.modSlab _ _ _ ?_ | with_reducible refine Keeps.ite ?_ ?_ | intro _
      | split

theorem Keeps.execMigrationCopyDone {s0 : State} (slab : BitVec 27) (s : State) (h : Keeps s0 s) : KeepsR s0 (execMigrationCopyDone slab s) := by
  unfold Sys2Proof.Machine.execMigrationCopyDone
  try dsimp only
  repeat' first | with_reducible assumption | with_reducible refine Keeps.switchMove _ _ ?_ | with_reducible refine KeepsR.next ?_ | split

theorem Keeps.pinMoves {s0 : State} (s : State) (a1 : Nat) (h : Keeps s0 s) : Keeps s0 (State.pinMoves s a1) := by
  unfold Sys2Proof.Machine.State.pinMoves
  try dsimp only
  repeat' first | with_reducible assumption | with_reducible refine Keeps.startMove _ _ _ _ _ ?_ | with_reducible refine Keeps.ite ?_ ?_

theorem Keeps.execSourceFrameFree {s0 : State} (slab : BitVec 27) (s : State) (h : Keeps s0 s) : KeepsR s0 (execSourceFrameFree slab s) := by
  unfold Sys2Proof.Machine.execSourceFrameFree
  try dsimp only
  repeat'
      first
      | with_reducible assumption | with_reducible refine Keeps.pinMoves _ _ ?_ | with_reducible refine Keeps.evacuate _ _ ?_
      | with_reducible refine Keeps.dropMoves _ _ ?_ | with_reducible refine KeepsR.next ?_ | intro _ | split

theorem Keeps.transferEnds {s0 : State} (s : State) (q : Nat) (slab : Option (BitVec 27)) (status : Nat) (mark : Part → Part) (h : Keeps s0 s) : Keeps s0 (State.transferEnds s q slab status mark) := by
  unfold Sys2Proof.Machine.State.transferEnds
  try dsimp only
  repeat'
      first
      | with_reducible assumption | with_reducible refine Keeps.settle _ ?_ | with_reducible refine Keeps.evacuate _ _ ?_
      | with_reducible refine Keeps.endCmd _ _ _ ?_ | with_reducible refine Keeps.forgetCellar _ _ ?_ | with_reducible refine Keeps.abandonMove _ _ ?_
      | with_reducible refine Keeps.modPart _ _ _ ?_ | with_reducible refine Keeps.ite ?_ ?_ | split

theorem Keeps.execTierDeadline {s0 : State} (q : Fin 64) (slab : Option (BitVec 27)) (s : State) (h : Keeps s0 s) : KeepsR s0 (execTierDeadline q slab s) := by
  unfold Sys2Proof.Machine.execTierDeadline
  try dsimp only
  repeat'
      first
      | with_reducible assumption | with_reducible refine Keeps.transferEnds _ _ _ _ _ ?_ | with_reducible refine KeepsR.next ?_ | intro _ | split

theorem Keeps.execTransferErrorAnswer {s0 : State} (q : Fin 64) (slab : Option (BitVec 27)) (s : State) (h : Keeps s0 s) : KeepsR s0 (execTransferErrorAnswer q slab s) := by
  unfold Sys2Proof.Machine.execTransferErrorAnswer
  try dsimp only
  repeat'
      first
      | with_reducible assumption | with_reducible refine Keeps.transferEnds _ _ _ _ _ ?_ | with_reducible refine KeepsR.next ?_

theorem Keeps.modWindow {s0 : State} (s : State) (p w : Nat) (f : RecvWindow → RecvWindow) (h : Keeps s0 s) : Keeps s0 (State.modWindow s p w f) := by
  unfold Sys2Proof.Machine.State.modWindow
  try dsimp only
  repeat'
      first
      | with_reducible assumption | with_reducible refine Keeps.modPart _ _ _ ?_

theorem Keeps.openWindow {s0 : State} (s : State) (p : Nat) (h : Keeps s0 s) : Keeps s0 (State.openWindow s p) := by
  unfold Sys2Proof.Machine.State.openWindow
  try dsimp only
  repeat' first | with_reducible assumption | with_reducible refine Keeps.modPart _ _ _ ?_ | intro _ | split

theorem Keeps.closeWindow {s0 : State} (s : State) (p w : Nat) (h : Keeps s0 s) : Keeps s0 (State.closeWindow s p w) := by
  unfold Sys2Proof.Machine.State.closeWindow
  try dsimp only
  repeat'
      first
      | with_reducible assumption | with_reducible refine Keeps.fixPoolWait _ _ ?_ | with_reducible refine Keeps.modPart _ _ _ ?_
      | with_reducible refine Keeps.ite ?_ ?_

theorem Keeps.writeWin {s0 : State} (s : State) (p : Nat) (v : Word) (h : Keeps s0 s) : Keeps s0 (State.writeWin s p v) := by
  unfold Sys2Proof.Machine.State.writeWin
  try dsimp only
  repeat'
      first
      | with_reducible assumption | with_reducible refine Keeps.closeWindow _ _ _ ?_ | with_reducible refine Keeps.openWindow _ _ ?_
      | with_reducible refine Keeps.modPart _ _ _ ?_ | with_reducible refine Keeps.ite ?_ ?_

theorem Keeps.execWindowOpen {s0 : State} (p : Fin 16) (v : Word) (host : List HostBlk) (s : State) (h : Keeps s0 s) : KeepsR s0 (execWindowOpen p v host s) := by
  unfold Sys2Proof.Machine.execWindowOpen
  try dsimp only
  repeat'
      first
      | with_reducible assumption | with_reducible refine Keeps.writeWin _ _ _ ?_ | with_reducible refine Keeps.hostStore _ _ ?_
      | with_reducible refine Keeps.bar0 _ _ ?_ ?_ | with_reducible refine KeepsR.next ?_ | intro _

theorem Keeps.execWindowClose {s0 : State} (p : Fin 16) (v : Word) (s : State) (h : Keeps s0 s) : KeepsR s0 (execWindowClose p v s) := by
  unfold Sys2Proof.Machine.execWindowClose
  try dsimp only
  repeat'
      first
      | with_reducible assumption | with_reducible refine Keeps.writeWin _ _ _ ?_ | with_reducible refine Keeps.bar0 _ _ ?_ ?_
      | with_reducible refine KeepsR.next ?_ | intro _

theorem Keeps.writeAxes {s0 : State} (s : State) (p : Nat) (v : Word) (h : Keeps s0 s) : Keeps s0 (State.writeAxes s p v) := by
  unfold Sys2Proof.Machine.State.writeAxes
  try dsimp only
  repeat'
      first
      | with_reducible assumption | with_reducible refine Keeps.modPart _ _ _ ?_

theorem Keeps.execPartJobAxesWrite {s0 : State} (p : Fin 16) (v : Word) (s : State) (h : Keeps s0 s) : KeepsR s0 (execPartJobAxesWrite p v s) := by
  unfold Sys2Proof.Machine.execPartJobAxesWrite
  try dsimp only
  repeat'
      first
      | with_reducible assumption | with_reducible refine Keeps.writeAxes _ _ _ ?_ | with_reducible refine Keeps.bar0 _ _ ?_ ?_
      | with_reducible refine KeepsR.next ?_ | intro _

theorem Keeps.endAttempt {s0 : State} (s : State) (p : Nat) (w : RecvWindow) (a3 : WinAttempt) (status : Nat) (h : Keeps s0 s) : Keeps s0 (State.endAttempt s p w a3 status) := by
  unfold Sys2Proof.Machine.State.endAttempt
  try dsimp only
  repeat'
      first
      | with_reducible assumption | with_reducible refine Keeps.modWindow _ _ _ _ ?_ | with_reducible refine Keeps.settleSlabs _ _ _ _ ?_
      | with_reducible refine Keeps.fixPoolWait _ _ ?_ | with_reducible refine Keeps.modAcct _ _ _ ?_ | with_reducible refine Keeps.putRecord _ _ _ ?_
      | with_reducible refine Keeps.ite ?_ ?_ | intro _ | split

theorem Keeps.tryEnd {s0 : State} (s : State) (p wn ep part a : Nat) (h : Keeps s0 s) : Keeps s0 (State.tryEnd s p wn ep part a) := by
  unfold Sys2Proof.Machine.State.tryEnd
  try dsimp only
  repeat'
      first
      | with_reducible assumption | with_reducible refine Keeps.endAttempt _ _ _ _ _ ?_ | with_reducible refine Keeps.modWindow _ _ _ _ ?_
      | with_reducible refine Keeps.fixPoolWait _ _ ?_ | with_reducible refine Keeps.modQueue _ _ _ ?_ | with_reducible refine Keeps.ite ?_ ?_ | intro _
      | split

theorem Keeps.holdSlabs {s0 : State} (s : State) (p wn : Nat) (t : WinAttempt) (ks : List Nat) (h : Keeps s0 s) : KeepsO s0 (State.holdSlabs s p wn t ks) := by
  induction ks generalizing s t with
  | nil => exact KeepsO.some (Keeps.modWindow _ _ _ _ h)
  | cons k r ih =>
    unfold State.holdSlabs
    split
    · exact KeepsO.none
    · rename_i e
      exact ih _ _ (Keeps.modWindow _ _ _ _ (KeepsQ.of (Keeps.takeStage _ _ _ _ _ _ h) e))

theorem Keeps.refillOnce {s0 : State} (s : State) (p : Nat) (h : Keeps s0 s) : Keeps s0 (State.refillOnce s p) := by
  unfold Sys2Proof.Machine.State.refillOnce
  try dsimp only
  repeat'
      first
      | with_reducible assumption | with_reducible refine Keeps.refill _ _ ?_ | with_reducible refine Keeps.releaseCredit _ _ _ _ ?_
      | with_reducible refine Keeps.askCredit _ _ _ _ _ _ ?_ | with_reducible refine KeepsQ.of (Keeps.askCredit _ _ _ _ _ _ ?_) (by assumption)
      | with_reducible refine KeepsQ.snd (Keeps.askCredit _ _ _ _ _ _ ?_) | split

theorem Keeps.takeTile {s0 : State} (s : State) (a1 : PftHdr) (w : RecvWindow) (a offset : Nat) (data : Bytes) (h : Keeps s0 s) : Keeps s0 (State.takeTile s a1 w a offset data) := by
  unfold Sys2Proof.Machine.State.takeTile
  try dsimp only
  repeat'
      first
      | with_reducible assumption | with_reducible refine Keeps.refillOnce _ _ ?_ | with_reducible refine Keeps.holdSlabs _ _ _ _ _ ?_
      | with_reducible refine KeepsO.of (Keeps.holdSlabs _ _ _ _ _ ?_) (by assumption) | with_reducible refine Keeps.tryEnd _ _ _ _ _ _ ?_
      | with_reducible refine Keeps.modWindow _ _ _ _ ?_ | with_reducible refine Keeps.rxAccept _ _ ?_
      | with_reducible refine KeepsP.of (Keeps.rxAccept _ _ ?_) (by assumption) | with_reducible refine KeepsP.fst (Keeps.rxAccept _ _ ?_)
      | with_reducible refine Keeps.fabDrop _ ?_ | with_reducible refine Keeps.meterBytes _ _ _ ?_ | with_reducible refine Keeps.ite ?_ ?_ | intro _ | split

theorem Keeps.acceptDrop {s0 : State} (s : State) (a1 : PftHdr) (h : Keeps s0 s) : Keeps s0 (State.acceptDrop s a1) := by
  unfold Sys2Proof.Machine.State.acceptDrop
  try dsimp only
  repeat'
      first
      | with_reducible assumption | with_reducible refine Keeps.rxAccept _ _ ?_ | with_reducible refine KeepsP.of (Keeps.rxAccept _ _ ?_) (by assumption)
      | with_reducible refine KeepsP.fst (Keeps.rxAccept _ _ ?_) | with_reducible refine Keeps.fabDrop _ ?_ | with_reducible refine Keeps.ite ?_ ?_

theorem Keeps.windowTile {s0 : State} (s : State) (a1 : PftHdr) (wn a offset : Nat) (data : Bytes) (h : Keeps s0 s) : Keeps s0 (State.windowTile s a1 wn a offset data) := by
  unfold Sys2Proof.Machine.State.windowTile
  try dsimp only
  repeat'
      first
      | with_reducible assumption | with_reducible refine Keeps.acceptDrop _ _ ?_ | with_reducible refine Keeps.takeTile _ _ _ _ _ _ ?_
      | with_reducible refine Keeps.rxOpen _ _ _ ?_ | with_reducible refine KeepsP.of (Keeps.rxOpen _ _ _ ?_) (by assumption)
      | with_reducible refine KeepsP.fst (Keeps.rxOpen _ _ _ ?_) | with_reducible refine Keeps.rxAccept _ _ ?_
      | with_reducible refine KeepsP.of (Keeps.rxAccept _ _ ?_) (by assumption) | with_reducible refine KeepsP.fst (Keeps.rxAccept _ _ ?_)
      | with_reducible refine Keeps.ite ?_ ?_ | split

theorem Keeps.execWindowTile {s0 : State} (a0 : PftHdr) (window : BitVec 16) (attempt : BitVec 32) (offset : BitVec 48) (data : Bytes) (s : State) (h : Keeps s0 s) : KeepsR s0 (execWindowTile a0 window attempt offset data s) := by
  unfold Sys2Proof.Machine.execWindowTile
  try dsimp only
  repeat'
      first
      | with_reducible assumption | with_reducible refine Keeps.windowTile _ _ _ _ _ _ ?_ | with_reducible refine Keeps.settle _ ?_
      | with_reducible refine KeepsR.next ?_

theorem Keeps.notice {s0 : State} (s : State) (a1 : PftHdr) (kind wn a : Nat) (f : State → RecvWindow → WinAttempt → State) (h : Keeps s0 s) (hf5 : ∀ y0 y1 y2, Keeps s0 y0 → Keeps s0 (f y0 y1 y2)) : Keeps s0 (State.notice s a1 kind wn a f) := by
  unfold Sys2Proof.Machine.State.notice
  try dsimp only
  repeat'
      first
      | with_reducible assumption | with_reducible refine hf5 _ _ _ ?_ | with_reducible refine Keeps.rx _ _ _ _ ?_
      | with_reducible refine KeepsP.of (Keeps.rx _ _ _ _ ?_) (by assumption) | with_reducible refine KeepsP.fst (Keeps.rx _ _ _ _ ?_)
      | with_reducible refine Keeps.fabDrop _ ?_ | with_reducible refine Keeps.ite ?_ ?_ | split

theorem Keeps.execNoticeCommit {s0 : State} (a0 : PftHdr) (window : BitVec 16) (attempt : BitVec 32) (bytes : BitVec 48) (tag : BitVec 64) (s : State) (h : Keeps s0 s) : KeepsR s0 (execNoticeCommit a0 window attempt bytes tag s) := by
  unfold Sys2Proof.Machine.execNoticeCommit
  try dsimp only
  repeat'
      first
      | with_reducible assumption | with_reducible refine Keeps.notice _ _ _ _ _ _ ?_ ?_ | with_reducible refine Keeps.tryEnd _ _ _ _ _ _ ?_
      | with_reducible refine Keeps.modWindow _ _ _ _ ?_ | with_reducible refine Keeps.settle _ ?_ | with_reducible refine Keeps.modFab _ _ ?_
      | with_reducible refine KeepsR.next ?_ | intro _

theorem Keeps.execNoticeAbort {s0 : State} (a0 : PftHdr) (window : BitVec 16) (attempt : BitVec 32) (s : State) (h : Keeps s0 s) : KeepsR s0 (execNoticeAbort a0 window attempt s) := by
  unfold Sys2Proof.Machine.execNoticeAbort
  try dsimp only
  repeat'
      first
      | with_reducible assumption | with_reducible refine Keeps.notice _ _ _ _ _ _ ?_ ?_ | with_reducible refine Keeps.modWindow _ _ _ _ ?_
      | with_reducible refine Keeps.settle _ ?_ | with_reducible refine Keeps.fixPoolWait _ _ ?_ | with_reducible refine KeepsR.next ?_ | intro _

theorem Keeps.execMissingTilesDeadline {s0 : State} (p : Fin 16) (window : BitVec 16) (ep : BitVec 20) (spart : Fin 16) (s : State) (h : Keeps s0 s) : KeepsR s0 (execMissingTilesDeadline p window ep spart s) := by
  unfold Sys2Proof.Machine.execMissingTilesDeadline
  try dsimp only
  repeat'
      first
      | with_reducible assumption | with_reducible refine Keeps.endAttempt _ _ _ _ _ ?_ | with_reducible refine Keeps.settle _ ?_
      | with_reducible refine Keeps.foldl _ _ _ ?_ ?_ | with_reducible refine KeepsR.next ?_ | intro _ | split

theorem Keeps.roomHead {s0 : State} (s : State) (q : Nat) (h : Keeps s0 s) : Keeps s0 (State.roomHead s q) := by
  unfold Sys2Proof.Machine.State.roomHead
  try dsimp only
  repeat'
      first
      | with_reducible assumption | with_reducible refine Keeps.commitHead _ _ ?_ | with_reducible refine Keeps.endFinal _ _ _ ?_
      | with_reducible refine Keeps.ite ?_ ?_ | split

theorem Keeps.landRecord {s0 : State} (s : State) (q : Nat) (h : Keeps s0 s) : Keeps s0 (State.landRecord s q) := by
  unfold Sys2Proof.Machine.State.landRecord
  try dsimp only
  repeat'
      first
      | with_reducible assumption | with_reducible refine Keeps.putRecord _ _ _ ?_ | with_reducible refine Keeps.modQueue _ _ _ ?_
      | with_reducible refine Keeps.ite ?_ ?_

theorem Keeps.ringRoomNow {s0 : State} (s : State) (q : Nat) (h : Keeps s0 s) : Keeps s0 (State.ringRoomNow s q) := by
  unfold Sys2Proof.Machine.State.ringRoomNow
  try dsimp only
  repeat'
      first
      | with_reducible assumption | with_reducible refine Keeps.landRecord _ _ ?_ | with_reducible refine Keeps.roomHead _ _ ?_
      | with_reducible refine Keeps.tryEnd _ _ _ _ _ _ ?_ | with_reducible refine Keeps.flushRecs _ _ _ ?_ | with_reducible refine Keeps.modQueue _ _ _ ?_
      | with_reducible refine Keeps.foldl _ _ _ ?_ ?_ | with_reducible refine Keeps.ite ?_ ?_ | intro _

theorem Keeps.execCompletionRingRoom {s0 : State} (q : Fin 64) (s : State) (h : Keeps s0 s) : KeepsR s0 (execCompletionRingRoom q s) := by
  unfold Sys2Proof.Machine.execCompletionRingRoom
  try dsimp only
  repeat'
      first
      | with_reducible assumption | with_reducible refine Keeps.ringRoomNow _ _ ?_ | with_reducible refine Keeps.settle _ ?_
      | with_reducible refine KeepsR.next ?_

theorem Keeps.retryPool {s0 : State} (s : State) (p : Nat) (h : Keeps s0 s) : Keeps s0 (State.retryPool s p) := by
  unfold Sys2Proof.Machine.State.retryPool
  try dsimp only
  repeat'
      first
      | with_reducible assumption | with_reducible refine Keeps.tryEnd _ _ _ _ _ _ ?_ | with_reducible refine Keeps.commitHead _ _ ?_
      | with_reducible refine Keeps.fixPoolWait _ _ ?_ | with_reducible refine Keeps.foldl _ _ _ ?_ ?_ | with_reducible refine Keeps.ite ?_ ?_ | intro _
      | split

theorem Keeps.execPoolWaitEnd {s0 : State} (p : Fin 16) (s : State) (h : Keeps s0 s) : KeepsR s0 (execPoolWaitEnd p s) := by
  unfold Sys2Proof.Machine.execPoolWaitEnd
  try dsimp only
  repeat'
      first
      | with_reducible assumption | with_reducible refine Keeps.retryPool _ _ ?_ | with_reducible refine Keeps.settle _ ?_
      | with_reducible refine Keeps.modStream _ _ _ ?_ | with_reducible refine KeepsR.next ?_

theorem Keeps.rxPart {s0 : State} (s : State) (a1 : PftHdr) (kind : Nat) (f : State → State) (h : Keeps s0 s) (hf3 : ∀ y0, Keeps s0 y0 → Keeps s0 (f y0)) : Keeps s0 (State.rxPart s a1 kind f) := by
  unfold Sys2Proof.Machine.State.rxPart
  try dsimp only
  repeat'
      first
      | with_reducible assumption | with_reducible refine hf3 _ ?_ | with_reducible refine Keeps.rxData _ _ _ ?_
      | with_reducible refine KeepsP.of (Keeps.rxData _ _ _ ?_) (by assumption) | with_reducible refine KeepsP.fst (Keeps.rxData _ _ _ ?_)
      | with_reducible refine Keeps.fabDrop _ ?_ | with_reducible refine Keeps.ite ?_ ?_

theorem Keeps.execCollectivePiece {s0 : State} (a0 : PftHdr) (attempt : BitVec 16) (coll : BitVec 32) (offset : BitVec 48) (data : Bytes) (s : State) (h : Keeps s0 s) : KeepsR s0 (execCollectivePiece a0 attempt coll offset data s) := by
  unfold Sys2Proof.Machine.execCollectivePiece
  try dsimp only
  repeat'
      first
      | with_reducible assumption | with_reducible refine Keeps.rxPart _ _ _ _ ?_ ?_ | with_reducible refine Keeps.runColl _ _ ?_
      | with_reducible refine Keeps.settle _ ?_ | with_reducible refine Keeps.setColl _ _ ?_ | with_reducible refine KeepsR.next ?_ | intro _ | split

theorem Keeps.execCollectivePull {s0 : State} (a0 : PftHdr) (attempt : BitVec 16) (coll : BitVec 32) (offset : BitVec 48) (len : BitVec 32) (s : State) (h : Keeps s0 s) : KeepsR s0 (execCollectivePull a0 attempt coll offset len s) := by
  unfold Sys2Proof.Machine.execCollectivePull
  try dsimp only
  repeat'
      first
      | with_reducible assumption | with_reducible refine Keeps.rxPart _ _ _ _ ?_ ?_ | with_reducible refine Keeps.runColl _ _ ?_
      | with_reducible refine Keeps.answerPull _ _ _ _ _ ?_ | with_reducible refine Keeps.settle _ ?_
      | with_reducible refine Keeps.sendData1 _ _ _ _ _ _ _ _ _ _ _ ?_
      | with_reducible refine KeepsP.of (Keeps.sendData1 _ _ _ _ _ _ _ _ _ _ _ ?_) (by assumption)
      | with_reducible refine KeepsP.fst (Keeps.sendData1 _ _ _ _ _ _ _ _ _ _ _ ?_) | with_reducible refine Keeps.modFab _ _ ?_
      | with_reducible refine KeepsR.next ?_ | intro _ | split

theorem Keeps.execCollectiveAbort {s0 : State} (a0 : PftHdr) (attempt : BitVec 16) (coll : BitVec 32) (s : State) (h : Keeps s0 s) : KeepsR s0 (execCollectiveAbort a0 attempt coll s) := by
  unfold Sys2Proof.Machine.execCollectiveAbort
  try dsimp only
  repeat'
      first
      | with_reducible assumption | with_reducible refine Keeps.rxPart _ _ _ _ ?_ ?_ | with_reducible refine Keeps.settle _ ?_
      | with_reducible refine Keeps.endCmd _ _ _ ?_ | with_reducible refine Keeps.modFab _ _ ?_ | with_reducible refine KeepsR.next ?_ | intro _ | split

theorem Keeps.execCollectiveAnnouncement {s0 : State} (a0 : PftHdr) (attempt : BitVec 16) (coll : BitVec 32) (value : BitVec 32) (s : State) (h : Keeps s0 s) : KeepsR s0 (execCollectiveAnnouncement a0 attempt coll value s) := by
  unfold Sys2Proof.Machine.execCollectiveAnnouncement
  try dsimp only
  repeat'
      first
      | with_reducible assumption | with_reducible refine Keeps.rxPart _ _ _ _ ?_ ?_ | with_reducible refine Keeps.runColl _ _ ?_
      | with_reducible refine Keeps.settle _ ?_ | with_reducible refine Keeps.setColl _ _ ?_ | with_reducible refine Keeps.modFab _ _ ?_
      | with_reducible refine KeepsR.next ?_ | intro _ | split

theorem Keeps.execAck {s0 : State} (a0 : PftHdr) (cum : BitVec 48) (bitmap : BitVec 256) (s : State) (h : Keeps s0 s) : KeepsR s0 (execAck a0 cum bitmap s) := by
  unfold Sys2Proof.Machine.execAck
  try dsimp only
  repeat'
      first
      | with_reducible assumption | with_reducible refine Keeps.runColls _ ?_ | with_reducible refine Keeps.settle _ ?_
      | with_reducible refine Keeps.rxAck _ _ _ _ ?_ | with_reducible refine KeepsR.next ?_

theorem Keeps.execAckTimer {s0 : State} (ep : BitVec 20) (cls : Fin 4) (s : State) (h : Keeps s0 s) : KeepsR s0 (execAckTimer ep cls s) := by
  unfold Sys2Proof.Machine.execAckTimer
  try dsimp only
  repeat' first | with_reducible assumption | with_reducible refine Keeps.sendAck _ _ _ _ ?_ | with_reducible refine KeepsR.next ?_ | split

theorem Keeps.execRtoExpiry {s0 : State} (ep : BitVec 20) (cls : Fin 4) (seq : BitVec 48) (s : State) (h : Keeps s0 s) : KeepsR s0 (execRtoExpiry ep cls seq s) := by
  unfold Sys2Proof.Machine.execRtoExpiry
  try dsimp only
  repeat' first | with_reducible assumption | with_reducible refine Keeps.resend _ _ _ _ _ ?_ | with_reducible refine KeepsR.next ?_

theorem Keeps.resendPort {s0 : State} (s : State) (a1 : Nat) (h : Keeps s0 s) : Keeps s0 (State.resendPort s a1) := by
  unfold Sys2Proof.Machine.State.resendPort
  try dsimp only
  repeat'
      first
      | with_reducible assumption | with_reducible refine Keeps.resend _ _ _ _ _ ?_ | with_reducible refine Keeps.foldl _ _ _ ?_ ?_ | intro _

theorem Keeps.execRequestDeadline {s0 : State} (a0 : ReqKind) (s : State) (h : Keeps s0 s) : KeepsR s0 (execRequestDeadline a0 s) := by
  unfold Sys2Proof.Machine.execRequestDeadline
  try dsimp only
  repeat'
      first
      | with_reducible assumption | with_reducible refine Keeps.transferEnds _ _ _ _ _ ?_ | with_reducible refine Keeps.settle _ ?_
      | with_reducible refine Keeps.endCmd _ _ _ ?_ | with_reducible refine Keeps.forgetPkts _ _ _ ?_ | with_reducible refine KeepsR.next ?_ | intro _
      | split

theorem Keeps.loseLender {s0 : State} (s : State) (ep : Nat) (h : Keeps s0 s) : Keeps s0 (State.loseLender s ep) := by
  unfold Sys2Proof.Machine.State.loseLender
  try dsimp only
  repeat'
      first
      | with_reducible assumption | with_reducible refine Keeps.endLease _ _ _ _ ?_ | with_reducible refine Keeps.foldl _ _ _ ?_ ?_ | intro _

theorem Keeps.keepLine {s0 : State} (s : State) (l : DirLine) (h : Keeps s0 s) : Keeps s0 (State.keepLine s l) := by
  unfold Sys2Proof.Machine.State.keepLine
  try dsimp only
  repeat'
      first
      | with_reducible assumption | with_reducible refine Keeps.cxlAsk _ _ _ ?_ | with_reducible refine Keeps.evictLine _ _ ?_
      | with_reducible refine Keeps.setLine _ _ ?_ | with_reducible refine Keeps.ite ?_ ?_ | intro _ | split

theorem Keeps.askLine {s0 : State} (s : State) (line agent : Nat) (a3 : DirReq) (h : Keeps s0 s) : Keeps s0 (State.askLine s line agent a3) := by
  unfold Sys2Proof.Machine.State.askLine
  try dsimp only
  repeat'
      first
      | with_reducible assumption | with_reducible refine Keeps.keepLine _ _ ?_ | with_reducible refine Keeps.cxlAsk _ _ _ ?_
      | with_reducible refine Keeps.setLine _ _ ?_ | with_reducible refine Keeps.ite ?_ ?_ | split

theorem Keeps.serveLines {s0 : State} (s : State) (h : Keeps s0 s) : Keeps s0 (State.serveLines s) := by
  unfold Sys2Proof.Machine.State.serveLines
  try dsimp only
  repeat'
      first
      | with_reducible assumption | with_reducible refine Keeps.setFabric _ ?_ | with_reducible refine Keeps.cxlAsk _ _ _ ?_
      | with_reducible refine Keeps.foldl _ _ _ ?_ ?_ | with_reducible refine Keeps.ite ?_ ?_ | intro _ | split

theorem Keeps.askCycle {s0 : State} (s : State) (line : Nat) (l : List (Nat × DirReq)) (h : Keeps s0 s) : Keeps s0 (State.askCycle s line l) := by
  unfold Sys2Proof.Machine.State.askCycle
  try dsimp only
  repeat'
      first
      | with_reducible assumption | with_reducible refine Keeps.askLine _ _ _ _ ?_ | with_reducible refine Keeps.foldl _ _ _ ?_ ?_ | intro _

theorem Keeps.execReadRequest {s0 : State} (ask : DirAsk) (line : BitVec 46) (s : State) (h : Keeps s0 s) : KeepsR s0 (execReadRequest ask line s) := by
  unfold Sys2Proof.Machine.execReadRequest
  try dsimp only
  repeat' first | with_reducible assumption | with_reducible refine Keeps.askCycle _ _ _ ?_ | with_reducible refine KeepsR.next ?_

theorem Keeps.execOwnershipRequest {s0 : State} (ask : DirAsk) (line : BitVec 46) (s : State) (h : Keeps s0 s) : KeepsR s0 (execOwnershipRequest ask line s) := by
  unfold Sys2Proof.Machine.execOwnershipRequest
  try dsimp only
  repeat' first | with_reducible assumption | with_reducible refine Keeps.askCycle _ _ _ ?_ | with_reducible refine KeepsR.next ?_

theorem Keeps.execWriteback {s0 : State} (ask : DirAsk) (line : BitVec 46) (data : Bytes) (s : State) (h : Keeps s0 s) : KeepsR s0 (execWriteback ask line data s) := by
  unfold Sys2Proof.Machine.execWriteback
  try dsimp only
  repeat' first | with_reducible assumption | with_reducible refine Keeps.askCycle _ _ _ ?_ | with_reducible refine KeepsR.next ?_

theorem Keeps.execHostSnoop {s0 : State} (line : BitVec 46) (a1 : Bool) (s : State) (h : Keeps s0 s) : KeepsR s0 (execHostSnoop line a1 s) := by
  unfold Sys2Proof.Machine.execHostSnoop
  try dsimp only
  repeat'
      first
      | with_reducible assumption | with_reducible refine Keeps.serveLines _ ?_ | with_reducible refine Keeps.emit _ _ ?_
      | with_reducible refine Keeps.evictLine _ _ ?_ | with_reducible refine KeepsR.next ?_ | split

theorem Keeps.putMap {s0 : State} (s : State) (h : Keeps s0 s) : Keeps s0 (State.putMap s) := by
  unfold Sys2Proof.Machine.State.putMap
  try dsimp only
  repeat' first | with_reducible assumption | with_reducible refine Keeps.setFlash _ ?_ | with_reducible refine Keeps.ite ?_ ?_

theorem Keeps.driftTold {s0 : State} (s : State) (h : Keeps s0 s) : Keeps s0 (State.driftTold s) := by
  unfold Sys2Proof.Machine.State.driftTold
  try dsimp only
  repeat'
      first
      | with_reducible assumption | with_reducible refine Keeps.setFlash _ ?_ | with_reducible refine Keeps.pwrRaise _ _ ?_
      | with_reducible refine Keeps.foldl _ _ _ ?_ ?_ | intro _

theorem Keeps.putDrift {s0 : State} (s : State) (h : Keeps s0 s) : Keeps s0 (State.putDrift s) := by
  unfold Sys2Proof.Machine.State.putDrift
  try dsimp only
  repeat'
      first
      | with_reducible assumption | with_reducible refine Keeps.setFlash _ ?_ | with_reducible refine Keeps.driftTold _ ?_
      | with_reducible refine Keeps.ite ?_ ?_

theorem Keeps.advanceSession {s0 : State} (s : State) (h : Keeps s0 s) : Keeps s0 (State.advanceSession s) := by
  unfold Sys2Proof.Machine.State.advanceSession
  try dsimp only
  repeat'
      first
      | with_reducible assumption | with_reducible refine Keeps.putMap _ ?_ | with_reducible refine Keeps.unqueue _ _ _ ?_
      | with_reducible refine Keeps.modFab _ _ ?_ | with_reducible refine Keeps.raise _ _ ?_ | with_reducible refine Keeps.foldl _ _ _ ?_ ?_
      | with_reducible refine Keeps.ite ?_ ?_ | intro _

theorem Keeps.openLoss {s0 : State} (s : State) (p : Nat) (h : Keeps s0 s) : Keeps s0 (State.openLoss s p) := by
  unfold Sys2Proof.Machine.State.openLoss
  try dsimp only
  repeat'
      first
      | with_reducible assumption | with_reducible refine Keeps.abandonEpoch _ _ ?_ | with_reducible refine Keeps.openEpoch _ _ _ _ _ ?_
      | with_reducible refine Keeps.ite ?_ ?_ | split

theorem Keeps.lossPart {s0 : State} (s : State) (p : Nat) (h : Keeps s0 s) : Keeps s0 (State.lossPart s p) := by
  unfold Sys2Proof.Machine.State.lossPart
  try dsimp only
  repeat'
      first
      | with_reducible assumption | with_reducible refine Keeps.countLayout _ ?_ | with_reducible refine Keeps.freePartition _ _ _ ?_
      | with_reducible refine Keeps.dropQueue _ _ ?_ | with_reducible refine Keeps.foldl _ _ _ ?_ ?_ | with_reducible refine Keeps.ite ?_ ?_ | intro _

theorem Keeps.lossDone {s0 : State} (s : State) (h : Keeps s0 s) : Keeps s0 (State.lossDone s) := by
  unfold Sys2Proof.Machine.State.lossDone
  try dsimp only
  repeat'
      first
      | with_reducible assumption | with_reducible refine Keeps.setLink _ ?_ ?_ | with_reducible refine Keeps.raise _ _ ?_
      | with_reducible refine Keeps.flushVec _ ?_ | dsimp only | exact Or.inr rfl

theorem Keeps.finishLoss {s0 : State} (s : State) (h : Keeps s0 s) : Keeps s0 (State.finishLoss s) := by
  unfold Sys2Proof.Machine.State.finishLoss
  try dsimp only
  repeat'
      first
      | with_reducible assumption | with_reducible refine Keeps.lossDone _ ?_ | with_reducible refine Keeps.lossPart _ _ ?_
      | with_reducible refine Keeps.advanceSession _ ?_ | with_reducible refine Keeps.setGrants _ _ ?_ | with_reducible refine Keeps.failAdmit _ _ _ ?_
      | with_reducible refine Keeps.foldl _ _ _ ?_ ?_ | intro _ | split

theorem Keeps.hostLossReset {s0 : State} (s : State) (c : HostLossCause) (h : Keeps s0 s) : Keeps s0 (State.hostLossReset s c) := by
  unfold Sys2Proof.Machine.State.hostLossReset
  try dsimp only
  repeat'
      first
      | with_reducible assumption | with_reducible refine Keeps.setLink _ ?_ ?_ | with_reducible refine Keeps.setFabric _ ?_
      | with_reducible refine Keeps.setQueues _ ?_ ?_ | with_reducible refine Keeps.finishLoss _ ?_ | with_reducible refine Keeps.lossDone _ ?_
      | with_reducible refine Keeps.openLoss _ _ ?_ | with_reducible refine Keeps.setGrants _ _ ?_ | with_reducible refine Keeps.wakeNow _ ?_
      | with_reducible refine Keeps.foldl _ _ _ ?_ ?_ | with_reducible refine Keeps.ite ?_ ?_ | intro _ | split | dsimp only | exact Or.inr rfl
      | simp

theorem Keeps.execHostLossReset {s0 : State} (cause : HostLossCause) (s : State) (h : Keeps s0 s) : KeepsR s0 (execHostLossReset cause s) := by
  unfold Sys2Proof.Machine.execHostLossReset
  try dsimp only
  repeat' first | with_reducible assumption | with_reducible refine Keeps.hostLossReset _ _ ?_ | with_reducible refine KeepsR.next ?_

theorem Keeps.execFlushTimeout {s0 : State} (s : State) (h : Keeps s0 s) : KeepsR s0 (Sys2Proof.Machine.execFlushTimeout s) := by
  unfold Sys2Proof.Machine.execFlushTimeout
  split
  · have k : Keeps s0 ((List.range 16).foldl (fun s p => if (s.part p).admitted then s.abandonEpoch p else s) s) :=
      Keeps.foldl _ _ _ (fun _ _ k => Keeps.ite (Keeps.abandonEpoch _ _ k) k) h
    generalize (List.range 16).foldl (fun s p => if (s.part p).admitted then s.abandonEpoch p else s) s = x at k
    exact KeepsR.next (Keeps.finishLoss _ (Keeps.raise _ _ (Keeps.setLink _ k (Or.inl ⟨rfl, rfl⟩))))
  · exact KeepsR.next h

theorem Keeps.epochOver {s0 : State} (s : State) (p : Nat) (was : Option Epoch) (h : Keeps s0 s) : Keeps s0 (State.epochOver s p was) := by
  unfold Sys2Proof.Machine.State.epochOver
  try dsimp only
  repeat'
      first
      | with_reducible assumption | with_reducible refine Keeps.finishLoss _ ?_ | with_reducible refine Keeps.openLoss _ _ ?_
      | with_reducible refine Keeps.retryPool _ _ ?_ | with_reducible refine Keeps.settle _ ?_ | with_reducible refine Keeps.ite ?_ ?_ | split

theorem Keeps.destFails {s0 : State} (s : State) (p : Nat) (h : Keeps s0 s) : Keeps s0 (State.destFails s p) := by
  unfold Sys2Proof.Machine.State.destFails
  try dsimp only
  repeat' first | with_reducible assumption | with_reducible refine Keeps.epochOver _ _ _ ?_ | with_reducible refine Keeps.abandonEpoch _ _ ?_

theorem Keeps.cellarFails {s0 : State} (s : State) (p : Nat) (h : Keeps s0 s) : Keeps s0 (State.cellarFails s p) := by
  unfold Sys2Proof.Machine.State.cellarFails
  try dsimp only
  repeat' first | with_reducible assumption | with_reducible refine Keeps.destFails _ _ ?_ | with_reducible refine Keeps.ite ?_ ?_ | split

theorem Keeps.keepHle {s0 : State} (s : State) (p : Nat) (e : Epoch) (h : Keeps s0 s) : Keeps s0 (State.keepHle s p e) := by
  unfold Sys2Proof.Machine.State.keepHle
  try dsimp only
  repeat' first | with_reducible assumption | with_reducible refine Keeps.setHle _ ?_

theorem Keeps.execEpochEnd {s0 : State} (p : Fin 16) (s : State) (h : Keeps s0 s) : KeepsR s0 (execEpochEnd p s) := by
  unfold Sys2Proof.Machine.execEpochEnd
  try dsimp only
  repeat'
      first
      | with_reducible assumption | with_reducible refine Keeps.keepHle _ _ _ ?_ | with_reducible refine Keeps.epochOver _ _ _ ?_
      | with_reducible refine Keeps.closeEpoch _ _ ?_ | with_reducible refine Keeps.exportEpoch _ _ ?_ | with_reducible refine KeepsR.next ?_ | split

theorem Keeps.execDigestMessage {s0 : State} (a0 : PftHdr) (member : BitVec 4) (step : BitVec 64) (digest : Bytes) (s : State) (h : Keeps s0 s) : KeepsR s0 (execDigestMessage a0 member step digest s) := by
  unfold Sys2Proof.Machine.execDigestMessage
  try dsimp only
  repeat'
      first
      | with_reducible assumption | with_reducible refine Keeps.epochOver _ _ _ ?_ | with_reducible refine Keeps.rxPart _ _ _ _ ?_ ?_
      | with_reducible refine Keeps.closeEpoch _ _ ?_ | with_reducible refine Keeps.tryDigest _ _ ?_ | with_reducible refine Keeps.modStream _ _ _ ?_
      | with_reducible refine KeepsR.next ?_ | intro _ | split

theorem Keeps.execLeaseReclaim {s0 : State} (a0 : PftHdr) (bpart : Fin 16) (lease : BitVec 32) (noticeMs : BitVec 16) (s : State) (h : Keeps s0 s) : KeepsR s0 (execLeaseReclaim a0 bpart lease noticeMs s) := by
  unfold Sys2Proof.Machine.execLeaseReclaim
  try dsimp only
  repeat'
      first
      | with_reducible assumption | with_reducible refine Keeps.cellarFails _ _ ?_ | with_reducible refine Keeps.loseHle _ _ ?_
      | with_reducible refine Keeps.evacuate _ _ ?_ | with_reducible refine Keeps.rxLease _ _ ?_
      | with_reducible refine KeepsP.of (Keeps.rxLease _ _ ?_) (by assumption) | with_reducible refine KeepsP.fst (Keeps.rxLease _ _ ?_)
      | with_reducible refine Keeps.abandonMove _ _ ?_ | with_reducible refine Keeps.setSlabs _ _ ?_ | with_reducible refine Keeps.raiseP _ _ _ ?_
      | with_reducible refine Keeps.modPart _ _ _ ?_ | with_reducible refine Keeps.foldl _ _ _ ?_ ?_ | with_reducible refine KeepsR.next ?_ | intro _
      | split

theorem Keeps.execEndpointUnreachable {s0 : State} (ep : BitVec 20) (s : State) (h : Keeps s0 s) : KeepsR s0 (execEndpointUnreachable ep s) := by
  unfold Sys2Proof.Machine.execEndpointUnreachable
  try dsimp only
  repeat'
      first
      | with_reducible assumption | with_reducible refine Keeps.cellarFails _ _ ?_ | with_reducible refine Keeps.destFails _ _ ?_
      | with_reducible refine Keeps.loseLender _ _ ?_ | with_reducible refine Keeps.loseHle _ _ ?_ | with_reducible refine Keeps.settle _ ?_
      | with_reducible refine Keeps.modFab _ _ ?_ | with_reducible refine Keeps.raise _ _ ?_ | with_reducible refine Keeps.foldl _ _ _ ?_ ?_
      | with_reducible refine KeepsR.next ?_ | intro _ | split

theorem Keeps.execDigestTimeout {s0 : State} (p : Fin 16) (s : State) (h : Keeps s0 s) : KeepsR s0 (execDigestTimeout p s) := by
  unfold Sys2Proof.Machine.execDigestTimeout
  try dsimp only
  repeat'
      first
      | with_reducible assumption | with_reducible refine Keeps.epochOver _ _ _ ?_ | with_reducible refine Keeps.closeEpoch _ _ ?_
      | with_reducible refine Keeps.decideDigest _ _ ?_ | with_reducible refine Keeps.forgetPkts _ _ _ ?_ | with_reducible refine KeepsR.next ?_ | split

theorem Keeps.execRingFullTimeout {s0 : State} (p : Fin 16) (s : State) (h : Keeps s0 s) : KeepsR s0 (execRingFullTimeout p s) := by
  unfold Sys2Proof.Machine.execRingFullTimeout
  try dsimp only
  repeat' first | with_reducible assumption | with_reducible refine Keeps.destFails _ _ ?_ | with_reducible refine KeepsR.next ?_ | split

theorem Keeps.writeStreamTail {s0 : State} (s : State) (p : Nat) (v : Word) (h : Keeps s0 s) : Keeps s0 (State.writeStreamTail s p v) := by
  unfold Sys2Proof.Machine.State.writeStreamTail
  try dsimp only
  repeat'
      first
      | with_reducible assumption | with_reducible refine Keeps.epochOver _ _ _ ?_ | with_reducible refine Keeps.closeEpoch _ _ ?_
      | with_reducible refine Keeps.exportEpoch _ _ ?_ | with_reducible refine Keeps.modStream _ _ _ ?_ | with_reducible refine Keeps.ite ?_ ?_ | intro _
      | split

theorem Keeps.execPartStreamTailWrite {s0 : State} (p : Fin 16) (v : Word) (s : State) (h : Keeps s0 s) : KeepsR s0 (execPartStreamTailWrite p v s) := by
  unfold Sys2Proof.Machine.execPartStreamTailWrite
  try dsimp only
  repeat'
      first
      | with_reducible assumption | with_reducible refine Keeps.writeStreamTail _ _ _ ?_ | with_reducible refine Keeps.bar0 _ _ ?_ ?_
      | with_reducible refine KeepsR.next ?_ | intro _

theorem Keeps.writeDigest {s0 : State} (s : State) (p : Nat) (v : Word) (h : Keeps s0 s) : Keeps s0 (State.writeDigest s p v) := by
  unfold Sys2Proof.Machine.State.writeDigest
  try dsimp only
  repeat' first | with_reducible assumption | with_reducible refine Keeps.settle _ ?_ | with_reducible refine Keeps.modStream _ _ _ ?_

theorem Keeps.execResume {s0 : State} (p : Fin 16) (v : Word) (s : State) (h : Keeps s0 s) : KeepsR s0 (execResume p v s) := by
  unfold Sys2Proof.Machine.execResume
  try dsimp only
  repeat'
      first
      | with_reducible assumption | with_reducible refine Keeps.writeDigest _ _ _ ?_ | with_reducible refine Keeps.bar0 _ _ ?_ ?_
      | with_reducible refine KeepsR.next ?_ | intro _

theorem Keeps.fetchWaiting {s0 : State} (s : State) (h : Keeps s0 s) : Keeps s0 (State.fetchWaiting s) := by
  unfold Sys2Proof.Machine.State.fetchWaiting
  try dsimp only
  repeat'
      first
      | with_reducible assumption | with_reducible refine Keeps.fetchAll _ _ _ ?_ | with_reducible refine Keeps.foldl _ _ _ ?_ ?_ | intro _

theorem Keeps.resumeHost {s0 : State} (s : State) (h : Keeps s0 s) : Keeps s0 (State.resumeHost s) :=
  Keeps.settle _ (Keeps.runColls _ (Keeps.fetchWaiting _ (Keeps.serveLines _ (Keeps.foldl _ _ _ (fun _ _ k => Keeps.ringRoomNow _ _ k) (Keeps.flushVec _ h)))))

theorem Keeps.execLinkRecovery {s0 : State} (s : State) (h : Keeps s0 s) : KeepsR s0 (execLinkRecovery s) := by
  unfold Sys2Proof.Machine.execLinkRecovery
  try dsimp only
  repeat'
      first
      | with_reducible assumption | with_reducible refine Keeps.setLink _ ?_ ?_ | with_reducible refine KeepsR.next ?_ | split | dsimp only
      | exact Or.inr rfl | simp

theorem Keeps.execLinkReturnL0 {s0 : State} (speed : BitVec 3) (width : BitVec 5) (s : State) (h : Keeps s0 s) : KeepsR s0 (execLinkReturnL0 speed width s) := by
  unfold Sys2Proof.Machine.execLinkReturnL0
  try dsimp only
  repeat'
      first
      | with_reducible assumption | with_reducible refine Keeps.setLink _ ?_ ?_ | with_reducible refine Keeps.resumeHost _ ?_
      | with_reducible refine Keeps.draw _ ?_ | with_reducible refine KeepsQ.of (Keeps.draw _ ?_) (by assumption)
      | with_reducible refine KeepsQ.snd (Keeps.draw _ ?_) | with_reducible refine KeepsR.next ?_ | split | dsimp only | exact Or.inr rfl | simp

theorem Keeps.execLinkLossTimeout {s0 : State} (s : State) (h : Keeps s0 s) : KeepsR s0 (execLinkLossTimeout s) := by
  unfold Sys2Proof.Machine.execLinkLossTimeout
  try dsimp only
  repeat' first | with_reducible assumption | with_reducible refine Keeps.hostLossReset _ _ ?_ | with_reducible refine KeepsR.next ?_ | split

theorem Keeps.execD3hotEntry {s0 : State} (s : State) (h : Keeps s0 s) : KeepsR s0 (execD3hotEntry s) := by
  unfold Sys2Proof.Machine.execD3hotEntry
  try dsimp only
  repeat'
      first
      | with_reducible assumption | with_reducible refine Keeps.setLink _ ?_ ?_ | with_reducible refine KeepsR.next ?_ | split | dsimp only
      | exact Or.inr rfl | simp

theorem Keeps.execD0Return {s0 : State} (l : List HostBlk) (s : State) (h : Keeps s0 s) : KeepsR s0 (Sys2Proof.Machine.execD0Return l s) := by
  unfold Sys2Proof.Machine.execD0Return
  dsimp only
  split
  · exact KeepsR.next (Keeps.resumeHost _ (Keeps.setLink _ (Keeps.hostStore _ _ h) (Or.inl (by simp))))
  · exact KeepsR.next h

theorem Keeps.execLinkReachesL0 {s0 : State} (speed : BitVec 3) (width : BitVec 5) (flit : BitVec 2) (cxlCache : Bool) (s : State) (h : Keeps s0 s) : KeepsR s0 (execLinkReachesL0 speed width flit cxlCache s) := by
  unfold Sys2Proof.Machine.execLinkReachesL0
  try dsimp only
  repeat'
      first
      | with_reducible assumption | with_reducible refine Keeps.setLink _ ?_ ?_ | with_reducible refine Keeps.resumeHost _ ?_
      | with_reducible refine KeepsR.next ?_ | split | dsimp only | exact Or.inr rfl | simp

theorem Keeps.execFirstBar0AccessAfterHostLoss {s0 : State} (s : State) (h : Keeps s0 s) : KeepsR s0 (Sys2Proof.Machine.execFirstBar0AccessAfterHostLoss s) := by
  unfold Sys2Proof.Machine.execFirstBar0AccessAfterHostLoss
  split
  · exact KeepsR.next h
  · exact KeepsR.next (Keeps.seen _ h)

theorem Keeps.writeLevel {s0 : State} (s : State) (v : Word) (h : Keeps s0 s) : Keeps s0 (State.writeLevel s v) := by
  unfold Sys2Proof.Machine.State.writeLevel
  try dsimp only
  repeat'
      first
      | with_reducible assumption | with_reducible refine Keeps.setLink _ ?_ ?_ | with_reducible refine Keeps.ite ?_ ?_ | split | dsimp only
      | exact Or.inr rfl

theorem Keeps.execIdHostLevelWrite {s0 : State} (v : Word) (s : State) (h : Keeps s0 s) : KeepsR s0 (execIdHostLevelWrite v s) := by
  unfold Sys2Proof.Machine.execIdHostLevelWrite
  try dsimp only
  repeat'
      first
      | with_reducible assumption | with_reducible refine Keeps.writeLevel _ _ ?_ | with_reducible refine Keeps.seen _ ?_
      | with_reducible refine KeepsR.next ?_ | split

theorem Keeps.execBar0AccessInvalid {s0 : State} (off : BitVec 24) (a1 : Nat) (write : Bool) (s : State) (h : Keeps s0 s) : KeepsR s0 (execBar0AccessInvalid off a1 write s) := by
  unfold Sys2Proof.Machine.execBar0AccessInvalid
  try dsimp only
  repeat' first | with_reducible assumption | with_reducible refine Keeps.emit _ _ ?_ | with_reducible refine KeepsR.next ?_ | split

theorem Keeps.execBar2Read {s0 : State} (off : BitVec 28) (s : State) (h : Keeps s0 s) : KeepsR s0 (execBar2Read off s) := by
  unfold Sys2Proof.Machine.execBar2Read
  try dsimp only
  repeat' first | with_reducible assumption | with_reducible refine Keeps.emit _ _ ?_ | with_reducible refine KeepsR.next ?_ | split

theorem Keeps.bindNow {s0 : State} (s : State) (p : Nat) (h : Keeps s0 s) : Keeps s0 (State.bindNow s p) := by
  unfold Sys2Proof.Machine.State.bindNow
  try dsimp only
  repeat'
      first
      | with_reducible assumption | with_reducible refine Keeps.modPart _ _ _ ?_

theorem Keeps.writeLand {s0 : State} (s : State) (p : Nat) (v : Word) (h : Keeps s0 s) : Keeps s0 (State.writeLand s p v) := by
  unfold Sys2Proof.Machine.State.writeLand
  try dsimp only
  repeat'
      first
      | with_reducible assumption | with_reducible refine Keeps.bindNow _ _ ?_ | with_reducible refine Keeps.modPart _ _ _ ?_
      | with_reducible refine Keeps.ite ?_ ?_

theorem Keeps.execBind {s0 : State} (p : Fin 16) (v : Word) (s : State) (h : Keeps s0 s) : KeepsR s0 (execBind p v s) := by
  unfold Sys2Proof.Machine.execBind
  try dsimp only
  repeat'
      first
      | with_reducible assumption | with_reducible refine Keeps.writeLand _ _ _ ?_ | with_reducible refine Keeps.bar0 _ _ ?_ ?_
      | with_reducible refine KeepsR.next ?_ | intro _

theorem Keeps.execUnbind {s0 : State} (p : Fin 16) (v : Word) (s : State) (h : Keeps s0 s) : KeepsR s0 (execUnbind p v s) := by
  unfold Sys2Proof.Machine.execUnbind
  try dsimp only
  repeat'
      first
      | with_reducible assumption | with_reducible refine Keeps.writeLand _ _ _ ?_ | with_reducible refine Keeps.bar0 _ _ ?_ ?_
      | with_reducible refine KeepsR.next ?_ | intro _

theorem Keeps.writeLandHead {s0 : State} (s : State) (p : Nat) (v : Word) (h : Keeps s0 s) : Keeps s0 (State.writeLandHead s p v) := by
  unfold Sys2Proof.Machine.State.writeLandHead
  try dsimp only
  repeat'
      first
      | with_reducible assumption | with_reducible refine Keeps.modPart _ _ _ ?_

theorem Keeps.execPartLandHeadWrite {s0 : State} (p : Fin 16) (v : Word) (s : State) (h : Keeps s0 s) : KeepsR s0 (execPartLandHeadWrite p v s) := by
  unfold Sys2Proof.Machine.execPartLandHeadWrite
  try dsimp only
  repeat'
      first
      | with_reducible assumption | with_reducible refine Keeps.writeLandHead _ _ _ ?_ | with_reducible refine Keeps.bar0 _ _ ?_ ?_
      | with_reducible refine KeepsR.next ?_ | intro _

theorem Keeps.landDiscard {s0 : State} (s : State) (h : Keeps s0 s) : Keeps s0 (State.landDiscard s) := by
  unfold Sys2Proof.Machine.State.landDiscard
  try dsimp only
  repeat' first | with_reducible assumption | with_reducible refine Keeps.setLink _ ?_ ?_ | dsimp only | exact Or.inr rfl | simp

theorem Keeps.landDrop {s0 : State} (s : State) (p : Nat) (event : Bool) (h : Keeps s0 s) : Keeps s0 (State.landDrop s p event) := by
  unfold Sys2Proof.Machine.State.landDrop
  try dsimp only
  repeat'
      first
      | with_reducible assumption | with_reducible refine Keeps.raiseLimited _ _ _ _ _ ?_ | with_reducible refine Keeps.modPart _ _ _ ?_
      | with_reducible refine Keeps.ite ?_ ?_

theorem Keeps.tailDoorbell {s0 : State} (s : State) (p a2 req : Nat) (h : Keeps s0 s) : Keeps s0 (State.tailDoorbell s p a2 req) := by
  unfold Sys2Proof.Machine.State.tailDoorbell
  try dsimp only
  repeat'
      first
      | with_reducible assumption | with_reducible refine Keeps.landDrop _ _ _ ?_ | with_reducible refine Keeps.landDiscard _ ?_
      | with_reducible refine Keeps.settle _ ?_ | with_reducible refine Keeps.putRecord _ _ _ ?_ | with_reducible refine Keeps.modQueue _ _ _ ?_
      | with_reducible refine Keeps.modPart _ _ _ ?_ | with_reducible refine Keeps.ite ?_ ?_

theorem Keeps.landWrite {s0 : State} (s : State) (p o : Nat) (data : Bytes) (req : Nat) (h : Keeps s0 s) : Keeps s0 (State.landWrite s p o data req) := by
  unfold Sys2Proof.Machine.State.landWrite
  try dsimp only
  repeat'
      first
      | with_reducible assumption | with_reducible refine Keeps.landDrop _ _ _ ?_ | with_reducible refine Keeps.landDiscard _ ?_
      | with_reducible refine Keeps.meterBytes _ _ _ ?_ | with_reducible refine Keeps.writeInPlace _ _ _ ?_ | with_reducible refine Keeps.ite ?_ ?_

theorem Keeps.bar2Write {s0 : State} (s : State) (p o : Nat) (data : Bytes) (req : Nat) (h : Keeps s0 s) : Keeps s0 (State.bar2Write s p o data req) := by
  unfold Sys2Proof.Machine.State.bar2Write
  try dsimp only
  repeat'
      first
      | with_reducible assumption | with_reducible refine Keeps.landWrite _ _ _ _ _ ?_ | with_reducible refine Keeps.tailDoorbell _ _ _ _ ?_
      | with_reducible refine Keeps.landDiscard _ ?_ | with_reducible refine Keeps.wakeNow _ ?_ | with_reducible refine Keeps.ite ?_ ?_

theorem Keeps.execLandingDataWrite {s0 : State} (off : BitVec 28) (data : Bytes) (requester : BitVec 16) (s : State) (h : Keeps s0 s) : KeepsR s0 (execLandingDataWrite off data requester s) := by
  unfold Sys2Proof.Machine.execLandingDataWrite
  try dsimp only
  repeat' first | with_reducible assumption | with_reducible refine Keeps.bar2Write _ _ _ _ _ ?_ | with_reducible refine KeepsR.next ?_

theorem Keeps.execTailDoorbell {s0 : State} (p : Fin 16) (v : Word) (requester : BitVec 16) (s : State) (h : Keeps s0 s) : KeepsR s0 (execTailDoorbell p v requester s) := by
  unfold Sys2Proof.Machine.execTailDoorbell
  try dsimp only
  repeat' first | with_reducible assumption | with_reducible refine Keeps.bar2Write _ _ _ _ _ ?_ | with_reducible refine KeepsR.next ?_

theorem Keeps.dropHle {s0 : State} (s : State) (p : Nat) (h : Keeps s0 s) : Keeps s0 (State.dropHle s p) := by
  unfold Sys2Proof.Machine.State.dropHle
  try dsimp only
  repeat'
      first
      | with_reducible assumption | with_reducible refine Keeps.setHle _ ?_ | with_reducible refine Keeps.releaseLeases _ _ _ ?_ | split

theorem Keeps.readoutNow {s0 : State} (s : State) (ok : Nat) (h : Keeps s0 s) : Keeps s0 (State.readoutNow s ok) := by
  unfold Sys2Proof.Machine.State.readoutNow
  try dsimp only
  repeat'
      first
      | with_reducible assumption | with_reducible refine Keeps.setHle _ ?_ | with_reducible refine Keeps.dropHle _ _ ?_
      | with_reducible refine Keeps.hostWrite _ _ _ ?_ | with_reducible refine Keeps.ite ?_ ?_ | split

theorem Keeps.writeHle {s0 : State} (s : State) (v : Word) (ok : Nat) (h : Keeps s0 s) : Keeps s0 (State.writeHle s v ok) := by
  unfold Sys2Proof.Machine.State.writeHle
  try dsimp only
  repeat'
      first
      | with_reducible assumption | with_reducible refine Keeps.setHle _ ?_ | with_reducible refine Keeps.readoutNow _ _ ?_
      | with_reducible refine Keeps.dropHle _ _ ?_ | with_reducible refine Keeps.ite ?_ ?_

theorem Keeps.execReadout {s0 : State} (v : Word) (ok : Fin 3) (s : State) (h : Keeps s0 s) : KeepsR s0 (execReadout v ok s) := by
  unfold Sys2Proof.Machine.execReadout
  try dsimp only
  repeat'
      first
      | with_reducible assumption | with_reducible refine Keeps.writeHle _ _ _ ?_ | with_reducible refine Keeps.bar0 _ _ ?_ ?_
      | with_reducible refine KeepsR.next ?_ | intro _

theorem Keeps.execDiscard {s0 : State} (v : Word) (s : State) (h : Keeps s0 s) : KeepsR s0 (execDiscard v s) := by
  unfold Sys2Proof.Machine.execDiscard
  try dsimp only
  repeat'
      first
      | with_reducible assumption | with_reducible refine Keeps.writeHle _ _ _ ?_ | with_reducible refine Keeps.bar0 _ _ ?_ ?_
      | with_reducible refine KeepsR.next ?_ | intro _

end Sys2Proof.Machine
end

