-- ==== Sys2Proof/Laws/KeptPorts.lean ====
section
/-! SUPPORT. What the operations and commands of ports, lasers, records, recovery and the package fabric keep. -/

namespace Sys2Proof.Machine

theorem Keeps.modTag {s0 : State} (s : State) (f : Tag → Tag) (h : Keeps s0 s) : Keeps s0 (State.modTag s f) := by
  unfold Sys2Proof.Machine.State.modTag
  try dsimp only
  repeat' first | with_reducible assumption | with_reducible refine Keeps.setTag _ ?_

theorem Keeps.sendStatus {s0 : State} (s : State) (h : Keeps s0 s) : Keeps s0 (State.sendStatus s) := by
  unfold Sys2Proof.Machine.State.sendStatus
  try dsimp only
  repeat' first | with_reducible assumption | with_reducible refine Keeps.modTag _ _ ?_ | with_reducible refine Keeps.ite ?_ ?_

theorem Keeps.putLog {s0 : State} (s : State) (h : Keeps s0 s) : Keeps s0 (State.putLog s) := by
  unfold Sys2Proof.Machine.State.putLog
  try dsimp only
  repeat'
      first
      | with_reducible assumption | with_reducible refine Keeps.setFlash _ ?_ | with_reducible refine Keeps.sendStatus _ ?_
      | with_reducible refine Keeps.ite ?_ ?_ | split

theorem Keeps.putLogs {s0 : State} (a0 : Nat) (a1 : State) (h : Keeps s0 a1) : Keeps s0 (State.putLogs a0 a1) := by
  induction a0 generalizing a1 with
  | zero => (unfold Sys2Proof.Machine.State.putLogs; try dsimp only); repeat'
      first
      | with_reducible assumption
  | succ n ih => (unfold Sys2Proof.Machine.State.putLogs; try dsimp only); repeat'
      first
      | with_reducible assumption | (with_reducible refine ih _ ?_) | with_reducible refine Keeps.putLog _ ?_

theorem Keeps.enterUpdate {s0 : State} (s : State) (h : Keeps s0 s) : Keeps s0 (State.enterUpdate s) := by
  unfold Sys2Proof.Machine.State.enterUpdate
  try dsimp only
  repeat'
      first
      | with_reducible assumption | with_reducible refine Keeps.setFlash _ ?_ | with_reducible refine Keeps.setBoot _ ?_
      | with_reducible refine Keeps.setPhase _ ?_ ?_ | with_reducible refine Keeps.setPins _ ?_ ?_ | with_reducible refine Keeps.ite ?_ ?_ | split
      | dsimp only | exact Or.inr (Or.inl rfl) | exact Or.inr rfl

theorem Keeps.pumpAll {s0 : State} (s : State) (h : Keeps s0 s) : Keeps s0 (State.pumpAll s) := by
  unfold Sys2Proof.Machine.State.pumpAll
  try dsimp only
  repeat'
      first
      | with_reducible assumption | with_reducible refine Keeps.pump _ _ _ _ ?_ | with_reducible refine Keeps.foldl _ _ _ ?_ ?_ | intro _

theorem Keeps.portLost {s0 : State} (s : State) (a1 : Nat) (h : Keeps s0 s) : Keeps s0 (State.portLost s a1) := by
  unfold Sys2Proof.Machine.State.portLost
  try dsimp only
  repeat' first | with_reducible assumption | with_reducible refine Keeps.resendPort _ _ ?_ | with_reducible refine Keeps.ite ?_ ?_

theorem Keeps.requeue {s0 : State} (s : State) (a1 : Nat) (l : List (Nat × Bool × Egr)) (h : Keeps s0 s) : Keeps s0 (State.requeue s a1 l) := by
  unfold Sys2Proof.Machine.State.requeue
  try dsimp only
  repeat'
      first
      | with_reducible assumption | with_reducible refine Keeps.portSend _ _ _ _ ?_ | with_reducible refine Keeps.foldl _ _ _ ?_ ?_ | intro _ | split

theorem Keeps.subDown {s0 : State} (s : State) (a1 sub : Nat) (h : Keeps s0 s) : Keeps s0 (State.subDown s a1 sub) := by
  unfold Sys2Proof.Machine.State.subDown
  try dsimp only
  repeat'
      first
      | with_reducible assumption | with_reducible refine Keeps.requeue _ _ _ ?_ | with_reducible refine Keeps.raise _ _ ?_
      | with_reducible refine Keeps.modPort _ _ _ ?_ | with_reducible refine Keeps.ite ?_ ?_

theorem Keeps.portGone {s0 : State} (s : State) (a1 : Nat) (h : Keeps s0 s) : Keeps s0 (State.portGone s a1) := by
  unfold Sys2Proof.Machine.State.portGone
  try dsimp only
  repeat'
      first
      | with_reducible assumption | with_reducible refine Keeps.subDown _ _ _ ?_ | with_reducible refine Keeps.portLost _ _ ?_
      | with_reducible refine Keeps.unqueue _ _ _ ?_ | with_reducible refine Keeps.foldl _ _ _ ?_ ?_ | intro _

theorem Keeps.setDegraded {s0 : State} (s : State) (a1 : Nat) (b : Bool) (h : Keeps s0 s) : Keeps s0 (State.setDegraded s a1 b) := by
  unfold Sys2Proof.Machine.State.setDegraded
  try dsimp only
  repeat'
      first
      | with_reducible assumption | with_reducible refine Keeps.setInv _ ?_ | with_reducible refine Keeps.capacityChange _ _ _ _ ?_
      | with_reducible refine Keeps.ite ?_ ?_

theorem Keeps.fullAgain {s0 : State} (s : State) (a1 : Nat) (h : Keeps s0 s) : Keeps s0 (State.fullAgain s a1) := by
  unfold Sys2Proof.Machine.State.fullAgain
  try dsimp only
  repeat'
      first
      | with_reducible assumption | with_reducible refine Keeps.setDegraded _ _ _ ?_ | with_reducible refine Keeps.ite ?_ ?_

theorem Keeps.subRise {s0 : State} (s : State) (a1 sub : Nat) (h : Keeps s0 s) : Keeps s0 (State.subRise s a1 sub) := by
  unfold Sys2Proof.Machine.State.subRise
  try dsimp only
  repeat'
      first
      | with_reducible assumption | with_reducible refine Keeps.fullAgain _ _ ?_ | with_reducible refine Keeps.pumpAll _ ?_
      | with_reducible refine Keeps.subSend _ _ _ _ _ _ ?_ | with_reducible refine Keeps.raise _ _ ?_ | with_reducible refine Keeps.modPort _ _ _ ?_
      | with_reducible refine Keeps.ite ?_ ?_

theorem Keeps.execPortDown {s0 : State} (port : Fin 16) (s : State) (h : Keeps s0 s) : KeepsR s0 (execPortDown port s) := by
  unfold Sys2Proof.Machine.execPortDown
  try dsimp only
  repeat' first | with_reducible assumption | with_reducible refine Keeps.portGone _ _ ?_ | with_reducible refine KeepsR.next ?_

theorem Keeps.execSubportUp {s0 : State} (port : Fin 16) (sub : Fin 8) (s : State) (h : Keeps s0 s) : KeepsR s0 (execSubportUp port sub s) := by
  unfold Sys2Proof.Machine.execSubportUp
  try dsimp only
  repeat' first | with_reducible assumption | with_reducible refine Keeps.subRise _ _ _ ?_ | with_reducible refine KeepsR.next ?_

theorem Keeps.execTrainingRetry {s0 : State} (port : Fin 16) (sub : Fin 8) (trained : Bool) (s : State) (h : Keeps s0 s) : KeepsR s0 (execTrainingRetry port sub trained s) := by
  unfold Sys2Proof.Machine.execTrainingRetry
  try dsimp only
  repeat' first | with_reducible assumption | with_reducible refine Keeps.subRise _ _ _ ?_ | with_reducible refine KeepsR.next ?_ | split

theorem Keeps.takeSpare {s0 : State} (s : State) (a1 lane : Nat) (tx : Bool) (h : Keeps s0 s) : Keeps s0 (State.takeSpare s a1 lane tx) := by
  unfold Sys2Proof.Machine.State.takeSpare
  try dsimp only
  repeat'
      first
      | with_reducible assumption | with_reducible refine Keeps.setInv _ ?_ | with_reducible refine Keeps.mapChanged _ ?_
      | with_reducible refine Keeps.capacityChange _ _ _ _ ?_ | with_reducible refine Keeps.raise _ _ ?_ | with_reducible refine Keeps.modPort _ _ _ ?_

theorem Keeps.halve {s0 : State} (s : State) (a1 : Nat) (fault : BitVec 8) (h : Keeps s0 s) : Keeps s0 (State.halve s a1 fault) := by
  unfold Sys2Proof.Machine.State.halve
  try dsimp only
  repeat'
      first
      | with_reducible assumption | with_reducible refine Keeps.setDegraded _ _ _ ?_ | with_reducible refine Keeps.raise _ _ ?_
      | with_reducible refine Keeps.modPort _ _ _ ?_

theorem Keeps.placeLane {s0 : State} (s : State) (f : LaneFault) (h : Keeps s0 s) : Keeps s0 (State.placeLane s f) := by
  unfold Sys2Proof.Machine.State.placeLane
  try dsimp only
  repeat'
      first
      | with_reducible assumption | with_reducible refine Keeps.halve _ _ _ ?_ | with_reducible refine Keeps.takeSpare _ _ _ _ ?_
      | with_reducible refine Keeps.ite ?_ ?_

theorem Keeps.laneDown {s0 : State} (s : State) (f : LaneFault) (h : Keeps s0 s) : Keeps s0 (State.laneDown s f) := by
  unfold Sys2Proof.Machine.State.laneDown
  try dsimp only
  repeat'
      first
      | with_reducible assumption | with_reducible refine Keeps.subDown _ _ _ ?_ | with_reducible refine Keeps.portLost _ _ ?_
      | with_reducible refine Keeps.modPort _ _ _ ?_

theorem Keeps.execLaneFailure {s0 : State} (port : Fin 16) (lane : Fin 8) (tx : Bool) (found : LaneFinding) (s : State) (h : Keeps s0 s) : KeepsR s0 (execLaneFailure port lane tx found s) := by
  unfold Sys2Proof.Machine.execLaneFailure
  try dsimp only
  repeat'
      first
      | with_reducible assumption | with_reducible refine Keeps.laneDown _ _ ?_ | with_reducible refine Keeps.placeLane _ _ ?_
      | with_reducible refine Keeps.foldl _ _ _ ?_ ?_ | with_reducible refine KeepsR.next ?_ | intro _

theorem Keeps.raiseSubs {s0 : State} (s : State) (a1 : Nat) (h : Keeps s0 s) : Keeps s0 (State.raiseSubs s a1) := by
  unfold Sys2Proof.Machine.State.raiseSubs
  try dsimp only
  repeat'
      first
      | with_reducible assumption | with_reducible refine Keeps.subRise _ _ _ ?_ | with_reducible refine Keeps.foldl _ _ _ ?_ ?_ | intro _

theorem Keeps.writePortCtrl {s0 : State} (s : State) (a1 : Nat) (v : Word) (faults : List LaneFault) (h : Keeps s0 s) : Keeps s0 (State.writePortCtrl s a1 v faults) := by
  unfold Sys2Proof.Machine.State.writePortCtrl
  try dsimp only
  repeat'
      first
      | with_reducible assumption | with_reducible refine Keeps.raiseSubs _ _ ?_ | with_reducible refine Keeps.placeLane _ _ ?_
      | with_reducible refine Keeps.portGone _ _ ?_ | with_reducible refine Keeps.modPort _ _ _ ?_ | with_reducible refine Keeps.foldl _ _ _ ?_ ?_
      | with_reducible refine Keeps.ite ?_ ?_ | intro _

theorem Keeps.execRetryFull {s0 : State} (port : Fin 16) (v : Word) (faults : List LaneFault) (s : State) (h : Keeps s0 s) : KeepsR s0 (execRetryFull port v faults s) := by
  unfold Sys2Proof.Machine.execRetryFull
  try dsimp only
  repeat'
      first
      | with_reducible assumption | with_reducible refine Keeps.writePortCtrl _ _ _ _ ?_ | with_reducible refine Keeps.bar0 _ _ ?_ ?_
      | with_reducible refine KeepsR.next ?_ | intro _

theorem Keeps.flowFrame {s0 : State} (s : State) (a1 sub : Nat) (dst : Bytes) (mode : Nat) (f : Port → SubTx → SubTx) (h : Keeps s0 s) : Keeps s0 (State.flowFrame s a1 sub dst mode f) := by
  unfold Sys2Proof.Machine.State.flowFrame
  try dsimp only
  repeat'
      first
      | with_reducible assumption | with_reducible refine Keeps.kickSub _ _ _ ?_ | with_reducible refine Keeps.modPort _ _ _ ?_
      | with_reducible refine Keeps.ite ?_ ?_

theorem Keeps.execPauseFrame {s0 : State} (rx : CtrlRx) (time : BitVec 16) (s : State) (h : Keeps s0 s) : KeepsR s0 (execPauseFrame rx time s) := by
  unfold Sys2Proof.Machine.execPauseFrame
  try dsimp only
  repeat'
      first
      | with_reducible assumption | with_reducible refine Keeps.flowFrame _ _ _ _ _ _ ?_ | with_reducible refine KeepsR.next ?_

theorem Keeps.execPfcFrame {s0 : State} (rx : CtrlRx) (vector : BitVec 8) (times : List (BitVec 16)) (s : State) (h : Keeps s0 s) : KeepsR s0 (execPfcFrame rx vector times s) := by
  unfold Sys2Proof.Machine.execPfcFrame
  try dsimp only
  repeat'
      first
      | with_reducible assumption | with_reducible refine Keeps.flowFrame _ _ _ _ _ _ ?_ | with_reducible refine KeepsR.next ?_

theorem Keeps.execPauseExpiry {s0 : State} (of : SubPort) (q : Option (Fin 8)) (s : State) (h : Keeps s0 s) : KeepsR s0 (execPauseExpiry of q s) := by
  unfold Sys2Proof.Machine.execPauseExpiry
  try dsimp only
  repeat'
      first
      | with_reducible assumption | with_reducible refine Keeps.kickSub _ _ _ ?_ | with_reducible refine Keeps.modTx _ _ _ _ ?_
      | with_reducible refine KeepsR.next ?_

theorem Keeps.execFlowStall {s0 : State} (port : Fin 16) (s : State) (h : Keeps s0 s) : KeepsR s0 (execFlowStall port s) := by
  unfold Sys2Proof.Machine.execFlowStall
  try dsimp only
  repeat'
      first
      | with_reducible assumption | with_reducible refine Keeps.portLost _ _ ?_ | with_reducible refine Keeps.raise _ _ ?_
      | with_reducible refine Keeps.modPort _ _ _ ?_ | with_reducible refine KeepsR.next ?_ | intro _ | split

theorem Keeps.execStallClear {s0 : State} (port : Fin 16) (s : State) (h : Keeps s0 s) : KeepsR s0 (execStallClear port s) := by
  unfold Sys2Proof.Machine.execStallClear
  try dsimp only
  repeat'
      first
      | with_reducible assumption | with_reducible refine Keeps.pumpAll _ ?_ | with_reducible refine Keeps.modPort _ _ _ ?_
      | with_reducible refine KeepsR.next ?_ | intro _ | split

theorem Keeps.sendPause {s0 : State} (s : State) (a1 sub a3 time : Nat) (h : Keeps s0 s) : Keeps s0 (State.sendPause s a1 sub a3 time) := by
  unfold Sys2Proof.Machine.State.sendPause
  try dsimp only
  repeat'
      first
      | with_reducible assumption | with_reducible refine Keeps.emit _ _ ?_ | with_reducible refine Keeps.modPort _ _ _ ?_
      | with_reducible refine Keeps.ite ?_ ?_

theorem Keeps.execIngressHigh {s0 : State} (port : Fin 16) (sub : Fin 8) (a2 : Fin 5) (s : State) (h : Keeps s0 s) : KeepsR s0 (execIngressHigh port sub a2 s) := by
  unfold Sys2Proof.Machine.execIngressHigh
  try dsimp only
  repeat' first | with_reducible assumption | with_reducible refine Keeps.sendPause _ _ _ _ _ ?_ | with_reducible refine KeepsR.next ?_ | split

theorem Keeps.execPauseRepeat {s0 : State} (port : Fin 16) (sub : Fin 8) (a2 : Fin 5) (s : State) (h : Keeps s0 s) : KeepsR s0 (execPauseRepeat port sub a2 s) := by
  unfold Sys2Proof.Machine.execPauseRepeat
  try dsimp only
  repeat' first | with_reducible assumption | with_reducible refine Keeps.sendPause _ _ _ _ _ ?_ | with_reducible refine KeepsR.next ?_ | split

theorem Keeps.execIngressLow {s0 : State} (port : Fin 16) (sub : Fin 8) (a2 : Fin 5) (drained : Nat) (s : State) (h : Keeps s0 s) : KeepsR s0 (execIngressLow port sub a2 drained s) := by
  unfold Sys2Proof.Machine.execIngressLow
  try dsimp only
  repeat'
      first
      | with_reducible assumption | with_reducible refine Keeps.sendPause _ _ _ _ _ ?_ | with_reducible refine Keeps.modPort _ _ _ ?_
      | with_reducible refine KeepsR.next ?_ | intro _ | split

theorem Keeps.execFrameReceive {s0 : State} (port : Fin 16) (sub : Fin 8) (f : Frame) (s : State) (h : Keeps s0 s) : KeepsR s0 (execFrameReceive port sub f s) := by
  unfold Sys2Proof.Machine.execFrameReceive
  try dsimp only
  repeat'
      first
      | with_reducible assumption | with_reducible refine Keeps.modPort _ _ _ ?_ | with_reducible refine KeepsR.next ?_ | intro _ | split

theorem Keeps.execArpRequest {s0 : State} (port : Fin 16) (sub : Fin 8) (target : Bytes) (s : State) (h : Keeps s0 s) : KeepsR s0 (execArpRequest port sub target s) := by
  unfold Sys2Proof.Machine.execArpRequest
  try dsimp only
  repeat' first | with_reducible assumption | with_reducible refine Keeps.subSend _ _ _ _ _ _ ?_ | with_reducible refine KeepsR.next ?_ | split

theorem Keeps.execNeighbourSolicitation {s0 : State} (port : Fin 16) (sub : Fin 8) (target : Bytes) (s : State) (h : Keeps s0 s) : KeepsR s0 (execNeighbourSolicitation port sub target s) := by
  unfold Sys2Proof.Machine.execNeighbourSolicitation
  try dsimp only
  repeat' first | with_reducible assumption | with_reducible refine Keeps.subSend _ _ _ _ _ _ ?_ | with_reducible refine KeepsR.next ?_ | split

theorem Keeps.adminDown {s0 : State} (s : State) (a1 : Nat) (h : Keeps s0 s) : Keeps s0 (State.adminDown s a1) := by
  unfold Sys2Proof.Machine.State.adminDown
  try dsimp only
  repeat'
      first
      | with_reducible assumption | with_reducible refine Keeps.sendPause _ _ _ _ _ ?_ | with_reducible refine Keeps.portGone _ _ ?_
      | with_reducible refine Keeps.modPort _ _ _ ?_ | with_reducible refine Keeps.foldl _ _ _ ?_ ?_ | intro _

theorem Keeps.writePort {s0 : State} (s : State) (a1 reg : Nat) (v : Word) (h : Keeps s0 s) : Keeps s0 (State.writePort s a1 reg v) := by
  unfold Sys2Proof.Machine.State.writePort
  try dsimp only
  repeat'
      first
      | with_reducible assumption | with_reducible refine Keeps.adminDown _ _ ?_ | with_reducible refine Keeps.modPort _ _ _ ?_
      | with_reducible refine Keeps.ite ?_ ?_ | intro _ | split

theorem Keeps.execPortCfgWrite {s0 : State} (port : Fin 16) (reg : Fin 7) (v : Word) (s : State) (h : Keeps s0 s) : KeepsR s0 (execPortCfgWrite port reg v s) := by
  unfold Sys2Proof.Machine.execPortCfgWrite
  try dsimp only
  repeat'
      first
      | with_reducible assumption | with_reducible refine Keeps.writePort _ _ _ _ ?_ | with_reducible refine Keeps.pumpAll _ ?_
      | with_reducible refine Keeps.bar0 _ _ ?_ ?_ | with_reducible refine KeepsR.next ?_ | intro _

theorem Keeps.clearCounters {s0 : State} (s : State) (a1 : Nat) (v : Word) (h : Keeps s0 s) : Keeps s0 (State.clearCounters s a1 v) := by
  unfold Sys2Proof.Machine.State.clearCounters
  try dsimp only
  repeat'
      first
      | with_reducible assumption | with_reducible refine Keeps.modPort _ _ _ ?_ | with_reducible refine Keeps.ite ?_ ?_

theorem Keeps.execPortCntClear {s0 : State} (port : Fin 16) (v : Word) (s : State) (h : Keeps s0 s) : KeepsR s0 (execPortCntClear port v s) := by
  unfold Sys2Proof.Machine.execPortCntClear
  try dsimp only
  repeat'
      first
      | with_reducible assumption | with_reducible refine Keeps.clearCounters _ _ _ ?_ | with_reducible refine Keeps.bar0 _ _ ?_ ?_
      | with_reducible refine KeepsR.next ?_ | intro _

theorem Keeps.execEngineHot {s0 : State} (a0 : Fin 8) (s : State) (h : Keeps s0 s) : KeepsR s0 (execEngineHot a0 s) := by
  unfold Sys2Proof.Machine.execEngineHot
  try dsimp only
  repeat'
      first
      | with_reducible assumption | with_reducible refine Keeps.pwrEvent _ _ ?_ | with_reducible refine Keeps.raise _ _ ?_
      | with_reducible refine KeepsR.next ?_

theorem Keeps.execEngineOverheat {s0 : State} (e : Fin 8) (s : State) (h : Keeps s0 s) : KeepsR s0 (execEngineOverheat e s) := by
  unfold Sys2Proof.Machine.execEngineOverheat
  try dsimp only
  repeat'
      first
      | with_reducible assumption | with_reducible refine Keeps.portGone _ _ ?_ | with_reducible refine Keeps.pwrRaise _ _ ?_
      | with_reducible refine Keeps.modPort _ _ _ ?_ | with_reducible refine KeepsR.next ?_

theorem Keeps.execEngineCooled {s0 : State} (e : Fin 8) (s : State) (h : Keeps s0 s) : KeepsR s0 (execEngineCooled e s) := by
  unfold Sys2Proof.Machine.execEngineCooled
  try dsimp only
  repeat' first | with_reducible assumption | with_reducible refine Keeps.modPort _ _ _ ?_ | with_reducible refine KeepsR.next ?_

theorem Keeps.modOptics {s0 : State} (s : State) (f : Optics → Optics) (h : Keeps s0 s) : Keeps s0 (State.modOptics s f) := by
  unfold Sys2Proof.Machine.State.modOptics
  try dsimp only
  repeat' first | with_reducible assumption | with_reducible refine Keeps.setOptics _ ?_

theorem Keeps.startRamp {s0 : State} (s : State) (h : Keeps s0 s) : Keeps s0 (State.startRamp s) := by
  unfold Sys2Proof.Machine.State.startRamp
  try dsimp only
  repeat'
      first
      | with_reducible assumption | with_reducible refine Keeps.modOptics _ _ ?_ | with_reducible refine Keeps.modLaser _ _ _ ?_
      | with_reducible refine Keeps.ite ?_ ?_ | intro _ | split

theorem Keeps.engineDown {s0 : State} (s : State) (e : Nat) (h : Keeps s0 s) : Keeps s0 (State.engineDown s e) := by
  unfold Sys2Proof.Machine.State.engineDown
  try dsimp only
  repeat' first | with_reducible assumption | with_reducible refine Keeps.portGone _ _ ?_

theorem Keeps.engineDark {s0 : State} (s : State) (e : Nat) (h : Keeps s0 s) : Keeps s0 (State.engineDark s e) := by
  unfold Sys2Proof.Machine.State.engineDark
  try dsimp only
  repeat'
      first
      | with_reducible assumption | with_reducible refine Keeps.setInv _ ?_ | with_reducible refine Keeps.modOptics _ _ ?_
      | with_reducible refine Keeps.capacityChange _ _ _ _ ?_ | with_reducible refine Keeps.raise _ _ ?_

theorem Keeps.queueSpare {s0 : State} (s : State) (c e : Nat) (h : Keeps s0 s) : Keeps s0 (State.queueSpare s c e) := by
  unfold Sys2Proof.Machine.State.queueSpare
  try dsimp only
  repeat' first | with_reducible assumption | with_reducible refine Keeps.modOptics _ _ ?_

theorem Keeps.lackSpare {s0 : State} (s : State) (w : Option Nat) (e : Nat) (h : Keeps s0 s) : Keeps s0 (State.lackSpare s w e) := by
  unfold Sys2Proof.Machine.State.lackSpare
  try dsimp only
  repeat' first | with_reducible assumption | with_reducible refine Keeps.modOptics _ _ ?_

theorem Keeps.respare {s0 : State} (s : State) (e : Nat) (h : Keeps s0 s) : Keeps s0 (State.respare s e) := by
  unfold Sys2Proof.Machine.State.respare
  try dsimp only
  repeat'
      first
      | with_reducible assumption | with_reducible refine Keeps.lackSpare _ _ _ ?_ | with_reducible refine Keeps.queueSpare _ _ _ ?_
      | with_reducible refine Keeps.engineDark _ _ ?_ | with_reducible refine Keeps.ite ?_ ?_ | split

theorem Keeps.swapWorn {s0 : State} (s : State) (w e : Nat) (h : Keeps s0 s) : Keeps s0 (State.swapWorn s w e) := by
  unfold Sys2Proof.Machine.State.swapWorn
  try dsimp only
  repeat'
      first
      | with_reducible assumption | with_reducible refine Keeps.lackSpare _ _ _ ?_ | with_reducible refine Keeps.queueSpare _ _ _ ?_
      | with_reducible refine Keeps.modOptics _ _ ?_ | with_reducible refine Keeps.ite ?_ ?_ | intro _ | split

theorem Keeps.serveLacking {s0 : State} (s : State) (h : Keeps s0 s) : Keeps s0 (State.serveLacking s) := by
  unfold Sys2Proof.Machine.State.serveLacking
  try dsimp only
  repeat'
      first
      | with_reducible assumption | with_reducible refine Keeps.swapWorn _ _ _ ?_ | with_reducible refine Keeps.respare _ _ ?_
      | with_reducible refine Keeps.modOptics _ _ ?_ | with_reducible refine Keeps.foldl _ _ _ ?_ ?_ | intro _ | split

theorem Keeps.spareUsed {s0 : State} (s : State) (h : Keeps s0 s) : Keeps s0 (State.spareUsed s) := by
  unfold Sys2Proof.Machine.State.spareUsed
  try dsimp only
  repeat' first | with_reducible assumption | with_reducible refine Keeps.setInv _ ?_ | with_reducible refine Keeps.capacityChange _ _ _ _ ?_

theorem Keeps.execLaserShort {s0 : State} (ch : Fin 10) (s : State) (h : Keeps s0 s) : KeepsR s0 (execLaserShort ch s) := by
  unfold Sys2Proof.Machine.execLaserShort
  try dsimp only
  repeat'
      first
      | with_reducible assumption | with_reducible refine Keeps.spareUsed _ ?_ | with_reducible refine Keeps.serveLacking _ ?_
      | with_reducible refine Keeps.swapWorn _ _ _ ?_ | with_reducible refine Keeps.respare _ _ ?_ | with_reducible refine Keeps.engineDown _ _ ?_
      | with_reducible refine Keeps.modOptics _ _ ?_ | with_reducible refine Keeps.mapChanged _ ?_ | with_reducible refine Keeps.raise _ _ ?_
      | with_reducible refine Keeps.modLaser _ _ _ ?_ | with_reducible refine KeepsR.next ?_ | intro _ | split

theorem Keeps.execLaserRailRegulated {s0 : State} (s : State) (h : Keeps s0 s) : KeepsR s0 (execLaserRailRegulated s) := by
  unfold Sys2Proof.Machine.execLaserRailRegulated
  try dsimp only
  repeat'
      first
      | with_reducible assumption | with_reducible refine Keeps.startRamp _ ?_ | with_reducible refine Keeps.modOptics _ _ ?_
      | with_reducible refine KeepsR.next ?_

theorem Keeps.execLaserRailFault {s0 : State} (s : State) (h : Keeps s0 s) : KeepsR s0 (execLaserRailFault s) := by
  unfold Sys2Proof.Machine.execLaserRailFault
  try dsimp only
  repeat'
      first
      | with_reducible assumption | with_reducible refine Keeps.serveLacking _ ?_ | with_reducible refine Keeps.modOptics _ _ ?_
      | with_reducible refine Keeps.portGone _ _ ?_ | with_reducible refine Keeps.raise _ _ ?_ | with_reducible refine Keeps.foldl _ _ _ ?_ ?_
      | with_reducible refine KeepsR.next ?_ | intro _ | split

theorem Keeps.execLaserRestart {s0 : State} (s : State) (h : Keeps s0 s) : KeepsR s0 (execLaserRestart s) := by
  unfold Sys2Proof.Machine.execLaserRestart
  try dsimp only
  repeat'
      first
      | with_reducible assumption | with_reducible refine Keeps.startRamp _ ?_ | with_reducible refine Keeps.modOptics _ _ ?_
      | with_reducible refine KeepsR.next ?_ | intro _ | split

theorem Keeps.takeOver {s0 : State} (s : State) (c e : Nat) (h : Keeps s0 s) : Keeps s0 (State.takeOver s c e) := by
  unfold Sys2Proof.Machine.State.takeOver
  try dsimp only
  repeat'
      first
      | with_reducible assumption | with_reducible refine Keeps.spareUsed _ ?_ | with_reducible refine Keeps.engineDown _ _ ?_
      | with_reducible refine Keeps.modOptics _ _ ?_ | with_reducible refine Keeps.mapChanged _ ?_ | with_reducible refine Keeps.raise _ _ ?_
      | with_reducible refine Keeps.modLaser _ _ _ ?_ | intro _ | split

theorem Keeps.execLaserRampDone {s0 : State} (ch : Fin 10) (s : State) (h : Keeps s0 s) : KeepsR s0 (execLaserRampDone ch s) := by
  unfold Sys2Proof.Machine.execLaserRampDone
  try dsimp only
  repeat'
      first
      | with_reducible assumption | with_reducible refine Keeps.takeOver _ _ _ ?_ | with_reducible refine Keeps.serveLacking _ ?_
      | with_reducible refine Keeps.startRamp _ ?_ | with_reducible refine Keeps.modOptics _ _ ?_ | with_reducible refine Keeps.modLaser _ _ _ ?_
      | with_reducible refine KeepsR.next ?_ | intro _ | split

theorem Keeps.execLaserWorn {s0 : State} (ch : Fin 10) (s : State) (h : Keeps s0 s) : KeepsR s0 (execLaserWorn ch s) := by
  unfold Sys2Proof.Machine.execLaserWorn
  try dsimp only
  repeat'
      first
      | with_reducible assumption | with_reducible refine Keeps.swapWorn _ _ _ ?_ | with_reducible refine Keeps.startRamp _ ?_
      | with_reducible refine Keeps.modOptics _ _ ?_ | with_reducible refine Keeps.modLaser _ _ _ ?_ | with_reducible refine KeepsR.next ?_ | intro _
      | split

theorem Keeps.failCore {s0 : State} (s : State) (phys : Nat) (logical : Option Nat) (cause : Nat) (h : Keeps s0 s) : Keeps s0 (State.failCore s phys logical cause) := by
  unfold Sys2Proof.Machine.State.failCore
  try dsimp only
  repeat'
      first
      | with_reducible assumption | with_reducible refine Keeps.event _ _ _ _ _ ?_ | with_reducible refine Keeps.modCore _ _ _ ?_

theorem Keeps.raiseDrift {s0 : State} (s : State) (ph : Nat) (h : Keeps s0 s) : Keeps s0 (State.raiseDrift s ph) := by
  unfold Sys2Proof.Machine.State.raiseDrift
  try dsimp only
  repeat'
      first
      | with_reducible assumption | with_reducible refine Keeps.driftChanged _ ?_ | with_reducible refine Keeps.pwrEvent _ _ ?_
      | with_reducible refine Keeps.modCore _ _ _ ?_

theorem Keeps.trySpares {s0 : State} (l : Nat) (bad : SpareTests) (a2 : List Nat) (a3 : State) (h : Keeps s0 a3) : Keeps s0 (State.trySpares l bad a2 a3) := by
  induction a2 generalizing l bad a3 with
  | nil => (unfold Sys2Proof.Machine.State.trySpares; try dsimp only); repeat'
      first
      | with_reducible assumption
  | cons x r ih => (unfold Sys2Proof.Machine.State.trySpares; try dsimp only); repeat'
      first
      | with_reducible assumption | (with_reducible refine ih _ _ _ ?_) | with_reducible refine Keeps.raiseDrift _ _ ?_
      | with_reducible refine Keeps.failCore _ _ _ _ ?_ | with_reducible refine Keeps.event _ _ _ _ _ ?_ | with_reducible refine Keeps.modCore _ _ _ ?_
      | with_reducible refine Keeps.ite ?_ ?_

theorem Keeps.coresChanged {s0 : State} (s : State) (h : Keeps s0 s) : Keeps s0 (State.coresChanged s) := by
  unfold Sys2Proof.Machine.State.coresChanged
  try dsimp only
  repeat'
      first
      | with_reducible assumption | with_reducible refine Keeps.countCores _ ?_ | with_reducible refine Keeps.capacityChange _ _ _ _ ?_
      | with_reducible refine Keeps.ite ?_ ?_

theorem Keeps.retireCore {s0 : State} (s : State) (l cause : Nat) (bad : SpareTests) (h : Keeps s0 s) : Keeps s0 (State.retireCore s l cause bad) := by
  unfold Sys2Proof.Machine.State.retireCore
  try dsimp only
  repeat'
      first
      | with_reducible assumption | with_reducible refine Keeps.coresChanged _ ?_ | with_reducible refine Keeps.trySpares _ _ _ _ ?_
      | with_reducible refine Keeps.failCore _ _ _ _ ?_ | with_reducible refine Keeps.clearEngines _ _ ?_ | with_reducible refine Keeps.mapChanged _ ?_
      | split

theorem Keeps.countUncorr {s0 : State} (s : State) (h : Keeps s0 s) : Keeps s0 (State.countUncorr s) := by
  unfold Sys2Proof.Machine.State.countUncorr
  try dsimp only
  repeat' first | with_reducible assumption | with_reducible refine Keeps.setErr _ ?_

theorem Keeps.faultCore {s0 : State} (s : State) (l : Nat) (cause : CoreCause) (bad : SpareTests) (h : Keeps s0 s) : Keeps s0 (State.faultCore s l cause bad) := by
  unfold Sys2Proof.Machine.State.faultCore
  try dsimp only
  repeat'
      first
      | with_reducible assumption | with_reducible refine Keeps.countUncorr _ ?_ | with_reducible refine Keeps.retireCore _ _ _ _ ?_
      | with_reducible refine Keeps.settle _ ?_ | with_reducible refine Keeps.endCmd _ _ _ ?_ | with_reducible refine Keeps.linkSend _ _ ?_
      | with_reducible refine Keeps.ite ?_ ?_ | split

theorem Keeps.execCoreFault {s0 : State} (core : Fin 800) (cause : CoreCause) (badSpares : SpareTests) (s : State) (h : Keeps s0 s) : KeepsR s0 (execCoreFault core cause badSpares s) := by
  unfold Sys2Proof.Machine.execCoreFault
  try dsimp only
  repeat'
      first
      | with_reducible assumption | with_reducible refine Keeps.faultCore _ _ _ _ ?_ | with_reducible refine KeepsR.next ?_

theorem Keeps.execNoProgressTimeout {s0 : State} (core : Fin 800) (badSpares : SpareTests) (s : State) (h : Keeps s0 s) : KeepsR s0 (execNoProgressTimeout core badSpares s) := by
  unfold Sys2Proof.Machine.execNoProgressTimeout
  try dsimp only
  repeat'
      first
      | with_reducible assumption | with_reducible refine Keeps.faultCore _ _ _ _ ?_ | with_reducible refine KeepsR.next ?_
      | with_reducible exact KeepsR.fault | split

theorem Keeps.marginFails {s0 : State} (s : State) (l : Nat) (bad : SpareTests) (h : Keeps s0 s) : KeepsP s0 (State.marginFails s l bad) := by
  unfold Sys2Proof.Machine.State.marginFails
  try dsimp only
  repeat'
      first
      | with_reducible assumption | with_reducible refine Keeps.retireCore _ _ _ _ ?_ | with_reducible refine Keeps.raiseDrift _ _ ?_
      | with_reducible refine KeepsP.pair ?_ | split

theorem Keeps.modErr {s0 : State} (s : State) (f : Err → Err) (h : Keeps s0 s) : Keeps s0 (State.modErr s f) := by
  unfold Sys2Proof.Machine.State.modErr
  try dsimp only
  repeat' first | with_reducible assumption | with_reducible refine Keeps.setErr _ ?_

theorem Keeps.makeDue {s0 : State} (s : State) (l : Nat) (h : Keeps s0 s) : Keeps s0 (State.makeDue s l) := by
  unfold Sys2Proof.Machine.State.makeDue
  try dsimp only
  repeat' first | with_reducible assumption | with_reducible refine Keeps.modErr _ _ ?_ | with_reducible refine Keeps.ite ?_ ?_ | intro _ | split

theorem Keeps.execTestIntervalDue {s0 : State} (core : Fin 800) (s : State) (h : Keeps s0 s) : KeepsR s0 (execTestIntervalDue core s) := by
  unfold Sys2Proof.Machine.execTestIntervalDue
  try dsimp only
  repeat' first | with_reducible assumption | with_reducible refine Keeps.makeDue _ _ ?_ | with_reducible refine KeepsR.next ?_ | split

theorem Keeps.execInFieldTest {s0 : State} (s : State) (h : Keeps s0 s) : KeepsR s0 (execInFieldTest s) := by
  unfold Sys2Proof.Machine.execInFieldTest
  try dsimp only
  repeat'
      first
      | with_reducible assumption | with_reducible refine Keeps.modErr _ _ ?_ | with_reducible refine Keeps.settle _ ?_
      | with_reducible refine Keeps.clearEngines _ _ ?_ | with_reducible refine Keeps.modCore _ _ _ ?_ | with_reducible refine KeepsR.next ?_ | intro _
      | split

theorem Keeps.execInFieldTestDone {s0 : State} (core : Fin 800) (bistOk marginOk : Bool) (badSpares : SpareTests) (s : State) (h : Keeps s0 s) : KeepsR s0 (execInFieldTestDone core bistOk marginOk badSpares s) := by
  unfold Sys2Proof.Machine.execInFieldTestDone
  try dsimp only
  repeat'
      first
      | with_reducible assumption | with_reducible refine Keeps.modErr _ _ ?_ | with_reducible refine Keeps.marginFails _ _ _ ?_
      | with_reducible refine KeepsP.of (Keeps.marginFails _ _ _ ?_) (by assumption) | with_reducible refine KeepsP.fst (Keeps.marginFails _ _ _ ?_)
      | with_reducible refine Keeps.retireCore _ _ _ _ ?_ | with_reducible refine Keeps.settle _ ?_ | with_reducible refine Keeps.restCores _ _ ?_
      | with_reducible refine Keeps.event _ _ _ _ _ ?_ | with_reducible refine Keeps.modCore _ _ _ ?_ | with_reducible refine KeepsR.next ?_ | intro _
      | split

theorem Keeps.writeTest {s0 : State} (s : State) (v : Word) (h : Keeps s0 s) : Keeps s0 (State.writeTest s v) := by
  unfold Sys2Proof.Machine.State.writeTest
  try dsimp only
  repeat'
      first
      | with_reducible assumption | with_reducible refine Keeps.makeDue _ _ ?_ | with_reducible refine Keeps.modErr _ _ ?_
      | with_reducible refine Keeps.ite ?_ ?_

theorem Keeps.execTestStart {s0 : State} (v : Word) (s : State) (h : Keeps s0 s) : KeepsR s0 (execTestStart v s) := by
  unfold Sys2Proof.Machine.execTestStart
  try dsimp only
  repeat'
      first
      | with_reducible assumption | with_reducible refine Keeps.writeTest _ _ ?_ | with_reducible refine Keeps.bar0 _ _ ?_ ?_
      | with_reducible refine KeepsR.next ?_ | intro _

theorem Keeps.writeTail {s0 : State} (s : State) (v : Word) (h : Keeps s0 s) : Keeps s0 (State.writeTail s v) := by
  unfold Sys2Proof.Machine.State.writeTail
  try dsimp only
  repeat' first | with_reducible assumption | with_reducible refine Keeps.modErr _ _ ?_

theorem Keeps.execErrLogTailWrite {s0 : State} (v : Word) (s : State) (h : Keeps s0 s) : KeepsR s0 (execErrLogTailWrite v s) := by
  unfold Sys2Proof.Machine.execErrLogTailWrite
  try dsimp only
  repeat'
      first
      | with_reducible assumption | with_reducible refine Keeps.writeTail _ _ ?_ | with_reducible refine Keeps.seen _ ?_
      | with_reducible refine KeepsR.next ?_ | split

theorem Keeps.spareRow {s0 : State} (s : State) (slice row kind : Nat) (h : Keeps s0 s) : Keeps s0 (State.spareRow s slice row kind) := by
  unfold Sys2Proof.Machine.State.spareRow
  try dsimp only
  repeat'
      first
      | with_reducible assumption | with_reducible refine Keeps.setMem _ ?_ ?_ | with_reducible refine Keeps.setInv _ ?_
      | with_reducible refine Keeps.mapChanged _ ?_ | with_reducible refine Keeps.capacityChange _ _ _ _ ?_ | with_reducible refine Keeps.event _ _ _ _ _ ?_
      | with_reducible refine Keeps.ite ?_ ?_ | exact fun (k : Safety.MemoryCanonical _) => k | intro _ | split

theorem Keeps.execFrameWithdraw {s0 : State} (slice : Fin 4) (s : State) (h : Keeps s0 s) : KeepsR s0 (execFrameWithdraw slice s) := by
  unfold Sys2Proof.Machine.execFrameWithdraw
  try dsimp only
  repeat'
      first
      | with_reducible assumption | with_reducible refine Keeps.setMem _ ?_ ?_ | with_reducible refine Keeps.capacityChange _ _ _ _ ?_
      | with_reducible refine Keeps.event _ _ _ _ _ ?_ | with_reducible refine KeepsR.next ?_ | exact fun (k : Safety.MemoryCanonical _) => k | intro _
      | split

theorem Keeps.modPc {s0 : State} (s : State) (a1 : Nat) (f : PcState → PcState) (h : Keeps s0 s) : Keeps s0 (State.modPc s a1 f) := by
  unfold Sys2Proof.Machine.State.modPc
  try dsimp only
  repeat'
      first
      | with_reducible assumption | with_reducible refine Keeps.setMem _ ?_ ?_ | exact fun (k : Safety.MemoryCanonical _) => k

theorem Keeps.qualifyPc {s0 : State} (s : State) (a1 : Nat) (h : Keeps s0 s) : Keeps s0 (State.qualifyPc s a1) := by
  unfold Sys2Proof.Machine.State.qualifyPc
  try dsimp only
  repeat'
      first
      | with_reducible assumption | with_reducible refine Keeps.modPc _ _ _ ?_ | with_reducible refine Keeps.reclaimSlabs _ _ ?_
      | with_reducible refine Keeps.ite ?_ ?_

theorem Keeps.dropPc {s0 : State} (s : State) (a1 kind : Nat) (h : Keeps s0 s) : Keeps s0 (State.dropPc s a1 kind) := by
  unfold Sys2Proof.Machine.State.dropPc
  try dsimp only
  repeat'
      first
      | with_reducible assumption | with_reducible refine Keeps.setMem _ ?_ ?_ | with_reducible refine Keeps.setInv _ ?_
      | with_reducible refine Keeps.modPc _ _ _ ?_ | with_reducible refine Keeps.mapChanged _ ?_ | with_reducible refine Keeps.capacityChange _ _ _ _ ?_
      | with_reducible refine Keeps.event _ _ _ _ _ ?_ | exact fun (k : Safety.MemoryCanonical _) => k

theorem Keeps.execPcMoveDone {s0 : State} (pc : Fin 512) (lost : List (BitVec 27)) (s : State) (h : Keeps s0 s) : KeepsR s0 (execPcMoveDone pc lost s) := by
  unfold Sys2Proof.Machine.execPcMoveDone
  try dsimp only
  repeat'
      first
      | with_reducible assumption | with_reducible refine Keeps.dropPc _ _ _ ?_ | with_reducible refine Keeps.countUncorr _ ?_
      | with_reducible refine Keeps.reclaimSlabs _ _ ?_ | with_reducible refine Keeps.settle _ ?_ | with_reducible refine Keeps.loseSlabs _ _ _ ?_
      | with_reducible refine Keeps.event _ _ _ _ _ ?_ | with_reducible refine Keeps.foldl _ _ _ ?_ ?_ | with_reducible refine KeepsR.next ?_ | intro _
      | split

theorem Keeps.correctedEvent {s0 : State} (s : State) (pl : Place) (unit row : Nat) (h : Keeps s0 s) : Keeps s0 (State.correctedEvent s pl unit row) := by
  unfold Sys2Proof.Machine.State.correctedEvent
  try dsimp only
  repeat'
      first
      | with_reducible assumption | with_reducible refine Keeps.modErr _ _ ?_ | with_reducible refine Keeps.event _ _ _ _ _ ?_
      | with_reducible refine Keeps.ite ?_ ?_

theorem Keeps.execCorrectedError {s0 : State} (pl : Place) (slice : Fin 4) (unit : BitVec 16) (s : State) (h : Keeps s0 s) : KeepsR s0 (execCorrectedError pl slice unit s) := by
  unfold Sys2Proof.Machine.execCorrectedError
  try dsimp only
  repeat'
      first
      | with_reducible assumption | with_reducible refine Keeps.setMem _ ?_ ?_ | with_reducible refine Keeps.correctedEvent _ _ _ _ ?_
      | with_reducible refine Keeps.qualifyPc _ _ ?_ | with_reducible refine Keeps.modPc _ _ _ ?_ | with_reducible refine Keeps.spareRow _ _ _ _ ?_
      | with_reducible refine Keeps.makeDue _ _ ?_ | with_reducible refine Keeps.modErr _ _ ?_ | with_reducible refine Keeps.modCore _ _ _ ?_
      | with_reducible refine KeepsR.next ?_ | exact fun (k : Safety.MemoryCanonical _) => k | intro _ | split

theorem Keeps.treatUnit {s0 : State} (s : State) (a1 : Tier) (slice unit : Nat) (h : Keeps s0 s) : Keeps s0 (State.treatUnit s a1 slice unit) := by
  unfold Sys2Proof.Machine.State.treatUnit
  try dsimp only
  repeat'
      first
      | with_reducible assumption | with_reducible refine Keeps.qualifyPc _ _ ?_ | with_reducible refine Keeps.modPc _ _ _ ?_
      | with_reducible refine Keeps.spareRow _ _ _ _ ?_ | with_reducible refine Keeps.ite ?_ ?_

theorem Keeps.loseRead {s0 : State} (s : State) (addr : Nat) (a2 : UncorrKind) (h : Keeps s0 s) : Keeps s0 (State.loseRead s addr a2) := by
  unfold Sys2Proof.Machine.State.loseRead
  try dsimp only
  repeat'
      first
      | with_reducible assumption | with_reducible refine Keeps.destFails _ _ ?_ | with_reducible refine Keeps.endCmd _ _ _ ?_
      | with_reducible refine Keeps.abandonMove _ _ ?_ | with_reducible refine Keeps.loseSlabs _ _ _ ?_ | split

theorem Keeps.tableStruck {s0 : State} (s : State) (p addr unit : Nat) (h : Keeps s0 s) : Keeps s0 (State.tableStruck s p addr unit) := by
  unfold Sys2Proof.Machine.State.tableStruck
  try dsimp only
  repeat'
      first
      | with_reducible assumption | with_reducible refine Keeps.spareRow _ _ _ _ ?_ | with_reducible refine Keeps.countUncorr _ ?_
      | with_reducible refine Keeps.resetPart _ _ ?_ | with_reducible refine Keeps.settle _ ?_ | with_reducible refine Keeps.event _ _ _ _ _ ?_

theorem Keeps.execUncorrectableRead {s0 : State} (addr : BitVec 48) (unit : BitVec 16) (a2 : UncorrKind) (second : Bool) (s : State) (h : Keeps s0 s) : KeepsR s0 (execUncorrectableRead addr unit a2 second s) := by
  unfold Sys2Proof.Machine.execUncorrectableRead
  try dsimp only
  repeat'
      first
      | with_reducible assumption | with_reducible refine Keeps.tableStruck _ _ _ _ ?_ | with_reducible refine Keeps.loseRead _ _ _ ?_
      | with_reducible refine Keeps.treatUnit _ _ _ _ ?_ | with_reducible refine Keeps.countUncorr _ ?_ | with_reducible refine Keeps.settle _ ?_
      | with_reducible refine Keeps.event _ _ _ _ _ ?_ | with_reducible refine KeepsR.next ?_ | split

theorem Keeps.killAll {s0 : State} (s : State) (h : Keeps s0 s) : Keeps s0 (State.killAll s) := by
  unfold Sys2Proof.Machine.State.killAll
  try dsimp only
  repeat'
      first
      | with_reducible assumption | with_reducible refine Keeps.dropQueue _ _ ?_ | with_reducible refine Keeps.foldl _ _ _ ?_ ?_ | intro _

theorem Keeps.lasersOff {s0 : State} (s : State) (h : Keeps s0 s) : Keeps s0 (State.lasersOff s) := by
  unfold Sys2Proof.Machine.State.lasersOff
  try dsimp only
  repeat'
      first
      | with_reducible assumption | with_reducible refine Keeps.modOptics _ _ ?_

theorem Keeps.portsDown {s0 : State} (s : State) (h : Keeps s0 s) : Keeps s0 (State.portsDown s) := by
  unfold Sys2Proof.Machine.State.portsDown
  try dsimp only
  repeat'
      first
      | with_reducible assumption | with_reducible refine Keeps.portGone _ _ ?_ | with_reducible refine Keeps.foldl _ _ _ ?_ ?_ | intro _

theorem Keeps.allHleLost {s0 : State} (s : State) (h : Keeps s0 s) : Keeps s0 (State.allHleLost s) := by
  unfold Sys2Proof.Machine.State.allHleLost
  try dsimp only
  repeat' first | with_reducible assumption | with_reducible refine Keeps.setHle _ ?_

theorem Keeps.stopModule {s0 : State} (s : State) (h : Keeps s0 s) : Keeps s0 (State.stopModule s) := by
  unfold Sys2Proof.Machine.State.stopModule
  try dsimp only
  repeat'
      first
      | with_reducible assumption | with_reducible refine Keeps.setBoot _ ?_ | with_reducible refine Keeps.setPins _ ?_ ?_
      | with_reducible refine Keeps.setPhase _ ?_ ?_ | with_reducible refine Keeps.allHleLost _ ?_ | with_reducible refine Keeps.portsDown _ ?_
      | with_reducible refine Keeps.lasersOff _ ?_ | with_reducible refine Keeps.killAll _ ?_ | with_reducible refine Keeps.putLogs _ _ ?_
      | with_reducible refine Keeps.event _ _ _ _ _ ?_ | with_reducible refine Keeps.ite ?_ ?_ | split | dsimp only | exact Or.inr (Or.inl rfl)
      | exact Or.inr rfl

theorem Keeps.endLoss {s0 : State} (s : State) (h : Keeps s0 s) : Keeps s0 (State.endLoss s) := by
  unfold Sys2Proof.Machine.State.endLoss
  try dsimp only
  repeat'
      first
      | with_reducible assumption | with_reducible refine Keeps.finishLoss _ ?_ | with_reducible refine Keeps.abandonEpoch _ _ ?_
      | with_reducible refine Keeps.foldl _ _ _ ?_ ?_ | with_reducible refine Keeps.ite ?_ ?_ | intro _

theorem Keeps.warmReset {s0 : State} (s : State) (f : StartFacts) (h : Keeps s0 s) : Keeps s0 (State.warmReset s f) := by
  unfold Sys2Proof.Machine.State.warmReset
  try dsimp only
  repeat'
      first
      | with_reducible assumption | with_reducible refine Keeps.setLink _ ?_ ?_ | with_reducible refine Keeps.setBoot _ ?_
      | with_reducible refine Keeps.setPins _ ?_ ?_ | with_reducible refine Keeps.setSec _ ?_ | with_reducible refine Keeps.setPower _ ?_
      | with_reducible refine Keeps.setSteward _ ?_ | with_reducible refine Keeps.setPhase _ ?_ ?_ | with_reducible refine Keeps.endLoss _ ?_
      | with_reducible refine Keeps.stopModule _ ?_ | with_reducible refine Keeps.killAll _ ?_ | with_reducible refine Keeps.enterUpdate _ ?_
      | with_reducible refine Keeps.setGrants _ _ ?_ | with_reducible refine Keeps.failAdmit _ _ _ ?_ | with_reducible refine Keeps.resetPart _ _ ?_
      | with_reducible refine Keeps.foldl _ _ _ ?_ ?_ | with_reducible refine Keeps.ite ?_ ?_ | intro _ | split | dsimp only | exact Or.inr rfl
      | exact Or.inr (Or.inl rfl)

theorem State.advanceSession_phase (s : State) (h : s.phase = .run) : s.advanceSession.phase = .run := by
  have p : ∀ x : State, x.putMap.phase = x.phase := fun x => by unfold State.putMap; dsimp only; split <;> rfl
  have v : ∀ (x : State) (n : Nat), (x.msix n).phase = x.phase := fun x n => by
    unfold State.msix
    split
    · rfl
    · split <;> rfl
  have i : ∀ x : State, x.raiseIrq.phase = x.phase := fun x => by
    unfold State.raiseIrq
    split
    · split
      · rfl
      · rw [v]; rfl
    · rw [v]; rfl
  have f : ∀ (x : State) c q d e, (x.faultLog c q d e).phase = x.phase := fun x c q d e => by
    unfold State.faultLog
    dsimp only
    repeat' first | rfl | split
  have r : ∀ (x : State) (n : Nat), (x.raise n).phase = x.phase := fun x n => by
    unfold State.raise State.event
    dsimp only
    split <;> (try rw [f]) <;> split <;> (try rw [i]) <;> rfl
  have u : ∀ (l : List Nat) (x : State), (l.foldl (fun s n => s.unqueue n Egr.isPft) x).phase = x.phase := fun l => by
    induction l with
    | nil => exact fun _ => rfl
    | cons n l ih =>
      refine fun x => (ih _).trans ?_
      dsimp only [State.unqueue]
      split <;> rfl
  unfold State.advanceSession
  dsimp only
  split
  · rw [p, r, State.modFab, State.setFab_phase, u]; exact h
  · rw [p, u]; exact h

theorem Keeps.finishWarm {s0 : State} (s : State) (h : Keeps s0 s) : Keeps s0 (State.finishWarm s) := by
  unfold State.finishWarm
  split
  · exact h
  · have a : Keeps s0 (s.setPhase .run).advanceSession := Keeps.advanceSession _ (Keeps.setPhase _ h (Or.inl rfl))
    have b := State.advanceSession_phase (s.setPhase .run) rfl
    generalize (s.setPhase .run).advanceSession = x at a b
    dsimp only
    have d : ∀ (l : List Instr) (y : State), Keeps s0 y → Keeps s0 (l.foldl (fun s i => match i with | .cellarRequest h n l o len d => State.serveCellar h n l o len d s | _ => s) y) := by
      intro l y hy
      refine Keeps.foldl _ _ _ (fun z i k => ?_) hy
      split
      · exact Keeps.serveCellar _ _ _ _ _ _ _ k
      · exact k
    split
    · refine Keeps.hostLossReset _ _ (Keeps.setLink _ (d _ _ ?_) (Or.inl ⟨rfl, rfl⟩))
      exact Keeps.modFab _ _ (Keeps.msix _ _ (Keeps.raise _ _ (Keeps.setLink _ (Keeps.setBoot _ (Keeps.setPins _ a (Or.inr (Or.inr b)))) (Or.inl ⟨rfl, rfl⟩))))
    · refine d _ _ ?_
      exact Keeps.modFab _ _ (Keeps.msix _ _ (Keeps.raise _ _ (Keeps.setLink _ (Keeps.setBoot _ (Keeps.setPins _ a (Or.inr (Or.inr b)))) (Or.inl ⟨rfl, rfl⟩))))

theorem Keeps.autoWarm {s0 : State} (s : State) (f : StartFacts) (h : Keeps s0 s) : Keeps s0 (State.autoWarm s f) := by
  unfold Sys2Proof.Machine.State.autoWarm
  try dsimp only
  repeat'
      first
      | with_reducible assumption | with_reducible refine Keeps.warmReset _ _ ?_ | with_reducible refine Keeps.stopModule _ ?_
      | with_reducible refine Keeps.modErr _ _ ?_ | with_reducible refine Keeps.event _ _ _ _ _ ?_ | with_reducible refine Keeps.ite ?_ ?_

theorem Keeps.writeHostCtrl {s0 : State} (s : State) (v : Word) (f : StartFacts) (h : Keeps s0 s) : Keeps s0 (State.writeHostCtrl s v f) := by
  unfold Sys2Proof.Machine.State.writeHostCtrl
  try dsimp only
  repeat'
      first
      | with_reducible assumption | with_reducible refine Keeps.setLink _ ?_ ?_ | with_reducible refine Keeps.warmReset _ _ ?_
      | with_reducible refine Keeps.ite ?_ ?_ | split | dsimp only | exact Or.inr rfl | simp

theorem Keeps.execWarmReset {s0 : State} (v : Word) (f : StartFacts) (s : State) (h : Keeps s0 s) : KeepsR s0 (execWarmReset v f s) := by
  unfold Sys2Proof.Machine.execWarmReset
  try dsimp only
  repeat'
      first
      | with_reducible assumption | with_reducible refine Keeps.writeHostCtrl _ _ _ ?_ | with_reducible refine Keeps.bar0 _ _ ?_ ?_
      | with_reducible refine KeepsR.next ?_ | intro _

theorem Keeps.execWarmResetTimeout {s0 : State} (s : State) (h : Keeps s0 s) : KeepsR s0 (execWarmResetTimeout s) := by
  unfold Sys2Proof.Machine.execWarmResetTimeout
  try dsimp only
  repeat' first | with_reducible assumption | with_reducible refine Keeps.stopModule _ ?_ | with_reducible refine KeepsR.next ?_ | split

theorem Keeps.execHubSramUncorrectable {s0 : State} (f : StartFacts) (s : State) (h : Keeps s0 s) : KeepsR s0 (execHubSramUncorrectable f s) := by
  unfold Sys2Proof.Machine.execHubSramUncorrectable
  try dsimp only
  repeat'
      first
      | with_reducible assumption | with_reducible refine Keeps.autoWarm _ _ ?_ | with_reducible refine Keeps.countUncorr _ ?_
      | with_reducible refine KeepsR.next ?_

theorem Keeps.execPartitionResetOverrun {s0 : State} (a0 : Fin 16) (f : StartFacts) (s : State) (h : Keeps s0 s) : KeepsR s0 (execPartitionResetOverrun a0 f s) := by
  unfold Sys2Proof.Machine.execPartitionResetOverrun
  try dsimp only
  repeat' first | with_reducible assumption | with_reducible refine Keeps.autoWarm _ _ ?_ | with_reducible refine KeepsR.next ?_

theorem Keeps.execWatchdogExpiry {s0 : State} (f : StartFacts) (s : State) (h : Keeps s0 s) : KeepsR s0 (execWatchdogExpiry f s) := by
  unfold Sys2Proof.Machine.execWatchdogExpiry
  try dsimp only
  repeat'
      first
      | with_reducible assumption | with_reducible refine Keeps.autoWarm _ _ ?_ | with_reducible refine Keeps.event _ _ _ _ _ ?_
      | with_reducible refine KeepsR.next ?_

theorem Keeps.execFieldRecordWrite {s0 : State} (record : Fin 3) (ok1 ok2 : Bool) (s : State) (h : Keeps s0 s) : KeepsR s0 (execFieldRecordWrite record ok1 ok2 s) := by
  unfold Sys2Proof.Machine.execFieldRecordWrite
  try dsimp only
  repeat'
      first
      | with_reducible assumption | with_reducible refine Keeps.setFlash _ ?_ | with_reducible refine Keeps.putLog _ ?_
      | with_reducible refine Keeps.putDrift _ ?_ | with_reducible refine Keeps.putMap _ ?_ | with_reducible refine Keeps.pwrRaise _ _ ?_
      | with_reducible refine Keeps.raise _ _ ?_ | with_reducible refine Keeps.foldl _ _ _ ?_ ?_ | with_reducible refine KeepsR.next ?_ | intro _ | split

theorem Keeps.linkFails {s0 : State} (s : State) (l : Nat) (h : Keeps s0 s) : Keeps s0 (State.linkFails s l) := by
  unfold Sys2Proof.Machine.State.linkFails
  try dsimp only
  repeat'
      first
      | with_reducible assumption | with_reducible refine Keeps.stopModule _ ?_ | with_reducible refine Keeps.modLink _ _ _ ?_
      | with_reducible refine Keeps.event _ _ _ _ _ ?_ | with_reducible refine Keeps.ite ?_ ?_

theorem Keeps.loseMemLane {s0 : State} (s : State) (l dir lane : Nat) (h : Keeps s0 s) : Keeps s0 (State.loseMemLane s l dir lane) := by
  unfold Sys2Proof.Machine.State.loseMemLane
  try dsimp only
  repeat'
      first
      | with_reducible assumption | with_reducible refine Keeps.linkFails _ _ ?_ | with_reducible refine Keeps.modLink _ _ _ ?_
      | with_reducible refine Keeps.capacityChange _ _ _ _ ?_ | with_reducible refine Keeps.raise _ _ ?_ | with_reducible refine Keeps.ite ?_ ?_

theorem Keeps.resendKept {s0 : State} (s : State) (l dir lane a4 : Nat) (all : Bool) (h : Keeps s0 s) : Keeps s0 (State.resendKept s l dir lane a4 all) := by
  unfold Sys2Proof.Machine.State.resendKept
  try dsimp only
  repeat' first | with_reducible assumption | with_reducible refine Keeps.setOut _ ?_

theorem Keeps.replayLane {s0 : State} (s : State) (l dir lane : Nat) (h : Keeps s0 s) : Keeps s0 (State.replayLane s l dir lane) := by
  unfold Sys2Proof.Machine.State.replayLane
  try dsimp only
  repeat'
      first
      | with_reducible assumption | with_reducible refine Keeps.setFabric _ ?_ | with_reducible refine Keeps.resendKept _ _ _ _ _ _ ?_
      | with_reducible refine Keeps.ite ?_ ?_

theorem Keeps.spareDieLane {s0 : State} (s : State) (l dir lane a4 : Nat) (h : Keeps s0 s) : Keeps s0 (State.spareDieLane s l dir lane a4) := by
  unfold Sys2Proof.Machine.State.spareDieLane
  try dsimp only
  repeat'
      first
      | with_reducible assumption | with_reducible refine Keeps.modLink _ _ _ ?_ | with_reducible refine Keeps.mapChanged _ ?_
      | with_reducible refine Keeps.capacityChange _ _ _ _ ?_ | with_reducible refine Keeps.raise _ _ ?_

theorem Keeps.laneFails {s0 : State} (s : State) (l dir lane : Nat) (h : Keeps s0 s) : Keeps s0 (State.laneFails s l dir lane) := by
  unfold Sys2Proof.Machine.State.laneFails
  try dsimp only
  repeat'
      first
      | with_reducible assumption | with_reducible refine Keeps.spareDieLane _ _ _ _ _ ?_ | with_reducible refine Keeps.replayLane _ _ _ _ ?_
      | with_reducible refine Keeps.loseMemLane _ _ _ _ ?_ | with_reducible refine Keeps.modLink _ _ _ ?_ | intro _ | split

theorem Keeps.failLane {s0 : State} (s : State) (l dir lane : Nat) (h : Keeps s0 s) : Keeps s0 (State.failLane s l dir lane) := by
  unfold Sys2Proof.Machine.State.failLane
  try dsimp only
  repeat'
      first
      | with_reducible assumption | with_reducible refine Keeps.laneFails _ _ _ _ ?_ | with_reducible refine Keeps.modLink _ _ _ ?_
      | with_reducible refine Keeps.capacityChange _ _ _ _ ?_ | with_reducible refine Keeps.ite ?_ ?_ | intro _ | split

theorem Keeps.execLaneLock {s0 : State} (l : Fin 6) (dir : Fin 2) (lane : Fin 2624) (rx : List Bool) (s : State) (h : Keeps s0 s) : KeepsR s0 (execLaneLock l dir lane rx s) := by
  unfold Sys2Proof.Machine.execLaneLock
  try dsimp only
  repeat'
      first
      | with_reducible assumption | with_reducible refine Keeps.replayLane _ _ _ _ ?_ | with_reducible refine Keeps.linkServe _ ?_
      | with_reducible refine Keeps.modLink _ _ _ ?_ | with_reducible refine KeepsR.next ?_ | intro _ | split

theorem Keeps.execLockTimeout {s0 : State} (l : Fin 6) (dir : Fin 2) (lane : Fin 2624) (s : State) (h : Keeps s0 s) : KeepsR s0 (execLockTimeout l dir lane s) := by
  unfold Sys2Proof.Machine.execLockTimeout
  try dsimp only
  repeat'
      first
      | with_reducible assumption | with_reducible refine Keeps.failLane _ _ _ _ ?_ | with_reducible refine Keeps.linkServe _ ?_
      | with_reducible refine KeepsR.next ?_ | split

theorem Keeps.loseLock {s0 : State} (s : State) (l dir lane : Nat) (h : Keeps s0 s) : Keeps s0 (State.loseLock s l dir lane) := by
  unfold Sys2Proof.Machine.State.loseLock
  try dsimp only
  repeat'
      first
      | with_reducible assumption | with_reducible refine Keeps.setFabric _ ?_ | with_reducible refine Keeps.failLane _ _ _ _ ?_
      | with_reducible refine Keeps.linkServe _ ?_ | with_reducible refine Keeps.modLink _ _ _ ?_ | with_reducible refine Keeps.ite ?_ ?_

theorem Keeps.execLossOfLock {s0 : State} (l : Fin 6) (dir : Fin 2) (lane : Fin 2624) (s : State) (h : Keeps s0 s) : KeepsR s0 (execLossOfLock l dir lane s) := by
  unfold Sys2Proof.Machine.execLossOfLock
  try dsimp only
  repeat' first | with_reducible assumption | with_reducible refine Keeps.loseLock _ _ _ _ ?_ | with_reducible refine KeepsR.next ?_ | split

theorem Keeps.execFlitCrcFail {s0 : State} (l : Fin 6) (dir : Fin 2) (lane : Fin 2624) (seq : BitVec 10) (s : State) (h : Keeps s0 s) : KeepsR s0 (execFlitCrcFail l dir lane seq s) := by
  unfold Sys2Proof.Machine.execFlitCrcFail
  try dsimp only
  repeat'
      first
      | with_reducible assumption | with_reducible refine Keeps.loseLock _ _ _ _ ?_ | with_reducible refine Keeps.modLink _ _ _ ?_
      | with_reducible refine Keeps.emit _ _ ?_ | with_reducible refine KeepsR.next ?_ | intro _ | split

theorem Keeps.execNak {s0 : State} (l : Fin 6) (dir : Fin 2) (lane : Fin 2624) (seq : BitVec 10) (sent : BitVec 10) (s : State) (h : Keeps s0 s) : KeepsR s0 (execNak l dir lane seq sent s) := by
  unfold Sys2Proof.Machine.execNak
  try dsimp only
  repeat'
      first
      | with_reducible assumption | with_reducible refine Keeps.setFabric _ ?_ | with_reducible refine Keeps.resendKept _ _ _ _ _ _ ?_
      | with_reducible refine Keeps.modLink _ _ _ ?_ | with_reducible refine Keeps.emit _ _ ?_ | with_reducible refine KeepsR.next ?_

theorem Keeps.execDieLaneFailure {s0 : State} (l : Fin 6) (dir : Fin 2) (lanes : FailedLanes) (s : State) (h : Keeps s0 s) : KeepsR s0 (execDieLaneFailure l dir lanes s) := by
  unfold Sys2Proof.Machine.execDieLaneFailure
  try dsimp only
  repeat'
      first
      | with_reducible assumption | with_reducible refine Keeps.failLane _ _ _ _ ?_ | with_reducible refine Keeps.linkServe _ ?_
      | with_reducible refine Keeps.foldl _ _ _ ?_ ?_ | with_reducible refine KeepsR.next ?_ | intro _

theorem Keeps.setIsl {s0 : State} (s : State) (a1 : IslandRec) (h : Keeps s0 s) : Keeps s0 (State.setIsl s a1) := by
  unfold Sys2Proof.Machine.State.setIsl
  try dsimp only
  repeat'
      first
      | with_reducible assumption | with_reducible refine Keeps.setFabric _ ?_

theorem Keeps.execIslandClose {s0 : State} (i : Island) (s : State) (h : Keeps s0 s) : KeepsR s0 (execIslandClose i s) := by
  unfold Sys2Proof.Machine.execIslandClose
  try dsimp only
  repeat' first | with_reducible assumption | with_reducible refine Keeps.setIsl _ _ ?_ | with_reducible refine KeepsR.next ?_ | split

theorem Keeps.commitCloses {s0 : State} (s : State) (h : Keeps s0 s) : Keeps s0 (State.commitCloses s) := by
  unfold Sys2Proof.Machine.State.commitCloses
  try dsimp only
  repeat'
      first
      | with_reducible assumption | with_reducible refine Keeps.setFabric _ ?_ | with_reducible refine Keeps.ite ?_ ?_

theorem Keeps.abandonClose {s0 : State} (s : State) (a1 : IslandRec) (pkt : IslPkt) (h : Keeps s0 s) : Keeps s0 (State.abandonClose s a1 pkt) := by
  unfold Sys2Proof.Machine.State.abandonClose
  try dsimp only
  repeat' first | with_reducible assumption | with_reducible refine Keeps.setIsl _ _ ?_ | with_reducible refine Keeps.emit _ _ ?_

theorem Keeps.execCloseAbandon {s0 : State} (a : IslArrival) (s : State) (h : Keeps s0 s) : KeepsR s0 (execCloseAbandon a s) := by
  unfold Sys2Proof.Machine.execCloseAbandon
  try dsimp only
  repeat' first | with_reducible assumption | with_reducible refine Keeps.abandonClose _ _ _ ?_ | with_reducible refine KeepsR.next ?_ | split

theorem Keeps.holdPacket {s0 : State} (s : State) (a1 : IslandRec) (pkt : IslPkt) (h : Keeps s0 s) : Keeps s0 (State.holdPacket s a1 pkt) := by
  unfold Sys2Proof.Machine.State.holdPacket
  try dsimp only
  repeat'
      first
      | with_reducible assumption | with_reducible refine Keeps.setFabric _ ?_ | with_reducible refine Keeps.setIsl _ _ ?_
      | with_reducible refine Keeps.linkSend _ _ ?_ | with_reducible refine Keeps.ite ?_ ?_

theorem Keeps.returnPacket {s0 : State} (s : State) (a1 : IslandRec) (pkt : IslPkt) (us : Nat) (h : Keeps s0 s) : Keeps s0 (State.returnPacket s a1 pkt us) := by
  unfold Sys2Proof.Machine.State.returnPacket
  try dsimp only
  repeat'
      first
      | with_reducible assumption | with_reducible refine Keeps.setFabric _ ?_ | with_reducible refine Keeps.setIsl _ _ ?_
      | with_reducible refine Keeps.emit _ _ ?_

theorem Keeps.answerDead {s0 : State} (s : State) (pkt : IslPkt) (h : Keeps s0 s) : Keeps s0 (State.answerDead s pkt) := by
  unfold Sys2Proof.Machine.State.answerDead
  try dsimp only
  repeat'
      first
      | with_reducible assumption | with_reducible refine Keeps.settle _ ?_ | with_reducible refine Keeps.endCmd _ _ _ ?_
      | with_reducible refine Keeps.emit _ _ ?_ | with_reducible refine Keeps.ite ?_ ?_ | split

theorem Keeps.arriveIsl {s0 : State} (s : State) (a1 : IslandRec) (pkt : IslPkt) (us : Nat) (h : Keeps s0 s) : Keeps s0 (State.arriveIsl s a1 pkt us) := by
  unfold Sys2Proof.Machine.State.arriveIsl
  try dsimp only
  repeat'
      first
      | with_reducible assumption | with_reducible refine Keeps.answerDead _ _ ?_ | with_reducible refine Keeps.returnPacket _ _ _ _ ?_
      | with_reducible refine Keeps.holdPacket _ _ _ ?_ | with_reducible refine Keeps.abandonClose _ _ _ ?_ | with_reducible refine Keeps.emit _ _ ?_
      | with_reducible refine Keeps.ite ?_ ?_

theorem Keeps.sendIsl {s0 : State} (s : State) (i : Island) (pkt : IslPkt) (h : Keeps s0 s) : Keeps s0 (State.sendIsl s i pkt) := by
  unfold Sys2Proof.Machine.State.sendIsl
  try dsimp only
  repeat'
      first
      | with_reducible assumption | with_reducible refine Keeps.arriveIsl _ _ _ _ ?_ | with_reducible refine Keeps.setIsl _ _ ?_
      | with_reducible refine Keeps.ite ?_ ?_

theorem Keeps.execPacketHeld {s0 : State} (i : Island) (pkt : IslPkt) (s : State) (h : Keeps s0 s) : KeepsR s0 (execPacketHeld i pkt s) := by
  unfold Sys2Proof.Machine.execPacketHeld
  try dsimp only
  repeat' first | with_reducible assumption | with_reducible refine Keeps.sendIsl _ _ _ ?_ | with_reducible refine KeepsR.next ?_

theorem Keeps.execIslandWakeDone {s0 : State} (i : Island) (s : State) (h : Keeps s0 s) : KeepsR s0 (execIslandWakeDone i s) := by
  unfold Sys2Proof.Machine.execIslandWakeDone
  try dsimp only
  repeat'
      first
      | with_reducible assumption | with_reducible refine Keeps.setIsl _ _ ?_ | with_reducible refine Keeps.restCores _ _ ?_
      | with_reducible refine Keeps.emit _ _ ?_ | with_reducible refine Keeps.modCore _ _ _ ?_ | with_reducible refine Keeps.foldl _ _ _ ?_ ?_
      | with_reducible refine KeepsR.next ?_ | intro _ | split

theorem Keeps.execReturnedPacketResend {s0 : State} (i : Island) (pkt : IslPkt) (s : State) (h : Keeps s0 s) : KeepsR s0 (execReturnedPacketResend i pkt s) := by
  unfold Sys2Proof.Machine.execReturnedPacketResend
  try dsimp only
  repeat'
      first
      | with_reducible assumption | with_reducible refine Keeps.sendIsl _ _ _ ?_ | with_reducible refine Keeps.arriveIsl _ _ _ _ ?_
      | with_reducible refine Keeps.setIsl _ _ ?_ | with_reducible refine Keeps.foldl _ _ _ ?_ ?_ | with_reducible refine KeepsR.next ?_ | intro _ | split

theorem Keeps.treatIsland {s0 : State} (s : State) (i : Island) (f : StartFacts) (h : Keeps s0 s) : Keeps s0 (State.treatIsland s i f) := by
  unfold Sys2Proof.Machine.State.treatIsland
  try dsimp only
  repeat'
      first
      | with_reducible assumption | with_reducible refine Keeps.setInv _ ?_ | with_reducible refine Keeps.autoWarm _ _ ?_
      | with_reducible refine Keeps.stopModule _ ?_ | with_reducible refine Keeps.qualifyPc _ _ ?_ | with_reducible refine Keeps.faultCore _ _ _ _ ?_
      | with_reducible refine Keeps.engineDown _ _ ?_ | with_reducible refine Keeps.capacityChange _ _ _ _ ?_
      | with_reducible refine Keeps.event _ _ _ _ _ ?_ | with_reducible refine Keeps.foldl _ _ _ ?_ ?_ | intro _ | split

theorem Keeps.execWakeTimeout {s0 : State} (i : Island) (f : StartFacts) (s : State) (h : Keeps s0 s) : KeepsR s0 (execWakeTimeout i f s) := by
  unfold Sys2Proof.Machine.execWakeTimeout
  try dsimp only
  repeat'
      first
      | with_reducible assumption | with_reducible refine Keeps.treatIsland _ _ _ ?_ | with_reducible refine Keeps.answerDead _ _ ?_
      | with_reducible refine Keeps.setIsl _ _ ?_ | with_reducible refine Keeps.endCmd _ _ _ ?_ | with_reducible refine Keeps.foldl _ _ _ ?_ ?_
      | with_reducible refine KeepsR.next ?_ | intro _ | split

theorem Keeps.fenceGuest {s0 : State} (s : State) (cause : Nat) (h : Keeps s0 s) : Keeps s0 (State.fenceGuest s cause) := by
  unfold Sys2Proof.Machine.State.fenceGuest
  try dsimp only
  repeat'
      first
      | with_reducible assumption | with_reducible refine Keeps.setFabric _ ?_ | with_reducible refine Keeps.setInv _ ?_
      | with_reducible refine Keeps.modAdm _ _ ?_ | with_reducible refine Keeps.capacityChange _ _ _ _ ?_ | with_reducible refine Keeps.raise _ _ ?_
      | with_reducible refine Keeps.ite ?_ ?_

theorem Keeps.violation {s0 : State} (s : State) (h : Keeps s0 s) : Keeps s0 (State.violation s) := by
  unfold Sys2Proof.Machine.State.violation
  try dsimp only
  repeat'
      first
      | with_reducible assumption | with_reducible refine Keeps.setFabric _ ?_ | with_reducible refine Keeps.fenceGuest _ _ ?_
      | with_reducible refine Keeps.ite ?_ ?_

theorem Keeps.rindDeny {s0 : State} (s : State) (answer : Out) (h : Keeps s0 s) : Keeps s0 (State.rindDeny s answer) := by
  unfold Sys2Proof.Machine.State.rindDeny
  try dsimp only
  repeat'
      first
      | with_reducible assumption | with_reducible refine Keeps.violation _ ?_ | with_reducible refine Keeps.raiseLimited _ _ _ _ _ ?_
      | with_reducible refine Keeps.emit _ _ ?_

theorem Keeps.guestRead {s0 : State} (s : State) (p a a3 : Nat) (h : Keeps s0 s) : Keeps s0 (State.guestRead s p a a3) := by
  unfold Sys2Proof.Machine.State.guestRead
  try dsimp only
  repeat'
      first
      | with_reducible assumption | with_reducible refine Keeps.rindDeny _ _ ?_ | with_reducible refine Keeps.emit _ _ ?_
      | with_reducible refine Keeps.ite ?_ ?_

theorem Keeps.guestWrite {s0 : State} (s : State) (p a : Nat) (data : Bytes) (h : Keeps s0 s) : Keeps s0 (State.guestWrite s p a data) := by
  unfold Sys2Proof.Machine.State.guestWrite
  try dsimp only
  repeat'
      first
      | with_reducible assumption | with_reducible refine Keeps.rindDeny _ _ ?_ | with_reducible refine Keeps.bar2Write _ _ _ _ _ ?_
      | with_reducible refine Keeps.ite ?_ ?_

theorem Keeps.guestServe {s0 : State} (s : State) (a1 : Nat × Nat × (Nat ⊕ Bytes)) (h : Keeps s0 s) : Keeps s0 (State.guestServe s a1) := by
  unfold Sys2Proof.Machine.State.guestServe
  try dsimp only
  repeat'
      first
      | with_reducible assumption | with_reducible refine Keeps.guestWrite _ _ _ _ ?_ | with_reducible refine Keeps.guestRead _ _ _ _ ?_ | split

theorem Keeps.guestGo {s0 : State} (s : State) (a1 : Nat × Nat × (Nat ⊕ Bytes)) (h : Keeps s0 s) : Keeps s0 (State.guestGo s a1) := by
  unfold Sys2Proof.Machine.State.guestGo
  try dsimp only
  repeat'
      first
      | with_reducible assumption | with_reducible refine Keeps.setFabric _ ?_ | with_reducible refine Keeps.guestServe _ _ ?_
      | with_reducible refine Keeps.modAdm _ _ ?_ | with_reducible refine Keeps.ite ?_ ?_

theorem Keeps.serveGuest {s0 : State} (p a1 : Nat) (a2 : State) (h : Keeps s0 a2) : Keeps s0 (State.serveGuest p a1 a2) := by
  induction a1 generalizing p a2 with
  | zero => (unfold Sys2Proof.Machine.State.serveGuest; try dsimp only); repeat'
      first
      | with_reducible assumption
  | succ n ih => (unfold Sys2Proof.Machine.State.serveGuest; try dsimp only); repeat'
      first
      | with_reducible assumption | (with_reducible refine ih _ _ ?_) | with_reducible refine Keeps.setFabric _ ?_
      | with_reducible refine Keeps.guestServe _ _ ?_ | with_reducible refine Keeps.releaseCredit _ _ _ _ ?_
      | with_reducible refine Keeps.askCredit _ _ _ _ _ _ ?_ | with_reducible refine KeepsQ.of (Keeps.askCredit _ _ _ _ _ _ ?_) (by assumption)
      | with_reducible refine KeepsQ.snd (Keeps.askCredit _ _ _ _ _ _ ?_) | with_reducible refine Keeps.ite ?_ ?_ | intro _ | split

theorem Keeps.guestChecks {s0 : State} (s : State) (a1 : GuestAsk) (a2 : Nat) (read : Bool) (go : State) (h0 : Keeps s0 s) (h4 : Keeps s0 go) : Keeps s0 (State.guestChecks s a1 a2 read go) := by
  unfold Sys2Proof.Machine.State.guestChecks
  try dsimp only
  repeat'
      first
      | with_reducible assumption | with_reducible refine Keeps.rindDeny _ _ ?_ | with_reducible refine Keeps.fenceGuest _ _ ?_
      | with_reducible refine Keeps.ite ?_ ?_

theorem Keeps.execMemoryRead {s0 : State} (req : GuestAsk) (len : BitVec 9) (s : State) (h : Keeps s0 s) : KeepsR s0 (execMemoryRead req len s) := by
  unfold Sys2Proof.Machine.execMemoryRead
  try dsimp only
  repeat'
      first
      | with_reducible assumption | with_reducible refine Keeps.guestChecks _ _ _ _ _ ?_ ?_ | with_reducible refine Keeps.guestGo _ _ ?_
      | with_reducible refine Keeps.rindDeny _ _ ?_ | with_reducible refine KeepsR.next ?_ | split

theorem Keeps.execMemoryWrite {s0 : State} (req : GuestAsk) (data : Bytes) (s : State) (h : Keeps s0 s) : KeepsR s0 (execMemoryWrite req data s) := by
  unfold Sys2Proof.Machine.execMemoryWrite
  try dsimp only
  repeat'
      first
      | with_reducible assumption | with_reducible refine Keeps.guestChecks _ _ _ _ _ ?_ ?_ | with_reducible refine Keeps.guestGo _ _ ?_
      | with_reducible refine Keeps.rindDeny _ _ ?_ | with_reducible refine KeepsR.next ?_ | intro _ | split

theorem Keeps.retryCredit {s0 : State} (s : State) (w : CreditReq) (h : Keeps s0 s) : Keeps s0 (State.retryCredit s w) := by
  unfold Sys2Proof.Machine.State.retryCredit
  try dsimp only
  repeat'
      first
      | with_reducible assumption | with_reducible refine Keeps.serveGuest _ _ _ ?_ | with_reducible refine Keeps.runColl _ _ ?_
      | with_reducible refine Keeps.commitHead _ _ ?_ | with_reducible refine Keeps.settleRun _ _ ?_ | with_reducible refine Keeps.pushTiles _ _ ?_
      | with_reducible refine Keeps.allocate _ _ _ ?_ | with_reducible refine Keeps.serveMoves _ ?_ | with_reducible refine Keeps.ite ?_ ?_

theorem Keeps.dropBlocks {s0 : State} (s : State) (p : Nat) (a2 : List Nat) (a3 : Nat) (h : Keeps s0 s) : Keeps s0 (State.dropBlocks s p a2 a3) := by
  induction a2 generalizing s p a3 with
  | nil => (unfold Sys2Proof.Machine.State.dropBlocks; try dsimp only); repeat'
      first
      | with_reducible assumption
  | cons x r ih => (unfold Sys2Proof.Machine.State.dropBlocks; try dsimp only); repeat'
      first
      | with_reducible assumption | (with_reducible refine ih _ _ _ ?_) | with_reducible refine Keeps.setColl _ _ ?_ | split

theorem Keeps.dropHub {s0 : State} (s : State) (p : Nat) (a2 : List Nat) (a3 : Nat) (h : Keeps s0 s) : Keeps s0 (State.dropHub s p a2 a3) := by
  induction a2 generalizing s p a3 with
  | nil => (unfold Sys2Proof.Machine.State.dropHub; try dsimp only); repeat'
      first
      | with_reducible assumption
  | cons x r ih => (unfold Sys2Proof.Machine.State.dropHub; try dsimp only); repeat'
      first
      | with_reducible assumption | (with_reducible refine ih _ _ _ ?_) | with_reducible refine Keeps.modHead _ _ _ ?_

theorem Keeps.execCreditGrant {s0 : State} (a0 : Fin 4) (p : Fin 16) (units : Nat) (s : State) (h : Keeps s0 s) : KeepsR s0 (execCreditGrant a0 p units s) := by
  unfold Sys2Proof.Machine.execCreditGrant
  try dsimp only
  repeat'
      first
      | with_reducible assumption | with_reducible refine Keeps.dropHub _ _ _ _ ?_ | with_reducible refine Keeps.dropBlocks _ _ _ _ ?_
      | with_reducible refine Keeps.retryCredit _ _ ?_ | with_reducible refine Keeps.settle _ ?_ | with_reducible refine Keeps.releaseCredit _ _ _ _ ?_
      | with_reducible refine Keeps.foldl _ _ _ ?_ ?_ | with_reducible refine KeepsR.next ?_ | intro _ | split

theorem Keeps.execGuestLinkDown {s0 : State} (s : State) (h : Keeps s0 s) : KeepsR s0 (execGuestLinkDown s) := by
  unfold Sys2Proof.Machine.execGuestLinkDown
  try dsimp only
  repeat' first | with_reducible assumption | with_reducible refine Keeps.fenceGuest _ _ ?_ | with_reducible refine KeepsR.next ?_

theorem Keeps.writeRind {s0 : State} (s : State) (v : Word) (h : Keeps s0 s) : Keeps s0 (State.writeRind s v) := by
  unfold Sys2Proof.Machine.State.writeRind
  try dsimp only
  repeat' first | with_reducible assumption | with_reducible refine Keeps.fenceGuest _ _ ?_ | with_reducible refine Keeps.ite ?_ ?_

theorem Keeps.execFence {s0 : State} (v : Word) (s : State) (h : Keeps s0 s) : KeepsR s0 (execFence v s) := by
  unfold Sys2Proof.Machine.execFence
  try dsimp only
  repeat'
      first
      | with_reducible assumption | with_reducible refine Keeps.writeRind _ _ ?_ | with_reducible refine Keeps.bar0 _ _ ?_ ?_
      | with_reducible refine KeepsR.next ?_ | intro _

end Sys2Proof.Machine
end

