-- ==== Sys2Proof/Laws/KeptPower.lean ====
section
/-! SUPPORT. What the operations and commands of power, security, metering, the sideband, start-up, the tag and the registers keep. -/

namespace Sys2Proof.Machine

theorem Keeps.modPower {s0 : State} (s : State) (f : Power → Power) (h : Keeps s0 s) : Keeps s0 (State.modPower s f) := by
  unfold Sys2Proof.Machine.State.modPower
  try dsimp only
  repeat' first | with_reducible assumption | with_reducible refine Keeps.setPower _ ?_

theorem Keeps.updateCap {s0 : State} (s : State) (h : Keeps s0 s) : Keeps s0 (State.updateCap s) := by
  unfold Sys2Proof.Machine.State.updateCap
  try dsimp only
  repeat' first | with_reducible assumption | with_reducible refine Keeps.modPower _ _ ?_

theorem Keeps.writePeak {s0 : State} (s : State) (v : Word) (h : Keeps s0 s) : Keeps s0 (State.writePeak s v) := by
  unfold Sys2Proof.Machine.State.writePeak
  try dsimp only
  repeat'
      first
      | with_reducible assumption | with_reducible refine Keeps.modPower _ _ ?_ | with_reducible refine Keeps.ite ?_ ?_

theorem Keeps.execPwrPeakClear {s0 : State} (v : Word) (s : State) (h : Keeps s0 s) : KeepsR s0 (execPwrPeakClear v s) := by
  unfold Sys2Proof.Machine.execPwrPeakClear
  try dsimp only
  repeat'
      first
      | with_reducible assumption | with_reducible refine Keeps.writePeak _ _ ?_ | with_reducible refine Keeps.bar0 _ _ ?_ ?_
      | with_reducible refine KeepsR.next ?_ | intro _

theorem Keeps.writeCap {s0 : State} (s : State) (v : Word) (h : Keeps s0 s) : Keeps s0 (State.writeCap s v) := by
  unfold Sys2Proof.Machine.State.writeCap
  try dsimp only
  repeat' first | with_reducible assumption | with_reducible refine Keeps.updateCap _ ?_ | with_reducible refine Keeps.modPower _ _ ?_

theorem Keeps.execPwrCapWrite {s0 : State} (v : Word) (s : State) (h : Keeps s0 s) : KeepsR s0 (execPwrCapWrite v s) := by
  unfold Sys2Proof.Machine.execPwrCapWrite
  try dsimp only
  repeat'
      first
      | with_reducible assumption | with_reducible refine Keeps.writeCap _ _ ?_ | with_reducible refine Keeps.bar0 _ _ ?_ ?_
      | with_reducible refine KeepsR.next ?_ | intro _

theorem Keeps.execSbCapWrite {s0 : State} (v : Word) (s : State) (h : Keeps s0 s) : KeepsR s0 (execSbCapWrite v s) := by
  unfold Sys2Proof.Machine.execSbCapWrite
  try dsimp only
  repeat'
      first
      | with_reducible assumption | with_reducible refine Keeps.updateCap _ ?_ | with_reducible refine Keeps.modPower _ _ ?_
      | with_reducible refine KeepsR.next ?_ | intro _ | split

theorem Keeps.writeMode {s0 : State} (s : State) (v : Word) (h : Keeps s0 s) : Keeps s0 (State.writeMode s v) := by
  unfold Sys2Proof.Machine.State.writeMode
  try dsimp only
  repeat'
      first
      | with_reducible assumption | with_reducible refine Keeps.modPower _ _ ?_

theorem Keeps.execModeWrite {s0 : State} (v : Word) (s : State) (h : Keeps s0 s) : KeepsR s0 (execModeWrite v s) := by
  unfold Sys2Proof.Machine.execModeWrite
  try dsimp only
  repeat'
      first
      | with_reducible assumption | with_reducible refine Keeps.writeMode _ _ ?_ | with_reducible refine Keeps.bar0 _ _ ?_ ?_
      | with_reducible refine KeepsR.next ?_ | intro _

theorem Keeps.execPwrBrakeAssert {s0 : State} (s : State) (h : Keeps s0 s) : KeepsR s0 (execPwrBrakeAssert s) := by
  unfold Sys2Proof.Machine.execPwrBrakeAssert
  try dsimp only
  repeat'
      first
      | with_reducible assumption | with_reducible refine Keeps.setPins _ ?_ ?_ | with_reducible refine Keeps.updateCap _ ?_
      | with_reducible refine Keeps.pwrEvent _ _ ?_ | with_reducible refine Keeps.wakeNow _ ?_ | with_reducible refine Keeps.raise _ _ ?_
      | with_reducible refine KeepsR.next ?_ | split | dsimp only | exact Or.inr (Or.inl rfl) | exact Or.inr rfl | simp

theorem Keeps.execPwrBrakeRelease {s0 : State} (s : State) (h : Keeps s0 s) : KeepsR s0 (execPwrBrakeRelease s) := by
  unfold Sys2Proof.Machine.execPwrBrakeRelease
  try dsimp only
  repeat'
      first
      | with_reducible assumption | with_reducible refine Keeps.setPins _ ?_ ?_ | with_reducible refine Keeps.updateCap _ ?_
      | with_reducible refine KeepsR.next ?_ | dsimp only | exact Or.inr (Or.inl rfl) | exact Or.inr rfl | simp

theorem Keeps.setLimits {s0 : State} (s : State) (f : Nat → PhysCore → Nat) (h : Keeps s0 s) : Keeps s0 (State.setLimits s f) := by
  unfold Sys2Proof.Machine.State.setLimits
  try dsimp only
  repeat' first | with_reducible assumption | with_reducible refine Keeps.setCores _ ?_ ?_ | intro _ | split | dsimp only | simp

theorem Keeps.limitCores {s0 : State} (s : State) (run : List RunCore) (pstatic : ℚ) (est : ℚ) (h : Keeps s0 s) : Keeps s0 (State.limitCores s run pstatic est) := by
  unfold Sys2Proof.Machine.State.limitCores
  try dsimp only
  repeat'
      first
      | with_reducible assumption | with_reducible refine Keeps.setLimits _ _ ?_ | with_reducible refine Keeps.modPower _ _ ?_
      | with_reducible refine Keeps.ite ?_ ?_

theorem Keeps.repeatBroken {s0 : State} (s : State) (h : Keeps s0 s) : Keeps s0 (State.repeatBroken s) := by
  unfold Sys2Proof.Machine.State.repeatBroken
  try dsimp only
  repeat'
      first
      | with_reducible assumption | with_reducible refine Keeps.modPower _ _ ?_ | with_reducible refine Keeps.pwrEvent _ _ ?_
      | with_reducible refine Keeps.raiseLimited _ _ _ _ _ ?_ | with_reducible refine Keeps.ite ?_ ?_

theorem Keeps.execPowerWindow {s0 : State} (events : List EventCount) (pstatic : PowerCond) (s : State) (h : Keeps s0 s) : KeepsR s0 (execPowerWindow events pstatic s) := by
  unfold Sys2Proof.Machine.execPowerWindow
  try dsimp only
  repeat'
      first
      | with_reducible assumption | with_reducible refine Keeps.repeatBroken _ ?_ | with_reducible refine Keeps.limitCores _ _ _ _ ?_
      | with_reducible refine Keeps.setLimits _ _ ?_ | with_reducible refine Keeps.modPower _ _ ?_ | with_reducible refine Keeps.setClocks _ ?_
      | with_reducible refine Keeps.foldl _ _ _ ?_ ?_ | with_reducible refine KeepsR.next ?_ | intro _ | split

theorem Keeps.execCorrectionUpdate {s0 : State} (a0 a1 : Unit) (s : State) (h : Keeps s0 s) : KeepsR s0 (execCorrectionUpdate a0 a1 s) := by
  unfold Sys2Proof.Machine.execCorrectionUpdate
  try dsimp only
  repeat'
      first
      | with_reducible assumption | with_reducible refine Keeps.modPower _ _ ?_ | with_reducible refine Keeps.pwrRaise _ _ ?_
      | with_reducible refine KeepsR.next ?_ | with_reducible exact KeepsR.fault | intro _ | split

theorem Keeps.execLearningUpdate {s0 : State} (m : List (BitVec 32 × ℚ × ℚ)) (s : State) (h : Keeps s0 s) : KeepsR s0 (execLearningUpdate m s) := by
  unfold Sys2Proof.Machine.execLearningUpdate
  try dsimp only
  repeat'
      first
      | with_reducible assumption | with_reducible refine Keeps.modPower _ _ ?_ | with_reducible refine Keeps.foldl _ _ _ ?_ ?_
      | with_reducible refine KeepsR.next ?_

theorem Keeps.setDroop {s0 : State} (s : State) (cdie : Nat) (f : PhysCore → Option Nat) (h : Keeps s0 s) : Keeps s0 (State.setDroop s cdie f) := by
  unfold Sys2Proof.Machine.State.setDroop
  try dsimp only
  repeat'
      first
      | with_reducible assumption | with_reducible refine Keeps.setCores _ ?_ ?_ | with_reducible refine Keeps.ite ?_ ?_ | intro _ | split | dsimp only
      | simp

theorem Keeps.execDroopTrip {s0 : State} (cdie : Fin 12) (s : State) (h : Keeps s0 s) : KeepsR s0 (execDroopTrip cdie s) := by
  unfold Sys2Proof.Machine.execDroopTrip
  try dsimp only
  repeat'
      first
      | with_reducible assumption | with_reducible refine Keeps.setDroop _ _ _ ?_ | with_reducible refine Keeps.repeatBroken _ ?_
      | with_reducible refine Keeps.modPower _ _ ?_ | with_reducible refine Keeps.pwrEvent _ _ ?_ | with_reducible refine Keeps.raiseLimited _ _ _ _ _ ?_
      | with_reducible refine KeepsR.next ?_

theorem Keeps.execDroopRecovery {s0 : State} (cdie : Fin 12) (s : State) (h : Keeps s0 s) : KeepsR s0 (execDroopRecovery cdie s) := by
  unfold Sys2Proof.Machine.execDroopRecovery
  try dsimp only
  repeat'
      first
      | with_reducible assumption | with_reducible refine Keeps.setDroop _ _ _ ?_ | with_reducible refine KeepsR.next ?_

theorem Keeps.readTemps {s0 : State} (s : State) (a1 : List (ThermIsland × ℤ)) (h : Keeps s0 s) : Keeps s0 (State.readTemps s a1) := by
  unfold Sys2Proof.Machine.State.readTemps
  try dsimp only
  repeat' first | with_reducible assumption | with_reducible refine Keeps.modPower _ _ ?_ | intro _ | split

theorem Keeps.execSensorRead {s0 : State} (a0 : List (ThermIsland × ℤ)) (s : State) (h : Keeps s0 s) : KeepsR s0 (execSensorRead a0 s) := by
  unfold Sys2Proof.Machine.execSensorRead
  try dsimp only
  repeat' first | with_reducible assumption | with_reducible refine Keeps.readTemps _ _ ?_ | with_reducible refine KeepsR.next ?_

theorem Keeps.execThrottleTick {s0 : State} (s : State) (h : Keeps s0 s) : KeepsR s0 (execThrottleTick s) := by
  unfold Sys2Proof.Machine.execThrottleTick
  try dsimp only
  repeat'
      first
      | with_reducible assumption | with_reducible refine Keeps.setCores _ ?_ ?_ | with_reducible refine Keeps.modPower _ _ ?_
      | with_reducible refine Keeps.pwrEvent _ _ ?_ | with_reducible refine Keeps.wakeNow _ ?_ | with_reducible refine Keeps.raiseLimited _ _ _ _ _ ?_
      | with_reducible refine KeepsR.next ?_ | intro _ | split | dsimp only | simp

theorem Keeps.railsOff {s0 : State} (s : State) (v : RunPhase) (h : Keeps s0 s) : Keeps s0 (s.railsOff v) :=
  h.trans { pending := rfl, canon := fun k => ⟨rfl, k.2⟩, level := fun _ => rfl, ready := fun _ k => (nomatch (show false = true from k)), shape := fun _ => ⟨List.length_replicate, List.length_replicate, List.length_replicate⟩ }

theorem Keeps.thermalShutdown {s0 : State} (s : State) (h : Keeps s0 s) : Keeps s0 (State.thermalShutdown s) := by
  unfold Sys2Proof.Machine.State.thermalShutdown
  try dsimp only
  repeat'
      first
      | with_reducible assumption | with_reducible refine Keeps.railsOff _ _ ?_ | with_reducible refine Keeps.putLogs _ _ ?_
      | with_reducible refine Keeps.raise _ _ ?_

theorem Keeps.endRunning {s0 : State} (s : State) (status : Nat) (h : Keeps s0 s) : Keeps s0 (State.endRunning s status) := by
  unfold Sys2Proof.Machine.State.endRunning
  try dsimp only
  repeat'
      first
      | with_reducible assumption | with_reducible refine Keeps.endCmd _ _ _ ?_ | with_reducible refine Keeps.foldl _ _ _ ?_ ?_
      | with_reducible refine Keeps.ite ?_ ?_ | intro _ | split

theorem Keeps.execThermalTrip {s0 : State} (i : ThermIsland) (celsius : ℤ) (s : State) (h : Keeps s0 s) : KeepsR s0 (execThermalTrip i celsius s) := by
  unfold Sys2Proof.Machine.execThermalTrip
  try dsimp only
  repeat'
      first
      | with_reducible assumption | with_reducible refine Keeps.endRunning _ _ ?_ | with_reducible refine Keeps.thermalShutdown _ ?_
      | with_reducible refine Keeps.readTemps _ _ ?_ | with_reducible refine Keeps.modPower _ _ ?_ | with_reducible refine Keeps.settle _ ?_
      | with_reducible refine Keeps.pwrEvent _ _ ?_ | with_reducible refine Keeps.wakeNow _ ?_ | with_reducible refine KeepsR.next ?_ | intro _ | split

theorem Keeps.execTripRecovery {s0 : State} (s : State) (h : Keeps s0 s) : KeepsR s0 (Sys2Proof.Machine.execTripRecovery s) := by
  unfold Sys2Proof.Machine.execTripRecovery
  dsimp only
  split
  · have k : Keeps s0 ((s.modPower fun p => { p with tripped := false }).setCores (s.cores.map fun c => { c with qT := 32 })) :=
      Keeps.setCores _ (Keeps.modPower _ _ h) (Or.inl (by simp [State.modPower]))
    exact KeepsR.next (Keeps.settle _ (Keeps.ite (Keeps.pwrEvent _ _ k) k))
  · exact KeepsR.next h

theorem Keeps.execS2Entry {s0 : State} (core : Fin 864) (s : State) (h : Keeps s0 s) : KeepsR s0 (execS2Entry core s) := by
  unfold Sys2Proof.Machine.execS2Entry
  try dsimp only
  repeat'
      first
      | with_reducible assumption | with_reducible refine Keeps.modCore _ _ _ ?_ | with_reducible refine KeepsR.next ?_ | intro _ | split

theorem Keeps.gateCores {s0 : State} (s : State) (h : Keeps s0 s) : Keeps s0 (State.gateCores s) := by
  unfold Sys2Proof.Machine.State.gateCores
  try dsimp only
  repeat'
      first
      | with_reducible assumption | with_reducible refine Keeps.setCores _ ?_ ?_ | with_reducible refine Keeps.ite ?_ ?_ | intro _ | split | dsimp only
      | simp

theorem Keeps.execS3Entry {s0 : State} (s : State) (h : Keeps s0 s) : KeepsR s0 (execS3Entry s) := by
  unfold Sys2Proof.Machine.execS3Entry
  try dsimp only
  repeat'
      first
      | with_reducible assumption | with_reducible refine Keeps.gateCores _ ?_ | with_reducible refine Keeps.modPower _ _ ?_
      | with_reducible refine Keeps.portsDown _ ?_ | with_reducible refine Keeps.modOptics _ _ ?_ | with_reducible refine KeepsR.next ?_ | intro _ | split

theorem Keeps.execWake {s0 : State} (s : State) (h : Keeps s0 s) : KeepsR s0 (execWake s) := by
  unfold Sys2Proof.Machine.execWake
  try dsimp only
  repeat' first | with_reducible assumption | with_reducible refine Keeps.wakeNow _ ?_ | with_reducible refine KeepsR.next ?_

theorem Keeps.writeIdle {s0 : State} (s : State) (v : Word) (h : Keeps s0 s) : Keeps s0 (State.writeIdle s v) := by
  unfold Sys2Proof.Machine.State.writeIdle
  try dsimp only
  repeat'
      first
      | with_reducible assumption | with_reducible refine Keeps.setCores _ ?_ ?_ | with_reducible refine Keeps.modPower _ _ ?_
      | with_reducible refine Keeps.restCores _ _ ?_ | with_reducible refine Keeps.wakeNow _ ?_ | with_reducible refine Keeps.ite ?_ ?_ | intro _ | split
      | dsimp only | simp

theorem Keeps.execPwrIdleWrite {s0 : State} (v : Word) (s : State) (h : Keeps s0 s) : KeepsR s0 (execPwrIdleWrite v s) := by
  unfold Sys2Proof.Machine.execPwrIdleWrite
  try dsimp only
  repeat'
      first
      | with_reducible assumption | with_reducible refine Keeps.writeIdle _ _ ?_ | with_reducible refine Keeps.hostAccess _ ?_
      | with_reducible refine KeepsR.next ?_ | split

theorem Keeps.modSec {s0 : State} (s : State) (f : Sec → Sec) (h : Keeps s0 s) : Keeps s0 (State.modSec s f) := by
  unfold Sys2Proof.Machine.State.modSec
  try dsimp only
  repeat' first | with_reducible assumption | with_reducible refine Keeps.setSec _ ?_

theorem Keeps.mboxEnd {s0 : State} (s : State) (status : Nat) (rsp : Bytes) (h : Keeps s0 s) : Keeps s0 (State.mboxEnd s status rsp) := by
  unfold Sys2Proof.Machine.State.mboxEnd
  try dsimp only
  repeat' first | with_reducible assumption | with_reducible refine Keeps.modSec _ _ ?_

theorem Keeps.peerAdd {s0 : State} (s : State) (h : Keeps s0 s) : Keeps s0 (State.peerAdd s) := by
  unfold Sys2Proof.Machine.State.peerAdd
  try dsimp only
  repeat'
      first
      | with_reducible assumption | with_reducible refine Keeps.mboxEnd _ _ _ ?_ | with_reducible refine Keeps.modSec _ _ ?_
      | with_reducible refine Keeps.ite ?_ ?_ | intro _ | split

theorem Keeps.peerRemove {s0 : State} (s : State) (h : Keeps s0 s) : Keeps s0 (State.peerRemove s) := by
  unfold Sys2Proof.Machine.State.peerRemove
  try dsimp only
  repeat'
      first
      | with_reducible assumption | with_reducible refine Keeps.mboxEnd _ _ _ ?_ | with_reducible refine Keeps.modSec _ _ ?_
      | with_reducible refine Keeps.ite ?_ ?_

theorem Keeps.peerClear {s0 : State} (s : State) (h : Keeps s0 s) : Keeps s0 (State.peerClear s) := by
  unfold Sys2Proof.Machine.State.peerClear
  try dsimp only
  repeat'
      first
      | with_reducible assumption | with_reducible refine Keeps.mboxEnd _ _ _ ?_ | with_reducible refine Keeps.modSec _ _ ?_
      | with_reducible refine Keeps.ite ?_ ?_

theorem Keeps.emptyLines {s0 : State} (s : State) (h : Keeps s0 s) : Keeps s0 (State.emptyLines s) := by
  unfold Sys2Proof.Machine.State.emptyLines
  try dsimp only
  repeat'
      first
      | with_reducible assumption | with_reducible refine Keeps.setFabric _ ?_ | with_reducible refine Keeps.hostWrite _ _ _ ?_
      | with_reducible refine Keeps.foldl _ _ _ ?_ ?_ | intro _ | split

theorem Keeps.debugOpen {s0 : State} (s : State) (h : Keeps s0 s) : Keeps s0 (State.debugOpen s) := by
  unfold Sys2Proof.Machine.State.debugOpen
  try dsimp only
  repeat'
      first
      | with_reducible assumption | with_reducible refine Keeps.setCoreMems _ ?_ | with_reducible refine Keeps.setEngines _ ?_
      | with_reducible refine Keeps.emptyLines _ ?_ | with_reducible refine Keeps.mboxEnd _ _ _ ?_ | with_reducible refine Keeps.modSec _ _ ?_
      | with_reducible refine Keeps.raise _ _ ?_ | with_reducible refine Keeps.ite ?_ ?_

theorem Keeps.chainOut {s0 : State} (s : State) (a1 : Nat) (h : Keeps s0 s) : Keeps s0 (State.chainOut s a1) := by
  unfold Sys2Proof.Machine.State.chainOut
  try dsimp only
  repeat' first | with_reducible assumption | with_reducible refine Keeps.mboxEnd _ _ _ ?_ | with_reducible refine Keeps.ite ?_ ?_

theorem Keeps.mboxGo {s0 : State} (s : State) (op : Nat) (h : Keeps s0 s) : Keeps s0 (State.mboxGo s op) := by
  unfold Sys2Proof.Machine.State.mboxGo
  try dsimp only
  repeat'
      first
      | with_reducible assumption | with_reducible refine Keeps.chainOut _ _ ?_ | with_reducible refine Keeps.debugOpen _ ?_
      | with_reducible refine Keeps.peerClear _ ?_ | with_reducible refine Keeps.peerRemove _ ?_ | with_reducible refine Keeps.peerAdd _ ?_
      | with_reducible refine Keeps.mboxEnd _ _ _ ?_ | with_reducible refine Keeps.modSec _ _ ?_ | intro _ | split

theorem Keeps.execGetChain {s0 : State} (s : State) (h : Keeps s0 s) : KeepsR s0 (execGetChain s) := by
  unfold Sys2Proof.Machine.execGetChain
  try dsimp only
  repeat'
      first
      | with_reducible assumption | with_reducible refine Keeps.mboxGo _ _ ?_ | with_reducible refine Keeps.bar0 _ _ ?_ ?_
      | with_reducible refine KeepsR.next ?_ | intro _

theorem Keeps.execGetMeterChain {s0 : State} (s : State) (h : Keeps s0 s) : KeepsR s0 (execGetMeterChain s) := by
  unfold Sys2Proof.Machine.execGetMeterChain
  try dsimp only
  repeat'
      first
      | with_reducible assumption | with_reducible refine Keeps.mboxGo _ _ ?_ | with_reducible refine Keeps.bar0 _ _ ?_ ?_
      | with_reducible refine KeepsR.next ?_ | intro _

theorem Keeps.execPeerAdd {s0 : State} (s : State) (h : Keeps s0 s) : KeepsR s0 (execPeerAdd s) := by
  unfold Sys2Proof.Machine.execPeerAdd
  try dsimp only
  repeat'
      first
      | with_reducible assumption | with_reducible refine Keeps.mboxGo _ _ ?_ | with_reducible refine Keeps.bar0 _ _ ?_ ?_
      | with_reducible refine KeepsR.next ?_ | intro _

theorem Keeps.execPeerRemove {s0 : State} (s : State) (h : Keeps s0 s) : KeepsR s0 (execPeerRemove s) := by
  unfold Sys2Proof.Machine.execPeerRemove
  try dsimp only
  repeat'
      first
      | with_reducible assumption | with_reducible refine Keeps.mboxGo _ _ ?_ | with_reducible refine Keeps.bar0 _ _ ?_ ?_
      | with_reducible refine KeepsR.next ?_ | intro _

theorem Keeps.execPeerClear {s0 : State} (s : State) (h : Keeps s0 s) : KeepsR s0 (execPeerClear s) := by
  unfold Sys2Proof.Machine.execPeerClear
  try dsimp only
  repeat'
      first
      | with_reducible assumption | with_reducible refine Keeps.mboxGo _ _ ?_ | with_reducible refine Keeps.bar0 _ _ ?_ ?_
      | with_reducible refine KeepsR.next ?_ | intro _

theorem Keeps.execDebugOpen {s0 : State} (s : State) (h : Keeps s0 s) : KeepsR s0 (execDebugOpen s) := by
  unfold Sys2Proof.Machine.execDebugOpen
  try dsimp only
  repeat'
      first
      | with_reducible assumption | with_reducible refine Keeps.mboxGo _ _ ?_ | with_reducible refine Keeps.bar0 _ _ ?_ ?_
      | with_reducible refine KeepsR.next ?_ | intro _

theorem Keeps.spdm {s0 : State} (s : State) (f : State → State) (h : Keeps s0 s) (hf1 : ∀ y0, Keeps s0 y0 → Keeps s0 (f y0)) : Keeps s0 (State.spdm s f) := by
  unfold Sys2Proof.Machine.State.spdm
  try dsimp only
  repeat'
      first
      | with_reducible assumption | with_reducible refine hf1 _ ?_ | with_reducible refine Keeps.emit _ _ ?_ | with_reducible refine Keeps.ite ?_ ?_

theorem Keeps.spdmVca {s0 : State} (s : State) (req rsp : Bytes) (h : Keeps s0 s) : Keeps s0 (State.spdmVca s req rsp) := by
  unfold Sys2Proof.Machine.State.spdmVca
  try dsimp only
  repeat' first | with_reducible assumption | with_reducible refine Keeps.modSec _ _ ?_ | with_reducible refine Keeps.emit _ _ ?_

theorem Keeps.spdmCert {s0 : State} (s : State) (req rsp : Bytes) (h : Keeps s0 s) : Keeps s0 (State.spdmCert s req rsp) := by
  unfold Sys2Proof.Machine.State.spdmCert
  try dsimp only
  repeat' first | with_reducible assumption | with_reducible refine Keeps.modSec _ _ ?_ | with_reducible refine Keeps.emit _ _ ?_

theorem Keeps.spdmError {s0 : State} (s : State) (h : Keeps s0 s) : Keeps s0 (State.spdmError s) := by
  unfold Sys2Proof.Machine.State.spdmError
  try dsimp only
  repeat' first | with_reducible assumption | with_reducible refine Keeps.emit _ _ ?_

theorem Keeps.drawNonce {s0 : State} (s : State) (h : Keeps s0 s) : KeepsQ s0 (State.drawNonce s) := by
  unfold Sys2Proof.Machine.State.drawNonce
  try dsimp only
  repeat' first | with_reducible assumption | with_reducible refine Keeps.setFresh _ ?_ | with_reducible refine KeepsQ.pair ?_

theorem Keeps.execGetVersion {s0 : State} (req : Bytes) (s : State) (h : Keeps s0 s) : KeepsR s0 (execGetVersion req s) := by
  unfold Sys2Proof.Machine.execGetVersion
  try dsimp only
  repeat'
      first
      | with_reducible assumption | with_reducible refine Keeps.spdmVca _ _ _ ?_ | with_reducible refine Keeps.spdm _ _ ?_ ?_
      | with_reducible refine Keeps.modSec _ _ ?_ | with_reducible refine KeepsR.next ?_ | intro _

theorem Keeps.execGetCapabilities {s0 : State} (req : Bytes) (s : State) (h : Keeps s0 s) : KeepsR s0 (execGetCapabilities req s) := by
  unfold Sys2Proof.Machine.execGetCapabilities
  try dsimp only
  repeat'
      first
      | with_reducible assumption | with_reducible refine Keeps.spdmVca _ _ _ ?_ | with_reducible refine Keeps.spdm _ _ ?_ ?_
      | with_reducible refine KeepsR.next ?_ | intro _

theorem Keeps.execNegotiateAlgorithms {s0 : State} (req : Bytes) (s : State) (h : Keeps s0 s) : KeepsR s0 (execNegotiateAlgorithms req s) := by
  unfold Sys2Proof.Machine.execNegotiateAlgorithms
  try dsimp only
  repeat'
      first
      | with_reducible assumption | with_reducible refine Keeps.spdmVca _ _ _ ?_ | with_reducible refine Keeps.spdm _ _ ?_ ?_
      | with_reducible refine KeepsR.next ?_ | intro _

theorem Keeps.execGetDigests {s0 : State} (req : Bytes) (s : State) (h : Keeps s0 s) : KeepsR s0 (execGetDigests req s) := by
  unfold Sys2Proof.Machine.execGetDigests
  try dsimp only
  repeat'
      first
      | with_reducible assumption | with_reducible refine Keeps.spdmCert _ _ _ ?_ | with_reducible refine Keeps.spdm _ _ ?_ ?_
      | with_reducible refine KeepsR.next ?_ | intro _

theorem Keeps.execGetCertificate {s0 : State} (req : Bytes) (slot : BitVec 4) (offset len : Nat) (s : State) (h : Keeps s0 s) : KeepsR s0 (execGetCertificate req slot offset len s) := by
  unfold Sys2Proof.Machine.execGetCertificate
  try dsimp only
  repeat'
      first
      | with_reducible assumption | with_reducible refine Keeps.spdmError _ ?_ | with_reducible refine Keeps.spdmCert _ _ _ ?_
      | with_reducible refine Keeps.spdm _ _ ?_ ?_ | with_reducible refine KeepsR.next ?_ | intro _ | split

theorem Keeps.execChallenge {s0 : State} (req : Bytes) (slot : BitVec 4) (a2 : Bytes) (s : State) (h : Keeps s0 s) : KeepsR s0 (execChallenge req slot a2 s) := by
  unfold Sys2Proof.Machine.execChallenge
  try dsimp only
  repeat'
      first
      | with_reducible assumption | with_reducible refine Keeps.drawNonce _ ?_ | with_reducible refine KeepsQ.of (Keeps.drawNonce _ ?_) (by assumption)
      | with_reducible refine KeepsQ.snd (Keeps.drawNonce _ ?_) | with_reducible refine Keeps.spdmError _ ?_ | with_reducible refine Keeps.spdm _ _ ?_ ?_
      | with_reducible refine Keeps.modSec _ _ ?_ | with_reducible refine Keeps.draw _ ?_
      | with_reducible refine KeepsQ.of (Keeps.draw _ ?_) (by assumption) | with_reducible refine KeepsQ.snd (Keeps.draw _ ?_)
      | with_reducible refine Keeps.emit _ _ ?_ | with_reducible refine KeepsR.next ?_ | intro _ | split

theorem Keeps.execGetMeasurements {s0 : State} (req : Bytes) (index : BitVec 8) (signed : Bool) (a3 : Bytes) (s : State) (h : Keeps s0 s) : KeepsR s0 (execGetMeasurements req index signed a3 s) := by
  unfold Sys2Proof.Machine.execGetMeasurements
  try dsimp only
  repeat'
      first
      | with_reducible assumption | with_reducible refine Keeps.drawNonce _ ?_ | with_reducible refine KeepsQ.of (Keeps.drawNonce _ ?_) (by assumption)
      | with_reducible refine KeepsQ.snd (Keeps.drawNonce _ ?_) | with_reducible refine Keeps.spdmError _ ?_ | with_reducible refine Keeps.spdm _ _ ?_ ?_
      | with_reducible refine Keeps.modSec _ _ ?_ | with_reducible refine Keeps.draw _ ?_
      | with_reducible refine KeepsQ.of (Keeps.draw _ ?_) (by assumption) | with_reducible refine KeepsQ.snd (Keeps.draw _ ?_)
      | with_reducible refine Keeps.emit _ _ ?_ | with_reducible refine KeepsR.next ?_ | intro _ | split

theorem Keeps.modMeter {s0 : State} (s : State) (f : Meter → Meter) (h : Keeps s0 s) : Keeps s0 (State.modMeter s f) := by
  unfold Sys2Proof.Machine.State.modMeter
  try dsimp only
  repeat' first | with_reducible assumption | with_reducible refine Keeps.setMeter _ ?_

theorem Keeps.emitRecord {s0 : State} (s : State) (kind : Nat) (lost : Bool) (h : Keeps s0 s) : Keeps s0 (State.emitRecord s kind lost) := by
  unfold Sys2Proof.Machine.State.emitRecord
  try dsimp only
  repeat' first | with_reducible assumption | with_reducible refine Keeps.modMeter _ _ ?_

theorem Keeps.powerSecond {s0 : State} (s : State) (w : ℚ) (h : Keeps s0 s) : Keeps s0 (State.powerSecond s w) := by
  unfold Sys2Proof.Machine.State.powerSecond
  try dsimp only
  repeat'
      first
      | with_reducible assumption | with_reducible refine Keeps.modPower _ _ ?_ | with_reducible refine Keeps.pwrEvent _ _ ?_
      | with_reducible refine Keeps.raise _ _ ?_ | with_reducible refine Keeps.ite ?_ ?_

theorem Keeps.execFuelagrimSecond {s0 : State} (mj : Nat) (overRange checkOk : Bool) (s : State) (h : Keeps s0 s) : KeepsR s0 (execFuelagrimSecond mj overRange checkOk s) := by
  unfold Sys2Proof.Machine.execFuelagrimSecond
  try dsimp only
  repeat'
      first
      | with_reducible assumption | with_reducible refine Keeps.powerSecond _ _ ?_ | with_reducible refine Keeps.modMeter _ _ ?_
      | with_reducible refine Keeps.raise _ _ ?_ | with_reducible refine KeepsR.next ?_ | with_reducible exact KeepsR.fault | intro _ | split

theorem Keeps.execMeterRecord {s0 : State} (s : State) (h : Keeps s0 s) : KeepsR s0 (execMeterRecord s) := by
  unfold Sys2Proof.Machine.execMeterRecord
  try dsimp only
  repeat'
      first
      | with_reducible assumption | with_reducible refine Keeps.emitRecord _ _ _ ?_ | with_reducible refine Keeps.modMeter _ _ ?_
      | with_reducible refine Keeps.modTag _ _ ?_ | with_reducible refine KeepsR.next ?_ | intro _ | split

theorem Keeps.execMeterTagRetry {s0 : State} (s : State) (h : Keeps s0 s) : KeepsR s0 (execMeterTagRetry s) := by
  unfold Sys2Proof.Machine.execMeterTagRetry
  try dsimp only
  repeat'
      first
      | with_reducible assumption | with_reducible refine Keeps.modMeter _ _ ?_ | with_reducible refine Keeps.modTag _ _ ?_
      | with_reducible refine Keeps.raise _ _ ?_ | with_reducible refine KeepsR.next ?_ | intro _ | split

theorem Keeps.writeSign {s0 : State} (s : State) (v : Word) (h : Keeps s0 s) : Keeps s0 (State.writeSign s v) := by
  unfold Sys2Proof.Machine.State.writeSign
  try dsimp only
  repeat' first | with_reducible assumption | with_reducible refine Keeps.emitRecord _ _ _ ?_ | with_reducible refine Keeps.ite ?_ ?_

theorem Keeps.execSign {s0 : State} (v : Word) (s : State) (h : Keeps s0 s) : KeepsR s0 (execSign v s) := by
  unfold Sys2Proof.Machine.execSign
  try dsimp only
  repeat'
      first
      | with_reducible assumption | with_reducible refine Keeps.writeSign _ _ ?_ | with_reducible refine Keeps.bar0 _ _ ?_ ?_
      | with_reducible refine KeepsR.next ?_ | intro _

theorem Keeps.execParameterSetLoad {s0 : State} (s : State) (h : Keeps s0 s) : KeepsR s0 (execParameterSetLoad s) := by
  unfold Sys2Proof.Machine.execParameterSetLoad
  try dsimp only
  repeat'
      first
      | with_reducible assumption | with_reducible refine Keeps.modMeter _ _ ?_ | with_reducible refine KeepsR.next ?_ | intro _ | split

theorem Keeps.modSteward {s0 : State} (s : State) (f : Steward → Steward) (h : Keeps s0 s) : Keeps s0 (State.modSteward s f) := by
  unfold Sys2Proof.Machine.State.modSteward
  try dsimp only
  repeat' first | with_reducible assumption | with_reducible refine Keeps.setSteward _ ?_

theorem Keeps.refreshMirrors {s0 : State} (s : State) (h : Keeps s0 s) : Keeps s0 (State.refreshMirrors s) := by
  unfold Sys2Proof.Machine.State.refreshMirrors
  try dsimp only
  repeat' first | with_reducible assumption | with_reducible refine Keeps.modSteward _ _ ?_

theorem Keeps.execLoadWindow {s0 : State} (load : Fin 101) (waitUs : Nat) (s : State) (h : Keeps s0 s) : KeepsR s0 (execLoadWindow load waitUs s) := by
  unfold Sys2Proof.Machine.execLoadWindow
  try dsimp only
  repeat'
      first
      | with_reducible assumption | with_reducible refine Keeps.refreshMirrors _ ?_ | with_reducible refine Keeps.modSteward _ _ ?_
      | with_reducible refine Keeps.modPower _ _ ?_ | with_reducible refine Keeps.sbSet _ _ ?_ | with_reducible refine Keeps.raiseLimited _ _ _ _ _ ?_
      | with_reducible refine KeepsR.next ?_ | intro _ | split

theorem Keeps.pollDevice {s0 : State} (nak : List Nat) (s : State) (d : Nat) (h : Keeps s0 s) : Keeps s0 (State.pollDevice nak s d) := by
  unfold Sys2Proof.Machine.State.pollDevice
  try dsimp only
  repeat'
      first
      | with_reducible assumption | with_reducible refine Keeps.modSteward _ _ ?_ | with_reducible refine Keeps.raise _ _ ?_
      | with_reducible refine Keeps.ite ?_ ?_

theorem Keeps.isolate {s0 : State} (segs : List Nat) (f : PollFacts) (s : State) (h : Keeps s0 s) : Keeps s0 (State.isolate segs f s) := by
  unfold Sys2Proof.Machine.State.isolate
  try dsimp only
  repeat'
      first
      | with_reducible assumption | with_reducible refine Keeps.modSteward _ _ ?_ | with_reducible refine Keeps.raise _ _ ?_
      | with_reducible refine Keeps.foldl _ _ _ ?_ ?_ | with_reducible refine Keeps.ite ?_ ?_ | intro _

theorem Keeps.busChanged {s0 : State} (s : State) (was : Bool) (h : Keeps s0 s) : Keeps s0 (State.busChanged s was) := by
  unfold Sys2Proof.Machine.State.busChanged
  try dsimp only
  repeat'
      first
      | with_reducible assumption | with_reducible refine Keeps.updateCap _ ?_ | with_reducible refine Keeps.sbSet _ _ ?_
      | with_reducible refine Keeps.ite ?_ ?_

theorem Keeps.execSensorPoll {s0 : State} (slow : Bool) (f : PollFacts) (s : State) (h : Keeps s0 s) : KeepsR s0 (execSensorPoll slow f s) := by
  unfold Sys2Proof.Machine.execSensorPoll
  try dsimp only
  repeat'
      first
      | with_reducible assumption | with_reducible refine Keeps.busChanged _ _ ?_ | with_reducible refine Keeps.isolate _ _ _ ?_
      | with_reducible refine Keeps.pollDevice _ _ _ ?_ | with_reducible refine Keeps.modSteward _ _ ?_
      | with_reducible refine Keeps.raiseLimited _ _ _ _ _ ?_ | with_reducible refine Keeps.foldl _ _ _ ?_ ?_ | with_reducible refine KeepsR.next ?_
      | intro _ | split

theorem Keeps.execRetest {s0 : State} (v : Word) (f : PollFacts) (s : State) (h : Keeps s0 s) : KeepsR s0 (execRetest v f s) := by
  unfold Sys2Proof.Machine.execRetest
  try dsimp only
  repeat'
      first
      | with_reducible assumption | with_reducible refine Keeps.busChanged _ _ ?_ | with_reducible refine Keeps.isolate _ _ _ ?_
      | with_reducible refine Keeps.modSteward _ _ ?_ | with_reducible refine Keeps.updateCap _ ?_ | with_reducible refine KeepsR.next ?_ | intro _ | split

theorem Keeps.execAlertResponse {s0 : State} (s : State) (h : Keeps s0 s) : KeepsR s0 (execAlertResponse s) := by
  unfold Sys2Proof.Machine.execAlertResponse
  try dsimp only
  repeat'
      first
      | with_reducible assumption | with_reducible refine Keeps.modSteward _ _ ?_ | with_reducible refine Keeps.emit _ _ ?_
      | with_reducible refine KeepsR.next ?_ | intro _ | split

theorem Keeps.execSmbusTimeout {s0 : State} (s : State) (h : Keeps s0 s) : KeepsR s0 (execSmbusTimeout s) := by
  unfold Sys2Proof.Machine.execSmbusTimeout
  try dsimp only
  repeat' first | with_reducible assumption | with_reducible refine Keeps.emit _ _ ?_ | with_reducible refine KeepsR.next ?_ | split

theorem Keeps.chooseBank {s0 : State} (s : State) (a1 : List Bool) (h : Keeps s0 s) : KeepsQ s0 (State.chooseBank s a1) := by
  induction a1 generalizing s with
  | nil => (unfold Sys2Proof.Machine.State.chooseBank; try dsimp only); repeat'
      first
      | with_reducible assumption | (with_reducible refine ih _ ?_)
      | (with_reducible refine KeepsQ.snd (ih _ ?_)) | with_reducible refine Keeps.raise _ _ ?_ | with_reducible refine KeepsQ.pair ?_
  | cons x r ih => (unfold Sys2Proof.Machine.State.chooseBank; try dsimp only); repeat'
      first
      | with_reducible assumption | (with_reducible refine ih _ ?_) | (with_reducible refine KeepsQ.of (ih _ ?_) (by assumption))
      | (with_reducible refine KeepsQ.snd (ih _ ?_)) | with_reducible refine Keeps.raise _ _ ?_ | with_reducible refine KeepsQ.pair ?_ | split

theorem Keeps.applySetting {s0 : State} (s : State) (off v : Nat) (h : Keeps s0 s) : KeepsP s0 (State.applySetting s off v) := by
  unfold Sys2Proof.Machine.State.applySetting
  try dsimp only
  repeat'
      first
      | with_reducible assumption | with_reducible refine Keeps.setInv _ ?_ | with_reducible refine Keeps.modSec _ _ ?_
      | with_reducible refine Keeps.modLink _ _ _ ?_ | with_reducible refine Keeps.modFab _ _ ?_ | with_reducible refine Keeps.modAdm _ _ ?_
      | with_reducible refine Keeps.modPort _ _ _ ?_ | with_reducible refine KeepsP.pair ?_ | intro _ | split

theorem Keeps.applySettings {s0 : State} (b : Bytes) (a1 a2 : Nat) (a3 : Bool) (a4 : State) (h : Keeps s0 a4) : Keeps s0 (State.applySettings b a1 a2 a3 a4) := by
  induction a1 generalizing b a2 a3 a4 with
  | zero => (unfold Sys2Proof.Machine.State.applySettings; try dsimp only); repeat'
      first
      | with_reducible assumption
  | succ n ih => (unfold Sys2Proof.Machine.State.applySettings; try dsimp only); repeat'
      first
      | with_reducible assumption | (with_reducible refine ih _ _ _ _ ?_) | with_reducible refine Keeps.applySetting _ _ _ ?_
      | with_reducible refine KeepsP.of (Keeps.applySetting _ _ _ ?_) (by assumption) | with_reducible refine KeepsP.fst (Keeps.applySetting _ _ _ ?_)
      | with_reducible refine Keeps.raise _ _ ?_ | with_reducible refine Keeps.ite ?_ ?_

theorem Keeps.applyRoles {s0 : State} (s : State) (l : Nat) (h : Keeps s0 s) : Keeps s0 (State.applyRoles s l) := by
  unfold Sys2Proof.Machine.State.applyRoles
  try dsimp only
  repeat'
      first
      | with_reducible assumption | with_reducible refine Keeps.modLink _ _ _ ?_ | with_reducible refine Keeps.raise _ _ ?_
      | with_reducible refine Keeps.ite ?_ ?_

theorem Keeps.applyBootCfg {s0 : State} (s : State) (v : Nat) (h : Keeps s0 s) : Keeps s0 (State.applyBootCfg s v) := by
  unfold Sys2Proof.Machine.State.applyBootCfg
  try dsimp only
  repeat' first | with_reducible assumption | with_reducible refine Keeps.setBoot _ ?_

theorem Keeps.applyRind {s0 : State} (s : State) (sec : Option Bytes) (h : Keeps s0 s) : Keeps s0 (State.applyRind s sec) := by
  unfold Sys2Proof.Machine.State.applyRind
  try dsimp only
  repeat'
      first
      | with_reducible assumption | with_reducible refine Keeps.setFabric _ ?_ | with_reducible refine Keeps.capacityChange _ _ _ _ ?_
      | with_reducible refine Keeps.raise _ _ ?_ | with_reducible refine Keeps.ite ?_ ?_ | split

theorem Keeps.applyImage {s0 : State} (s : State) (h : Keeps s0 s) : Keeps s0 (State.applyImage s) := by
  unfold Sys2Proof.Machine.State.applyImage
  try dsimp only
  repeat'
      first
      | with_reducible assumption | with_reducible refine Keeps.applyRind _ _ ?_ | with_reducible refine Keeps.applyBootCfg _ _ ?_
      | with_reducible refine Keeps.applyRoles _ _ ?_ | with_reducible refine Keeps.applySettings _ _ _ _ _ ?_
      | with_reducible refine Keeps.foldl _ _ _ ?_ ?_ | intro _ | split

theorem Keeps.bootSettings {s0 : State} (s : State) (h : Keeps s0 s) : Keeps s0 (State.bootSettings s) := by
  unfold Sys2Proof.Machine.State.bootSettings
  try dsimp only
  repeat' first | with_reducible assumption | with_reducible refine Keeps.setBoot _ ?_ | with_reducible refine Keeps.applyImage _ ?_

theorem Keeps.haltBoot {s0 : State} (s : State) (code : Nat) (h : Keeps s0 s) : Keeps s0 (State.haltBoot s code) := by
  unfold Sys2Proof.Machine.State.haltBoot
  try dsimp only
  repeat'
      first
      | with_reducible assumption | with_reducible refine Keeps.setBoot _ ?_ | with_reducible refine Keeps.setPins _ ?_ ?_
      | with_reducible refine Keeps.setPhase _ ?_ ?_ | with_reducible refine Keeps.enterUpdate _ ?_ | with_reducible refine Keeps.sendStatus _ ?_
      | with_reducible refine Keeps.sbSet _ _ ?_ | with_reducible refine Keeps.ite ?_ ?_ | split | dsimp only | exact Or.inr (Or.inl rfl) | exact Or.inr rfl

theorem Keeps.loadMap {s0 : State} (s : State) (m : SpareMap) (h : Keeps s0 s) : Keeps s0 (s.loadMap m) := by
  unfold State.loadMap
  refine Keeps.modFab _ _ (Keeps.modOptics _ _ (Keeps.foldl _ _ _ (fun x e k => ?_) (Keeps.foldl _ _ _ (fun x e k => Keeps.modLink _ _ _ k) ?_)))
  · dsimp only
    repeat' first | with_reducible exact k | with_reducible refine Keeps.modPort _ _ _ ?_ | split
  · refine Keeps.setMem _ (Keeps.setCores _ h (Or.inr ?_)) fun k => k
    rw [List.length_map, List.length_range]

theorem Keeps.loadDrift {s0 : State} (s : State) (h : Keeps s0 s) : Keeps s0 (State.loadDrift s) := by
  unfold Sys2Proof.Machine.State.loadDrift
  try dsimp only
  repeat'
      first
      | with_reducible assumption | with_reducible refine Keeps.setCores _ ?_ ?_ | with_reducible refine Keeps.raise _ _ ?_ | intro _ | split | dsimp only
      | simp

theorem Keeps.bootRecords {s0 : State} (s : State) (h : Keeps s0 s) : Keeps s0 (State.bootRecords s) := by
  unfold Sys2Proof.Machine.State.bootRecords
  try dsimp only
  repeat'
      first
      | with_reducible assumption | with_reducible refine Keeps.setBoot _ ?_ | with_reducible refine Keeps.loadDrift _ ?_
      | with_reducible refine Keeps.loadMap _ _ ?_ | with_reducible refine Keeps.haltBoot _ _ ?_ | with_reducible refine Keeps.ite ?_ ?_ | split

theorem Keeps.bootImage {s0 : State} (s : State) (h : Keeps s0 s) : Keeps s0 (State.bootImage s) := by
  unfold Sys2Proof.Machine.State.bootImage
  try dsimp only
  repeat'
      first
      | with_reducible assumption | with_reducible refine Keeps.setBoot _ ?_ | with_reducible refine Keeps.haltBoot _ _ ?_
      | with_reducible refine Keeps.chooseBank _ _ ?_ | with_reducible refine KeepsQ.of (Keeps.chooseBank _ _ ?_) (by assumption)
      | with_reducible refine KeepsQ.snd (Keeps.chooseBank _ _ ?_) | with_reducible refine Keeps.enterUpdate _ ?_ | with_reducible refine Keeps.ite ?_ ?_
      | split

theorem Keeps.bootTrain {s0 : State} (s : State) (f : StartFacts) (h : Keeps s0 s) : Keeps s0 (State.bootTrain s f) := by
  unfold Sys2Proof.Machine.State.bootTrain
  try dsimp only
  repeat'
      first
      | with_reducible assumption | with_reducible refine Keeps.setBoot _ ?_ | with_reducible refine Keeps.setFabric _ ?_
      | with_reducible refine Keeps.haltBoot _ _ ?_ | with_reducible refine Keeps.linkFails _ _ ?_ | with_reducible refine Keeps.dropPc _ _ _ ?_
      | with_reducible refine Keeps.foldl _ _ _ ?_ ?_ | with_reducible refine Keeps.ite ?_ ?_ | intro _

theorem Keeps.lightLaser {s0 : State} (s : State) (c e : Nat) (h : Keeps s0 s) : Keeps s0 (State.lightLaser s c e) := by
  unfold Sys2Proof.Machine.State.lightLaser
  try dsimp only
  repeat' first | with_reducible assumption | with_reducible refine Keeps.modLaser _ _ _ ?_

theorem Keeps.latchLaser {s0 : State} (s : State) (c : Nat) (h : Keeps s0 s) : Keeps s0 (State.latchLaser s c) := by
  unfold Sys2Proof.Machine.State.latchLaser
  try dsimp only
  repeat'
      first
      | with_reducible assumption | with_reducible refine Keeps.mapChanged _ ?_ | with_reducible refine Keeps.modLaser _ _ _ ?_

theorem Keeps.startSpare {s0 : State} (e : Nat) (bad : List Nat) (a2 : List Nat) (a3 : State) (h : Keeps s0 a3) : Keeps s0 (State.startSpare e bad a2 a3) := by
  induction a2 generalizing e bad a3 with
  | nil => (unfold Sys2Proof.Machine.State.startSpare; try dsimp only); repeat'
      first
      | with_reducible assumption | (with_reducible refine ih _ _ _ ?_) | with_reducible refine Keeps.latchLaser _ _ ?_
      | with_reducible refine Keeps.lightLaser _ _ _ ?_ | with_reducible refine Keeps.modOptics _ _ ?_ | with_reducible refine Keeps.mapChanged _ ?_
      | with_reducible refine Keeps.raise _ _ ?_
  | cons x r ih => (unfold Sys2Proof.Machine.State.startSpare; try dsimp only); repeat'
      first
      | with_reducible assumption | (with_reducible refine ih _ _ _ ?_) | with_reducible refine Keeps.latchLaser _ _ ?_
      | with_reducible refine Keeps.lightLaser _ _ _ ?_ | with_reducible refine Keeps.modOptics _ _ ?_ | with_reducible refine Keeps.mapChanged _ ?_
      | with_reducible refine Keeps.raise _ _ ?_ | with_reducible refine Keeps.ite ?_ ?_

theorem Keeps.startLaser {s0 : State} (bad : List Nat) (s : State) (c : Nat) (h : Keeps s0 s) : Keeps s0 (State.startLaser bad s c) := by
  unfold Sys2Proof.Machine.State.startLaser
  try dsimp only
  repeat'
      first
      | with_reducible assumption | with_reducible refine Keeps.startSpare _ _ _ _ ?_ | with_reducible refine Keeps.latchLaser _ _ ?_
      | with_reducible refine Keeps.lightLaser _ _ _ ?_ | with_reducible refine Keeps.modOptics _ _ ?_ | with_reducible refine Keeps.raise _ _ ?_
      | with_reducible refine Keeps.ite ?_ ?_ | intro _ | split

theorem Keeps.checkSpare {s0 : State} (bad : List Nat) (s : State) (c : Nat) (h : Keeps s0 s) : Keeps s0 (State.checkSpare bad s c) := by
  unfold Sys2Proof.Machine.State.checkSpare
  try dsimp only
  repeat' first | with_reducible assumption | with_reducible refine Keeps.latchLaser _ _ ?_ | with_reducible refine Keeps.ite ?_ ?_

theorem Keeps.railFails {s0 : State} (s : State) (a1 : Nat) (h : Keeps s0 s) : Keeps s0 (State.railFails s a1) := by
  unfold Sys2Proof.Machine.State.railFails
  try dsimp only
  repeat'
      first
      | with_reducible assumption | with_reducible refine Keeps.modOptics _ _ ?_ | with_reducible refine Keeps.raise _ _ ?_
      | with_reducible refine Keeps.ite ?_ ?_ | intro _ | split

theorem Keeps.bootLasers {s0 : State} (s : State) (f : StartFacts) (h : Keeps s0 s) : Keeps s0 (State.bootLasers s f) := by
  unfold Sys2Proof.Machine.State.bootLasers
  try dsimp only
  repeat'
      first
      | with_reducible assumption | with_reducible refine Keeps.setBoot _ ?_ | with_reducible refine Keeps.railFails _ _ ?_
      | with_reducible refine Keeps.checkSpare _ _ _ ?_ | with_reducible refine Keeps.startLaser _ _ _ ?_ | with_reducible refine Keeps.foldl _ _ _ ?_ ?_
      | intro _

theorem Keeps.bootTest {s0 : State} (s : State) (f : StartFacts) (h : Keeps s0 s) : Keeps s0 (State.bootTest s f) := by
  unfold Sys2Proof.Machine.State.bootTest
  try dsimp only
  repeat'
      first
      | with_reducible assumption | with_reducible refine Keeps.setBoot _ ?_ | with_reducible refine Keeps.marginFails _ _ _ ?_
      | with_reducible refine KeepsP.of (Keeps.marginFails _ _ _ ?_) (by assumption) | with_reducible refine KeepsP.fst (Keeps.marginFails _ _ _ ?_)
      | with_reducible refine Keeps.retireCore _ _ _ _ ?_ | with_reducible refine Keeps.raiseDrift _ _ ?_ | with_reducible refine Keeps.failCore _ _ _ _ ?_
      | with_reducible refine Keeps.mapChanged _ ?_ | with_reducible refine Keeps.foldl _ _ _ ?_ ?_ | with_reducible refine Keeps.ite ?_ ?_ | intro _

theorem Keeps.loadInventory {s0 : State} (s : State) (h : Keeps s0 s) : Keeps s0 (State.loadInventory s) := by
  unfold Sys2Proof.Machine.State.loadInventory
  try dsimp only
  repeat'
      first
      | with_reducible assumption | with_reducible refine Keeps.setInv _ ?_ | with_reducible refine Keeps.setMem _ ?_ ?_
      | with_reducible refine Keeps.modLink _ _ _ ?_ | with_reducible refine Keeps.countCores _ ?_ | with_reducible refine Keeps.foldl _ _ _ ?_ ?_
      | with_reducible refine Keeps.ite ?_ ?_ | exact fun (k : Safety.MemoryCanonical _) => k | intro _

theorem Keeps.bootInventory {s0 : State} (s : State) (h : Keeps s0 s) : Keeps s0 (State.bootInventory s) := by
  unfold Sys2Proof.Machine.State.bootInventory
  try dsimp only
  repeat'
      first
      | with_reducible assumption | with_reducible refine Keeps.setBoot _ ?_ | with_reducible refine Keeps.loadInventory _ ?_
      | with_reducible refine Keeps.putLogs _ _ ?_ | with_reducible refine Keeps.advanceSession _ ?_ | with_reducible refine Keeps.putDrift _ ?_
      | with_reducible refine Keeps.ite ?_ ?_

theorem Keeps.bootReady {s0 : State} (s : State) (f : StartFacts) (h : Keeps s0 s) : Keeps s0 (State.bootReady s f) := by
  unfold Sys2Proof.Machine.State.bootReady
  try dsimp only
  repeat'
      first
      | with_reducible assumption | with_reducible refine Keeps.setBoot _ ?_ | with_reducible refine Keeps.setPhase _ ?_ ?_
      | with_reducible refine Keeps.setPins _ ?_ ?_ | with_reducible refine Keeps.updateCap _ ?_ | with_reducible refine Keeps.raiseSubs _ _ ?_
      | with_reducible refine Keeps.sendStatus _ ?_ | with_reducible refine Keeps.restCores _ _ ?_ | with_reducible refine Keeps.setClocks _ ?_
      | with_reducible refine Keeps.sbSet _ _ ?_ | with_reducible refine Keeps.foldl _ _ _ ?_ ?_ | with_reducible refine Keeps.ite ?_ ?_ | intro _ | split
      | dsimp only | exact Or.inr (Or.inl rfl) | exact Or.inr rfl | simp

theorem Keeps.bootStep {s0 : State} (s : State) (h : Keeps s0 s) : Keeps s0 (State.bootStep s) := by
  unfold Sys2Proof.Machine.State.bootStep
  try dsimp only
  repeat'
      first
      | with_reducible assumption | with_reducible refine Keeps.bootReady _ _ ?_ | with_reducible refine Keeps.bootInventory _ ?_
      | with_reducible refine Keeps.bootTest _ _ ?_ | with_reducible refine Keeps.bootLasers _ _ ?_ | with_reducible refine Keeps.bootTrain _ _ ?_
      | with_reducible refine Keeps.bootImage _ ?_ | with_reducible refine Keeps.bootRecords _ ?_ | with_reducible refine Keeps.bootSettings _ ?_
      | with_reducible refine Keeps.ite ?_ ?_ | split

theorem Keeps.meterResume {s0 : State} (s : State) (h : Keeps s0 s) : Keeps s0 (State.meterResume s) := by
  unfold Sys2Proof.Machine.State.meterResume
  try dsimp only
  repeat'
      first
      | with_reducible assumption | with_reducible refine Keeps.emitRecord _ _ _ ?_ | with_reducible refine Keeps.modMeter _ _ ?_
      | with_reducible refine Keeps.raise _ _ ?_ | with_reducible refine Keeps.ite ?_ ?_

theorem Keeps.powerOn {s0 : State} (s : State) (f : StartFacts) (h : Keeps s0 s) : Keeps s0 (State.powerOn s f) := by
  unfold Sys2Proof.Machine.State.powerOn
  try dsimp only
  repeat'
      first
      | with_reducible assumption | with_reducible refine Keeps.setNowUs _ ?_ | with_reducible refine Keeps.setPins _ ?_ ?_
      | with_reducible refine Keeps.setFlash _ ?_ | with_reducible refine Keeps.setBoot _ ?_ | with_reducible refine Keeps.meterResume _ ?_
      | with_reducible refine Keeps.haltBoot _ _ ?_ | with_reducible refine Keeps.railsOff _ _ ?_ | with_reducible refine Keeps.updateCap _ ?_
      | with_reducible refine Keeps.ite ?_ ?_ | split | dsimp only | exact Or.inr (Or.inl rfl)

theorem Keeps.execPowerUp {s0 : State} (f : StartFacts) (s : State) (h : Keeps s0 s) : KeepsR s0 (execPowerUp f s) := by
  unfold Sys2Proof.Machine.execPowerUp
  try dsimp only
  repeat' first | with_reducible assumption | with_reducible refine Keeps.powerOn _ _ ?_ | with_reducible refine KeepsR.next ?_ | split

theorem Keeps.execRestartDelayExpiry {s0 : State} (f : StartFacts) (s : State) (h : Keeps s0 s) : KeepsR s0 (execRestartDelayExpiry f s) := by
  unfold Sys2Proof.Machine.execRestartDelayExpiry
  try dsimp only
  repeat' first | with_reducible assumption | with_reducible refine Keeps.powerOn _ _ ?_ | with_reducible refine KeepsR.next ?_ | split

theorem Keeps.execPowerLoss {s0 : State} (s : State) (h : Keeps s0 s) : KeepsR s0 (execPowerLoss s) := by
  unfold Sys2Proof.Machine.execPowerLoss
  try dsimp only
  repeat'
      first
      | with_reducible assumption | with_reducible refine Keeps.setPins _ ?_ ?_ | with_reducible refine Keeps.setFlash _ ?_
      | with_reducible refine Keeps.modMeter _ _ ?_ | with_reducible refine Keeps.railsOff _ _ ?_ | with_reducible refine Keeps.modTag _ _ ?_
      | with_reducible refine KeepsR.next ?_ | intro _ | split | dsimp only | exact Or.inr (Or.inl rfl)

theorem Keeps.commitImage {s0 : State} (s : State) (h : Keeps s0 s) : Keeps s0 (State.commitImage s) := by
  unfold Sys2Proof.Machine.State.commitImage
  try dsimp only
  repeat'
      first
      | with_reducible assumption | with_reducible refine Keeps.setBoot _ ?_ | with_reducible refine Keeps.setFlash _ ?_
      | with_reducible refine Keeps.raise _ _ ?_ | with_reducible refine Keeps.ite ?_ ?_

theorem Keeps.writeBootCtrl {s0 : State} (s : State) (v : Word) (h : Keeps s0 s) : Keeps s0 (State.writeBootCtrl s v) := by
  unfold Sys2Proof.Machine.State.writeBootCtrl
  try dsimp only
  repeat'
      first
      | with_reducible assumption | with_reducible refine Keeps.setBoot _ ?_ | with_reducible refine Keeps.commitImage _ ?_
      | with_reducible refine Keeps.enterUpdate _ ?_ | with_reducible refine Keeps.ite ?_ ?_

theorem Keeps.execUpdate {s0 : State} (v : Word) (s : State) (h : Keeps s0 s) : KeepsR s0 (execUpdate v s) := by
  unfold Sys2Proof.Machine.execUpdate
  try dsimp only
  repeat' first | with_reducible assumption | with_reducible refine Keeps.writeBootCtrl _ _ ?_ | with_reducible refine KeepsR.next ?_

theorem Keeps.execSbBootCommit {s0 : State} (v : Word) (s : State) (h : Keeps s0 s) : KeepsR s0 (execSbBootCommit v s) := by
  unfold Sys2Proof.Machine.execSbBootCommit
  try dsimp only
  repeat' first | with_reducible assumption | with_reducible refine Keeps.writeBootCtrl _ _ ?_ | with_reducible refine KeepsR.next ?_

theorem Keeps.execSbBootAbort {s0 : State} (v : Word) (s : State) (h : Keeps s0 s) : KeepsR s0 (execSbBootAbort v s) := by
  unfold Sys2Proof.Machine.execSbBootAbort
  try dsimp only
  repeat' first | with_reducible assumption | with_reducible refine Keeps.writeBootCtrl _ _ ?_ | with_reducible refine KeepsR.next ?_

theorem Keeps.execSbBootDataWrite {s0 : State} (data : Bytes) (s : State) (h : Keeps s0 s) : KeepsR s0 (execSbBootDataWrite data s) := by
  unfold Sys2Proof.Machine.execSbBootDataWrite
  try dsimp only
  repeat'
      first
      | with_reducible assumption | with_reducible refine Keeps.setFlash _ ?_ | with_reducible refine Keeps.sbSet _ _ ?_
      | with_reducible refine KeepsR.next ?_ | split

theorem Keeps.rampIssue {s0 : State} (s : State) (h : Keeps s0 s) : Keeps s0 (State.rampIssue s) := by
  unfold Sys2Proof.Machine.State.rampIssue
  try dsimp only
  repeat'
      first
      | with_reducible assumption | with_reducible refine Keeps.setCores _ ?_ ?_ | with_reducible refine Keeps.ite ?_ ?_ | intro _ | split | dsimp only
      | simp

theorem Keeps.idle {s0 : State} (s : State) (h : Keeps s0 s) : Keeps s0 (State.idle s) := by
  unfold Sys2Proof.Machine.State.idle
  try dsimp only
  repeat'
      first
      | with_reducible assumption | with_reducible refine Keeps.rampIssue _ ?_ | with_reducible refine Keeps.bootStep _ ?_
      | with_reducible refine Keeps.commitCloses _ ?_ | with_reducible refine Keeps.finishWarm _ ?_ | with_reducible refine Keeps.ackLinks _ ?_
      | with_reducible refine Keeps.tick _ ?_

theorem Keeps.tagAnswer {s0 : State} (s : State) (b : Bytes) (h : Keeps s0 s) : Keeps s0 (State.tagAnswer s b) := by
  unfold Sys2Proof.Machine.State.tagAnswer
  try dsimp only
  repeat' first | with_reducible assumption | with_reducible refine Keeps.emit _ _ ?_

theorem Keeps.tagError {s0 : State} (s : State) (code : Byte) (h : Keeps s0 s) : Keeps s0 (State.tagError s code) := by
  unfold Sys2Proof.Machine.State.tagError
  try dsimp only
  repeat' first | with_reducible assumption | with_reducible refine Keeps.emit _ _ ?_

theorem Keeps.inField {s0 : State} (s : State) (f : State → State) (h : Keeps s0 s) (hf1 : ∀ y0, Keeps s0 y0 → Keeps s0 (f y0)) : Keeps s0 (State.inField s f) := by
  unfold Sys2Proof.Machine.State.inField
  try dsimp only
  repeat' first | with_reducible assumption | with_reducible refine hf1 _ ?_ | with_reducible refine Keeps.ite ?_ ?_

theorem Keeps.execInventory {s0 : State} (s : State) (h : Keeps s0 s) : KeepsR s0 (execInventory s) := by
  unfold Sys2Proof.Machine.execInventory
  try dsimp only
  repeat'
      first
      | with_reducible assumption | with_reducible refine Keeps.inField _ _ ?_ ?_ | with_reducible refine Keeps.tagAnswer _ _ ?_
      | with_reducible refine KeepsR.next ?_ | intro _ | split

theorem Keeps.execStayQuiet {s0 : State} (s : State) (h : Keeps s0 s) : KeepsR s0 (execStayQuiet s) := by
  unfold Sys2Proof.Machine.execStayQuiet
  try dsimp only
  repeat'
      first
      | with_reducible assumption | with_reducible refine Keeps.inField _ _ ?_ ?_ | with_reducible refine Keeps.modTag _ _ ?_
      | with_reducible refine KeepsR.next ?_ | intro _

theorem Keeps.execSelect {s0 : State} (s : State) (h : Keeps s0 s) : KeepsR s0 (execSelect s) := by
  unfold Sys2Proof.Machine.execSelect
  try dsimp only
  repeat'
      first
      | with_reducible assumption | with_reducible refine Keeps.inField _ _ ?_ ?_ | with_reducible refine Keeps.tagAnswer _ _ ?_
      | with_reducible refine Keeps.modTag _ _ ?_ | with_reducible refine KeepsR.next ?_ | intro _

theorem Keeps.execResetToReady {s0 : State} (s : State) (h : Keeps s0 s) : KeepsR s0 (execResetToReady s) := by
  unfold Sys2Proof.Machine.execResetToReady
  try dsimp only
  repeat'
      first
      | with_reducible assumption | with_reducible refine Keeps.inField _ _ ?_ ?_ | with_reducible refine Keeps.tagAnswer _ _ ?_
      | with_reducible refine Keeps.modTag _ _ ?_ | with_reducible refine KeepsR.next ?_ | intro _

theorem Keeps.execReadSingleBlock {s0 : State} (block : BitVec 11) (s : State) (h : Keeps s0 s) : KeepsR s0 (execReadSingleBlock block s) := by
  unfold Sys2Proof.Machine.execReadSingleBlock
  try dsimp only
  repeat'
      first
      | with_reducible assumption | with_reducible refine Keeps.inField _ _ ?_ ?_ | with_reducible refine Keeps.tagAnswer _ _ ?_
      | with_reducible refine KeepsR.next ?_ | intro _

theorem Keeps.execReadMultipleBlocks {s0 : State} (block : BitVec 11) (count : Nat) (s : State) (h : Keeps s0 s) : KeepsR s0 (execReadMultipleBlocks block count s) := by
  unfold Sys2Proof.Machine.execReadMultipleBlocks
  try dsimp only
  repeat'
      first
      | with_reducible assumption | with_reducible refine Keeps.inField _ _ ?_ ?_ | with_reducible refine Keeps.tagError _ _ ?_
      | with_reducible refine Keeps.tagAnswer _ _ ?_ | with_reducible refine KeepsR.next ?_ | intro _ | split

theorem Keeps.execWriteSingleBlock {s0 : State} (block : BitVec 11) (data : Word) (s : State) (h : Keeps s0 s) : KeepsR s0 (execWriteSingleBlock block data s) := by
  unfold Sys2Proof.Machine.execWriteSingleBlock
  try dsimp only
  repeat'
      first
      | with_reducible assumption | with_reducible refine Keeps.inField _ _ ?_ ?_ | with_reducible refine Keeps.tagError _ _ ?_
      | with_reducible refine Keeps.tagAnswer _ _ ?_ | with_reducible refine Keeps.modTag _ _ ?_ | with_reducible refine KeepsR.next ?_ | intro _ | split

theorem Keeps.execGetSystemInformation {s0 : State} (s : State) (h : Keeps s0 s) : KeepsR s0 (execGetSystemInformation s) := by
  unfold Sys2Proof.Machine.execGetSystemInformation
  try dsimp only
  repeat'
      first
      | with_reducible assumption | with_reducible refine Keeps.inField _ _ ?_ ?_ | with_reducible refine Keeps.tagAnswer _ _ ?_
      | with_reducible refine KeepsR.next ?_ | intro _

theorem Keeps.execRfFieldPresent {s0 : State} (s : State) (h : Keeps s0 s) : KeepsR s0 (execRfFieldPresent s) := by
  unfold Sys2Proof.Machine.execRfFieldPresent
  try dsimp only
  repeat' first | with_reducible assumption | with_reducible refine Keeps.modTag _ _ ?_ | with_reducible refine KeepsR.next ?_ | intro _ | split

theorem Keeps.execFieldCollapse {s0 : State} (s : State) (h : Keeps s0 s) : KeepsR s0 (execFieldCollapse s) := by
  unfold Sys2Proof.Machine.execFieldCollapse
  try dsimp only
  repeat' first | with_reducible assumption | with_reducible refine Keeps.modTag _ _ ?_ | with_reducible refine KeepsR.next ?_

theorem Keeps.execStatusRecordRetry {s0 : State} (s : State) (h : Keeps s0 s) : KeepsR s0 (execStatusRecordRetry s) := by
  unfold Sys2Proof.Machine.execStatusRecordRetry
  try dsimp only
  repeat'
      first
      | with_reducible assumption | with_reducible refine Keeps.modTag _ _ ?_ | with_reducible refine Keeps.raise _ _ ?_
      | with_reducible refine KeepsR.next ?_ | intro _ | split

theorem Keeps.clearAcct {s0 : State} (s : State) (part : Bool) (i : Nat) (v : Word) (h : Keeps s0 s) : Keeps s0 (State.clearAcct s part i v) := by
  unfold Sys2Proof.Machine.State.clearAcct
  try dsimp only
  repeat'
      first
      | with_reducible assumption | with_reducible refine Keeps.modQueue _ _ _ ?_ | with_reducible refine Keeps.modPart _ _ _ ?_
      | with_reducible refine Keeps.ite ?_ ?_

theorem Keeps.execAcctClear {s0 : State} (part : Bool) (i : Fin 64) (v : Word) (s : State) (h : Keeps s0 s) : KeepsR s0 (execAcctClear part i v s) := by
  unfold Sys2Proof.Machine.execAcctClear
  try dsimp only
  repeat'
      first
      | with_reducible assumption | with_reducible refine Keeps.clearAcct _ _ _ _ ?_ | with_reducible refine Keeps.bar0 _ _ ?_ ?_
      | with_reducible refine KeepsR.next ?_ | intro _

theorem Keeps.writeHostStatus {s0 : State} (s : State) (v : Word) (h : Keeps s0 s) : Keeps s0 (State.writeHostStatus s v) := by
  unfold Sys2Proof.Machine.State.writeHostStatus
  try dsimp only
  repeat' first | with_reducible assumption | with_reducible refine Keeps.setLink _ ?_ ?_ | dsimp only | exact Or.inr rfl | simp

theorem Keeps.writeId {s0 : State} (s : State) (o : Nat) (v : Word) (h : Keeps s0 s) : Keeps s0 (State.writeId s o v) := by
  unfold Sys2Proof.Machine.State.writeId
  try dsimp only
  repeat'
      first
      | with_reducible assumption | with_reducible refine Keeps.setHle _ ?_ | with_reducible refine Keeps.writeHostStatus _ _ ?_
      | with_reducible refine Keeps.writeRind _ _ ?_ | with_reducible refine Keeps.writeHostCtrl _ _ _ ?_ | with_reducible refine Keeps.writeHle _ _ _ ?_
      | with_reducible refine Keeps.writeLevel _ _ ?_ | with_reducible refine Keeps.ite ?_ ?_

theorem Keeps.writeQueueCfg {s0 : State} (s : State) (q : Nat) (v : Word) (h : Keeps s0 s) : Keeps s0 (State.writeQueueCfg s q v) := by
  unfold Sys2Proof.Machine.State.writeQueueCfg
  try dsimp only
  repeat'
      first
      | with_reducible assumption | with_reducible refine Keeps.kick _ ?_ | with_reducible refine Keeps.fetchAll _ _ _ ?_
      | with_reducible refine Keeps.modQueue _ _ _ ?_ | with_reducible refine Keeps.ite ?_ ?_

theorem Keeps.writeBase {s0 : State} (s : State) (q : Nat) (f : Queue → Queue) (h : Keeps s0 s) : Keeps s0 (State.writeBase s q f) := by
  unfold Sys2Proof.Machine.State.writeBase
  try dsimp only
  repeat' first | with_reducible assumption | with_reducible refine Keeps.modQueue _ _ _ ?_ | with_reducible refine Keeps.ite ?_ ?_

theorem Keeps.writeQueue {s0 : State} (s : State) (q o : Nat) (v : Word) (h : Keeps s0 s) : Keeps s0 (State.writeQueue s q o v) := by
  unfold Sys2Proof.Machine.State.writeQueue
  try dsimp only
  repeat'
      first
      | with_reducible assumption | with_reducible refine Keeps.writeBase _ _ _ ?_ | with_reducible refine Keeps.writeQueueCfg _ _ _ ?_
      | with_reducible refine Keeps.clearAcct _ _ _ _ ?_ | with_reducible refine Keeps.ringRoomNow _ _ ?_ | with_reducible refine Keeps.writeKill _ _ _ ?_
      | with_reducible refine Keeps.doorbell _ _ _ ?_ | with_reducible refine Keeps.settle _ ?_ | with_reducible refine Keeps.modQueue _ _ _ ?_
      | with_reducible refine Keeps.ite ?_ ?_

theorem Keeps.writePart {s0 : State} (s : State) (p o : Nat) (v : Word) (h : Keeps s0 s) : Keeps s0 (State.writePart s p o v) := by
  unfold Sys2Proof.Machine.State.writePart
  try dsimp only
  repeat'
      first
      | with_reducible assumption | with_reducible refine Keeps.clearAcct _ _ _ _ ?_ | with_reducible refine Keeps.writeLandHead _ _ _ ?_
      | with_reducible refine Keeps.writeLand _ _ _ ?_ | with_reducible refine Keeps.writeDigest _ _ _ ?_
      | with_reducible refine Keeps.writeStreamTail _ _ _ ?_ | with_reducible refine Keeps.writeAxes _ _ _ ?_
      | with_reducible refine Keeps.writeWin _ _ _ ?_ | with_reducible refine Keeps.modStream _ _ _ ?_ | with_reducible refine Keeps.modPart _ _ _ ?_
      | with_reducible refine Keeps.ite ?_ ?_

theorem Keeps.writePartAll {s0 : State} (s : State) (o : Nat) (v : Word) (h : Keeps s0 s) : Keeps s0 (State.writePartAll s o v) := by
  unfold Sys2Proof.Machine.State.writePartAll
  try dsimp only
  repeat'
      first
      | with_reducible assumption | with_reducible refine Keeps.setMem _ ?_ ?_ | with_reducible refine Keeps.writeLend _ _ ?_
      | with_reducible refine Keeps.writeT3 _ _ ?_ | with_reducible refine Keeps.writeAdmit _ _ ?_ | with_reducible refine Keeps.settle _ ?_
      | with_reducible refine Keeps.modAdm _ _ ?_ | with_reducible refine Keeps.ite ?_ ?_ | exact fun (k : Safety.MemoryCanonical _) => k

theorem Keeps.writePwr {s0 : State} (s : State) (o : Nat) (v : Word) (h : Keeps s0 s) : Keeps s0 (State.writePwr s o v) := by
  unfold Sys2Proof.Machine.State.writePwr
  try dsimp only
  repeat'
      first
      | with_reducible assumption | with_reducible refine Keeps.writeIdle _ _ ?_ | with_reducible refine Keeps.writeMode _ _ ?_
      | with_reducible refine Keeps.writeCap _ _ ?_ | with_reducible refine Keeps.writePeak _ _ ?_ | with_reducible refine Keeps.modPower _ _ ?_
      | with_reducible refine Keeps.ite ?_ ?_

theorem Keeps.writeErrStatus {s0 : State} (s : State) (v : Word) (h : Keeps s0 s) : Keeps s0 (State.writeErrStatus s v) := by
  unfold Sys2Proof.Machine.State.writeErrStatus
  try dsimp only
  repeat' first | with_reducible assumption | with_reducible refine Keeps.modErr _ _ ?_

theorem Keeps.writeErr {s0 : State} (s : State) (o : Nat) (v : Word) (h : Keeps s0 s) : Keeps s0 (State.writeErr s o v) := by
  unfold Sys2Proof.Machine.State.writeErr
  try dsimp only
  repeat'
      first
      | with_reducible assumption | with_reducible refine Keeps.writeErrStatus _ _ ?_ | with_reducible refine Keeps.writeTail _ _ ?_
      | with_reducible refine Keeps.writeTest _ _ ?_ | with_reducible refine Keeps.modErr _ _ ?_ | with_reducible refine Keeps.ite ?_ ?_

theorem Keeps.writePortPage {s0 : State} (s : State) (a1 o : Nat) (v : Word) (h : Keeps s0 s) : Keeps s0 (State.writePortPage s a1 o v) := by
  unfold Sys2Proof.Machine.State.writePortPage
  try dsimp only
  repeat'
      first
      | with_reducible assumption | with_reducible refine Keeps.clearCounters _ _ _ ?_ | with_reducible refine Keeps.writePort _ _ _ _ ?_
      | with_reducible refine Keeps.writePortCtrl _ _ _ _ ?_ | with_reducible refine Keeps.pumpAll _ ?_ | with_reducible refine Keeps.modPort _ _ _ ?_
      | with_reducible refine Keeps.ite ?_ ?_

theorem Keeps.validChanged {s0 : State} (s : State) (was : Bool) (h : Keeps s0 s) : Keeps s0 (State.validChanged s was) := by
  unfold Sys2Proof.Machine.State.validChanged
  try dsimp only
  repeat'
      first
      | with_reducible assumption | with_reducible refine Keeps.pumpAll _ ?_ | with_reducible refine Keeps.unqueue _ _ _ ?_
      | with_reducible refine Keeps.foldl _ _ _ ?_ ?_ | with_reducible refine Keeps.ite ?_ ?_ | intro _

theorem Keeps.writeFabOwn {s0 : State} (s : State) (o : Nat) (v : Word) (h : Keeps s0 s) : Keeps s0 (State.writeFabOwn s o v) := by
  unfold Sys2Proof.Machine.State.writeFabOwn
  try dsimp only
  repeat'
      first
      | with_reducible assumption | with_reducible refine Keeps.validChanged _ _ ?_ | with_reducible refine Keeps.modFab _ _ ?_
      | with_reducible refine Keeps.ite ?_ ?_

theorem Keeps.writeFab {s0 : State} (s : State) (o : Nat) (v : Word) (h : Keeps s0 s) : Keeps s0 (State.writeFab s o v) := by
  unfold Sys2Proof.Machine.State.writeFab
  try dsimp only
  repeat'
      first
      | with_reducible assumption | with_reducible refine Keeps.writeFabOwn _ _ _ ?_ | with_reducible refine Keeps.modOptics _ _ ?_
      | with_reducible refine Keeps.modFab _ _ ?_ | with_reducible refine Keeps.ite ?_ ?_

theorem Keeps.writeSec {s0 : State} (s : State) (o : Nat) (v : Word) (h : Keeps s0 s) : Keeps s0 (State.writeSec s o v) := by
  unfold Sys2Proof.Machine.State.writeSec
  try dsimp only
  repeat'
      first
      | with_reducible assumption | with_reducible refine Keeps.mboxGo _ _ ?_ | with_reducible refine Keeps.modSec _ _ ?_
      | with_reducible refine Keeps.ite ?_ ?_

theorem Keeps.writeMeter {s0 : State} (s : State) (o : Nat) (v : Word) (h : Keeps s0 s) : Keeps s0 (State.writeMeter s o v) := by
  unfold Sys2Proof.Machine.State.writeMeter
  try dsimp only
  repeat'
      first
      | with_reducible assumption | with_reducible refine Keeps.writeSign _ _ ?_ | with_reducible refine Keeps.modMeter _ _ ?_
      | with_reducible refine Keeps.ite ?_ ?_

theorem Keeps.writeReg {s0 : State} (s : State) (off : Nat) (v : Word) (h : Keeps s0 s) : Keeps s0 (State.writeReg s off v) := by
  unfold Sys2Proof.Machine.State.writeReg
  try dsimp only
  repeat'
      first
      | with_reducible assumption | with_reducible refine Keeps.setLink _ ?_ ?_ | with_reducible refine Keeps.writeMeter _ _ _ ?_
      | with_reducible refine Keeps.writeSec _ _ _ ?_ | with_reducible refine Keeps.writeFab _ _ _ ?_ | with_reducible refine Keeps.writePortPage _ _ _ _ ?_
      | with_reducible refine Keeps.writeErr _ _ _ ?_ | with_reducible refine Keeps.writePwr _ _ _ ?_ | with_reducible refine Keeps.writePartAll _ _ _ ?_
      | with_reducible refine Keeps.writePart _ _ _ _ ?_ | with_reducible refine Keeps.writeQueue _ _ _ _ ?_ | with_reducible refine Keeps.writeId _ _ _ ?_
      | with_reducible refine Keeps.flushVec _ ?_ | with_reducible refine Keeps.ite ?_ ?_ | intro _ | split | dsimp only | exact Or.inr rfl | simp

theorem Keeps.hostWriteReg {s0 : State} (s : State) (off : Nat) (v : Word) (h : Keeps s0 s) : Keeps s0 (State.hostWriteReg s off v) := by
  unfold Sys2Proof.Machine.State.hostWriteReg
  try dsimp only
  repeat'
      first
      | with_reducible assumption | with_reducible refine Keeps.writeReg _ _ _ ?_ | with_reducible refine Keeps.hostAccess _ ?_
      | with_reducible refine Keeps.wakeNow _ ?_ | with_reducible refine Keeps.ite ?_ ?_

theorem Keeps.clearSbEvent {s0 : State} (s : State) (v : Word) (h : Keeps s0 s) : Keeps s0 (State.clearSbEvent s v) := by
  unfold Sys2Proof.Machine.State.clearSbEvent
  try dsimp only
  repeat' first | with_reducible assumption | with_reducible refine Keeps.modSteward _ _ ?_

theorem Keeps.writeAlertEn {s0 : State} (s : State) (v : Word) (h : Keeps s0 s) : Keeps s0 (State.writeAlertEn s v) := by
  unfold Sys2Proof.Machine.State.writeAlertEn
  try dsimp only
  repeat' first | with_reducible assumption | with_reducible refine Keeps.modSteward _ _ ?_

theorem Keeps.smbusWrite {s0 : State} (s : State) (code : Nat) (data : Bytes) (pecOk : Bool) (h : Keeps s0 s) : KeepsR s0 (State.smbusWrite s code data pecOk) := by
  unfold Sys2Proof.Machine.State.smbusWrite
  try dsimp only
  repeat'
      first
      | with_reducible assumption | with_reducible refine Keeps.writeAlertEn _ _ ?_ | with_reducible refine Keeps.clearSbEvent _ _ ?_
      | with_reducible refine Keeps.execSbBootDataWrite _ _ ?_ | with_reducible refine Keeps.execUpdate _ _ ?_
      | with_reducible refine Keeps.execRetest _ _ _ ?_ | with_reducible refine Keeps.execSbCapWrite _ _ ?_ | with_reducible refine Keeps.sbSet _ _ ?_
      | with_reducible refine KeepsR.next ?_ | split

theorem Keeps.writeConfig {s0 : State} (s : State) (a1 : CfgReg) (v : Word) (h : Keeps s0 s) : Keeps s0 (State.writeConfig s a1 v) := by
  unfold Sys2Proof.Machine.State.writeConfig
  try dsimp only
  repeat'
      first
      | with_reducible assumption | with_reducible refine Keeps.setLink _ ?_ ?_ | with_reducible refine Keeps.ite ?_ ?_ | intro _ | split | dsimp only
      | exact Or.inr rfl | simp

theorem Keeps.execRegisterWrite {s0 : State} (w : RegWrite) (s : State) (h : Keeps s0 s) : KeepsR s0 (execRegisterWrite w s) := by
  unfold Sys2Proof.Machine.execRegisterWrite
  try dsimp only
  repeat'
      first
      | with_reducible assumption | with_reducible refine Keeps.writeConfig _ _ _ ?_ | with_reducible refine Keeps.smbusWrite _ _ _ _ ?_
      | with_reducible refine Keeps.hostWriteReg _ _ _ ?_ | with_reducible refine KeepsR.next ?_ | split

end Sys2Proof.Machine
end

