-- ==== Sys2Proof/Laws/Tile.lean ====
section
/-! SUPPORT. Laws of the vector engines: registers and buffers after an update, and what one tile-program instruction leaves (R138 to R140). -/

namespace Sys2Proof.Machine

/-- Dropping the entries of one key does not change what another key finds. -/
theorem find_filter_ne {α : Type} (l : List (Nat × α)) (r x : Nat) (h : x ≠ r) :
    (l.filter fun y => y.1 != r).find? (fun y => y.1 == x) = l.find? fun y => y.1 == x := by
  induction l with
  | nil => rfl
  | cons a l ih =>
    by_cases h1 : a.1 = r
    · rw [List.filter_cons_of_neg (by simp [h1]), ih, List.find?_cons_of_neg]
      simp only [h1, beq_iff_eq]; omega
    · rw [List.filter_cons_of_pos (by simp [h1])]
      by_cases h2 : a.1 = x
      · rw [List.find?_cons_of_pos (by simp [h2]), List.find?_cons_of_pos (by simp [h2])]
      · rw [List.find?_cons_of_neg (by simp [h2]), List.find?_cons_of_neg (by simp [h2]), ih]

/-- A tile that starts or goes on has no fault. -/
@[simp] theorem TileCtx.fresh_fault (c : TileCtx) : c.fresh.fault = false := by
  unfold TileCtx.fresh
  split
  · rfl
  · rename_i h; cases hf : c.fault <;> simp_all

/-- The tile an instruction runs on has no fault yet (R140). -/
@[simp] theorem State.openTile_fault (s : State) (k : Nat) : (s.openTile k).fault = false := by
  unfold State.openTile
  dsimp only
  split
  · exact TileCtx.fresh_fault _
  · split
    · exact TileCtx.fresh_fault _
    · split
      · exact TileCtx.fresh_fault _
      · rfl

@[simp] theorem TileCtx.reg_setReg_self (c : TileCtx) (r : Nat) (v : List Word) : (c.setReg r v).reg r = v := by
  unfold TileCtx.setReg TileCtx.reg
  rw [List.find?_cons_of_pos (by simp)]
  rfl

theorem TileCtx.reg_setReg_ne (c : TileCtx) (r x : Nat) (v : List Word) (h : x ≠ r) : (c.setReg r v).reg x = c.reg x := by
  unfold TileCtx.setReg TileCtx.reg
  rw [List.find?_cons_of_neg (by simp; omega), find_filter_ne _ _ _ h]

@[simp] theorem State.engine_setEngine_self (s : State) (k : Nat) (c : TileCtx) : (s.setEngine k c).engine k = c := by
  unfold State.setEngine State.engine
  rw [State.setEngines_engines, List.find?_cons_of_pos (by simp)]
  rfl

theorem State.engine_setEngine_ne (s : State) (k j : Nat) (c : TileCtx) (h : j ≠ k) : (s.setEngine k c).engine j = s.engine j := by
  unfold State.setEngine State.engine
  rw [State.setEngines_engines, List.find?_cons_of_neg (by simp; omega), find_filter_ne _ _ _ h]

/-- Counting an instruction leaves the registers. -/
@[simp] theorem TileCtx.reg_advance (c : TileCtx) (r : Nat) : c.advance.reg r = c.reg r := rfl

@[simp] theorem TileCtx.done_advance (c : TileCtx) : c.advance.done = c.done + 1 := rfl

@[simp] theorem TileCtx.done_setReg (c : TileCtx) (r : Nat) (v : List Word) : (c.setReg r v).done = c.done := rfl

@[simp] theorem TileCtx.fault_setReg (c : TileCtx) (r : Nat) (v : List Word) : (c.setReg r v).fault = c.fault := rfl

/-- A core that is not in service runs no instruction (R24). -/
theorem State.tileOn_off (s : State) (k op : Nat) (a : TileArgs) (hc : s.coreOn k = false) : s.tileOn k op a = s := by
  unfold State.tileOn
  simp only [hc, Bool.not_false, if_true]

/-- An instruction that does not fault changes the engine of its core, and nothing else (R138, R140). -/
theorem State.tileOn_next (s : State) (k op : Nat) (a : TileArgs) (hc : s.coreOn k = true) (h : (tileStep op a (s.openTile k)).fault = false) :
    s.tileOn k op a = s.setEngine k (tileStep op a (s.openTile k)) := by
  unfold State.tileOn
  simp only [hc, h, Bool.not_true, Bool.false_eq_true, if_false]

/-- An instruction that faults ends the command that holds its core with 0x0107 (R140). -/
theorem State.tileOn_fault (s : State) (k op : Nat) (a : TileArgs) (hc : s.coreOn k = true) (h : (tileStep op a (s.openTile k)).fault = true) :
    s.tileOn k op a = match ((s.core k).logical).bind s.holder with
      | some q => ((s.setEngine k (tileStep op a (s.openTile k))).endCmd q 0x0107).settle
      | none => s.setEngine k (tileStep op a (s.openTile k)) := by
  unfold State.tileOn
  simp only [hc, h, Bool.not_true, Bool.false_eq_true, if_false, if_true]
  rfl

end Sys2Proof.Machine
end

