-- ==== Sys2Proof/Tests/Slice0.lean ====
section
/-! SUPPORT. Small tests of single commands, ill-formed terms that the check refuses, and for every statement with hypotheses a state and operands that meet them. -/

namespace Sys2Proof.Tests

open Sys2Proof.Machine

set_option Elab.async false

/-! The states that the tests start from. -/

/-- The module running, its host link in L0 and architecture level 1 in force. -/
def runs : State :=
  ((State.reset.setPhase .run).setLink { State.reset.link with st := .l0, cfgOk := true, cache := true, hostLevel := 1, effLevel := 1 }).setPins
    { State.reset.pins with vin := true, ready := true }

/-- A check of the next state of one command. -/
def after (c : Instr) (s : State) (p : State → Bool) : Bool := match exec c s with | .next t => p t | _ => false

/-- Partition 0 admitted with cores 0 to 3 and queue 0, slabs 0 and 1 mapped in T1, its rings at 0x10000 and 0x20000 of host memory. -/
def parted : State :=
  let s := runs.setCores ((List.range 864).map fun n => { st := factoryCore n, logical := factoryLogical n })
  let s := s.setParts (updAt s.parts 0 fun p => { p with
    admitted := true, cores := 4, general := [0, 1, 2, 3], queues := 1, res := [40, 40, 8, 8], stageT1 := 4, stageT2 := 4 })
  let s := s.setQueues (updAt s.queues 0 fun x => { x with enable := true, assigned := true, sqLo := 0x10000, cqLo := 0x20000 })
  s.setMem { s.mem with
    capT1 := 400, capT2 := 4000, sliceCap := [100, 100, 100, 100]
    slabs := [{ key := 0, st := .resident, tier := some .t1 }, { key := 1, st := .resident, tier := some .t1, frame := 1 }]
    regions := [{ part := 0, base := 0, slabs := 2 }] }

/-- A command entry with a code, a tag and a body from byte 32 (R256). -/
def entry (op tag : Nat) (body : Bytes) : Bytes :=
  [1, 0x40] ++ leBytes 2 128 ++ [BitVec.ofNat 8 op, 0] ++ leBytes 2 0 ++ leBytes 4 0 ++ leBytes 4 0 ++ leBytes 8 tag ++ leBytes 8 0 ++ body ++
    leBytes (96 - body.length) 0

/-- A started head command. -/
def startedCmd (e : Bytes) : Cmd := { entry := e, phase := .started }

/-- Queue 0 of a state holds these commands. -/
def withCmds (s : State) (l : List Cmd) : State := s.setQueues (updAt s.queues 0 fun x => { x with fifo := l })

/-- Queue 0 holds one started command with this entry. -/
def started (s : State) (e : Bytes) : State := withCmds s [startedCmd e]

/-- The cells of a byte string that do not read as an unlisted byte does. -/
def block (a : Nat) (b : Bytes) : List Host.Cell := (b.zipIdx.map fun x => (a + x.2, x.1)).filter fun c => c.2 != 0

/-- The device range with these bytes in it, lowest address first, and nothing else. -/
def withDev (s : State) (l : List (Nat × Bytes)) : State := s.setDev (l.flatMap fun x => block x.1 x.2)

/-! Well-formed terms: each check refuses an ill-formed term. -/

def goodFacts : StartFacts :=
  { flashOk := true, coreFail := [], spareFail := [], pcFail := [], linkFail := [], laserFail := [], portsUp := [], readyMs := 0
    firmwareOk := true }

def header : PftHdr :=
  { port := 0, srcEp := 1, srcPart := 0, srcClass := 1, dstEp := 2, dstPart := 0, seq := 1, session := 0, tagOk := true }

def polled : PollFacts := { nak := [], arbLost := 0, clears := 0, stuck := false, trunkOk := true, segOk := [0, 1, 2] }

theorem test_wf_refuses_facts :
    (Instr.powerUp { goodFacts with coreFail := [[(800, false)]] }).wf = false ∧ (Instr.powerUp { goodFacts with spareFail := [864] }).wf = false ∧
      (Instr.powerUp { goodFacts with coreFail := [[(3, true), (3, false)]] }).wf = false ∧ (Instr.restartDelayExpiry { goodFacts with pcFail := [512] }).wf = false ∧
      (Instr.warmReset 0 { goodFacts with linkFail := [6] }).wf = false ∧ (Instr.watchdogExpiry { goodFacts with laserFail := [10] }).wf = false ∧
      (Instr.hubSramUncorrectable { goodFacts with portsUp := [16] }).wf = false ∧
      (Instr.partitionResetOverrun 0 { goodFacts with portsUp := [1, 1] }).wf = false ∧
      (Instr.sensorPoll 0 { polled with nak := [11] }).wf = false ∧ (Instr.retest 0 { polled with segOk := [3] }).wf = false ∧
      (Instr.coreFault 0 .parity { fail := [864] }).wf = false ∧ (Instr.powerUp goodFacts).wf = true := by decide +kernel

theorem test_wf_refuses_operands :
    (Instr.doorbell 0 1 [(2 ^ 52 - 1, [0, 0])]).wf = false ∧ (Instr.registerWrite (.bar0 0x102 0 none)).wf = false ∧ (Instr.registerWrite (.bar0 0x104 0 (some 0))).wf = false ∧
      (Instr.bar0AccessInvalid 0x100 4 false).wf = false ∧ (Instr.bar0AccessInvalid 0xFFFFFF 2 false).wf = false ∧ (Instr.bar0AccessInvalid 0x101 4 true).wf = true ∧
      (Instr.creditGrant 0 0 0).wf = false ∧ (Instr.challenge [] 0 []).wf = false ∧ (Instr.getMeasurements [] 1 true []).wf = false ∧
      (Instr.landingDataWrite 0xFFFFFFF [1, 2] 0).wf = false ∧ (Instr.landingDataWrite 0 [] 0).wf = false ∧ (Instr.sbBootDataWrite (List.replicate 256 0)).wf = false ∧
      (Instr.windowTile header 0 1 0 []).wf = false ∧ (Instr.collectivePiece header 1 0 0 (List.replicate 4097 0)).wf = false ∧
      (Instr.cellarRequest header 0 0 0 3 (some [1])).wf = false ∧ (Instr.digestMessage header 0 0 [1]).wf = false := by decide +kernel

theorem test_wf_refuses_more :
    (Instr.pfcFrame ⟨0, 0, leBytes 6 1⟩ 0 [1]).wf = false ∧ (Instr.pauseFrame ⟨0, 0, [1]⟩ 0).wf = false ∧ (Instr.arpRequest 0 0 [1]).wf = false ∧ (Instr.neighbourSolicitation 0 0 [1]).wf = false ∧
      (Instr.frameReceive 0 0 { fcsOk := true, len := 0, doubleTag := false, tag := none, what := .control, dst := leBytes 6 1 }).wf = false ∧ (Instr.writeback { agent := 0 } 0 [1]).wf = false ∧
      (Instr.memoryWrite { addr := 0 } (List.replicate 513 0)).wf = false ∧ (Instr.powerWindow [{ kind := .storeLines, core := none, n := 1 }] ⟨50, 800⟩).wf = false ∧
      (Instr.readRequest { agent := 1 } 0).wf = false ∧ (Instr.ownershipRequest { agent := 3 } 0).wf = false ∧ (Instr.ownershipRequest { agent := 0, update := some (60, [1, 2, 3, 4, 5]) } 0).wf = false ∧
      (Instr.learningUpdate [(0, -1, 0)]).wf = false ∧ (Instr.readMultipleBlocks 0 257).wf = false ∧ (Instr.readMultipleBlocks 0 0).wf = false ∧
      (Instr.inFieldTestDone 0 true true { margin := [864] }).wf = false ∧ (Instr.noProgressTimeout 0 { fail := [864] }).wf = false ∧ (Instr.wakeTimeout (.core 0) { goodFacts with coreFail := [[(800, false)]] }).wf = false := by
  decide +kernel

/-- The table spells no command by bits. -/
theorem test_no_word_spells_a_command : decodeTableWord 32 0 = none ∧ (runs.withFetchWord 32 0) = runs := ⟨rfl, rfl⟩

/-! The generic statements. -/

theorem test_step_witness :
    Machine.step (runs.setPending [.pwrBrakeAssert, .wake]) = exec .pwrBrakeAssert (runs.setPending [.wake]) ∧
      (match Machine.step runs with | .next t => t.nowUs == 1 && t.pending == [] | _ => false) = true := ⟨rfl, by decide +kernel⟩

theorem test_invariants_witness :
    Memory.wf runs.mem.dev = true ∧ Memory.wf runs.mem.hostMem = true ∧ runs.link.effLevel = min 1 runs.link.hostLevel ∧ runs.link.hostLevel < 256 ∧
      runs.phase = .run ∧ runs.err.irqPend = false ∧ runs.pins.ready = true ∧
      (match Machine.step (runs.setPending [.idHostLevelWrite 0]) with | .next t => t.link.effLevel == 0 && t.pending == [] | _ => false) = true := by
  decide +kernel

/-- A write past the end of BAR2 is discarded as one of an unopened window is (R362). -/
theorem test_landing_write_past_bar2 : after (.landingDataWrite 0xFFFFFFF [1, 2] 0) runs (fun t => t.mem == runs.mem && t.link.landDiscard == 1) = true := by decide +kernel

/-! Tile programs. -/

def lanes (x : Word) : List Word := List.replicate 128 x

/-- Core 5's engine holds 3.0 in V1, 2.0 in V2, 1.0 in V3, and a mask in V4 that selects lane 0. -/
def tiled : State :=
  let c : TileCtx := { regs := [(1, lanes 0x40400000), (2, lanes 0x40000000), (3, lanes 0x3F800000)], masks := [(4, true :: List.replicate 127 false)], m := 2
                       out := List.replicate 512 0, param := leBytes 4 0x40400000, acc := [lanes 0x3F800000, lanes 0] }
  (runs.setCores (updAt runs.cores 5 fun x => { x with st := .enabled })).setEngines [(5, { c with tile := some (0, 0) })]

def targs : TileArgs := { vd := 9, va := 1, vb := 2, vc := 3, fmt := 0, rmode := 0, sat := false, idx := false, buf := 0, imm := 0 }

/-- A core that is not in service leaves the state as it is. -/
theorem test_tile_core_off : exec (.fma 6 targs) tiled = .next tiled := rfl

/-- Register 9 of core 5 after an instruction starts with these lanes. -/
def vd9 (c : Instr) (l : List Word) : Bool := after c tiled fun t => ((t.engine 5).reg 9).take l.length == l && (t.engine 5).done == 1

theorem test_tile_arithmetic_witness :
    tiled.coreOn 5 = true ∧ (Claims.engineAt tiled 5).done < 65536 ∧ runs.coreOn 6 = false ∧ vd9 (.fma 5 targs) [0x40E00000, 0x40E00000] = true ∧ vd9 (.add 5 targs) [0x40A00000] = true ∧
      vd9 (.mul 5 targs) [0x40C00000] = true ∧ vd9 (.vmax 5 targs) [0x40400000] = true ∧ vd9 (.vmin 5 targs) [0x40000000] = true ∧
      vd9 (.exp2 5 targs) [0x41000000] = true ∧ vd9 (.log2 5 { targs with va := 2 }) [0x3F800000] = true ∧
      vd9 (.rcp 5 { targs with va := 2 }) [0x3F000000] = true ∧ vd9 (.rsqrt 5 { targs with va := 3 }) [0x3F800000] = true := by
  decide +kernel

theorem test_tile_masks_witness :
    after (.cmplt 5 { targs with va := 2, vb := 1 }) tiled (fun t => (t.engine 5).lane 9 127 && (t.engine 5).done == 1) = true ∧
      vd9 (.sel 5 { targs with vc := 4 }) [0x40400000, 0x40000000] = true ∧ vd9 (.rsum 5 { targs with va := 3 }) [0x43000000] = true ∧
      vd9 (.rmax 5 targs) [0x40400000] = true := by decide +kernel

theorem test_tile_conversions_witness :
    (Claims.engineAt tiled 5).pastEnd 0 0 ((Claims.engineAt tiled 5).offset targs) = false ∧
      (Claims.engineAt tiled 5).offset { targs with buf := 2 } + 4 ≤ ((Claims.engineAt tiled 5).buf 2).length ∧
      vd9 (.cvt 5 { targs with fmt := 1 }) [0x40400000] = true ∧ vd9 (.qnt 5 targs) [0x40400000] = true ∧ vd9 (.accRead 5 targs) [0x3F800000] = true ∧
      vd9 (.ld 5 targs) [0] = true ∧ vd9 (.bcast 5 { targs with buf := 2 }) [0x40400000] = true := by decide +kernel

theorem test_tile_stores_witness :
    0 < loopLen { targs with imm := 2 } ∧
      after (.st 5 targs) tiled (fun t => (t.engine 5).out.take 4 == leBytes 4 0x40400000) = true ∧
      after (.loopRep 5 { targs with imm := 2 }) tiled (fun t => (t.engine 5).loops.head?.map (·.count) == some 2) = true ∧
      after (.endTile 5 targs) tiled (fun t => (t.engine 5).ended) = true ∧
      after (.sendTile 5 targs) tiled (fun t => (t.engine 5).sends == [List.replicate 512 0]) = true := by decide +kernel

/-- Queue 0's head command holds core 5, whose output buffer ends one byte before the access does. -/
def tileFaults : State :=
  let s := parted.setEngines [(5, { out := List.replicate 511 0 })]
  withCmds s [{ startedCmd (entry cPRODUCT 7 []) with cores := [5] }]

theorem test_tile_fault_witness :
    tileFaults.coreOn 5 = true ∧ (Claims.engineAt tileFaults 5).pastEnd 0 0 ((Claims.engineAt tileFaults 5).offset targs) = true ∧
      after (.ld 5 targs) tileFaults (fun t => (t.queue 0).fifo.isEmpty && Memory.num t.mem.hostMem 0x20006 2 == 0x0107 && Memory.num t.mem.hostMem 0x20008 8 == 7) = true ∧
      after (.st 5 targs) tileFaults (fun t => (t.queue 0).fifo.isEmpty && t.mem.dev == []) = true := by decide +kernel

/-! Queue commands. -/

/-- An operand descriptor: address, format, rows, columns, pitch, scale address (R101). -/
def opd (a f rows cols pitch scale : Nat) : Bytes :=
  [1, 0x11] ++ leBytes 2 40 ++ leBytes 6 a ++ leBytes 2 f ++ leBytes 4 rows ++ leBytes 4 cols ++ leBytes 4 pitch ++ leBytes 6 scale ++ leBytes 10 0

/-- A scale-state record of one history entry (R80). -/
def scaleState (f : Nat) : Bytes := [1, 0x10] ++ leBytes 2 36 ++ [BitVec.ofNat 8 f, 0] ++ leBytes 2 1 ++ leBytes 28 0

/-- A gradient set at 0x3000 with its accumulator at 0x8000 and gradient at 0x8080 (R157). -/
def gsetBytes : Bytes :=
  [1, 0x20] ++ leBytes 2 48 ++ leBytes 4 4 ++ leBytes 8 0x3100 ++ leBytes 8 0x3140 ++ leBytes 8 0 ++ leBytes 4 0 ++ leBytes 4 0 ++ leBytes 4 1 ++ leBytes 4 0

/-- A 1 × 1 product of 2.0 and 3.0. -/
def productData : List (Nat × Bytes) :=
  [(0x1000, opd 0x7000 1 1 1 128 0), (0x1040, opd 0x7080 1 1 1 128 0), (0x1080, opd 0x7100 0 1 1 128 0), (0x7000, leBytes 2 0x4000), (0x7080, leBytes 2 0x4040)]

/-- A gradient set of one element. -/
def gsetData : List (Nat × Bytes) :=
  [(0x3000, gsetBytes), (0x3100, opd 0x8000 3 1 1 128 0x3200), (0x3140, opd 0x8080 4 1 1 128 0x3240), (0x3200, scaleState 3), (0x3240, scaleState 4)]

/-- An optimiser step with momentum over the gradient set. -/
def stepData : List (Nat × Bytes) := gsetData ++
  [(0x4000, [1, 0x21] ++ leBytes 2 96 ++ [1, 0x41] ++ leBytes 2 0 ++ leBytes 4 0x3F000000 ++ leBytes 4 0 ++ leBytes 12 0 ++ leBytes 4 0 ++
      leBytes 6 0x3000 ++ leBytes 6 0x4100 ++ leBytes 6 0x4140 ++ leBytes 6 0 ++ leBytes 6 0x4180 ++ leBytes 6 0 ++ leBytes 28 0),
    (0x4100, opd 0x9000 0 1 1 128 0), (0x4140, opd 0x9080 1 1 1 128 0), (0x4180, opd 0x9100 4 1 1 128 0x4200), (0x4200, scaleState 4)]

/-- A chained product of one query and one key of 64 columns. -/
def chainedData : List (Nat × Bytes) :=
  [(0x5000, [1, 0x13] ++ leBytes 2 48 ++ [0, 1] ++ leBytes 14 0 ++ leBytes 4 1 ++ leBytes 6 0x5100 ++ leBytes 6 0x5100 ++ leBytes 6 0x5100 ++ leBytes 6 0),
    (0x5100, opd 0xA000 1 1 64 128 0), (0x5140, opd 0xA080 0 1 64 256 0)]

/-- A group of this module and endpoint 9. -/
def groupData : Nat × Bytes := (0x6000, [1, 0x56] ++ leBytes 2 24 ++ leBytes 2 2 ++ leBytes 2 0 ++ leBytes 8 0 ++ leBytes 4 0 ++ leBytes 4 9)

/-- An all-gather of one row from each member. -/
def gatherData : List (Nat × Bytes) :=
  [(0x1000, opd 0x7000 1 1 1 128 0), groupData,
    (0x6040, [1, 0x57] ++ leBytes 2 48 ++ [2, 0] ++ leBytes 2 0 ++ leBytes 4 77 ++ leBytes 6 0x6000 ++ leBytes 6 0x1000 ++ leBytes 6 0x6100 ++ leBytes 18 0),
    (0x6100, opd 0xB000 1 2 1 128 0)]

/-- A reduce-scatter of the gradient set. -/
def exchangeData : List (Nat × Bytes) := gsetData ++
  [groupData, (0x6080, [1, 0x57] ++ leBytes 2 48 ++ [1, 0] ++ leBytes 2 0 ++ leBytes 4 78 ++ leBytes 6 0x6000 ++ leBytes 30 0)]

/-- The gradient set at 0x3000 registered, endpoint 9 a peer, and cut 0 of the job on axis 0. -/
def registered (l : List (Nat × Bytes)) : State :=
  ((withDev parted l).modPart 0 fun p => { p with gsets := [(0x3000, [0], none)], axes := [0, 7, 7, 7, 7] }).setSec { parted.sec with peers := [{ ep := 9 }] }

/-- A run gives a result without error. -/
def ranOk : Except Nat RunRes → Bool | .ok r => r.status == 0 && r.sends.isEmpty | _ => false

/-- Something is computed without error. -/
def isOk {α : Type} : Except Nat α → Bool | .ok _ => true | _ => false

/-- Queue 0's ring holds two entries. -/
def rung : State := parted.hostWrite 0x10000 (entry cNOP 5 [] ++ entry cMARK 6 [])

theorem test_doorbell_witness :
    rung.queues.length = 64 ∧ rung.barOpen = true ∧ rung.link.effLevel ≠ 0 ∧ (rung.queue 0).enable = true ∧ (rung.queue 0).assigned = true ∧
      4 ≤ (rung.queue 0).log2 ∧ (rung.queue 0).sqHead < (rung.queue 0).size ∧
      after (.doorbell 0 2 []) rung (fun t => (t.queue 0).sqHead == 2 && (t.queue 0).fifo.map (fun c => (c.idx, entTag c.entry, c.phase)) == [(0, 5, .started), (1, 6, .queued)]) = true ∧
      after (.doorbell 0 16 []) rung (fun t => (t.queue 0).ringError && (t.queue 0).lastError == 0x0407 && (t.queue 0).fifo.isEmpty) = true ∧
      after (.doorbell 0 15 [(5, [7])]) (rung.setLink { rung.link with effLevel := 0 }) (fun t => (t.queue 0).fifo.isEmpty && t.mem.hostMem.head? == some (5, 7)) = true := by
  decide +kernel

theorem test_doorbell_refused_witness :
    after (.doorbell 1 1 []) rung (fun t => (t.queue 1).ringError && (t.queue 1).lastError == 0x0407) = true ∧
      after (.doorbell 0 1 []) (rung.modQueue 0 fun x => { x with log2 := 3 }) (fun t => (t.queue 0).ringError && (t.queue 0).fifo.isEmpty) = true := by decide +kernel

/-- A region of slabs 4 and 5 of partition 0 (R202). -/
def regionBody (base slabs : Nat) : Bytes := [1, 0x30] ++ leBytes 2 24 ++ leBytes 4 0 ++ leBytes 8 (base * slabB) ++ leBytes 8 slabs

/-- A stream configuration of slab 1 with no pools (R174). -/
def streamBytes : Bytes :=
  [1, 0x22] ++ leBytes 2 104 ++ [0, 0] ++ leBytes 2 1 ++ leBytes 4 1 ++ leBytes 4 0 ++ leBytes 2 1 ++ leBytes 78 0 ++ leBytes 6 slabB ++ leBytes 2 1

theorem test_effect_commands_witness :
    Claims.Started (started parted (entry cNOP 1 [])) 0 cNOP (startedCmd (entry cNOP 1 [])) ∧
      (started parted (entry cMAP 1 (regionBody 4 2))).regionHeader (entry cMAP 1 (regionBody 4 2)) = 0 ∧
      parted.mapStatus 0 (regionDesc (regionBody 4 2)) = 0 ∧ parted.unmapStatus 0 (regionDesc (regionBody 0 2)) = 0 ∧
      isOk ((withDev parted gsetData).registerCheck 0 0x3000) = true ∧ isOk ((registered gsetData).readGset 0 0x3000 true) = true ∧
      parted.streamStatus 0 streamBytes = 0 ∧
      isOk ((withDev parted [(0x2000, streamBytes)]).readDesc 0 0x2000 0x22 0x0204 (fun h => 96 + 8 * field h 6 2) 8) = true := by
  refine ⟨⟨rfl, by decide +kernel, rfl, rfl, rfl, rfl, rfl, rfl⟩, ?_⟩; decide +kernel

/-- The head command of queue 0 stands before its commit with this effect. -/
def staged (t : State) (e : Effect) : Bool :=
  match t.head? 0 with | some c => c.phase == .staged && c.ran && c.staged.effect == e && c.staged.writes == [] | none => false

theorem test_effect_commands_stage :
    after (.nop 0) (started parted (entry cNOP 1 [])) (staged · .none) = true ∧
      after (.stepMark 0) (started parted (entry cMARK 1 [])) (staged · .stepMark) = true ∧
      after (.mapRegion 0) (started parted (entry cMAP 1 (regionBody 4 2))) (staged · (.mapRegion 0 4 2 0 0 false)) = true ∧
      after (.unmapRegion 0) (started parted (entry cUNMAP 1 (regionBody 0 2))) (staged · (.unmapRegion 0 0 2)) = true ∧
      after (.registerGset 0) (started (withDev parted gsetData) (entry cREGISTER 1 (leBytes 6 0x3000))) (staged · (.registerGset 0x3000 [0])) = true ∧
      after (.releaseGset 0) (started (registered gsetData) (entry cRELEASE 1 (leBytes 6 0x3000))) (staged · (.releaseGset 0x3000)) = true ∧
      after (.streamConfig 0) (started (withDev parted [(0x2000, streamBytes)]) (entry cSTREAM 1 (leBytes 6 0x2000))) (staged · (.streamConfig streamBytes)) = true := by
  decide +kernel

theorem test_copies_witness :
    (withDev parted productData).readStatus 0 0x7000 128 = 0 ∧ (withDev parted productData).writeStatus 0 0x200000 128 = 0 ∧ Memory.wf (withDev parted productData).mem.dev = true ∧ Memory.wf (withDev parted productData).mem.hostMem = true ∧
      field (entry cCOPY 1 (leBytes 6 0x7000 ++ leBytes 6 0x200000 ++ leBytes 4 0 ++ leBytes 4 128)) 38 6 = 0x200000 ∧
      after (.copyOut 0) (started (withDev parted productData) (entry cCOPYOUT 1 (leBytes 6 0x7000 ++ leBytes 2 0 ++ leBytes 8 0x30000 ++ leBytes 4 256)))
        (fun t => staged t .none && Memory.num t.mem.hostMem 0x30000 2 == 0x4000 && Memory.num t.mem.hostMem 0x30080 2 == 0x4040) = true := by decide +kernel

theorem test_product_computes :
    (match (registered productData).runProduct 0 1 (entry cPRODUCT 1 (leBytes 6 0x1000 ++ leBytes 6 0x1040 ++ leBytes 6 0x1080)) with
     | .ok r => leNat ((r.writes.take 4).map (·.2)) == 0x40C00000 && r.writes.map (·.1) == [0x7100, 0x7101, 0x7102, 0x7103] && r.sends.isEmpty
     | _ => false) = true := by decide +kernel

theorem test_matrix_commands_witness :
    ranOk ((registered productData).runProduct 0 1 (entry cPRODUCT 1 (leBytes 6 0x1000 ++ leBytes 6 0x1040 ++ leBytes 6 0x1080))) = true ∧
      ranOk ((registered chainedData).runChained 0 (entry cCHAINED 1 (leBytes 6 0x5000 ++ leBytes 6 0x5140))) = true ∧
      ranOk ((registered gsetData).runFinish 0 0x3000 0 16777216) = true ∧ ranOk ((registered stepData).runOptimiser 0 0x4000) = true ∧
      Claims.Started (started (registered gsetData) (entry cFINISH 1 (leBytes 6 0x3000))) 0 cFINISH (startedCmd (entry cFINISH 1 (leBytes 6 0x3000))) := by
  refine ⟨?_, ?_, ?_, ?_, ⟨rfl, by decide +kernel, rfl, rfl, rfl, rfl, rfl, rfl⟩⟩ <;> decide +kernel

theorem test_failed_runs_witness :
    (parted.queue 0).ringRoom = true ∧ parted.readStatus 0 0x600000 128 = 0x0302 ∧ parted.mapStatus 0 (regionDesc (regionBody 1 1)) = 0x0301 ∧
      after (.copy 0) (started parted (entry cCOPY 3 (leBytes 6 0x600000 ++ leBytes 6 0 ++ leBytes 4 0 ++ leBytes 4 128)))
        (fun t => (t.queue 0).fifo.isEmpty && Memory.num t.mem.hostMem 0x20006 2 == 0x0302) = true ∧
      after (.mapRegion 0) (started parted (entry cMAP 3 (regionBody 1 1))) (fun t => (t.queue 0).fifo.isEmpty && Memory.num t.mem.hostMem 0x20006 2 == 0x0301) = true ∧
      after (.product 0) (started parted (entry cPRODUCT 3 (leBytes 6 0x1000 ++ leBytes 6 0x1040 ++ leBytes 6 0x1080))) (fun t => (t.queue 0).fifo.isEmpty) = true := by
  decide +kernel

theorem test_collectives_witness :
    (registered gatherData).collOf 0 = none ∧ isOk ((registered gatherData).buildColl 0 0 (entry cCOLLECTIVE 1 (leBytes 6 0x6040)) false) = true ∧
      isOk ((registered exchangeData).buildColl 0 0 (entry cEXCHANGE 1 (leBytes 6 0x3000 ++ leBytes 6 0x6080)) true) = true ∧
      after (.collective 0) (started (registered gatherData) (entry cCOLLECTIVE 1 (leBytes 6 0x6040))) (fun t => lookupTime t.fab.collTry (collKey 0 77) == some 1) = true := by
  decide +kernel

/-! Commit and its relatives. -/

/-- A head command that stands before its commit with one staged byte, and an effect. -/
def readyToCommit (e : Effect) (w : List Host.Cell) : Cmd :=
  { entry := entry cNOP 9 [], phase := .staged, ran := true, staged := { writes := w, effect := e } }

theorem test_commit_witness : Claims.CommitsNow (withCmds parted [readyToCommit .none [(3, 5)]]) 0 (readyToCommit .none [(3, 5)]) := by
  refine ⟨rfl, Or.inl rfl, rfl, ⟨rfl, rfl, ?_, rfl⟩, ?_, ?_, ?_, rfl, rfl, rfl, ?_⟩
  · decide +kernel
  · intro x h; exact absurd h (by simp [readyToCommit])
  · intro x h; exact absurd h (by simp [readyToCommit])
  · intro x h; exact absurd h (by simp [readyToCommit])
  · decide +kernel

/-- The device range and the record that COMMIT leaves. -/
theorem test_commit_record :
    after (.commit 0) (withCmds parted [readyToCommit .none [(3, 5)]])
      (fun t => t.mem.dev == [(3, 5)] && (t.queue 0).fifo.isEmpty && (t.queue 0).seq == 1 && (t.queue 0).cqTail == 1 &&
        Memory.num t.mem.hostMem 0x20008 8 == 9 && Memory.num t.mem.hostMem 0x20014 4 == 1 && Memory.num t.mem.hostMem 0x20004 1 == 1) = true := by decide +kernel

theorem test_commit_effects_witness :
    after (.commit 0) (withCmds parted [readyToCommit (.mapRegion 0 4 2 0 0 false) []]) (fun t => (t.slab? 5).map (·.st) == some .unwritten && (t.slab? 6).isNone) = true ∧
      after (.commit 0) (withCmds (withDev parted productData) [readyToCommit (.unmapRegion 0 0 2) []]) (fun t => (t.slab? 0).isNone && t.mem.dev == []) = true ∧
      after (.commit 0) (withCmds parted [readyToCommit (.registerGset 0x3000 [0]) []]) (fun t => (t.part 0).gsets == [(0x3000, [0], none)] && (t.slab? 0).map (·.gset) == some true) = true ∧
      after (.commit 0) (withCmds (registered []) [readyToCommit (.releaseGset 0x3000) []]) (fun t => (t.part 0).gsets == []) = true ∧
      after (.commit 0) (withCmds parted [readyToCommit (.streamConfig [1]) []]) (fun t => (t.part 0).stream.next == [1]) = true ∧
      after (.commit 0) (withCmds parted [readyToCommit .stepMark []]) (fun t => (t.part 0).stream.steps == 1) = true := by decide +kernel

/-- Two fetched commands, at indices 4 and 5. -/
def twoQueued : State := withCmds parted [{ startedCmd (entry cPRODUCT 4 []) with idx := 4 }, { idx := 5, entry := entry cNOP 5 [] }]

theorem test_kill_witness :
    twoQueued.barOpen = true ∧ killable { startedCmd (entry cPRODUCT 4 []) with idx := 4 } = true ∧
      after (.kill 0 0x10004) twoQueued (fun t => (t.queue 0).fifo.map (·.idx) == [5] && Memory.num t.mem.hostMem 0x20006 2 == 0x0485 && (t.queue 0).killDone && !(t.queue 0).tooLate) = true ∧
      after (.kill 0 0x10005) twoQueued (fun t => (t.queue 0).fifo.map (·.idx) == [4]) = true ∧
      after (.kill 0 0x10006) twoQueued (fun t => (t.queue 0).fifo.map (·.idx) == [4, 5] && (t.queue 0).killIndex == 6 && !(t.queue 0).tooLate) = true ∧
      after (.kill 0 0x10004) (withCmds parted [{ idx := 4, entry := entry cNOP 4 [], phase := .ringWait, result := 0x0302 }])
        (fun t => (t.queue 0).fifo.length == 1 && (t.queue 0).tooLate) = true ∧
      after (.killAll 0 0x20000) twoQueued (fun t => (t.queue 0).fifo.isEmpty && (t.queue 0).cqTail == 2 && !(t.queue 0).tooLate) = true := by decide +kernel

/-- Queue 0 of class 0 with a command within its envelope. -/
def classZero : State :=
  (withCmds parted [{ startedCmd (entry cNOP 8 []) with envelope := true }]).modQueue 0 fun x => { x with cls := 0 }

theorem test_budget_and_tokens_witness :
    after (.tokenRefill 0) (parted.modPart 0 fun p => { p with c0Rate := 5, c0Burst := 8, tokens := 6 }) (fun t => (t.part 0).tokens == 8) = true ∧
      after (.c0BudgetExceeded 0) classZero (fun t => (t.queue 0).fifo.isEmpty && Memory.num t.mem.hostMem 0x20006 2 == 0x0404) = true ∧
      exec (.c0BudgetExceeded 0) twoQueued = .next twoQueued := by
  refine ⟨?_, ?_, rfl⟩ <;> decide +kernel

/-- The head command waits for one staging slab, which the pool of T2 has. -/
def needsStage : State := (withCmds parted [{ startedCmd (entry cCOPY 8 []) with ran := true, staged := { need := [0] } }]).modPart 0 fun p => { p with stageT1 := 0 }

theorem test_staging_witness : ((needsStage.placeOptions 0 false).filter fun x => needsStage.poolHas 0 1 x.1).length = 1 ∧ needsStage.queues.length = 64 := by decide +kernel

/-- A partition with one core, on B-die 1, interleaves no slab: what T1 takes of it lies near that die (R211, R212; log entry 6). -/
def oneCore : State := (parted.setSlabs []).modPart 0 fun p => { p with c0Set := [], general := [250], res := [64, 0, 0, 0], stageT1 := 16 }

theorem test_only_near : oneCore.onlyNear 0 = true ∧ oneCore.placeOptions 0 false = [(.t1, some 1)] ∧ oneCore.placeT1 0 none = some (some 1) ∧
    (oneCore.takeStage 0 1 false none (some 0)).1 = some (.t1, some 1) := by decide +kernel

/-- The head command waits for a retained slab, of which the pool of T1 holds one. -/
def poolWaits : State :=
  (withCmds parted [{ readyToCommit .none [(3, 5)] with phase := .poolWait }]).modStream 0 fun st => { st with retT1 := 1, poolWait := true }

/-- The head command's last tile piece waits for credit. -/
def tileWaits : State :=
  let w : Staged := { sends := [{ ep := 9, started := true, attempt := 1, todo := [[(0, [1, 2])]] }] }
  ((withCmds parted [{ startedCmd (entry cPRODUCT 8 []) with ran := true, tileWait := true, staged := w }]).modPart 0 fun p => { p with axes := [0, 7, 7, 7, 7] }).setSec { parted.sec with peers := [{ ep := 9 }] }

/-- The error record of the head command waits for room, and the ring has room. -/
def ringWaits : State := withCmds parted [{ idx := 4, entry := entry cNOP 4 [], phase := .ringWait, result := 0x0302 }]

theorem test_waits_witness :
    (Claims.released poolWaits 0).poolRoom 0 [] = true ∧ poolWaits.queuesOf 0 = [0] ∧
      after (.poolWaitEnd 0) poolWaits (fun t => t.mem.dev == [(3, 5)] && (t.queue 0).fifo.isEmpty && (t.part 0).stream.retT1 == 0 && !(t.part 0).stream.poolWait) = true ∧
      (tileWaits.askCredit 1 0 (tileWaits.queue 0).cls (ceilDiv (tileBytes [(0, [1, 2])]) 4096) 0).1 = true ∧
      after (.tileAccept 0) tileWaits (fun t => staged t .none && ((t.head? 0).map fun c => c.staged.sends.map (·.bytes)) == some [2]) = true ∧
      ringWaits.heldTries 0 = [] ∧ (ringWaits.queue 0).landPending = false ∧
      after (.completionRingRoom 0) ringWaits (fun t => (t.queue 0).fifo.isEmpty && Memory.num t.mem.hostMem 0x20006 2 == 0x0302) = true ∧
      after (.completionRingRoom 0) (parted.modQueue 0 fun x => { x with cqFull := true }) (fun t => !(t.queue 0).cqFull) = true ∧
      after (.creditGrant 1 0 3) (parted.setAdm { parted.adm with credits := [(1, 0, 5)] }) (fun t => t.heldCredit 1 0 == 2) = true := by decide +kernel

theorem test_pool_wait_witness : Claims.CommitsNow (Claims.released poolWaits 0) 0 { readyToCommit .none [(3, 5)] with phase := .poolWait } := by
  refine ⟨rfl, Or.inr (Or.inl rfl), rfl, ⟨rfl, rfl, ?_, rfl⟩, ?_, ?_, ?_, rfl, rfl, rfl, ?_⟩
  · decide +kernel
  · intro x h; exact absurd h (by simp [readyToCommit])
  · intro x h; exact absurd h (by simp [readyToCommit])
  · intro x h; exact absurd h (by simp [readyToCommit])
  · decide +kernel

/-! Start-up, update, warm reset and host loss. -/

/-- The module in start-up after a step. -/
def booting (n : Nat) : State :=
  ((runs.setPhase .boot).setBoot { runs.boot with step := n, facts := some goodFacts }).setPins { runs.pins with ready := false }

/-- A state that an idle step brings to this one. -/
def stepTo (s : State) (p : State → Bool) : Bool := match Machine.step s with | .next t => p t | _ => false

theorem test_power_witness :
    State.reset.pins.vin = false ∧ runs.pins.vin = true ∧
      after .powerLoss runs (fun t => t.phase == .off && !t.pins.ready && t.flash.a.flag) = true ∧
      after (.powerUp { goodFacts with flashOk := false }) State.reset (fun t => t.phase == .halted && t.boot.code == 0x0B09 && t.pins.vin) = true ∧
      after (.restartDelayExpiry goodFacts) State.reset (fun t => t.phase == .boot && t.boot.step == 2 && t.flash.powerUps == 1) = true := by decide +kernel

theorem test_start_up_witness :
    (booting 2).flash.map?.isSome = true ∧ imageOk factoryFlash factoryFlash.a = true ∧ imageOk factoryFlash factoryFlash.b = false ∧
      stepTo ((booting 2).setFlash { factoryFlash with map0 := none }) (fun t => t.phase == .halted && t.boot.code == 0x0B04) = true ∧
      stepTo ((booting 2).setFlash { factoryFlash with a := {} }) (fun t => t.phase == .halted && t.boot.code == 0x0B01) = true ∧
      stepTo ((booting 3).setFlash { factoryFlash with a := { flag := true } }) (fun t => t.phase == .halted && t.boot.code == 0x0B01) = true ∧
      stepTo ((booting 3).setFlash { factoryFlash with b := factoryFlash.a }) (fun t => t.boot.step == 4 && !t.boot.bank && t.boot.gen == 1) = true ∧
      stepTo ((booting 5).setFabric { runs.fabric with links := [{ failed := true }] }) (fun t => t.phase == .halted && t.boot.code == 0x0B0A) = true ∧
      stepTo (booting 9) (fun t => t.phase == .run && t.pins.ready && t.boot.step == 10) = true := by decide +kernel

/-- The update state with bank B as its target, holding nothing. -/
def updating : State := (runs.setPhase .update).setBoot { runs.boot with update := true, updBank := true }

theorem test_update_witness :
    updating.smbOpen = true ∧ (updating.flash.bank true).flag = false ∧
      after (.update 1) ((runs.setPhase .halted).setBoot { runs.boot with halted := true, code := 0x0B01 }) (fun t => t.phase == .update && !t.pins.ready && !t.boot.updDone) = true ∧
      after (.update 1) runs (fun t => t.boot.updReq && t.phase == .run) = true ∧
      after (.sbBootDataWrite [7]) updating (fun t => (t.flash.bank true).image == [7]) = true ∧
      after (.sbBootDataWrite []) updating (fun t => t.steward.sbEvent.getLsbD 5) = true ∧
      after (.sbBootDataWrite (List.replicate 256 0)) runs (fun t => t.steward.sbEvent.getLsbD 5) = true ∧
      after (.sbBootCommit 2) updating (fun t => t.boot.updDone && t.boot.updStatus == 0x0B07 && !(t.flash.bank true).flag) = true ∧
      after (.sbBootAbort 4) updating (fun t => t.boot.updDone) = true := by decide +kernel

/-- A chain of three certificates, the root first, each signed by the key before it with ECDSA P-384 (made for this test). -/
def cert0 : Bytes := beBytes 412 0x308201983082011fa003020102020101300a06082a8648ce3d040303300c310a300806035504030c01523020170d3236313133303033303031385a180f32313236313130363033303031385a300c310a300806035504030c01523076301006072a8648ce3d020106052b81040022036200049ccf211f24f27066c962643363fa4e453f5f25d4887de6bf23b3a19b516adceeac06e2643174d4accb179a413cba273b261979745a4135f3a912e3a5bed6134d0baecb08663d88f25e1b85f8240df1de345c8a948326e2dbc35b476c2d55175fa3533051301d0603551d0e041604149db7f2a3c3ae572ef82a5266b9f84ef04b6d7948301f0603551d230418301680149db7f2a3c3ae572ef82a5266b9f84ef04b6d7948300f0603551d130101ff040530030101ff300a06082a8648ce3d040303036700306402300db74ae41283d087765f2ab1a98c3d9f1791b6dd3547530a8c1c49e3b5b62f7bcc3199cfa992a66136c0923dae98e93a02304672269484b82b54ba73056ab06293882f7ef4920e94c80a3c1fdfe88394fbb052c52a6f00ad883c5d7e86a0fc7aa66d
def cert1 : Bytes := beBytes 322 0x3082013e3081c5020102300a06082a8648ce3d040303300c310a300806035504030c01523020170d3236313133303033303031385a180f32313236313130363033303031385a300c310a300806035504030c01493076301006072a8648ce3d020106052b8104002203620004fd21a6e6e55dada1757a3878636424b4b80c81d0718b326398bdc96899c0658d245e27421647895a014c3a26355a4c3b88a23829d6da25a147a8caf29620628c6f28fa66ca02ab274136f2b8414b8ec9601b3b02b2b04607fa5dd09b9e8170ae300a06082a8648ce3d040303036800306502306abb5c758afbce15cf7fc7ae66c7778290603e1e4e5c72d44fbfcf2cfedea4a9d3c93cf7342b7e3c76e0be57558b62dc023100848005a663bea7559074cde27c038322e03af0ec4e31fb55a60bfb638136edeea14648f9350a6fed25bb79adfc581aa8
def cert2 : Bytes := beBytes 323 0x3082013f3081c5020103300a06082a8648ce3d040303300c310a300806035504030c01493020170d3236313133303033303031385a180f32313236313130363033303031385a300c310a300806035504030c014c3076301006072a8648ce3d020106052b8104002203620004933d646d3cb8fba725e5193358f7a86bab42d155b03f4f0214ce844e34a8b4b4c3f5167f20854607453a167fbdde37fc1fdaf37e4b1d56a19b833235ce37c44ec56998c4269e2eabf363a216ba04ff2e0ba8cb3fec8c4c948456d1c196884872300a06082a8648ce3d04030303690030660231009a80ac2a2a7a325a8eb89507ea45f4185b9eb61f2fb18bfb1068d5047a364548550aa59e9dd6b765afa34d5a4de09c860231008c326b2bcab5e6dea4b2755d63717d76305838a941960212d240fbb0af3c1ea4ddd73648849557e9416c7d2e3ee8b007

/-- An image of generation 2 whose signature block holds that chain and the leaf's signature over the bytes before the block. -/
def goodImage : Bytes :=
  (patch factoryImage 4 (leBytes 4 1244 ++ leBytes 4 2)).take 84 ++ leBytes 4 1057 ++ cert0 ++ cert1 ++ cert2 ++ leBytes 3 0 ++
    beBytes 96 0x45ec7249b571e5993de3bd0794d5f8d6fd745d2265063fcbdd898097cd4c2ff7036c2083ed5c39d9646f6a2cb51c7b2c1aa94f7be6359c73ae53fe750a0d8e67568e0d71c33f53705a5b6dfaf95859dd34cd48d268946e256f28e1af7c2d6a4e

/-- The signatures of an image verify under the root whose digest the boot ROM holds (R472). -/
theorem test_image_root : imageRoot [sha384 cert0] goodImage = some 0 := by decide +kernel

/-- A changed byte of the image fails its signature. -/
theorem test_image_changed : imageRoot [sha384 cert0] (patch goodImage 80 [1]) = none := by decide +kernel

theorem test_update_good_image :
    imageOk factoryFlash { image := goodImage, authentic := (imageRoot [sha384 cert0] goodImage).isSome, root := (imageRoot [sha384 cert0] goodImage).getD 0 } = true ∧
      imageGen factoryFlash.a.image < imageGen goodImage := by
  rw [test_image_root]; decide +kernel

theorem test_warm_reset_witness :
    runs.barOpen = true ∧ bits (0x5A170001 : Word).toNat 31 16 = 0x5A17 ∧ runs.boot.updReq = false ∧
      after (.warmReset 0x5A170001 goodFacts) parted (fun t => t.phase == .warm && !t.pins.ready && !t.anyPart && t.link.effLevel == 0) = true ∧
      after (.warmReset 0x5A170001 { goodFacts with firmwareOk := false }) runs (fun t => t.phase == .stopped && t.boot.code == 0x0B0C && t.err.lastCode == 0x0D40) = true ∧
      after (.warmReset 0x5A160701 goodFacts) runs (fun t => t.phase == .run && t.link.flushS == 7) = true ∧
      after .warmResetTimeout (runs.setPhase .warm) (fun t => t.phase == .stopped) = true ∧
      stepTo (runs.setPhase .warm) (fun t => t.phase == .run && t.link.warmDone && t.fab.session == 1) = true := by decide +kernel

theorem test_climb_witness : Claims.ClimbsToWarm runs := ⟨rfl, rfl, rfl, rfl, rfl, rfl, fun t h => by simp [runs] at h; cases h⟩

theorem test_climb_and_stop_witness :
    after (.watchdogExpiry goodFacts) runs (fun t => t.phase == .warm && t.err.autoWarm && t.err.autoWarms == 1) = true ∧
      after (.hubSramUncorrectable goodFacts) (runs.setErr { runs.err with lastAuto := some 0 }) (fun t => t.phase == .stopped) = true ∧
      after (.partitionResetOverrun 3 goodFacts) (runs.setErr { runs.err with autoWarmEn := false }) (fun t => t.phase == .stopped) = true := by decide +kernel

/-- Partition 0 exports an epoch to the cellar. -/
def exporting : State :=
  parted.modStream 0 fun st => { st with cfg := patch streamBytes 4 [1], epoch := some { no := 3, step := 4, recs := [[1, 2]] } }

theorem test_host_loss_witness :
    (∀ x ∈ parted.parts, x.stream.epoch = none ∧ cfgDest x.stream.cfg = 0) ∧
      after (.hostLossReset .perst) parted (fun t => !t.anyPart && t.link.st == .down && t.link.lastCause == lossCode .perst && t.link.hostLosses == 1 && t.err.lastCode == 0x0711) = true ∧
      after (.hostLossReset .flr) exporting (fun t => t.link.losing && !t.barOpen) = true ∧
      after .linkLossTimeout (parted.setLink { parted.link with st := .recovery }) (fun t => t.link.lastCause == 3 && !t.link.losing) = true ∧
      after (.hostLossReset .flr) (exporting.setLink { exporting.link with losing := true }) (fun t => t.link.st == .l0 && t.link.losing) = true ∧
      after .flushTimeout (exporting.setLink { exporting.link with losing := true }) (fun t => !t.link.losing && t.link.flushAbandoned && !t.anyPart) = true ∧
      after (.hostLossReset .flr) (runs.setPhase .warm) (fun t => t.link.lossPend == some .flr) = true := by
  refine ⟨?_, ?_, ?_, ?_, ?_, ?_, ?_⟩ <;> decide +kernel

theorem test_link_moves_witness :
    after .linkRecovery runs (fun t => t.link.st == .recovery) = true ∧
      after (.linkReturnL0 6 16) (runs.setLink { runs.link with st := .recovery }) (fun t => t.link.retrains == 1 && t.link.width == 16) = true ∧
      after (.linkReachesL0 6 16 3 true) ((State.reset.setPhase .boot).setBoot { State.reset.boot with step := 2 }) (fun t => t.link.st == .l0 && t.link.cache && t.link.cfgOk) = true ∧
      after .d3hotEntry runs (fun t => t.link.d3hot) = true ∧
      (rung.setLink { rung.link with d3hot := true }).link.d3hot = true ∧ (rung.queue 0).sqTail < (rung.queue 0).size ∧
      after .firstBar0AccessAfterHostLoss (runs.setLink { runs.link with firstAccess := true, hostLoss := true, msixTable := List.replicate 288 0 }) (fun t => t.out == [.msix 65] && !t.link.firstAccess) = true := by
  decide +kernel

theorem test_level_witness :
    runs.levelOpen = true ∧ runs.anyPart = false ∧ runs.link.cache = true ∧ parted.anyPart = true ∧
      after (.idHostLevelWrite 0x105) (runs.setLink { runs.link with effLevel := 0, hostLevel := 0 }) (fun t => t.link.hostLevel == 5 && t.link.effLevel == 1) = true ∧
      after (.idHostLevelWrite 0) parted (fun t => t.link.hostLevel == 1) = true ∧
      exec (.bar0AccessInvalid 0x101 2 false) runs = .next (runs.emit (.unsupported 0x101)) ∧ exec (.bar0AccessInvalid 0x101 2 true) runs = .next runs ∧
      exec (.bar2Read 8) runs = .next (runs.emit (.unsupported 8)) := by
  refine ⟨?_, ?_, ?_, ?_, ?_, ?_, rfl, rfl, rfl⟩ <;> decide +kernel

/-- Partition 0 has a landing region of slab 0 and queue 0 assigned and disabled. -/
def landing : State :=
  (parted.setMem { parted.mem with regions := [{ part := 0, base := 0, slabs := 1, kind := 2 }] }).modQueue 0 fun x => { x with enable := false }

/-- Its window is bound, its ring empty. -/
def landed : State := landing.modPart 0 fun p => { p with bound := true, landSize := slabB }

theorem test_landing_bind_witness :
    landing.bindStatus 0 = 0 ∧ parted.bindStatus 0 = 0x0701 ∧
      after (.bind 0 1) landing (fun t => (t.part 0).bound && (t.part 0).landSize == slabB && (t.part 0).landStatus == 0) = true ∧
      after (.bind 0 1) parted (fun t => !(t.part 0).bound && (t.part 0).landStatus == 0x0701) = true ∧
      after (.unbind 0 2) landed (fun t => !(t.part 0).bound) = true := by decide +kernel

theorem test_landing_write_witness :
    landed.bar2Open = true ∧ (landed.part 0).filtered 7 = false ∧ (landed.part 0).landFree = slabB - 128 ∧ ¬ (0x80 % 16777216 = 0xFFF000) ∧
      (∀ k ∈ spanSlabs 0x80 2, (landed.slab? k).map (·.st) = some .resident) ∧
      after (.landingDataWrite 0x80 [5, 6] 7) landed (fun t => t.mem.dev == [(0x80, 5), (0x81, 6)]) = true ∧
      after (.landingDataWrite 0x1FFFFF [5] 7) landed (fun t => t.mem.dev == [] && (t.part 0).landDropped == 1) = true ∧
      after (.landingDataWrite 0x1FFF80 [5] 7) landed (fun t => t.mem.dev == [] && (t.part 0).landDropped == 1) = true ∧
      after (.landingDataWrite 0x1FFF7F [5] 7) landed (fun t => t.mem.dev == [(0x1FFF7F, 5)]) = true ∧
      after (.landingDataWrite 0x80 [5] 7) (landed.setPhase .warm) (fun t => t.link.landDiscard == 1) = true := by decide +kernel

theorem test_landing_tail_witness :
    after (.tailDoorbell 0 0x80 7) landed (fun t => (t.part 0).landTail == 0x80 && Memory.num t.mem.hostMem 0x20008 8 == 0x80) = true ∧
      after (.tailDoorbell 0 0x1FFF80 7) landed (fun t => (t.part 0).landTail == 0x1FFF80) = true ∧
      ((landed.modQueue 0 fun x => { x with cqHead := 1 }).queue 0).ringRoom = false ∧
      after (.tailDoorbell 0 0x80 7) (landed.modQueue 0 fun x => { x with cqHead := 1 }) (fun t => (t.queue 0).landPending && (t.queue 0).cqFull && (t.part 0).landTail == 0x80) = true ∧
      after (.partLandHeadWrite 0 0x80) (landed.modPart 0 fun p => { p with landTail := 0x80 }) (fun t => (t.part 0).landHead == 0x80) = true ∧
      after (.partLandHeadWrite 0 0x80) landed (fun t => (t.part 0).landHead == 0) = true := by decide +kernel

/-- A stream configuration with a host ring of one slab. -/
def hostRing : Bytes := patch (patch streamBytes 4 [2]) 30 (leBytes 2 1)

theorem test_stream_witness :
    epochDest (patch streamBytes 4 [1]) { no := 3, step := 4, recs := [[1, 2]] } = 1 ∧ epochDest hostRing {} = 2 ∧ ringBytes hostRing = slabB ∧
      after (.epochEnd 0) exporting (fun t => (t.part 0).stream.epoch == none && (t.part 0).stream.last == 3 && t.out.length == 2) = true ∧
      exporting.link.losing = false ∧ after (.ringFullTimeout 0) (exporting.modStream 0 fun st => { st with cfg := hostRing }) (fun t => (t.part 0).stream.epoch == none && (t.part 0).stream.destLost && t.err.lastCode == 0x0212) = true ∧
      after (.digestTimeout 0) (exporting.modStream 0 fun st => { st with cfg := patch st.cfg 5 [2], epoch := some { no := 3, step := 4, recs := [[1]], compare := true } })
        (fun t => (t.part 0).stream.missing == 2 && (t.part 0).stream.timeout) = true ∧
      after (.partStreamTailWrite 0 8) (parted.modStream 0 fun st => { st with cfg := hostRing, head := 8 }) (fun t => (t.part 0).stream.tail == 8) = true ∧
      after (.partStreamTailWrite 0 12) (parted.modStream 0 fun st => { st with cfg := hostRing, head := 8 }) (fun t => (t.part 0).stream.tail == 0) = true ∧
      after (.partStreamTailWrite 0 6) (parted.modStream 0 fun st => { st with cfg := hostRing, head := 8 }) (fun t => (t.part 0).stream.tail == 0) = true ∧
      after (.resume 0 9) (parted.modStream 0 fun st => { st with held := true, diverged := true, timeout := true })
        (fun t => !(t.part 0).stream.held && !(t.part 0).stream.diverged && (t.part 0).stream.timeout) = true := by decide +kernel

/-- Partition 0's host-loss epoch is retained, 4,096 bytes of host memory at 0x8000 are named for it. -/
def retained : State :=
  runs.setHle { runs.hle with retained := [(0, 3, [[1, 2], [3]], [])], addrLo := 0x8000, size := 1 }

theorem test_readout_witness :
    retained.hle? 0 = some (0, 3, [[1, 2], [3]], []) ∧ retained.hlePages 0 = 1 ∧
      after (.readout 16 0) retained (fun t => t.mem.hostMem == [(0x8000, 1), (0x8001, 2), (0x8002, 3)] && t.hle? 0 == none && t.hle.status == 0) = true ∧
      after (.readout 17 0) retained (fun t => t.hle.status == 0x0715 && t.hle.part == 1) = true ∧
      after (.readout 16 0) (retained.setHle { retained.hle with size := 0 }) (fun t => t.hle.status == 0x0715) = true ∧
      after (.readout 16 1) retained (fun t => t.hle.status == 0x0390 && (t.hle? 0).isSome) = true ∧
      after (.readout 16 2) retained (fun t => t.hle.status == 0x0391) = true ∧
      after (.discard 32) retained (fun t => t.hle? 0 == none) = true := by decide +kernel

/-! Partitions, granted memory, leases and migration. -/

/-- No partition; 12 cores in service and room in every tier. -/
def vacant : State :=
  let s := runs.setCores ((List.range 12).map fun n => { st := .enabled, logical := some n })
  let s := s.setInv { s.inv with enabled := 12 }
  s.setMem { s.mem with capT1 := 400, capT2 := 4000, sliceCap := [100, 100, 100, 100] }

/-- An admission descriptor of partition 2: 4 cores, 1 of them class 0, and queues 0 and 1 (R245). -/
def admission (cores resT4 : Nat) : Bytes :=
  [1, 0x42] ++ leBytes 2 64 ++ [2, 1, 1, 1] ++ leBytes 2 cores ++ leBytes 2 1 ++ leBytes 4 10 ++ leBytes 4 100 ++ leBytes 4 20 ++ leBytes 4 20 ++ leBytes 4 0 ++
    leBytes 4 resT4 ++ leBytes 2 4 ++ leBytes 2 4 ++ leBytes 8 0 ++ leBytes 8 3 ++ leBytes 8 0

/-- Partition 2 as the descriptor creates it. -/
def admitted : State :=
  (vacant.modPart 2 fun p => { p with
    admitted := true, cores := 4, c0Cores := 1, c0Set := [0], general := [1, 2, 3], res := [20, 20, 0, 0], stageT1 := 4, stageT2 := 4, tokens := 100, queues := 3 }).setQueues
    (updAt (updAt vacant.queues 0 fun x => { x with part := 2, assigned := true }) 1 fun x => { x with part := 2, assigned := true })

theorem test_admit_witness :
    vacant.barOpen = true ∧ vacant.adm.busy = false ∧ Claims.descOf vacant [(0, admission 4 0)] = admission 4 0 ∧ vacant.admHeader (admission 4 0) = 0 ∧
      vacant.admitStatus (admDesc (admission 4 0)) false = 0 ∧ vacant.admitStatus (admDesc (admission 4 0)) true = 0 ∧
      vacant.admitStatus (admDesc (admission 13 0)) false = 0x0481 ∧
      after (.admitPart 0x21 [(0, admission 4 0)]) vacant
        (fun t => (t.part 2).admitted && (t.part 2).c0Set == [0] && (t.part 2).general == [1, 2, 3] && (t.queue 1).assigned && t.adm.status == 0 && t.sec.layouts == 1) = true ∧
      after (.admitPart 0x21 [(0, admission 13 0)]) vacant (fun t => !(t.part 2).admitted && t.adm.status == 0x0481) = true := by decide +kernel

theorem test_modify_and_reset_witness :
    admitted.modifyStatus (admDesc (admission 5 0)) = 0 ∧ admitted.modifyStatus (admDesc (admission 13 0)) = 0x0481 ∧
      after (.modify 0x22 [(0, admission 5 0)]) admitted (fun t => (t.part 2).cores == 5 && (t.part 2).general.length == 4 && t.adm.status == 0) = true ∧
      after (.modify 0x22 [(0, admission 13 0)]) admitted (fun t => (t.part 2).cores == 4 && t.adm.status == 0x0481) = true ∧
      after (.partitionReset 0x24) admitted (fun t => !(t.part 2).admitted && (t.part 2).general == [] && !(t.queue 0).assigned) = true := by decide +kernel

/-- A grant table of two slabs (R225). -/
def grantTable (slabs : Nat) : Bytes := [1, 0x31] ++ leBytes 2 32 ++ leBytes 2 1 ++ leBytes 10 0 ++ leBytes 8 0x40000000 ++ leBytes 8 slabs

theorem test_grant_witness :
    vacant.anyPart = false ∧ vacant.grantStatus (grantTable 2) = 0 ∧ vacant.grantStatus (grantTable 0) = 0x0305 ∧
      after (.grant 1 [(0, grantTable 2)]) vacant (fun t => t.mem.grants == [(0x40000000, 2)] && t.mem.capT3 == 2 && t.mem.t3Status == 0) = true ∧
      after (.grant 1 [(0, grantTable 0)]) vacant (fun t => t.mem.grants == [] && t.mem.t3Status == 0x0305) = true ∧
      after (.grant 1 [(0, grantTable 2)]) admitted (fun t => t.mem.grants == []) = true ∧
      after (.revoke 2) (vacant.setMem { vacant.mem with grants := [(0x40000000, 2)], capT3 := 2 }) (fun t => t.mem.grants == [] && t.mem.capT3 == 0) = true ∧
      vacant.lentSlabs ≤ bits (0x06000009 : Word).toNat 23 0 ∧ after (.lendMaxWrite 0x04000009) vacant (fun t => t.mem.lendMax == 9 && t.mem.notice == 5) = true := by
  decide +kernel

/-- PFT in service as endpoint 2, with endpoint 1 a peer in session 0. -/
def fabricUp (s : State) : State :=
  (s.setFab { s.fab with valid := true, ep := 2, sessions := [(1, 0)] }).setSec { s.sec with peers := [{ ep := 1 }] }

/-- A module that lends: 8 slabs offered, 2 lent to endpoint 1 as lease 6. -/
def lender : State :=
  let s := fabricUp vacant
  s.setMem { s.mem with lendMax := 8, lent := [{ ep := 1, bpart := 0, id := 6, slabs := 2, reclaim := true, data := [(3, 9)] }], nextLease := 7 }

theorem test_accepts_witness : Claims.AcceptsLease lender { header with kind := 5 } :=
  ⟨⟨rfl, rfl, rfl, rfl, rfl, by decide, rfl, rfl, rfl, rfl, rfl⟩, rfl⟩

theorem test_lender_witness :
    lender.lendRoom = 6 ∧ lender.fab.asking = none ∧
      after (.leaseRequest { header with kind := 5 } 3 4) lender (fun t => t.mem.lent.map (fun l => (l.id, l.slabs, l.noticeMs)) == [(6, 2, 50), (7, 4, 50)]) = true ∧
      after (.leaseRequest { header with kind := 5 } 3 0) lender (fun t => t.mem.lent.length == 1) = true ∧
      after (.cellarRequest { header with kind := 6 } 8 6 2 3 none) lender (fun t => t.out.contains (.cellarAnswer 1 8 [0, 9, 0])) = true ∧
      after (.cellarRequest { header with kind := 6 } 8 6 2 1 (some [4])) lender (fun t => t.mem.lent.map (·.data) == [[(2, 4), (3, 9)]]) = true ∧
      after (.cellarRequest { header with kind := 6 } 8 6 0x3FFFFE 3 none) lender (fun t => t.out.contains (.cellarError 1 8)) = true ∧
      after (.cellarRequest { header with kind := 6 } 8 5 0 3 none) lender (fun t => t.out.contains (.cellarError 1 8)) = true ∧
      after (.leaseRelease { header with kind := 5 } 0 6) lender (fun t => t.mem.lent == []) = true ∧
      after (.lenderNoticeExpiry 6) lender (fun t => t.mem.lent == []) = true ∧
      after (.borrowerUnreachableEnd 1) (lender.setFab { lender.fab with unreachable := [(1, 0)] }) (fun t => t.mem.lent == []) = true := by decide +kernel

/-- An admission of partition 2 that wants 3 cellar slabs and has asked lender 0, endpoint 1. -/
def asking : State :=
  let s := fabricUp vacant
  (s.setFab { s.fab with asking := some (2, 0, admission 4 3) }).setMem { s.mem with lenders := [0x80000001, 0x80000001, 0, 0, 0, 0, 0, 0] }

theorem test_borrower_witness :
    (admDesc (admission 4 3)).part = 2 ∧ bits (asking.mem.lenders.getD 0 0).toNat 19 0 = 1 ∧ asking.grantOk 2 50 = true ∧ 0 < (admDesc (admission 4 3)).resOf .t4 ∧
      after (.leaseGrant { header with kind := 5 } 2 11 2 50) asking (fun t => (t.part 2).leases.map (fun l => (l.lender, l.id, l.slabs)) == [(1, 11, 2)] && t.fab.asking.map (·.2.1) == some 1) = true ∧
      after (.leaseRefuse { header with kind := 5 } 2) asking (fun t => t.fab.asking.map (·.2.1) == some 1) = true ∧
      after (.lenderTimeout 2) asking (fun t => t.fab.asking.map (·.2.1) == some 1) = true ∧
      after (.leaseAdmissionDeadline 2) asking (fun t => t.adm.status == 0x0381 && t.fab.asking == none) = true := by decide +kernel

/-- A lease request whose message has another TYPE is accepted by its flow and discarded (R529). -/
theorem test_lease_of_another_type : Claims.Accepts lender { header with kind := 5, msg := { type_ := some 0x26 } } 0x50 5 ∧
    MsgHead.ok { type_ := some 0x26 } 0x33 = false ∧
    after (.leaseRequest { header with kind := 5, msg := { type_ := some 0x26 } } 0 1) lender (fun t => t.mem.lent == lender.mem.lent && t.out == []) = true :=
  ⟨⟨rfl, rfl, rfl, rfl, rfl, by decide, rfl, rfl, rfl, rfl, rfl⟩, rfl, by decide +kernel⟩

theorem test_borrower_accepts_witness : Claims.AcceptsLease asking { header with kind := 5 } :=
  ⟨⟨rfl, rfl, rfl, rfl, rfl, by decide, rfl, rfl, rfl, rfl, rfl⟩, rfl⟩

/-- Partition 2 holds lease 11 of endpoint 1, with slab 2^24 in it. -/
def leased (r : Option Nat) : State :=
  let s := fabricUp (admitted.modPart 2 fun p => { p with leases := [{ lender := 1, id := 11, slabs := 2, noticeMs := 50, reclaim := r }], res := [20, 20, 0, 2] })
  s.setMem { s.mem with slabs := [{ key := 16777216, part := 2, st := .resident, tier := some .t4, lease := some (1, 11) }] }

theorem test_lease_reclaim_witness :
    after (.leaseReclaim { header with kind := 5 } 2 11 60) (leased none)
      (fun t => (t.part 2).reclaimBit && (t.part 2).leases.map (fun l => (l.reclaim.isSome, l.noticeMs)) == [(true, 60)] && t.mem.slabs.map (·.st) == [.evacuating]) = true ∧
      (leased (some 0)).reclaimed 2 11 = [{ lender := 1, id := 11, slabs := 2, noticeMs := 50, reclaim := some 0 }] ∧
      after (.reclaimDeadline 2 11) (leased (some 0)) (fun t => t.mem.slabs.all fun x => x.tier != some .t4) = true ∧
      after (.reclaimNoticeEnd 2 11) (leased (some 0)) (fun t => (t.part 2).leases == [] && (t.part 2).resOf .t4 == 0) = true := by decide +kernel

/-- Partition 2 exports an epoch to the cellar. -/
def leasedEpoch : State := (leased none).modStream 2 fun st => { st with cfg := patch streamBytes 4 [1], epoch := some { no := 1, recs := [[1]] } }

theorem test_reclaim_abandons_epoch_witness :
    leasedEpoch.link.losing = false ∧ epochDest (leasedEpoch.part 2).stream.cfg { no := 1, recs := [[1]] } = 1 ∧
      after (.leaseReclaim { header with kind := 5 } 2 11 60) leasedEpoch (fun t => (t.part 2).stream.epoch == none && (t.part 2).stream.destLost && t.err.lastCode == 0x0212) = true := by decide +kernel

theorem test_leased_epoch_accepts_witness : Claims.AcceptsLease leasedEpoch { header with kind := 5 } :=
  ⟨⟨rfl, rfl, rfl, rfl, rfl, by decide, rfl, rfl, rfl, rfl, rfl⟩, rfl⟩

theorem test_leased_accepts_witness : Claims.AcceptsLease (leased none) { header with kind := 5 } :=
  ⟨⟨rfl, rfl, rfl, rfl, rfl, by decide, rfl, rfl, rfl, rfl, rfl⟩, rfl⟩

/-- Partition 0 is full in T1, with one staging slab to draw. -/
def shortOfFrames : State := started (parted.modPart 0 fun p => { p with res := [2, 0, 8, 8], stageT1 := 1, stageT2 := 0 }) (entry cCOPY 3 [])

/-- The engine demotes a committed slab where a staging pool has no frame (R213). -/
theorem test_refill :
    (shortOfFrames.refill 0).mem.migrations.map (fun m => (m.key, m.src, m.dst)) = [(0, .t1, .t3)] ∧ ((shortOfFrames.refill 0).refill 0).mem.migrations.length = 1 ∧
      (parted.refill 0).mem.migrations = [] := by decide +kernel

/-- Slab 0 of partition 0 moves from T1 to T2. -/
def moving (done : Bool) : State :=
  parted.setMem { parted.mem with
    slabs := [{ key := 0, st := if done then .resident else .migrating, tier := some (if done then .t2 else .t1), access := 9 }]
    migrations := [{ key := 0, src := .t1, dst := .t2, frame := 40, switched := done, granted := true }] }

theorem test_migration_witness :
    after .accessCountHalving (moving false) (fun t => t.mem.slabs.map (·.access) == [4]) = true ∧
      after (.migrationCopyDone 0) (moving false) (fun t => t.mem.slabs.map (fun x => (x.tier, x.frame, x.st)) == [(some .t2, 40, .resident)]) = true ∧
      after (.sourceFrameFree 0) (moving true) (fun t => t.mem.migrations == []) = true ∧
      after (.tierDeadline 0 (some 0)) (moving false) (fun t => t.mem.migrations == [] && t.mem.slabs.map (·.tier) == [some .t1]) = true ∧
      after (.transferErrorAnswer 0 (some 0)) (moving false) (fun t => t.mem.migrations == [] && t.mem.slabs.map (·.st) == [.resident]) = true ∧
      after (.tierDeadline 0 none) (started parted (entry cCOPY 3 [])) (fun t => (t.part 0).late && (t.head? 0).map (·.reruns) == some 1) = true ∧
      after (.transferErrorAnswer 0 none) (started parted (entry cCOPY 3 [])) (fun t => (t.part 0).failed && (t.head? 0).map (·.reruns) == some 1) = true ∧
      exec .rebalance (runs.setSteward { runs.steward with shed := 1 }) = .next (runs.setSteward { runs.steward with shed := 1 }) ∧
      after .rebalance runs (fun t => t.mem.slabs == []) = true := by
  refine ⟨?_, ?_, ?_, ?_, ?_, ?_, ?_, rfl, ?_⟩ <;> decide +kernel

/-! The transport, receive windows and collective packets. -/

/-- Partition 0 with PFT in service. -/
def joined : State := fabricUp parted

theorem test_packet_witness :
    after (.digestMessage { header with kind := 5 } 0 0 []) joined (fun t => (t.flow 1 1).cum == 1) = true ∧ (joined.rx header 0x50 0).2 = true ∧
      (State.rx (joined.rx header 0x50 0).1 header 0x50 0).2 = false ∧ (State.rx (joined.rx header 0x50 0).1 header 0x50 0).1.fab.dup = 1 ∧
      (joined.rx header 0x50 1).2 = false ∧ (joined.rx header 0x51 0).1.sec.tagFail = 1 ∧
      ((joined.setSec { joined.sec with peers := [] }).rx header 0x50 0).1.sec.noKey = 1 ∧ (joined.rx { header with tagOk := false } 0x50 0).1.sec.tagFail = 1 ∧
      (joined.rx { header with seq := 257 } 0x50 0).1.fab.drop = 1 ∧ (joined.rx { header with seq := 256 } 0x50 0).2 = true := by decide +kernel

/-- Partition 0 with cut 0 on axis 0, queue 1 assigned and disabled, and the group descriptor with endpoint 9 in place. -/
def windowable : State :=
  ((withDev parted [groupData]).modPart 0 fun p => { p with axes := [0, 7, 7, 7, 7] }).modQueue 1 fun x => { x with assigned := true, cqLo := 0x40000 }

/-- A receive-window descriptor: window 3 of 4,096 bytes at slab 1, completing on a queue (R299). -/
def windowDesc (q : Nat) : Bytes := [1, 0x54] ++ leBytes 2 32 ++ leBytes 2 3 ++ leBytes 2 q ++ leBytes 8 slabB ++ leBytes 8 4096 ++ leBytes 8 0x6000

theorem test_window_open_witness :
    isOk (windowable.windowOf 0 (windowDesc 1)) = true ∧ (match windowable.windowOf 0 (windowDesc 0) with | .error st => st == 0x0504 | _ => false) = true ∧
      after (.windowOpen 0 0x31 [(0, windowDesc 1)]) windowable (fun t => (t.part 0).windows.map (fun w => (w.window, w.queue, w.senders)) == [(3, 1, [(0, 0), (9, 0)])] && (t.part 0).winStatus == 0) = true ∧
      after (.windowOpen 0 0x31 [(0, windowDesc 0)]) windowable (fun t => (t.part 0).windows == [] && (t.part 0).winStatus == 0x0504) = true ∧
      after (.windowClose 0 0x32) windowable (fun t => (t.part 0).winStatus == 0x0504) = true := by decide +kernel

theorem test_axes_witness :
    runs.partBusy 0 = false ∧ (started parted []).partBusy 0 = true ∧
      after (.partJobAxesWrite 0 0x7043) runs (fun t => (t.part 0).axes == [3, 0, 1, 0, 7] && (t.part 0).axesStatus == 0) = true ∧
      after (.partJobAxesWrite 0 0) (started parted []) (fun t => (t.part 0).axes == [7, 7, 7, 7, 7] && (t.part 0).axesStatus == 0x0482) = true ∧
      after (.partJobAxesWrite 0 0) exporting (fun t => (t.part 0).axesStatus == 0x0205) = true := by decide +kernel

/-- Window 3 of partition 0 with an attempt of endpoint 1 in progress. -/
def attempting (t : WinAttempt) : State :=
  (windowable.setFab { windowable.fab with valid := true, ep := 2, sessions := [(1, 0)] }).setSec { windowable.sec with peers := [{ ep := 1 }] } |>.modPart 0 fun p =>
    { p with windows := [{ window := 3, queue := 1, base := slabB, bytes := 4096, senders := [(1, 0)], tries := [t] }] }

/-- One byte of the attempt has come, in the staging slab of slab 1. -/
def oneByte : WinAttempt := { ep := 1, part := 0, attempt := 1, got := 1, slabs := [(1, .t1, some 0)], writes := [(slabB, 7)] }

theorem test_attempt_live_witness :
    Claims.Live (attempting oneByte) header { window := 3, queue := 1, base := slabB, bytes := 4096, senders := [(1, 0)], tries := [oneByte] } 1 ∧
      Claims.Accepts (attempting oneByte) header 0x50 0 ∧ Claims.Accepts (attempting oneByte) { header with type_ := 0x52, kind := 1 } 0x52 1 ∧
      Claims.Accepts (attempting oneByte) { header with type_ := 0x52, kind := 2 } 0x52 2 :=
  ⟨⟨rfl, rfl, rfl, rfl⟩, ⟨rfl, rfl, rfl, rfl, rfl, by decide, rfl, rfl, rfl, rfl, rfl⟩, ⟨rfl, rfl, rfl, rfl, rfl, by decide, rfl, rfl, rfl, rfl, rfl⟩, ⟨rfl, rfl, rfl, rfl, rfl, by decide, rfl, rfl, rfl, rfl, rfl⟩⟩

theorem test_window_tile_witness :
    (State.holdSlabs ((attempting oneByte).rxOpen header 0x50).1 0 3 oneByte []).isSome = true ∧
      after (.windowTile header 3 1 4095 [8]) (attempting oneByte) (fun t => ((t.window? 0 3).bind fun w => w.try? 1 0 1).map (fun x => (x.got, x.writes, x.bad)) ==
        some (2, [(slabB, 7), (slabB + 4095, 8)], false) && t.mem.dev == (attempting oneByte).mem.dev) = true ∧
      after (.windowTile header 3 1 4096 [8]) (attempting oneByte) (fun t => ((t.window? 0 3).bind fun w => w.try? 1 0 1).map (·.bad) == some true && t.fab.drop == 1) = true ∧
      after (.windowTile { header with srcPart := 4 } 3 1 0 [8]) (attempting oneByte) (fun t => ((t.window? 0 3).bind fun w => w.try? 1 4 1).map (·.bad) == some true && t.fab.drop == 1) = true ∧
      after (.windowTile header 4 1 0 [8]) (attempting oneByte) (fun t => t.fab.drop == 1) = true := by decide +kernel

/-- Status and TAG of the record that queue 1 has written first. -/
def record1 (t : State) : Nat × Nat := (Memory.num t.mem.hostMem 0x40006 2, Memory.num t.mem.hostMem 0x40008 8)

theorem test_window_notice_witness :
    after (.noticeCommit { header with type_ := 0x52, kind := 1 } 3 1 1 55) (attempting oneByte) (fun t => record1 t == (0, 55) && Memory.get t.mem.dev slabB == 7 && (t.window? 0 3).map (·.tries) == some []) = true ∧
      after (.noticeCommit { header with type_ := 0x52, kind := 1 } 3 1 1 55) (attempting { oneByte with bad := true, writes := [], slabs := [] }) (fun t => record1 t == (0x0505, 55) && Memory.get t.mem.dev slabB == 0) = true ∧
      after (.noticeCommit { header with type_ := 0x52, kind := 1 } 3 1 2 55) (attempting oneByte) (fun t => ((t.window? 0 3).bind fun w => w.try? 1 0 1).map (·.notice) == some (some (2, 55)) && t.mem.hostMem == []) = true ∧
      after (.noticeAbort { header with type_ := 0x52, kind := 2 } 3 1) (attempting oneByte) (fun t => (t.window? 0 3).map (·.tries) == some [] && t.mem.hostMem == []) = true ∧
      after (.missingTilesDeadline 0 3 1 0) (attempting { oneByte with notice := some (2, 55) }) (fun t => record1 t == (0x0584, 55) && (t.window? 0 3).map (·.tries) == some []) = true ∧
      ((attempting oneByte).queue 1).ringRoom = true ∧ ((attempting oneByte).queue 1).heldRecs = [] ∧ (attempting oneByte).outbound = true := by decide +kernel

/-- A DATA packet to endpoint 1 with a SEQ (R287, R289). -/
def packet (n : Nat) : Pkt := { srcEp := 2, cls := 1, dstEp := 1, seq := n, body := .data 1 0 77 0 [5] }

/-- The packets that a state has sent, in their order. -/
def sentPkts (t : State) : List Pkt := t.out.filterMap fun o => match o with | .pft _ k => some k | _ => none

/-- Queue 0 gathers a row from each of endpoints 2 and 1. -/
def collecting : State :=
  let s := fabricUp (started parted (entry cCOLLECTIVE 3 []))
  s.setFab { s.fab with flows := [{ ep := 1, cls := (s.queue 0).cls, next := 2, unacked := [(1, 0, 50, packet 1)] }], colls := [{ queue := 0, id := 77, sent := [(1, 1)], op := 2, members := [(2, 0), (1, 0)], self := 0, srcRows := 1, rowBytes := 4, src := [1, 2, 3, 4], dstRows := 2, dstCols := 1, dstAddr := 0x7000, dstPitch := 128 }] }

theorem test_collective_packets_witness :
    (collecting.findColl 0 77 1 0).isSome = true ∧ ((collecting.findColl 0 77 1 0).bind fun c => c.rankOf 1 0) = some 1 ∧ collecting.isAborted header 77 1 = false ∧
      collecting.findColl 0 77 3 0 = none ∧ joined.findColl 0 77 1 0 = none ∧ joined.fab.committed = [] ∧
      after (.collectivePull { header with kind := 2 } 1 78 0 4) collecting (fun t => t.fab.earlyPull == [(78, 1, 0, 1, 0, 4)]) = true ∧
      after (.collectiveAnnouncement { header with kind := 4 } 1 78 5) collecting (fun t => t.fab.earlyAnn == [(78, 1, 0, 1, 5)]) = true ∧
      after (.collectiveAbort { header with kind := 3 } 1 77) collecting (fun t => t.fab.collAborted == [(77, memberKey 1 0, 1)] && t.fab.colls == []) = true := by decide +kernel

/-- A stream with one other member, endpoint 1, and a digest every 4 steps. -/
def digestCfg : Bytes := patch (patch (patch streamBytes 5 [1]) 12 (leBytes 4 4)) 64 (leBytes 4 1)

theorem test_collective_pieces_witness :
    after (.collectivePiece { header with kind := 1 } 1 77 0 [9, 9]) collecting (fun t => ((t.findColl 0 77 1 0).map fun c => c.got.map (·.2)) == some [(0, [9, 9])]) = true ∧
      after (.collectivePull { header with kind := 2 } 1 77 0 4) collecting (fun t => t.mem.dev == []) = true ∧
      after (.collectiveAnnouncement { header with kind := 4 } 1 77 3) collecting (fun t => t.mem.dev == []) = true ∧
      cfgMembers digestCfg = 1 ∧ cfgMember digestCfg 0 = 1 ∧ ({ cfg := digestCfg } : Stream).keepsDigest 8 = true ∧ ({ cfg := digestCfg } : Stream).keepsDigest 12 = false ∧
      after (.digestMessage { header with kind := 5 } 0 8 [5]) (joined.modStream 0 fun st => { st with cfg := digestCfg }) (fun t => (t.part 0).stream.got == [(0, 8, [5])]) = true ∧
      after (.digestMessage { header with kind := 5 } 0 12 [5]) (joined.modStream 0 fun st => { st with cfg := digestCfg }) (fun t => (t.part 0).stream.got == []) = true ∧
      after (.digestMessage { header with kind := 5 } 1 8 [5]) joined (fun t => (t.part 0).stream.got == []) = true := by decide +kernel

/-- Endpoint 1 has two packets of class 1 outstanding on port 0, which is up with port 1. -/
def outstanding : State :=
  let s := fabricUp runs
  let s := s.setFab { s.fab with flows := [{ ep := 1, cls := 1, next := 3, unacked := [(1, 0, 50, packet 1), (2, 0, 50, packet 2)], sinceAck := 1, cum := 4 }] }
  (s.modPort 0 fun p => { p with subUp := 1 }).modPort 1 fun p => { p with subUp := 1 }

theorem test_ack_arrives_witness : Claims.AckArrives outstanding { header with type_ := 0x51 } := ⟨rfl, rfl, rfl, rfl, rfl, by decide, rfl, rfl, rfl, by decide⟩

theorem test_transport_timers_witness :
    outstanding.pickPort (portAxis outstanding.fab.axis 0) (some 0) = some 1 ∧ outstanding.outstanding 1 = true ∧
      after (.ack { header with type_ := 0x51 } 1 0) outstanding (fun t => (t.flow 1 1).unacked.map (·.1) == [2]) = true ∧
      after (.ack { header with type_ := 0x51 } 0 2) outstanding (fun t => (t.flow 1 1).unacked.map (·.1) == [1]) = true ∧
      after (.ackTimer 1 1) outstanding (fun t => (sentPkts t).map (fun k => (k.dstEp, k.cls, k.body)) == [(1, 1, .ack 4 0)] && (t.flow 1 1).sinceAck == 0) = true ∧
      after (.rtoExpiry 1 1 2) outstanding (fun t => sentPkts t == [packet 2] && (t.flow 1 1).unacked == [(1, 0, 50, packet 1), (2, 1, 100, packet 2)]) = true ∧
      after (.endpointUnreachable 1) outstanding (fun t => t.fab.lost && t.fab.lastEp == 1) = true := by decide +kernel

theorem test_request_deadline_witness :
    collecting.unackedBy 0 = true ∧ (collecting.collOf 0).isSome = true ∧ killable (startedCmd (entry cCOLLECTIVE 3 [])) = true ∧
      after (.requestDeadline (.ofCommand 0)) collecting (fun t => (t.head? 0).map (·.reruns) == some 1 && t.fab.colls == []) = true ∧
      after (.requestDeadline (.cellar 0)) (started parted (entry cCOPY 3 [])) (fun t => (t.part 0).late && (t.head? 0).map (·.reruns) == some 1) = true := by decide +kernel

/-- A notice of which nothing has come back is forgotten (R297). -/
theorem test_notice_deadline :
    let n : Pkt := { srcEp := 2, cls := 1, dstEp := 1, seq := 7, body := .notice 1 3 1 4 9 }
    let s := outstanding.setFab { outstanding.fab with flows := [{ ep := 1, cls := 1, next := 8, unacked := [(7, 0, 50, n)] }] }
    n.type_ = 0x52 ∧ after (.requestDeadline (.notice 1 1 7)) s (fun t => (t.flow 1 1).unacked == []) = true := by decide +kernel

/-- Out of L0 the host takes nothing: interrupt messages are held, and sent when the link is back (log entry 12). -/
theorem test_held_vectors :
    let s := runs.setLink { runs.link with st := .recovery, firstAccess := true, hostLoss := true, heldVec := [3], msixTable := List.replicate 288 0 }
    after .firstBar0AccessAfterHostLoss s (fun t => t.out == [] && t.link.heldVec.contains 65) = true ∧
      after (.linkReturnL0 6 16) s (fun t => t.out.contains (.msix 3) && t.link.heldVec == []) = true := by decide +kernel

/-- A host-loss cause before the module is ready puts both levels to 0 at once (R9, R369). -/
theorem test_host_loss_before_ready :
    after (.hostLossReset .flr) (runs.setPhase .boot) (fun t => t.link.effLevel == 0 && t.link.hostLevel == 0 && t.phase == .boot && t.link.hostLoss) = true := by decide +kernel

/-! The power block. -/

theorem test_caps_witness :
    runs.smbFull = true ∧ Claims.heldCap 0 = 500 ∧ Claims.heldCap 0x7FF = 1100 ∧ Claims.heldCap 700 = 700 ∧
      after (.pwrCapWrite 400) runs (fun t => t.power.capW == 500 && t.power.effCap == 500) = true ∧
      after (.sbCapWrite 700) runs (fun t => t.power.boardCap == 700 && t.power.effCap == 700 && t.power.capW == 1100) = true ∧
      after (.modeWrite 0x503) runs (fun t => t.power.mode == 0 && t.power.learnMs == 5 && t.power.learnEff == 5) = true ∧
      after (.modeWrite 0xFF02) runs (fun t => t.power.mode == 2 && t.power.learnMs == 255 && t.power.learnEff == 160) = true ∧
      after (.pwrPeakClear 0x10000) (runs.setPower { runs.power with peak := 9 }) (fun t => t.power.peak == 0) = true ∧
      after (.pwrIdleWrite 79) (runs.setPower { runs.power with idle := 3 }) (fun t => t.power.tolUs == 79 && t.power.idle == 0) = true ∧
      after .pwrBrakeAssert runs (fun t => t.pins.brake && t.power.effCap == 500 && t.power.event.getLsbD 4 && t.err.lastCode == 0x0913) = true ∧
      after .pwrBrakeRelease (runs.setPins { runs.pins with brake := true }) (fun t => !t.pins.brake && t.power.effCap == 1100) = true := by decide +kernel

/-- A command of queue 0 holds cores 0 and 1, in Barku compatibility mode. -/
def busy : State :=
  (withCmds parted [{ startedCmd (entry cNOP 3 []) with cores := [0, 1] }]).setPower { parted.power with mode := 1 }

/-- Cores 0 and 1 run with their limits at 64. -/
def issuing : State := (busy.modCore 0 fun c => { c with q := 64 }).modCore 1 fun c => { c with q := 64 }

theorem test_power_window_witness :
    issuing.runCores.map (·.core) = [0, 1] ∧ (1300 - issuing.bounds.2.1) / (1 + issuing.bounds.1) < (1200 : Rat) ∧ issuing.power.mode ≠ 2 ∧ issuing.power.cutPending = false ∧
      ((issuing.limitCores issuing.runCores 200 1200).core 0).q = 48 ∧ ((issuing.limitCores issuing.runCores 200 1200).core 2).q = 0 ∧
      ((busy.limitCores busy.runCores 100 200).core 0).q = 8 := by decide +kernel

/-- A window takes the limit of an idle core to 0, and the clocks to the mode in force. -/
theorem test_power_window :
    after (.powerWindow [] ⟨50, 800⟩) (busy.modCore 2 fun c => { c with q := 9 }) (fun t => t.power.secWins == 1) = true ∧
      after (.powerWindow [] ⟨50, 800⟩) (busy.modCore 2 fun c => { c with q := 9 }) (fun t => (t.core 2).q == 0) = true ∧
      after (.powerWindow [] ⟨50, 800⟩) (busy.modCore 2 fun c => { c with fused := 2000 }) (fun t => (t.core 2).mhz == 2000) = true := by
  refine ⟨?_, ?_, ?_⟩ <;> decide +kernel

theorem test_correction_and_learning_witness :
    after (.correctionUpdate () ()) (runs.setPower { runs.power with second := some (104, 100) }) (fun t => t.power.g == 401 / 400 && !t.power.locked && t.power.second == none) = true ∧
      after (.correctionUpdate () ()) (runs.setPower { runs.power with second := some (104, 100), g := 115 / 100 }) (fun t => t.power.clamped && t.err.lastCode == 0x0919) = true ∧
      exec (.correctionUpdate () ()) runs = .next runs ∧
      after (.correctionUpdate () ()) ((runs.setMeter { runs.meter with fault := true }).setPower { runs.power with second := some (104, 100) }) (fun t => t.power.g == 1 && t.power.second == none) = true ∧
      after (.learningUpdate [(5, 3, 4)]) runs (fun t => t.power.learn == [(5, 3, 4)]) = true ∧
      after (.learningUpdate [(5, 3, 4)]) (runs.setPower { runs.power with learn := [(6, 1, 1), (5, 1, 2)] }) (fun t => t.power.learn == [(5, 5 / 4, 9 / 4), (6, 1, 1)]) = true := by
  refine ⟨?_, ?_, rfl, ?_, ?_, ?_⟩ <;> decide +kernel

theorem test_heat_witness :
    runs.thermSeen (.core 3) = true ∧ (thermClass (.core 3)).1 ≠ 5 ∧ tripAt (.core 3) = 110 ∧ runs.recent 600000000 runs.power.trips = [0] ∧ (runs.core 3).qT ≤ 64 ∧
      after (.sensorRead [(.core 3, 90)]) runs (fun t => t.power.temps == [(.core 3, 90)] && t.power.hotMargin == 10) = true ∧
      after .throttleTick (runs.setPower { runs.power with temps := [(.core 3, 101)] }) (fun t => (t.core 3).qT == 60 && (t.core 4).qT == 64 && t.power.event.getLsbD 2) = true ∧
      after .throttleTick (runs.modCore 3 fun c => { c with qT := 60 }) (fun t => (t.core 3).qT == 61 && t.power.throttleUs == 1000) = true := by decide +kernel

theorem test_trip_witness :
    after (.thermalTrip (.core 3) 110) runs (fun t => t.power.tripped && t.power.event.getLsbD 3 && t.phase == .run) = true ∧
      after (.thermalTrip (.core 3) 110) (runs.setPower { runs.power with trips := [0, 0] }) (fun t => t.phase == .shutdown && !t.pins.ready) = true ∧
      after .tripRecovery (runs.setPower { runs.power with tripped := true, temps := [(.core 3, 90)] }) (fun t => !t.power.tripped && (t.core 5).qT == 32 && t.power.event.getLsbD 2) = true ∧
      after (.droopTrip 1) runs (fun t => (t.core 72).droop == some 0 && (t.core 71).droop == none && t.power.droops == 1 && t.power.event.getLsbD 1) = true ∧
      after (.droopRecovery 1) (runs.modCore 72 fun c => { c with droop := some 0, q := 40 }) (fun t => (t.core 72).droop == some 16 && (t.core 72).limit == 16) = true ∧
      after (.droopRecovery 1) (runs.modCore 72 fun c => { c with droop := some 0, q := 9 }) (fun t => (t.core 72).droop == none) = true := by decide +kernel

/-- A tripped command that may be re-run. -/
theorem test_trip_requeues :
    entNoRetry (entry cPRODUCT 3 []) = false ∧
      after (.thermalTrip (.core 3) 110) (started parted (entry cPRODUCT 3 [])) (fun t => (t.head? 0).map (fun c => (c.phase, c.reruns)) == some (.queued, 1)) = true := by decide +kernel

theorem test_idle_states_witness :
    parted.holder 7 = none ∧ runs.moduleIdle = true ∧ twoQueued.moduleIdle = false ∧
      after (.s2Entry 7) ((parted.setPower { parted.power with tolUs := 80 }).modCore 7 fun c => { c with idle := .s1 }) (fun t => (t.core 7).idle == .s2) = true ∧
      after (.s2Entry 7) (parted.setPower { parted.power with tolUs := 80 }) (fun t => (t.core 7).idle == .s0) = true ∧
      after .s3Entry (runs.setPower { runs.power with tolUs := 40000 }) (fun t => t.power.idle == 4) = true ∧
      after .s3Entry (runs.setPower { runs.power with tolUs := 3000 }) (fun t => t.power.idle == 3) = true ∧
      after .s3Entry ((runs.setPower { runs.power with tolUs := 40000 }).modPart 1 fun p => { p with windows := [{}] }) (fun t => t.power.idle == 3) = true ∧
      after .s3Entry (runs.setPower { runs.power with tolUs := 2999 }) (fun t => t.power.idle == 0) = true ∧
      after .wake ((runs.setPower { runs.power with idle := 4 }).modLaser 0 fun l => { l with st := .idle }) (fun t => t.power.idle == 0 && (t.laser 0).st == .ramping) = true := by decide +kernel

/-- R495, R496: SB_ALERT_EN stores its bits, and a block write of an unknown code sets BAD_CMD. -/
theorem test_smbus_write : runs.smbOpen = true ∧ after (.registerWrite (.smbus 6 [0x21, 0, 0, 0] true)) runs (fun t => t.steward.alertEn == 0x21#6 && t.readSb 6 == 0x21) = true ∧
    after (.registerWrite (.smbus 0x30 [0, 0, 0, 0] true)) runs (fun t => t.readSb 5 == 0x20) = true := by decide

/-! Registers, the security mailbox, attestation and the meter. -/

theorem test_register_writes_witness :
    runs.sec.mbox.length = 4096 ∧ runs.queues.length = 64 ∧
      after (.registerWrite (.bar0 0x180100 0x1234 (some 5))) runs (fun t => t.adm.addrLo == 0x1234 && t.adm.addrHi == 5 && t.readReg 0x180100 == 0x1234) = true ∧
      after (.registerWrite (.bar0 0x224 7 none)) runs (fun t => t.hle.addrLo == 7) = true ∧
      after (.registerWrite (.bar0 0x501000 0x04030201 none)) runs (fun t => t.sec.mbox.take 5 == [1, 2, 3, 4, 0]) = true ∧
      exec (.registerWrite (.bar0 0x102 7 none)) runs = .next runs ∧ exec (.registerWrite (.bar0 0x104 7 (some 1))) runs = .next runs ∧
      after (.acctClear false 3 1) (runs.modQueue 3 fun x => { x with acct := { waitSum := 9 } }) (fun t => (t.queue 3).acct.waitSum == 0) = true ∧
      after (.acctClear true 19 1) (runs.modPart 3 fun x => { x with acct := { waitSum := 9 } }) (fun t => (t.part 3).acct.waitSum == 0) = true := by
  refine ⟨?_, ?_, ?_, ?_, ?_, rfl, rfl, ?_, ?_⟩ <;> decide +kernel

/-- The mailbox holds a request with an empty chain for endpoint 3. -/
def mailed (n : Nat) (peers : List Peer) : State := runs.setSec { runs.sec with reqLen := n, mbox := 3 :: List.replicate 4095 0, peers := peers }

theorem test_peer_requests_witness :
    (Claims.request (mailed 8 [])).length = 8 + field (Claims.request (mailed 8 [])) 4 2 ∧ field (Claims.request (mailed 8 [])) 0 4 % 2 ^ 20 = 3 ∧
      (mailed 8 [{ ep := 3 }]).sec.peers.find? (fun x => x.ep == 3) = some { ep := 3 } ∧
      after .peerRemove (mailed 4 [{ ep := 3 }, { ep := 5 }]) (fun t => t.sec.peers == [{ ep := 5 }] && t.sec.status == 0) = true ∧
      after .peerRemove (mailed 4 [{ ep := 5 }]) (fun t => t.sec.peers == [{ ep := 5 }] && t.sec.status == 0) = true ∧
      after .peerRemove (mailed 5 [{ ep := 3 }]) (fun t => t.sec.status == 0x0A01) = true ∧
      after .peerRemove ((mailed 4 [{ ep := 3 }]).setMem { runs.mem with lent := [{ ep := 3 }] }) (fun t => t.sec.status == 0x0A06 && t.sec.peers.length == 1) = true ∧
      after .peerClear (mailed 0 [{ ep := 3 }]) (fun t => t.sec.peers == [] && t.sec.status == 0) = true ∧
      after .peerClear ((mailed 0 [{ ep := 3 }]).setMem { runs.mem with lent := [{ ep := 5 }] }) (fun t => t.sec.status == 0x0A06) = true ∧
      after .peerClear (mailed 1 [{ ep := 3 }]) (fun t => t.sec.status == 0x0A01) = true ∧
      after .peerAdd (mailed 7 []) (fun t => t.sec.status == 0x0A01) = true ∧
      after .getChain (mailed 1 []) (fun t => t.sec.status == 0x0A01 && t.sec.rspLen == 0) = true ∧
      after .getMeterChain (mailed 1 []) (fun t => t.sec.status == 0x0A01) = true := by decide +kernel

theorem test_peer_in_use_witness :
    Claims.PeerInUse ((mailed 4 [{ ep := 3 }]).setMem { runs.mem with lent := [{ ep := 3 }] }) (· = 3) ∧ ¬ Claims.PeerInUse (mailed 4 [{ ep := 3 }]) (· = 3) := by
  refine ⟨Or.inr (Or.inr (Or.inr (Or.inl ⟨{ ep := 3 }, List.mem_singleton_self _, rfl⟩))), ?_⟩
  rintro (⟨w, h, _⟩ | ⟨p, h, e, he, _⟩ | ⟨p, h, l, hl, _⟩ | ⟨l, h, _⟩ | ⟨r, h, _⟩)
  · exact absurd h List.not_mem_nil
  · rw [List.eq_of_mem_replicate h] at he; cases he
  · rw [List.eq_of_mem_replicate h] at hl; exact absurd hl List.not_mem_nil
  · exact absurd h List.not_mem_nil
  · exact absurd h List.not_mem_nil

/-- The mailbox holds a request with the three certificates for endpoint 3, and the boot ROM the digest of their root. -/
def chained (peers : List Peer) : State :=
  runs.setSec { runs.sec with
    reqLen := 1065, mbox := 3 :: (leBytes 3 0 ++ leBytes 2 1057 ++ leBytes 2 0 ++ cert0 ++ cert1 ++ cert2 ++ List.replicate 3031 0)
    peers := peers, keys := { runs.sec.keys with vendorRoots := [sha384 cert0] } }

theorem test_peer_chain_witness :
    chainVerifies (chained []).peerRoots (chainCerts ((Claims.request (chained [])).drop 8)) = true ∧ (Claims.request (chained [])).length = 1065 ∧
      field (Claims.request (chained [])) 4 2 = 1057 := by decide +kernel

/-- An entry with the key of the chain, and one with another. -/
theorem test_peer_key_witness :
    after .peerAdd (chained [{ ep := 3, pubKey := chainKey (chainCerts (cert0 ++ cert1 ++ cert2)) }]) (fun t => t.sec.status == 0 && t.sec.peers.length == 1) = true ∧
      ([] : Bytes) ≠ chainKey (chainCerts ((Claims.request (chained [])).drop 8)) := by decide +kernel

theorem test_debug_witness :
    after .debugOpen (mailed 0 []) (fun t => t.sec.status == 0x0A05 && !t.sec.debugOpen) = true ∧
      after .debugOpen (runs.setSec { runs.sec with debugAllow := true }) (fun t => t.sec.status == 0 && t.sec.debugOpen && t.sec.jtag && t.err.lastCode == 0x0A11) = true ∧
      after .debugOpen (parted.setSec { parted.sec with debugAllow := true }) (fun t => t.sec.status == 0x0A05) = true := by decide +kernel

theorem test_attestation_witness :
    Claims.Attests runs ∧ runs.sec.debugOpen = false ∧
      runs.measurement false 6 = [0, 0, 0, 0] ∧ (runs.measurement false 7).length = 260 ∧ field (parted.measurement false 7) 4 1 = 1 ∧ field (parted.measurement false 7) 6 2 = 4 ∧
      exec (.getDigests []) (runs.setSteward { runs.steward with shed := 1 }) = .next ((runs.setSteward { runs.steward with shed := 1 }).emit .spdmNotReady) ∧
      exec (.getDigests []) State.reset = .next State.reset := by
  refine ⟨⟨rfl, rfl, rfl⟩, rfl, ?_, ?_, ?_, ?_, rfl, rfl⟩ <;> decide +kernel

theorem test_attestation_answers :
    after (.getVersion [1]) runs (fun t => t.out.length == 1) = true ∧ after (.getCapabilities [1]) runs (fun t => t.out.length == 1) = true ∧
      after (.negotiateAlgorithms [1]) runs (fun t => t.out.length == 1) = true ∧ after (.getDigests [1]) runs (fun t => t.out.length == 1) = true ∧
      after (.getCertificate [1] 0 0 9) runs (fun t => t.out.length == 1) = true ∧ after (.challenge [1] 0 []) runs (fun t => t.out.length == 1 && t.fresh == 2) = true ∧
      after (.getMeasurements [1] 255 true []) runs (fun t => t.out.length == 1 && t.sec.measMsgs == []) = true := by decide +kernel

theorem test_meter_witness :
    runs.meter.nonce.length = 8 ∧ runs.tagRefuses = false ∧ runs.tag.mem.length = 2048 ∧ (runs.setTag { runs.tag with rf := true }).tagRefuses = true ∧
      after (.fuelagrimSecond 900000 true false) runs (fun t => t.meter.energy == 900000 && t.meter.opS == 1 && t.meter.overS == 1 && t.meter.fault && t.err.lastCode == 0x0A20) = true ∧
      after (.fuelagrimSecond 900000 false true) runs (fun t => t.meter.j0.flag && t.meter.j0.energy == 900000 && !t.meter.j1.flag && t.power.second == some (900, 0) && t.power.event == 0) = true ∧
      after (.fuelagrimSecond 1200000 false true) runs (fun t => t.power.event.getLsbD 0 && t.err.lastCode == 0x0912) = true ∧
      after (.fuelagrimSecond 9 false true) State.reset (fun t => t.meter.energy == 0) = true ∧
      after (.sign 1) (runs.setMeter { runs.meter with energy := 5, macs := 2048 :: List.replicate 15 0 })
        (fun t => t.meter.seq == 1 && field t.meter.record 1 1 == 0x70 && field t.meter.record 40 8 == 5 && field t.meter.record 88 8 == 2) = true ∧
      after .meterRecord (runs.setTag { runs.tag with rf := true }) (fun t => t.meter.tagPend.isSome && t.meter.seq == 1) = true ∧
      after .meterTagRetry (runs.setMeter { runs.meter with tagPend := some ([1], 0) }) (fun t => t.meter.tagPend == none) = true ∧
      after .meterTagRetry (((runs.setTag { runs.tag with rf := true }).setMeter { runs.meter with tagPend := some ([1], 0) }).setNowUs 60000000) (fun t => t.meter.tagLate && t.err.lastCode == 0x0A22) = true ∧
      after .meterTagRetry (((runs.setTag { runs.tag with rf := true }).setMeter { runs.meter with tagPend := some ([1], 0) }).setNowUs 59999999) (fun t => !t.meter.tagLate) = true ∧
      after .parameterSetLoad runs (fun t => t.meter.paramSet == 2 && t.meter.eventCount == 1) = true ∧
      after .parameterSetLoad (runs.setMeter { runs.meter with paramSet := 15 }) (fun t => t.meter.paramSet == 15) = true := by decide +kernel

/-! The optical ports and the laser source block. -/

/-- Eight channels lit, one for each engine, and two dark spares. -/
def lit : State :=
  runs.setOptics { runs.optics with
    lasers := (List.range 10).map fun c => if c < 8 then { st := .lit, engine := some c, bias := 300 } else {} }

/-- The lit module with a port changed. -/
def withPort (n : Nat) (f : Port → Port) : State := lit.modPort n f

theorem test_port_writes_witness :
    lit.optics.ports.length = 16 ∧ lit.barOpen = true ∧
      after (.portCfgWrite 3 1 0x5007) (withPort 3 fun p => { p with adminUp := false }) (fun t => (t.port 3).vid == 7 && (t.port 3).ctrlPcp == 5 && (t.port 3).lastError == 0) = true ∧
      after (.portCfgWrite 3 1 0x5007) lit (fun t => (t.port 3).vid == 1 && (t.port 3).lastError == 0x0601) = true ∧
      after (.portCfgWrite 3 1 0x6000) (withPort 3 fun p => { p with adminUp := false }) (fun t => (t.port 3).vid == 1 && (t.port 3).lastError == 0x0601) = true ∧
      after (.portCfgWrite 3 3 0x10023F) lit (fun t => (t.port 3).high == 63 && (t.port 3).low == 2 && (t.port 3).quanta == 16) = true ∧
      after (.portCfgWrite 3 3 0x102020) lit (fun t => (t.port 3).high == 48 && (t.port 3).lastError == 0x0601) = true ∧
      after (.portCfgWrite 3 0 0x24000028) (withPort 3 fun p => { p with subUp := 1, shares := [{ paused := true, occ := 9 }] })
        (fun t => !(t.port 3).adminUp && (t.port 3).subUp == 0 && t.out == [.pause 3 0 8 0]) = true ∧
      after (.retryFull 3 1 []) ((withPort 3 fun p => { p with laneFault := 1, width := 2 }).setInv { lit.inv with degraded := 8 })
        (fun t => t.inv.degraded == 0 && (t.port 3).subUp == 1 && (t.port 3).width == 0) = true ∧
      after (.retryFull 3 1 [⟨3, 4, true, true⟩]) ((withPort 3 fun p => { p with laneFault := 1, width := 2 }).setInv { lit.inv with degraded := 8 })
        (fun t => t.inv.degraded == 8 && (t.port 3).subUp == 0 && (t.port 3).width == 1) = true ∧
      after (.retryFull 3 1 [⟨3, 4, true, false⟩]) ((withPort 3 fun p => { p with laneFault := 1, width := 2 }).setInv { lit.inv with degraded := 8 })
        (fun t => t.inv.degraded == 8 && (t.port 3).txSpare == 4 && (t.port 3).width == 0 && (t.port 3).subUp == 0) = true ∧
      after (.subportUp 3 0) (lit.setInv { lit.inv with degraded := 8 }) (fun t => t.inv.degraded == 0) = true ∧
      after (.portCntClear 3 1) (withPort 3 fun p => { p with cnt := List.replicate 13 7 }) (fun t => (t.port 3).cnt == List.replicate 13 0) = true := by decide +kernel

/-- One packet that port 3 sent last and that ports of the same axis could take. -/
def flying : State :=
  ((withPort 3 fun p => { p with subUp := 1 }).modPort 10 fun p => { p with subUp := 1 }).setFab { lit.fab with valid := true, flows := [{ ep := 9, cls := 1, unacked := [(5, 3, 20, packet 5)] }] }

theorem test_port_training_witness :
    flying.pickPort (portAxis flying.fab.axis 3) (some 3) = some 10 ∧
      after (.portDown 3) flying (fun t => (t.port 3).subUp == 0 && (t.flow 9 1).unacked == [(5, 10, 20, packet 5)] && sentPkts t == [packet 5] && t.err.lastCode == 0x0610) = true ∧
      Claims.EngineRuns lit (3 / 2) ∧
      after (.subportUp 3 0) lit (fun t => (t.port 3).subUp == 1 && t.out == [.gratuitous 3 0 (some (1, 6))] && t.err.lastCode == 0x0611) = true ∧
      after (.subportUp 3 0) (lit.setPhase .warm) (fun t => (t.port 3).subUp == 1 && t.out == []) = true ∧
      after (.subportUp 3 1) lit (fun t => (t.port 3).subUp == 0) = true ∧ after (.subportUp 3 0) runs (fun t => (t.port 3).subUp == 0) = true ∧
      after (.trainingRetry 3 0 true) lit (fun t => (t.port 3).subUp == 1) = true := by
  refine ⟨?_, ?_, ⟨⟨{ st := .lit, engine := some 1, bias := 300 }, ?_, rfl, rfl⟩, ?_⟩, ?_, ?_, ?_, ?_, ?_⟩ <;> decide +kernel

theorem test_lane_failure_witness :
    after (.laneFailure 3 5 true ⟨false, []⟩) (withPort 3 fun p => { p with subUp := 1 })
        (fun t => (t.port 3).subUp == 0 && (t.port 3).txSpare == 5 && (t.port 3).rxSpare == 15 && (t.port 3).laneFault == 0 && t.inv.degraded == 0) = true ∧
      after (.laneFailure 3 5 true ⟨false, []⟩) (withPort 2 fun p => { p with txSpare := 0 }) (fun t => (t.port 3).laneFault == 0x20 && (t.port 3).width == 1 && t.inv.degraded == 8) = true ∧
      after (.laneFailure 3 5 true ⟨true, []⟩) lit (fun t => (t.port 3).laneFault == 0x20 && (t.port 3).txSpare == 15) = true ∧
      after (.laneFailure 3 1 true ⟨true, []⟩) (withPort 3 fun p => { p with laneFault := 0x20 }) (fun t => (t.port 3).width == 3) = true ∧
      after (.laneFailure 3 5 false ⟨true, []⟩) (withPort 3 fun p => { p with mode := 1, subUp := 3 }) (fun t => (t.port 3).subUp == 1 && (t.port 3).width == 0) = true := by decide +kernel

/-- The group address of MAC control frames (R326). -/
def controlMac : Bytes := [0x01, 0x80, 0xC2, 0, 0, 1]

/-- Port 3 with sub-port 0 up, and its transmitter changed. -/
def sending (f : Port → Port) (g : SubTx → SubTx) : State := withPort 3 fun p => f { p with subUp := 1, tx := updAt p.tx 0 g }

theorem test_pause_witness :
    let up := sending id id
    let pfc := sending (fun p => { p with fcMode := 2, pfcEn := 0x05 }) id
    (up.port 3).cnt.length = 13 ∧ (up.port 3).tx.length = 8 ∧ ((up.port 3).txOf 0).pausePrio.length = 8 ∧
      after (.pauseFrame ⟨3, 0, controlMac⟩ 77) up (fun t => ((t.port 3).txOf 0).pauseAll == 77 && (t.port 3).cnt.getD 7 0 == 1) = true ∧
      after (.pauseFrame ⟨3, 0, (leBytes 6 9)⟩ 77) up (fun t => ((t.port 3).txOf 0).pauseAll == 0 && (t.port 3).cnt.getD 9 0 == 1) = true ∧
      after (.pauseFrame ⟨3, 0, controlMac⟩ 77) pfc (fun t => ((t.port 3).txOf 0).pauseAll == 0 && (t.port 3).cnt.getD 9 0 == 1) = true ∧
      after (.pfcFrame ⟨3, 0, controlMac⟩ 0x06 [9, 8, 7, 6]) pfc (fun t => ((t.port 3).txOf 0).pausePrio == [0, 0, 7, 0, 0, 0, 0, 0]) = true ∧
      after (.pauseExpiry ⟨3, 0⟩ (some 2)) (sending id fun x => { x with pausePrio := [0, 0, 7, 4, 0, 0, 0, 0] }) (fun t => ((t.port 3).txOf 0).pausePrio == [0, 0, 0, 4, 0, 0, 0, 0]) = true ∧
      after (.pauseExpiry ⟨3, 0⟩ none) (sending id fun x => { x with pauseAll := 9 }) (fun t => ((t.port 3).txOf 0).pauseAll == 0) = true := by
  decide +kernel

/-- During a warm reset no pause is received. -/
theorem test_pause_in_warm_reset : exec (.pauseFrame ⟨3, 0, controlMac⟩ 1) (lit.setPhase .warm) = .next (lit.setPhase .warm) := rfl

/-- What waits under a PAUSE goes out when it ends, control before class 0 before class 1 (R325, R327). -/
theorem test_egress_order :
    let waits := sending id fun x => { x with pauseAll := 9, queue := [(2, false, .pft (packet 2)), (1, false, .pft (packet 1)), (0, false, .pft (packet 0))] }
    ((waits.port 3).txOf 0).pick (waits.port 3) 0 (fun _ => 100) = none ∧
      after (.pauseExpiry ⟨3, 0⟩ none) waits (fun t => sentPkts t == [packet 0, packet 1, packet 2] && ((t.port 3).txOf 0).queue == []) = true := by
  decide +kernel

/-- Port 3 with bytes in the share of its sub-port. -/
def filled (occ : Nat) (paused : Bool) : State := withPort 3 fun p => { p with subUp := 1, shares := [{ occ := occ, paused := paused }] }

theorem test_watermark_witness :
    (lit.port 3).shareSize * 48 = 64 * 1572864 ∧ (lit.port 3).shareSize * 16 = 64 * 524288 ∧
      after (.ingressHigh 3 0 0) (filled 1572865 false) (fun t => t.out == [.pause 3 0 8 65535] && ((t.port 3).share 0 0).paused) = true ∧
      after (.ingressHigh 3 0 0) (filled 1572864 false) (fun t => t.out == []) = true ∧
      after (.pauseRepeat 3 0 0) (filled 524288 true) (fun t => t.out == [.pause 3 0 8 65535]) = true ∧ after (.pauseRepeat 3 0 0) (filled 524287 true) (fun t => t.out == []) = true ∧
      after (.ingressLow 3 0 0 1) (filled 524288 true) (fun t => t.out == [.pause 3 0 8 0] && ((t.port 3).share 0 0).occ == 524287 && !((t.port 3).share 0 0).paused) = true ∧
      after (.ingressLow 3 0 0 0) (filled 524288 true) (fun t => t.out == [] && ((t.port 3).share 0 0).paused) = true := by decide +kernel

theorem test_stall_witness :
    after (.flowStall 3) (sending id fun x => { x with pauseAll := 1 }) (fun t => (t.port 3).stalled && (t.port 3).subUp == 1 && t.err.lastCode == 0x0614 && !t.portUp 3) = true ∧
      after (.flowStall 3) (sending (fun p => { p with fcMode := 2 }) fun x => { x with pausePrio := [0, 1, 1, 1, 0, 1, 0, 0] }) (fun t => !(t.port 3).stalled) = true ∧
      after (.flowStall 3) (sending (fun p => { p with fcMode := 2 }) fun x => { x with pausePrio := [0, 1, 1, 1, 0, 1, 1, 0] }) (fun t => (t.port 3).stalled) = true ∧
      after (.stallClear 3) (sending (fun p => { p with stalled := true }) id) (fun t => !(t.port 3).stalled) = true ∧
      after (.stallClear 3) (sending (fun p => { p with stalled := true }) fun x => { x with pauseAll := 1 }) (fun t => (t.port 3).stalled) = true := by decide +kernel

/-- A good frame of 1,000 bytes with what it carries, to the group address. -/
def frame (what : FrameKind) : Frame := { fcsOk := true, len := 1000, doubleTag := false, tag := none, what := what, dst := controlMac }

/-- A datagram to the IPv4 address of port 3 of endpoint 0. -/
def pftFrame : Frame := frame (.udp (lit.ip4Of 0 3) (BitVec.ofNat 16 lit.fab.udpPort))

theorem test_frames_witness :
    let up := sending id id
    after (.frameReceive 3 0 pftFrame) up (fun t => (t.port 3).cnt.getD 2 0 == 1 && (t.port 3).cnt.getD 3 0 == 1000 && ((t.port 3).share 0 0).occ == 1000) = true ∧
      after (.frameReceive 3 0 { pftFrame with fcsOk := false, fecUncorr := 2 }) up (fun t => (t.port 3).cnt.getD 4 0 == 1 && (t.port 3).cnt.getD 2 0 == 0 && (t.port 3).cnt.getD 11 0 == 2) = true ∧
      after (.frameReceive 3 0 { pftFrame with len := 9217 }) up (fun t => (t.port 3).cnt.getD 5 0 == 1) = true ∧
      after (.frameReceive 3 0 { pftFrame with tag := some (2, 0) }) up (fun t => (t.port 3).cnt.getD 5 0 == 1) = true ∧
      after (.frameReceive 3 0 (frame (.udp (lit.ip4Of 0 4) (BitVec.ofNat 16 lit.fab.udpPort)))) up (fun t => (t.port 3).cnt.getD 5 0 == 1) = true ∧
      after (.frameReceive 3 0 (frame .control)) up (fun t => (t.port 3).cnt.getD 2 0 == 1 && (t.port 3).shares == []) = true ∧
      after (.frameReceive 3 0 { frame .control with dst := leBytes 6 9 }) up (fun t => (t.port 3).cnt.getD 9 0 == 1) = true ∧
      after (.frameReceive 3 0 (frame .arp)) (up.modPort 3 fun p => { p with shares := [{ occ := 2096153 }] }) (fun t => (t.port 3).cnt.getD 6 0 == 1) = true ∧
      after (.frameReceive 3 0 pftFrame) lit (fun t => (t.port 3).cnt == (lit.port 3).cnt) = true ∧
      after (.arpRequest 3 0 [10, 0, 0, 0x53]) (up.setFab { up.fab with net := 10, ep := 5 }) (fun t => t.out == [.arpReply 3 0 (some (1, 6))]) = true ∧
      after (.arpRequest 3 0 [10, 0, 0, 0x52]) (up.setFab { up.fab with net := 10, ep := 5 }) (fun t => t.out == []) = true ∧
      after (.neighbourSolicitation 3 0 [0xFD, 0, 0, 1, 0, 0, 0, 2, 0, 0, 0, 0, 0, 0, 0, 0x53]) (up.setFab { up.fab with ip6Hi := 0xFD000001, ip6Lo := 2, ep := 5 })
        (fun t => t.out == [.neighbourAdv 3 0 (some (1, 6))]) = true := by decide +kernel

theorem test_engine_heat_witness :
    after (.engineHot 1) lit (fun t => t.power.event == 0x80 && t.err.lastCode == 0x0917) = true ∧
      after (.engineOverheat 1) ((withPort 3 fun p => { p with subUp := 1 }).modPort 4 fun p => { p with subUp := 1 })
        (fun t => (t.port 3).subUp == 0 && (t.port 3).engineStop && (t.port 4).subUp == 1 && t.err.lastCode == 0x0918) = true ∧
      after (.engineCooled 1) (withPort 3 fun p => { p with engineStop := true }) (fun t => !(t.port 3).engineStop) = true := by decide +kernel

theorem test_laser_failure_witness :
    after (.laserShort 2) lit (fun t => (t.laser 2).st == .failed && t.optics.rampQ == [(8, 2)] && !t.optics.rail && t.inv.laserActive == lit.inv.laserActive) = true ∧
      after (.laserShort 2) ((lit.modLaser 8 fun l => { l with failed := true }).modLaser 9 fun l => { l with st := .ramping })
        (fun t => t.optics.evDark && t.inv.degraded == 0x30 && (t.laser 9).st == .paused && t.inv.laserActive == lit.inv.laserActive - 1) = true ∧
      after (.laserShort 8) lit (fun t => (t.laser 8).st == .dark && !t.optics.evShort) = true ∧ lit.optics.rampFor = [] ∧ lit.optics.rampQ = [] ∧
      after .laserRailRegulated ((lit.modLaser 9 fun l => { l with st := .paused }).setOptics { (lit.modLaser 9 fun l => { l with st := .paused }).optics with rail := false })
        (fun t => t.optics.rail && (t.laser 9).st == .ramping) = true ∧
      after .laserRailFault ((withPort 3 fun p => { p with subUp := 1 }).setOptics { (withPort 3 fun p => { p with subUp := 1 }).optics with rail := false })
        (fun t => (t.laser 0).st == .dark && (t.port 3).subUp == 0 && t.optics.allOff && t.optics.railFaults == 1) = true ∧
      after .laserRailFault lit (fun t => !t.optics.allOff) = true := by decide +kernel

/-- Every channel is off after rail faults. -/
def railed (n : Nat) : State := runs.setOptics { runs.optics with allOff := true, rail := false, railFaults := n }

theorem test_laser_ramps_witness :
    (railed 1).ramping = false ∧ after .laserRestart (railed 1) (fun t => !t.optics.allOff && (t.laser 0).st == .ramping && t.optics.rampQ.length == 9) = true ∧
      after .laserRestart (railed 2) (fun t => t.optics.allOff) = true := by decide +kernel

/-- Channel 8 ramps for an engine (8: for the monitor). -/
def rampsFor (e : Nat) (worn : List (Nat × Nat)) : State :=
  (lit.modLaser 8 fun l => { l with st := .ramping }).setOptics { (lit.modLaser 8 fun l => { l with st := .ramping }).optics with rampFor := [(8, e)], worn := worn }

theorem test_laser_ramp_done_witness :
    (rampsFor 2 []).optics.rampFor = [(8, 2)] ∧ (rampsFor 2 []).optics.rampQ = [] ∧ ((rampsFor 2 []).laser 8).st = .ramping ∧ ((rampsFor 2 []).laser 8).engine ≠ some 2 ∧
      after (.laserRampDone 8) (rampsFor 8 []) (fun t => (t.laser 8).st == .dark && t.optics.rampFor == []) = true ∧ after (.laserRampDone 8) lit (fun t => (t.laser 8).st == .dark) = true := by decide +kernel

theorem test_laser_worn_witness :
    lit.goodSpare = some 8 ∧
      after (.laserWorn 2) lit (fun t => (t.laser 2).st == .lit && t.optics.evWorn && t.optics.worn == [(2, 8)] && t.optics.rampFor == [(8, 2)] && (t.laser 8).st == .ramping) = true ∧
      after (.laserWorn 9) lit (fun t => !t.optics.evWorn) = true ∧ after (.laserWorn 2) (rampsFor 2 [(2, 8)]) (fun t => !t.optics.evWorn) = true := by decide +kernel

/-- Spare 8 has failed and spare 9 is in its monitor ramp, alone. -/
def checking (lacking : List (Option Nat × Nat)) : State :=
  let s := (lit.modLaser 8 fun l => { l with failed := true, st := .failed }).modLaser 9 fun l => { l with st := .ramping }
  s.setOptics { s.optics with rampFor := [(9, 8)], lacking := lacking }

/-- An engine that lost its channel waits for the spare in its monitor ramp, and takes it (R31, R338, R340). -/
theorem test_spare_in_monitor_ramp :
    (checking []).goodSpare = none ∧
      after (.laserShort 2) (checking []) (fun t => t.optics.lacking == [(none, 2)] && !t.optics.evDark && t.inv.laserActive == lit.inv.laserActive) = true ∧
      after (.laserRampDone 9) (checking [(none, 2)]) (fun t => (t.laser 9).st == .ramping && t.optics.rampFor == [(9, 2)] && t.optics.lacking == []) = true := by
  decide +kernel

/-- Two lanes that fail in one cycle are treated by lane number, however they are named (R335). -/
theorem test_lane_failures_in_one_cycle :
    after (.laneFailure 3 5 true ⟨false, [⟨2, 6, true, false⟩]⟩) lit (fun t => (t.port 2).txSpare == 6 && (t.port 3).laneFault == 0x20) = true ∧
      exec (.laneFailure 3 5 true ⟨false, [⟨2, 6, true, false⟩]⟩) lit = exec (.laneFailure 2 6 true ⟨false, [⟨3, 5, true, false⟩]⟩) lit := by
  refine ⟨by decide +kernel, ?_⟩
  rfl

/-! The package: die lanes, clock islands, the rind and the host-line directory. -/

/-- The running module with die link 0 trained, and changed. -/
def withLink (f : DieLink → DieLink) : State := runs.modLink 0 fun k => f { k with trained := true }

/-- Lane 7 of direction 0 of link 0 is searching. -/
def searching : State := withLink fun k => k.setLane { lane := 7, locked := false }

/-- Every spare of direction 0 of link 0 is in use. -/
def noSpare (mem : Nat) : State :=
  withLink fun k => { k with mem := mem, lanes := (List.range 64).map fun n => { lane := 100 + n, failed := true, spare := some n } }

/-- A flit of zeros with its CRC. -/
def goodFlit : List Bool := List.replicate 240 false ++ (List.range 16).map fun i => (crc16 (List.replicate 240 false)).getLsbD i

/-- A superframe: the alignment word and 64 scrambled flits (R384). -/
def superframe : List Bool := alignWord ++ descramble 0x7FFFFF#23 (List.replicate 64 goodFlit).flatten

theorem descramble_twice (b : List Bool) : ∀ r, descramble r (descramble r b) = b := by
  induction b with
  | nil => intro r; rfl
  | cons x xs ih => intro r; simp [descramble, ih]

theorem descramble_length (b : List Bool) : ∀ r, (descramble r b).length = b.length := by
  induction b with
  | nil => intro r; rfl
  | cons x xs ih => intro r; simp [descramble, ih]

theorem drop_blocks (x : List Bool) (n : Nat) : ∀ m, ((List.replicate m x).flatten).drop (x.length * n) = (List.replicate (m - n) x).flatten := by
  induction n with
  | zero => intro m; simp
  | succ n ih =>
    intro m
    cases m with
    | zero => simp
    | succ m =>
      rw [show x.length * (n + 1) = x.length + x.length * n by rw [Nat.mul_succ, Nat.add_comm], List.replicate_succ, List.flatten_cons,
        ← List.drop_drop, List.drop_left, ih, Nat.add_sub_add_right]

theorem flatten_slice (x : List Bool) (m i : Nat) (h : i < m) : (((List.replicate m x).flatten).drop (x.length * i)).take x.length = x := by
  rw [drop_blocks, show m - i = (m - i - 1) + 1 by omega, List.replicate_succ, List.flatten_cons, List.take_left]

theorem goodFlit_length : goodFlit.length = 256 := by decide +kernel

theorem superframe_length : superframe.length = 16400 := by
  have h : alignWord.length = 16 := by decide +kernel
  simp [superframe, descramble_length, goodFlit_length, h]

theorem superframe_head (r : List Bool) : (superframe ++ r).take 16 = alignWord := by
  have h : alignWord.length = 16 := by decide +kernel
  simp [superframe, ← h]

theorem superframe_flits (r : List Bool) (i : Nat) (h : i < 64) :
    ((descramble 0x7FFFFF#23 (((superframe ++ r).drop 16).take 16384)).drop (256 * i)).take 256 = goodFlit := by
  have h16 : alignWord.length = 16 := by decide +kernel
  have hl : (descramble 0x7FFFFF#23 (List.replicate 64 goodFlit).flatten).length = 16384 := by simp [descramble_length, goodFlit_length]
  have e : ((superframe ++ r).drop 16).take 16384 = descramble 0x7FFFFF#23 (List.replicate 64 goodFlit).flatten := by
    rw [superframe, List.append_assoc, ← h16, List.drop_left, ← hl, List.take_left]
  rw [e, descramble_twice]
  simpa [goodFlit_length] using flatten_slice goodFlit 64 i h

/-- Bits that lock a lane: four alignment words with 192 good flits between them. -/
theorem test_lock_witness : ∃ rx : List Bool,
    (∀ n, n < 4 → (rx.drop (16400 * n)).take 16 = alignWord) ∧
      ∀ n, n < 3 → ∀ i, i < 64 → flitOk (((descramble 0x7FFFFF#23 ((rx.drop (16400 * n + 16)).take 16384)).drop (256 * i)).take 256) = true := by
  have hg : flitOk goodFlit = true := by decide +kernel
  have hd (n : Nat) : ((List.replicate 4 superframe).flatten).drop (16400 * n) = (List.replicate (4 - n) superframe).flatten := by
    rw [← superframe_length, drop_blocks]
  refine ⟨(List.replicate 4 superframe).flatten, fun n h => ?_, fun n h i hi => ?_⟩
  · rw [hd, show 4 - n = (3 - n) + 1 by omega, List.replicate_succ, List.flatten_cons, superframe_head]
  · rw [← List.drop_drop, hd, show 4 - n = (3 - n) + 1 by omega, List.replicate_succ, List.flatten_cons, superframe_flits _ _ hi, hg]

theorem test_die_lane_witness :
    (searching.dieLink 0).lane 0 7 = { lane := 7, locked := false } ∧
      after (.lockTimeout 0 0 7) searching (fun t => ((t.dieLink 0).lane 0 7).failed && ((t.dieLink 0).lane 0 7).spare == some 0) = true ∧
      after (.lockTimeout 0 0 8) searching (fun t => !((t.dieLink 0).lane 0 8).failed) = true ∧
      after (.lossOfLock 0 0 8) (withLink id) (fun t => !((t.dieLink 0).lane 0 8).locked && t.fabric.relocks == 1) = true ∧
      after (.lossOfLock 0 0 8) (withLink fun k => k.setLane { lane := 8, locked := true, losses := List.replicate 7 0 }) (fun t => ((t.dieLink 0).lane 0 8).spare == some 0) = true ∧
      after (.flitCrcFail 0 0 8 5) (withLink id) (fun t => t.out == [.flitNak 0 0 8 5] && ((t.dieLink 0).lane 0 8).resend == some 5) = true ∧
      after (.flitCrcFail 0 0 8 6) (withLink fun k => k.setLane { lane := 8, locked := true, resend := some 5 }) (fun t => t.out == []) = true ∧
      after (.nak 0 0 8 5 3) (withLink id) (fun t => t.out == [.flitResend 0 0 8 5 1022] && t.fabric.replays == 1022) = true ∧
      after (.dieLaneFailure 0 0 { lane := 7 }) (noSpare 288) (fun t => ((t.dieLink 0).lane 0 7).failed && (t.dieLink 0).lost0 == 1 && t.phase == .run) = true ∧
      after (.dieLaneFailure 0 0 { lane := 7 }) (noSpare 8) (fun t => (t.dieLink 0).failed && t.phase == .stopped) = true := by decide +kernel

/-- The clauses on the eighth bad flit of a superframe, a lane whose place another has taken, start-up, and two lanes of one cycle (R386 to R390). -/
theorem test_die_lane_clauses_witness :
    after (.flitCrcFail 0 0 8 7) (withLink fun k => k.setLane { lane := 8, locked := true, resend := some 0, bad := [0, 1, 2, 3, 4, 5, 6] })
        (fun t => !((t.dieLink 0).lane 0 8).locked && t.fabric.relocks == 1 && t.out == []) = true ∧
      after (.dieLaneFailure 0 0 { lane := 9 }) (withLink fun k => k.setLane { lane := 2310, taken := some 9, failed := true })
        (fun t => ((t.dieLink 0).lane 0 9).failed && ((t.dieLink 0).lane 0 2310).spare == some 0) = true ∧
      after (.dieLaneFailure 0 0 { lane := 7 }) (((noSpare 8).setPhase .boot).setBoot { runs.boot with step := 6 }) (fun t => (t.dieLink 0).failed && t.phase == .stopped) = true ∧
      after (.dieLaneFailure 0 0 { lane := 7 }) (((noSpare 8).setPhase .boot).setBoot { runs.boot with step := 5 }) (fun t => (t.dieLink 0).failed && t.phase == .boot) = true ∧
      after (.dieLaneFailure 0 0 { lane := 8, also := [7] }) (withLink id) (fun t => ((t.dieLink 0).lane 0 7).spare == some 0 && ((t.dieLink 0).lane 0 8).spare == some 1) = true := by decide +kernel

theorem test_spare_open_witness : Claims.SpareOpen runs 0 0 0 ∧ ∀ n, ¬ Claims.SpareOpen (noSpare 288) 0 0 n := by
  refine ⟨⟨by decide, fun x h => absurd h List.not_mem_nil, rfl⟩, fun n h => h.2.1 { lane := 100 + n, failed := true, spare := some n } ?_ rfl rfl⟩
  exact List.mem_map.2 ⟨n, List.mem_range.2 h.1, rfl⟩

/-- Three requests, a response and an interrupt message wait in one direction of link 0. -/
def linkWaits : List LinkPkt :=
  [{ page := 1, client := 3, dst := 1 }, { page := 2, client := 0, c0 := true, dst := 1 }, { page := 3, vc := 1, dst := 1 }, { page := 4, role := 2, dst := 1 },
    { page := 5, vc := 3, dst := 1 }]

/-- The packets of a direction in the order in which its egress sends them. -/
def egress (k : DieLink) : Nat → List Nat
  | 0 => []
  | n + 1 => match k.choose 0 0 (fun _ => 4) 0 with
    | none => []
    | some (p, a) => p.page :: egress { k with waiting := k.waiting.erase p, arbs := [a] } n

/-- R381: control, interrupt, responses, class 0, then the others. -/
theorem test_link_egress : egress { waiting := linkWaits } 6 = [5, 4, 3, 2, 1] := by decide +kernel

/-- Packets of one source to one page keep their order (R382). -/
theorem test_link_page_order : egress { waiting := [{ page := 7, dst := 1, flits := 9 }, { page := 7, dst := 1, vc := 3 }] } 2 = [7, 7] ∧
    (DieLink.choose { waiting := [{ page := 7, dst := 1, flits := 9 }, { page := 7, dst := 1, vc := 3 }] } 0 0 (fun _ => 4) 0).map (·.1.vc) = some 0 := by decide +kernel

/-- R377: one link to a neighbour, two across, three at most. -/
theorem test_link_routes :
    linkRoute 0 1 0 = [(0, 0)] ∧ linkRoute 1 0 0 = [(0, 1)] ∧ (linkRoute 0 2 0).length = 2 ∧ linkRoute 4 0 0 = [(4, 0)] ∧ (linkRoute 2 4 0).length = 2 ∧ linkRoute 3 3 5 = [] := by
  decide +kernel

/-- With no spare a failed lane of the coherence role takes the highest memory lane's place (R390). -/
theorem test_role_lane_lost :
    after (.dieLaneFailure 0 0 { lane := 2310 }) (noSpare 288)
      (fun t => ((t.dieLink 0).lane 0 2310).taken == some 2303 && ((t.dieLink 0).lane 0 2303).gone && (t.dieLink 0).lost0 == 1) = true := by decide +kernel

/-- An island in a state, with packets held. -/
def withIsl (i : Island) (st : IslandState) (held : List IslPkt) (back : List (IslPkt × Nat)) : State :=
  parted.setIsl { island := i, st := st, held := held, back := back }

/-- The island of hub block 2, and 16 packets. -/
abbrev hub2 : Island := .hub 2
def sixteen : List IslPkt := (List.range 16).map fun n => { id := n }

/-- A packet of no core. -/
abbrev pkt (n : Nat) : IslPkt := { id := n }

theorem test_islands_witness :
    (parted.isl hub2).st = .running ∧ after (.islandClose hub2) parted (fun t => (t.isl hub2).st == .closing) = true ∧
      after (.closeAbandon { island := hub2, pkt := pkt 70 }) (withIsl hub2 .closing [] []) (fun t => (t.isl hub2).st == .running) = true ∧
      (match Machine.step (withIsl hub2 .closing [] []) with | .next t => (t.isl hub2).st == .closed | _ => false) = true ∧
      after (.packetHeld hub2 (pkt 70)) parted (fun t => t.out == [.delivered (pkt 70)]) = true ∧
      after (.packetHeld hub2 (pkt 70)) (withIsl hub2 .closed [] []) (fun t => t.isl hub2 == { island := hub2, st := .waking, held := [pkt 70] } && t.fabric.held == 1) = true ∧
      after (.packetHeld hub2 (pkt 70)) (withIsl hub2 .waking sixteen []) (fun t => t.out == [.returned (pkt 70) 0x0880] && (t.isl hub2).back == [(pkt 70, 2)]) = true ∧
      after (.packetHeld hub2 (pkt 70)) (withIsl hub2 .failed [] []) (fun t => t.out == [.returned (pkt 70) 0x0881]) = true ∧
      after (.returnedPacketResend hub2 (pkt 70)) (withIsl hub2 .waking sixteen [(pkt 70, 2)]) (fun t => t.out == [.returned (pkt 70) 0x0880] && (t.isl hub2).back == [(pkt 70, 4)]) = true ∧
      after (.returnedPacketResend hub2 (pkt 70)) (withIsl hub2 .waking sixteen [(pkt 70, 64)]) (fun t => (t.isl hub2).back == [(pkt 70, 64)]) = true ∧
      after (.returnedPacketResend hub2 (pkt 70)) (withIsl hub2 .running [] [(pkt 70, 2)]) (fun t => t.out == [.delivered (pkt 70)] && t.fabric.islands == []) = true ∧
      after (.islandWakeDone hub2) (withIsl hub2 .waking [pkt 8, pkt 9] []) (fun t => t.out == [.delivered (pkt 8), .delivered (pkt 9)] && (t.isl hub2).st == .running) = true := by decide +kernel

/-- A dead island: a core that has failed. -/
theorem test_dead_witness : Claims.Dead (parted.modCore 5 fun c => { c with st := .failed }) (.core 5) ∧ ¬ Claims.Dead parted hub2 := by
  refine ⟨Or.inr ⟨5, rfl, Or.inl (by decide +kernel)⟩, ?_⟩
  rintro (h | ⟨p, h, _⟩)
  · exact absurd h (by decide +kernel)
  · cases h

/-- The clauses on a sender that a returned packet holds back, on a closing island, and on a dead one (R393, R395, R396). -/
theorem test_islands_clauses_witness :
    after (.packetHeld hub2 (pkt 70)) (withIsl hub2 .running [] [(pkt 69, 2)]) (fun t => t.out == [] && (t.isl hub2).behind == [pkt 70]) = true ∧
      after (.packetHeld hub2 (pkt 70)) (withIsl hub2 .closing [] []) (fun t => t.out == [.delivered (pkt 70), .closeAbandoned hub2] && (t.isl hub2).st == .running) = true ∧
      after (.returnedPacketResend hub2 (pkt 69)) (parted.setIsl { island := hub2, st := .running, back := [(pkt 69, 2)], behind := [pkt 70] })
        (fun t => t.out == [.delivered (pkt 69), .delivered (pkt 70)]) = true ∧
      after (.returnedPacketResend hub2 (pkt 70)) (withIsl hub2 .failed [] [(pkt 70, 2)]) (fun t => t.out == [.returned (pkt 70) 0x0881] && (t.isl hub2).back == []) = true ∧
      after (.returnedPacketResend hub2 (pkt 70)) (withIsl hub2 .closed [] [(pkt 70, 2)]) (fun t => t.out == [] && (t.isl hub2).held == [pkt 70]) = true ∧
      after (.islandWakeDone (.core 5)) ((withIsl (.core 5) .waking [] []).modCore 5 fun c => { c with idle := .s2 }) (fun t => (t.core 5).idle != .s2) = true := by decide +kernel

theorem test_wake_timeout_witness :
    (parted.core 5).logical = some 5 ∧ parted.physOf 5 = some 5 ∧ parted.cores.length = 864 ∧ parted.mem.pcs.length = 512 ∧
      after (.wakeTimeout (.engine 1) goodFacts) (withIsl (.engine 1) .waking [pkt 8] []) (fun t => t.inv.degraded == 0xC && t.out.contains (.returned (pkt 8) 0x0881)) = true ∧
      after (.wakeTimeout (.hbm 1) goodFacts) (withIsl (.hbm 1) .waking [] []) (fun t => (t.pc 64).retiring && (t.pc 127).retiring && !(t.pc 128).retiring) = true ∧
      after (.wakeTimeout (.core 5) goodFacts) (withIsl (.core 5) .waking [] []) (fun t => (t.core 5).st == .failed) = true ∧
      after (.wakeTimeout (.vat 1) goodFacts) (withIsl (.vat 1) .waking [] []) (fun t => t.phase == .stopped) = true ∧
      after (.wakeTimeout hub2 goodFacts) (withIsl hub2 .waking [] []) (fun t => t.phase == .warm && t.err.autoWarm) = true := by decide +kernel

/-- A guest die with a read window over the first 4,096 bytes of partition 0 and a write window. -/
def guested : State :=
  ((withDev parted [(8, [1, 2, 3])]).setInv { parted.inv with guest := 1 }).setFabric { parted.fabric with
    guestFitted := true, fenceLimit := 2, wins := [{ kind := 1, part := 0, base := 0, size := 4096 }, { kind := 2, part := 0 }] }

theorem test_rind_witness :
    after (.memoryRead { addr := 8 } 3) guested (fun t => t.out == [.guestData [1, 2, 3]] && t.fabric.violations == 0) = true ∧
      after (.memoryRead { addr := 4094 } 3) guested (fun t => t.out == [.guestAbort] && t.fabric.violations == 1 && t.inv.guest == 1) = true ∧
      after (.memoryRead { addr := 4094 } 3) (guested.setFabric { guested.fabric with violations := 1 }) (fun t => t.inv.guest == 2 && t.fabric.fenceCause == 1) = true ∧
      after (.memoryRead { addr := 8 } 257) guested (fun t => t.out == [.guestUnsupported]) = true ∧
      after (.memoryRead { addr := 8 } 3) (guested.setInv { guested.inv with guest := 2 }) (fun t => t.out == [.guestAbort]) = true ∧
      after (.memoryRead { addr := 8 } 3) (guested.modSlab 0 fun x => { x with st := .lost }) (fun t => t.out == [.guestAbort] && t.fabric.violations == 0) = true ∧
      guested.guestFree 0 = true ∧
      after (.memoryRead { addr := 8, poisoned := true } 3) guested (fun t => t.out == [] && t.inv.guest == 2 && t.fabric.fenceCause == 3) = true ∧
      after (.memoryRead { addr := 8, kind := .other } 3) guested (fun t => t.out == [.guestUnsupported] && t.fabric.violations == 1) = true ∧
      after (.memoryRead { addr := 8 } 3) (guested.setFabric { guested.fabric with guestWaits := [(0, 4, .inl 1)] })
        (fun t => t.out == [] && t.fabric.guestWaits == [(0, 4, .inl 1), (0, 8, .inl 3)]) = true ∧
      after (.memoryWrite { addr := 0x0000100000000000 } [1]) guested (fun t => t.out == [.guestAbort]) = true ∧
      after (.fence 0xFE0C0001) guested (fun t => t.inv.guest == 2 && t.fabric.fenceCause == 4) = true ∧
      after .guestLinkDown guested (fun t => t.inv.guest == 2 && t.fabric.fenceCause == 2) = true := by decide +kernel

/-- The clauses on guest writes (R402, R403). -/
theorem test_rind_write_witness :
    after (.memoryWrite { addr := 8 } [1]) (guested.setFabric { guested.fabric with guestWaits := [(0, 4, .inl 1)] })
        (fun t => t.out == [] && t.fabric.guestWaits == [(0, 4, .inl 1), (0, 8, .inr [1])]) = true ∧
      after (.memoryWrite { addr := 8 } []) guested (fun t => t.out == [.guestUnsupported]) = true ∧
      after (.memoryWrite { addr := 8 } [1]) guested (fun t => t.fabric.violations == 0 && t.fabric.guestWaits == []) = true := by decide +kernel

theorem test_rind_window_witness :
    (∃ w ∈ guested.fabric.wins, Claims.InReadWindow w 8 3) ∧ (∃ w ∈ guested.fabric.wins, w.kind = 2 ∧ w.part = 0) ∧ (guested.part 0).admitted = true :=
  ⟨⟨{ kind := 1, part := 0, base := 0, size := 4096 }, by decide +kernel, rfl, by decide, by decide⟩, ⟨{ kind := 2, part := 0 }, by decide +kernel, rfl, rfl⟩, by decide +kernel⟩

/-- Host line 5 owned by agent 1, with a dirty copy of its bytes. -/
def owned : State := runs.setLine { line := 5, owner := some 1, cached := some (leBytes 64 6), buf := some (leBytes 64 7) }

theorem test_directory_witness :
    owned.outbound = true ∧ (owned.dirLine 5).waiting = [] ∧ owned.inSubmission 5 = false ∧ owned.fabric.lines.length < 524288 ∧ rung.inSubmission 0x400 = true ∧
      after (.readRequest { agent := 2 } 5) owned (fun t => t.dirLine 5 == { line := 5, sharers := [2], cached := some (leBytes 64 7), dirty := true } && t.out == []) = true ∧
      after (.readRequest { agent := 2 } 6) owned (fun t => t.dirLine 6 == { line := 6, sharers := [2], cached := some (leBytes 64 0) } && t.out == [.cxl .rdCurr 6]) = true ∧
      after (.readRequest { agent := 1 } 5) owned (fun t => t.dirLine 5 == owned.dirLine 5 && t.out == []) = true ∧
      after (.ownershipRequest { agent := 2, update := some (0, [9]) } 5) owned
        (fun t => t.dirLine 5 == { line := 5, owner := some 2, cached := some (leBytes 64 7), dirty := true, buf := some (leBytes 64 9) }) = true ∧
      after (.ownershipRequest { agent := 1, update := some (1, [1]) } 5) owned (fun t => (t.dirLine 5).buf == some (leBytes 64 0x107) && (t.dirLine 5).owner == some 1) = true ∧
      after (.readRequest { agent := 2 } 5) (owned.setLink { owned.link with st := .down }) (fun t => (t.dirLine 5).owner == some 1 && (t.dirLine 5).waiting == [(2, .read)]) = true ∧
      after (.writeback { agent := 1 } 5 (leBytes 64 9)) owned (fun t => t.dirLine 5 == { line := 5, cached := some (leBytes 64 9), dirty := true }) = true ∧
      after (.writeback { agent := 2 } 5 (leBytes 64 9)) owned (fun t => t.dirLine 5 == owned.dirLine 5 && t.out == []) = true ∧
      after (.readRequest { agent := 3, also := [(1, .own none), (2, .read)] } 5) owned (fun t => (t.dirLine 5).sharers == [3] && (t.dirLine 5).owner == none) = true := by decide +kernel

theorem test_snoop_witness :
    after (.hostSnoop 5 true) (runs.setLine { line := 5, cached := some (leBytes 64 9), dirty := true, waiting := [(3, .read), (2, .own none)] })
        (fun t => t.out == [.snoopData 5 (leBytes 64 9), .cxl .rdCurr 5] && Memory.get t.mem.hostMem 320 == 9 && (t.dirLine 5).owner == some 2 && (t.dirLine 5).waiting == []) = true ∧
      after (.hostSnoop 7 false) owned (fun t => t.out == [.snoopClean 7] && t.dirLine 5 == owned.dirLine 5) = true := by decide +kernel

theorem test_snoop_canonical : Safety.MemoryCanonical owned := by unfold Safety.MemoryCanonical; decide +kernel

/-! Faults, tests of cores, memory errors and the event log. -/

/-- Core 0 is held by a started command of queue 0, with an entry that may be re-run. -/
def holding : State := withCmds parted [{ startedCmd (entry cPRODUCT 3 []) with cores := [0] }]

theorem test_core_fault_witness :
    parted.physOf 0 = some 0 ∧ parted.cores.length = 864 ∧ (parted.core 0).st ≠ .spare ∧ (parted.sparesOf 0).find? (fun m => !([] : List Nat).contains m) = (parted.sparesOf 0).head? ∧
      (parted.sparesOf 0).head?.isSome = true ∧ holding.holder 0 = some 0 ∧ entNoRetry (entry cPRODUCT 3 []) = false ∧ (0 : Nat) < (holding.queue 0).retryMax ∧
      runs.physOf 799 = none := by decide +kernel

theorem test_core_fault :
    after (.coreFault 0 .parity {}) holding (fun t => (t.core 0).st == .failed && t.err.uncorr == 1 &&
      t.physOf 0 == (parted.sparesOf 0).head? && (t.head? 0).map (·.reruns) == some 1) = true ∧
      after (.noProgressTimeout 1 {}) parted (fun t => (t.core 1).st == .enabled) = true := by decide +kernel

theorem test_due_witness :
    after (.testStart 0x403207) parted (fun t => t.err.intervalH == 7 && t.err.par == 2 && t.err.core == 3 && t.err.due == [3]) = true ∧
      after (.testStart 0x000007) parted (fun t => t.err.par == 1 && t.err.due == []) = true ∧
      after (.testIntervalDue 3) parted (fun t => t.err.due == [3]) = true ∧
      after (.testIntervalDue 3) (parted.setErr { parted.err with due := [3] }) (fun t => t.err.due == [3]) = true ∧
      after (.testIntervalDue 3) (parted.setErr { parted.err with intervalH := 0 }) (fun t => t.err.due == []) = true ∧
      after .inFieldTest (parted.setErr { parted.err with due := [3, 4] }) (fun t => (t.core 3).testing && t.err.due == [4]) = true ∧
      (parted.cores.zipIdx.filter fun x => x.1.testing && x.2 / 216 == 0).length < parted.err.par ∧ parted.holder 3 = none := by decide +kernel

/-- Core 3 is under test. -/
def testing (fused : Nat) : State := parted.modCore 3 fun c => { c with testing := true, fused := fused }

theorem test_in_field_test_witness :
    after (.inFieldTestDone 3 true true {}) (testing 2000) (fun t => !(t.core 3).testing && t.err.tested == 1 && t.err.lastCore == 3 && t.err.lastCode == 0x0D05) = true ∧
      after (.inFieldTestDone 3 true false {}) (testing 1625) (fun t => (t.core 3).drift == 1 && !(t.core 3).testing && t.flash.driftDirty && t.flash.driftRises == 1 && t.power.event.getLsbD 6) = true ∧
      after (.inFieldTestDone 3 true false {}) (testing 1624) (fun t => (t.core 3).st == .failed && t.err.lastFail) = true ∧
      after (.inFieldTestDone 3 false true {}) (testing 2000) (fun t => (t.core 3).st == .failed && t.err.lastFail) = true ∧
      after (.inFieldTestDone 4 false true {}) (testing 2000) (fun t => (t.core 4).st == .enabled && t.err.tested == 0) = true := by decide +kernel

/-- The log with a number of entries that the host has not read. -/
def logged (head tail : Nat) : State := runs.setErr { runs.err with head := head, tail := tail }

theorem test_event_log_witness :
    runs.err.log.length = 128 ∧ runs.errOpen = true ∧ State.reset.errOpen = false ∧ ((runs.setPhase .stopped).errOpen = true) ∧
      (State.event (logged 5 5) 2 0x0D03 none []).err.head = 6 ∧ ((State.event (logged 5 5) 2 0x0D03 none []).err.log.getD 5 {}).seq = 1 ∧
      (State.event (logged 5 6) 2 0x0D03 none []).err.tail = 7 ∧ (State.event (logged 5 6) 2 0x0D03 none []).err.overflow = true ∧
      after (.errLogTailWrite 4) (logged 5 2) (fun t => t.err.tail == 4) = true ∧ after (.errLogTailWrite 6) (logged 5 2) (fun t => t.err.tail == 2) = true := by decide +kernel

/-- Slab 1 lies in T1 near slice 2, slab 0 in T2. -/
def placed : State := (parted.modSlab 1 fun x => { x with near := some 2 }).modSlab 0 fun x => { x with tier := some .t2 }

theorem test_uncorrectable_read_witness :
    placed.freeSpareRow 2 = some 0 ∧ (placed.slab? 0).isSome = true ∧ keyOf (BitVec.toNat (0x200000#48)) = 1 ∧
      after (.uncorrectableRead 0x200000 9 .landing true) placed (fun t => (t.slab? 1).map (·.st) == some .lost && t.mem.vatRows == [(2, 9, 0)] && t.err.uncorr == 1) = true ∧
      after (.uncorrectableRead 0 9 .stream true) placed (fun t => (t.slab? 0).map (·.st) == some .lost && (t.pc 9).uncorr == [0] && !(t.pc 9).retiring) = true ∧
      after (.uncorrectableRead 0 9 .landing true) (placed.modPc 9 fun c => { c with uncorr := [0] }) (fun t => (t.pc 9).retiring) = true ∧
      after (.uncorrectableRead 0 9 (.slabTable 0) true) placed (fun t => !(t.part 0).admitted && t.err.uncorr == 1) = true ∧
      after (.uncorrectableRead 0 9 .landing false) placed (fun t => t.err.uncorr == 0) = true := by decide +kernel

theorem test_corrected_error_witness :
    runs.err.corr.length = 5 ∧
      after (.correctedError .hub 0 0) runs (fun t => t.err.corr == [0, 0, 0, 0, 1]) = true ∧
      after (.correctedError .vat 2 9) (runs.setMem { runs.mem with vatCorr := [(2, 9, 0)] }) (fun t => t.mem.vatRows == [(2, 9, 0)] && t.inv.vatSpares == runs.inv.vatSpares - 1) = true ∧
      after (.correctedError .vat 2 9) (runs.setMem { runs.mem with vatCorr := [(2, 8, 0)] }) (fun t => t.mem.vatRows == []) = true ∧
      after (.correctedError .vat 2 600) (runs.setMem { runs.mem with vatCorr := [(2, 600, 0)], vatRows := (List.range 512).map fun k => (2, k, k) })
        (fun t => t.mem.withdraw == [(2, 600)]) = true ∧
      after (.correctedError .hbm 0 9) (runs.modPc 9 fun c => { c with corr := List.replicate 1000 0 }) (fun t => (t.pc 9).retiring) = true ∧
      after (.correctedError .hbm 0 9) (runs.modPc 9 fun c => { c with corr := List.replicate 999 0 }) (fun t => !(t.pc 9).retiring) = true ∧
      after (.correctedError .coreStore 0 3) (parted.modCore 3 fun c => { c with corr := [0, 0] }) (fun t => t.err.due == [3]) = true ∧
      after (.correctedError .bond 0 3) (parted.modCore 3 fun c => { c with corr := [0] }) (fun t => t.err.due == []) = true := by decide +kernel

theorem test_frame_withdraw_witness :
    (parted.setMem { parted.mem with withdraw := [(2, 9)] }).frameToSpare 2 = true ∧
      after (.frameWithdraw 2) (parted.setMem { parted.mem with withdraw := [(2, 9)] }) (fun t => t.mem.capT1 == 399 && t.mem.sliceCap == [100, 100, 99, 100] && t.mem.withdraw == []) = true ∧
      after (.frameWithdraw 2) (parted.setMem { parted.mem with withdraw := [(2, 9)], sliceCap := [100, 100, 0, 100] }) (fun t => t.mem.capT1 == 400) = true := by decide +kernel

theorem test_pc_move_witness :
    placed.reserved .t2 + placed.lentSlabs + 288 ≤ placed.mem.capT2 ∧
      after (.pcMoveDone 9 [0]) (placed.modPc 9 fun c => { c with retiring := true }) (fun t => (t.pc 9).retired && t.mem.capT2 == 3712 && (t.slab? 0).map (·.st) == some .lost) = true ∧
      after (.pcMoveDone 9 []) ((placed.modPc 9 fun c => { c with retiring := true }).setMem { (placed.modPc 9 fun c => { c with retiring := true }).mem with capT2 := 327 })
        (fun t => !(t.pc 9).retired && t.mem.capT2 == 327) = true := by decide +kernel

theorem test_drift_told :
    after (.fieldRecordWrite 1 true true) (runs.setFlash { runs.flash with driftDirty := true, driftRises := 1 }) (fun t => !t.flash.driftDirty && t.err.lastCode == 0x0915) = true := by
  decide +kernel

theorem test_field_record_witness :
    after (.fieldRecordWrite 0 false true) (runs.setFlash { runs.flash with mapDirty := true }) (fun t => !t.flash.mapDirty && t.err.lastCode != 0x0B0B) = true ∧
      after (.fieldRecordWrite 1 false false) (runs.setFlash { runs.flash with driftDirty := true }) (fun t => !t.flash.driftDirty && t.err.lastCode == 0x0B0B) = true ∧
      after (.fieldRecordWrite 2 true true) (runs.setFlash { runs.flash with logPend := [(8, 0x0D03, [])] })
        (fun t => t.flash.logPend == [] && t.flash.logged.head?.map (fun x => (x.us, x.code, x.hdr.type_)) == some (8, 0x0D03, 0x83)) = true ∧
      after (.fieldRecordWrite 2 true true) runs (fun t => t.flash.logged == runs.flash.logged) = true := by decide +kernel

/-! The steward and the service tag. -/

/-- The running module at a shed level, with runs of hot and cool windows. -/
def shedding (level hot cool eff : Nat) : State :=
  (runs.setSteward { runs.steward with shed := level, hot := hot, cool := cool }).setPower { runs.power with learnEff := eff }

theorem test_load_window_witness :
    runs.smbOpen = true ∧ State.reset.smbOpen = false ∧
      after (.loadWindow 90 0) runs (fun t => t.steward.shed == 1 && t.steward.sbEvent == 1 && t.steward.load == 90 && t.steward.shedMs == 0) = true ∧
      after (.loadWindow 89 1000) runs (fun t => t.steward.shed == 0) = true ∧ after (.loadWindow 0 1001) runs (fun t => t.steward.shed == 1) = true ∧
      after (.loadWindow 95 0) (shedding 1 2 0 10) (fun t => t.steward.shed == 2 && t.power.learnEff == 20 && t.steward.shedMs == 10) = true ∧
      after (.loadWindow 95 0) (shedding 1 1 5 10) (fun t => t.steward.shed == 1 && t.steward.hot == 2 && t.steward.cool == 0) = true ∧
      after (.loadWindow 69 0) (shedding 1 0 9 10) (fun t => t.steward.shed == 0) = true ∧
      after (.loadWindow 69 0) (shedding 2 0 9 40) (fun t => t.steward.shed == 2 && t.power.learnEff == 20) = true ∧
      after (.loadWindow 69 0) (shedding 2 0 9 20) (fun t => t.steward.shed == 1 && t.power.learnEff == 10) = true ∧
      after (.loadWindow 70 0) (shedding 2 1 9 20) (fun t => t.steward.shed == 2 && t.steward.hot == 0 && t.steward.cool == 0) = true := by decide +kernel

/-- A poll in which these devices did not acknowledge. -/
def poll (nak : List Nat) : PollFacts := { nak := nak, arbLost := 0, clears := 0, stuck := false, trunkOk := true, segOk := [0, 1, 2] }

theorem test_sensor_poll_witness :
    runs.steward.naks.length = 11 ∧
      after (.sensorPoll false (poll [2])) (runs.setSteward { runs.steward with naks := [0, 1, 2, 0, 0, 0, 5, 0, 0, 0, 0] })
        (fun t => t.steward.absent == 4 && t.steward.naks == [0, 0, 3, 0, 0, 0, 5, 0, 0, 0, 0] && t.err.lastCode == 0x0C21 && t.steward.sbEvent.getLsbD 1) = true ∧
      after (.sensorPoll true (poll [])) (runs.setSteward { runs.steward with absent := 0x40 }) (fun t => t.steward.absent == 0) = true ∧
      after (.sensorPoll false (poll [])) (runs.setSteward { runs.steward with absent := 0x40 }) (fun t => t.steward.absent == 0x40) = true ∧
      after (.sensorPoll false { poll [2] with arbLost := 8 }) runs (fun t => t.steward.arbLost == 8 && t.steward.naks == List.replicate 11 0) = true ∧
      after (.sensorPoll false { poll [] with stuck := true, trunkOk := false, clears := 3 }) runs (fun t => t.steward.trunk && t.steward.clears == 3 && t.err.lastCode == 0x0C23) = true ∧
      after (.sensorPoll false { poll [] with stuck := true, segOk := [0, 2] }) runs (fun t => t.steward.isolated == 2 && t.err.lastCode == 0x0C22) = true := by decide +kernel

theorem test_retest_witness :
    runs.smbFull = true ∧ after (.retest 0x3F (poll [])) runs (fun t => t.steward.margin == 50) = true ∧
      after (.retest 0x45 (poll [])) (runs.setSteward { runs.steward with trunk := true, isolated := 5 }) (fun t => t.steward.margin == 5 && !t.steward.trunk && t.steward.isolated == 0) = true ∧
      after (.retest 0x40 { poll [] with segOk := [0, 1] }) (runs.setSteward { runs.steward with isolated := 1 }) (fun t => t.steward.isolated == 5) = true ∧
      after (.retest 0x40 { poll [] with trunkOk := false }) runs (fun t => t.steward.trunk) = true ∧
      after .alertResponse (runs.setSteward { runs.steward with alert := true }) (fun t => t.out == [.smbAddress 0x5C] && !t.steward.alert) = true ∧
      after .smbusTimeout runs (fun t => t.out == [.smbReleased]) = true := by decide +kernel

/-- The tag in a field. -/
def tagged (m : TagMode) : State := State.reset.setTag { State.reset.tag with rf := true, mode := m }

theorem test_tag_witness :
    (tagged .ready).tag.mem.length = 2048 ∧ after .stayQuiet (tagged .ready) (fun t => t.tag.mode == .quiet && t.out == []) = true ∧
      after .inventory (tagged .quiet) (fun t => t.out == []) = true ∧ after .select (tagged .quiet) (fun t => t.tag.mode == .selected && t.out == [.tag [0]]) = true ∧
      after (.readSingleBlock 0x240) ((tagged .ready).setTag { (tagged .ready).tag with mem := updAt (tagged .ready).tag.mem 0x240 fun _ => 0x04030201 })
        (fun t => t.out == [.tag [0, 1, 2, 3, 4]]) = true ∧
      after (.readMultipleBlocks 2046 2) (tagged .ready) (fun t => t.out == [.tag (List.replicate 9 0)]) = true ∧
      after (.readMultipleBlocks 2046 3) (tagged .ready) (fun t => t.out == [.tag [1, 0x10]]) = true ∧
      after (.readMultipleBlocks 0x240 33) (tagged .ready) (fun t => t.out == [.tag [1, 3]]) = true ∧
      after (.writeSingleBlock 0x23F 5) (tagged .ready) (fun t => t.out == [.tag [1, 0x12]]) = true ∧
      after (.writeSingleBlock 0x240 5) (tagged .ready) (fun t => t.tag.mem.getD 0x240 0 == 5 && t.tag.mem.getD 0x241 0 == 0) = true ∧
      after .fieldCollapse (tagged .quiet) (fun t => !t.tag.rf && t.tag.mode == .ready) = true ∧ after .rfFieldPresent State.reset (fun t => t.tag.rf) = true ∧
      exec .inventory State.reset = .next State.reset := by
  refine ⟨?_, ?_, ?_, ?_, ?_, ?_, ?_, ?_, ?_, ?_, ?_, ?_, rfl⟩ <;> decide +kernel

/-- A status record waits for the tag since 0. -/
def waiting (rf : Bool) (now : Nat) : State := (runs.setTag { runs.tag with rf := rf, statusPend := some ([7], 0) }).setNowUs now

theorem test_status_record_witness :
    (waiting false 0).tagRefuses = false ∧ (waiting true 0).tagRefuses = true ∧ after .statusRecordRetry (waiting false 0) (fun t => t.tag.statusPend == none) = true ∧
      after .statusRecordRetry (waiting true 60000000) (fun t => t.tag.statusLate && t.err.lastCode == 0x0B06) = true ∧
      after .statusRecordRetry (waiting true 59999999) (fun t => !t.tag.statusLate) = true := by decide +kernel

end Sys2Proof.Tests
end

section
/-! SUPPORT. Every command and every idle microsecond keep the queue of waiting commands and the invariants of Keeps, so every step does. -/

namespace Sys2Proof.Machine

/-- No command changes the queue of waiting commands or breaks an invariant of Keeps: one arm per command, as in the dispatch. -/
theorem Keeps.exec (c : Instr) (s : State) : KeepsR s (exec c s) :=
  match c with
  | .powerUp f => Keeps.execPowerUp f s (.refl s)
  | .powerLoss => Keeps.execPowerLoss s (.refl s)
  | .restartDelayExpiry f => Keeps.execRestartDelayExpiry f s (.refl s)
  | .pwrBrakeAssert => Keeps.execPwrBrakeAssert s (.refl s)
  | .pwrBrakeRelease => Keeps.execPwrBrakeRelease s (.refl s)
  | .hostLossReset cause => Keeps.execHostLossReset cause s (.refl s)
  | .flushTimeout => Keeps.execFlushTimeout s (.refl s)
  | .linkRecovery => Keeps.execLinkRecovery s (.refl s)
  | .linkReturnL0 speed width => Keeps.execLinkReturnL0 speed width s (.refl s)
  | .linkLossTimeout => Keeps.execLinkLossTimeout s (.refl s)
  | .d3hotEntry => Keeps.execD3hotEntry s (.refl s)
  | .d0Return host => Keeps.execD0Return host s (.refl s)
  | .warmReset v f => Keeps.execWarmReset v f s (.refl s)
  | .warmResetTimeout => Keeps.execWarmResetTimeout s (.refl s)
  | .idHostLevelWrite v => Keeps.execIdHostLevelWrite v s (.refl s)
  | .registerWrite w => Keeps.execRegisterWrite w s (.refl s)
  | .bar0AccessInvalid off size write => Keeps.execBar0AccessInvalid off size write s (.refl s)
  | .bar2Read off => Keeps.execBar2Read off s (.refl s)
  | .doorbell q v host => Keeps.execDoorbell q v host s (.refl s)
  | .nop q => Keeps.execNop q s (.refl s)
  | .product q => Keeps.execProduct q s (.refl s)
  | .chained q => Keeps.execChained q s (.refl s)
  | .collective q => Keeps.execCollective q s (.refl s)
  | .exchange q => Keeps.execExchange q s (.refl s)
  | .finish q => Keeps.execFinish q s (.refl s)
  | .optimiser q => Keeps.execOptimiser q s (.refl s)
  | .copyIn q host => Keeps.execCopyIn q host s (.refl s)
  | .copyOut q => Keeps.execCopyOut q s (.refl s)
  | .copy q => Keeps.execCopy q s (.refl s)
  | .mapRegion q => Keeps.execMapRegion q s (.refl s)
  | .unmapRegion q => Keeps.execUnmapRegion q s (.refl s)
  | .registerGset q => Keeps.execRegisterGset q s (.refl s)
  | .releaseGset q => Keeps.execReleaseGset q s (.refl s)
  | .streamConfig q => Keeps.execStreamConfig q s (.refl s)
  | .stepMark q => Keeps.execStepMark q s (.refl s)
  | .commit q => Keeps.execCommit q s (.refl s)
  | .completionRingRoom q => Keeps.execCompletionRingRoom q s (.refl s)
  | .stagingWaitEnd q => Keeps.execStagingWaitEnd q s (.refl s)
  | .creditGrant r p units => Keeps.execCreditGrant r p units s (.refl s)
  | .poolWaitEnd p => Keeps.execPoolWaitEnd p s (.refl s)
  | .tileAccept q => Keeps.execTileAccept q s (.refl s)
  | .kill q v => Keeps.execKill q v s (.refl s)
  | .killAll q v => Keeps.execKillAll q v s (.refl s)
  | .c0BudgetExceeded q => Keeps.execC0BudgetExceeded q s (.refl s)
  | .tokenRefill p => Keeps.execTokenRefill p s (.refl s)
  | .fma core a => Keeps.execFma core a s (.refl s)
  | .add core a => Keeps.execAdd core a s (.refl s)
  | .mul core a => Keeps.execMul core a s (.refl s)
  | .vmax core a => Keeps.execVmax core a s (.refl s)
  | .vmin core a => Keeps.execVmin core a s (.refl s)
  | .cmplt core a => Keeps.execCmplt core a s (.refl s)
  | .sel core a => Keeps.execSel core a s (.refl s)
  | .exp2 core a => Keeps.execExp2 core a s (.refl s)
  | .log2 core a => Keeps.execLog2 core a s (.refl s)
  | .rcp core a => Keeps.execRcp core a s (.refl s)
  | .rsqrt core a => Keeps.execRsqrt core a s (.refl s)
  | .rsum core a => Keeps.execRsum core a s (.refl s)
  | .rmax core a => Keeps.execRmax core a s (.refl s)
  | .cvt core a => Keeps.execCvt core a s (.refl s)
  | .qnt core a => Keeps.execQnt core a s (.refl s)
  | .accRead core a => Keeps.execAccRead core a s (.refl s)
  | .ld core a => Keeps.execLd core a s (.refl s)
  | .st core a => Keeps.execSt core a s (.refl s)
  | .bcast core a => Keeps.execBcast core a s (.refl s)
  | .loopRep core a => Keeps.execLoopRep core a s (.refl s)
  | .endTile core a => Keeps.execEndTile core a s (.refl s)
  | .sendTile core a => Keeps.execSendTile core a s (.refl s)
  | .admitPart v host => Keeps.execAdmit v host s (.refl s)
  | .modify v host => Keeps.execModify v host s (.refl s)
  | .partitionReset v => Keeps.execPartitionReset v s (.refl s)
  | .grant v host => Keeps.execGrant v host s (.refl s)
  | .revoke v => Keeps.execRevoke v s (.refl s)
  | .lendMaxWrite v => Keeps.execLendMaxWrite v s (.refl s)
  | .windowOpen p v host => Keeps.execWindowOpen p v host s (.refl s)
  | .windowClose p v => Keeps.execWindowClose p v s (.refl s)
  | .partJobAxesWrite p v => Keeps.execPartJobAxesWrite p v s (.refl s)
  | .bind p v => Keeps.execBind p v s (.refl s)
  | .unbind p v => Keeps.execUnbind p v s (.refl s)
  | .partLandHeadWrite p v => Keeps.execPartLandHeadWrite p v s (.refl s)
  | .partStreamTailWrite p v => Keeps.execPartStreamTailWrite p v s (.refl s)
  | .resume p v => Keeps.execResume p v s (.refl s)
  | .readout v ok => Keeps.execReadout v ok s (.refl s)
  | .discard v => Keeps.execDiscard v s (.refl s)
  | .getChain => Keeps.execGetChain s (.refl s)
  | .getMeterChain => Keeps.execGetMeterChain s (.refl s)
  | .peerAdd => Keeps.execPeerAdd s (.refl s)
  | .peerRemove => Keeps.execPeerRemove s (.refl s)
  | .peerClear => Keeps.execPeerClear s (.refl s)
  | .debugOpen => Keeps.execDebugOpen s (.refl s)
  | .getVersion req => Keeps.execGetVersion req s (.refl s)
  | .getCapabilities req => Keeps.execGetCapabilities req s (.refl s)
  | .negotiateAlgorithms req => Keeps.execNegotiateAlgorithms req s (.refl s)
  | .getDigests req => Keeps.execGetDigests req s (.refl s)
  | .getCertificate req slot offset len => Keeps.execGetCertificate req slot offset len s (.refl s)
  | .challenge req slot nonce => Keeps.execChallenge req slot nonce s (.refl s)
  | .getMeasurements req index signed nonce => Keeps.execGetMeasurements req index signed nonce s (.refl s)
  | .sign v => Keeps.execSign v s (.refl s)
  | .pwrPeakClear v => Keeps.execPwrPeakClear v s (.refl s)
  | .pwrCapWrite v => Keeps.execPwrCapWrite v s (.refl s)
  | .modeWrite v => Keeps.execModeWrite v s (.refl s)
  | .pwrIdleWrite v => Keeps.execPwrIdleWrite v s (.refl s)
  | .portCfgWrite port reg v => Keeps.execPortCfgWrite port reg v s (.refl s)
  | .retryFull port v faults => Keeps.execRetryFull port v faults s (.refl s)
  | .portCntClear port v => Keeps.execPortCntClear port v s (.refl s)
  | .acctClear part n v => Keeps.execAcctClear part n v s (.refl s)
  | .errLogTailWrite v => Keeps.execErrLogTailWrite v s (.refl s)
  | .testStart v => Keeps.execTestStart v s (.refl s)
  | .fence v => Keeps.execFence v s (.refl s)
  | .landingDataWrite off data requester => Keeps.execLandingDataWrite off data requester s (.refl s)
  | .tailDoorbell p v requester => Keeps.execTailDoorbell p v requester s (.refl s)
  | .update v => Keeps.execUpdate v s (.refl s)
  | .sbBootDataWrite data => Keeps.execSbBootDataWrite data s (.refl s)
  | .sbBootCommit v => Keeps.execSbBootCommit v s (.refl s)
  | .sbBootAbort v => Keeps.execSbBootAbort v s (.refl s)
  | .sbCapWrite v => Keeps.execSbCapWrite v s (.refl s)
  | .retest v f => Keeps.execRetest v f s (.refl s)
  | .alertResponse => Keeps.execAlertResponse s (.refl s)
  | .smbusTimeout => Keeps.execSmbusTimeout s (.refl s)
  | .windowTile h window attempt offset data => Keeps.execWindowTile h window attempt offset data s (.refl s)
  | .collectivePiece h attempt coll offset data => Keeps.execCollectivePiece h attempt coll offset data s (.refl s)
  | .collectivePull h attempt coll offset len => Keeps.execCollectivePull h attempt coll offset len s (.refl s)
  | .collectiveAbort h attempt coll => Keeps.execCollectiveAbort h attempt coll s (.refl s)
  | .collectiveAnnouncement h attempt coll value => Keeps.execCollectiveAnnouncement h attempt coll value s (.refl s)
  | .cellarRequest h number lease offset len data => Keeps.execCellarRequest h number lease offset len data s (.refl s)
  | .leaseRequest h bpart slabs => Keeps.execLeaseRequest h bpart slabs s (.refl s)
  | .leaseGrant h bpart lease slabs noticeMs => Keeps.execLeaseGrant h bpart lease slabs noticeMs s (.refl s)
  | .leaseRefuse h bpart => Keeps.execLeaseRefuse h bpart s (.refl s)
  | .leaseReclaim h bpart lease noticeMs => Keeps.execLeaseReclaim h bpart lease noticeMs s (.refl s)
  | .leaseRelease h bpart lease => Keeps.execLeaseRelease h bpart lease s (.refl s)
  | .digestMessage h member step digest => Keeps.execDigestMessage h member step digest s (.refl s)
  | .ack h cum bitmap => Keeps.execAck h cum bitmap s (.refl s)
  | .noticeCommit h window attempt bytes tag => Keeps.execNoticeCommit h window attempt bytes tag s (.refl s)
  | .noticeAbort h window attempt => Keeps.execNoticeAbort h window attempt s (.refl s)
  | .ackTimer ep cls => Keeps.execAckTimer ep cls s (.refl s)
  | .rtoExpiry ep cls seq => Keeps.execRtoExpiry ep cls seq s (.refl s)
  | .portDown port => Keeps.execPortDown port s (.refl s)
  | .requestDeadline r => Keeps.execRequestDeadline r s (.refl s)
  | .endpointUnreachable ep => Keeps.execEndpointUnreachable ep s (.refl s)
  | .lenderTimeout p => Keeps.execLenderTimeout p s (.refl s)
  | .leaseAdmissionDeadline p => Keeps.execLeaseAdmissionDeadline p s (.refl s)
  | .borrowerUnreachableEnd ep => Keeps.execBorrowerUnreachableEnd ep s (.refl s)
  | .reclaimDeadline p lease => Keeps.execReclaimDeadline p lease s (.refl s)
  | .reclaimNoticeEnd p lease => Keeps.execReclaimNoticeEnd p lease s (.refl s)
  | .lenderNoticeExpiry lease => Keeps.execLenderNoticeExpiry lease s (.refl s)
  | .missingTilesDeadline p window ep spart => Keeps.execMissingTilesDeadline p window ep spart s (.refl s)
  | .pauseFrame rx time => Keeps.execPauseFrame rx time s (.refl s)
  | .pfcFrame rx vector times => Keeps.execPfcFrame rx vector times s (.refl s)
  | .pauseExpiry of q => Keeps.execPauseExpiry of q s (.refl s)
  | .arpRequest port sub target => Keeps.execArpRequest port sub target s (.refl s)
  | .neighbourSolicitation port sub target => Keeps.execNeighbourSolicitation port sub target s (.refl s)
  | .frameReceive port sub f => Keeps.execFrameReceive port sub f s (.refl s)
  | .ingressHigh port sub k => Keeps.execIngressHigh port sub k s (.refl s)
  | .pauseRepeat port sub k => Keeps.execPauseRepeat port sub k s (.refl s)
  | .ingressLow port sub k drained => Keeps.execIngressLow port sub k drained s (.refl s)
  | .flowStall port => Keeps.execFlowStall port s (.refl s)
  | .stallClear port => Keeps.execStallClear port s (.refl s)
  | .laneFailure port lane tx found => Keeps.execLaneFailure port lane tx found s (.refl s)
  | .subportUp port sub => Keeps.execSubportUp port sub s (.refl s)
  | .trainingRetry port sub trained => Keeps.execTrainingRetry port sub trained s (.refl s)
  | .laserShort ch => Keeps.execLaserShort ch s (.refl s)
  | .laserRailRegulated => Keeps.execLaserRailRegulated s (.refl s)
  | .laserRailFault => Keeps.execLaserRailFault s (.refl s)
  | .laserRestart => Keeps.execLaserRestart s (.refl s)
  | .laserRampDone ch => Keeps.execLaserRampDone ch s (.refl s)
  | .laserWorn ch => Keeps.execLaserWorn ch s (.refl s)
  | .engineHot e => Keeps.execEngineHot e s (.refl s)
  | .engineOverheat e => Keeps.execEngineOverheat e s (.refl s)
  | .engineCooled e => Keeps.execEngineCooled e s (.refl s)
  | .laneLock l dir lane rx => Keeps.execLaneLock l dir lane rx s (.refl s)
  | .lockTimeout l dir lane => Keeps.execLockTimeout l dir lane s (.refl s)
  | .lossOfLock l dir lane => Keeps.execLossOfLock l dir lane s (.refl s)
  | .flitCrcFail l dir lane seq => Keeps.execFlitCrcFail l dir lane seq s (.refl s)
  | .nak l dir lane seq sent => Keeps.execNak l dir lane seq sent s (.refl s)
  | .dieLaneFailure l dir lane => Keeps.execDieLaneFailure l dir lane s (.refl s)
  | .islandClose x => Keeps.execIslandClose x s (.refl s)
  | .closeAbandon x => Keeps.execCloseAbandon x s (.refl s)
  | .packetHeld x pkt => Keeps.execPacketHeld x pkt s (.refl s)
  | .islandWakeDone x => Keeps.execIslandWakeDone x s (.refl s)
  | .returnedPacketResend x pkt => Keeps.execReturnedPacketResend x pkt s (.refl s)
  | .wakeTimeout x f => Keeps.execWakeTimeout x f s (.refl s)
  | .readRequest agent line => Keeps.execReadRequest agent line s (.refl s)
  | .ownershipRequest agent line => Keeps.execOwnershipRequest agent line s (.refl s)
  | .writeback agent line data => Keeps.execWriteback agent line data s (.refl s)
  | .hostSnoop line inv => Keeps.execHostSnoop line inv s (.refl s)
  | .memoryRead addr len => Keeps.execMemoryRead addr len s (.refl s)
  | .memoryWrite addr data => Keeps.execMemoryWrite addr data s (.refl s)
  | .guestLinkDown => Keeps.execGuestLinkDown s (.refl s)
  | .powerWindow events pstatic => Keeps.execPowerWindow events pstatic s (.refl s)
  | .correctionUpdate meter est => Keeps.execCorrectionUpdate meter est s (.refl s)
  | .learningUpdate m => Keeps.execLearningUpdate m s (.refl s)
  | .sensorRead t => Keeps.execSensorRead t s (.refl s)
  | .throttleTick => Keeps.execThrottleTick s (.refl s)
  | .thermalTrip x celsius => Keeps.execThermalTrip x celsius s (.refl s)
  | .tripRecovery => Keeps.execTripRecovery s (.refl s)
  | .droopTrip cdie => Keeps.execDroopTrip cdie s (.refl s)
  | .droopRecovery cdie => Keeps.execDroopRecovery cdie s (.refl s)
  | .s2Entry core => Keeps.execS2Entry core s (.refl s)
  | .s3Entry => Keeps.execS3Entry s (.refl s)
  | .wake => Keeps.execWake s (.refl s)
  | .rebalance => Keeps.execRebalance s (.refl s)
  | .accessCountHalving => Keeps.execAccessCountHalving s (.refl s)
  | .migrationCopyDone slab => Keeps.execMigrationCopyDone slab s (.refl s)
  | .sourceFrameFree slab => Keeps.execSourceFrameFree slab s (.refl s)
  | .tierDeadline q slab => Keeps.execTierDeadline q slab s (.refl s)
  | .transferErrorAnswer q slab => Keeps.execTransferErrorAnswer q slab s (.refl s)
  | .uncorrectableRead addr unit k second => Keeps.execUncorrectableRead addr unit k second s (.refl s)
  | .correctedError pl slice unit => Keeps.execCorrectedError pl slice unit s (.refl s)
  | .frameWithdraw slice => Keeps.execFrameWithdraw slice s (.refl s)
  | .pcMoveDone pc lost => Keeps.execPcMoveDone pc lost s (.refl s)
  | .epochEnd p => Keeps.execEpochEnd p s (.refl s)
  | .digestTimeout p => Keeps.execDigestTimeout p s (.refl s)
  | .ringFullTimeout p => Keeps.execRingFullTimeout p s (.refl s)
  | .loadWindow load waitUs => Keeps.execLoadWindow load waitUs s (.refl s)
  | .watchdogExpiry f => Keeps.execWatchdogExpiry f s (.refl s)
  | .sensorPoll slow f => Keeps.execSensorPoll slow f s (.refl s)
  | .fieldRecordWrite record ok1 ok2 => Keeps.execFieldRecordWrite record ok1 ok2 s (.refl s)
  | .fuelagrimSecond mj overRange checkOk => Keeps.execFuelagrimSecond mj overRange checkOk s (.refl s)
  | .meterRecord => Keeps.execMeterRecord s (.refl s)
  | .meterTagRetry => Keeps.execMeterTagRetry s (.refl s)
  | .parameterSetLoad => Keeps.execParameterSetLoad s (.refl s)
  | .statusRecordRetry => Keeps.execStatusRecordRetry s (.refl s)
  | .inventory => Keeps.execInventory s (.refl s)
  | .stayQuiet => Keeps.execStayQuiet s (.refl s)
  | .select => Keeps.execSelect s (.refl s)
  | .resetToReady => Keeps.execResetToReady s (.refl s)
  | .readSingleBlock block => Keeps.execReadSingleBlock block s (.refl s)
  | .readMultipleBlocks block count => Keeps.execReadMultipleBlocks block count s (.refl s)
  | .writeSingleBlock block data => Keeps.execWriteSingleBlock block data s (.refl s)
  | .getSystemInformation => Keeps.execGetSystemInformation s (.refl s)
  | .coreFault core cause badSpares => Keeps.execCoreFault core cause badSpares s (.refl s)
  | .noProgressTimeout core badSpares => Keeps.execNoProgressTimeout core badSpares s (.refl s)
  | .testIntervalDue core => Keeps.execTestIntervalDue core s (.refl s)
  | .inFieldTest => Keeps.execInFieldTest s (.refl s)
  | .inFieldTestDone core bistOk marginOk badSpares => Keeps.execInFieldTestDone core bistOk marginOk badSpares s (.refl s)
  | .hubSramUncorrectable f => Keeps.execHubSramUncorrectable f s (.refl s)
  | .partitionResetOverrun p f => Keeps.execPartitionResetOverrun p f s (.refl s)
  | .linkReachesL0 speed width flit cxlCache => Keeps.execLinkReachesL0 speed width flit cxlCache s (.refl s)
  | .firstBar0AccessAfterHostLoss => Keeps.execFirstBar0AccessAfterHostLoss s (.refl s)
  | .rfFieldPresent => Keeps.execRfFieldPresent s (.refl s)
  | .fieldCollapse => Keeps.execFieldCollapse s (.refl s)

/-- A command that is answered with a next state keeps what `Keeps` names. -/
theorem Keeps.of_exec {c : Instr} {s t : State} (h : Machine.exec c s = .next t) : Keeps s t := (Keeps.exec c s).out t h

/-- A step with a command waiting runs the command at the front. -/
theorem step_of_pending {s : State} {c : Instr} {r : List Instr} (h : s.pending = c :: r) : step s = Machine.exec c (s.setPending r) := by
  unfold step
  rw [h]

/-- A step with no command waiting idles (log entry 1). -/
theorem step_of_idle {s : State} (h : s.pending = []) : step s = .next s.idle := by
  unfold step
  rw [h]

/-- A step runs the command at the front of the queue, or idles. -/
theorem step_cases {s t : State} (h : step s = .next t) :
    (∃ c r, s.pending = c :: r ∧ Machine.exec c (s.setPending r) = .next t) ∨ (s.pending = [] ∧ t = s.idle) := by
  cases hp : s.pending with
  | nil =>
    rw [step_of_idle hp] at h
    exact .inr ⟨rfl, by injection h with h; exact h.symm⟩
  | cons c r => exact .inl ⟨c, r, rfl, step_of_pending hp ▸ h⟩

/-- A step keeps the level in force the lower of the two levels (R8). -/
theorem levelAgrees_step {s t : State} (hs : Safety.LevelAgrees s) (h : step s = .next t) : Safety.LevelAgrees t := by
  obtain ⟨c, r, -, he⟩ | ⟨-, rfl⟩ := step_cases h
  · exact (Keeps.of_exec he).level hs
  · exact (Keeps.idle s (.refl s)).level hs

end Sys2Proof.Machine
end

section
/-! SUPPORT. What an idle microsecond does to the clock, and how the level registers read. -/

namespace Sys2Proof.Machine

/-- While no raise of vector 64 is pending, a microsecond is nothing but a microsecond (R507). -/
theorem State.tick_of_quiet (s : State) (h : s.err.irqPend = false) : s.tick = s.setNowUs (s.nowUs + 1) := by
  unfold State.tick
  simp [h]

@[simp] theorem State.rampIssue_nowUs (s : State) : s.rampIssue.nowUs = s.nowUs := by
  unfold State.rampIssue
  split <;> rfl

@[simp] theorem State.rampIssue_phase (s : State) : s.rampIssue.phase = s.phase := by
  unfold State.rampIssue
  split <;> rfl

@[simp] theorem State.ackLinks_nowUs (s : State) : s.ackLinks.nowUs = s.nowUs := by
  unfold State.ackLinks
  dsimp only
  split <;> rfl

@[simp] theorem State.commitCloses_nowUs (s : State) : s.commitCloses.nowUs = s.nowUs := by
  unfold State.commitCloses
  split <;> rfl

/-- Start-up steps end only in start-up (R462). -/
theorem State.bootStep_of_run (s : State) (h : s.phase = .run) : s.bootStep = s := by
  unfold State.bootStep
  split
  · rfl
  · simp [h]

/-- Only a warm reset completes one (R375). -/
theorem State.finishWarm_of_run (s : State) (h : s.phase = .run) : s.finishWarm = s := by
  unfold State.finishWarm
  simp [h]

/-- In the running phase, with no raise of vector 64 pending, an idle step takes one microsecond. -/
theorem State.idle_nowUs (s : State) (hp : s.phase = .run) (hq : s.err.irqPend = false) : s.idle.nowUs = s.nowUs + 1 := by
  have hr : (s.setNowUs (s.nowUs + 1)).rampIssue.phase = .run := by simp [hp]
  unfold State.idle
  rw [s.tick_of_quiet hq, State.bootStep_of_run _ hr, State.finishWarm_of_run _ hr]
  simp

/-- While the module runs every block of BAR0 answers. -/
theorem State.readReg_of_run (s : State) (off : Nat) (h : s.phase = .run) : s.readReg off = s.regValue off := by
  unfold State.readReg
  simp [h]

/-- The ID block answers in every phase (R463). -/
theorem State.readReg_id (s : State) (off : Nat) (h : off < 0x1000) : s.readReg off = s.readId off := by
  have hb : blockOf off = 0 := by simp [blockOf, h]
  unfold State.readReg State.regValue
  simp [hb]

/-- A byte field in the low bits of a word: the other bits read 0. -/
theorem fieldsWord_byte {n : Nat} (h : n < 256) : fieldsWord [(0, 7, n)] = BitVec.ofNat 32 n := by
  have hm : n % 256 = n := Nat.mod_eq_of_lt h
  simp [fieldsWord, hm]

/-- ID_ARCH_LEVEL reads 1 (R6). -/
theorem State.readReg_archLevel (s : State) : s.readReg 0x8 = 1 := by
  rw [s.readReg_id _ (by decide)]
  rfl

/-- ID_HOST_LEVEL reads the level of the host (R7). -/
theorem State.readReg_hostLevel (s : State) (h : s.link.hostLevel < 256) : s.readReg 0xC = BitVec.ofNat 32 s.link.hostLevel := by
  rw [s.readReg_id _ (by decide), ← fieldsWord_byte h]
  rfl

/-- ID_EFFECTIVE_LEVEL reads the level in force (R8). -/
theorem State.readReg_effLevel (s : State) (h : s.link.effLevel < 256) : s.readReg 0x10 = BitVec.ofNat 32 s.link.effLevel := by
  rw [s.readReg_id _ (by decide), ← fieldsWord_byte h]
  rfl

/-- ID_EFFECTIVE_LEVEL is read-only (R8, R17). -/
theorem State.writeReg_effLevel (s : State) (v : Word) : s.writeReg 0x10 v = s := rfl

end Sys2Proof.Machine
end

section
open Sys2Proof Sys2Proof.Machine

namespace Sys2Proof.Claims

/-- Settles O3: each command keeps the queue, and a step hands the command the queue without itself. -/
theorem everyCommandLeavesTheQueue : Obligations.EveryCommandLeavesTheQueue := by
  refine ⟨fun c s t h => (Keeps.of_exec h).pending, fun c r s t hp h => ?_⟩
  rw [step_of_pending hp] at h
  exact (Keeps.of_exec h).pending

/-- Settles O4: the level in force follows from Keeps over a step, and the reads from the ID block. -/
theorem everyStepKeepsEffectiveLevel : Obligations.EveryStepKeepsEffectiveLevel := by
  refine ⟨fun s t hs h => levelAgrees_step hs h, fun s hs hl _ => ⟨s.readReg_archLevel, s.readReg_hostLevel hl, ?_⟩, rfl, ?_, State.writeReg_effLevel⟩
  · rw [← hs]
    exact s.readReg_effLevel (by omega)
  · exact State.reset.readReg_effLevel (by decide)

/-- Settles O1: the step's two cases, and the clock of an idle step. -/
theorem stepRunsFrontCommand : Obligations.StepRunsFrontCommand :=
  ⟨fun _ _ _ h => step_of_pending h, fun _ h => step_of_idle h, State.idle_nowUs⟩

/-- Settles O6: each field of the reset state holds the value that the invariant asks for. -/
theorem resetMeetsEveryInvariant : Obligations.ResetMeetsEveryInvariant := by
  have hready : Safety.ReadyOnlyRunning State.reset := fun h => absurd h (by decide)
  exact ⟨⟨rfl, rfl⟩, rfl, hready, rfl, rfl, List.length_replicate, List.length_replicate, List.length_replicate, List.length_replicate, by decide⟩

end Sys2Proof.Claims
end

section
/-! SUPPORT. What a host access leaves of the state: it wakes the module, and the first one after a host-loss reset may raise vector 65 (R354, R431). -/

namespace Sys2Proof.Machine

/-- From `s` to `t` nothing has changed but what the arrival of a host access can change: the power block, the optics, the first-access mark, the pending vectors and what was put out. -/
structure Accessed (s t : State) : Prop where
  phase : t.phase = s.phase
  adm : t.adm = s.adm
  parts : t.parts = s.parts
  queues : t.queues = s.queues
  mem : t.mem = s.mem
  fabric : t.fabric = s.fabric
  fab : t.fab = s.fab
  sec : t.sec = s.sec
  hle : t.hle = s.hle
  link : t.link = { s.link with firstAccess := t.link.firstAccess, heldVec := t.link.heldVec }

namespace Accessed

theorem refl (s : State) : Accessed s s := ⟨rfl, rfl, rfl, rfl, rfl, rfl, rfl, rfl, rfl, rfl⟩

theorem trans {s t u : State} (h : Accessed s t) (k : Accessed t u) : Accessed s u :=
  ⟨k.phase.trans h.phase, k.adm.trans h.adm, k.parts.trans h.parts, k.queues.trans h.queues, k.mem.trans h.mem, k.fabric.trans h.fabric,
    k.fab.trans h.fab, k.sec.trans h.sec, k.hle.trans h.hle, k.link.trans (by rw [h.link])⟩

theorem wakeNow (s : State) : Accessed s s.wakeNow := by
  unfold State.wakeNow
  split
  · exact refl s
  · exact ⟨rfl, rfl, rfl, rfl, rfl, rfl, rfl, rfl, rfl, rfl⟩

theorem msix (s : State) (v : Nat) : Accessed s (s.msix v) := by
  unfold State.msix
  split
  · exact ⟨rfl, rfl, rfl, rfl, rfl, rfl, rfl, rfl, rfl, rfl⟩
  · split
    · exact refl s
    · exact ⟨rfl, rfl, rfl, rfl, rfl, rfl, rfl, rfl, rfl, rfl⟩

theorem hostAccess (s : State) : Accessed s s.hostAccess := by
  have hseen : Accessed s (s.setLink { s.link with firstAccess := false }) := ⟨rfl, rfl, rfl, rfl, rfl, rfl, rfl, rfl, rfl, rfl⟩
  unfold State.hostAccess
  split
  · dsimp only
    split
    · exact hseen.trans (msix _ 65)
    · exact hseen
  · exact refl s

theorem atBar0 (s : State) : Accessed s (Claims.atBar0 s) := (wakeNow s).trans (hostAccess _)

theorem seen (s : State) : Accessed s s.seen := by
  unfold State.seen
  split
  · exact atBar0 s
  · exact hostAccess s

variable {s t : State} (h : Accessed s t)
include h

theorem cache : t.link.cache = s.link.cache := by rw [h.link]
theorem effLevel : t.link.effLevel = s.link.effLevel := by rw [h.link]
theorem outbound : t.outbound = s.outbound := by unfold State.outbound; rw [h.link]
theorem anyPart : t.anyPart = s.anyPart := by unfold State.anyPart; rw [h.parts]
theorem queue (q : Nat) : t.queue q = s.queue q := by unfold State.queue; rw [h.queues]

end Accessed

/-- A running module takes an access as a BAR0 write does; any other is not woken (R354, R431). -/
theorem State.seen_eq (s : State) : s.seen = if s.phase = .run then Claims.atBar0 s else s.hostAccess := by
  unfold State.seen
  split <;> rfl

/-- BAR0 writes that arrive act on the state that the access leaves (R431). -/
theorem State.bar0_of_open (s : State) (f : State → State) (h : s.barOpen = true) : s.bar0 f = f (Claims.atBar0 s) := by
  unfold State.bar0
  rw [if_pos h]
  rfl

/-- BAR0 writes arrive only while the module runs (R463). -/
theorem State.run_of_barOpen {s : State} (h : s.barOpen = true) : s.phase = .run := by
  simp only [State.barOpen, Bool.and_eq_true, beq_iff_eq] at h
  exact h.1.1.1

/-- Where BAR0 writes arrive every register takes them. -/
theorem State.regOpen_of_barOpen {s : State} (h : s.barOpen = true) (off : Nat) : s.regOpen off = true := by
  have hp := State.run_of_barOpen h
  simp only [State.barOpen, Bool.and_eq_true] at h
  simp [State.regOpen, State.hostReaches, hp, h]

/-- A 32-bit write that arrives wakes the module and takes effect; PWR_IDLE, which does not wake it, is left out (R431). -/
theorem State.hostWriteReg_of_open (s : State) (off : Nat) (v : Word) (h : s.barOpen = true) (ho : off ≠ offPwrIdle) :
    s.hostWriteReg off v = (Claims.atBar0 s).writeReg off v := by
  unfold State.hostWriteReg
  rw [if_pos (State.regOpen_of_barOpen h off), if_neg (by simp [ho, State.run_of_barOpen h])]
  rfl

/-- ID_HOST_LEVEL takes no value with a partition admitted or CXL.cache off (R9, R349). -/
theorem State.writeLevel_of_closed (s : State) (v : Word) (h : s.anyPart = true ∨ s.link.cache = false) : s.writeLevel v = s := by
  unfold State.writeLevel
  rw [if_pos (by simpa using h)]

/-- ID_HOST_LEVEL takes its value, and the level in force follows it (R7 to R9). -/
theorem State.writeLevel_of_open (s : State) (v : Word) (hp : s.anyPart = false) (hc : s.link.cache = true) :
    s.writeLevel v = s.setLink { s.link with hostLevel := v.toNat % 256, effLevel := min 1 (v.toNat % 256) } := by
  unfold State.writeLevel
  rw [if_neg (by simp [hp, hc])]
  rfl

theorem execIdHostLevelWrite_of_open (s : State) (v : Word) (h : s.levelOpen = true) :
    execIdHostLevelWrite v s = .next (s.seen.writeLevel v) := by
  unfold execIdHostLevelWrite
  rw [if_pos h]

end Sys2Proof.Machine
end

section
/-! SUPPORT. Byte strings and registers that read back what was written, and the writes of REGISTER_WRITE by kind (R17 to R19, R495). -/

namespace Sys2Proof.Machine

/-- Little-endian bytes hold the number below 256 to their count (R16). -/
theorem leNat_leBytes (k n : Nat) : leNat (leBytes k n) = n % 256 ^ k := by
  induction k generalizing n with
  | zero => simp [leBytes, leNat, Nat.mod_one]
  | succ k ih =>
    have hb : (BitVec.ofNat 8 n).toNat = n % 256 := BitVec.toNat_ofNat n 8
    rw [leBytes, leNat, ih, hb, Nat.pow_succ', Nat.mod_mul]

/-- A patch at the start of a byte string reads back. -/
theorem field_patch_zero (bs v : Bytes) : field (patch bs 0 v) 0 v.length = leNat v := by
  simp [field, patch]

/-- A patch at the start leaves the bytes after it. -/
theorem drop_patch_zero (bs v : Bytes) : (patch bs 0 v).drop v.length = bs.drop v.length := by
  simp [patch]

/-- A 32-bit write that is not aligned changes nothing (R353). -/
theorem exec_bar0_word_misaligned (off : BitVec 24) (v : Word) (s : State) (h : off.toNat % 4 ≠ 0) :
    exec (.registerWrite (.bar0 off v none)) s = .next s := if_neg h

/-- An aligned 32-bit write (R19). -/
theorem exec_bar0_word (off : BitVec 24) (v : Word) (s : State) (h : off.toNat % 4 = 0) :
    exec (.registerWrite (.bar0 off v none)) s = .next (s.hostWriteReg off.toNat v) := if_pos h

/-- A 64-bit write that is not aligned changes nothing (R353). -/
theorem exec_bar0_pair_misaligned (off : BitVec 24) (v h : Word) (s : State) (ho : off.toNat % 8 ≠ 0) :
    exec (.registerWrite (.bar0 off v (some h))) s = .next s := if_neg ho

/-- An aligned 64-bit write is its lower half, then its upper half at the next register (R19). -/
theorem exec_bar0_pair (off : BitVec 24) (v h : Word) (s : State) (ho : off.toNat % 8 = 0) :
    exec (.registerWrite (.bar0 off v (some h))) s = exec (.registerWrite (.bar0 (off + 4) h none)) (s.hostWriteReg off.toNat v) := by
  have hn : (off + 4).toNat = off.toNat + 4 := by bv_omega
  rw [exec_bar0_word _ _ _ (by omega), hn]
  exact if_pos ho

/-- A 32-bit write of a register that arrives (R17). -/
theorem exec_bar0_open (off : BitVec 24) (v : Word) (s : State) (h : s.barOpen = true) (ha : off.toNat % 4 = 0) (ho : off.toNat ≠ offPwrIdle) :
    exec (.registerWrite (.bar0 off v none)) s = .next ((Claims.atBar0 s).writeReg off.toNat v) := by
  rw [exec_bar0_word off v s ha, s.hostWriteReg_of_open _ _ h ho]

/-- A block write over the SMBus with an unknown code, a wrong byte count or a bad PEC byte sets BAD_CMD (R495). -/
theorem State.smbusWrite_bad (s : State) (code : Nat) (data : Bytes) (pecOk : Bool) (h : s.smbOpen = true)
    (hb : pecOk = false ∨ sbLengthOk code data.length = false) : s.smbusWrite code data pecOk = .next (s.sbSet 5) := by
  unfold State.smbusWrite
  have hf : (pecOk && sbLengthOk code data.length) = false := by
    rcases hb with h | h
    · simp [h]
    · simp [h]
  simp [h, hf]

/-- A block write of SB_EVENT clears bits (R496). -/
theorem State.smbusWrite_event (s : State) (data : Bytes) (h : s.smbOpen = true) (hl : data.length = 4) :
    s.smbusWrite 0x05 data true = .next (s.clearSbEvent (BitVec.ofNat 32 (field data 0 4))) := by
  unfold State.smbusWrite
  simp [h, hl, sbLengthOk]

/-- A block write of SB_ALERT_EN enables bits (R496). -/
theorem State.smbusWrite_alertEn (s : State) (data : Bytes) (h : s.smbOpen = true) (hl : data.length = 4) :
    s.smbusWrite 0x06 data true = .next (s.writeAlertEn (BitVec.ofNat 32 (field data 0 4))) := by
  unfold State.smbusWrite
  simp [h, hl, sbLengthOk]

/-- After SB_EVENT is cleared, SMB_ALERT# is let go when no enabled bit is left (R496). -/
theorem State.clearSbEvent_alert (s : State) (v : Word) (h : (s.clearSbEvent v).steward.sbEvent &&& (s.clearSbEvent v).steward.alertEn = 0) :
    (s.clearSbEvent v).steward.alert = false := by
  change (s.steward.alert && ((s.clearSbEvent v).steward.sbEvent &&& (s.clearSbEvent v).steward.alertEn) != 0) = false
  rw [h]
  simp

/-- After SB_ALERT_EN is written, SMB_ALERT# is let go when no enabled bit is set (R496). -/
theorem State.writeAlertEn_alert (s : State) (v : Word) (h : (s.writeAlertEn v).steward.sbEvent &&& (s.writeAlertEn v).steward.alertEn = 0) :
    (s.writeAlertEn v).steward.alert = false := by
  change ((s.writeAlertEn v).steward.sbEvent &&& (s.writeAlertEn v).steward.alertEn != 0 && _) = false
  rw [h]
  rfl

/-- A write of the first mailbox word lays its bytes over the first four (R450). -/
theorem State.writeReg_mbox (s : State) (v : Word) : s.writeReg 0x501000 v = s.modSec fun x => { x with mbox := patch x.mbox 0 (leBytes 4 v.toNat) } := by
  simp [State.writeReg, blockOf, State.writeSec]

/-- The first mailbox word reads as the first four bytes of the mailbox (R450). -/
theorem State.readReg_mbox (s : State) (h : s.phase = .run) : s.readReg 0x501000 = loWord (field s.sec.mbox 0 4) := by
  rw [s.readReg_of_run _ h]
  simp [State.regValue, blockOf, State.readSec]

/-- A word as four bytes and back. -/
theorem loWord_leBytes (v : Word) : loWord (leNat (leBytes 4 v.toNat)) = v := by
  rw [leNat_leBytes, loWord]
  apply BitVec.eq_of_toNat_eq
  have := v.isLt
  simp only [BitVec.toNat_ofNat]
  omega

theorem State.readReg_writeReg_mbox (s : State) (v : Word) (h : s.phase = .run) : (s.writeReg 0x501000 v).readReg 0x501000 = v := by
  have hf := field_patch_zero s.sec.mbox (leBytes 4 v.toNat)
  rw [leBytes_length] at hf
  rw [State.writeReg_mbox, State.readReg_mbox _ (by exact h)]
  exact (congrArg loWord hf).trans (loWord_leBytes v)

theorem State.drop_mbox_writeReg (s : State) (v : Word) : (s.writeReg 0x501000 v).sec.mbox.drop 4 = s.sec.mbox.drop 4 := by
  have hd := drop_patch_zero s.sec.mbox (leBytes 4 v.toNat)
  rw [leBytes_length] at hd
  rw [State.writeReg_mbox]
  exact hd

/-- The low six bits of a word are those of the number it was made of. -/
theorem ofNat6_word (n : Nat) : BitVec.ofNat 6 (BitVec.ofNat 32 n).toNat = BitVec.ofNat 6 n := by
  apply BitVec.eq_of_toNat_eq
  simp only [BitVec.toNat_ofNat]
  omega

theorem execAcctClear_of_open (part : Bool) (i : Fin 64) (v : Word) (s : State) (h : s.barOpen = true) :
    exec (.acctClear part i v) s = .next ((Claims.atBar0 s).clearAcct part i.val v) :=
  congrArg Host.Outcome.next (s.bar0_of_open _ h)

/-- ACCT_CLEAR without bit 0 changes nothing (R277). -/
theorem State.clearAcct_of_clear (s : State) (part : Bool) (i : Nat) (v : Word) (h : v.getLsbD 0 = false) : s.clearAcct part i v = s := by
  unfold State.clearAcct
  simp only [h, Bool.not_false, if_true]

/-- ACCT_CLEAR with bit 0 zeroes the page of a queue or a partition (R277). -/
theorem State.clearAcct_of_set (s : State) (part : Bool) (i : Nat) (v : Word) (h : v.getLsbD 0 = true) :
    s.clearAcct part i v = if part then s.modPart (i % 16) fun x => { x with acct := {} } else s.modQueue i fun x => { x with acct := {} } := by
  unfold State.clearAcct
  simp only [h, Bool.not_true, Bool.false_eq_true, if_false]

end Sys2Proof.Machine
end

section
open Sys2Proof Sys2Proof.Machine

namespace Sys2Proof.Claims

/-- Settles O29: a level write acts on the state that the access leaves, whose partitions and CXL.cache are those of `s`. -/
theorem levelWritesAndInvalidAccesses : Obligations.LevelWritesAndInvalidAccesses := by
  refine ⟨fun v s ho => ?_, fun off n s h => ?_, fun _ _ _ => rfl, fun off s h => ?_⟩
  · have hb : exec (.idHostLevelWrite v) s = .next (s.seen.writeLevel v) := execIdHostLevelWrite_of_open s v ho
    have hs := Accessed.seen s
    rw [hb, ← s.seen_eq]
    refine ⟨fun hp hc => ?_, fun hcl => ?_⟩
    · exact ⟨_, rfl, by rw [State.writeLevel_of_open _ v (hs.anyPart ▸ hp) (hs.cache ▸ hc)]; exact ⟨rfl, rfl⟩⟩
    · rw [State.writeLevel_of_closed _ v (by rwa [hs.anyPart, hs.cache])]
  · exact if_neg (by simp [h])
  · exact if_neg (by simp [h])

/-- A 32-bit write of a plain register that arrives stores its value, which reads back; ID_DEVICE is read-only (R17). -/
theorem plainRegisters_read_back (v : Word) (s : State) (h : s.barOpen = true) :
    (∃ t : State, exec (.registerWrite (.bar0 0x180100 v none)) s = .next t ∧ t.readReg 0x180100 = v ∧ t.adm = { s.adm with addrLo := v } ∧ t.mem = s.mem) ∧
    (∃ t : State, exec (.registerWrite (.bar0 0x224 v none)) s = .next t ∧ t.readReg 0x224 = v ∧ t.hle = { s.hle with addrLo := v } ∧ t.mem = s.mem) ∧
    (s.sec.mbox.length = 4096 → ∃ t : State, exec (.registerWrite (.bar0 0x501000 v none)) s = .next t ∧ t.readReg 0x501000 = v ∧ t.sec.mbox.drop 4 = s.sec.mbox.drop 4) ∧
    exec (.registerWrite (.bar0 0 v none)) s = .next (atBar0 s) := by
  have hs := Accessed.atBar0 s
  have hrun : (atBar0 s).phase = .run := hs.phase.trans (State.run_of_barOpen h)
  refine ⟨⟨_, exec_bar0_open 0x180100 v s h rfl (by decide), ?_, ?_, hs.mem⟩, ⟨_, exec_bar0_open 0x224 v s h rfl (by decide), ?_, ?_, hs.mem⟩,
    fun _ => ⟨_, exec_bar0_open 0x501000 v s h rfl (by decide), ?_, ?_⟩, exec_bar0_open 0 v s h rfl (by decide)⟩
  · exact State.readReg_of_run _ _ hrun
  · rw [← hs.adm]; rfl
  · exact State.readReg_of_run _ _ hrun
  · rw [← hs.hle]; rfl
  · exact State.readReg_writeReg_mbox _ v hrun
  · exact (State.drop_mbox_writeReg _ v).trans (by rw [hs.sec])

/-- Settles O46: each write by its kind, in the order of the statement. -/
theorem registerWritesTakeEffectInOrder : Obligations.RegisterWritesTakeEffectInOrder := by
  refine ⟨exec_bar0_word_misaligned, exec_bar0_pair_misaligned, fun off v h s ho => ⟨_, exec_bar0_word off v s (by omega), exec_bar0_pair off v h s ho⟩,
    plainRegisters_read_back, fun code data pecOk s ho => ⟨s.smbusWrite_bad code.toNat data pecOk ho, fun hl => ?_, fun hl => ?_⟩, fun i v s ho _ _ => ⟨fun hv => ⟨?_, ?_⟩, fun hv part => ?_⟩⟩
  · refine ⟨_, s.smbusWrite_event data ho hl, ?_, rfl, s.clearSbEvent_alert _, rfl, rfl⟩
    rw [← ofNat6_word]; rfl
  · refine ⟨_, s.smbusWrite_alertEn data ho hl, ofNat6_word _, rfl, s.writeAlertEn_alert _, rfl, rfl⟩
  · rw [execAcctClear_of_open false i v s ho, State.clearAcct_of_set _ _ _ _ hv]; rfl
  · rw [execAcctClear_of_open true i v s ho, State.clearAcct_of_set _ _ _ _ hv]; rfl
  · rw [execAcctClear_of_open part i v s ho, State.clearAcct_of_clear _ _ _ _ hv]

end Sys2Proof.Claims
end

section
/-! SUPPORT. Queues and partitions after an update of one of them. -/

namespace Sys2Proof.Machine

/-- Element `j` after element `i` has been replaced. -/
theorem getD_updAt {α : Type} (l : List α) (i j : Nat) (f : α → α) (d : α) :
    (updAt l i f).getD j d = if j = i ∧ i < l.length then f (l.getD i d) else l.getD j d := by
  simp only [List.getD_eq_getElem?_getD]
  by_cases hj : j = i
  · subst hj
    rw [updAt_getElem?_eq]
    by_cases hl : j < l.length
    · simp [hl]
    · simp [hl]
  · rw [updAt_getElem?_ne _ _ _ _ hj, if_neg (fun h => hj h.1)]

theorem State.queue_modQueue (s : State) (q j : Nat) (f : Queue → Queue) :
    (s.modQueue q f).queue j = if j = q ∧ q < s.queues.length then f (s.queue q) else s.queue j := getD_updAt _ _ _ _ _

theorem State.queue_modQueue_self (s : State) (q : Nat) (f : Queue → Queue) (h : q < s.queues.length) : (s.modQueue q f).queue q = f (s.queue q) := by
  rw [State.queue_modQueue, if_pos ⟨rfl, h⟩]

theorem State.queue_modQueue_ne (s : State) (q j : Nat) (f : Queue → Queue) (h : j ≠ q) : (s.modQueue q f).queue j = s.queue j := by
  rw [State.queue_modQueue, if_neg (fun k => h k.1)]

@[simp] theorem State.queues_length_modQueue (s : State) (q : Nat) (f : Queue → Queue) : (s.modQueue q f).queues.length = s.queues.length :=
  updAt_length _ _ _

theorem State.part_modPart (s : State) (p j : Nat) (f : Part → Part) :
    (s.modPart p f).part j = if j = p ∧ p < s.parts.length then f (s.part p) else s.part j := getD_updAt _ _ _ _ _

theorem State.part_modPart_ne (s : State) (p j : Nat) (f : Part → Part) (h : j ≠ p) : (s.modPart p f).part j = s.part j := by
  rw [State.part_modPart, if_neg (fun k => h k.1)]

@[simp] theorem State.parts_length_modPart (s : State) (p : Nat) (f : Part → Part) : (s.modPart p f).parts.length = s.parts.length :=
  updAt_length _ _ _

end Sys2Proof.Machine
end

section
/-! SUPPORT. What the fetch of a queue's entries takes in and what it leaves (R254 to R256). -/

namespace Sys2Proof.Machine

@[simp] theorem State.hostAlter_queues (s : State) (a : Nat) (data : Bytes) (h : Nat) : (s.hostAlter a data h).queues = s.queues := by
  unfold State.hostAlter
  dsimp only
  split
  · rfl
  · split
    · simp only [State.setDev, State.setMem_queues]
    · simp only [State.modSlab, State.setSlabs, State.setDev, State.setMem_queues]

/-- The host's stores into its own memory change no queue. -/
@[simp] theorem State.hostStore_queues (s : State) (l : List HostBlk) : (s.hostStore l).queues = s.queues := by
  have halter (a : Nat) (data : Bytes) (us : List Nat) (s : State) : (us.foldl (fun s h => s.hostAlter a data h) s).queues = s.queues := by
    induction us generalizing s with
    | nil => rfl
    | cons u us ih => exact (ih _).trans (s.hostAlter_queues a data u)
  induction l generalizing s with
  | nil => rfl
  | cons x r ih => exact (ih _).trans (halter _ _ _ _)

/-- What the fetch of entries of queue `q` leaves: the link, the memories, the other queues, and of its own queue the pointer TAIL and the settings that the fetch reads. -/
structure Fetches (q : Nat) (s u : State) : Prop where
  link : u.link = s.link
  mem : u.mem = s.mem
  length : u.queues.length = s.queues.length
  other : ∀ j, j ≠ q → u.queue j = s.queue j
  sqTail : (u.queue q).sqTail = (s.queue q).sqTail
  enable : (u.queue q).enable = (s.queue q).enable
  assigned : (u.queue q).assigned = (s.queue q).assigned
  log2 : (u.queue q).log2 = (s.queue q).log2

theorem Fetches.refl (q : Nat) (s : State) : Fetches q s s := ⟨rfl, rfl, rfl, fun _ _ => rfl, rfl, rfl, rfl, rfl⟩

theorem Fetches.trans {q : Nat} {s t u : State} (h : Fetches q s t) (k : Fetches q t u) : Fetches q s u :=
  ⟨k.link.trans h.link, k.mem.trans h.mem, k.length.trans h.length, fun j hj => (k.other j hj).trans (h.other j hj), k.sqTail.trans h.sqTail,
    k.enable.trans h.enable, k.assigned.trans h.assigned, k.log2.trans h.log2⟩

theorem Fetches.outbound {q : Nat} {s u : State} (h : Fetches q s u) : u.outbound = s.outbound := by
  unfold State.outbound
  rw [h.link]

theorem Fetches.size {q : Nat} {s u : State} (h : Fetches q s u) : (u.queue q).size = (s.queue q).size := by
  unfold Queue.size
  rw [h.log2]

/-- The command that the fetch of the entry at HEAD makes (R254 to R256, R271). -/
def State.fetchedCmd (s : State) (q : Nat) : Cmd :=
  let b := s.hostSeen ((s.queue q).sqBase + 128 * (s.queue q).sqHead) 128
  let v := s.entryStatus q b
  { idx := (s.queue q).sqHead, entry := b, verdict := v, waitFrom := some s.nowUs
    envelope := (s.queue q).cls == 0 && v == 0 && s.inEnvelope (s.queue q).part (entBudget b), no := s.adm.admitNo }

/-- The fetch of one entry appends one command and moves HEAD on by one (R254, R256). -/
theorem State.fetchOne_queues (s : State) (q : Nat) :
    (s.fetchOne q).queues = (s.modQueue q fun x => { x with fifo := x.fifo ++ [s.fetchedCmd q], sqHead := (x.sqHead + 1) % x.size }).queues := by
  unfold State.fetchOne
  dsimp only
  split
  · split <;> rfl
  · split <;> rfl

theorem State.fetchOne_link (s : State) (q : Nat) : (s.fetchOne q).link = s.link := by
  unfold State.fetchOne
  dsimp only
  split
  · split <;> rfl
  · split <;> rfl

theorem State.fetchOne_mem (s : State) (q : Nat) : (s.fetchOne q).mem = s.mem := by
  unfold State.fetchOne
  dsimp only
  split
  · split <;> rfl
  · split <;> rfl

theorem State.queue_congr {s t : State} (h : s.queues = t.queues) (q : Nat) : s.queue q = t.queue q := by
  unfold State.queue
  rw [h]

theorem Fetches.fetchOne (q : Nat) (s : State) (hq : q < s.queues.length) : Fetches q s (s.fetchOne q) := by
  have hc := s.fetchOne_queues q
  have hself := (State.queue_congr hc q).trans (State.queue_modQueue_self s q _ hq)
  exact ⟨s.fetchOne_link q, s.fetchOne_mem q, by rw [hc, State.queues_length_modQueue], fun j hj => (State.queue_congr hc j).trans (State.queue_modQueue_ne s q j _ hj),
    by rw [hself], by rw [hself], by rw [hself], by rw [hself]⟩

theorem Fetches.fetchAll (q n : Nat) (s : State) (hq : q < s.queues.length) : Fetches q s (State.fetchAll q n s) := by
  induction n generalizing s with
  | zero => exact .refl q s
  | succ n ih =>
    have h1 := Fetches.fetchOne q s hq
    unfold State.fetchAll
    dsimp only
    split
    · exact h1.trans (ih _ (h1.length ▸ hq))
    · exact .refl q s

/-- While the host does not answer, nothing is fetched (R350, R367). -/
theorem State.fetchAll_of_silent (q n : Nat) (s : State) (h : s.outbound = false) : State.fetchAll q n s = s := by
  cases n with
  | zero => rfl
  | succ n =>
    unfold State.fetchAll
    simp [h]

/-- Entries from HEAD to TAIL in a ring, when HEAD has not passed TAIL and when it has. -/
theorem ringGap_eq {S h t : Nat} (hh : h < S) (ht : t < S) : (t + S - h) % S = if h ≤ t then t - h else t + S - h := by
  split
  · rw [show t + S - h = t - h + S by omega, Nat.add_mod_right, Nat.mod_eq_of_lt (by omega)]
  · exact Nat.mod_eq_of_lt (by omega)

/-- The entry at HEAD is one of those from HEAD to TAIL. -/
theorem ringGap_succ {S h t : Nat} (hh : h < S) (ht : t < S) (hne : h ≠ t) : (t + S - h) % S = (t + S - (h + 1) % S) % S + 1 := by
  rw [ringGap_eq hh ht, ringGap_eq (Nat.mod_lt _ (by omega)) ht]
  by_cases hw : h + 1 = S
  · rw [hw, Nat.mod_self]
    split <;> simp <;> omega
  · rw [Nat.mod_eq_of_lt (by omega)]
    split <;> split <;> omega

/-- With room for them, every entry from HEAD to TAIL is fetched: HEAD reaches TAIL, and one command joins for each (R254, R256). -/
theorem State.fetchAll_reaches (q n : Nat) (s : State) (hq : q < s.queues.length) (he : (s.queue q).enable = true) (ha : (s.queue q).assigned = true)
    (ho : s.outbound = true) (hh : (s.queue q).sqHead < (s.queue q).size) (ht : (s.queue q).sqTail < (s.queue q).size)
    (hn : ((s.queue q).sqTail + (s.queue q).size - (s.queue q).sqHead) % (s.queue q).size ≤ n) :
    ((State.fetchAll q n s).queue q).sqHead = (s.queue q).sqTail ∧
      ∃ l, ((State.fetchAll q n s).queue q).fifo = (s.queue q).fifo ++ l ∧
        l.length = ((s.queue q).sqTail + (s.queue q).size - (s.queue q).sqHead) % (s.queue q).size := by
  induction n generalizing s with
  | zero =>
    rw [ringGap_eq hh ht] at hn ⊢
    have heq : (s.queue q).sqHead = (s.queue q).sqTail := by
      split at hn <;> omega
    exact ⟨heq, [], (List.append_nil _).symm, by simp [heq]⟩
  | succ n ih =>
    unfold State.fetchAll
    by_cases heq : (s.queue q).sqHead = (s.queue q).sqTail
    · rw [if_neg (by simp [heq])]
      exact ⟨heq, [], (List.append_nil _).symm, by simp [heq]⟩
    · rw [if_pos (by simp [he, ha, ho, heq])]
      have h1 := Fetches.fetchOne q s hq
      have hself := (State.queue_congr (s.fetchOne_queues q) q).trans (State.queue_modQueue_self s q _ hq)
      have hhead : ((s.fetchOne q).queue q).sqHead = ((s.queue q).sqHead + 1) % (s.queue q).size := by rw [hself]
      have hfifo : ((s.fetchOne q).queue q).fifo = (s.queue q).fifo ++ [s.fetchedCmd q] := by rw [hself]
      have hgap := ringGap_succ hh ht heq
      have hpos : 0 < (s.queue q).size := by omega
      have hrest := ih (s.fetchOne q) (h1.length ▸ hq) (h1.enable ▸ he) (h1.assigned ▸ ha) (h1.outbound ▸ ho)
        (by rw [hhead, h1.size]; exact Nat.mod_lt _ hpos) (by rw [h1.sqTail, h1.size]; exact ht) (by rw [hhead, h1.size, h1.sqTail]; omega)
      rw [hhead, h1.size, h1.sqTail, hfifo] at hrest
      obtain ⟨hto, l, hl, hlen⟩ := hrest
      exact ⟨hto, s.fetchedCmd q :: l, by rw [hl, List.append_assoc]; rfl, by rw [List.length_cons, hlen, hgap]⟩

end Sys2Proof.Machine
end

section
/-! SUPPORT. The doorbell's three outcomes (R10, R253 to R255). -/

namespace Sys2Proof.Machine

/-- With no level in force a doorbell is discarded (R10). -/
theorem State.doorbell_of_level0 (s : State) (q : Nat) (v : Word) (h : s.link.effLevel = 0) : s.doorbell q v = s := if_pos h

/-- A doorbell of a queue that cannot take it leaves RING_ERROR (R253 to R255). -/
theorem State.doorbell_of_bad (s : State) (q : Nat) (v : Word) (h : s.link.effLevel ≠ 0)
    (hb : (s.queue q).enable = false ∨ (s.queue q).assigned = false ∨ (s.queue q).size ≤ v.toNat % 65536 ∨ (s.queue q).log2 < 4) :
    s.doorbell q v = s.modQueue q fun x => { x with ringError := true, lastError := 0x0407 } := (if_neg h).trans (if_pos hb)

/-- A good doorbell moves TAIL, fetches, and starts the scheduler (R254). -/
theorem State.doorbell_of_good (s : State) (q : Nat) (v : Word) (h : s.link.effLevel ≠ 0) (he : (s.queue q).enable = true)
    (ha : (s.queue q).assigned = true) (ht : v.toNat % 65536 < (s.queue q).size) (h4 : 4 ≤ (s.queue q).log2) :
    s.doorbell q v = (State.fetchAll q (s.queue q).size (s.modQueue q fun x => { x with sqTail := v.toNat % 65536 })).kick :=
  (if_neg h).trans (if_neg (by simp [he, ha, ht, h4]))

theorem execDoorbell_of_open (q : Fin 64) (v : Word) (host : List HostBlk) (s : State) (h : s.barOpen = true) :
    exec (.doorbell q v host) s = .next (((Claims.atBar0 s).hostStore host).doorbell q.val v) :=
  congrArg Host.Outcome.next (s.bar0_of_open _ h)

/-- Where BAR0 writes arrive, the host takes outbound traffic exactly in L0 (R350, R367, R369). -/
theorem State.outbound_iff_of_barOpen {s : State} (h : s.barOpen = true) : s.outbound = true ↔ s.link.st = .l0 := by
  simp only [State.barOpen, Bool.and_eq_true] at h
  simp [State.outbound, h]

/-- What a good doorbell has fetched for queue `x` before the scheduler runs (R254, R256). -/
theorem State.fetch_after_doorbell (b : State) (q tail : Nat) (x : Queue) (hx : b.queue q = x) (hq : q < b.queues.length) (he : x.enable = true)
    (ha : x.assigned = true) (ht : tail < x.size) (hh : x.sqHead < x.size) :
    let u := State.fetchAll q (b.queue q).size (b.modQueue q fun y => { y with sqTail := tail })
    (u.queue q).sqTail = tail ∧
      (b.outbound = true → (u.queue q).sqHead = tail ∧ ∃ l, (u.queue q).fifo = x.fifo ++ l ∧ l.length = (tail + x.size - x.sqHead) % x.size) ∧
      (b.outbound = false → (u.queue q).sqHead = x.sqHead ∧ (u.queue q).fifo = x.fifo) ∧
      (∀ j, j ≠ q → u.queue j = b.queue j) ∧ u.mem = b.mem := by
  intro u
  let m := b.modQueue q fun y => { y with sqTail := tail }
  have hm : m.queue q = { x with sqTail := tail } := by rw [← hx]; exact State.queue_modQueue_self b q _ hq
  have hqm : q < m.queues.length := by rwa [State.queues_length_modQueue]
  have hf : Fetches q m u := Fetches.fetchAll q _ m hqm
  have hsize : (m.queue q).size = x.size := by rw [hm]; rfl
  refine ⟨by rw [hf.sqTail, hm], fun ho => ?_, fun ho => ?_, fun j hj => ?_, hf.mem⟩
  · have hlt := Nat.mod_lt ((m.queue q).sqTail + (m.queue q).size - (m.queue q).sqHead) (y := (m.queue q).size) (by omega)
    have h := State.fetchAll_reaches q (b.queue q).size m hqm (by rw [hm]; exact he) (by rw [hm]; exact ha) ho
      (by rw [hsize, hm]; exact hh) (by rw [hsize, hm]; exact ht) (by rw [hx]; omega)
    rwa [hsize, hm] at h
  · have hu : u = m := State.fetchAll_of_silent q _ m ho
    rw [hu, hm]
    exact ⟨rfl, rfl⟩
  · exact (hf.other j hj).trans (State.queue_modQueue_ne b q j _ hj)

end Sys2Proof.Machine
end

section
open Sys2Proof Sys2Proof.Machine

namespace Sys2Proof.Claims

/-- Settles O12: the doorbell acts on the state that the access and the host's stores leave, whose queues and level are those of `s`. -/
theorem doorbellFetchesEveryEntry : Obligations.DoorbellFetchesEveryEntry := by
  intro q v host s hlen ho b x tail
  have hs := Accessed.atBar0 s
  have hqueues : b.queues = s.queues := ((atBar0 s).hostStore_queues host).trans hs.queues
  have hlink : b.link = (atBar0 s).link := (atBar0 s).hostStore_link host
  have hlevel : b.link.effLevel = s.link.effLevel := by rw [hlink, hs.effLevel]
  have hx (j : Nat) : b.queue j = s.queue j := State.queue_congr hqueues j
  have hout : b.outbound = s.outbound := by
    rw [← hs.outbound]
    unfold State.outbound
    rw [hlink]
  rw [execDoorbell_of_open q v host s ho]
  refine ⟨fun h0 => ?_, fun h0 hb => ?_, fun h0 he ha ht h4 hh => ?_⟩
  · rw [State.doorbell_of_level0 b q.val v (hlevel.trans h0)]
  · rw [State.doorbell_of_bad b q.val v (by rwa [hlevel]) (by rw [hx]; tauto)]
  · rw [State.doorbell_of_good b q.val v (by rwa [hlevel]) (by rwa [hx]) (by rwa [hx]) (by rwa [hx]) (by rwa [hx])]
    have hq : q.val < b.queues.length := by rw [hqueues, hlen]; exact q.isLt
    obtain ⟨htail, hl0, hno, hother, hmem⟩ := State.fetch_after_doorbell b q.val tail x (hx q.val) hq he ha ht hh
    refine ⟨_, rfl, htail, fun hst => ?_, fun hst => ?_, fun j hj => ?_, congrArg Mem.dev hmem⟩
    · exact hl0 (hout.trans ((State.outbound_iff_of_barOpen ho).2 hst))
    · exact hno (hout.trans (Bool.eq_false_iff.2 fun k => hst ((State.outbound_iff_of_barOpen ho).1 k)))
    · rw [hother j hj, hx]
      exact ⟨rfl, rfl⟩

end Sys2Proof.Claims
end

section
/-! SUPPORT. Operations that stand aside from the partitions: they leave every partition, queue and grant, the host-line cache, SESSION and the link, but for the pending vectors. -/

namespace Sys2Proof.Machine

/-- From `s` to `t` no partition, queue, grant or line of the host-line cache, not the phase, not SESSION, and of the link only the pending vectors have changed. -/
structure Aside (s t : State) : Prop where
  phase : t.phase = s.phase
  parts : t.parts = s.parts
  queues : t.queues = s.queues
  link : t.link = { s.link with heldVec := t.link.heldVec }
  session : t.fab.session = s.fab.session
  lines : t.fabric.lines = s.fabric.lines
  grants : t.mem.grants = s.mem.grants

namespace Aside

theorem refl (s : State) : Aside s s := ⟨rfl, rfl, rfl, rfl, rfl, rfl, rfl⟩

theorem trans {s t u : State} (h : Aside s t) (k : Aside t u) : Aside s u :=
  ⟨k.phase.trans h.phase, k.parts.trans h.parts, k.queues.trans h.queues, k.link.trans (by rw [h.link]), k.session.trans h.session,
    k.lines.trans h.lines, k.grants.trans h.grants⟩

theorem ite {c : Prop} [Decidable c] {s a b : State} (ha : Aside s a) (hb : Aside s b) : Aside s (if c then a else b) := by
  split
  · exact ha
  · exact hb

theorem foldl {α : Type} (f : State → α → State) (l : List α) (s : State) (hf : ∀ s x, Aside s (f s x)) : Aside s (l.foldl f s) := by
  induction l generalizing s with
  | nil => exact refl s
  | cons x r ih => exact (hf s x).trans (ih _)

variable (s : State)

theorem modAdm (f : Adm → Adm) : Aside s (s.modAdm f) := ⟨rfl, rfl, rfl, rfl, rfl, rfl, rfl⟩
theorem modFab (f : Fab → Fab) (h : (f s.fab).session = s.fab.session) : Aside s (s.modFab f) := ⟨rfl, rfl, rfl, rfl, h, rfl, rfl⟩
theorem modPort (n : Nat) (f : Port → Port) : Aside s (s.modPort n f) := ⟨rfl, rfl, rfl, rfl, rfl, rfl, rfl⟩
theorem setErr (v : Err) : Aside s (s.setErr v) := ⟨rfl, rfl, rfl, rfl, rfl, rfl, rfl⟩
theorem setFlash (v : Flash) : Aside s (s.setFlash v) := ⟨rfl, rfl, rfl, rfl, rfl, rfl, rfl⟩
theorem setSec (v : Sec) : Aside s (s.setSec v) := ⟨rfl, rfl, rfl, rfl, rfl, rfl, rfl⟩
theorem setCores (v : List PhysCore) : Aside s (s.setCores v) := ⟨rfl, rfl, rfl, rfl, rfl, rfl, rfl⟩
theorem setMem (v : Mem) (h : v.grants = s.mem.grants) : Aside s (s.setMem v) := ⟨rfl, rfl, rfl, rfl, rfl, rfl, h⟩
theorem emit (o : Out) : Aside s (s.emit o) := ⟨rfl, rfl, rfl, rfl, rfl, rfl, rfl⟩
theorem meterBytes (p n : Nat) : Aside s (s.meterBytes p n) := ⟨rfl, rfl, rfl, rfl, rfl, rfl, rfl⟩
theorem setHeld (v : List Nat) : Aside s (s.setLink { s.link with heldVec := v }) := ⟨rfl, rfl, rfl, rfl, rfl, rfl, rfl⟩

/-! Interrupts and events (R354, R503 to R508). -/

theorem msix (v : Nat) : Aside s (s.msix v) := (emit s _).ite ((refl s).ite (setHeld s _))

theorem flushVec : Aside s s.flushVec := ((setHeld s []).trans (foldl _ _ _ msix)).ite (refl s)

theorem raiseIrq : Aside s s.raiseIrq := by
  unfold State.raiseIrq
  split
  · exact (setErr s _).ite ((setErr s _).trans (msix _ 64))
  · exact (setErr s _).trans (msix _ 64)

theorem faultLog (cls : Nat) (part : Option Nat) (code : Nat) (d : Bytes) : Aside s (s.faultLog cls part code d) := (setErr s _).ite (setFlash s _)

theorem event (cls code : Nat) (part : Option Nat) (d : Bytes) : Aside s (s.event cls code part d) := by
  have hirq (m : State) : Aside m (if s.err.irqEn.getLsbD cls then m.raiseIrq else m) := (raiseIrq m).ite (refl m)
  have hlog (m : State) : Aside m (if 2 ≤ cls then m.faultLog cls part code d else m) := (faultLog m cls part code d).ite (refl m)
  exact ((setErr s _).trans (hirq _)).trans (hlog _)

theorem raise (code : Nat) : Aside s (s.raise code) := event s _ _ _ _

theorem raiseP (code p : Nat) : Aside s (s.raiseP code p) := event s _ _ _ _

/-! Credits, moves and cores (R220 to R222, R273, R274, R429). -/

theorem releaseFrom (r p : Nat) (l : List Nat) (n : Nat) : Aside s (State.releaseFrom r p l n s) := by
  induction l generalizing s n with
  | nil =>
    cases n with
    | zero => exact refl s
    | succ n => exact refl s
  | cons o l ih =>
    cases n with
    | zero => exact refl s
    | succ n => exact ((refl s).ite (modAdm s _)).trans (ih _ _)

theorem releaseCredit (r p n : Nat) : Aside s (s.releaseCredit r p n) := releaseFrom s r p _ n

theorem holdShares (r p : Nat) (l : List (Nat × Nat)) : Aside s (s.holdShares r p l) := foldl _ _ _ fun s _ => modAdm s _

theorem clearEngines (ls : List Nat) : Aside s (s.clearEngines ls) := by
  unfold State.clearEngines
  split
  · exact refl s
  · exact ⟨rfl, rfl, rfl, rfl, rfl, rfl, rfl⟩

theorem restCores (ls : List Nat) : Aside s (s.restCores ls) := (refl s).ite (setCores s _)

theorem setMigrations (v : List Migration) : Aside s (s.setMigrations v) := setMem s _ rfl

theorem orderMoves (b : Nat) : Aside s (s.orderMoves b) := by
  unfold State.orderMoves
  exact modAdm s _

/-! Packets (R281 to R295, R325). -/

theorem sendNext {n sub : Nat} {t : State} (h : s.sendNext n sub = some t) : Aside s t := by
  unfold State.sendNext at h
  dsimp only at h
  split at h
  · cases h
  · obtain ⟨x, -, rfl⟩ := Option.map_eq_some_iff.1 h
    exact ((modPort s n _).trans (modPort _ n _)).trans (emit _ _)

theorem serveSub (n sub k : Nat) : Aside s (State.serveSub n sub k s) := by
  induction k generalizing s with
  | zero => exact refl s
  | succ k ih =>
    unfold State.serveSub
    split
    · exact refl s
    · next h => exact (sendNext s h).trans (ih _)

theorem kickSub (n sub : Nat) : Aside s (s.kickSub n sub) := (serveSub s n sub _).ite (refl s)

theorem portSend (n : Nat) (k : Pkt) (again : Bool) : Aside s (s.portSend n k again) := by
  unfold State.portSend
  split
  · exact refl s
  · exact (modPort s n _).trans (kickSub _ n _)

theorem setFlow (f : Flow) : Aside s (s.setFlow f) := modFab s _ rfl

theorem pump (ep cls n : Nat) : Aside s (State.pump ep cls n s) := by
  induction n generalizing s with
  | zero => exact refl s
  | succ n ih =>
    unfold State.pump
    dsimp only
    split
    · exact refl s
    · split
      · exact refl s
      · split
        · exact refl s
        · exact ((setFlow s _).trans (portSend _ _ _ _)).trans (ih _)

theorem sendPkt (ep part cls axis src : Nat) (body : PktBody) : Aside s (s.sendPkt ep part cls axis src body).1 := by
  unfold State.sendPkt
  split
  · exact (setFlow s _).trans (pump _ _ _ _)
  · exact refl s

theorem partCtrl (ep part src : Nat) (record : Bytes) : Aside s (s.partCtrl ep part src record) := (meterBytes s _ _).trans (sendPkt _ _ _ _ _ _ _)

theorem releaseLeases (p : Nat) (l : List Lease) : Aside s (s.releaseLeases p l) := foldl _ _ _ fun s _ => partCtrl s _ _ _ _

theorem unqueue (n : Nat) (f : Egr → Bool) : Aside s (s.unqueue n f) := (modPort s n _).ite (refl s)

theorem forgetCellar (who : Nat) : Aside s (s.forgetCellar who) := (refl s).ite ((modFab s _ rfl).trans (modFab _ _ rfl))

/-- A record of a host-loss epoch goes to the cellar or to a storage endpoint, never to the host ring (R187). -/
theorem sendRecord (p : Nat) (e : Epoch) (r : Bytes) (h : e.hostLoss = true) : Aside s (s.sendRecord p e r).1 := by
  have hd : epochDest (s.part p).stream.cfg e ≠ 2 := by
    rw [epochDest, if_pos h]
    split <;> decide
  unfold State.sendRecord
  dsimp only
  rw [if_neg hd]
  exact (emit s _).trans (meterBytes _ _ _)

end Aside

end Sys2Proof.Machine
end

section
/-! SUPPORT. Operations that only take work away: what the end of a partition's commands, of its leases and of the partition leaves of the others (R251, R264, R265, R369). -/

namespace Sys2Proof.Machine

/-- A queue that no partition owns and that holds no command. -/
def Queue.Freed (x : Queue) : Prop := x.assigned = false ∧ x.fifo = []

/-- The queue `y` has the owner of `x`, and holds no command when `x` holds none. -/
def Queue.SameOwner (x y : Queue) : Prop := y.assigned = x.assigned ∧ y.part = x.part ∧ (x.fifo = [] → y.fifo = [])

theorem Queue.SameOwner.refl (x : Queue) : x.SameOwner x := ⟨rfl, rfl, id⟩

/-- From `s` to `t` each queue keeps its owner or is freed, and each partition stays as it is or is gone with every queue that it owned. -/
structure Drains (s t : State) : Prop where
  count : t.parts.length = s.parts.length
  queue : ∀ q, (s.queue q).SameOwner (t.queue q) ∨ (t.queue q).Freed
  part : ∀ p, (t.part p).admitted = (s.part p).admitted ∨
    ((t.part p).admitted = false ∧ ∀ q, (s.queue q).assigned = true → (s.queue q).part = p → (t.queue q).Freed)

namespace Drains

theorem of_eq {s t : State} (hp : t.parts = s.parts) (hq : t.queues = s.queues) : Drains s t :=
  ⟨by rw [hp], fun q => .inl (by rw [State.queue_congr hq q]; exact .refl _), fun p => .inl (by unfold State.part; rw [hp])⟩

/-- A freed queue stays freed. -/
theorem freed {s t : State} (h : Drains s t) {q : Nat} (hq : (s.queue q).Freed) : (t.queue q).Freed := by
  obtain ⟨ha, -, hf⟩ | hfreed := h.queue q
  · exact ⟨ha.trans hq.1, hf hq.2⟩
  · exact hfreed

/-- A partition that is not admitted stays so. -/
theorem stays_gone {s t : State} (h : Drains s t) {p : Nat} (hp : (s.part p).admitted = false) : (t.part p).admitted = false := by
  obtain he | ⟨hg, -⟩ := h.part p
  · exact he.trans hp
  · exact hg

/-- The queues of a partition that has gone are freed. -/
theorem freed_of_gone {s t : State} (h : Drains s t) {q : Nat} (ha : (s.queue q).assigned = true) (hs : (s.part (s.queue q).part).admitted = true)
    (ht : (t.part (s.queue q).part).admitted = false) : (t.queue q).Freed := by
  obtain he | ⟨-, hfree⟩ := h.part (s.queue q).part
  · rw [he, hs] at ht
    cases ht
  · exact hfree q ha rfl

theorem trans {s t u : State} (h : Drains s t) (k : Drains t u) : Drains s u := by
  refine ⟨k.count.trans h.count, fun q => ?_, fun p => ?_⟩
  · obtain ⟨ha, hp, hf⟩ | hfreed := h.queue q
    · obtain ⟨ka, kp, kf⟩ | kfreed := k.queue q
      · exact .inl ⟨ka.trans ha, kp.trans hp, kf ∘ hf⟩
      · exact .inr kfreed
    · exact .inr (k.freed hfreed)
  · obtain he | ⟨hg, hfree⟩ := h.part p
    · obtain ke | ⟨kg, kfree⟩ := k.part p
      · exact .inl (ke.trans he)
      · refine .inr ⟨kg, fun q hqa hqp => ?_⟩
        obtain ⟨ha, hp, -⟩ | hfreed := h.queue q
        · exact kfree q (ha.trans hqa) (hp.trans hqp)
        · exact k.freed hfreed
    · exact .inr ⟨k.stays_gone hg, fun q hqa hqp => k.freed (hfree q hqa hqp)⟩

end Drains

/-- From `s` to `t` work is only taken away; SESSION and, but for the pending vectors, the link are as before. -/
structure WindsDown (s t : State) : Prop extends Drains s t where
  link : t.link = { s.link with heldVec := t.link.heldVec }
  session : t.fab.session = s.fab.session

theorem Aside.windsDown {s t : State} (h : Aside s t) : WindsDown s t := ⟨.of_eq h.parts h.queues, h.link, h.session⟩

namespace WindsDown

theorem refl (s : State) : WindsDown s s := (Aside.refl s).windsDown

theorem trans {s t u : State} (h : WindsDown s t) (k : WindsDown t u) : WindsDown s u :=
  ⟨h.toDrains.trans k.toDrains, k.link.trans (by rw [h.link]), k.session.trans h.session⟩

theorem ite {c : Prop} [Decidable c] {s a b : State} (ha : WindsDown s a) (hb : WindsDown s b) : WindsDown s (if c then a else b) := by
  split
  · exact ha
  · exact hb

theorem foldl {α : Type} (f : State → α → State) (l : List α) (s : State) (hf : ∀ s x, WindsDown s (f s x)) : WindsDown s (l.foldl f s) := by
  induction l generalizing s with
  | nil => exact refl s
  | cons x r ih => exact (hf s x).trans (ih _)

variable (s : State)

/-- An update of a partition that leaves it admitted or not. -/
theorem modPart (p : Nat) (f : Part → Part) (hf : ∀ x, (f x).admitted = x.admitted) : WindsDown s (s.modPart p f) := by
  refine ⟨⟨s.parts_length_modPart p f, fun q => .inl (.refl _), fun j => .inl ?_⟩, rfl, rfl⟩
  rw [State.part_modPart]
  split
  · next h => rw [hf, h.1]
  · rfl

/-- An update of a queue that leaves its owner and gives it no command. -/
theorem modQueue (q : Nat) (f : Queue → Queue) (hf : ∀ x : Queue, x.SameOwner (f x)) : WindsDown s (s.modQueue q f) := by
  refine ⟨⟨rfl, fun j => .inl ?_, fun _ => .inl rfl⟩, rfl, rfl⟩
  rw [State.queue_modQueue]
  split
  · next h => rw [h.1]; exact hf _
  · exact .refl _

theorem modHead (q : Nat) (f : Cmd → Cmd) : WindsDown s (s.modHead q f) :=
  modQueue s q _ fun x => ⟨rfl, rfl, fun h => by
    change updAt x.fifo 0 f = []
    rw [h]
    rfl⟩

theorem modStream (p : Nat) (f : Stream → Stream) : WindsDown s (s.modStream p f) := modPart s p _ fun _ => rfl

/-! Credits and moves (R220 to R222, R273, R274, R277). -/

theorem countWait (w : CreditReq) : WindsDown s (s.countWait w) := modPart s _ _ fun _ => rfl

theorem dropWaiting (who : Nat) : WindsDown s (s.dropWaiting who) := by
  unfold State.dropWaiting
  exact (foldl _ _ _ countWait).trans (Aside.modAdm _ _).windsDown

theorem askCredit (r p cls n who : Nat) : WindsDown s (s.askCredit r p cls n who).2 := by
  unfold State.askCredit
  dsimp only
  split
  · dsimp only
    refine trans ?_ ((Aside.holdShares _ _ _ _).trans (Aside.modAdm _ _)).windsDown
    split
    · exact countWait s _
    · exact refl s
  · dsimp only
    exact ((Aside.refl s).ite (Aside.modAdm s _)).windsDown

theorem grantMoves (b : Nat) (l : List Migration) : WindsDown s (State.grantMoves b l s) := by
  induction l generalizing s with
  | nil => exact refl s
  | cons m r ih => exact ((askCredit s _ _ _ _ _).trans (Aside.ite (Aside.setMigrations _ _) (Aside.refl _)).windsDown).trans (ih _)

theorem serveMoves : WindsDown s s.serveMoves := foldl _ _ _ fun s b => (refl s).ite ((Aside.orderMoves s b).windsDown.trans (grantMoves _ _ _))

theorem dropMoves (f : Migration → Bool) : WindsDown s (s.dropMoves f) := by
  unfold State.dropMoves
  dsimp only
  have hgone (l : List Migration) (s : State) : WindsDown s (l.foldl (fun s m =>
      if m.granted then s.releaseCredit (4 + m.bdie) (partOfKey m.key) 1 else s.dropWaiting (moveWho m.key)) s) :=
    foldl _ _ _ fun s m => (Aside.releaseCredit s _ _ _).windsDown.ite (dropWaiting s _)
  exact (refl s).ite (((Aside.setMigrations s _).windsDown.trans (hgone _ _)).trans (serveMoves _))

/-! The end of a run (R264, R265, R312). -/

theorem abortNotices (q : Nat) : WindsDown s (s.abortNotices q) := by
  unfold State.abortNotices
  split
  · exact refl s
  · exact (Aside.foldl _ _ _ fun s _ => Aside.sendPkt s _ _ _ _ _ _).windsDown

theorem dropColl (q : Nat) : WindsDown s (s.dropColl q) := by
  unfold State.dropColl
  split
  · exact refl s
  · exact ((Aside.releaseCredit s _ _ _).trans (Aside.modFab _ _ rfl)).windsDown

theorem abortColl (q : Nat) : WindsDown s (s.abortColl q) := by
  unfold State.abortColl
  split
  · exact refl s
  · exact (Aside.foldl _ _ _ fun s _ => Aside.sendPkt s _ _ _ _ _ _).windsDown.trans (dropColl _ q)

theorem releaseCores (q : Nat) : WindsDown s (s.releaseCores q) := by
  unfold State.releaseCores
  split
  · exact refl s
  · dsimp only
    refine (refl s).ite (trans ?_ (Aside.restCores _ _).windsDown)
    refine trans ?_ (modHead _ q _)
    refine trans ?_ (modQueue _ q _ ?_)
    · exact (Aside.clearEngines s _).windsDown.trans (modPart _ _ _ (by intro; rfl))
    · exact fun _ => ⟨rfl, rfl, id⟩

theorem answerSlow (q : Nat) : WindsDown s (s.answerSlow q) := ((Aside.releaseCredit s _ _ _).windsDown.trans (modHead _ q _)).ite (refl s)

theorem discardRun (q : Nat) : WindsDown s (s.discardRun q) := by
  unfold State.discardRun
  refine trans ?_ (modHead _ q _)
  refine trans ?_ (Aside.releaseCredit _ _ _ _).windsDown
  refine trans ?_ ((dropWaiting _ q).trans (answerSlow _ q))
  refine trans ?_ ((Aside.clearEngines _ _).windsDown.trans (releaseCores _ q))
  exact (abortNotices s q).trans (abortColl _ q)

theorem dropQueue (q : Nat) : WindsDown s (s.dropQueue q) := (discardRun s q).trans (modQueue _ q _ fun _ => ⟨rfl, rfl, fun _ => rfl⟩)

/-! The end of a partition (R251 step 4, R369). -/

theorem freeQueue (q : Nat) : WindsDown s (s.freeQueue q) := by
  refine ⟨⟨rfl, fun j => ?_, fun _ => .inl rfl⟩, rfl, rfl⟩
  unfold State.freeQueue
  rw [State.queue_modQueue]
  split
  · exact .inr ⟨rfl, rfl⟩
  · exact .inl (.refl _)

end WindsDown

/-- A queue beyond the last has no owner. -/
theorem State.queue_of_le (s : State) (q : Nat) (h : s.queues.length ≤ q) : s.queue q = {} := by
  unfold State.queue
  rw [List.getD_eq_getElem?_getD, List.getElem?_eq_none h]
  rfl

theorem State.freeQueue_unassigned (s : State) (q : Nat) : ((s.freeQueue q).queue q).assigned = false := by
  unfold State.freeQueue
  rw [State.queue_modQueue]
  split
  · rfl
  · next h =>
    rw [s.queue_of_le q (by omega)]

/-- Each queue of the list has no owner once the list has been freed. -/
theorem State.freeQueues_unassigned (l : List Nat) (s : State) (q : Nat) (h : q ∈ l ∨ (s.queue q).assigned = false) :
    ((l.foldl State.freeQueue s).queue q).assigned = false := by
  induction l generalizing s with
  | nil => exact h.resolve_left (by simp)
  | cons x r ih =>
    refine ih _ ?_
    by_cases hx : q = x
    · exact .inr (hx ▸ s.freeQueue_unassigned q)
    · refine h.imp (fun hm => (List.mem_cons.1 hm).resolve_left hx) fun ha => ?_
      unfold State.freeQueue
      rwa [State.queue_modQueue_ne _ _ _ _ hx]

theorem State.mem_queuesOf {s : State} {p q : Nat} (ha : (s.queue q).assigned = true) (hp : (s.queue q).part = p) : q ∈ s.queuesOf p := by
  have hq : q < s.queues.length := by
    by_contra hn
    rw [s.queue_of_le q (by omega)] at ha
    cases ha
  have hx : s.queue q = s.queues[q] := by simp [State.queue, hq]
  unfold State.queuesOf
  refine List.mem_map.2 ⟨(s.queues[q], q), List.mem_filter.2 ⟨List.mem_zipIdx_iff_getElem?.2 (by simp [hq]), ?_⟩, rfl⟩
  rw [← hx]
  simp [ha, hp]

/-- Once the queues of a partition have been freed it owns none. -/
theorem State.freeQueues_ownNone (s : State) (p q : Nat) (h : (((s.queuesOf p).foldl State.freeQueue s).queue q).part = p) :
    (((s.queuesOf p).foldl State.freeQueue s).queue q).assigned = false := by
  by_cases ho : (s.queue q).assigned = true ∧ (s.queue q).part = p
  · exact State.freeQueues_unassigned _ s q (.inl (State.mem_queuesOf ho.1 ho.2))
  · obtain ⟨ha, hp, -⟩ | hfreed := (WindsDown.foldl _ (s.queuesOf p) s fun s q => WindsDown.freeQueue s q).queue q
    · rw [ha]
      exact Bool.eq_false_iff.2 fun k => ho ⟨k, hp.symm.trans h⟩
    · exact hfreed.1

namespace WindsDown

/-- A partition that owns no queue may go. -/
theorem modPart_of_ownNone (s : State) (p : Nat) (f : Part → Part) (hf : ∀ x, (f x).admitted = false)
    (hq : ∀ q, (s.queue q).part = p → (s.queue q).assigned = false) : WindsDown s (s.modPart p f) := by
  refine ⟨⟨s.parts_length_modPart p f, fun q => .inl (.refl _), fun j => ?_⟩, rfl, rfl⟩
  rw [State.part_modPart]
  split
  · next h =>
    refine .inr ⟨hf _, fun q ha hp => ?_⟩
    rw [hq q (hp.trans h.1)] at ha
    cases ha
  · exact .inl rfl

variable (s : State)

theorem freePartition (p : Nat) (keep : List Lease) : WindsDown s (s.freePartition p keep) := by
  unfold State.freePartition
  refine trans ?_ (modPart_of_ownNone _ p _ (fun _ => rfl) fun q hq => State.freeQueues_ownNone _ p q hq)
  refine trans ?_ ((Aside.clearEngines _ _).windsDown.trans (foldl _ _ _ freeQueue))
  refine trans ?_ (Aside.setMem _ _ (by rfl)).windsDown
  exact (Aside.releaseLeases s p _).windsDown.trans (dropMoves _ _)

theorem lossPart (p : Nat) : WindsDown s (s.lossPart p) :=
  (refl s).ite (((foldl _ _ _ dropQueue).trans (freePartition _ p _)).trans (Aside.setSec _ _).windsDown)

theorem failAdmit (p status : Nat) : WindsDown s (s.failAdmit p status) := by
  unfold State.failAdmit
  refine trans ?_ ((Aside.modAdm _ _).trans (Aside.modFab _ _ rfl)).windsDown
  exact (Aside.releaseLeases s p _).windsDown.trans (modPart _ p _ (by intro; rfl))

theorem abandonEpoch (p : Nat) : WindsDown s (s.abandonEpoch p) :=
  (refl s).ite (((Aside.forgetCellar s _).windsDown.trans (modStream _ p _)).trans (Aside.raiseP _ _ _).windsDown)

end WindsDown

end Sys2Proof.Machine
end

section
/-! SUPPORT. The steps of a host-loss reset (R187, R369): its start, the epochs it opens, and its end. -/

namespace Sys2Proof.Machine

/-! The last event (R503). -/

theorem State.msix_err (s : State) (v : Nat) : (s.msix v).err = s.err := by
  unfold State.msix
  split
  · rfl
  · split <;> rfl

theorem State.raiseIrq_lastCode (s : State) : s.raiseIrq.err.lastCode = s.err.lastCode := by
  unfold State.raiseIrq
  split
  · split
    · rfl
    · rw [State.msix_err]; rfl
  · rw [State.msix_err]; rfl

theorem State.faultLog_lastCode (s : State) (cls : Nat) (part : Option Nat) (code : Nat) (d : Bytes) :
    (s.faultLog cls part code d).err.lastCode = s.err.lastCode := by
  unfold State.faultLog
  dsimp only
  split
  · split <;> rfl
  · rfl

/-- An event is the last one recorded (R503). -/
theorem State.event_lastCode (s : State) (cls code : Nat) (part : Option Nat) (d : Bytes) : (s.event cls code part d).err.lastCode = code := by
  have hirq (m : State) (h : m.err.lastCode = code) : (if s.err.irqEn.getLsbD cls then m.raiseIrq else m).err.lastCode = code := by
    split
    · rw [m.raiseIrq_lastCode, h]
    · exact h
  have hlog (m : State) (h : m.err.lastCode = code) : (if 2 ≤ cls then m.faultLog cls part code d else m).err.lastCode = code := by
    split
    · rw [m.faultLog_lastCode, h]
    · exact h
  exact hlog _ (hirq _ rfl)

theorem State.flushVec_err (s : State) : s.flushVec.err = s.err := by
  have hmsix (l : List Nat) (m : State) : (l.foldl State.msix m).err = m.err := by
    induction l generalizing m with
    | nil => rfl
    | cons v r ih => exact (ih _).trans (m.msix_err v)
  unfold State.flushVec
  split
  · exact hmsix _ _
  · rfl

/-! The end (R369 steps 5 to 7). -/

/-- The link as the end of a host-loss reset leaves it, but for the pending vectors (R9, R369). -/
def State.lostLink (s : State) : Link :=
  { s.link with
    hostLevel := 0, effLevel := 0, losing := false, heldVec := [], hostLoss := true, firstAccess := true, hostLosses := sat16 s.link.hostLosses 1
    cfgOk := s.link.st == .l0 && decide (2 ≤ s.boot.step) }

/-- The end of a host-loss reset sets the link and raises 0x0711 (R369 step 7). -/
theorem State.lossDone_aside (s : State) : Aside (s.setLink s.lostLink) s.lossDone := (Aside.raise _ 0x0711).trans (Aside.flushVec _)

theorem State.lossDone_link (s : State) : s.lossDone.link = { s.lostLink with heldVec := s.lossDone.link.heldVec } := s.lossDone_aside.link

theorem State.lossDone_lastCode (s : State) : s.lossDone.err.lastCode = 0x0711 := by
  have h := State.event_lastCode (s.setLink s.lostLink) (classOf 0x0711) 0x0711 none noDetail
  exact (congrArg Err.lastCode (State.flushVec_err _)).trans h

/-- SESSION advances by one and holds at its last value; nothing else of what `Aside` names changes (R292, R444). -/
theorem State.advanceSession_aside (s : State) :
    ∃ b : Fab, b.session = min deadSession (s.fab.session + 1) ∧ Aside (s.setFab b) s.advanceSession := by
  unfold State.advanceSession
  have hmap (m : State) : Aside m m.putMap := (Aside.setFlash m _).ite (Aside.setFlash m _)
  have hdead (m : State) : Aside m ((m.modFab fun b => { b with valid := false }).raise 0x0A12).putMap :=
    ((Aside.modFab m _ rfl).trans (Aside.raise _ _)).trans (hmap _)
  refine ⟨_, ?_, (Aside.foldl _ _ _ fun s n => Aside.unqueue s n _).trans ((hdead _).ite (hmap _))⟩
  rfl

/-- A partition beyond the last is not admitted. -/
theorem State.part_of_le (s : State) (p : Nat) (h : s.parts.length ≤ p) : s.part p = {} := by
  unfold State.part
  rw [List.getD_eq_getElem?_getD, List.getElem?_eq_none h]
  rfl

theorem State.part_congr {s t : State} (h : s.parts = t.parts) (p : Nat) : s.part p = t.part p := by
  unfold State.part
  rw [h]

/-- With no partition admitted, none of them is (R9). -/
theorem State.not_admitted_of_anyPart {s : State} (h : s.anyPart = false) (p : Nat) : (s.part p).admitted = false := by
  by_cases hp : p < s.parts.length
  · have hpart : s.part p = s.parts[p] := by simp [State.part, hp]
    rw [hpart]
    exact Bool.eq_false_iff.2 (List.any_eq_false.1 h _ (List.getElem_mem hp))
  · rw [s.part_of_le p (by omega)]

theorem State.modPart_gone (s : State) (p : Nat) (f : Part → Part) (hf : ∀ x, (f x).admitted = false) : ((s.modPart p f).part p).admitted = false := by
  rw [State.part_modPart]
  split
  · exact hf _
  · next h => rw [s.part_of_le p (by omega)]

theorem State.freePartition_gone (s : State) (p : Nat) (keep : List Lease) : ((s.freePartition p keep).part p).admitted = false := by
  unfold State.freePartition
  exact State.modPart_gone _ p _ (by intro; rfl)

theorem State.countLayout_part (s : State) (p : Nat) : s.countLayout.part p = s.part p := rfl

/-- The partition of a step of a host-loss reset is gone after it (R369 step 6). -/
theorem State.lossPart_gone (s : State) (p : Nat) : ((s.lossPart p).part p).admitted = false := by
  unfold State.lossPart
  split
  · assumption
  · rw [State.countLayout_part]
    exact State.freePartition_gone _ p _

theorem State.lossParts_gone (s : State) (l : List Nat) (p : Nat) (h : p ∈ l ∨ (s.part p).admitted = false) :
    ((l.foldl State.lossPart s).part p).admitted = false := by
  induction l generalizing s with
  | nil => exact h.resolve_left (by simp)
  | cons x r ih =>
    refine ih _ ?_
    by_cases hx : p = x
    · exact .inr (hx ▸ s.lossPart_gone p)
    · exact h.imp (fun hm => (List.mem_cons.1 hm).resolve_left hx) (WindsDown.lossPart s x).stays_gone

/-- No partition is admitted when none of the 16 is (R245). -/
theorem State.anyPart_of_gone (s : State) (h16 : s.parts.length = 16) (h : ∀ p, p < 16 → (s.part p).admitted = false) : s.anyPart = false := by
  refine List.any_eq_false.2 fun x hx => ?_
  obtain ⟨p, hp, rfl⟩ := List.getElem_of_mem hx
  have hpart : s.part p = s.parts[p] := by simp [State.part, hp]
  simp [← hpart, h p (h16 ▸ hp)]

/-- The admission in progress has failed, and every partition is gone (R369 steps 5 and 6). -/
def State.emptied (s : State) : State :=
  (List.range 16).foldl State.lossPart (match s.fab.asking with | some (p, _, _) => s.failAdmit p 0 | none => s)

/-- The grants and the levels go, SESSION advances, and the reset is recorded (R369 step 7). -/
def State.lossEnd (s : State) : State := (s.setGrants []).advanceSession.lossDone

theorem State.finishLoss_eq (s : State) : s.finishLoss = s.emptied.lossEnd := by
  unfold State.finishLoss State.emptied
  rfl

theorem WindsDown.emptied (s : State) : WindsDown s s.emptied := by
  unfold State.emptied
  refine trans ?_ (foldl _ _ _ lossPart)
  split
  · exact failAdmit s _ 0
  · exact refl s

theorem State.emptied_gone (s : State) (p : Nat) (hp : p < 16) : (s.emptied.part p).admitted = false :=
  State.lossParts_gone _ _ p (.inl (List.mem_range.2 hp))

/-- What step 7 of R369 changes of partitions, queues, grants, SESSION and the link. -/
theorem State.lossEnd_effect (s : State) :
    s.lossEnd.parts = s.parts ∧ s.lossEnd.queues = s.queues ∧ s.lossEnd.mem.grants = [] ∧ s.lossEnd.fab.session = min deadSession (s.fab.session + 1) ∧
      s.lossEnd.link = { s.link with
        hostLevel := 0, effLevel := 0, losing := false, heldVec := s.lossEnd.link.heldVec, hostLoss := true, firstAccess := true
        hostLosses := min 65535 (s.link.hostLosses + 1), cfgOk := s.lossEnd.link.cfgOk } := by
  obtain ⟨b, hb, hadv⟩ := (s.setGrants []).advanceSession_aside
  have hdone : Aside _ s.lossEnd := (s.setGrants []).advanceSession.lossDone_aside
  have hlink : s.lossEnd.link = { (s.setGrants []).advanceSession.lostLink with heldVec := s.lossEnd.link.heldVec } := hdone.link
  refine ⟨hdone.parts.trans hadv.parts, hdone.queues.trans hadv.queues, hdone.grants.trans hadv.grants, hdone.session.trans (hadv.session.trans hb), ?_⟩
  rw [hlink, State.lostLink, hadv.link]
  rfl

theorem State.lossEnd_lastCode (s : State) : s.lossEnd.err.lastCode = 0x0711 := State.lossDone_lastCode _

/-- What the end of a host-loss reset leaves of the state `s` in which steps 1 to 4 have ended; `s0` is the state before the reset (R369). -/
theorem State.finishLoss_lossDone (s0 s : State) (h16 : s.parts.length = 16) (hd : Drains s0 s) (hl : s.link.hostLosses = s0.link.hostLosses)
    (hs : s.fab.session = s0.fab.session) :
    Claims.LossDone s0 s.finishLoss ∧ s.finishLoss.link.lastCause = s.link.lastCause ∧ s.finishLoss.link.st = s.link.st ∧
      s.finishLoss.link.flushAbandoned = s.link.flushAbandoned := by
  have he := WindsDown.emptied s
  obtain ⟨hparts, hqueues, hgrants, hsession, hlink⟩ := s.emptied.lossEnd_effect
  rw [he.link] at hlink
  rw [s.finishLoss_eq]
  have hany : s.emptied.lossEnd.anyPart = false := by
    refine State.anyPart_of_gone _ (by rw [hparts, he.count, h16]) fun p hp => ?_
    rw [State.part_congr hparts]
    exact s.emptied_gone p hp
  have hdrain : Drains s0 s.emptied.lossEnd := (hd.trans he.toDrains).trans (.of_eq hparts hqueues)
  refine ⟨⟨hany, fun q ha hp => ?_, hgrants, by rw [hlink], by rw [hlink], by rw [hlink], by rw [hlink], by rw [hlink], by rw [hlink, hl],
    by rw [hsession, he.session, hs], State.lossEnd_lastCode _⟩, by rw [hlink], by rw [hlink], by rw [hlink]⟩
  exact (hdrain.freed_of_gone ha hp (State.not_admitted_of_anyPart hany _)).symm

end Sys2Proof.Machine
end

section
/-! SUPPORT. The start of a host-loss reset and the epochs that it opens (R187, R369 steps 1 to 4). -/

namespace Sys2Proof.Machine

/-- A cause that takes the link down has done so (R356). -/
def State.downedBy (s : State) (c : HostLossCause) : State := if lossDowns c then s.setLink { s.link with st := .down, cfgOk := false } else s

/-- The state of a running module before a host-loss reset opens its epochs (R369 steps 1 to 3). -/
def State.lossBegun (s : State) (c : HostLossCause) : State :=
  let s := (s.downedBy c).wakeNow
  let s := s.setLink { s.link with losing := true, lastCause := lossCode c, cfgOk := false, d3hot := false, heldVec := [], cfg := {} }
  let s := s.setFabric { s.fabric with lines := [] }
  s.setQueues (s.queues.map fun q => { q with heldRecs := [], landPending := false })

/-- Each partition with no epoch exporting has opened its host-loss epoch, where it has a destination (R187). -/
def State.lossOpened (s : State) : State :=
  (List.range 16).foldl (fun s p => if (s.part p).admitted && (s.part p).stream.epoch.isNone then s.openLoss p else s) s

/-- A host-loss reset of a running module waits for its exports, or ends at once (R369; log entry 71). -/
theorem State.hostLossReset_of_run (s : State) (c : HostLossCause) (h : s.phase = .run) (hl : s.link.losing = false) :
    s.hostLossReset c = if (s.lossBegun c).lossOpened.exporting then (s.lossBegun c).lossOpened else (s.lossBegun c).lossOpened.finishLoss := by
  unfold State.hostLossReset State.lossBegun State.lossOpened State.downedBy
  cases lossDowns c <;> simp [h, hl]

/-- A cause that arrives during a host-loss reset changes nothing but the link (R369). -/
theorem State.hostLossReset_of_losing (s : State) (c : HostLossCause) (h : s.phase = .run) (hl : s.link.losing = true) :
    s.hostLossReset c = s.downedBy c := by
  unfold State.hostLossReset State.downedBy
  cases lossDowns c <;> simp [h, hl]

/-- A cause that arrives during a warm reset waits for its end (log entry 27). -/
theorem State.hostLossReset_of_warm (s : State) (c : HostLossCause) (h : s.phase = .warm) (hl : s.link.lossPend = none) :
    s.hostLossReset c = (s.downedBy c).setLink { (s.downedBy c).link with lossPend := some c } := by
  unfold State.hostLossReset State.downedBy
  cases lossDowns c <;> simp [h, hl]

/-- Before the module runs a cause lets the levels return to 0 at once (R9; log entry 27). -/
theorem State.hostLossReset_of_startUp (s : State) (c : HostLossCause) (h : s.phase = .boot ∨ s.phase = .halted ∨ s.phase = .update)
    (hl : s.link.losing = false) :
    s.hostLossReset c = (((s.downedBy c).setLink { (s.downedBy c).link with lastCause := lossCode c }).setGrants []).lossDone := by
  unfold State.hostLossReset State.downedBy
  rcases h with h | h | h <;> cases lossDowns c <;> simp [h, hl]

/-! The start. -/

theorem State.downedBy_parts (s : State) (c : HostLossCause) : (s.downedBy c).parts = s.parts := by
  unfold State.downedBy
  split <;> rfl

theorem State.downedBy_queues (s : State) (c : HostLossCause) : (s.downedBy c).queues = s.queues := by
  unfold State.downedBy
  split <;> rfl

theorem State.downedBy_phase (s : State) (c : HostLossCause) : (s.downedBy c).phase = s.phase := by
  unfold State.downedBy
  split <;> rfl

theorem State.downedBy_session (s : State) (c : HostLossCause) : (s.downedBy c).fab.session = s.fab.session := by
  unfold State.downedBy
  split <;> rfl

theorem State.downedBy_hostLosses (s : State) (c : HostLossCause) : (s.downedBy c).link.hostLosses = s.link.hostLosses := by
  unfold State.downedBy
  split <;> rfl

theorem State.downedBy_st (s : State) (c : HostLossCause) (h : lossDowns c = true) : (s.downedBy c).link.st = .down := by
  unfold State.downedBy
  rw [if_pos h]
  rfl

theorem State.wakeNow_link (s : State) : s.wakeNow.link = s.link := by
  unfold State.wakeNow
  split <;> rfl

theorem State.lossBegun_parts (s : State) (c : HostLossCause) : (s.lossBegun c).parts = s.parts :=
  (Accessed.wakeNow (s.downedBy c)).parts.trans (s.downedBy_parts c)

theorem State.lossBegun_session (s : State) (c : HostLossCause) : (s.lossBegun c).fab.session = s.fab.session :=
  (congrArg Fab.session (Accessed.wakeNow (s.downedBy c)).fab).trans (s.downedBy_session c)

theorem State.lossBegun_link (s : State) (c : HostLossCause) :
    (s.lossBegun c).link = { (s.downedBy c).link with losing := true, lastCause := lossCode c, cfgOk := false, d3hot := false, heldVec := [], cfg := {} } := by
  rw [← (s.downedBy c).wakeNow_link]
  rfl

theorem State.lossBegun_lines (s : State) (c : HostLossCause) : (s.lossBegun c).fabric.lines = [] := rfl

/-- The start of a host-loss reset leaves every partition, and every queue its owner and its commands. -/
theorem State.lossBegun_drains (s : State) (c : HostLossCause) : Drains s (s.lossBegun c) := by
  refine ⟨by rw [s.lossBegun_parts c], fun q => .inl ?_, fun p => .inl (by rw [State.part_congr (s.lossBegun_parts c)])⟩
  have hq : (s.downedBy c).wakeNow.queues = s.queues := (Accessed.wakeNow (s.downedBy c)).queues.trans (s.downedBy_queues c)
  have hself : (s.lossBegun c).queue q = { s.queue q with heldRecs := [], landPending := false } := by
    change ((s.downedBy c).wakeNow.queues.map fun q => { q with heldRecs := [], landPending := false }).getD q {} = _
    rw [hq]
    exact List.getD_map _ ({} : Queue) _
  rw [hself]
  exact ⟨rfl, rfl, id⟩

/-! The epochs (R187). -/

/-- From `s` to `t` partition `p`, the host-line cache and, but for the pending vectors, the link have not changed. -/
structure Spares (p : Nat) (s t : State) : Prop where
  part : t.part p = s.part p
  link : t.link = { s.link with heldVec := t.link.heldVec }
  lines : t.fabric.lines = s.fabric.lines

namespace Spares

variable {p : Nat}

theorem refl (s : State) : Spares p s s := ⟨rfl, rfl, rfl⟩

theorem trans {s t u : State} (h : Spares p s t) (k : Spares p t u) : Spares p s u :=
  ⟨k.part.trans h.part, k.link.trans (by rw [h.link]), k.lines.trans h.lines⟩

theorem of_aside {s t : State} (h : Aside s t) : Spares p s t := ⟨State.part_congr h.parts p, h.link, h.lines⟩

theorem ite {c : Prop} [Decidable c] {s a b : State} (ha : Spares p s a) (hb : Spares p s b) : Spares p s (if c then a else b) := by
  split
  · exact ha
  · exact hb

variable (s : State) {j : Nat} (hj : p ≠ j)
include hj

theorem modStream (f : Stream → Stream) : Spares p s (s.modStream j f) := ⟨s.part_modPart_ne j p _ hj, rfl, rfl⟩

theorem abandonEpoch : Spares p s (s.abandonEpoch j) :=
  (refl s).ite (((of_aside (Aside.forgetCellar s _)).trans (modStream _ hj _)).trans (of_aside (Aside.raiseP _ _ _)))

/-- A host-loss epoch opens with no comparison (R187, R190): its header goes out, and only its partition's stream changes. -/
theorem openEpoch (toCellar key : Bool) : Spares p s (s.openEpoch j true toCellar key) := by
  unfold State.openEpoch
  simp only [Bool.not_true, Bool.false_and, Bool.false_eq_true, if_false]
  refine trans ?_ (modStream _ hj _)
  exact (of_aside (Aside.meterBytes s _ _)).trans (of_aside (Aside.sendRecord _ _ _ _ rfl))

theorem openLoss : Spares p s (s.openLoss j) := by
  unfold State.openLoss
  refine (refl s).ite ?_
  dsimp only
  split
  · exact openEpoch s hj _ _
  · exact (openEpoch s hj _ _).trans ((abandonEpoch _ hj).ite (refl _))

end Spares

/-- A partition whose epoch is exporting keeps it while the others open theirs (R369). -/
theorem State.lossOpened_spares (s : State) (p : Nat) (h : (s.part p).stream.epoch.isNone = false) : Spares p s s.lossOpened := by
  unfold State.lossOpened
  generalize List.range 16 = l
  induction l generalizing s with
  | nil => exact .refl s
  | cons j l ih =>
    have hstep : Spares p s (if (s.part j).admitted && (s.part j).stream.epoch.isNone then s.openLoss j else s) := by
      by_cases hj : p = j
      · subst hj
        rw [if_neg (by simp [h])]
        exact .refl s
      · exact (Spares.openLoss s hj).ite (.refl s)
    exact hstep.trans (ih _ (by rw [hstep.part]; exact h))

/-- With no stream destination no epoch opens (R187). -/
theorem State.lossOpened_of_noStreams (s : State) (h : Claims.NoStreams s) : s.lossOpened = s := by
  have hdest (p : Nat) : cfgDest (s.part p).stream.cfg = 0 := by
    by_cases hp : p < s.parts.length
    · have hpart : s.part p = s.parts[p] := by simp [State.part, hp]
      rw [hpart]
      exact (h _ (List.getElem_mem hp)).2
    · rw [s.part_of_le p (by omega)]
      rfl
  refine List.foldl_fixed' (fun p => ?_) _
  have hopen : s.openLoss p = s := if_pos (.inr (.inl (hdest p)))
  rw [hopen, ite_self]

theorem State.exporting_of_noStreams (s : State) (h : Claims.NoStreams s) : s.exporting = false :=
  List.any_eq_false.2 fun x hx => by simp [(h x hx).1]

/-- An admitted partition with an epoch is exporting (R369). -/
theorem State.exporting_of_part (s : State) (p : Nat) (ha : (s.part p).admitted = true) (he : (s.part p).stream.epoch.isNone = false) :
    s.exporting = true := by
  have hp : p < s.parts.length := by
    by_contra hn
    rw [s.part_of_le p (by omega)] at ha
    cases ha
  have hpart : s.part p = s.parts[p] := by simp [State.part, hp]
  refine List.any_eq_true.2 ⟨s.part p, hpart ▸ List.getElem_mem hp, ?_⟩
  rw [ha, Bool.true_and]
  exact Option.isNone_eq_false_iff.1 he

/-! The flush timeout (R369 step 4). -/

/-- Every epoch that is exporting has been abandoned (R185). -/
def State.epochsAbandoned (s : State) : State := (List.range 16).foldl (fun s p => if (s.part p).admitted then s.abandonEpoch p else s) s

/-- FLUSH_ABANDONED is set and 0x0713 raised (R369 step 4). -/
def State.flushMarked (s : State) : State := (s.setLink { s.link with flushAbandoned := true }).raise 0x0713

theorem execFlushTimeout_of_losing (s : State) (h : s.link.losing = true) : execFlushTimeout s = .next s.epochsAbandoned.flushMarked.finishLoss := by
  unfold execFlushTimeout State.epochsAbandoned State.flushMarked
  rw [if_pos h]

theorem WindsDown.epochsAbandoned (s : State) : WindsDown s s.epochsAbandoned :=
  .foldl _ _ _ fun s p => (WindsDown.abandonEpoch s p).ite (.refl s)

theorem State.flushMarked_aside (s : State) : Aside (s.setLink { s.link with flushAbandoned := true }) s.flushMarked := Aside.raise _ 0x0713

theorem State.flushMarked_drains (s : State) : Drains s s.flushMarked := .of_eq s.flushMarked_aside.parts s.flushMarked_aside.queues

theorem State.flushMarked_link (s : State) : s.flushMarked.link = { s.link with flushAbandoned := true, heldVec := s.flushMarked.link.heldVec } :=
  s.flushMarked_aside.link

theorem State.flushMarked_session (s : State) : s.flushMarked.fab.session = s.fab.session := s.flushMarked_aside.session

end Sys2Proof.Machine
end

section
open Sys2Proof Sys2Proof.Machine

namespace Sys2Proof.Claims

/-- Where no partition has a stream destination the reset ends at once (R369; log entry 71). -/
theorem lossDone_of_noStreams (c : HostLossCause) (s : State) (h : s.phase = .run) (hl : s.link.losing = false) (h16 : s.parts.length = 16) (hn : NoStreams s) :
    ∃ t : State, exec (.hostLossReset c) s = .next t ∧ LossDone s t ∧ t.link.lastCause = lossCode c ∧ (lossDowns c = true → t.link.st = .down) := by
  have hparts := s.lossBegun_parts c
  have hlink := s.lossBegun_link c
  have hnb : NoStreams (s.lossBegun c) := by
    unfold NoStreams
    rwa [hparts]
  have hend : s.hostLossReset c = (s.lossBegun c).finishLoss := by
    rw [s.hostLossReset_of_run c h hl, State.lossOpened_of_noStreams _ hnb, State.exporting_of_noStreams _ hnb]
    rfl
  obtain ⟨hdone, hcause, hst, -⟩ := State.finishLoss_lossDone s (s.lossBegun c) (by rw [hparts, h16]) (s.lossBegun_drains c)
    (by rw [hlink]; exact s.downedBy_hostLosses c) (s.lossBegun_session c)
  refine ⟨_, congrArg Host.Outcome.next hend, hdone, by rw [hcause, hlink], fun hd => ?_⟩
  rw [hst, hlink]
  exact s.downedBy_st c hd

/-- With an epoch exporting the reset stays in progress (R369 steps 1 to 4). -/
theorem losing_of_exporting (c : HostLossCause) (s : State) (h : s.phase = .run) (hl : s.link.losing = false)
    (hx : ∃ x ∈ s.parts, x.admitted = true ∧ x.stream.epoch ≠ none) :
    ∃ t : State, exec (.hostLossReset c) s = .next t ∧ t.link.losing = true ∧ t.link.lastCause = lossCode c ∧ t.barOpen = false ∧ t.fabric.lines = [] := by
  obtain ⟨x, hmem, ha, he⟩ := hx
  obtain ⟨p, hp, rfl⟩ := List.getElem_of_mem hmem
  have hpart : (s.lossBegun c).part p = s.parts[p] := by
    rw [State.part_congr (s.lossBegun_parts c)]
    simp [State.part, hp]
  have hnone : ((s.lossBegun c).part p).stream.epoch.isNone = false := by
    rw [hpart]
    exact Option.isNone_eq_false_iff.2 (Option.isSome_iff_ne_none.2 he)
  have hs := (s.lossBegun c).lossOpened_spares p hnone
  have hexp := (s.lossBegun c).lossOpened.exporting_of_part p (by rw [hs.part, hpart, ha]) (by rw [hs.part, hnone])
  have hlosing : (s.lossBegun c).lossOpened.link.losing = true := by rw [hs.link, s.lossBegun_link c]
  refine ⟨_, congrArg Host.Outcome.next ((s.hostLossReset_of_run c h hl).trans (if_pos hexp)), hlosing, by rw [hs.link, s.lossBegun_link c], ?_, hs.lines.trans (s.lossBegun_lines c)⟩
  unfold State.barOpen
  simp [hlosing]

/-- The flush timeout abandons what is exporting and ends the reset (R369 step 4). -/
theorem lossDone_of_flushTimeout (s : State) (hl : s.link.losing = true) (h16 : s.parts.length = 16) :
    ∃ t : State, exec .flushTimeout s = .next t ∧ LossDone s t ∧ t.link.flushAbandoned = true := by
  have hm := WindsDown.epochsAbandoned s
  have hu := s.epochsAbandoned.flushMarked_link
  have hdrain : Drains s s.epochsAbandoned.flushMarked := hm.toDrains.trans s.epochsAbandoned.flushMarked_drains
  obtain ⟨hdone, -, -, hflush⟩ := State.finishLoss_lossDone s s.epochsAbandoned.flushMarked (by rw [hdrain.count, h16]) hdrain
    (by rw [hu, hm.link]) (s.epochsAbandoned.flushMarked_session.trans hm.session)
  exact ⟨_, execFlushTimeout_of_losing s hl, hdone, by rw [hflush, hu]⟩

/-- Settles O27: a host-loss reset by the phase that its cause finds and by whether one runs already. -/
theorem hostLossResetEndsTheWork : Obligations.HostLossResetEndsTheWork := by
  refine ⟨fun c s h hl h16 _ => ⟨lossDone_of_noStreams c s h hl h16, losing_of_exporting c s h hl, fun hr => if_pos (by simp [hr])⟩,
    fun c s h hl => congrArg Host.Outcome.next (s.hostLossReset_of_losing c h hl),
    fun s _ hl h16 _ => lossDone_of_flushTimeout s hl h16, fun c s h hl => ?_, fun c s h hl => ?_⟩
  · exact ⟨_, congrArg Host.Outcome.next (s.hostLossReset_of_warm c h hl), rfl, (s.downedBy_phase c).trans h, s.downedBy_parts c⟩
  · refine ⟨_, congrArg Host.Outcome.next (s.hostLossReset_of_startUp c h hl), ?_⟩
    let m := ((s.downedBy c).setLink { (s.downedBy c).link with lastCause := lossCode c }).setGrants []
    have hdone : Aside (m.setLink m.lostLink) m.lossDone := m.lossDone_aside
    have hlink : m.lossDone.link = { m.lostLink with heldVec := m.lossDone.link.heldVec } := m.lossDone_link
    exact ⟨by rw [hlink]; rfl, by rw [hlink]; rfl, by rw [hlink]; rfl, by rw [hlink]; rfl, by rw [hlink]; rfl,
      hdone.phase.trans (s.downedBy_phase c), hdone.parts.trans (s.downedBy_parts c)⟩

end Sys2Proof.Claims
end

section
/-! SUPPORT. MOD_READY over a step, and what an arithmetic tile-program instruction writes (R40, R138, R139). -/

namespace Sys2Proof.Machine

/-- A step keeps MOD_READY low outside the running phase (R40). -/
theorem readyOnlyRunning_step {s t : State} (hs : Safety.ReadyOnlyRunning s) (h : step s = .next t) : Safety.ReadyOnlyRunning t := by
  obtain ⟨c, r, -, he⟩ | ⟨-, rfl⟩ := step_cases h
  · exact (Keeps.of_exec he).ready hs
  · exact (Keeps.idle s (.refl s)).ready hs

/-- An instruction whose effect is to write `v` to VD writes it and counts itself (R139, R140). -/
theorem tileStep_of_put {op : Nat} {a : TileArgs} {c : TileCtx} {v : List Word} (hop : op ≠ tLOOP)
    (h : tileEffect op a c = c.setReg a.vd.toNat v) : tileStep op a c = (c.setReg a.vd.toNat v).advance := by
  unfold tileStep
  rw [if_neg (fun k => hop k.1), h]

/-- A tile faults at no instruction before its 65,537th (R140). -/
theorem TileCtx.advance_fault (c : TileCtx) (hf : c.fault = false) (hd : c.done < 65536) : c.advance.fault = false := by
  have hcount : c.advance.fault = (c.fault || decide (65536 < c.done + 1)) := rfl
  rw [hcount, hf, Bool.false_or, decide_eq_false_iff_not]
  omega

/-- Writing a register and counting the instruction leaves every other register and every buffer. -/
theorem TileCtx.onlyRegister_setReg (c : TileCtx) (r : Nat) (v : List Word) : Claims.OnlyRegister c (c.setReg r v).advance r :=
  ⟨fun x hx => (TileCtx.reg_advance _ x).trans (c.reg_setReg_ne r x v hx), rfl, rfl, rfl, rfl, rfl, rfl⟩

/-- An instruction that writes `v` to VD on a core in service changes the engine of that core alone (R138 to R140). -/
theorem writesVd_of_put {i : Instr} {op : Nat} {a : TileArgs} {s : State} {k : Fin 864} {v : List Word} (hr : Claims.TileReady s k)
    (hi : exec i s = .next (s.tileOn k.val op a)) (hop : op ≠ tLOOP)
    (h : tileEffect op a (s.openTile k.val) = (s.openTile k.val).setReg a.vd.toNat v) : Claims.WritesVd i s k.val a v := by
  obtain ⟨hon, hdone⟩ := hr
  have hstep : tileStep op a (s.openTile k.val) = ((s.openTile k.val).setReg a.vd.toNat v).advance := tileStep_of_put hop h
  have hfault : (tileStep op a (s.openTile k.val)).fault = false := by
    rw [hstep]
    exact TileCtx.advance_fault _ (s.openTile_fault k.val) hdone
  rw [s.tileOn_next k.val op a hon hfault, hstep] at hi
  have hself := s.engine_setEngine_self k.val ((s.openTile k.val).setReg a.vd.toNat v).advance
  refine ⟨_, hi, ⟨rfl, fun j hj => s.engine_setEngine_ne k.val j _ hj, ?_⟩, ?_, ?_⟩
  · rw [hself]; rfl
  · rw [hself, TileCtx.reg_advance, TileCtx.reg_setReg_self]
  · rw [hself]; exact TileCtx.onlyRegister_setReg _ _ _

/-- SEND on a core that is not in service leaves the state (R24). -/
theorem execSendTile_off (k : Fin 864) (a : TileArgs) (s : State) (hc : s.coreOn k.val = false) : execSendTile k a s = .next s := by
  unfold execSendTile
  rw [s.tileOn_off k.val tSEND a hc]
  simp [hc]

end Sys2Proof.Machine
end

section
open Sys2Proof Sys2Proof.Machine

namespace Sys2Proof.Claims

/-- Settles O5: every step keeps MOD_READY low outside the running phase, since every command and every idle microsecond does. -/
theorem everyStepKeepsReadyPinHonest : Obligations.EveryStepKeepsReadyPinHonest := fun _ _ hs h => readyOnlyRunning_step hs h

/-- Settles O8: each arithmetic instruction is a write of VD, and a core that is not in service runs none. -/
theorem tileArithmeticWritesLanes : Obligations.TileArithmeticWritesLanes := by
  refine ⟨fun k a s hr => ?_, fun k a s i hc hi => ?_⟩
  · exact ⟨writesVd_of_put hr rfl (by decide) rfl, writesVd_of_put hr rfl (by decide) rfl, writesVd_of_put hr rfl (by decide) rfl,
      writesVd_of_put hr rfl (by decide) rfl, writesVd_of_put hr rfl (by decide) rfl, writesVd_of_put hr rfl (by decide) rfl,
      writesVd_of_put hr rfl (by decide) rfl, writesVd_of_put hr rfl (by decide) rfl, writesVd_of_put hr rfl (by decide) rfl⟩
  · have hoff (op : Nat) : Host.Outcome.next (s.tileOn k.val op a) = (.next s : Result) := congrArg _ (s.tileOn_off k.val op a hc)
    have hall : ∀ i ∈ tileInstrs k a, exec i s = .next s := by
      simp only [tileInstrs, List.forall_mem_cons]
      exact ⟨hoff _, hoff _, hoff _, hoff _, hoff _, hoff _, hoff _, hoff _, hoff _, hoff _, hoff _, hoff _, hoff _, hoff _, hoff _, hoff _, hoff _,
        hoff _, hoff _, hoff _, hoff _, execSendTile_off k a s hc, nofun⟩
    exact hall i hi

end Sys2Proof.Claims
end

section
/-! SUPPORT. What the recording of an event can change: the error block, the fault log that waits, the pending vectors and what was put out (R503 to R508). -/

namespace Sys2Proof.Machine

/-- From `s` to `t` nothing has changed but the error block, the waiting fault log, the pending vectors, and observations put out after the earlier ones. -/
structure Logged (s t : State) : Prop where
  state : t = { s with
    err := t.err, link := { s.link with heldVec := t.link.heldVec }, out := t.out
    flash := { s.flash with logTimes := t.flash.logTimes, logPend := t.flash.logPend } }
  out : s.out <+: t.out

namespace Logged

theorem refl (s : State) : Logged s s := ⟨rfl, List.prefix_refl _⟩

theorem trans {s t u : State} (h : Logged s t) (k : Logged t u) : Logged s u := ⟨k.state.trans (by rw [h.state]), h.out.trans k.out⟩

theorem ite {c : Prop} [Decidable c] {s a b : State} (ha : Logged s a) (hb : Logged s b) : Logged s (if c then a else b) := by
  split
  · exact ha
  · exact hb

section
variable (s : State)

theorem emit (o : Out) : Logged s (s.emit o) := ⟨rfl, List.prefix_append _ _⟩
theorem setErr (v : Err) : Logged s (s.setErr v) := ⟨rfl, List.prefix_refl _⟩
theorem setHeld (v : List Nat) : Logged s (s.setLink { s.link with heldVec := v }) := ⟨rfl, List.prefix_refl _⟩

theorem msix (v : Nat) : Logged s (s.msix v) := (emit s _).ite ((refl s).ite (setHeld s _))

theorem raiseIrq : Logged s s.raiseIrq := by
  unfold State.raiseIrq
  split
  · exact (setErr s _).ite ((setErr s _).trans (msix _ 64))
  · exact (setErr s _).trans (msix _ 64)

theorem faultLog (cls : Nat) (part : Option Nat) (code : Nat) (d : Bytes) : Logged s (s.faultLog cls part code d) :=
  (setErr s _).ite ⟨rfl, List.prefix_refl _⟩

theorem event (cls code : Nat) (part : Option Nat) (d : Bytes) : Logged s (s.event cls code part d) := by
  have hirq (m : State) : Logged m (if s.err.irqEn.getLsbD cls then m.raiseIrq else m) := (raiseIrq m).ite (refl m)
  have hlog (m : State) : Logged m (if 2 ≤ cls then m.faultLog cls part code d else m) := (faultLog m cls part code d).ite (refl m)
  exact ((setErr s _).trans (hirq _)).trans (hlog _)

theorem raise (code : Nat) : Logged s (s.raise code) := event s _ _ _ _

theorem raiseP (code p : Nat) : Logged s (s.raiseP code p) := event s _ _ _ _

theorem raiseLimited (code key gap : Nat) (part : Option Nat) : Logged s (s.raiseLimited code key gap part) :=
  (refl s).ite ((setErr s _).trans (event _ _ _ _ _))

theorem capacityChange (reg1 reg2 num : Nat) : Logged s (s.capacityChange reg1 reg2 num) := (event s _ _ _ _).ite (refl s)

end

section
variable {s t : State} (h : Logged s t)
include h

theorem pending : t.pending = s.pending := by rw [h.state]
theorem nowUs : t.nowUs = s.nowUs := by rw [h.state]
theorem fresh : t.fresh = s.fresh := by rw [h.state]
theorem phase : t.phase = s.phase := by rw [h.state]
theorem pins : t.pins = s.pins := by rw [h.state]
theorem link : t.link = { s.link with heldVec := t.link.heldVec } := by rw [h.state]
theorem inv : t.inv = s.inv := by rw [h.state]
theorem parts : t.parts = s.parts := by rw [h.state]
theorem queues : t.queues = s.queues := by rw [h.state]
theorem mem : t.mem = s.mem := by rw [h.state]
theorem cores : t.cores = s.cores := by rw [h.state]
theorem fab : t.fab = s.fab := by rw [h.state]
theorem optics : t.optics = s.optics := by rw [h.state]
theorem fabric : t.fabric = s.fabric := by rw [h.state]
theorem power : t.power = s.power := by rw [h.state]
theorem meter : t.meter = s.meter := by rw [h.state]
theorem flash : t.flash = { s.flash with logTimes := t.flash.logTimes, logPend := t.flash.logPend } := by rw [h.state]
theorem tag : t.tag = s.tag := by rw [h.state]
theorem boot : t.boot = s.boot := by rw [h.state]
theorem steward : t.steward = s.steward := by rw [h.state]

end

end Logged

theorem State.raise_lastCode (s : State) (code : Nat) : (s.raise code).err.lastCode = code := s.event_lastCode _ _ _ _

theorem State.raiseP_lastCode (s : State) (code p : Nat) : (s.raiseP code p).err.lastCode = code := s.event_lastCode _ _ _ _

end Sys2Proof.Machine
end

section
/-! SUPPORT. The power block's registers: the effective cap, the wake of an access, and the idle tolerance (R413, R430 to R432). -/

namespace Sys2Proof.Machine

/-- A cap is stored as the statement's clamp gives it (R432, R496). -/
theorem clampCap_bits (v : Word) : clampCap (bits v.toNat 10 0) = Claims.heldCap v := by
  have hb : bits v.toNat 10 0 = v.toNat % 2048 := by simp [bits]
  unfold clampCap Claims.heldCap
  rw [hb]
  split
  · omega
  · split <;> omega

/-- The least of the two caps that are compared first (R413). -/
theorem leastCap_fst (a b : Nat) : (if b < a then (b, 2) else (a, 1)).1 = min a b := by
  split <;> (dsimp only; omega)

/-- The brake bounds the cap by 500 W (R413). -/
theorem brakeCap_fst (brake : Bool) (x : Nat × Nat) :
    (if brake && decide (500 < x.1) then (500, 3) else x).1 = if brake then min x.1 500 else x.1 := by
  cases brake
  · simp
  · by_cases h : 500 < x.1
    · simp [h]; omega
    · simp [h]; omega

/-- C_eff is that of R413. -/
theorem State.capNow_fst (s : State) : s.capNow.1 = Claims.capRule s := by
  have hleast := leastCap_fst s.power.capW s.power.boardCap
  have hbrake := brakeCap_fst s.pins.brake (if s.power.boardCap < s.power.capW then (s.power.boardCap, 2) else (s.power.capW, 1))
  unfold State.capNow Claims.capRule
  dsimp only
  rw [apply_ite Prod.fst, hbrake, hleast]
  generalize (if s.pins.brake then min (min s.power.capW s.power.boardCap) 500 else min s.power.capW s.power.boardCap) = m
  cases s.sensorDegraded with
  | false => rfl
  | true =>
    by_cases h : s.steward.margin = 0
    · simp [h]
    · simp [h]

/-- After C_eff has taken its value it is that of R413. -/
theorem State.updateCap_effCap (s : State) : s.updateCap.power.effCap = Claims.capRule s.updateCap := s.capNow_fst

@[simp] theorem State.wakeNow_power (s : State) : s.wakeNow.power = { s.power with idle := 0 } := by
  unfold State.wakeNow
  split
  · next h => rw [← h]
  · rfl

@[simp] theorem State.wakeNow_pins (s : State) : s.wakeNow.pins = s.pins := by
  unfold State.wakeNow
  split <;> rfl

theorem State.wakeNow_of_awake (s : State) (h : s.power.idle = 0) : s.wakeNow = s := if_pos h

/-- An access changes the first-access mark and what the recording of an event changes (R354). -/
theorem State.hostAccess_logged (s : State) : ∃ v, Logged (s.setLink { s.link with firstAccess := v }) s.hostAccess := by
  unfold State.hostAccess
  split
  · refine ⟨false, ?_⟩
    dsimp only
    split
    · exact Logged.msix _ 65
    · exact Logged.refl _
  · exact ⟨s.link.firstAccess, Logged.refl s⟩

@[simp] theorem State.hostAccess_power (s : State) : s.hostAccess.power = s.power := by
  obtain ⟨v, h⟩ := s.hostAccess_logged
  exact h.power

@[simp] theorem State.hostAccess_cores (s : State) : s.hostAccess.cores = s.cores := by
  obtain ⟨v, h⟩ := s.hostAccess_logged
  exact h.cores

@[simp] theorem State.hostAccess_steward (s : State) : s.hostAccess.steward = s.steward := by
  obtain ⟨v, h⟩ := s.hostAccess_logged
  exact h.steward

@[simp] theorem State.wakeNow_steward (s : State) : s.wakeNow.steward = s.steward := by
  unfold State.wakeNow
  split <;> rfl

theorem State.atBar0_power (s : State) : (Claims.atBar0 s).power = { s.power with idle := 0 } :=
  (State.hostAccess_power _).trans s.wakeNow_power

theorem State.atBar0_steward (s : State) : (Claims.atBar0 s).steward = s.steward :=
  (State.hostAccess_steward _).trans s.wakeNow_steward

/-- A core that `restCores` looks at stays as it is, or enters S1 (R429). -/
theorem State.core_restCores (s : State) (ls : List Nat) (n : Nat) :
    (s.restCores ls).core n = s.core n ∨ (s.restCores ls).core n = { s.core n with idle := .s1 } := by
  unfold State.restCores State.core
  split
  · exact .inl rfl
  · rw [State.setCores_cores]
    by_cases h : n < s.cores.length
    · simp only [List.getD_eq_getElem?_getD, List.getElem?_map, List.getElem?_eq_getElem h, Option.map_some, Option.getD_some]
      split
      · split
        · exact .inr rfl
        · exact .inl rfl
      · exact .inl rfl
    · simp [List.getD_eq_getElem?_getD, h]

end Sys2Proof.Machine
end

section
/-! SUPPORT. What each write of the power block leaves (R413, R416, R418, R430). -/

namespace Sys2Proof.Machine

/-- What a new tolerance does to the module's idle state: one that is too deep is left (R430). -/
def State.leftIdle (s : State) (d : Nat) : State :=
  if s.power.idle = 4 ∧ d = 3 then s.wakeNow.modPower fun p => { p with idle := 3 } else if d < s.power.idle then s.wakeNow else s

/-- The module's idle state after a write of PWR_IDLE (R430). -/
def idleWithin (idle d : Nat) : Nat := if idle = 4 ∧ d = 3 then 3 else if d < idle then 0 else idle

theorem idleWithin_le (idle d : Nat) : idleWithin idle d ≤ d := by
  unfold idleWithin
  split
  · omega
  · split <;> omega

theorem idleWithin_of_le {idle d : Nat} (h : idle ≤ d) : idleWithin idle d = idle := by
  unfold idleWithin
  rw [if_neg (by omega), if_neg (by omega)]

/-- Leaving a state that is too deep touches the idle state and the optics only. -/
theorem State.leftIdle_effect (s : State) (d : Nat) :
    s.leftIdle d = { s with power := { s.power with idle := idleWithin s.power.idle d }, optics := (s.leftIdle d).optics } := by
  have hwake : s.wakeNow = { s with power := { s.power with idle := 0 }, optics := s.wakeNow.optics } := by
    unfold State.wakeNow
    split
    · next h => rw [← h]
    · rfl
  unfold State.leftIdle idleWithin
  split
  · rw [hwake]; rfl
  · split
    · exact hwake
    · rfl

/-- The tolerance is stored, a state that is too deep is left, and the cores' idle states follow (R429, R430). -/
theorem State.writeIdle_eq (s : State) (v : Word) :
    s.writeIdle v =
      let u := (s.modPower fun p => { p with tolUs := bits v.toNat 23 0 }).leftIdle (deepest (bits v.toNat 23 0))
      if deepest (bits v.toNat 23 0) < 2 ∧ u.power.idle = 0 then
        u.setCores (u.cores.map fun c => if c.idle = .s2 then { c with idle := if deepest (bits v.toNat 23 0) = 1 then .s1 else .s0 }
          else if c.idle = .s1 ∧ deepest (bits v.toNat 23 0) = 0 then { c with idle := .s0 } else c)
      else u.restCores (List.range 800) := rfl

/-- A write of PWR_IDLE acts on the power block, the optics and the cores (R429, R430). -/
theorem State.writeIdle_effect (s : State) (v : Word) :
    s.writeIdle v = { s with
      power := { s.power with tolUs := bits v.toNat 23 0, idle := idleWithin s.power.idle (deepest (bits v.toNat 23 0)) }
      optics := (s.writeIdle v).optics, cores := (s.writeIdle v).cores } := by
  have hu := (s.modPower fun p => { p with tolUs := bits v.toNat 23 0 }).leftIdle_effect (deepest (bits v.toNat 23 0))
  rw [s.writeIdle_eq v]
  dsimp only
  split
  · rw [hu]; rfl
  · unfold State.restCores
    split
    · rw [hu]; rfl
    · rw [hu]; rfl

/-- Where the tolerance allows S2, a core stays or enters S1 (R429). -/
theorem State.core_writeIdle (s : State) (v : Word) (n : Nat) (h : 2 ≤ deepest (bits v.toNat 23 0)) :
    (s.writeIdle v).core n = s.core n ∨ (s.writeIdle v).core n = { s.core n with idle := .s1 } := by
  have hu := (s.modPower fun p => { p with tolUs := bits v.toNat 23 0 }).leftIdle_effect (deepest (bits v.toNat 23 0))
  have hcore : ((s.modPower fun p => { p with tolUs := bits v.toNat 23 0 }).leftIdle (deepest (bits v.toNat 23 0))).core n = s.core n := by
    rw [hu]; rfl
  rw [s.writeIdle_eq v]
  dsimp only
  rw [if_neg (by omega), ← hcore]
  exact State.core_restCores _ _ n

/-- C_eff is of the power block. -/
theorem State.setPower_updateCap (s : State) (p : Power) : s.updateCap.setPower p = s.setPower p := rfl

theorem State.updateCap_capW (s : State) : s.updateCap.power.capW = s.power.capW := rfl

theorem State.updateCap_boardCap (s : State) : s.updateCap.power.boardCap = s.power.boardCap := rfl

theorem State.updateCap_event (s : State) : s.updateCap.power.event = s.power.event := rfl

/-- A tolerance of 80 µs or more allows S2 (R429, R432). -/
theorem two_le_deepest {tol : Nat} (h : 80 ≤ tol) : 2 ≤ deepest tol := by
  unfold deepest
  rw [if_neg (show ¬ tol < 2 by omega), if_neg (show ¬ tol < 80 by omega)]
  split
  · exact Nat.le_refl 2
  · split <;> omega

/-- A power event wakes the module and sets its bit (R431, R433). -/
theorem State.pwrEvent_effect (s : State) (b : Nat) (h2 : b ≠ 2) (h3 : b ≠ 3) :
    s.pwrEvent b = s.wakeNow.setPower { s.power with idle := 0, event := s.power.event ||| (1#8 <<< b) } := by
  unfold State.pwrEvent
  dsimp only
  rw [if_neg (by omega), s.wakeNow_power]

end Sys2Proof.Machine
end

section
open Sys2Proof Sys2Proof.Machine

namespace Sys2Proof.Claims

/-- PWR_CAP stores a cap, and C_eff follows (R413, R432). -/
theorem capWrite_stores (v : Word) (s : State) (h : s.barOpen = true) :
    ∃ t : State, exec (.pwrCapWrite v) s = .next t ∧ t.setPower (atBar0 s).power = atBar0 s ∧ t.power.capW = heldCap v ∧
      t.power.boardCap = s.power.boardCap ∧ t.power.effCap = capRule t := by
  have hrun : exec (.pwrCapWrite v) s = .next ((atBar0 s).writeCap v) := congrArg Host.Outcome.next (s.bar0_of_open _ h)
  refine ⟨_, hrun, State.setPower_updateCap _ _, (State.updateCap_capW _).trans (clampCap_bits v), ?_, State.updateCap_effCap _⟩
  refine (State.updateCap_boardCap _).trans ?_
  simp [State.modPower, s.atBar0_power]

/-- PWR_CTRL stores the mode and the learning period (R418, R419, R432). -/
theorem modeWrite_stores (v : Word) (s : State) (h : s.barOpen = true) :
    ∃ t : State, exec (.modeWrite v) s = .next t ∧ t.setPower (atBar0 s).power = atBar0 s ∧
      t.power.mode = (if v.toNat % 4 = 3 then s.power.mode else v.toNat % 4) ∧ t.power.learnMs = max 1 (v.toNat / 256 % 256) ∧
      (s.steward.shed ≠ 2 → t.power.learnEff = min 160 (max 1 (v.toNat / 256 % 256))) := by
  have hrun : exec (.modeWrite v) s = .next ((atBar0 s).writeMode v) := congrArg Host.Outcome.next (s.bar0_of_open _ h)
  have hms : bits v.toNat 15 8 = v.toNat / 256 % 256 := by simp [bits]
  have hmode : bits v.toNat 1 0 = v.toNat % 4 := by simp [bits]
  refine ⟨_, hrun, rfl, ?_, ?_, fun hs => ?_⟩
  · simp [State.writeMode, State.modPower, hmode, s.atBar0_power]
  · simp [State.writeMode, State.modPower, hms]
  · simp [State.writeMode, State.modPower, hms, s.atBar0_steward, hs]

/-- PWR_IDLE stores the tolerance; a state that is too deep is left, and cores may enter S1 (R429 to R431). -/
theorem idleWrite_stores (v : Word) (s : State) (h : s.barOpen = true) :
    ∃ t : State, exec (.pwrIdleWrite v) s = .next t ∧ t.power.tolUs = v.toNat % 2 ^ 24 ∧ t.power.idle ≤ deepest (v.toNat % 2 ^ 24) ∧
      (s.power.idle ≤ deepest (v.toNat % 2 ^ 24) → t.power.idle = s.power.idle) ∧ t.mem = s.mem ∧ t.queues = s.queues ∧ t.parts = s.parts ∧
      (80 ≤ v.toNat % 2 ^ 24 → s.power.idle = 0 →
        ∀ n, { t.core n with idle := (s.core n).idle } = s.core n ∧ ((t.core n).idle ≠ (s.core n).idle → (t.core n).idle = .s1)) := by
  have hrun : exec (.pwrIdleWrite v) s = .next (s.hostAccess.writeIdle v) := if_pos h
  have hacc := Accessed.hostAccess s
  have htol : bits v.toNat 23 0 = v.toNat % 2 ^ 24 := by simp [bits]
  have hw := s.hostAccess.writeIdle_effect v
  have hpow : (s.hostAccess.writeIdle v).power = { s.power with
      tolUs := v.toNat % 2 ^ 24, idle := idleWithin s.power.idle (deepest (v.toNat % 2 ^ 24)) } := by
    rw [hw, State.hostAccess_power, htol]
  refine ⟨_, hrun, by rw [hpow], by rw [hpow]; exact idleWithin_le _ _, fun hi => by rw [hpow]; exact idleWithin_of_le hi,
    by rw [hw]; exact hacc.mem, by rw [hw]; exact hacc.queues, by rw [hw]; exact hacc.parts, fun h80 _ n => ?_⟩
  have hcore : s.hostAccess.core n = s.core n := congrArg (fun l : List PhysCore => l.getD n {}) s.hostAccess_cores
  obtain he | he := s.hostAccess.core_writeIdle v n (by rw [htol]; exact two_le_deepest h80)
  · rw [he, hcore]
    exact ⟨rfl, fun hne => absurd rfl hne⟩
  · rw [he, hcore]
    exact ⟨rfl, fun _ => rfl⟩

/-- PWR_BRAKE# going low moves its pin, raises its event and lowers C_eff (R40, R413, R416). -/
theorem brakeAssert_lowers (s : State) (hp : s.phase ≠ .off) (hb : s.pins.brake = false) :
    ∃ t : State, exec .pwrBrakeAssert s = .next t ∧ t.pins = { s.pins with brake := true } ∧ t.power.event.getLsbD 4 = true ∧
      t.err.lastCode = 0x0913 ∧ t.power.effCap = capRule t ∧ t.mem = s.mem ∧ t.queues = s.queues := by
  let low := s.setPins { s.pins with brake := true }
  have hrun : exec .pwrBrakeAssert s = .next ((low.wakeNow.pwrEvent 4).raise 0x0913).updateCap := by
    change execPwrBrakeAssert s = _
    unfold execPwrBrakeAssert
    simp [hb, hp, low]
  have hev := low.wakeNow.pwrEvent_effect 4 (by decide) (by decide)
  have hlog := Logged.raise (low.wakeNow.pwrEvent 4) 0x0913
  have hacc := (Accessed.wakeNow low).trans (Accessed.wakeNow _)
  refine ⟨_, hrun, hlog.pins.trans (by rw [hev]; simp [low]), ?_, State.raise_lastCode _ _, State.updateCap_effCap _,
    hlog.mem.trans (by rw [hev]; exact hacc.mem), hlog.queues.trans (by rw [hev]; exact hacc.queues)⟩
  rw [State.updateCap_event, hlog.power, hev]
  simp

/-- Settles O42: each write by the state in which it finds the registers, and C_eff by its own rule. -/
theorem capsBrakeAndModesSetThePowerBlock : Obligations.CapsBrakeAndModesSetThePowerBlock := by
  refine ⟨fun v s h => ⟨capWrite_stores v s h, modeWrite_stores v s h, fun hv => ?_, idleWrite_stores v s h⟩, fun v s h => ?_, brakeAssert_lowers,
    fun s => ⟨_, rfl, rfl, State.updateCap_effCap _, rfl⟩⟩
  · exact congrArg Host.Outcome.next ((s.bar0_of_open _ h).trans (if_pos hv))
  · have hrun : exec (.sbCapWrite v) s = .next (s.modPower fun p => { p with boardCap := clampCap (bits v.toNat 10 0) }).updateCap :=
      congrArg Host.Outcome.next (if_pos h)
    exact ⟨_, hrun, State.setPower_updateCap _ _, (State.updateCap_boardCap _).trans (clampCap_bits v), State.updateCap_capW _, State.updateCap_effCap _⟩

end Sys2Proof.Claims
end

section
/-! SUPPORT. Fuelagrim's journal, the tag's status record, a start-up that halts, and power-up (R43 to R45, R455, R465). -/

namespace Sys2Proof.Machine

/-! The journal (R455). -/

/-- A journal slot that is sealed checks good: what its CRC-32 covers is neither itself nor the commit flag. -/
theorem Journal.sealed_ok (j : Journal) : Journal.ok { j with crc := crc32 j.data, flag := true } = true := by
  change (true && crc32 j.data == crc32 j.data) = true
  simp

/-- The slot that the journal writes is the newer one: its number is above both (R455). -/
theorem Meter.newest_journal (m : Meter) (b : Bool) : ∃ j, (m.journal b).newest = some j ∧ j.atLoss = b ∧ j.energy = m.energy ∧
    j.events = m.eventCount ∧ j.seq = m.seq := by
  let j : Journal :=
    { no := max m.j0.no m.j1.no + 1, atLoss := b, events := m.eventCount, energy := m.energy, opS := m.opS, overS := m.overS
      seq := m.seq, lastEnergy := m.lastEnergy, lastOpS := m.lastOpS, macs := m.macs, bytes := m.bytes, gen := m.gen }
  have hok := j.sealed_ok
  refine ⟨{ j with crc := crc32 j.data, flag := true }, ?_, rfl, rfl, rfl, rfl⟩
  have hno : max m.j0.no m.j1.no + 1 = j.no := rfl
  have hj : m.journal b = if (m.j0.ok && !(m.j1.ok && decide (m.j0.no < m.j1.no))) = true then { m with j1 := { j with crc := crc32 j.data, flag := true } }
      else { m with j0 := { j with crc := crc32 j.data, flag := true } } := rfl
  rw [hj]
  split
  · have hlt : m.j0.no < j.no := by omega
    simp [Meter.newest, hok, hlt]
  · have hge : ¬ j.no < m.j1.no := by omega
    simp [Meter.newest, hok, hge]

/-! Start-up that halts (R465). -/

/-- The status record goes to the tag. -/
theorem State.sendStatus_effect (s : State) : s.sendStatus = s.setTag s.sendStatus.tag := by
  have hone (again : Bool) (f : Tag → Tag) : (if !s.boot.tagStatusEn || again then s else s.modTag f) =
      s.setTag (if !s.boot.tagStatusEn || again then s else s.modTag f).tag := by
    split
    · rfl
    · rfl
  exact hone _ _

/-- A start-up that does not go on to the update state halts with its code, MOD_READY low (R465). -/
theorem State.haltBoot_effect (s : State) (code : Nat) (h : s.boot.updReq = false ∨ code = 0x0B09) :
    s.haltBoot code = { s with
      phase := .halted, pins := { s.pins with ready := false }, boot := { s.boot with halted := true, ready := false, code := code, facts := none }
      steward := (s.sbSet 3).steward, tag := (s.haltBoot code).tag } := by
  let m := (((s.setPins { s.pins with ready := false }).setBoot { s.boot with halted := true, ready := false, code := code, facts := none }).setPhase .halted).sbSet 3
  have hreq : m.sendStatus.boot.updReq = s.boot.updReq := by rw [m.sendStatus_effect]; rfl
  have hm : s.haltBoot code = m.sendStatus := by
    change (if m.sendStatus.boot.updReq = true ∧ code ≠ 0x0B09 then m.sendStatus.enterUpdate else m.sendStatus) = m.sendStatus
    exact if_neg fun k => h.elim (fun e => by rw [hreq, e] at k; exact absurd k.1 (by decide)) k.2
  rw [hm, State.sendStatus_effect]
  rfl

/-! Power-up (R43, R459, R462). -/

/-- What Fuelagrim resumes with (R455). -/
def Meter.resumed (m : Meter) : Nat := (m.newest.map (·.energy)).getD m.energy

/-- Emitting a record changes Fuelagrim's block, and not its energy total (R456). -/
theorem State.emitRecord_effect (s : State) (kind : Nat) (lost : Bool) : s.emitRecord kind lost = s.setMeter (s.emitRecord kind lost).meter := by rfl

theorem State.emitRecord_energy (s : State) (kind : Nat) (lost : Bool) : (s.emitRecord kind lost).meter.energy = s.meter.energy := by rfl

/-- Fuelagrim with the counters of its journal, before it emits the record of its resumption. -/
def State.resumedMeter (s : State) : State :=
  (s.modMeter fun m => match s.meter.newest with | some j => m.restore j | none => m).modMeter fun m =>
    { m with fault := false, overNow := false, powerDw := 0, nonce := List.replicate 8 0 }

theorem State.resumedMeter_energy (s : State) : s.resumedMeter.meter.energy = s.meter.resumed := by
  change (match s.meter.newest with | some j => s.meter.restore j | none => s.meter).energy = s.meter.resumed
  unfold Meter.resumed
  cases s.meter.newest with
  | none => rfl
  | some j => rfl

/-- Fuelagrim resumes: its block changes, its energy total is the journal's, and an event may be recorded (R455, R456, R459). -/
theorem State.meterResume_effect (s : State) : ∃ m : Meter, m.energy = s.meter.resumed ∧ Logged (s.setMeter m) s.meterResume := by
  let lost := (s.meter.newest.map (·.atLoss)).getD false
  have hr : s.resumedMeter.emitRecord 2 lost = s.setMeter (s.resumedMeter.emitRecord 2 lost).meter := State.emitRecord_effect _ _ _
  refine ⟨_, (State.emitRecord_energy _ 2 lost).trans s.resumedMeter_energy, ?_⟩
  rw [← hr]
  exact (Logged.raise _ 0x0A21).ite (Logged.refl _)

theorem State.updateCap_effect (s : State) : s.updateCap = s.setPower s.updateCap.power := rfl

/-- After a power-up of `s` the state `t` holds reset values but for what outlives the loss of power (R43, R45, R459). -/
structure PoweredUp (s t : State) : Prop where
  vin : t.pins.vin = true
  nowUs : t.nowUs = 0
  ready : t.pins.ready = false
  parts : t.parts = State.reset.parts
  dev : t.mem.dev = []
  powerUps : t.flash.powerUps = s.flash.powerUps + 1
  queues : t.queues = State.reset.queues
  energy : t.meter.energy = s.meter.resumed

/-- The state before Fuelagrim resumes. -/
def State.railsUp (s : State) : State :=
  let t := ((s.railsOff .boot).setNowUs 0).setPins { (s.railsOff .boot).pins with vin := true }
  t.setFlash { t.flash with powerUps := t.flash.powerUps + 1 }

/-- The state at the end of power-up step 4 (R43). -/
def State.metered (s : State) : State :=
  let t := s.railsUp.meterResume
  (t.setBoot { t.boot with step := 1 }).updateCap

theorem State.powerOn_eq (s : State) (f : StartFacts) :
    s.powerOn f = if f.flashOk then s.metered.setBoot { s.metered.boot with step := 2, facts := some f } else s.metered.haltBoot 0x0B09 := by rfl

theorem State.metered_poweredUp (s : State) : PoweredUp s s.metered := by
  obtain ⟨m, hm, hlog⟩ := s.railsUp.meterResume_effect
  have ht : s.metered = (s.railsUp.meterResume.setBoot { s.railsUp.meterResume.boot with step := 1 }).setPower s.metered.power := State.updateCap_effect _
  rw [ht]
  exact ⟨congrArg Pins.vin hlog.pins, hlog.nowUs, congrArg Pins.ready hlog.pins, hlog.parts, congrArg Mem.dev hlog.mem,
    congrArg Flash.powerUps hlog.flash, hlog.queues, (congrArg Meter.energy hlog.meter).trans hm⟩

theorem State.metered_phase (s : State) : s.metered.phase = .boot := by
  obtain ⟨m, -, hlog⟩ := s.railsUp.meterResume_effect
  exact hlog.phase

/-- What a power-up leaves (R43, R462, R465). -/
theorem State.powerOn_poweredUp (s : State) (f : StartFacts) : PoweredUp s (s.powerOn f) := by
  obtain ⟨hvin, hnow, hready, hparts, hdev, hups, hqueues, henergy⟩ := s.metered_poweredUp
  rw [s.powerOn_eq f]
  split
  · exact ⟨hvin, hnow, hready, hparts, hdev, hups, hqueues, henergy⟩
  · rw [State.haltBoot_effect _ _ (.inr rfl)]
    exact ⟨hvin, hnow, rfl, hparts, hdev, hups, hqueues, henergy⟩

/-- At reset no queue holds a command, and no partition is admitted. -/
theorem State.reset_fifo (t : State) (h : t.queues = State.reset.queues) (q : Nat) : (t.queue q).fifo = [] := by
  unfold State.queue
  rw [h, List.getD_eq_getElem?_getD, State.reset, List.getElem?_replicate]
  split <;> rfl

theorem State.reset_anyPart (t : State) (h : t.parts = State.reset.parts) : t.anyPart = false := by
  unfold State.anyPart
  rw [h]
  rfl

end Sys2Proof.Machine
end

section
open Sys2Proof Sys2Proof.Machine

namespace Sys2Proof.Claims

/-- Settles O23: power-up by what the four steps leave and by the outcome of the flash check; power loss by the rails and the journal. -/
theorem powerUpAndPowerLoss : Obligations.PowerUpAndPowerLoss := by
  refine ⟨fun f s i hvin hi => ?_, fun s hvin => ?_⟩
  · have hrun : exec i s = .next (s.powerOn f) := by
      obtain rfl | rfl := hi
      · exact if_neg (by simp [hvin])
      · exact if_neg (by simp [hvin])
    obtain ⟨hv, hnow, hready, hparts, hdev, hups, hqueues, henergy⟩ := s.powerOn_poweredUp f
    refine ⟨_, hrun, hv, hnow, hready, State.reset_anyPart _ hparts, hdev, hups, State.reset_fifo _ hqueues, henergy, fun hf => ?_, fun hf => ?_⟩
    · rw [s.powerOn_eq f, if_pos hf]
      exact ⟨s.metered_phase, rfl, rfl⟩
    · rw [s.powerOn_eq f, if_neg (by simp [hf]), State.haltBoot_effect _ _ (.inr rfl)]
      exact ⟨rfl, rfl, rfl⟩
  · refine ⟨_, if_neg (by simp [hvin]), rfl, rfl, rfl, State.reset_anyPart _ rfl, rfl, State.reset_fifo _ rfl, rfl, rfl, rfl, rfl, ?_, rfl⟩
    exact s.meter.newest_journal true

end Sys2Proof.Claims
end

section
/-! SUPPORT. Packets on their way: what the egress queues, the flows and the frames that go out can change (R281 to R297, R321, R325). -/

namespace Sys2Proof.Machine

/-! A port after an update of one of them. -/

/-- A projection that an update of element `i` leaves as it is. -/
theorem map_updAt {α β : Type} (pr : α → β) (l : List α) (i : Nat) (f : α → α) (d : α) (h : pr (f (l.getD i d)) = pr (l.getD i d)) :
    (updAt l i f).map pr = l.map pr := by
  induction l generalizing i with
  | nil => rfl
  | cons a r ih =>
    cases i with
    | zero => exact congrArg (· :: r.map pr) h
    | succ i => exact congrArg (pr a :: ·) (ih i h)

theorem State.port_modPort (s : State) (n k : Nat) (f : Port → Port) :
    (s.modPort n f).port k = if k = n ∧ n < s.optics.ports.length then f (s.port n) else s.port k := getD_updAt _ _ _ _ _

theorem State.port_modPort_self (s : State) (n : Nat) (f : Port → Port) (h : n < s.optics.ports.length) : (s.modPort n f).port n = f (s.port n) := by
  rw [State.port_modPort, if_pos ⟨rfl, h⟩]

theorem State.port_modPort_ne (s : State) (n k : Nat) (f : Port → Port) (h : k ≠ n) : (s.modPort n f).port k = s.port k := by
  rw [State.port_modPort, if_neg (fun e => h e.1)]

@[simp] theorem State.ports_length_modPort (s : State) (n : Nat) (f : Port → Port) : (s.modPort n f).optics.ports.length = s.optics.ports.length :=
  updAt_length _ _ _

/-! Ports that differ in their counters and in what waits alone. -/

theorem samePort_refl (p : Port) : Claims.SamePort p p := ⟨rfl, rfl⟩

theorem samePort_trans {p q r : Port} (h : Claims.SamePort p q) (k : Claims.SamePort q r) : Claims.SamePort p r :=
  ⟨by rw [← k.1, ← h.1], h.2.trans k.2⟩

/-- What such ports share: every field but the counters and the transmitters. -/
theorem samePort_field {α : Type} {p q : Port} (h : Claims.SamePort p q) (f : Port → α) (hf : ∀ x c t, f { x with cnt := c, tx := t } = f x) : f p = f q :=
  (hf p q.cnt q.tx).symm.trans (congrArg f h.1)

/-- From `s` to `t` packets have moved: of the ports only the counters and what waits, the flows, the count of what was sent again, and what has gone out differ. -/
structure Moves (s t : State) : Prop where
  state : t = { s with
    optics := { s.optics with ports := t.optics.ports }, fab := { s.fab with flows := t.fab.flows, resent := t.fab.resent }, out := t.out }
  count : t.optics.ports.length = s.optics.ports.length
  same : ∀ k, Claims.SamePort (t.port k) (s.port k)
  out : s.out <+: t.out

namespace Moves

theorem refl (s : State) : Moves s s := ⟨rfl, rfl, fun _ => samePort_refl _, List.prefix_refl _⟩

theorem trans {s t u : State} (h : Moves s t) (k : Moves t u) : Moves s u :=
  ⟨k.state.trans (by rw [h.state]), k.count.trans h.count, fun n => samePort_trans (k.same n) (h.same n), h.out.trans k.out⟩

theorem ite {c : Prop} [Decidable c] {s a b : State} (ha : Moves s a) (hb : Moves s b) : Moves s (if c then a else b) := by
  split
  · exact ha
  · exact hb

theorem foldl {α : Type} (f : State → α → State) (l : List α) (s : State) (hf : ∀ s x, Moves s (f s x)) : Moves s (l.foldl f s) := by
  induction l generalizing s with
  | nil => exact refl s
  | cons x r ih => exact (hf s x).trans (ih _)

section
variable {s t : State} (h : Moves s t)
include h

theorem phase : t.phase = s.phase := by rw [h.state]
theorem nowUs : t.nowUs = s.nowUs := by rw [h.state]
theorem boot : t.boot = s.boot := by rw [h.state]
theorem pins : t.pins = s.pins := by rw [h.state]
theorem mem : t.mem = s.mem := by rw [h.state]
theorem queues : t.queues = s.queues := by rw [h.state]
theorem parts : t.parts = s.parts := by rw [h.state]
theorem err : t.err = s.err := by rw [h.state]
theorem inv : t.inv = s.inv := by rw [h.state]
theorem flash : t.flash = s.flash := by rw [h.state]
theorem fabric : t.fabric = s.fabric := by rw [h.state]
theorem fab : t.fab = { s.fab with flows := t.fab.flows, resent := t.fab.resent } := by rw [h.state]
theorem optics : t.optics = { s.optics with ports := t.optics.ports } := by rw [h.state]

theorem subUp (n : Nat) : (t.port n).subUp = (s.port n).subUp := samePort_field (h.same n) Port.subUp fun _ _ _ => rfl

end

section
variable (s : State)

theorem modPort (n : Nat) (f : Port → Port) (hf : Claims.SamePort (f (s.port n)) (s.port n)) : Moves s (s.modPort n f) := by
  refine ⟨rfl, s.ports_length_modPort n f, fun k => ?_, List.prefix_refl _⟩
  rw [State.port_modPort]
  split
  · next h => rw [h.1]; exact hf
  · exact samePort_refl _

theorem emit (o : Out) : Moves s (s.emit o) := ⟨rfl, rfl, fun _ => samePort_refl _, List.prefix_append _ _⟩

/-- A transmitter that keeps its pauses. -/
theorem modTx (n sub : Nat) (f : SubTx → SubTx) (hall : (f ((s.port n).txOf sub)).pauseAll = ((s.port n).txOf sub).pauseAll)
    (hprio : (f ((s.port n).txOf sub)).pausePrio = ((s.port n).txOf sub).pausePrio) : Moves s (s.modTx n sub f) :=
  modPort s n _ ⟨rfl, map_updAt _ _ _ _ {} (Prod.ext hall hprio)⟩

theorem countResent : Moves s (s.modFab fun b => { b with resent := sat32 b.resent 1 }) := ⟨rfl, rfl, fun _ => samePort_refl _, List.prefix_refl _⟩

theorem setFlow (f : Flow) : Moves s (s.setFlow f) := ⟨rfl, rfl, fun _ => samePort_refl _, List.prefix_refl _⟩

end

end Moves

/-! What a sub-port sends (R325). -/

/-- A round of the robin changes the deficits and the turn alone. -/
theorem SubTx.robin_state (p : Port) (size : Egr → Nat) (n : Nat) (t : SubTx) {q : Nat} {u : SubTx} (h : SubTx.robin p size n t = some (q, u)) :
    u = { t with deficit := u.deficit, turn := u.turn } := by
  induction n generalizing t with
  | zero => cases h
  | succ n ih =>
    unfold SubTx.robin at h
    dsimp only at h
    split at h
    · cases h; rfl
    · rw [ih _ h]
      split
      · split <;> rfl
      · split <;> rfl

/-- The choice of a queue changes the deficits and the turn alone. -/
theorem SubTx.pick_state {t u : SubTx} {p : Port} {now q : Nat} {size : Egr → Nat} (h : t.pick p now size = some (q, u)) :
    u = { t with deficit := u.deficit, turn := u.turn } := by
  unfold SubTx.pick at h
  split at h
  · cases h
  · split at h
    · cases h; rfl
    · split at h
      · cases h; rfl
      · split at h
        · exact SubTx.robin_state p size 64 t h
        · cases h

/-- What a sub-port that sends a frame leaves: the frame is the first of its queue, it is counted, and it goes out (R325, R345). -/
theorem State.sendNext_some {s t : State} {n sub : Nat} (h : s.sendNext n sub = some t) :
    ∃ q u x l size, ((s.port n).txOf sub).pick (s.port n) s.nowUs (s.egrBytes n) = some (q, u) ∧ u.head? q = some x ∧
      t = ((s.modTx n sub fun _ => { u.pop q with sent := l }).modPort n fun p =>
        { p with cnt := updAt (updAt p.cnt 0 fun c => (c + 1) % 2 ^ 64) 1 fun c => (c + size) % 2 ^ 64 }).emit (s.egrOut n sub q x) := by
  unfold State.sendNext at h
  dsimp only at h
  split at h
  · cases h
  · next q u hpick =>
    obtain ⟨x, hx, rfl⟩ := Option.map_eq_some_iff.1 h
    exact ⟨q, u, x, _, _, hpick, hx, rfl⟩

namespace Moves

variable (s : State)

theorem sendNext {n sub : Nat} {t : State} (h : s.sendNext n sub = some t) : Moves s t := by
  obtain ⟨q, u, x, l, size, hpick, -, rfl⟩ := State.sendNext_some h
  have hu := SubTx.pick_state hpick
  exact ((modTx s n sub _ (by rw [hu]; rfl) (by rw [hu]; rfl)).trans (modPort _ n _ ⟨rfl, rfl⟩)).trans (emit _ _)

theorem serveSub (n sub k : Nat) : Moves s (State.serveSub n sub k s) := by
  induction k generalizing s with
  | zero => exact refl s
  | succ k ih =>
    unfold State.serveSub
    split
    · exact refl s
    · next h => exact (sendNext s h).trans (ih _)

theorem kickSub (n sub : Nat) : Moves s (s.kickSub n sub) := (serveSub s n sub _).ite (refl s)

theorem subSend (n sub q : Nat) (again : Bool) (x : Egr) : Moves s (s.subSend n sub q again x) := (modTx s n sub _ rfl rfl).trans (kickSub _ n sub)

theorem portSend (n : Nat) (k : Pkt) (again : Bool) : Moves s (s.portSend n k again) := by
  unfold State.portSend
  split
  · exact refl s
  · exact subSend s n _ _ _ _

theorem pump (ep cls n : Nat) : Moves s (State.pump ep cls n s) := by
  induction n generalizing s with
  | zero => exact refl s
  | succ n ih =>
    unfold State.pump
    dsimp only
    split
    · exact refl s
    · split
      · exact refl s
      · split
        · exact refl s
        · exact ((setFlow s _).trans (portSend _ _ _ _)).trans (ih _)

theorem pumpAll : Moves s s.pumpAll := foldl _ _ s fun s _ => pump s _ _ _

theorem unqueue (n : Nat) (f : Egr → Bool) : Moves s (s.unqueue n f) := by
  refine (modPort s n _ ⟨rfl, ?_⟩).ite (refl s)
  simp [Claims.pauses]

theorem requeue (n : Nat) (l : List (Nat × Bool × Egr)) : Moves s (s.requeue n l) := by
  refine foldl _ _ s fun s x => ?_
  split
  · exact portSend s n _ _
  · exact refl s

theorem resend (ep cls : Nat) (alone : Bool) (l : List Nat) : Moves s (State.resend ep cls alone l s) := by
  induction l generalizing s with
  | nil => exact refl s
  | cons q r ih =>
    unfold State.resend
    dsimp only
    split
    · exact ih s
    · split
      · exact ih s
      · exact ((((setFlow s _).trans (countResent _)).trans (unqueue _ _ _)).trans (portSend _ _ _ _)).trans (ih _)

theorem resendPort (n : Nat) : Moves s (s.resendPort n) := foldl _ _ s fun s _ => resend s _ _ _ _

theorem portLost (n : Nat) : Moves s (s.portLost n) := (refl s).ite (resendPort s n)

end Moves

end Sys2Proof.Machine
end

section
/-! SUPPORT. What work on an optical port can change, and what it leaves of every other port (R333 to R336). -/

namespace Sys2Proof.Machine

/-- From `s` to `t` nothing has changed but the ports, the flows, the inventory, the event log, the mark of the spare map and what has gone out. -/
structure PortWork (s t : State) : Prop where
  state : t = { s with
    optics := { s.optics with ports := t.optics.ports }, fab := { s.fab with flows := t.fab.flows, resent := t.fab.resent }, inv := t.inv, err := t.err
    link := { s.link with heldVec := t.link.heldVec }, out := t.out
    flash := { s.flash with logTimes := t.flash.logTimes, logPend := t.flash.logPend, mapDirty := t.flash.mapDirty } }
  count : t.optics.ports.length = s.optics.ports.length
  out : s.out <+: t.out

theorem Moves.portWork {s t : State} (h : Moves s t) : PortWork s t := ⟨h.state.trans (by rw [h.err, h.inv, h.flash]; rw [h.state]), h.count, h.out⟩

theorem Logged.portWork {s t : State} (h : Logged s t) : PortWork s t :=
  ⟨h.state.trans (by rw [h.inv, h.optics, h.fab]; rw [h.state]), congrArg (fun o => o.ports.length) h.optics, h.out⟩

namespace PortWork

theorem refl (s : State) : PortWork s s := (Moves.refl s).portWork

theorem trans {s t u : State} (h : PortWork s t) (k : PortWork t u) : PortWork s u :=
  ⟨k.state.trans (by rw [h.state]), k.count.trans h.count, h.out.trans k.out⟩

theorem ite {c : Prop} [Decidable c] {s a b : State} (ha : PortWork s a) (hb : PortWork s b) : PortWork s (if c then a else b) := by
  split
  · exact ha
  · exact hb

theorem foldl {α : Type} (f : State → α → State) (l : List α) (s : State) (hf : ∀ s x, PortWork s (f s x)) : PortWork s (l.foldl f s) := by
  induction l generalizing s with
  | nil => exact refl s
  | cons x r ih => exact (hf s x).trans (ih _)

section
variable {s t : State} (h : PortWork s t)
include h

theorem phase : t.phase = s.phase := by rw [h.state]
theorem boot : t.boot = s.boot := by rw [h.state]
theorem pins : t.pins = s.pins := by rw [h.state]
theorem mem : t.mem = s.mem := by rw [h.state]
theorem queues : t.queues = s.queues := by rw [h.state]
theorem parts : t.parts = s.parts := by rw [h.state]
theorem fabric : t.fabric = s.fabric := by rw [h.state]
theorem optics : t.optics = { s.optics with ports := t.optics.ports } := by rw [h.state]

end

variable (s : State)

theorem modPort (n : Nat) (f : Port → Port) : PortWork s (s.modPort n f) := ⟨rfl, s.ports_length_modPort n f, List.prefix_refl _⟩
theorem setInv (v : Inv) : PortWork s (s.setInv v) := ⟨rfl, rfl, List.prefix_refl _⟩
theorem mapChanged : PortWork s s.mapChanged := ⟨rfl, rfl, List.prefix_refl _⟩

end PortWork

/-- Every port but `n` is in `t` as in `s`, up to its counters and what waits for egress. -/
def OthersSame (n : Nat) (s t : State) : Prop := ∀ k, k ≠ n → Claims.SamePort (t.port k) (s.port k)

namespace OthersSame

variable {n : Nat}

theorem trans {s t u : State} (h : OthersSame n s t) (k : OthersSame n t u) : OthersSame n s u := fun j hj => samePort_trans (k j hj) (h j hj)

theorem of_moves {s t : State} (h : Moves s t) : OthersSame n s t := fun k _ => h.same k

theorem of_ports {s t : State} (h : t.optics.ports = s.optics.ports) : OthersSame n s t := fun k _ => by
  have hk : t.port k = s.port k := congrArg (fun l : List Port => l.getD k {}) h
  rw [hk]
  exact samePort_refl _

theorem of_logged {s t : State} (h : Logged s t) : OthersSame n s t := of_ports (congrArg Optics.ports h.optics)

theorem modPort (s : State) (f : Port → Port) : OthersSame n s (s.modPort n f) := fun k hk => by
  rw [State.port_modPort_ne s n k f hk]
  exact samePort_refl _

theorem ite {c : Prop} [Decidable c] {s a b : State} (ha : OthersSame n s a) (hb : OthersSame n s b) : OthersSame n s (if c then a else b) := by
  split
  · exact ha
  · exact hb

theorem foldl {α : Type} (f : State → α → State) (l : List α) (s : State) (hf : ∀ s x, OthersSame n s (f s x)) : OthersSame n s (l.foldl f s) := by
  induction l generalizing s with
  | nil => exact of_ports rfl
  | cons x r ih => exact (hf s x).trans (ih _)

end OthersSame

/-- The recording of an event leaves every port. -/
theorem Logged.port {s t : State} (h : Logged s t) (n : Nat) : t.port n = s.port n := by
  unfold State.port
  rw [h.optics]

/-- Work on port `n` alone. -/
structure WorkOn (n : Nat) (s t : State) : Prop where
  work : PortWork s t
  others : OthersSame n s t

namespace WorkOn

theorem refl (n : Nat) (s : State) : WorkOn n s s := ⟨.refl s, .of_ports rfl⟩

theorem trans {n : Nat} {s t u : State} (h : WorkOn n s t) (k : WorkOn n t u) : WorkOn n s u := ⟨h.work.trans k.work, h.others.trans k.others⟩

theorem ite {n : Nat} {c : Prop} [Decidable c] {s a b : State} (ha : WorkOn n s a) (hb : WorkOn n s b) : WorkOn n s (if c then a else b) :=
  ⟨ha.work.ite hb.work, ha.others.ite hb.others⟩

theorem foldl {n : Nat} {α : Type} (f : State → α → State) (l : List α) (s : State) (hf : ∀ s x, WorkOn n s (f s x)) : WorkOn n s (l.foldl f s) :=
  ⟨.foldl f l s fun s x => (hf s x).work, .foldl f l s fun s x => (hf s x).others⟩

theorem of_moves {n : Nat} {s t : State} (h : Moves s t) : WorkOn n s t := ⟨h.portWork, .of_moves h⟩

theorem of_logged {n : Nat} {s t : State} (h : Logged s t) : WorkOn n s t := ⟨h.portWork, .of_logged h⟩

theorem modPort (n : Nat) (s : State) (f : Port → Port) : WorkOn n s (s.modPort n f) := ⟨.modPort s n f, .modPort s f⟩

theorem setInv (n : Nat) (s : State) (v : Inv) : WorkOn n s (s.setInv v) := ⟨.setInv s v, .of_ports rfl⟩

variable (n : Nat) (s : State)

theorem subDown (sub : Nat) : WorkOn n s (s.subDown n sub) :=
  (((modPort n s _).trans (of_logged (Logged.raise _ _))).trans (of_moves (Moves.requeue _ _ _))).ite (refl n s)

theorem subsDown (l : List Nat) : WorkOn n s (l.foldl (fun s k => s.subDown n k) s) := foldl _ _ _ fun s k => subDown n s k

theorem portGone : WorkOn n s (s.portGone n) :=
  ((of_moves (Moves.unqueue s n _)).trans (subsDown n _ _)).trans (of_moves (Moves.portLost _ n))

theorem setDegraded (b : Bool) : WorkOn n s (s.setDegraded n b) := (refl n s).ite ((setInv n s _).trans (of_logged (Logged.capacityChange _ _ _ _)))

theorem fullAgain : WorkOn n s (s.fullAgain n) := (setDegraded n s false).ite (refl n s)

theorem subRise (sub : Nat) : WorkOn n s (s.subRise n sub) := by
  refine ite ?_ (refl n s)
  exact ((((modPort n s _).trans (fullAgain n _)).trans (of_logged (Logged.raise _ 0x0611))).trans
    ((refl n _).ite (of_moves (Moves.subSend _ n sub 0 false .gratuitous)))).trans (of_moves (Moves.pumpAll _))

theorem raiseSubs : WorkOn n s (s.raiseSubs n) := foldl _ _ _ fun s k => subRise n s k

theorem mapChanged : WorkOn n s s.mapChanged := ⟨.mapChanged s, .of_ports rfl⟩

theorem takeSpare (lane : Nat) (tx : Bool) : WorkOn n s (s.takeSpare n lane tx) := by
  refine trans ?_ (of_logged (Logged.capacityChange _ regOptInv noReg 0))
  refine trans ?_ (of_logged (Logged.raise _ 0x0612))
  refine trans ?_ (mapChanged n _)
  exact (modPort n s _).trans (setInv n _ _)

theorem halve (fault : BitVec 8) : WorkOn n s (s.halve n fault) := ((modPort n s _).trans (of_logged (Logged.raise _ 0x0613))).trans (setDegraded n _ true)

theorem placeLane (f : LaneFault) : WorkOn f.port.val s (s.placeLane f) := (takeSpare _ s _ _).ite (halve _ s _)

theorem laneDown (f : LaneFault) : WorkOn f.port.val s (s.laneDown f) :=
  ((modPort f.port.val s _).trans (subDown _ _ _)).trans (of_moves (Moves.portLost _ _))

end WorkOn

end Sys2Proof.Machine
end

section
/-! SUPPORT. An idle microsecond around the start-up step that it ends, and what the start-up steps leave of the boot block and the flash (R462 to R465). -/

namespace Sys2Proof.Machine

/-- A microsecond passes: the clock advances, and a combined raise of vector 64 may go out (R507). -/
theorem State.tick_logged (s : State) : Logged (s.setNowUs (s.nowUs + 1)) s.tick := by
  unfold State.tick
  dsimp only
  split
  · exact ((Logged.setErr _ _).trans (Logged.msix _ 64)).ite (Logged.refl _)
  · exact Logged.refl _

theorem State.rampIssue_effect (s : State) : s.rampIssue = s.setCores s.rampIssue.cores := by
  unfold State.rampIssue
  split <;> rfl

theorem State.ackLinks_effect (s : State) : s.ackLinks = { s with out := s.ackLinks.out, fabric := s.ackLinks.fabric } := by
  unfold State.ackLinks
  dsimp only
  split <;> rfl

theorem State.commitCloses_effect (s : State) : s.commitCloses = { s with fabric := s.commitCloses.fabric } := by
  unfold State.commitCloses
  split <;> rfl

/-- Outside a warm reset none completes (R375). -/
theorem State.finishWarm_of_ne (s : State) (h : s.phase ≠ .warm) : s.finishWarm = s := by
  unfold State.finishWarm
  simp [h]

/-- The state in which the start-up step of an idle microsecond begins. -/
def State.clocked (s : State) : State := s.tick.rampIssue

/-- Such a state differs from `s` in the clock, the cores, and what a raise of vector 64 can change. -/
theorem State.clocked_effect (s : State) :
    s.clocked = { s with
      nowUs := s.nowUs + 1, cores := s.clocked.cores, err := s.clocked.err, link := { s.link with heldVec := s.clocked.link.heldVec }
      out := s.clocked.out, flash := { s.flash with logTimes := s.clocked.flash.logTimes, logPend := s.clocked.flash.logPend } } := by
  have hr : s.clocked = s.tick.setCores s.clocked.cores := s.tick.rampIssue_effect
  rw [hr, s.tick_logged.state]
  rfl

theorem State.clocked_phase (s : State) : s.clocked.phase = s.phase := by rw [s.clocked_effect]
theorem State.clocked_boot (s : State) : s.clocked.boot = s.boot := by rw [s.clocked_effect]
theorem State.clocked_fabric (s : State) : s.clocked.fabric = s.fabric := by rw [s.clocked_effect]
theorem State.clocked_flash (s : State) :
    s.clocked.flash = { s.flash with logTimes := s.clocked.flash.logTimes, logPend := s.clocked.flash.logPend } := by rw [s.clocked_effect]

/-- An idle step of start-up: what its start-up step leaves, but for acknowledgements and closes of islands (R462; log entry 1). -/
theorem State.step_of_startUp {s b : State} (hp : s.pending = []) (hb : s.clocked.bootStep = b) (hw : b.phase ≠ .warm) :
    ∃ t : State, step s = .next t ∧ t = { b with fabric := t.fabric, out := t.out } := by
  have hidle : s.idle = b.ackLinks.commitCloses := by
    change s.clocked.bootStep.finishWarm.ackLinks.commitCloses = _
    rw [hb, b.finishWarm_of_ne hw]
  refine ⟨_, (step_of_idle hp).trans (congrArg Host.Outcome.next hidle), ?_⟩
  rw [State.commitCloses_effect, State.ackLinks_effect]

/-- A start-up step that halts does so with its code, MOD_READY low (R465). -/
theorem State.step_halts {s m : State} {code : Nat} (hp : s.pending = []) (hb : s.clocked.bootStep = m.haltBoot code) (hu : m.boot.updReq = false) :
    ∃ t : State, step s = .next t ∧ t.phase = .halted ∧ t.boot.halted = true ∧ t.boot.code = code ∧ t.pins.ready = false := by
  have he := m.haltBoot_effect code (.inl hu)
  obtain ⟨t, ht, hs⟩ := State.step_of_startUp hp hb (by rw [he]; exact RunPhase.noConfusion)
  rw [he] at hs
  exact ⟨t, ht, by rw [hs], by rw [hs], by rw [hs], by rw [hs]⟩

/-! The boot block and the flash over the loads of start-up step 3 (R479). -/

/-- From `s` to `t` the boot block, the banks and the fuses have not changed. -/
structure Loads (s t : State) : Prop where
  boot : t.boot = s.boot
  flash : t.flash = { s.flash with logTimes := t.flash.logTimes, logPend := t.flash.logPend }

namespace Loads

theorem refl (s : State) : Loads s s := ⟨rfl, rfl⟩

theorem trans {s t u : State} (h : Loads s t) (k : Loads t u) : Loads s u := ⟨k.boot.trans h.boot, k.flash.trans (by rw [h.flash])⟩

theorem foldl {α : Type} (f : State → α → State) (l : List α) (s : State) (hf : ∀ s x, Loads s (f s x)) : Loads s (l.foldl f s) := by
  induction l generalizing s with
  | nil => exact refl s
  | cons x r ih => exact (hf s x).trans (ih _)

theorem of_logged {s t : State} (h : Logged s t) : Loads s t := ⟨h.boot, h.flash⟩

/-- A spare lane goes to the port of an engine. -/
theorem spareLane (s : State) (e : Nat) (l : Option Nat) (f : Nat → Port → Port) :
    Loads s (match l with | some l => s.modPort (2 * e + l / 8) (f l) | none => s) := by
  split
  · exact ⟨rfl, rfl⟩
  · exact refl s

theorem setCores (s : State) (v : List PhysCore) : Loads s (s.setCores v) := ⟨rfl, rfl⟩
theorem setMem (s : State) (v : Mem) : Loads s (s.setMem v) := ⟨rfl, rfl⟩
theorem modLink (s : State) (l : Nat) (f : DieLink → DieLink) : Loads s (s.modLink l f) := ⟨rfl, rfl⟩
theorem modOptics (s : State) (f : Optics → Optics) : Loads s (s.modOptics f) := ⟨rfl, rfl⟩
theorem modFab (s : State) (f : Fab → Fab) : Loads s (s.modFab f) := ⟨rfl, rfl⟩

theorem loadMap (s : State) (m : SpareMap) : Loads s (s.loadMap m) := by
  unfold State.loadMap
  dsimp only
  refine trans ?_ (modFab _ _)
  refine trans ?_ (modOptics _ _)
  refine trans ?_ (foldl _ _ _ fun s x => (spareLane s x.2 x.1.1 _).trans (spareLane _ x.2 x.1.2 _))
  refine trans ?_ (foldl _ _ _ fun s x => modLink s x.1 _)
  exact (setCores s _).trans (setMem _ _)

theorem loadDrift (s : State) : Loads s s.loadDrift := by
  unfold State.loadDrift
  split
  · exact ⟨rfl, rfl⟩
  · exact of_logged (Logged.raise s 0x0B05)

end Loads

/-- The order of the banks depends on the banks alone (R473). -/
theorem Loads.bankOrder {s t : State} (h : Loads s t) : bankOrder t.flash = bankOrder s.flash := by rw [h.flash]; rfl

/-- Whether a bank passes its check depends on it and the fuses alone (R472). -/
theorem Loads.imageOk {s t : State} (h : Loads s t) (b : Bank) : imageOk t.flash b = imageOk s.flash b := by rw [h.flash]; rfl

theorem Loads.bank {s t : State} (h : Loads s t) (b : Bool) : t.flash.bank b = s.flash.bank b := by rw [h.flash]; rfl

/-- Where no bank passes its check none is chosen, each failing candidate raising an event (R473). -/
theorem State.chooseBank_of_none (l : List Bool) (s : State) (h : ∀ b, imageOk s.flash (s.flash.bank b) = false) :
    (s.chooseBank l).1 = none ∧ Logged s (s.chooseBank l).2 := by
  induction l generalizing s with
  | nil => exact ⟨rfl, Logged.refl s⟩
  | cons b r ih =>
    have hlog := Logged.raise s 0x0B02
    have hloads := Loads.of_logged hlog
    have hskip : s.chooseBank (b :: r) = (s.raise 0x0B02).chooseBank r := if_neg (by simp [h b])
    obtain ⟨hnone, hrest⟩ := ih (s.raise 0x0B02) fun b => by rw [hloads.bank, hloads.imageOk, h b]
    rw [hskip]
    exact ⟨hnone, hlog.trans hrest⟩

/-! The start-up step in progress (R462). -/

section
variable {s : State} {f : StartFacts} (hf : s.boot.facts = some f) (hp : s.phase = .boot)
include hf hp

theorem State.bootStep_two (h : s.boot.step = 2) : s.bootStep = s.bootRecords := by simp [State.bootStep, hf, hp, h]
theorem State.bootStep_three (h : s.boot.step = 3) : s.bootStep = s.bootImage := by simp [State.bootStep, hf, hp, h]
theorem State.bootStep_five (h : s.boot.step = 5) : s.bootStep = s.bootTrain f := by simp [State.bootStep, hf, hp, h]
theorem State.bootStep_nine (h : s.boot.step = 9) : s.bootStep = s.bootReady f := by simp [State.bootStep, hf, hp, h]

end

/-- Step 10: the module is ready (R40, R462). -/
theorem State.bootReady_effect (s : State) (f : StartFacts) :
    (s.bootReady f).phase = .run ∧ (s.bootReady f).boot.ready = true ∧ (s.bootReady f).boot.step = 10 ∧ (s.bootReady f).pins.ready = true := by
  let a := (s.setPhase .run).setBoot { s.boot with step := 10, ready := true, ms := f.readyMs, facts := none }
  let b := (a.setPins { a.pins with ready := true }).sbSet 4
  let c := (b.sendStatus.setClocks.restCores (List.range 800)).updateCap
  have hc : c.phase = b.phase ∧ c.boot = b.boot ∧ c.pins = b.pins := by
    have hrest (m : State) : (m.restCores (List.range 800)).phase = m.phase ∧ (m.restCores (List.range 800)).boot = m.boot ∧
        (m.restCores (List.range 800)).pins = m.pins := by
      unfold State.restCores
      split
      · exact ⟨rfl, rfl, rfl⟩
      · exact ⟨rfl, rfl, rfl⟩
    obtain ⟨h1, h2, h3⟩ := hrest b.sendStatus.setClocks
    have hs := b.sendStatus_effect
    have hphase : b.sendStatus.phase = b.phase := by rw [hs]; rfl
    have hboot : b.sendStatus.boot = b.boot := by rw [hs]; rfl
    have hpins : b.sendStatus.pins = b.pins := by rw [hs]; rfl
    exact ⟨h1.trans hphase, h2.trans hboot, h3.trans hpins⟩
  have hw : PortWork c (s.bootReady f) := PortWork.foldl _ _ _ fun m n => (WorkOn.raiseSubs n m).work.ite (PortWork.refl m)
  obtain ⟨hphase, hboot, hpins⟩ := hc
  exact ⟨hw.phase.trans hphase, by rw [hw.boot, hboot]; rfl, by rw [hw.boot, hboot]; rfl, by rw [hw.pins, hpins]; rfl⟩

end Sys2Proof.Machine
end

section
/-! SUPPORT. The start-up steps that can halt, and the choice of the bank (R462, R465, R473). -/

namespace Sys2Proof.Machine

theorem State.clocked_map (s : State) : s.clocked.flash.map? = s.flash.map? := by rw [s.clocked_flash]; rfl

theorem State.clocked_loads (s : State) : Loads s s.clocked := ⟨s.clocked_boot, s.clocked_flash⟩

/-- Step 3 without a valid spare map halts (R465). -/
theorem State.bootRecords_of_noMap {s : State} (h : s.flash.map? = none) : s.bootRecords = s.haltBoot 0x0B04 := by
  unfold State.bootRecords
  rw [h]

/-- Step 3 with no committed bank halts (R473). -/
theorem State.bootRecords_of_noBank {s : State} (hm : s.flash.map? ≠ none) (ha : s.flash.a.flag = false) (hb : s.flash.b.flag = false) :
    ∃ m : State, s.bootRecords = m.haltBoot 0x0B01 ∧ Loads s m := by
  obtain ⟨r, hr⟩ := Option.ne_none_iff_exists'.1 hm
  have hl : Loads s (s.loadMap r).loadDrift := (Loads.loadMap s r).trans (Loads.loadDrift _)
  have hnone : bankOrder (s.loadMap r).loadDrift.flash = [] := by rw [hl.bankOrder, bankOrder, ha, hb]
  refine ⟨_, ?_, hl⟩
  unfold State.bootRecords
  rw [hr]
  exact if_pos (by rw [hnone]; rfl)

/-- Step 4 with no bank that passes its check halts (R472, R473). -/
theorem State.bootImage_of_noImage {s : State} (ha : imageOk s.flash s.flash.a = false) (hb : imageOk s.flash s.flash.b = false) :
    ∃ m : State, s.bootImage = m.haltBoot 0x0B01 ∧ Loads s m := by
  have hall (b : Bool) : imageOk s.flash (s.flash.bank b) = false := by cases b <;> assumption
  obtain ⟨hnone, hlog⟩ := State.chooseBank_of_none (bankOrder s.flash) s hall
  refine ⟨_, ?_, Loads.of_logged hlog⟩
  unfold State.bootImage
  rw [show s.chooseBank (bankOrder s.flash) = (none, (s.chooseBank (bankOrder s.flash)).2) from Prod.ext hnone rfl]

/-- Step 4 takes the first candidate when it passes (R473). -/
theorem State.bootImage_of_first {s : State} {b : Bool} {r : List Bool} (ho : bankOrder s.flash = b :: r) (hb : imageOk s.flash (s.flash.bank b) = true)
    (hu : s.boot.updReq = false) : s.bootImage = s.setBoot { s.boot with step := 4, bank := b, gen := imageGen (s.flash.bank b).image } := by
  have hchoose : s.chooseBank (b :: r) = (some b, s) := if_pos hb
  unfold State.bootImage
  rw [ho, hchoose]
  exact if_neg (by simp [hu])

/-- With two banks that pass, step 4 takes the one of the higher GENERATION, bank A first of equals (R473). -/
theorem State.bootImage_of_both {s : State} (fa : s.flash.a.flag = true) (fb : s.flash.b.flag = true) (ha : imageOk s.flash s.flash.a = true)
    (hb : imageOk s.flash s.flash.b = true) (hu : s.boot.updReq = false) :
    s.bootImage = s.setBoot { s.boot with
      step := 4, bank := decide (imageGen s.flash.a.image < imageGen s.flash.b.image)
      gen := max (imageGen s.flash.a.image) (imageGen s.flash.b.image) } := by
  have ho : bankOrder s.flash = if imageGen s.flash.a.image < imageGen s.flash.b.image then [true, false] else [false, true] := by rw [bankOrder, fa, fb]
  by_cases hlt : imageGen s.flash.a.image < imageGen s.flash.b.image
  · rw [State.bootImage_of_first (ho.trans (if_pos hlt)) hb hu, decide_eq_true hlt, Nat.max_eq_right (Nat.le_of_lt hlt)]
    rfl
  · rw [State.bootImage_of_first (ho.trans (if_neg hlt)) ha hu, decide_eq_false hlt, Nat.max_eq_left (Nat.le_of_not_lt hlt)]
    rfl

/-- A die link that has failed after training halts start-up (R465). -/
theorem State.bootTrain_of_failed {s : State} {f : StartFacts} (h : ∃ l ∈ s.fabric.links, l.failed = true) (hpc : f.pcFail = []) (hlink : f.linkFail = []) :
    s.bootTrain f = s.haltBoot 0x0B0A := by
  unfold State.bootTrain
  rw [hpc, hlink]
  exact if_pos (List.any_eq_true.2 h)

end Sys2Proof.Machine
end

section
open Sys2Proof Sys2Proof.Machine

namespace Sys2Proof.Claims

/-- Settles O24: the idle step ends one start-up step, and each clause names the one that ends. -/
theorem startUpHaltsOrReachesReady : Obligations.StartUpHaltsOrReachesReady := by
  intro s f hp hboot hf hu halts
  have hc := s.clocked_loads
  have hphase : s.clocked.phase = .boot := s.clocked_phase.trans hboot
  have hfacts : s.clocked.boot.facts = some f := by rw [hc.boot, hf]
  have hreq : s.clocked.boot.updReq = false := by rw [hc.boot, hu]
  have hstep {k : Nat} (h : s.boot.step = k) : s.clocked.boot.step = k := by rw [hc.boot, h]
  have hbank : s.clocked.flash.a = s.flash.a ∧ s.clocked.flash.b = s.flash.b := ⟨hc.bank false, hc.bank true⟩
  obtain ⟨hA, hB⟩ := hbank
  refine ⟨fun h2 hmap => ?_, fun h2 hmap ha hb => ?_, fun h3 ha hb => ?_, fun h3 fa fb ha hb => ?_, fun h5 hfail hpc hlink => ?_, fun h9 => ?_⟩
  · exact State.step_halts hp ((State.bootStep_two hfacts hphase (hstep h2)).trans (State.bootRecords_of_noMap (by rw [s.clocked_map, hmap]))) hreq
  · obtain ⟨m, hm, hl⟩ := State.bootRecords_of_noBank (s := s.clocked) (by rwa [s.clocked_map]) (by rw [hA, ha]) (by rw [hB, hb])
    exact State.step_halts hp ((State.bootStep_two hfacts hphase (hstep h2)).trans hm) (by rw [hl.boot, hreq])
  · obtain ⟨m, hm, hl⟩ := State.bootImage_of_noImage (s := s.clocked) (by rw [hc.imageOk, hA, ha]) (by rw [hc.imageOk, hB, hb])
    exact State.step_halts hp ((State.bootStep_three hfacts hphase (hstep h3)).trans hm) (by rw [hl.boot, hreq])
  · have himage := State.bootImage_of_both (s := s.clocked) (by rw [hA, fa]) (by rw [hB, fb]) (by rw [hc.imageOk, hA, ha]) (by rw [hc.imageOk, hB, hb]) hreq
    rw [hA, hB] at himage
    obtain ⟨t, ht, he⟩ := State.step_of_startUp hp ((State.bootStep_three hfacts hphase (hstep h3)).trans himage) (by simp [hphase])
    exact ⟨t, ht, by rw [he]; rfl, by rw [he]; rfl, by rw [he]; rfl⟩
  · have hlinks : ∃ l ∈ s.clocked.fabric.links, l.failed = true := by rwa [s.clocked_fabric]
    exact State.step_halts hp ((State.bootStep_five hfacts hphase (hstep h5)).trans (State.bootTrain_of_failed hlinks hpc hlink)) hreq
  · obtain ⟨hrun, hready, hten, hpin⟩ := s.clocked.bootReady_effect f
    obtain ⟨t, ht, he⟩ := State.step_of_startUp hp (State.bootStep_nine hfacts hphase (hstep h9)) (by simp [hrun])
    exact ⟨t, ht, by rw [he, hrun], by rw [he, hready], by rw [he, hten], by rw [he, hpin]⟩

end Sys2Proof.Claims
end

section
/-! SUPPORT. Sub-ports that go down (R296, R334, R345), and the fields of a port that the movement of packets leaves. -/

namespace Sys2Proof.Machine

/-- Bit `i` of the mask of sub-port `k`. -/
theorem getLsbD_bit8 (k i : Nat) (hi : i < 8) : (1#8 <<< k).getLsbD i = decide (i = k) := by
  simp only [BitVec.getLsbD_shiftLeft, BitVec.getLsbD_one]
  by_cases h : i = k
  · simp [h]; omega
  · simp [h]; omega

/-- A bit of the sub-ports that are up once sub-port `k` is down. -/
theorem getLsbD_and_not_bit8 (x : BitVec 8) (k i : Nat) (hi : i < 8) : (x &&& ~~~(1#8 <<< k)).getLsbD i = (x.getLsbD i && !decide (i = k)) := by
  rw [BitVec.getLsbD_and, BitVec.getLsbD_not, getLsbD_bit8 k i hi]
  simp [hi]

/-- Taking a sub-port that is down out of those that are up. -/
theorem and_not_bit8_of_clear (x : BitVec 8) (k : Nat) (h : x.getLsbD k = false) : x &&& ~~~(1#8 <<< k) = x := by
  refine BitVec.eq_of_getLsbD_eq fun i hi => ?_
  rw [getLsbD_and_not_bit8 x k i hi]
  by_cases hk : i = k
  · rw [hk, h]; rfl
  · simp [hk]

/-- A field of a port that the movement of packets leaves. -/
theorem Moves.field {α : Type} {s t : State} (h : Moves s t) (n : Nat) (f : Port → α) (hf : ∀ x c u, f { x with cnt := c, tx := u } = f x) :
    f (t.port n) = f (s.port n) := samePort_field (h.same n) f hf

/-- Port `p` once sub-port `sub` has gone down (R345). -/
def Port.dropSub (p : Port) (sub : Nat) : Port :=
  { p with subUp := p.subUp &&& ~~~(1#8 <<< sub), evLink := true, cnt := updAt p.cnt 12 fun c => sat32 c 1, tx := updAt p.tx sub fun _ => {} }

theorem State.subDown_of_down (s : State) (n sub : Nat) (h : (s.port n).subUp.getLsbD sub = false) : s.subDown n sub = s := if_neg (by simp [h])

theorem State.subDown_of_up (s : State) (n sub : Nat) (h : (s.port n).subUp.getLsbD sub = true) :
    s.subDown n sub = ((s.modPort n fun p => p.dropSub sub).raise 0x0610).requeue n ((s.port n).txOf sub).queue := if_pos h

/-- A sub-port that goes down raises its events, and its bit is clear (R344, R345). -/
theorem State.subDown_up_effect (s : State) (n sub : Nat) (hn : n < s.optics.ports.length) (h : (s.port n).subUp.getLsbD sub = true) :
    Claims.SamePort ((s.subDown n sub).port n) ((s.port n).dropSub sub) ∧ (s.subDown n sub).err.lastCode = 0x0610 := by
  have hmoves := Moves.requeue ((s.modPort n fun p => p.dropSub sub).raise 0x0610) n ((s.port n).txOf sub).queue
  have hport : ((s.modPort n fun p => p.dropSub sub).raise 0x0610).port n = (s.port n).dropSub sub := by
    rw [(Logged.raise _ 0x0610).port n, s.port_modPort_self n _ hn]
  rw [s.subDown_of_up n sub h]
  exact ⟨hport ▸ hmoves.same n, (congrArg Err.lastCode hmoves.err).trans (State.raise_lastCode _ _)⟩

theorem State.subDown_subUp (s : State) (n sub : Nat) (hn : n < s.optics.ports.length) :
    ((s.subDown n sub).port n).subUp = (s.port n).subUp &&& ~~~(1#8 <<< sub) := by
  cases h : (s.port n).subUp.getLsbD sub with
  | true => exact samePort_field (s.subDown_up_effect n sub hn h).1 Port.subUp fun _ _ _ => rfl
  | false => rw [s.subDown_of_down n sub h, and_not_bit8_of_clear _ _ h]

/-- A field of port `n` that neither packets nor the state of its sub-ports change. -/
theorem State.subDown_field {α : Type} (s : State) (n sub : Nat) (hn : n < s.optics.ports.length) (f : Port → α)
    (hf : ∀ x c u b e, f { x with cnt := c, tx := u, subUp := b, evLink := e } = f x) : f ((s.subDown n sub).port n) = f (s.port n) := by
  cases h : (s.port n).subUp.getLsbD sub with
  | true =>
    have hsame := samePort_field (s.subDown_up_effect n sub hn h).1 f fun x c u => hf x c u x.subUp x.evLink
    exact hsame.trans (hf (s.port n) _ _ _ _)
  | false => rw [s.subDown_of_down n sub h]

/-- Sub-ports of port `n` go down one after the other. -/
def State.subsDown (s : State) (n : Nat) (l : List Nat) : State := l.foldl (fun s k => s.subDown n k) s

theorem State.subsDown_cons (s : State) (n k : Nat) (l : List Nat) : s.subsDown n (k :: l) = (s.subDown n k).subsDown n l := rfl

theorem State.subsDown_subUp (s : State) (n : Nat) (l : List Nat) (hn : n < s.optics.ports.length) (i : Nat) (hi : i < 8) :
    ((s.subsDown n l).port n).subUp.getLsbD i = ((s.port n).subUp.getLsbD i && !decide (i ∈ l)) := by
  induction l generalizing s with
  | nil => simp [State.subsDown]
  | cons k r ih =>
    rw [State.subsDown_cons, ih (s.subDown n k) (by rwa [(WorkOn.subDown n s k).work.count]), s.subDown_subUp n k hn, getLsbD_and_not_bit8 _ _ _ hi]
    by_cases h : i = k
    · simp [h]
    · simp [h]

/-- The mark and the code that a sub-port leaves as it goes down (R344, R345). -/
def State.DownTold (s : State) (n : Nat) : Prop := (s.port n).evLink = true ∧ s.err.lastCode = 0x0610

theorem State.subDown_told (s : State) (n k : Nat) (hn : n < s.optics.ports.length) (h : s.DownTold n ∨ (s.port n).subUp.getLsbD k = true) :
    (s.subDown n k).DownTold n := by
  cases hk : (s.port n).subUp.getLsbD k with
  | true =>
    obtain ⟨hsame, hcode⟩ := s.subDown_up_effect n k hn hk
    exact ⟨samePort_field hsame Port.evLink fun _ _ _ => rfl, hcode⟩
  | false =>
    rw [s.subDown_of_down n k hk]
    exact h.resolve_right (by simp [hk])

theorem State.subsDown_told (s : State) (n : Nat) (l : List Nat) (hn : n < s.optics.ports.length)
    (h : s.DownTold n ∨ ∃ k ∈ l, (s.port n).subUp.getLsbD k = true) : (s.subsDown n l).DownTold n := by
  induction l generalizing s with
  | nil => exact h.resolve_right (by simp)
  | cons j r ih =>
    rw [State.subsDown_cons]
    have hn' : n < (s.subDown n j).optics.ports.length := by rwa [(WorkOn.subDown n s j).work.count]
    refine ih (s.subDown n j) hn' ?_
    cases hj : (s.port n).subUp.getLsbD j with
    | true => exact .inl (s.subDown_told n j hn (.inr hj))
    | false =>
      rw [s.subDown_of_down n j hj]
      obtain ht | ⟨k, hk, hup⟩ := h
      · exact .inl ht
      · obtain rfl | hr := List.mem_cons.1 hk
        · rw [hj] at hup
          cases hup
        · exact .inr ⟨k, hr, hup⟩

/-- A port with a sub-port up has one of its eight up. -/
theorem exists_up_of_ne_zero {x : BitVec 8} (h : x ≠ 0) : ∃ k ∈ List.range 8, x.getLsbD k = true := by
  by_contra hno
  refine h (BitVec.eq_of_getLsbD_eq fun i hi => ?_)
  change x.getLsbD i = (0#8).getLsbD i
  rw [BitVec.getLsbD_zero]
  exact Bool.eq_false_iff.2 fun hb => hno ⟨i, List.mem_range.2 hi, hb⟩

/-- The state in which the packets of a port that is gone are sent again (R296). -/
def State.portSilent (s : State) (n : Nat) : State := (s.unqueue n fun _ => true).subsDown n (List.range 8)

theorem State.portGone_eq (s : State) (n : Nat) : s.portGone n = (s.portSilent n).portLost n := rfl

theorem State.portSilent_subUp (s : State) (n : Nat) (hn : n < s.optics.ports.length) : ((s.portSilent n).port n).subUp = 0 := by
  have hmoves := Moves.unqueue s n fun _ => true
  refine BitVec.eq_of_getLsbD_eq fun i hi => ?_
  rw [State.portSilent, State.subsDown_subUp _ _ _ (by rwa [hmoves.count]) i hi]
  simp [hi]

theorem State.portSilent_told (s : State) (n : Nat) (hn : n < s.optics.ports.length) (h : (s.port n).subUp ≠ 0) : (s.portSilent n).DownTold n := by
  have hmoves := Moves.unqueue s n fun _ => true
  refine State.subsDown_told _ n _ (by rwa [hmoves.count]) (.inr ?_)
  rw [hmoves.subUp n]
  exact exists_up_of_ne_zero h

theorem State.portGone_subUp (s : State) (n : Nat) (hn : n < s.optics.ports.length) : ((s.portGone n).port n).subUp = 0 :=
  ((Moves.portLost (s.portSilent n) n).subUp n).trans (s.portSilent_subUp n hn)

theorem State.portGone_told (s : State) (n : Nat) (hn : n < s.optics.ports.length) (h : (s.port n).subUp ≠ 0) : (s.portGone n).DownTold n := by
  have hmoves := Moves.portLost (s.portSilent n) n
  obtain ⟨hlink, hcode⟩ := s.portSilent_told n hn h
  exact ⟨(hmoves.field n Port.evLink fun _ _ _ => rfl).trans hlink, (congrArg Err.lastCode hmoves.err).trans hcode⟩

end Sys2Proof.Machine
end

section
/-! SUPPORT. Flows over the resending of a port's packets, and the packet that a sub-port keeps or sends (R293 to R296, R321, R325). -/

namespace Sys2Proof.Machine

/-! Flows (R292, R293). -/

theorem State.flow_key (s : State) (ep cls : Nat) : (s.flow ep cls).ep = ep ∧ (s.flow ep cls).cls = cls := by
  unfold State.flow
  cases h : s.fab.flows.find? fun f => f.ep == ep && f.cls == cls with
  | none => exact ⟨rfl, rfl⟩
  | some f => simpa using List.find?_some h

theorem State.flow_setFlow_self (s : State) (f : Flow) : (s.setFlow f).flow f.ep f.cls = f := by
  unfold State.flow State.setFlow
  rw [show (s.modFab fun b => { b with flows := f :: b.flows.filter fun g => !(g.ep == f.ep && g.cls == f.cls) }).fab.flows =
    f :: s.fab.flows.filter fun g => !(g.ep == f.ep && g.cls == f.cls) from rfl, List.find?_cons_of_pos (by simp)]
  rfl

theorem State.flow_setFlow_ne (s : State) (f : Flow) (ep cls : Nat) (h : ¬ (ep = f.ep ∧ cls = f.cls)) : (s.setFlow f).flow ep cls = s.flow ep cls := by
  have hskip : (s.fab.flows.filter fun g => !(g.ep == f.ep && g.cls == f.cls)).find? (fun g => g.ep == ep && g.cls == cls) =
      s.fab.flows.find? fun g => g.ep == ep && g.cls == cls := by
    rw [List.find?_filter]
    congr 1
    funext g
    by_cases hg : g.ep = ep ∧ g.cls = cls
    · obtain ⟨rfl, rfl⟩ := hg
      simpa using not_and_or.1 h
    · have hno : (g.ep == ep && g.cls == cls) = false := by simpa using not_and.1 hg
      simp [hno]
  unfold State.flow State.setFlow
  rw [show (s.modFab fun b => { b with flows := f :: b.flows.filter fun g => !(g.ep == f.ep && g.cls == f.cls) }).fab.flows =
    f :: s.fab.flows.filter fun g => !(g.ep == f.ep && g.cls == f.cls) from rfl,
    List.find?_cons_of_neg (by simpa using fun a b => h ⟨a.symm, b.symm⟩), hskip]

theorem State.flow_congr {s t : State} (h : t.fab.flows = s.fab.flows) (ep cls : Nat) : t.flow ep cls = s.flow ep cls := by
  unfold State.flow
  rw [h]

/-! The egress leaves the transport (R321, R325). -/

theorem State.sendNext_fab {s t : State} {n sub : Nat} (h : s.sendNext n sub = some t) : t.fab = s.fab := by
  obtain ⟨q, u, x, l, size, -, -, rfl⟩ := State.sendNext_some h
  rfl

theorem State.serveSub_fab (n sub k : Nat) (s : State) : (State.serveSub n sub k s).fab = s.fab := by
  induction k generalizing s with
  | zero => rfl
  | succ k ih =>
    unfold State.serveSub
    split
    · rfl
    · next h => exact (ih _).trans (State.sendNext_fab h)

theorem State.kickSub_fab (s : State) (n sub : Nat) : (s.kickSub n sub).fab = s.fab := by
  unfold State.kickSub
  split
  · exact State.serveSub_fab _ _ _ s
  · rfl

theorem State.portSend_fab (s : State) (n : Nat) (k : Pkt) (again : Bool) : (s.portSend n k again).fab = s.fab := by
  unfold State.portSend
  split
  · rfl
  · exact State.kickSub_fab _ _ _

theorem State.unqueue_fab (s : State) (n : Nat) (f : Egr → Bool) : (s.unqueue n f).fab = s.fab := by
  unfold State.unqueue
  split <;> rfl

theorem State.requeue_fab (s : State) (n : Nat) (l : List (Nat × Bool × Egr)) : (s.requeue n l).fab = s.fab := by
  unfold State.requeue
  induction l generalizing s with
  | nil => rfl
  | cons x r ih =>
    rw [List.foldl_cons, ih]
    split
    · exact s.portSend_fab _ _ _
    · rfl

theorem State.subDown_fab (s : State) (n sub : Nat) : (s.subDown n sub).fab = s.fab := by
  cases h : (s.port n).subUp.getLsbD sub with
  | true => rw [s.subDown_of_up n sub h, State.requeue_fab, (Logged.raise _ 0x0610).fab]; rfl
  | false => rw [s.subDown_of_down n sub h]

theorem State.subsDown_fab (s : State) (n : Nat) (l : List Nat) : (s.subsDown n l).fab = s.fab := by
  induction l generalizing s with
  | nil => rfl
  | cons k r ih => rw [State.subsDown_cons, ih, State.subDown_fab]

theorem State.portSilent_fab (s : State) (n : Nat) : (s.portSilent n).fab = s.fab := (State.subsDown_fab _ _ _).trans (s.unqueue_fab _ _)

/-! Resending keeps the packets that are not acknowledged (R296). -/

/-- Every flow has the same unacknowledged SEQs in `t` as in `s`. -/
def SameSeqs (s t : State) : Prop := ∀ ep cls, (t.flow ep cls).unacked.map (·.1) = (s.flow ep cls).unacked.map (·.1)

theorem SameSeqs.of_flows {s t : State} (h : t.fab.flows = s.fab.flows) : SameSeqs s t := fun ep cls => by rw [State.flow_congr h]

theorem SameSeqs.trans {s t u : State} (h : SameSeqs s t) (k : SameSeqs t u) : SameSeqs s u := fun ep cls => (k ep cls).trans (h ep cls)

theorem SameSeqs.setFlow (s : State) (f : Flow) (h : f.unacked.map (·.1) = (s.flow f.ep f.cls).unacked.map (·.1)) : SameSeqs s (s.setFlow f) := by
  intro ep cls
  by_cases hk : ep = f.ep ∧ cls = f.cls
  · rw [hk.1, hk.2, s.flow_setFlow_self, h]
  · rw [s.flow_setFlow_ne f ep cls hk]

theorem SameSeqs.foldl {α : Type} (f : State → α → State) (l : List α) (s : State) (hf : ∀ s x, SameSeqs s (f s x)) : SameSeqs s (l.foldl f s) := by
  induction l generalizing s with
  | nil => exact .of_flows rfl
  | cons x r ih => exact (hf s x).trans (ih _)

/-- What handing packet `k` of a flow, SEQ `q`, from port `p` to port `p'` leaves (R295, R296). -/
def State.handOver (s : State) (ep cls : Nat) (alone : Bool) (q p p' rto : Nat) (k : Pkt) : State :=
  let f := s.flow ep cls
  let s := s.setFlow { f with unacked := f.unacked.map fun u => if u.1 = q then (q, p', if alone then min 1600 (2 * rto) else rto, k) else u }
  ((s.modFab fun b => { b with resent := sat32 b.resent 1 }).unqueue p fun x => x == .pft k).portSend p' k (!alone)

theorem State.resend_cons (ep cls : Nat) (alone : Bool) (q : Nat) (r : List Nat) (s : State) :
    State.resend ep cls alone (q :: r) s =
      match (if s.fab.valid then (s.flow ep cls).unacked.find? fun u => u.1 == q else none) with
      | none => State.resend ep cls alone r s
      | some (_, p, rto, k) =>
        match s.pickPort (portAxis s.fab.axis p) (some p) with
        | none => State.resend ep cls alone r s
        | some p' => State.resend ep cls alone r (s.handOver ep cls alone q p p' rto k) := rfl

/-- The flow of a packet that is handed over, as it is afterwards. -/
theorem State.handOver_flows (s : State) (ep cls : Nat) (alone : Bool) (q p p' rto : Nat) (k : Pkt) :
    (s.handOver ep cls alone q p p' rto k).fab.flows = (s.setFlow { s.flow ep cls with
      unacked := (s.flow ep cls).unacked.map fun u => if u.1 = q then (q, p', if alone then min 1600 (2 * rto) else rto, k) else u }).fab.flows := by
  unfold State.handOver
  rw [State.portSend_fab, State.unqueue_fab]
  rfl

theorem SameSeqs.resend (ep cls : Nat) (alone : Bool) (l : List Nat) (s : State) : SameSeqs s (State.resend ep cls alone l s) := by
  induction l generalizing s with
  | nil => exact .of_flows rfl
  | cons q r ih =>
    rw [State.resend_cons]
    split
    · exact ih s
    · split
      · exact ih s
      · refine .trans ?_ (ih _)
        refine .trans (.setFlow s _ ?_) (.of_flows (s.handOver_flows ep cls alone q _ _ _ _))
        obtain ⟨hep, hcls⟩ := s.flow_key ep cls
        rw [hep, hcls, List.map_map]
        refine List.map_congr_left fun u _ => ?_
        by_cases hu : u.1 = q
        · simp [hu]
        · simp [hu]

theorem SameSeqs.portLost (s : State) (n : Nat) : SameSeqs s (s.portLost n) := by
  unfold State.portLost
  split
  · exact .of_flows rfl
  · unfold State.resendPort
    exact .foldl _ _ s fun s f => .resend _ _ _ _ s

/-- A port that is gone keeps every unacknowledged packet (R296). -/
theorem SameSeqs.portGone (s : State) (n : Nat) : SameSeqs s (s.portGone n) :=
  .trans (.of_flows (congrArg Fab.flows (s.portSilent_fab n))) (.portLost _ n)

/-! The frame that a sub-port is handed (R321, R325). -/


/-- Taking the first frame of a queue out. -/
theorem SubTx.pop_queue (t : SubTx) (q : Nat) : (t.pop q).queue = t.queue.eraseP fun x => x.1 == q := by
  unfold SubTx.pop
  rw [List.eraseP_eq_eraseIdx]
  cases h : t.queue.findIdx? fun x => x.1 == q with
  | none => simp
  | some i => rfl

/-- An element of a list is the first that `p` names, or stays when that one is taken out. -/
theorem mem_eraseP_or {α : Type} {p : α → Bool} {l : List α} {y z : α} (hz : l.find? p = some z) (hy : y ∈ l) : y = z ∨ y ∈ l.eraseP p := by
  induction l with
  | nil => cases hy
  | cons a r ih =>
    by_cases ha : p a = true
    · rw [List.find?_cons_of_pos ha] at hz
      rw [List.eraseP_cons_of_pos ha]
      obtain rfl | hr := List.mem_cons.1 hy
      · exact .inl (Option.some.inj hz)
      · exact .inr hr
    · rw [List.find?_cons_of_neg ha] at hz
      rw [List.eraseP_cons_of_neg ha]
      obtain rfl | hr := List.mem_cons.1 hy
      · exact .inr List.mem_cons_self
      · exact (ih hz hr).imp id (List.mem_cons_of_mem _)

theorem SubTx.mem_pop {t : SubTx} {q : Nat} {x : Egr} {y : Nat × Bool × Egr} (hx : t.head? q = some x) (hy : y ∈ t.queue) :
    y.2.2 = x ∨ y ∈ (t.pop q).queue := by
  obtain ⟨z, hz, rfl⟩ := Option.map_eq_some_iff.1 hx
  rw [SubTx.pop_queue]
  exact (mem_eraseP_or hz hy).imp (fun h => by rw [h]) id

/-- The transmitter `sub` of a port of eight, after an update of it. -/
theorem State.txOf_modTx_self (s : State) (n sub : Nat) (f : SubTx → SubTx) (hn : n < s.optics.ports.length) (hs : sub < (s.port n).tx.length) :
    ((s.modTx n sub f).port n).txOf sub = f ((s.port n).txOf sub) := by
  unfold State.modTx
  rw [State.port_modPort_self s n _ hn]
  exact (getD_updAt _ _ _ _ _).trans (if_pos ⟨rfl, hs⟩)

end Sys2Proof.Machine
end

section
/-! SUPPORT. The packet that a port hands to another as it goes down (R295, R296), and the address that a sub-port announces (R322). -/

namespace Sys2Proof.Machine

/-- A fold that keeps the best so far or takes the next ends with an element of its list, when that has any. -/
theorem foldl_choose {α : Type} (f : Option α → α → Option α) (h0 : ∀ k, f none k = some k) (h1 : ∀ m k, f (some m) k = some k ∨ f (some m) k = some m)
    (l : List α) : (∀ x, l.foldl f none = some x → x ∈ l) ∧ (l ≠ [] → (l.foldl f none).isSome = true) := by
  have hsome (l : List α) (m : α) : ∃ x, l.foldl f (some m) = some x ∧ (x = m ∨ x ∈ l) := by
    induction l generalizing m with
    | nil => exact ⟨m, rfl, .inl rfl⟩
    | cons k r ih =>
      obtain h | h := h1 m k
      · obtain ⟨x, hx, hm⟩ := ih k
        exact ⟨x, by rw [List.foldl_cons, h, hx], .inr (List.mem_cons.2 hm)⟩
      · obtain ⟨x, hx, hm⟩ := ih m
        exact ⟨x, by rw [List.foldl_cons, h, hx], hm.imp id (List.mem_cons_of_mem _)⟩
  cases l with
  | nil => exact ⟨nofun, fun h => absurd rfl h⟩
  | cons k r =>
    obtain ⟨x, hx, hm⟩ := hsome r k
    rw [List.foldl_cons, h0, hx]
    exact ⟨fun y hy => Option.some.inj hy ▸ List.mem_cons.2 hm, fun _ => rfl⟩

/-- A port with a sub-port up hands a packet to one of its eight (R321). -/
theorem State.pickSub_some (s : State) (n : Nat) (h : (s.port n).subUp ≠ 0) : ∃ sub, s.pickSub n = some sub ∧ sub < 8 := by
  obtain ⟨k, hk, hup⟩ := exists_up_of_ne_zero h
  have hchoose (m k : Nat) (b : Option Nat) (hb : b = some m) (c : Prop) [Decidable c] : (if c then some k else b) = some k ∨ (if c then some k else b) = some m := by
    split
    · exact .inl rfl
    · exact .inr hb
  obtain ⟨h1, h2⟩ := foldl_choose (fun b k => match b with | none => some k | some m => if s.queuedBytes n k < s.queuedBytes n m then some k else b)
    (fun k => rfl) (fun m k => hchoose m k _ rfl (s.queuedBytes n k < s.queuedBytes n m))
    ((List.range 8).filter fun k => (s.port n).subUp.getLsbD k)
  obtain ⟨sub, hsub⟩ := Option.isSome_iff_exists.1 (h2 (List.ne_nil_of_mem (List.mem_filter.2 ⟨hk, hup⟩)))
  exact ⟨sub, hsub, List.mem_range.1 (List.mem_filter.1 (h1 sub hsub)).1⟩

/-- The least loaded of a list is one of its ports (R295). -/
theorem State.leastLoaded_mem (s : State) (l : List Nat) (m : Nat) (h : s.leastLoaded l = some m) : m ∈ l := by
  have hchoose (m k : Nat) (b : Option Nat) (hb : b = some m) (c : Prop) [Decidable c] : (if c then some k else b) = some k ∨ (if c then some k else b) = some m := by
    split
    · exact .inl rfl
    · exact .inr hb
  exact (foldl_choose _ (fun k => rfl) (fun m k => hchoose m k _ rfl (s.portLoad k < s.portLoad m)) l).1 m h

theorem State.leastLoaded_congr {s t : State} (h : t.fab.flows = s.fab.flows) (l : List Nat) : t.leastLoaded l = s.leastLoaded l := by
  have hload (n : Nat) : t.portLoad n = s.portLoad n := by rw [State.portLoad, State.portLoad, h]
  unfold State.leastLoaded
  simp only [hload]

/-! The frame that a sub-port is handed (R321, R325). -/

/-- Frame `x` waits on a sub-port, or has gone out from it. -/
def State.Carried (s : State) (n sub : Nat) (k : Pkt) : Prop :=
  (∃ e, Out.pft e k ∈ s.out) ∨ ∃ y ∈ ((s.port n).txOf sub).queue, y.2.2 = .pft k

/-- The transmitter of a sub-port that has sent a frame (R325). -/
theorem State.sendNext_effect {s t : State} {n sub : Nat} (hn : n < s.optics.ports.length) (hs : sub < (s.port n).tx.length) (h : s.sendNext n sub = some t) :
    ∃ q u x, ((s.port n).txOf sub).pick (s.port n) s.nowUs (s.egrBytes n) = some (q, u) ∧ u.head? q = some x ∧
      ((t.port n).txOf sub).queue = (u.pop q).queue ∧ t.out = s.out ++ [s.egrOut n sub q x] := by
  obtain ⟨q, u, x, l, size, hpick, hx, rfl⟩ := State.sendNext_some h
  refine ⟨q, u, x, hpick, hx, ?_, rfl⟩
  have hself := s.txOf_modTx_self n sub (fun _ => { u.pop q with sent := l }) hn hs
  have hm : n < (s.modTx n sub fun _ => { u.pop q with sent := l }).optics.ports.length := by rwa [State.modTx, State.ports_length_modPort]
  rw [show ∀ m o, (State.emit m o).port n = m.port n from fun _ _ => rfl, State.port_modPort_self _ n _ hm]
  have hqueue := congrArg SubTx.queue hself
  exact hqueue

/-- The number of transmitters of a port that packets have passed. -/
theorem Moves.tx_length {s t : State} (h : Moves s t) (n : Nat) : (t.port n).tx.length = (s.port n).tx.length := by
  have hlen := congrArg List.length (h.same n).2
  simpa [Claims.pauses] using hlen

theorem State.sendNext_carried {s t : State} {n sub : Nat} {k : Pkt} (hn : n < s.optics.ports.length) (hs : sub < (s.port n).tx.length)
    (h : s.sendNext n sub = some t) (hc : s.Carried n sub k) : t.Carried n sub k := by
  obtain ⟨q, u, x, hpick, hx, hqueue, hout⟩ := State.sendNext_effect hn hs h
  have hu : u.queue = ((s.port n).txOf sub).queue := by rw [SubTx.pick_state hpick]
  unfold State.Carried
  rw [hout, hqueue]
  obtain ⟨e, he⟩ | ⟨y, hy, hk⟩ := hc
  · exact .inl ⟨e, List.mem_append_left _ he⟩
  · obtain hgone | hstay := SubTx.mem_pop hx (hu ▸ hy)
    · rw [hk] at hgone
      rw [← hgone]
      exact .inl ⟨_, List.mem_append_right _ List.mem_cons_self⟩
    · exact .inr ⟨y, hstay, hk⟩

theorem State.serveSub_carried (n sub fuel : Nat) (s : State) (k : Pkt) (hn : n < s.optics.ports.length) (hs : sub < (s.port n).tx.length)
    (hc : s.Carried n sub k) : (State.serveSub n sub fuel s).Carried n sub k := by
  induction fuel generalizing s with
  | zero => exact hc
  | succ fuel ih =>
    unfold State.serveSub
    split
    · exact hc
    · next t h =>
      have hm := Moves.sendNext s h
      exact ih t (by rwa [hm.count]) (by rwa [hm.tx_length]) (State.sendNext_carried hn hs h hc)

/-- A packet that is handed to a port with a sub-port up waits there or has gone out (R321). -/
theorem State.portSend_carried (s : State) (n : Nat) (k : Pkt) (again : Bool) (hn : n < s.optics.ports.length) (h8 : (s.port n).tx.length = 8)
    (hup : (s.port n).subUp ≠ 0) : ∃ sub < 8, (s.portSend n k again).Carried n sub k := by
  obtain ⟨sub, hpick, hsub⟩ := s.pickSub_some n hup
  have hs : sub < (s.port n).tx.length := by omega
  let m := s.modTx n sub fun t => t.push k.queue again (.pft k)
  have hm : Moves s m := Moves.modTx s n sub _ rfl rfl
  have hwaits : m.Carried n sub k := by
    refine .inr ⟨(k.queue, again, .pft k), ?_, rfl⟩
    rw [s.txOf_modTx_self n sub _ hn hs]
    cases again with
    | true => exact List.mem_append_right _ List.mem_cons_self
    | false => exact List.mem_append_right _ List.mem_cons_self
  refine ⟨sub, hsub, ?_⟩
  have hsend : s.portSend n k again = m.kickSub n sub := by
    unfold State.portSend
    rw [hpick]
    rfl
  rw [hsend]
  unfold State.kickSub
  split
  · exact State.serveSub_carried n sub _ m k (by rwa [hm.count]) (by rwa [hm.tx_length]) hwaits
  · exact hwaits

end Sys2Proof.Machine
end

section
/-! SUPPORT. The lone packet of a port that is gone (R295, R296), and the announcement of a sub-port that is up (R322, R325). -/

namespace Sys2Proof.Machine

/-- Ports of an axis are among the sixteen. -/
theorem State.pickPort_lt {s : State} {ax m : Nat} {avoid : Option Nat} (h : s.pickPort ax avoid = some m) : m < 16 ∧ s.portUp m = true := by
  have hmem := s.leastLoaded_mem _ m h
  have hups : m ∈ (s.axisPorts ax).filter fun n => s.portUp n && (avoid.isSome || decide (s.portLoad n ≤ 16777216)) := by
    split at hmem
    · exact hmem
    · exact (List.mem_filter.1 hmem).1
  obtain ⟨hax, hup⟩ := List.mem_filter.1 hups
  exact ⟨List.mem_range.1 (List.mem_filter.1 hax).1, (Bool.and_eq_true _ _ ▸ hup).1⟩

/-- A port that has fallen silent is passed over as before, and every other is taken as before (R295, R296). -/
theorem State.pickPort_of_silent {s u : State} {n ax m : Nat} (hfab : u.fab = s.fab) (hup : ∀ j, j ≠ n → u.portUp j = s.portUp j) (hn : u.portUp n = false)
    (hm : m ≠ n) (h : s.pickPort ax (some n) = some m) : u.pickPort ax (some n) = some m := by
  let ups (s : State) := (s.axisPorts ax).filter fun k => s.portUp k && ((some n).isSome || decide (s.portLoad k ≤ 16777216))
  let others (s : State) := (ups s).filter fun k => some n != some k
  have hpick (s : State) : s.pickPort ax (some n) = s.leastLoaded (if (others s).isEmpty then ups s else others s) := rfl
  have haxis : u.axisPorts ax = s.axisPorts ax := by rw [State.axisPorts, State.axisPorts, hfab]
  have hothers : others u = others s := by
    simp only [others, ups, List.filter_filter, haxis]
    refine List.filter_congr fun k _ => ?_
    by_cases hk : k = n
    · simp [hk]
    · simp [hup k hk]
  have hups : ups u = others u := by
    refine (List.filter_eq_self.2 fun k hk => ?_).symm
    have hk := (List.mem_filter.1 hk).2
    by_cases hkn : k = n
    · rw [hkn, hn] at hk
      cases hk
    · simpa using Ne.symm hkn
  rw [hpick] at h
  have hne : (others s).isEmpty = false := by
    by_contra he
    have he := (Bool.not_eq_false _).mp he
    rw [if_pos he] at h
    have hmem : m ∈ others s := List.mem_filter.2 ⟨s.leastLoaded_mem _ m h, by simpa using hm.symm⟩
    rw [List.isEmpty_iff.1 he] at hmem
    cases hmem
  rw [hpick, hups, ite_self, hothers, State.leastLoaded_congr (congrArg Fab.flows hfab), ← h, if_neg (by simp [hne])]

/-- A port takes new packets as before while its state and the module's phase stay. -/
theorem State.portUp_congr {s u : State} {n : Nat} (hphase : u.phase = s.phase) (hfab : u.fab = s.fab) (h : Claims.SamePort (u.port n) (s.port n)) :
    u.portUp n = s.portUp n := by
  have hport : ((u.port n).subUp, (u.port n).stalled, (u.port n).engineStop, (u.port n).maxFrame) =
      ((s.port n).subUp, (s.port n).stalled, (s.port n).engineStop, (s.port n).maxFrame) :=
    samePort_field h (fun p => (p.subUp, p.stalled, p.engineStop, p.maxFrame)) fun _ _ _ => rfl
  simp only [Prod.mk.injEq] at hport
  obtain ⟨h1, h2, h3, h4⟩ := hport
  unfold State.portUp State.frameNeed
  rw [hphase, hfab, h1, h2, h3, h4]

/-- The silent port's state: of the transport nothing has changed, and of the other ports only counters and queues. -/
theorem State.portSilent_work (s : State) (n : Nat) : WorkOn n s (s.portSilent n) :=
  (WorkOn.of_moves (Moves.unqueue s n _)).trans (WorkOn.subsDown n _ _)

theorem State.flow_setFlow_of_key (s : State) {f : Flow} {ep cls : Nat} (he : f.ep = ep) (hc : f.cls = cls) : (s.setFlow f).flow ep cls = f := by
  subst he hc
  exact s.flow_setFlow_self f

/-- A lone packet that another port of the axis can take is handed to it (R296). -/
theorem State.portGone_lone (s : State) (n m ep cls q rto : Nat) (k : Pkt) (hn : n < s.optics.ports.length) (h16 : s.optics.ports.length = 16)
    (htx : ∀ x ∈ s.optics.ports, x.tx.length = 8) (hv : s.fab.valid = true) (hf : s.fab.flows = [{ s.flow ep cls with ep := ep, cls := cls }])
    (hun : (s.flow ep cls).unacked = [(q, n, rto, k)]) (hm : m ≠ n) (hp : s.pickPort (portAxis s.fab.axis n) (some n) = some m) :
    ((s.portGone n).flow ep cls).unacked = [(q, m, rto, k)] ∧ ∃ sub < 8, (s.portGone n).Carried m sub k := by
  let u := s.portSilent n
  have hwork : WorkOn n s u := s.portSilent_work n
  have hfab : u.fab = s.fab := s.portSilent_fab n
  obtain ⟨hm16, hmup⟩ := State.pickPort_lt hp
  have hdead : u.portUp n = false := by
    unfold State.portUp
    simp [s.portSilent_subUp n hn, u]
  have hlive (j : Nat) (hj : j ≠ n) : u.portUp j = s.portUp j := State.portUp_congr hwork.work.phase hfab (hwork.others j hj)
  have hpick : u.pickPort (portAxis u.fab.axis n) (some n) = some m := by
    rw [hfab]
    exact State.pickPort_of_silent hfab hlive hdead hm hp
  have hflow : u.flow ep cls = s.flow ep cls := State.flow_congr (congrArg Fab.flows hfab) ep cls
  have hgone : s.portGone n = u.handOver ep cls false q n m rto k := by
    have hlist : ([(q, n, rto, k)].filter fun x => x.2.1 == n).map (·.1) = [q] := by simp
    have hfind : [(q, n, rto, k)].find? (fun x => x.1 == q) = some (q, n, rto, k) := by simp
    have hlost : s.portGone n = u.resendPort n := (s.portGone_eq n).trans (if_neg (by rw [show (s.portSilent n).portUp n = false from hdead]; decide))
    rw [hlost, State.resendPort, hfab, hf]
    simp only [List.foldl_cons, List.foldl_nil, hun, hlist]
    rw [State.resend_cons, hfab, hv, hflow, hun, if_pos rfl, hfind]
    simp only [← hfab, hpick]
    rfl
  have hkey := u.flow_key ep cls
  rw [hgone]
  constructor
  · rw [State.flow_congr (u.handOver_flows ep cls false q n m rto k)]
    rw [State.flow_setFlow_of_key _ (by exact hkey.1) (by exact hkey.2)]
    simp [hflow, hun]
  · let v := ((u.setFlow { u.flow ep cls with
      unacked := (u.flow ep cls).unacked.map fun x => if x.1 = q then (q, m, if false then min 1600 (2 * rto) else rto, k) else x }).modFab
        fun b => { b with resent := sat32 b.resent 1 }).unqueue n fun x => x == .pft k
    have hv : Moves u v := ((Moves.setFlow u _).trans (Moves.countResent _)).trans (Moves.unqueue _ n _)
    have hsame : Claims.SamePort (v.port m) (s.port m) := samePort_trans (hv.same m) (hwork.others m hm)
    have hmem : s.port m ∈ s.optics.ports := by
      have hlt : m < s.optics.ports.length := by omega
      simp [State.port, List.getD_eq_getElem?_getD, List.getElem?_eq_getElem hlt]
    have hlen : (v.port m).tx.length = 8 := by
      have hlen := congrArg List.length hsame.2
      simp only [Claims.pauses, List.length_map] at hlen
      rw [hlen, htx _ hmem]
    refine v.portSend_carried m k true ?_ hlen ?_
    · rw [hv.count, hwork.work.count]
      omega
    · rw [samePort_field hsame Port.subUp fun _ _ _ => rfl]
      intro hzero
      simp [State.portUp, hzero] at hmup

/-! Control frames (R325). -/

/-- A sub-port that no pause holds serves control first (R325). -/
theorem State.sendNext_control {s : State} {n sub : Nat} {x : Egr} (hall : ((s.port n).txOf sub).pauseAll = 0)
    (hprio : ((s.port n).txOf sub).pausePrio.getD (s.port n).ctrlPcp 0 = 0) (hx : ((s.port n).txOf sub).head? 0 = some x) :
    ∀ size, ((s.port n).txOf sub).pick (s.port n) s.nowUs size = some (0, (s.port n).txOf sub) := by
  intro size
  have hready : ((s.port n).txOf sub).ready (s.port n) 0 = true := by
    rw [SubTx.ready, hx, show (s.port n).queuePcp 0 = (s.port n).ctrlPcp from rfl, hprio]
    rfl
  unfold SubTx.pick
  rw [hall, if_neg (Nat.lt_irrefl 0), if_pos hready]

/-- Every control frame that waits goes out once a sub-port that no pause holds is served often enough (R325). -/
theorem State.serveSub_control (n sub fuel : Nat) (s : State) (b : Bool) (hn : n < s.optics.ports.length) (hs : sub < (s.port n).tx.length)
    (hall : ((s.port n).txOf sub).pauseAll = 0) (hprio : ((s.port n).txOf sub).pausePrio.getD (s.port n).ctrlPcp 0 = 0)
    (hmem : (0, b, Egr.gratuitous) ∈ ((s.port n).txOf sub).queue) (hfuel : ((s.port n).txOf sub).queue.length ≤ fuel) :
    .gratuitous n sub ((s.port n).tagFor 0) ∈ (State.serveSub n sub fuel s).out := by
  induction fuel generalizing s with
  | zero =>
    rw [List.length_eq_zero_iff.1 (Nat.le_zero.1 hfuel)] at hmem
    cases hmem
  | succ fuel ih =>
    obtain ⟨z, hz⟩ := Option.isSome_iff_exists.1 (List.find?_isSome.2 ⟨_, hmem, rfl⟩ : (((s.port n).txOf sub).queue.find? fun x => x.1 == 0).isSome = true)
    have hx : ((s.port n).txOf sub).head? 0 = some z.2.2 := by rw [SubTx.head?, hz]; rfl
    have hpick := State.sendNext_control hall hprio hx (s.egrBytes n)
    obtain ⟨t, ht⟩ : ∃ t, s.sendNext n sub = some t := by
      unfold State.sendNext
      dsimp only
      rw [hpick]
      exact ⟨_, congrArg (Option.map _) hx⟩
    have hstep : State.serveSub n sub (fuel + 1) s = State.serveSub n sub fuel t := by
      rw [State.serveSub, ht]
    obtain ⟨q, u, x, hpick', hx', hqueue, hout⟩ := State.sendNext_effect hn hs ht
    obtain ⟨rfl, rfl⟩ := Prod.mk.inj (Option.some.inj (hpick.symm.trans hpick'))
    have hm := Moves.sendNext s ht
    have hrest := Moves.serveSub t n sub fuel
    rw [hstep]
    obtain hgone | hstay := SubTx.mem_pop hx' hmem
    · rw [← hgone] at hout
      refine hrest.out.subset ?_
      rw [hout]
      exact List.mem_append_right _ List.mem_cons_self
    · have hfields : (t.port n).tagFor 0 = (s.port n).tagFor 0 ∧ (t.port n).ctrlPcp = (s.port n).ctrlPcp :=
        ⟨hm.field n (fun p => p.tagFor 0) fun _ _ _ => rfl, hm.field n Port.ctrlPcp fun _ _ _ => rfl⟩
      have hpauses : ((t.port n).txOf sub).pauseAll = ((s.port n).txOf sub).pauseAll ∧
          ((t.port n).txOf sub).pausePrio = ((s.port n).txOf sub).pausePrio := by
        have hall := congrArg (fun l : List (Nat × List Nat) => l.getD sub (0, List.replicate 8 0)) (hm.same n).2
        have hget (p : Port) : (Claims.pauses p).getD sub (0, List.replicate 8 0) = ((p.txOf sub).pauseAll, (p.txOf sub).pausePrio) := by
          unfold Claims.pauses Port.txOf
          rw [List.getD_eq_getElem?_getD, List.getD_eq_getElem?_getD, List.getElem?_map]
          cases p.tx[sub]? <;> rfl
        simpa only [hget, Prod.mk.injEq] using hall
      have hshort : ((t.port n).txOf sub).queue.length < ((s.port n).txOf sub).queue.length := by
        rw [hqueue, SubTx.pop_queue, List.length_eraseP_of_mem hmem rfl]
        exact Nat.sub_lt (List.length_pos_of_mem hmem) Nat.one_pos
      rw [← hfields.1]
      exact ih t (by rwa [hm.count]) (by rwa [hm.tx_length]) (by rw [hpauses.1, hall]) (by rw [hpauses.2, hfields.2, hprio]) (hqueue ▸ hstay) (by omega)

end Sys2Proof.Machine
end

section
/-! SUPPORT. Sub-ports that come up, and lanes that fail (R333 to R336). -/

namespace Sys2Proof.Machine

/-! PORT_DEGRADED (R32, R36). -/

theorem getLsbD_bit16 (n i : Nat) (hi : i < 16) : (1#16 <<< n).getLsbD i = decide (i = n) := by
  simp only [BitVec.getLsbD_shiftLeft, BitVec.getLsbD_one]
  by_cases h : i = n
  · simp [h]; omega
  · simp [h]; omega

/-- A PORT_DEGRADED bit takes its value. -/
theorem State.setDegraded_bit (s : State) (n : Nat) (b : Bool) (hn : n < 16) : (s.setDegraded n b).inv.degraded.getLsbD n = b := by
  unfold State.setDegraded
  split
  · next h => exact h
  · rw [(Logged.capacityChange _ _ _ _).inv]
    cases b with
    | true => simp [getLsbD_bit16 n n hn]
    | false => simp [getLsbD_bit16 n n hn]

theorem State.setDegraded_port (s : State) (n : Nat) (b : Bool) (k : Nat) : (s.setDegraded n b).port k = s.port k := by
  unfold State.setDegraded
  split
  · rfl
  · exact (Logged.capacityChange _ _ _ _).port k

theorem State.fullAgain_port (s : State) (n k : Nat) : (s.fullAgain n).port k = s.port k := by
  unfold State.fullAgain
  split
  · exact s.setDegraded_port n false k
  · rfl

/-- PORT_DEGRADED clears exactly for a port at full width (R336). -/
theorem State.fullAgain_bit (s : State) (n : Nat) (hn : n < 16) :
    (s.fullAgain n).inv.degraded.getLsbD n = (s.inv.degraded.getLsbD n &&
      !(decide ((s.port n).laneFault = 0) && (List.range (s.port n).subs).all fun k => (s.port n).subUp.getLsbD k)) := by
  unfold State.fullAgain
  split
  · next h => rw [s.setDegraded_bit n false hn, h.2, decide_eq_true h.1]; simp
  · next h =>
    have hno : (decide ((s.port n).laneFault = 0) && (List.range (s.port n).subs).all fun k => (s.port n).subUp.getLsbD k) = false := by
      rw [Bool.and_eq_false_imp]
      exact fun h0 => Bool.eq_false_iff.2 fun hall => h ⟨of_decide_eq_true h0, hall⟩
    rw [hno]; simp

/-! Sub-ports that come up (R334). -/

theorem Port.subs_eq (p : Port) : p.subs = Claims.subCount p.mode := by
  unfold Port.subs Claims.subCount
  split
  · next h => simp [h]
  · next h => simp [h]
  · next h1 h2 => rw [if_neg h1, if_neg h2]

theorem Port.subs_le (p : Port) : p.subs ≤ 8 := by
  rw [p.subs_eq, Claims.subCount]
  split
  · omega
  · split <;> omega

theorem State.engineLit_iff (s : State) (e : Nat) : s.engineLit e = true ↔ ∃ l ∈ s.optics.lasers, l.engine = some e ∧ l.st = .lit := by
  simp [State.engineLit, List.any_eq_true]

theorem State.engineFailed_eq_false_iff (s : State) (e : Nat) :
    s.engineFailed e = false ↔ ∀ i ∈ s.fabric.islands, i.st = .failed → ∀ x : Fin 8, i.island = .engine x → x.val ≠ e := by
  unfold State.engineFailed
  rw [List.any_eq_false]
  refine forall₂_congr fun i _ => ⟨fun h hst x hx he => h ?_, fun h hi => ?_⟩
  · rw [hst, hx]
    simp [he]
  · obtain ⟨hst, hm⟩ := Bool.and_eq_true_iff.1 hi
    split at hm
    · next x hx => exact h (eq_of_beq hst) x hx (eq_of_beq hm)
    · cases hm

theorem State.engineRuns_iff (s : State) (e : Nat) : Claims.EngineRuns s e ↔ s.engineLit e = true ∧ s.engineFailed e = false :=
  and_congr (s.engineLit_iff e).symm (s.engineFailed_eq_false_iff e).symm

/-- The lanes that a sub-port needs are good (R334). -/
def Port.lanesGood (p : Port) (k : Nat) : Bool :=
  match p.mode with | 1 => (p.laneFault &&& (0xF#8 <<< (4 * k))) == 0 | 2 => !p.laneFault.getLsbD k | _ => p.width != 3

theorem Port.lanesGood_iff (p : Port) (k : Nat) :
    p.lanesGood k = true ↔ (p.mode = 1 → p.laneFault &&& (0xF#8 <<< (4 * k)) = 0) ∧ (p.mode = 2 → p.laneFault.getLsbD k = false) ∧
      (p.mode ≠ 1 → p.mode ≠ 2 → p.width ≠ 3) := by
  unfold Port.lanesGood
  split
  · next h => simp [h]
  · next h => simp [h]
  · next h1 h2 =>
    have h1 : p.mode ≠ 1 := h1
    have h2 : p.mode ≠ 2 := h2
    simp [h1, h2]

theorem State.subMayRun_eq (s : State) (n k : Nat) :
    s.subMayRun n k = ((s.port n).adminUp && decide (k < (s.port n).subs) && !(s.port n).engineStop && s.engineLit (n / 2) && !s.engineFailed (n / 2) &&
      (s.port n).lanesGood k) := by rfl

/-- When a sub-port may run (R334, R340, R428, R520). -/
theorem State.subMayRun_iff (s : State) (n k : Nat) :
    s.subMayRun n k = true ↔ (s.port n).adminUp = true ∧ k < Claims.subCount (s.port n).mode ∧ (s.port n).engineStop = false ∧
      Claims.EngineRuns s (n / 2) ∧ ((s.port n).mode = 1 → (s.port n).laneFault &&& (0xF#8 <<< (4 * k)) = 0) ∧
      ((s.port n).mode = 2 → (s.port n).laneFault.getLsbD k = false) ∧ ((s.port n).mode ≠ 1 → (s.port n).mode ≠ 2 → (s.port n).width ≠ 3) := by
  rw [s.engineRuns_iff, ← Port.lanesGood_iff, s.subMayRun_eq, Port.subs_eq]
  simp only [Bool.and_eq_true, decide_eq_true_eq, Bool.not_eq_true', and_assoc]

/-- Port `p` once sub-port `sub` has trained (R334). -/
def Port.raiseSub (p : Port) (sub : Nat) : Port := { p with subUp := p.subUp ||| (1#8 <<< sub), evLink := true }

/-- The state in which a sub-port that has trained announces its address (R322, R334). -/
def State.subUpTold (s : State) (n sub : Nat) : State := ((s.modPort n fun p => p.raiseSub sub).fullAgain n).raise 0x0611

theorem State.subRise_of_may (s : State) (n sub : Nat) (hm : s.subMayRun n sub = true) (hd : (s.port n).subUp.getLsbD sub = false) :
    s.subRise n sub = (if (s.subUpTold n sub).phase = .warm then s.subUpTold n sub else (s.subUpTold n sub).subSend n sub 0 false .gratuitous).pumpAll :=
  if_pos (by simp [hm, hd])

theorem State.subRise_of_not (s : State) (n sub : Nat) (h : ¬ s.subMayRun n sub = true ∨ (s.port n).subUp.getLsbD sub = true) : s.subRise n sub = s :=
  if_neg (by
    obtain h | h := h
    · simp [Bool.eq_false_iff.2 h]
    · simp [h])

theorem State.subRise_moves (s : State) (n sub : Nat) (hm : s.subMayRun n sub = true) (hd : (s.port n).subUp.getLsbD sub = false) :
    Moves (s.subUpTold n sub) (s.subRise n sub) := by
  rw [s.subRise_of_may n sub hm hd]
  exact ((Moves.refl _).ite (Moves.subSend _ _ _ _ _ _)).trans (Moves.pumpAll _)

theorem State.subUpTold_port (s : State) (n sub : Nat) (hn : n < s.optics.ports.length) : (s.subUpTold n sub).port n = (s.port n).raiseSub sub := by
  unfold State.subUpTold
  rw [(Logged.raise _ 0x0611).port n, State.fullAgain_port, s.port_modPort_self n _ hn]

theorem State.subUpTold_bit (s : State) (n sub : Nat) (hn : n < s.optics.ports.length) (h16 : n < 16) :
    (s.subUpTold n sub).inv.degraded.getLsbD n = (s.inv.degraded.getLsbD n && !(decide ((s.port n).laneFault = 0) &&
      (List.range (Claims.subCount (s.port n).mode)).all fun j => j == sub || (s.port n).subUp.getLsbD j)) := by
  have hall : ((List.range ((s.port n).raiseSub sub).subs).all fun k => ((s.port n).raiseSub sub).subUp.getLsbD k) =
      (List.range (Claims.subCount (s.port n).mode)).all fun j => j == sub || (s.port n).subUp.getLsbD j := by
    rw [← Port.subs_eq]
    rw [Bool.eq_iff_iff, List.all_eq_true, List.all_eq_true]
    refine forall₂_congr fun j hj => Eq.congr_left ?_
    have hj8 : j < 8 := Nat.lt_of_lt_of_le (List.mem_range.1 hj) (s.port n).subs_le
    change ((s.port n).subUp ||| (1#8 <<< sub)).getLsbD j = _
    rw [BitVec.getLsbD_or, getLsbD_bit8 sub j hj8, Bool.or_comm]
    rfl
  unfold State.subUpTold
  rw [(Logged.raise _ 0x0611).inv, State.fullAgain_bit _ n h16, s.port_modPort_self n _ hn, hall]
  rfl

theorem State.subUpTold_phase (s : State) (n sub : Nat) : (s.subUpTold n sub).phase = s.phase :=
  (Logged.raise _ 0x0611).phase.trans (WorkOn.fullAgain n _).work.phase

/-- A sub-port that comes up outside a warm reset announces its address where no pause holds control frames (R322, R325). -/
theorem State.subRise_announces (s : State) (n sub : Nat) (hn : n < s.optics.ports.length) (h8 : (s.port n).tx.length = 8) (hsub : sub < 8)
    (hm : s.subMayRun n sub = true) (hd : (s.port n).subUp.getLsbD sub = false) (hw : s.phase ≠ .warm) (hall : ((s.port n).txOf sub).pauseAll = 0)
    (hprio : ((s.port n).txOf sub).pausePrio.getD (s.port n).ctrlPcp 0 = 0) : .gratuitous n sub ((s.port n).tagFor 0) ∈ (s.subRise n sub).out := by
  let u := s.subUpTold n sub
  have hup : u.port n = (s.port n).raiseSub sub := s.subUpTold_port n sub hn
  have hun : n < u.optics.ports.length := by
    rw [(((WorkOn.modPort n s _).trans (WorkOn.fullAgain n _)).trans (WorkOn.of_logged (Logged.raise _ 0x0611)) : WorkOn n s u).work.count]
    exact hn
  have hphase : u.phase ≠ .warm := by rwa [s.subUpTold_phase n sub]
  let m := u.modTx n sub fun t => t.push 0 false .gratuitous
  have hmm : Moves u m := Moves.modTx u n sub _ rfl rfl
  have hus : sub < (u.port n).tx.length := by rw [hup]; exact hsub.trans_eq h8.symm
  have htx : (m.port n).txOf sub = ((s.port n).txOf sub).push 0 false .gratuitous := by
    rw [u.txOf_modTx_self n sub _ hun hus, hup]
    rfl
  have hbit : (m.port n).subUp.getLsbD sub = true := by
    rw [hmm.subUp n, hup]
    change ((s.port n).subUp ||| (1#8 <<< sub)).getLsbD sub = true
    rw [BitVec.getLsbD_or, getLsbD_bit8 sub sub hsub]
    simp
  have hrise : s.subRise n sub = (State.serveSub n sub ((m.port n).txOf sub).queue.length m).pumpAll := by
    have hkick : m.kickSub n sub = State.serveSub n sub ((m.port n).txOf sub).queue.length m := if_pos (by rw [hbit, hmm.phase]; simp [hphase])
    rw [s.subRise_of_may n sub hm hd, if_neg hphase, ← hkick]
    rfl
  have hfield : (m.port n).tagFor 0 = (s.port n).tagFor 0 ∧ (m.port n).ctrlPcp = (s.port n).ctrlPcp := by
    rw [hmm.field n (fun p => p.tagFor 0) fun _ _ _ => rfl, hmm.field n Port.ctrlPcp fun _ _ _ => rfl, hup]
    exact ⟨rfl, rfl⟩
  rw [hrise, ← hfield.1]
  refine (Moves.pumpAll _).out.subset (State.serveSub_control n sub _ m false (by rwa [hmm.count]) (by rwa [hmm.tx_length]) ?_ ?_ ?_ (Nat.le_refl _))
  · rw [htx]; exact hall
  · rw [htx, hfield.2]; exact hprio
  · rw [htx]; exact List.mem_append_right _ List.mem_cons_self

end Sys2Proof.Machine
end

section
/-! SUPPORT. Lanes that fail (R333 to R335). -/

namespace Sys2Proof.Machine

theorem State.requeue_keeps (s : State) (n : Nat) (l : List (Nat × Bool × Egr)) : (s.requeue n l).inv = s.inv ∧ (s.requeue n l).flash = s.flash :=
  ⟨(Moves.requeue s n l).inv, (Moves.requeue s n l).flash⟩

theorem State.subDown_inv (s : State) (n sub : Nat) : (s.subDown n sub).inv = s.inv := by
  cases h : (s.port n).subUp.getLsbD sub with
  | true => rw [s.subDown_of_up n sub h, (State.requeue_keeps _ _ _).1, (Logged.raise _ 0x0610).inv]; rfl
  | false => rw [s.subDown_of_down n sub h]

/-- The sub-port of a lane (R321). -/
theorem Port.subOf_eq (p : Port) (lane : Nat) : p.subOf lane = if p.mode = 1 then lane / 4 else if p.mode = 2 then lane else 0 := by
  unfold Port.subOf
  split
  · next h => rw [if_pos h]
  · next h => rw [if_neg (by omega), if_pos h]
  · next h1 h2 => rw [if_neg h1, if_neg h2]

/-- The lane's sub-port is down, and the lane's event is set (R334 steps 1 and 2). -/
structure LaneDowned (s t : State) (f : LaneFault) : Prop where
  work : WorkOn f.port.val s t
  inv : t.inv = s.inv
  event : (t.port f.port.val).evLane = true
  subUp : (t.port f.port.val).subUp = (s.port f.port.val).subUp &&& ~~~(1#8 <<< (s.port f.port.val).subOf f.lane.val)
  fields : ((t.port f.port.val).mode, (t.port f.port.val).laneFault, (t.port f.port.val).width, (t.port f.port.val).txSpare, (t.port f.port.val).rxSpare) =
    ((s.port f.port.val).mode, (s.port f.port.val).laneFault, (s.port f.port.val).width, (s.port f.port.val).txSpare, (s.port f.port.val).rxSpare)

theorem State.laneDown_effect (s : State) (f : LaneFault) (hn : f.port.val < s.optics.ports.length) : LaneDowned s (s.laneDown f) f := by
  let m := s.modPort f.port.val fun p => { p with evLane := true }
  let d := m.subDown f.port.val ((m.port f.port.val).subOf f.lane.val)
  have hlost : Moves d (s.laneDown f) := Moves.portLost d f.port.val
  have hm : m.port f.port.val = { s.port f.port.val with evLane := true } := s.port_modPort_self _ _ hn
  have hlen : f.port.val < m.optics.ports.length := by rwa [State.ports_length_modPort]
  refine ⟨WorkOn.laneDown s f, hlost.inv.trans (m.subDown_inv _ _), ?_, ?_, ?_⟩
  · rw [hlost.field _ Port.evLane fun _ _ _ => rfl, m.subDown_field _ _ hlen Port.evLane fun _ _ _ _ _ => rfl, hm]
  · rw [hlost.subUp, m.subDown_subUp _ _ hlen, hm]
    rfl
  · rw [hlost.field _ (fun p => (p.mode, p.laneFault, p.width, p.txSpare, p.rxSpare)) fun _ _ _ => rfl,
      m.subDown_field _ _ hlen (fun p => (p.mode, p.laneFault, p.width, p.txSpare, p.rxSpare)) fun _ _ _ _ _ => rfl, hm]

/-- The other port of an engine (R340). -/
def sibling (n : Nat) : Nat := 2 * (n / 2) + (1 - n % 2)

/-- The spare of a direction is free when neither port of the engine uses it (R333). -/
theorem State.spareFree_iff (s : State) (n : Nat) (tx : Bool) :
    s.spareFree n tx = true ↔ (if tx then (s.port n).txSpare else (s.port n).rxSpare) = 15 ∧
      (if tx then (s.port (sibling n)).txSpare else (s.port (sibling n)).rxSpare) = 15 := by
  have hpair : (2 * (n / 2) = n ∧ 2 * (n / 2) + 1 = sibling n) ∨ (2 * (n / 2) = sibling n ∧ 2 * (n / 2) + 1 = n) := by
    unfold sibling
    omega
  unfold State.spareFree engineOf
  obtain ⟨h1, h2⟩ | ⟨h1, h2⟩ := hpair
  · rw [h2, h1]
    cases tx <;> simp
  · rw [h2, h1]
    cases tx <;> simp [and_comm]

/-- Fields of the spares that work on a port has left, of the port and of its sibling. -/
theorem LaneDowned.spareFree {s t : State} {f : LaneFault} (h : LaneDowned s t f) (tx : Bool) : t.spareFree f.port.val tx = s.spareFree f.port.val tx := by
  have hne : sibling f.port.val ≠ f.port.val := by unfold sibling; omega
  have hfields := h.fields
  simp only [Prod.mk.injEq] at hfields
  obtain ⟨-, -, -, htx, hrx⟩ := hfields
  have hsib := samePort_field (h.work.others _ hne) (fun p => (p.txSpare, p.rxSpare)) fun _ _ _ => rfl
  simp only [Prod.mk.injEq] at hsib
  rw [Bool.eq_iff_iff, t.spareFree_iff, s.spareFree_iff, htx, hrx, hsib.1, hsib.2]

/-- The spare of its direction takes a lane (R334 step 4). -/
theorem State.takeSpare_effect (s : State) (n lane : Nat) (tx : Bool) (hn : n < s.optics.ports.length) :
    (s.takeSpare n lane tx).port n = { s.port n with
      evSpared := true, txSpare := if tx then lane else (s.port n).txSpare, rxSpare := if tx then (s.port n).rxSpare else lane } ∧
    (s.takeSpare n lane tx).inv = { s.inv with
      txSpares := if tx then s.inv.txSpares - 1 else s.inv.txSpares, rxSpares := if tx then s.inv.rxSpares else s.inv.rxSpares - 1 } ∧
    (s.takeSpare n lane tx).flash.mapDirty = true := by
  let m := s.modPort n fun p => { p with evSpared := true, txSpare := if tx then lane else p.txSpare, rxSpare := if tx then p.rxSpare else lane }
  let v := (m.setInv { m.inv with
    txSpares := if tx then m.inv.txSpares - 1 else m.inv.txSpares, rxSpares := if tx then m.inv.rxSpares else m.inv.rxSpares - 1 }).mapChanged
  have hlog : Logged v (s.takeSpare n lane tx) := (Logged.raise v 0x0612).trans (Logged.capacityChange _ regOptInv noReg 0)
  exact ⟨(hlog.port n).trans (s.port_modPort_self n _ hn), hlog.inv, by rw [hlog.flash]; rfl⟩

/-- Port `p` once lanes have failed without a spare (R334 step 4). -/
def Port.halved (p : Port) (fault : BitVec 8) : Port :=
  { p with
    laneFault := p.laneFault ||| fault, evHalved := true
    width := if p.mode = 0 ∨ p.mode = 3 then widthOf (p.laneFault ||| fault) else p.width }

/-- Lanes without a spare stay failed, and the port is degraded (R36, R334 step 4). -/
theorem State.halve_effect (s : State) (n : Nat) (fault : BitVec 8) (hn : n < s.optics.ports.length) (h16 : n < 16) :
    (s.halve n fault).port n = (s.port n).halved fault ∧ (s.halve n fault).inv.degraded.getLsbD n = true := by
  refine ⟨?_, State.setDegraded_bit _ n true h16⟩
  unfold State.halve
  rw [State.setDegraded_port, (Logged.raise _ 0x0613).port n]
  exact s.port_modPort_self n _ hn

/-- WIDTH of a port with a failed lane: the half that has none, if one is left (R334, R344). -/
theorem widthOf_eq (f : BitVec 8) (h : f ≠ 0) : widthOf f = if f &&& 0x0F#8 = 0 then 1 else if f &&& 0xF0#8 = 0 then 2 else 3 := by
  have hsplit : f = (f &&& 0x0F#8) ||| (f &&& 0xF0#8) := by
    rw [← BitVec.and_or_distrib_left]
    exact BitVec.and_allOnes.symm
  unfold widthOf
  dsimp only
  by_cases hlo : f &&& 0x0F#8 = 0
  · by_cases hhi : f &&& 0xF0#8 = 0
    · rw [hlo, hhi] at hsplit
      exact absurd hsplit h
    · rw [if_pos hlo, hlo, bne_self_eq_false, bne_iff_ne.2 hhi]
  · by_cases hhi : f &&& 0xF0#8 = 0
    · rw [if_neg hlo, if_pos hhi, hhi, bne_self_eq_false, bne_iff_ne.2 hlo]
    · rw [if_neg hlo, if_neg hhi, bne_iff_ne.2 hlo, bne_iff_ne.2 hhi]

/-- A mask with the bit of a failed lane names a failed lane. -/
theorem or_bit8_ne_zero (x : BitVec 8) (lane : Nat) (h : lane < 8) : x ||| (1#8 <<< lane) ≠ 0 := by
  intro hz
  have hbit := congrArg (fun y : BitVec 8 => y.getLsbD lane) hz
  simp [getLsbD_bit8 lane lane h] at hbit

/-! The order of the faults of one cycle (R335). -/

/-- Two faults of different lanes are sorted the same whichever is named first. -/
theorem sortBy_pair_comm (f g : LaneFault) (h : f.port ≠ g.port ∨ f.lane ≠ g.lane) : sortBy LaneFault.before [f, g] = sortBy LaneFault.before [g, f] := by
  have hf := f.lane.isLt
  have hg := g.lane.isLt
  have hne : 8 * f.port.val + f.lane.val ≠ 8 * g.port.val + g.lane.val := by
    intro he
    obtain hp | hl := h
    · exact hp (Fin.ext (by omega))
    · exact hl (Fin.ext (by omega))
  have hpair (a b : LaneFault) : sortBy LaneFault.before [a, b] = if LaneFault.before a b then [a, b] else [b, a] := by
    unfold sortBy
    simp [insertBy]
  rw [hpair, hpair]
  unfold LaneFault.before
  by_cases hlt : 8 * f.port.val + f.lane.val ≤ 8 * g.port.val + g.lane.val
  · rw [if_pos (decide_eq_true hlt), if_neg (by simp; omega)]
  · rw [if_neg (by simpa using hlt), if_pos (by simp; omega)]

/-- The faults that reach step 4 in one cycle, in the order that they are treated. -/
def State.sortedFaults (s : State) (l : List LaneFault) : List LaneFault :=
  sortBy LaneFault.before (l.filter fun f => !(s.port f.port.val).laneFault.getLsbD f.lane.val)

theorem State.sortedFaults_pair_comm (s : State) (f g : LaneFault) (h : f.port ≠ g.port ∨ f.lane ≠ g.lane) :
    s.sortedFaults [f, g] = s.sortedFaults [g, f] := by
  unfold State.sortedFaults
  generalize (fun f : LaneFault => !(s.port f.port.val).laneFault.getLsbD f.lane.val) = new
  cases hf : new f with
  | true =>
    cases hg : new g with
    | true => simpa [hf, hg] using sortBy_pair_comm f g h
    | false => simp [hf, hg]
  | false => cases hg : new g <;> simp [hf, hg]

theorem execLaneFailure_eq (f : LaneFault) (l : List LaneFault) (s : State) :
    exec (.laneFailure f.port f.lane f.tx ⟨f.pathOk, l⟩) s =
      .next ((s.sortedFaults (f :: l)).foldl State.placeLane ((s.sortedFaults (f :: l)).foldl State.laneDown s)) := rfl

end Sys2Proof.Machine
end

section
open Sys2Proof Sys2Proof.Machine

namespace Sys2Proof.Claims

/-- A port of the sixteen has eight transmitters. -/
theorem tx_length_of {s : State} (h16 : s.optics.ports.length = 16) (htx : ∀ x ∈ s.optics.ports, x.tx.length = 8) (n : Nat) (hn : n < 16) :
    (s.port n).tx.length = 8 := by
  have hlt : n < s.optics.ports.length := by omega
  refine htx _ ?_
  simp [State.port, List.getD_eq_getElem?_getD, List.getElem?_eq_getElem hlt]

/-- PORT_DOWN (R296). -/
theorem portDown_effect (n : Fin 16) (s : State) (h16 : s.optics.ports.length = 16) (htx : ∀ x ∈ s.optics.ports, x.tx.length = 8) :
    ∃ t : State, exec (.portDown n) s = .next t ∧ (t.port n.val).subUp = 0 ∧
      ((s.port n.val).subUp ≠ 0 → (t.port n.val).evLink = true ∧ t.err.lastCode = 0x0610) ∧
      (∀ k, k ≠ n.val → SamePort (t.port k) (s.port k)) ∧ t.mem = s.mem ∧ t.queues = s.queues ∧ t.parts = s.parts ∧
      (∀ ep cls, (t.flow ep cls).unacked.map (·.1) = (s.flow ep cls).unacked.map (·.1)) ∧
      (∀ ep cls q rto k m, s.fab.valid = true → s.fab.flows = [{ s.flow ep cls with ep := ep, cls := cls }] → (s.flow ep cls).unacked = [(q, n.val, rto, k)] →
        m ≠ n.val → s.pickPort (portAxis s.fab.axis n.val) (some n.val) = some m →
        (t.flow ep cls).unacked = [(q, m, rto, k)] ∧ ((∃ e, .pft e k ∈ t.out) ∨ ∃ x ∈ (t.port m).tx, ∃ y ∈ x.queue, y.2.2 = .pft k)) := by
  have hn : n.val < s.optics.ports.length := by omega
  have hwork := WorkOn.portGone n.val s
  refine ⟨_, rfl, s.portGone_subUp _ hn, s.portGone_told _ hn, hwork.others, hwork.work.mem, hwork.work.queues, hwork.work.parts,
    SameSeqs.portGone s n.val, fun ep cls q rto k m hv hf hun hm hp => ?_⟩
  obtain ⟨hflow, sub, hsub, hcar⟩ := s.portGone_lone n.val m ep cls q rto k hn h16 htx hv hf hun hm hp
  refine ⟨hflow, hcar.imp id fun ⟨y, hy, hk⟩ => ⟨_, ?_, y, hy, hk⟩⟩
  have hlen : ((s.portGone n.val).port m).tx.length = 8 := by
    have hsame := congrArg List.length (hwork.others m hm).2
    simp only [pauses, List.length_map] at hsame
    rw [hsame, tx_length_of h16 htx m (State.pickPort_lt hp).1]
  have hlt : sub < ((s.portGone n.val).port m).tx.length := by omega
  simp [Port.txOf, List.getD_eq_getElem?_getD, List.getElem?_eq_getElem hlt]

/-- SUBPORT_UP of a sub-port that may run and is down (R322, R334). -/
theorem subportUp_effect (n : Fin 16) (k : Fin 8) (s : State) (h16 : s.optics.ports.length = 16) (htx : ∀ x ∈ s.optics.ports, x.tx.length = 8)
    (hm : s.subMayRun n.val k.val = true) (hd : (s.port n.val).subUp.getLsbD k.val = false) :
    ∃ t : State, exec (.subportUp n k) s = .next t ∧ (t.port n.val).subUp = (s.port n.val).subUp ||| (1#8 <<< k.val) ∧ (t.port n.val).evLink = true ∧
      t.err.lastCode = 0x0611 ∧
      (t.inv.degraded.getLsbD n.val = (s.inv.degraded.getLsbD n.val && !(decide ((s.port n.val).laneFault = 0) &&
        (List.range (subCount (s.port n.val).mode)).all fun j => j == k.val || (s.port n.val).subUp.getLsbD j))) ∧ t.mem = s.mem ∧ t.queues = s.queues ∧
      (∀ j, j ≠ n.val → SamePort (t.port j) (s.port j)) ∧
      (s.phase ≠ .warm → ((s.port n.val).txOf k.val).pauseAll = 0 → ((s.port n.val).txOf k.val).pausePrio.getD (s.port n.val).ctrlPcp 0 = 0 →
        .gratuitous n.val k.val ((s.port n.val).tagFor 0) ∈ t.out) := by
  have hn : n.val < s.optics.ports.length := by omega
  have hwork := WorkOn.subRise n.val s k.val
  have hmoves := s.subRise_moves n.val k.val hm hd
  have hport := s.subUpTold_port n.val k.val hn
  refine ⟨_, rfl, ?_, ?_, (congrArg Err.lastCode hmoves.err).trans (State.raise_lastCode _ _), ?_, hwork.work.mem, hwork.work.queues, hwork.others, ?_⟩
  · rw [hmoves.subUp, hport]; rfl
  · rw [hmoves.field n.val Port.evLink fun _ _ _ => rfl, hport]; rfl
  · rw [hmoves.inv, s.subUpTold_bit n.val k.val hn n.isLt]
  · exact s.subRise_announces n.val k.val hn (tx_length_of h16 htx n.val n.isLt) k.isLt hm hd

/-- LANE_FAILURE of a lane that has not failed (R333, R334). -/
theorem laneFailure_effect (n : Fin 16) (lane : Fin 8) (tx pathOk : Bool) (s : State) (h16 : s.optics.ports.length = 16)
    (hl : (s.port n.val).laneFault.getLsbD lane.val = false) :
    let p := s.port n.val
    let sub := if p.mode = 1 then lane.val / 4 else if p.mode = 2 then lane.val else 0
    let sib := s.port (2 * (n.val / 2) + (1 - n.val % 2))
    let spare := pathOk = false ∧ (if tx then p.txSpare else p.rxSpare) = 15 ∧ (if tx then sib.txSpare else sib.rxSpare) = 15
    ∃ t : State, exec (.laneFailure n lane tx ⟨pathOk, []⟩) s = .next t ∧
      let q := t.port n.val
      q.evLane = true ∧ q.subUp.getLsbD sub = false ∧ (∀ k, k ≠ sub → q.subUp.getLsbD k = p.subUp.getLsbD k) ∧
      t.mem = s.mem ∧ t.queues = s.queues ∧ (∀ j, j ≠ n.val → SamePort (t.port j) (s.port j)) ∧
      (spare → q.evSpared = true ∧ q.laneFault = p.laneFault ∧ q.width = p.width ∧ (if tx then q.txSpare else q.rxSpare) = lane.val ∧
        (if tx then q.rxSpare = p.rxSpare else q.txSpare = p.txSpare) ∧ t.inv.degraded = s.inv.degraded ∧
        (if tx then t.inv.txSpares = s.inv.txSpares - 1 else t.inv.rxSpares = s.inv.rxSpares - 1) ∧ t.flash.mapDirty = true) ∧
      (¬ spare → q.evHalved = true ∧ q.laneFault = p.laneFault ||| (1#8 <<< lane.val) ∧ t.inv.degraded.getLsbD n.val = true ∧
        q.txSpare = p.txSpare ∧ q.rxSpare = p.rxSpare ∧
        (p.mode = 0 → q.width = if q.laneFault &&& 0x0F#8 = 0 then 1 else if q.laneFault &&& 0xF0#8 = 0 then 2 else 3)) := by
  intro p sub sib spare
  let f : LaneFault := { port := n, lane := lane, tx := tx, pathOk := pathOk }
  have hn : n.val < s.optics.ports.length := by omega
  have hsorted : s.sortedFaults [f] = [f] := by
    unfold State.sortedFaults
    rw [List.filter_cons_of_pos (by simpa [f] using hl)]
    rfl
  have hrun : exec (.laneFailure n lane tx ⟨pathOk, []⟩) s = .next ((s.laneDown f).placeLane f) := by
    rw [execLaneFailure_eq f [] s, hsorted]
    rfl
  have hdown : LaneDowned s (s.laneDown f) f := s.laneDown_effect f hn
  have hdn : n.val < (s.laneDown f).optics.ports.length := by rwa [hdown.work.work.count]
  have hwork : WorkOn n.val s ((s.laneDown f).placeLane f) := hdown.work.trans (WorkOn.placeLane _ f)
  obtain ⟨hmode, hfault, hwidth, htx, hrx⟩ : (((s.laneDown f).port n.val).mode = p.mode) ∧ ((s.laneDown f).port n.val).laneFault = p.laneFault ∧
      ((s.laneDown f).port n.val).width = p.width ∧ ((s.laneDown f).port n.val).txSpare = p.txSpare ∧ ((s.laneDown f).port n.val).rxSpare = p.rxSpare := by
    have hfields := hdown.fields
    simpa only [Prod.mk.injEq] using hfields
  have hsubUp : ((s.laneDown f).port n.val).subUp = p.subUp &&& ~~~(1#8 <<< sub) := by
    rw [show sub = p.subOf lane.val from (p.subOf_eq lane.val).symm]
    exact hdown.subUp
  have hsub8 : sub < 8 := by
    have hlane := lane.isLt
    simp only [sub]
    split
    · omega
    · split <;> omega
  have hbits (q : Port) (hq : q.subUp = ((s.laneDown f).port n.val).subUp) :
      q.subUp.getLsbD sub = false ∧ ∀ k, k ≠ sub → q.subUp.getLsbD k = p.subUp.getLsbD k := by
    rw [hq, hsubUp]
    refine ⟨by rw [getLsbD_and_not_bit8 _ _ _ hsub8]; simp, fun k hk => ?_⟩
    by_cases hk8 : k < 8
    · rw [getLsbD_and_not_bit8 _ _ _ hk8]
      simp [hk]
    · rw [BitVec.getLsbD_of_ge _ _ (by omega), BitVec.getLsbD_of_ge _ _ (by omega)]
  have hspare : spare ↔ (!pathOk && (s.laneDown f).spareFree n.val tx) = true := by
    rw [hdown.spareFree tx, Bool.and_eq_true, s.spareFree_iff]
    simp only [spare, Bool.not_eq_true']
    rfl
  refine ⟨_, hrun, ?_⟩
  by_cases h : spare
  · have hplace : (s.laneDown f).placeLane f = (s.laneDown f).takeSpare n.val lane.val tx := if_pos (hspare.1 h)
    obtain ⟨hport, hinv, hmap⟩ := (s.laneDown f).takeSpare_effect n.val lane.val tx hdn
    rw [hdown.inv] at hinv
    obtain ⟨hb1, hb2⟩ := hbits (((s.laneDown f).placeLane f).port n.val) (by rw [hplace, hport])
    refine ⟨?_, hb1, hb2, hwork.work.mem, hwork.work.queues, hwork.others, fun _ => ?_, fun hno => absurd h hno⟩
    · rw [hplace, hport]
      exact hdown.event
    · rw [hplace, hport, hinv]
      refine ⟨rfl, hfault, hwidth, ?_, ?_, rfl, ?_, hmap⟩
      · cases tx <;> rfl
      · cases tx
        · exact htx
        · exact hrx
      · cases tx <;> rfl
  · have hplace : (s.laneDown f).placeLane f = (s.laneDown f).halve n.val (1#8 <<< lane.val) := if_neg fun k => h (hspare.2 k)
    obtain ⟨hport, hbit⟩ := (s.laneDown f).halve_effect n.val (1#8 <<< lane.val) hdn n.isLt
    obtain ⟨hb1, hb2⟩ := hbits (((s.laneDown f).placeLane f).port n.val) (by rw [hplace, hport]; rfl)
    refine ⟨?_, hb1, hb2, hwork.work.mem, hwork.work.queues, hwork.others, fun hyes => absurd hyes h, fun _ => ?_⟩
    · rw [hplace, hport]
      exact hdown.event
    · rw [hplace, hport]
      refine ⟨rfl, congrArg (· ||| (1#8 <<< lane.val)) hfault, hbit, htx, hrx, fun h0 => ?_⟩
      have hw : (((s.laneDown f).port n.val).halved (1#8 <<< lane.val)).width = widthOf (((s.laneDown f).port n.val).laneFault ||| (1#8 <<< lane.val)) :=
        if_pos (.inl (hmode.trans h0))
      exact hw.trans (widthOf_eq _ (or_bit8_ne_zero _ _ lane.isLt))

/-- Settles O51: PORT_DOWN, the training of a sub-port, the failure of a lane, and the order of two that fail in one cycle. -/
theorem portsTrainAndLoseLanes : Obligations.PortsTrainAndLoseLanes := by
  intro n s h16 htx p
  refine ⟨portDown_effect n s h16 htx, fun k => ?_, fun lane tx pathOk => ?_, fun f g h => ?_⟩
  · intro may
    have hmay : may ↔ s.subMayRun n.val k.val = true := (s.subMayRun_iff n.val k.val).symm
    refine ⟨fun hm hd => subportUp_effect n k s h16 htx (hmay.1 hm) hd, fun hno => ?_, rfl, rfl⟩
    exact congrArg Host.Outcome.next (s.subRise_of_not n.val k.val (hno.imp (fun h k => h (hmay.2 k)) id))
  · refine ⟨fun hl => ?_, laneFailure_effect n lane tx pathOk s h16⟩
    have hnone : s.sortedFaults [{ port := n, lane := lane, tx := tx, pathOk := pathOk }] = [] := by
      unfold State.sortedFaults
      rw [List.filter_cons_of_neg (by simpa using hl)]
      rfl
    rw [execLaneFailure_eq { port := n, lane := lane, tx := tx, pathOk := pathOk } [] s, hnone]
    rfl
  · rw [execLaneFailure_eq f [g] s, execLaneFailure_eq g [f] s, s.sortedFaults_pair_comm f g h]

end Sys2Proof.Claims
end

section
/-! SUPPORT. The laser source block: what ramps, spares and engines that lose their light can change (R338 to R342). -/

namespace Sys2Proof.Machine

/-! Laser channels after an update of one of them. -/

theorem State.laser_modLaser (s : State) (c k : Nat) (f : Laser → Laser) :
    (s.modLaser c f).laser k = if k = c ∧ c < s.optics.lasers.length then f (s.laser c) else s.laser k := getD_updAt _ _ _ _ _

theorem State.laser_modLaser_self (s : State) (c : Nat) (f : Laser → Laser) (h : c < s.optics.lasers.length) : (s.modLaser c f).laser c = f (s.laser c) := by
  rw [State.laser_modLaser, if_pos ⟨rfl, h⟩]

theorem State.laser_modLaser_ne (s : State) (c k : Nat) (f : Laser → Laser) (h : k ≠ c) : (s.modLaser c f).laser k = s.laser k := by
  rw [State.laser_modLaser, if_neg (fun e => h e.1)]

@[simp] theorem State.lasers_length_modLaser (s : State) (c : Nat) (f : Laser → Laser) : (s.modLaser c f).optics.lasers.length = s.optics.lasers.length :=
  updAt_length _ _ _

/-- Laser channels of states with the same ones. -/
theorem State.laser_congr {s t : State} (h : t.optics.lasers = s.optics.lasers) (k : Nat) : t.laser k = s.laser k := by
  unfold State.laser
  rw [h]

/-! Engines that lose their light, and spares that are sent to them. -/

/-- From `s` to `t` ports have gone down and spares have been handed out: the channels, the ramps under way, the spares left and the events but DARK are as before. -/
structure Rationed (s t : State) : Prop where
  state : t = { s with
    optics := { s.optics with
      ports := t.optics.ports, rampQ := t.optics.rampQ, worn := t.optics.worn, lacking := t.optics.lacking, evDark := t.optics.evDark }
    fab := { s.fab with flows := t.fab.flows, resent := t.fab.resent }, inv := { s.inv with laserActive := t.inv.laserActive, degraded := t.inv.degraded }
    err := t.err, link := { s.link with heldVec := t.link.heldVec }, out := t.out
    flash := { s.flash with logTimes := t.flash.logTimes, logPend := t.flash.logPend } }
  count : t.optics.ports.length = s.optics.ports.length

theorem Moves.rationed {s t : State} (h : Moves s t) : Rationed s t := ⟨h.state.trans (by rw [h.err, h.inv, h.flash]; rw [h.state]), h.count⟩

theorem Logged.rationed {s t : State} (h : Logged s t) : Rationed s t :=
  ⟨h.state.trans (by rw [h.inv, h.optics, h.fab]), congrArg (fun o => o.ports.length) h.optics⟩

namespace Rationed

theorem refl (s : State) : Rationed s s := ⟨rfl, rfl⟩

theorem trans {s t u : State} (h : Rationed s t) (k : Rationed t u) : Rationed s u := ⟨k.state.trans (by rw [h.state]), k.count.trans h.count⟩

theorem ite {c : Prop} [Decidable c] {s a b : State} (ha : Rationed s a) (hb : Rationed s b) : Rationed s (if c then a else b) := by
  split
  · exact ha
  · exact hb

theorem foldl {α : Type} (f : State → α → State) (l : List α) (s : State) (hf : ∀ s x, Rationed s (f s x)) : Rationed s (l.foldl f s) := by
  induction l generalizing s with
  | nil => exact refl s
  | cons x r ih => exact (hf s x).trans (ih _)

section
variable {s t : State} (h : Rationed s t)
include h

theorem mem : t.mem = s.mem := by rw [h.state]
theorem queues : t.queues = s.queues := by rw [h.state]
theorem mapDirty : t.flash.mapDirty = s.flash.mapDirty := by rw [h.state]
theorem laserSpares : t.inv.laserSpares = s.inv.laserSpares := by rw [h.state]
theorem lasers : t.optics.lasers = s.optics.lasers := by rw [h.state]
theorem rampFor : t.optics.rampFor = s.optics.rampFor := by rw [h.state]
theorem rail : t.optics.rail = s.optics.rail := by rw [h.state]
theorem allOff : t.optics.allOff = s.optics.allOff := by rw [h.state]
theorem railFaults : t.optics.railFaults = s.optics.railFaults := by rw [h.state]
theorem evShort : t.optics.evShort = s.optics.evShort := by rw [h.state]
theorem evRail : t.optics.evRail = s.optics.evRail := by rw [h.state]
theorem evSpared : t.optics.evSpared = s.optics.evSpared := by rw [h.state]

theorem laser (k : Nat) : t.laser k = s.laser k := State.laser_congr h.lasers k

end

variable (s : State)

theorem modPort (n : Nat) (f : Port → Port) : Rationed s (s.modPort n f) := ⟨rfl, s.ports_length_modPort n f⟩

theorem subDown (n sub : Nat) : Rationed s (s.subDown n sub) :=
  (((modPort s n _).trans (Logged.raise _ _).rationed).trans (Moves.requeue _ _ _).rationed).ite (refl s)

theorem portGone (n : Nat) : Rationed s (s.portGone n) :=
  ((Moves.unqueue s n _).rationed.trans (foldl _ _ _ fun s k => subDown s n k)).trans (Moves.portLost _ n).rationed

theorem portsGone (l : List Nat) : Rationed s (l.foldl State.portGone s) := foldl _ _ _ portGone

theorem engineDown (e : Nat) : Rationed s (s.engineDown e) := (portGone s _).trans (portGone _ _)

theorem engineDark (e : Nat) : Rationed s (s.engineDark e) := by
  let m := s.modOptics fun o => { o with evDark := true }
  have hm : Rationed s (m.setInv { m.inv with laserActive := m.inv.laserActive - 1, degraded := m.inv.degraded ||| (3#16 <<< (2 * e)) }) := ⟨rfl, rfl⟩
  exact hm.trans ((Logged.raise _ 0x0622).trans (Logged.capacityChange _ regOptInv noReg 0)).rationed

theorem queueSpare (c e : Nat) : Rationed s (s.queueSpare c e) := ⟨rfl, rfl⟩

theorem lackSpare (w : Option Nat) (e : Nat) : Rationed s (s.lackSpare w e) := ⟨rfl, rfl⟩

theorem respare (e : Nat) : Rationed s (s.respare e) := by
  refine (refl s).ite ?_
  split
  · exact queueSpare s _ e
  · exact (lackSpare s none e).ite (engineDark s e)

theorem swapWorn (w e : Nat) : Rationed s (s.swapWorn w e) := by
  unfold State.swapWorn
  split
  · exact (lackSpare s (some w) e).ite (refl s)
  · exact (queueSpare s _ e).trans ⟨rfl, rfl⟩

theorem serveLacking : Rationed s s.serveLacking := by
  refine (⟨rfl, rfl⟩ : Rationed s (s.modOptics fun o => { o with lacking := [] })).trans (foldl _ _ _ fun s x => ?_)
  split
  · exact swapWorn s _ _
  · exact respare s _

end Rationed

/-! Ports that go down with their engine. -/

theorem State.portGone_inv (s : State) (n : Nat) : (s.portGone n).inv = s.inv := by
  have hsubs : ∀ (l : List Nat) (u : State), (l.foldl (fun s k => s.subDown n k) u).inv = u.inv := fun l => by
    induction l with
    | nil => exact fun _ => rfl
    | cons k r ih => exact fun u => (ih _).trans (u.subDown_inv n k)
  exact (Moves.portLost _ n).inv.trans ((hsubs _ _).trans (Moves.unqueue s n _).inv)

theorem State.engineDown_inv (s : State) (e : Nat) : (s.engineDown e).inv = s.inv := (State.portGone_inv _ _).trans (State.portGone_inv _ _)

theorem State.engineDown_optics (s : State) (e : Nat) : (s.engineDown e).optics = { s.optics with ports := (s.engineDown e).optics.ports } :=
  ((WorkOn.portGone (2 * e) s).work.trans (WorkOn.portGone (2 * e + 1) _).work).optics

/-- A port that is down stays down while others go down. -/
theorem State.portsGone_keeps_down (l : List Nat) (s : State) (n : Nat) (hn : n < s.optics.ports.length) (h : (s.port n).subUp = 0) :
    ((l.foldl State.portGone s).port n).subUp = 0 := by
  induction l generalizing s with
  | nil => exact h
  | cons k r ih =>
    refine ih _ (by rwa [(Rationed.portGone s k).count]) ?_
    by_cases hk : n = k
    · subst hk
      exact s.portGone_subUp n hn
    · exact (samePort_field ((WorkOn.portGone k s).others n hk) Port.subUp fun _ _ _ => rfl).trans h

/-- Every port of a list goes down. -/
theorem State.portsGone_subUp (l : List Nat) (s : State) (n : Nat) (hn : n < s.optics.ports.length) (h : n ∈ l) :
    ((l.foldl State.portGone s).port n).subUp = 0 := by
  induction l generalizing s with
  | nil => cases h
  | cons k r ih =>
    have hcount : n < (s.portGone k).optics.ports.length := by rwa [(Rationed.portGone s k).count]
    obtain rfl | hr := List.mem_cons.1 h
    · exact State.portsGone_keeps_down r _ n hcount (s.portGone_subUp n hn)
    · exact ih _ hcount hr

/-! The next ramp (R338, R339). -/

/-- From `s` to `t` a ramp may have started: one channel that waited for its turn ramps. -/
structure RampBegun (s t : State) : Prop where
  state : t = s.setOptics { s.optics with rampQ := t.optics.rampQ, rampFor := t.optics.rampFor, lasers := t.optics.lasers }
  laser : ∀ k, t.laser k = s.laser k ∨ ((∃ x ∈ s.optics.rampQ, x.1 = k) ∧ t.laser k = { s.laser k with st := .ramping })
  turn : ∀ x ∈ s.optics.rampQ, x.1 < s.optics.lasers.length → (t.laser x.1).st = .ramping ∨ x ∈ t.optics.rampQ

theorem State.startRamp_of_empty (s : State) (h : s.optics.rampQ = []) : s.startRamp = s := by
  unfold State.startRamp
  rw [h]

theorem State.startRamp_of_ready (s : State) (c e : Nat) (r : List (Nat × Nat)) (h : s.optics.rampQ = (c, e) :: r) (hr : s.ramping = false)
    (hrail : s.optics.rail = true) (ha : s.optics.allOff = false) :
    s.startRamp = (s.modOptics fun o => { o with rampQ := r, rampFor := o.rampFor ++ [(c, e)] }).modLaser c fun l => { l with st := .ramping } := by
  unfold State.startRamp
  rw [h]
  dsimp only
  rw [if_neg (by simp [hr, hrail, ha])]

theorem RampBegun.refl (s : State) : RampBegun s s := ⟨rfl, fun _ => .inl rfl, fun _ hx _ => .inr hx⟩

theorem RampBegun.startRamp (s : State) : RampBegun s s.startRamp := by
  unfold State.startRamp
  split
  · exact .refl s
  · next c e r hq =>
    split
    · exact .refl s
    · refine ⟨rfl, fun k => ?_, fun x hx hlt => ?_⟩
      · rw [State.laser_modLaser]
        split
        · next h => exact .inr ⟨⟨(c, e), by rw [hq]; exact List.mem_cons_self, h.1.symm⟩, by rw [h.1]; rfl⟩
        · exact .inl rfl
      · rw [hq] at hx
        obtain rfl | hr := List.mem_cons.1 hx
        · exact .inl (congrArg Laser.st (State.laser_modLaser_self _ c _ hlt))
        · exact .inr hr

section
variable {s t : State} (h : RampBegun s t)
include h

theorem RampBegun.optics : t.optics = { s.optics with rampQ := t.optics.rampQ, rampFor := t.optics.rampFor, lasers := t.optics.lasers } := by
  rw [h.state]
  rfl

theorem RampBegun.setOptics (o : Optics) : t.setOptics o = s.setOptics o := by
  rw [h.state]
  rfl

theorem RampBegun.mem : t.mem = s.mem := by
  rw [h.state]
  rfl

theorem RampBegun.queues : t.queues = s.queues := by
  rw [h.state]
  rfl

/-- A channel that does not wait for its turn is left as it is. -/
theorem RampBegun.laser_of_not_waiting (k : Nat) (hk : ∀ x ∈ s.optics.rampQ, x.1 ≠ k) : t.laser k = s.laser k := by
  obtain he | ⟨⟨x, hx, hxk⟩, -⟩ := h.laser k
  · exact he
  · exact absurd hxk (hk x hx)

end

/-! The spare that is next (R340). -/

/-- Channel `k` is a good spare that is dark and has no ramp but that of the monitor waiting (R340). -/
structure State.SpareReady (s : State) (k : Nat) : Prop where
  good : (s.laser k).failed = false
  dark : (s.laser k).st = .dark
  idle : (s.laser k).engine = none
  waits : ∀ x ∈ s.optics.rampQ, x.1 = k → x.2 = monitor
  ramps : ∀ x ∈ s.optics.rampFor, x.1 ≠ k

/-- The test of `goodSpare`. -/
def State.readyTest (s : State) (k : Nat) : Bool :=
  !(s.laser k).failed && (s.laser k).st == .dark && (s.laser k).engine.isNone && !(s.optics.rampQ.any fun x => x.1 == k && x.2 != monitor) &&
    !(s.optics.rampFor.any fun x => x.1 == k)

theorem State.readyTest_iff (s : State) (k : Nat) : s.readyTest k = true ↔ s.SpareReady k := by
  unfold State.readyTest
  constructor
  · intro h
    simp only [Bool.and_eq_true, Bool.not_eq_true', beq_iff_eq, Option.isNone_iff_eq_none, List.any_eq_false, bne_iff_ne] at h
    obtain ⟨⟨⟨⟨hgood, hdark⟩, hidle⟩, hwaits⟩, hramps⟩ := h
    exact ⟨hgood, hdark, hidle, fun x hx hk => Decidable.byContradiction fun hm => hwaits x hx ⟨hk, hm⟩, hramps⟩
  · rintro ⟨hgood, hdark, hidle, hwaits, hramps⟩
    simp only [Bool.and_eq_true, Bool.not_eq_true', beq_iff_eq, Option.isNone_iff_eq_none, List.any_eq_false, bne_iff_ne]
    exact ⟨⟨⟨⟨hgood, hdark⟩, hidle⟩, fun x hx hk => hk.2 (hwaits x hx hk.1)⟩, hramps⟩

theorem State.goodSpare_eq (s : State) : s.goodSpare = (List.range 10).find? s.readyTest := rfl

theorem State.goodSpare_eq_some_iff (s : State) (sp : Nat) : s.goodSpare = some sp ↔ sp < 10 ∧ s.SpareReady sp ∧ ∀ k, k < sp → ¬ s.SpareReady k := by
  rw [s.goodSpare_eq, List.find?_range_eq_some]
  simp only [List.mem_range, Bool.not_eq_true', Bool.eq_false_iff, ne_eq, s.readyTest_iff]
  exact ⟨fun ⟨h, hlt, hmin⟩ => ⟨hlt, h, hmin⟩, fun ⟨hlt, h, hmin⟩ => ⟨h, hlt, hmin⟩⟩

theorem State.goodSpare_eq_none_iff (s : State) : s.goodSpare = none ↔ ∀ k, k < 10 → ¬ s.SpareReady k := by
  rw [s.goodSpare_eq, List.find?_eq_none]
  simp only [List.mem_range, s.readyTest_iff]

theorem State.goodSpare_congr {s t : State} (h : ∀ k, k < 10 → (t.SpareReady k ↔ s.SpareReady k)) : t.goodSpare = s.goodSpare := by
  rw [t.goodSpare_eq, s.goodSpare_eq]
  refine List.find?_congr fun k hk => ?_
  rw [Bool.eq_iff_iff, t.readyTest_iff, s.readyTest_iff, h k (List.mem_range.1 hk)]

theorem State.spareComing_eq_false_iff (s : State) (e : Nat) :
    s.spareComing e = false ↔ ∀ x ∈ s.optics.rampFor ++ s.optics.rampQ, x.2 = e → (s.laser x.1).engine ≠ none := by
  unfold State.spareComing
  rw [List.any_eq_false]
  simp [Option.isNone_iff_eq_none]

theorem State.spareChecked_iff (s : State) : s.spareChecked = true ↔ ∃ x ∈ s.optics.rampFor, x.2 = monitor ∧ (s.laser x.1).failed = false := by
  unfold State.spareChecked
  simp [List.any_eq_true]

/-! What an engine without a channel gets (R338, R340). -/

section
variable (s : State) (e : Nat) (hc : s.spareComing e = false)
include hc

theorem State.respare_of_spare (sp : Nat) (h : s.goodSpare = some sp) : s.respare e = s.queueSpare sp e := by
  unfold State.respare
  rw [if_neg (by rw [hc]; exact Bool.false_ne_true), h]

theorem State.respare_of_checked (h : s.goodSpare = none) (hk : s.spareChecked = true) : s.respare e = s.lackSpare none e := by
  unfold State.respare
  rw [if_neg (by rw [hc]; exact Bool.false_ne_true), h]
  exact if_pos hk

theorem State.respare_of_none (h : s.goodSpare = none) (hk : s.spareChecked = false) : s.respare e = s.engineDark e := by
  unfold State.respare
  rw [if_neg (by rw [hc]; exact Bool.false_ne_true), h]
  exact if_neg (by rw [hk]; exact Bool.false_ne_true)

end

/-- A spare's ramp waits behind those of other spares only (R338). -/
theorem State.queueSpare_rampQ (s : State) (c e : Nat) :
    ∃ a b, (s.queueSpare c e).optics.rampQ = a ++ (c, e) :: b ∧ ∀ x ∈ a, x.2 ≠ monitor ∧ (s.laser x.1).engine = none := by
  refine ⟨_, _, rfl, fun x hx => ?_⟩
  have hx := List.mem_takeWhile_imp hx
  simpa [Option.isNone_iff_eq_none] using hx

theorem State.engineDark_ports (s : State) (e k : Nat) : (s.engineDark e).port k = s.port k :=
  ((Logged.capacityChange _ regOptInv noReg 0).port k).trans ((Logged.raise _ 0x0622).port k)

/-- The ports of an engine stay as they are when it gets a spare or goes dark. -/
theorem State.respare_port (s : State) (e k : Nat) : (s.respare e).port k = s.port k := by
  unfold State.respare
  split
  · rfl
  · split
    · rfl
    · split
      · rfl
      · exact s.engineDark_ports e k

/-- An engine that goes dark (R340). -/
theorem State.engineDark_effect (s : State) (e : Nat) (he : e < 8) :
    (s.engineDark e).optics.evDark = true ∧ (s.engineDark e).inv.laserActive = s.inv.laserActive - 1 ∧
      (s.engineDark e).inv.degraded.getLsbD (2 * e) = true ∧ (s.engineDark e).inv.degraded.getLsbD (2 * e + 1) = true := by
  let v := (s.modOptics fun o => { o with evDark := true }).setInv { s.inv with
    laserActive := s.inv.laserActive - 1, degraded := s.inv.degraded ||| (3#16 <<< (2 * e)) }
  have hlog : Logged v (s.engineDark e) := (Logged.raise v 0x0622).trans (Logged.capacityChange _ regOptInv noReg 0)
  have hbits (b : BitVec 16) : (b ||| (3#16 <<< (2 * e))).getLsbD (2 * e) = true ∧ (b ||| (3#16 <<< (2 * e))).getLsbD (2 * e + 1) = true := by
    rw [BitVec.getLsbD_or, BitVec.getLsbD_or, BitVec.getLsbD_shiftLeft, BitVec.getLsbD_shiftLeft, Nat.sub_self, Nat.add_sub_cancel_left,
      decide_eq_true (by omega : 2 * e < 16), decide_eq_true (by omega : 2 * e + 1 < 16), decide_eq_false (by omega : ¬ 2 * e < 2 * e),
      decide_eq_false (by omega : ¬ 2 * e + 1 < 2 * e)]
    simp
  rw [hlog.optics, hlog.inv]
  exact ⟨rfl, rfl, hbits s.inv.degraded⟩

end Sys2Proof.Machine
end

section
/-! SUPPORT. LASER_SHORT (R338 to R340). -/

namespace Sys2Proof.Machine

/-- A channel as a short of another one leaves it at time `t`: a ramp pauses at its present bias (R339, R346). -/
def Laser.paused (l : Laser) (t k : Nat) : Laser := if l.st = .ramping then { l with st := .paused, bias := l.present t k } else l

/-- The shorted channel is latched off (R339). -/
def State.chanOff (s : State) (c : Nat) : State := s.modLaser c fun l => { l with st := .failed, failed := true, bias := 0, engine := none }

/-- Every ramp pauses, and channel `c` neither ramps nor replaces another (R339). -/
def State.rampsPaused (s : State) (c : Nat) : State :=
  s.modOptics fun o => { o with
    evShort := true, rail := false
    lasers := o.lasers.zipIdx.map fun x => x.1.paused s.nowUs x.2
    rampFor := o.rampFor.filter (fun x => x.1 != c), worn := o.worn.filter (fun x => x.2 != c && x.1 != c), lacking := o.lacking.filter fun x => x.1 != some c }

/-- The state after steps 1 and 2 of R339. -/
def State.shorted (s : State) (c : Nat) : State := ((s.chanOff c).rampsPaused c).mapChanged.raise 0x0620

/-- The state in which the engine of the shorted channel looks for a spare. -/
def State.shortDown (s : State) (c e : Nat) : State := (s.shorted c).engineDown e

theorem State.spareUsed_logged (s : State) : Logged (s.setInv { s.inv with laserSpares := s.inv.laserSpares - 1 }) s.spareUsed := .capacityChange _ _ _ _

section
variable (s : State) (c : Fin 10)

theorem execLaserShort_of_off (h : (s.laser c.val).st = .dark ∨ (s.laser c.val).st = .failed) : exec (.laserShort c) s = .next s :=
  if_pos (by simpa using h)

/-- A short of a channel that feeds an engine. -/
theorem execLaserShort_of_fed (e : Nat) (hd : (s.laser c.val).st ≠ .dark) (hf : (s.laser c.val).st ≠ .failed) (he : (s.laser c.val).engine = some e) :
    exec (.laserShort c) s = .next ((s.shortDown c.val e).respare e) := by
  refine (if_neg (by simp [hd, hf])).trans ?_
  dsimp only
  rw [he]
  rfl

/-- A short of a channel that feeds no engine. -/
theorem execLaserShort_of_unfed (hd : (s.laser c.val).st ≠ .dark) (hf : (s.laser c.val).st ≠ .failed) (he : (s.laser c.val).engine = none) :
    ∃ t, exec (.laserShort c) s = .next t ∧ Rationed (s.shorted c.val).spareUsed t := by
  have hon : ¬ ((s.laser c.val).st == .dark || (s.laser c.val).st == .failed) = true := by simp [hd, hf]
  change ∃ t, execLaserShort c s = .next t ∧ _
  unfold execLaserShort
  dsimp only
  rw [if_neg hon, he, if_pos Option.isNone_none]
  split
  · next h => cases h
  · split
    · exact ⟨_, rfl, .serveLacking _⟩
    · refine ⟨_, rfl, ?_⟩
      split
      · exact .swapWorn _ _ _
      · exact (Rationed.engineDown _ _).trans (.respare _ _)
  · exact ⟨_, rfl, .refl _⟩

end

/-! The channels and the queues after the short. -/

section
variable (s : State) (c : Nat)

theorem State.shorted_logged : Logged ((s.chanOff c).rampsPaused c).mapChanged (s.shorted c) := .raise _ _

theorem State.rampsPaused_laser (k : Nat) : (s.rampsPaused c).laser k = (s.laser k).paused s.nowUs k := by
  unfold State.laser
  simp only [List.getD_eq_getElem?_getD, State.rampsPaused, State.modOptics, State.setOptics, List.getElem?_map, List.getElem?_zipIdx]
  cases s.optics.lasers[k]? with
  | none => rfl
  | some l => simp

theorem State.shorted_laser (k : Nat) : (s.shorted c).laser k = ((s.chanOff c).laser k).paused s.nowUs k :=
  (State.laser_congr (congrArg Optics.lasers (s.shorted_logged c).optics) k).trans ((s.chanOff c).rampsPaused_laser c k)

theorem State.shorted_laser_self (hc : c < s.optics.lasers.length) :
    (s.shorted c).laser c = { s.laser c with st := .failed, failed := true, bias := 0, engine := none } := by
  rw [s.shorted_laser, State.chanOff, s.laser_modLaser_self c _ hc]
  rfl

theorem State.shorted_laser_ne (k : Nat) (hk : k ≠ c) : (s.shorted c).laser k = (s.laser k).paused s.nowUs k := by
  rw [s.shorted_laser, State.chanOff, s.laser_modLaser_ne c k _ hk]

theorem State.shorted_optics : (s.shorted c).optics = ((s.chanOff c).rampsPaused c).optics := (s.shorted_logged c).optics

theorem State.shorted_inv : (s.shorted c).inv = s.inv := (s.shorted_logged c).inv

end

theorem Laser.paused_engine (l : Laser) (t k : Nat) : (l.paused t k).engine = l.engine := by
  unfold Laser.paused
  split <;> rfl

theorem Laser.paused_failed (l : Laser) (t k : Nat) : (l.paused t k).failed = l.failed := by
  unfold Laser.paused
  split <;> rfl

theorem Laser.paused_dark_iff (l : Laser) (t k : Nat) : (l.paused t k).st = .dark ↔ l.st = .dark := by
  unfold Laser.paused
  split
  · next h => simp [h]
  · rfl

/-! The engine of the shorted channel. -/

section
variable (s : State) (c e : Nat)

theorem State.shortDown_laser (k : Nat) : (s.shortDown c e).laser k = (s.shorted c).laser k := (Rationed.engineDown _ e).laser k

theorem State.shortDown_optics : (s.shortDown c e).optics = { ((s.chanOff c).rampsPaused c).optics with ports := (s.shortDown c e).optics.ports } :=
  (State.engineDown_optics _ e).trans (by rw [s.shorted_optics c]; rfl)

theorem State.shortDown_rampQ : (s.shortDown c e).optics.rampQ = s.optics.rampQ := by
  rw [s.shortDown_optics]
  rfl

theorem State.shortDown_rampFor : (s.shortDown c e).optics.rampFor = s.optics.rampFor.filter fun x => x.1 != c := by
  rw [s.shortDown_optics]
  rfl

theorem State.shortDown_evDark : (s.shortDown c e).optics.evDark = s.optics.evDark := by
  rw [s.shortDown_optics]
  rfl

theorem State.shortDown_inv : (s.shortDown c e).inv = s.inv := (State.engineDown_inv _ e).trans (s.shorted_inv c)

variable (hc : c < s.optics.lasers.length)
include hc

/-- The spares that are ready after the short are those that were ready, apart from the shorted channel. -/
theorem State.shortDown_spareReady (k : Nat) :
    (s.shortDown c e).SpareReady k ↔ k ≠ c ∧ s.SpareReady k := by
  by_cases hk : k = c
  · subst hk
    refine ⟨fun h => ?_, fun h => absurd rfl h.1⟩
    have hgood := h.good
    rw [s.shortDown_laser, s.shorted_laser_self k hc] at hgood
    cases hgood
  · have hramps : (∀ x ∈ s.optics.rampFor.filter (fun x => x.1 != c), x.1 ≠ k) ↔ ∀ x ∈ s.optics.rampFor, x.1 ≠ k := by
      refine ⟨fun h x hx he => h x (List.mem_filter.2 ⟨hx, ?_⟩) he, fun h x hx => h x (List.mem_filter.1 hx).1⟩
      rw [he]
      exact bne_iff_ne.2 hk
    constructor
    · rintro ⟨hgood, hdark, hidle, hwaits, hfor⟩
      rw [s.shortDown_laser, s.shorted_laser_ne c k hk] at hgood hdark hidle
      rw [Laser.paused_failed] at hgood
      rw [Laser.paused_dark_iff] at hdark
      rw [Laser.paused_engine] at hidle
      rw [s.shortDown_rampQ] at hwaits
      rw [s.shortDown_rampFor] at hfor
      exact ⟨hk, hgood, hdark, hidle, hwaits, hramps.1 hfor⟩
    · rintro ⟨-, hgood, hdark, hidle, hwaits, hfor⟩
      refine ⟨?_, ?_, ?_, ?_, ?_⟩
      · rw [s.shortDown_laser, s.shorted_laser_ne c k hk, Laser.paused_failed, hgood]
      · rw [s.shortDown_laser, s.shorted_laser_ne c k hk, Laser.paused_dark_iff, hdark]
      · rw [s.shortDown_laser, s.shorted_laser_ne c k hk, Laser.paused_engine, hidle]
      · rw [s.shortDown_rampQ]
        exact hwaits
      · rw [s.shortDown_rampFor]
        exact hramps.2 hfor

omit hc in
theorem State.shortDown_engine (k : Nat) (hk : k ≠ c) : ((s.shortDown c e).laser k).engine = (s.laser k).engine := by
  rw [s.shortDown_laser, s.shorted_laser_ne c k hk, Laser.paused_engine]

omit hc in
theorem State.shortDown_spareComing (hfor : ∀ x ∈ s.optics.rampFor, x.2 = e → x.1 = c ∨ (s.laser x.1).engine ≠ none)
    (hq : ∀ x ∈ s.optics.rampQ, x.2 = e → x.1 ≠ c ∧ (s.laser x.1).engine ≠ none) : (s.shortDown c e).spareComing e = false := by
  rw [State.spareComing_eq_false_iff, s.shortDown_rampFor, s.shortDown_rampQ]
  intro x hx he
  obtain hx | hx := List.mem_append.1 hx
  · obtain ⟨hx, hxc⟩ := List.mem_filter.1 hx
    have hxc : x.1 ≠ c := bne_iff_ne.1 hxc
    rw [s.shortDown_engine c e x.1 hxc]
    exact (hfor x hx he).resolve_left hxc
  · obtain ⟨hxc, hne⟩ := hq x hx he
    rwa [s.shortDown_engine c e x.1 hxc]

omit hc in
theorem State.shortDown_spareChecked :
    (s.shortDown c e).spareChecked = true ↔ ∃ x ∈ s.optics.rampFor, x.1 ≠ c ∧ x.2 = 8 ∧ (s.laser x.1).failed = false := by
  have hlaser (k : Nat) (hk : k ≠ c) : ((s.shortDown c e).laser k).failed = (s.laser k).failed := by
    rw [s.shortDown_laser, s.shorted_laser_ne c k hk, Laser.paused_failed]
  rw [State.spareChecked_iff, s.shortDown_rampFor]
  constructor
  · rintro ⟨x, hx, hm, hgood⟩
    obtain ⟨hx, hxc⟩ := List.mem_filter.1 hx
    have hxc : x.1 ≠ c := bne_iff_ne.1 hxc
    exact ⟨x, hx, hxc, hm, by rwa [← hlaser x.1 hxc]⟩
  · rintro ⟨x, hx, hxc, hm, hgood⟩
    exact ⟨x, List.mem_filter.2 ⟨hx, bne_iff_ne.2 hxc⟩, hm, by rwa [hlaser x.1 hxc]⟩

end

end Sys2Proof.Machine
end

section
open Sys2Proof Sys2Proof.Machine

namespace Sys2Proof.Claims

/-- What LASER_SHORT gives the engine of the shorted channel (R338, R340). -/
theorem laserShort_engine (c e sp : Nat) (s : State) (hc : c < s.optics.lasers.length) (he : e < 8)
    (hfor : ∀ x ∈ s.optics.rampFor, x.2 = e → x.1 = c ∨ (s.laser x.1).engine ≠ none)
    (hq : ∀ x ∈ s.optics.rampQ, x.2 = e → x.1 ≠ c ∧ (s.laser x.1).engine ≠ none) :
    let t := (s.shortDown c e).respare e
    let ok := fun k => k < 10 ∧ k ≠ c ∧ (s.laser k).failed = false ∧ (s.laser k).st = .dark ∧ (s.laser k).engine = none ∧
      (∀ x ∈ s.optics.rampQ, x.1 = k → x.2 = 8) ∧ (∀ x ∈ s.optics.rampFor, x.1 ≠ k)
    let checked := ∃ x ∈ s.optics.rampFor, x.1 ≠ c ∧ x.2 = 8 ∧ (s.laser x.1).failed = false
    (ok sp → (∀ k, k < sp → ¬ ok k) → (∃ a b, t.optics.rampQ = a ++ (sp, e) :: b ∧ ∀ x ∈ a, x.2 ≠ 8 ∧ (t.laser x.1).engine = none) ∧
      t.inv.laserActive = s.inv.laserActive) ∧
    ((∀ k, ¬ ok k) → checked → (none, e) ∈ t.optics.lacking ∧ t.optics.evDark = s.optics.evDark ∧ t.inv.laserActive = s.inv.laserActive) ∧
    ((∀ k, ¬ ok k) → ¬ checked → t.optics.evDark = true ∧ t.inv.laserActive = s.inv.laserActive - 1 ∧ t.inv.degraded.getLsbD (2 * e) = true ∧
      t.inv.degraded.getLsbD (2 * e + 1) = true) := by
  intro t ok checked
  let u := s.shortDown c e
  have hcoming : u.spareComing e = false := s.shortDown_spareComing c e hfor hq
  have hinv : u.inv = s.inv := s.shortDown_inv c e
  have hok (k : Nat) : ok k ↔ k < 10 ∧ u.SpareReady k := by
    rw [s.shortDown_spareReady c e hc k]
    exact ⟨fun ⟨hlt, hk, h1, h2, h3, h4, h5⟩ => ⟨hlt, hk, h1, h2, h3, h4, h5⟩, fun ⟨hlt, hk, h1, h2, h3, h4, h5⟩ => ⟨hlt, hk, h1, h2, h3, h4, h5⟩⟩
  have hnone (h : ∀ k, ¬ ok k) : u.goodSpare = none := u.goodSpare_eq_none_iff.2 fun k hlt hr => h k ((hok k).2 ⟨hlt, hr⟩)
  have hchecked : u.spareChecked = true ↔ checked := s.shortDown_spareChecked c e
  refine ⟨fun hsp hmin => ?_, fun hno hch => ?_, fun hno hch => ?_⟩
  · obtain ⟨hlt, hready⟩ := (hok sp).1 hsp
    have hgood : u.goodSpare = some sp :=
      (u.goodSpare_eq_some_iff sp).2 ⟨hlt, hready, fun k hk hr => hmin k hk ((hok k).2 ⟨Nat.lt_trans hk hlt, hr⟩)⟩
    have ht : t = u.queueSpare sp e := u.respare_of_spare e hcoming sp hgood
    rw [ht]
    exact ⟨u.queueSpare_rampQ sp e, congrArg Inv.laserActive hinv⟩
  · have ht : t = u.lackSpare none e := u.respare_of_checked e hcoming (hnone hno) (hchecked.2 hch)
    rw [ht]
    exact ⟨List.mem_append_right _ List.mem_cons_self, s.shortDown_evDark c e, congrArg Inv.laserActive hinv⟩
  · have ht : t = u.engineDark e := u.respare_of_none e hcoming (hnone hno) (Bool.eq_false_iff.2 fun h => hch (hchecked.1 h))
    obtain ⟨hdark, hactive, hbits⟩ := u.engineDark_effect e he
    rw [ht]
    exact ⟨hdark, hactive.trans (by rw [hinv]), hbits⟩

/-- LASER_SHORT of a channel that carries current (R338 to R340). -/
theorem laserShort_effect (c : Fin 10) (s : State) (h10 : s.optics.lasers.length = 10) (h16 : s.optics.ports.length = 16)
    (hd : (s.laser c.val).st ≠ .dark) (hf : (s.laser c.val).st ≠ .failed) :
    let l := s.laser c.val
    ∃ t : State, exec (.laserShort c) s = .next t ∧ (t.laser c.val).st = .failed ∧ (t.laser c.val).failed = true ∧ (t.laser c.val).engine = none ∧
      t.optics.evShort = true ∧ t.optics.rail = false ∧ t.flash.mapDirty = true ∧ t.mem = s.mem ∧ t.queues = s.queues ∧
      (∀ k, k ≠ c.val → t.laser k = if (s.laser k).st = .ramping then { s.laser k with st := .paused, bias := (s.laser k).present s.nowUs k } else s.laser k) ∧
      (∀ e sp, l.engine = some e → e < 8 → (∀ x ∈ s.optics.rampFor, x.2 = e → x.1 = c.val ∨ (s.laser x.1).engine ≠ none) →
        (∀ x ∈ s.optics.rampQ, x.2 = e → x.1 ≠ c.val ∧ (s.laser x.1).engine ≠ none) →
        (let ok := fun k => k < 10 ∧ k ≠ c.val ∧ (s.laser k).failed = false ∧ (s.laser k).st = .dark ∧ (s.laser k).engine = none ∧
            (∀ x ∈ s.optics.rampQ, x.1 = k → x.2 = 8) ∧ (∀ x ∈ s.optics.rampFor, x.1 ≠ k)
         let checked := ∃ x ∈ s.optics.rampFor, x.1 ≠ c.val ∧ x.2 = 8 ∧ (s.laser x.1).failed = false
         (ok sp → (∀ k, k < sp → ¬ ok k) → (∃ a b, t.optics.rampQ = a ++ (sp, e) :: b ∧ ∀ x ∈ a, x.2 ≠ 8 ∧ (t.laser x.1).engine = none) ∧
            t.inv.laserActive = s.inv.laserActive) ∧
         ((∀ k, ¬ ok k) → checked → (none, e) ∈ t.optics.lacking ∧ t.optics.evDark = s.optics.evDark ∧ t.inv.laserActive = s.inv.laserActive) ∧
         ((∀ k, ¬ ok k) → ¬ checked → t.optics.evDark = true ∧ t.inv.laserActive = s.inv.laserActive - 1 ∧ t.inv.degraded.getLsbD (2 * e) = true ∧
            t.inv.degraded.getLsbD (2 * e + 1) = true)) ∧ (t.port (2 * e)).subUp = 0 ∧ (t.port (2 * e + 1)).subUp = 0) ∧
      (l.engine = none → t.inv.laserSpares = s.inv.laserSpares - 1) := by
  intro l
  have hc : c.val < s.optics.lasers.length := by omega
  have hself := s.shorted_laser_self c.val hc
  have hlog := s.shorted_logged c.val
  have hoptics := s.shorted_optics c.val
  cases he : l.engine with
  | some e =>
    have hr : Rationed (s.shorted c.val) ((s.shortDown c.val e).respare e) := (Rationed.engineDown _ e).trans (Rationed.respare _ e)
    have hdown (k : Nat) (hk : k ∈ [2 * e, 2 * e + 1]) (h8 : e < 8) : (((s.shortDown c.val e).respare e).port k).subUp = 0 := by
      rw [State.respare_port]
      refine State.portsGone_subUp [2 * e, 2 * e + 1] (s.shorted c.val) k ?_ hk
      have hlen : (s.shorted c.val).optics.ports.length = 16 := by rw [hoptics]; exact h16
      simp only [List.mem_cons, List.not_mem_nil, or_false] at hk
      omega
    refine ⟨_, execLaserShort_of_fed s c e hd hf he, ?_, ?_, ?_, ?_, ?_, ?_, ?_, ?_, fun k hk => ?_, fun e' sp he' h8 hfor hq => ?_, fun h => nomatch h⟩
    · rw [hr.laser, hself]
    · rw [hr.laser, hself]
    · rw [hr.laser, hself]
    · rw [hr.evShort, hoptics]; rfl
    · rw [hr.rail, hoptics]; rfl
    · rw [hr.mapDirty, hlog.flash]; rfl
    · rw [hr.mem, hlog.mem]; rfl
    · rw [hr.queues, hlog.queues]; rfl
    · rw [hr.laser, s.shorted_laser_ne c.val k hk]; rfl
    · obtain rfl : e = e' := Option.some.inj he'
      exact ⟨laserShort_engine c.val e sp s hc h8 hfor hq, hdown _ List.mem_cons_self h8, hdown _ (List.mem_cons_of_mem _ List.mem_cons_self) h8⟩
  | none =>
    obtain ⟨t, hrun, hr⟩ := execLaserShort_of_unfed s c hd hf he
    have hused := (s.shorted c.val).spareUsed_logged
    have hlasers (k : Nat) : t.laser k = (s.shorted c.val).laser k := (hr.laser k).trans (State.laser_congr (congrArg Optics.lasers hused.optics) k)
    refine ⟨t, hrun, ?_, ?_, ?_, ?_, ?_, ?_, ?_, ?_, fun k hk => ?_, fun e' sp he' => (nomatch he'), fun _ => ?_⟩
    · rw [hlasers, hself]
    · rw [hlasers, hself]
    · rw [hlasers, hself]
    · rw [hr.evShort, hused.optics]; exact congrArg Optics.evShort hoptics
    · rw [hr.rail, hused.optics]; exact congrArg Optics.rail hoptics
    · rw [hr.mapDirty, hused.flash]; exact congrArg Flash.mapDirty hlog.flash
    · rw [hr.mem, hused.mem]; exact hlog.mem
    · rw [hr.queues, hused.queues]; exact hlog.queues
    · rw [hlasers, s.shorted_laser_ne c.val k hk]; rfl
    · rw [hr.laserSpares, hused.inv]
      exact congrArg (fun v : Inv => v.laserSpares - 1) hlog.inv

end Sys2Proof.Claims
end

section
/-! SUPPORT. The rail, the restart, ramps that end, and worn channels (R338 to R342). -/

namespace Sys2Proof.Machine

/-! The rail (R339, R341). -/

/-- The rail is back, and paused ramps go on (R339). -/
def State.railBack (s : State) : State :=
  s.modOptics fun o => { o with rail := true, lasers := o.lasers.map fun x => if x.st = .paused then { x with st := .ramping } else x }

theorem execLaserRailRegulated_eq (s : State) : exec .laserRailRegulated s = .next s.railBack.startRamp := by rfl

/-- A channel of the ten after a change of each of them. -/
theorem getD_map_laser (l : List Laser) (f : Laser → Laser) (k : Nat) (hk : k < l.length) : (l.map f).getD k {} = f (l.getD k {}) := by
  simp [List.getD_eq_getElem?_getD, List.getElem?_eq_getElem hk]

theorem State.railBack_laser (s : State) (k : Nat) (hk : k < s.optics.lasers.length) (h : (s.laser k).st = .paused) :
    s.railBack.laser k = { s.laser k with st := .ramping } := (getD_map_laser _ _ k hk).trans (if_pos h)

/-- Every channel is turned off (R341). -/
def State.railLost (s : State) : State :=
  s.modOptics fun o => { o with
    evRail := true, allOff := true, railFaults := o.railFaults + 1, rampFor := []
    rampQ := (o.rampFor.filter (fun x => (s.laser x.1).engine.isNone) ++ o.rampQ).filter (fun x => x.2 != monitor)
    lasers := o.lasers.map fun x => if x.failed then x else { x with st := .dark, bias := 0 } }

theorem execLaserRailFault_of_good (s : State) (h : s.optics.rail = true) : exec .laserRailFault s = .next s := if_pos h

theorem execLaserRailFault_eq (s : State) (h : s.optics.rail = false) :
    exec .laserRailFault s = .next ((List.range 16).foldl State.portGone (s.railLost.serveLacking.raise 0x0623)) :=
  if_neg (by rw [h]; exact Bool.false_ne_true)

theorem State.railLost_laser (s : State) (k : Nat) (hk : k < s.optics.lasers.length) (h : (s.laser k).failed = false) :
    s.railLost.laser k = { s.laser k with st := .dark, bias := 0 } :=
  (getD_map_laser _ _ k hk).trans (if_neg (by rw [show (s.optics.lasers.getD k {}).failed = false from h]; exact Bool.false_ne_true))

/-! The restart (R341). -/

/-- The good channels that feed an engine. -/
def State.feedingRamps (s : State) : List (Nat × Nat) :=
  (List.range 10).filterMap fun c => match (s.laser c).engine with | some e => if (s.laser c).failed then none else some (c, e) | none => none

/-- The good spares, each for a ramp under the monitor. -/
def State.monitorRamps (s : State) : List (Nat × Nat) :=
  ((List.range 10).filter fun c => (s.laser c).engine.isNone && !(s.laser c).failed).map fun c => (c, monitor)

/-- The good channels wait for their turn (R338, R341). -/
def State.restarted (s : State) : State :=
  s.modOptics fun o => { o with
    allOff := false, rail := true, rampQ := s.optics.rampQ ++ s.feedingRamps ++ s.monitorRamps.filter fun x => !s.optics.rampQ.any fun y => y.1 == x.1 }

theorem execLaserRestart_of_off (s : State) (h : s.phase = .off ∨ s.optics.allOff = false ∨ 2 ≤ s.optics.railFaults) : exec .laserRestart s = .next s :=
  if_pos (by simpa [or_assoc] using h)

theorem execLaserRestart_eq (s : State) (hp : s.phase ≠ .off) (ha : s.optics.allOff = true) (hr : s.optics.railFaults < 2) :
    exec .laserRestart s = .next s.restarted.startRamp := if_neg (by simp [hp, ha, hr])

/-- Every good channel waits for its turn after a restart. -/
theorem State.restarted_waits (s : State) (k : Nat) (hk : k < 10) (h : (s.laser k).failed = false) : ∃ x ∈ s.restarted.optics.rampQ, x.1 = k := by
  have hin (x : Nat × Nat)
      (hx : x ∈ s.optics.rampQ ++ s.feedingRamps ++ s.monitorRamps.filter fun x => !s.optics.rampQ.any fun y => y.1 == x.1) : x ∈ s.restarted.optics.rampQ := hx
  cases he : (s.laser k).engine with
  | some e =>
    refine ⟨(k, e), hin _ (List.mem_append_left _ (List.mem_append_right _ (List.mem_filterMap.2 ⟨k, List.mem_range.2 hk, ?_⟩))), rfl⟩
    simp [he, h]
  | none =>
    have hmon : (k, monitor) ∈ s.monitorRamps := by
      refine List.mem_map.2 ⟨k, List.mem_filter.2 ⟨List.mem_range.2 hk, ?_⟩, rfl⟩
      simp [he, h]
    cases hany : s.optics.rampQ.any fun y => y.1 == k with
    | true =>
      obtain ⟨y, hy, hyk⟩ := List.any_eq_true.1 hany
      exact ⟨y, hin y (List.mem_append_left _ (List.mem_append_left _ hy)), eq_of_beq hyk⟩
    | false => exact ⟨(k, monitor), hin _ (List.mem_append_right _ (List.mem_filter.2 ⟨hmon, by simp only [hany]; rfl⟩)), rfl⟩

/-! A ramp that ends (R338, R339, R342). -/

/-- Channel `c` ramps no longer. -/
def State.rampGone (s : State) (c : Nat) : State := s.modOptics fun o => { o with rampFor := o.rampFor.filter fun x => x.1 != c }

/-- Channel `c` is lit at the end of its ramp. -/
def State.rampLit (s : State) (c : Nat) : State := (s.rampGone c).modLaser c fun l => { l with st := .lit, bias := laserBias c }

/-- Spare `c` is dark again at the end of its monitor ramp. -/
def State.rampDark (s : State) (c : Nat) : State := (s.rampGone c).modLaser c fun l => { l with st := .dark, bias := 0 }

section
variable (s : State) (c : Fin 10)

theorem execLaserRampDone_of_idle (h : (s.laser c.val).st ≠ .ramping) : exec (.laserRampDone c) s = .next s := if_pos (bne_iff_ne.2 h)

variable (h : (s.laser c.val).st = .ramping)
include h

theorem execLaserRampDone_of_resumed (hfor : ∀ x ∈ s.optics.rampFor, x.1 ≠ c.val) : exec (.laserRampDone c) s = .next (s.rampLit c.val).startRamp := by
  have hfind : (s.optics.rampFor.find? fun x => x.1 == c.val) = none := List.find?_eq_none.2 fun x hx => by simpa using hfor x hx
  change execLaserRampDone c s = _
  unfold execLaserRampDone
  dsimp only
  rw [if_neg (by simp [h]), hfind]
  rfl

theorem execLaserRampDone_of_monitor (hfor : s.optics.rampFor = [(c.val, 8)]) :
    exec (.laserRampDone c) s = .next (s.rampDark c.val).serveLacking.startRamp := by
  have hfind : (s.optics.rampFor.find? fun x => x.1 == c.val) = some (c.val, 8) := by rw [hfor]; simp
  change execLaserRampDone c s = _
  unfold execLaserRampDone
  dsimp only
  rw [if_neg (by simp [h]), hfind]
  rfl

theorem execLaserRampDone_of_engine (e : Nat) (he : e < 8) (hfor : s.optics.rampFor = [(c.val, e)]) :
    exec (.laserRampDone c) s =
      .next (if ((s.rampLit c.val).laser c.val).engine = some e then s.rampLit c.val else (s.rampLit c.val).takeOver c.val e).startRamp := by
  have hfind : (s.optics.rampFor.find? fun x => x.1 == c.val) = some (c.val, e) := by rw [hfor]; simp
  change execLaserRampDone c s = _
  unfold execLaserRampDone
  dsimp only
  rw [if_neg (by simp [h]), hfind]
  dsimp only [Option.map]
  split
  · next h8 => cases h8; omega
  · next e' _ h8 => cases h8; rfl
  · next h8 => cases h8

end

section
variable (s : State) (c : Nat) (hc : c < s.optics.lasers.length)
include hc

theorem State.rampLit_laser : (s.rampLit c).laser c = { s.laser c with st := .lit, bias := laserBias c } := State.laser_modLaser_self _ c _ hc

theorem State.rampDark_laser : (s.rampDark c).laser c = { s.laser c with st := .dark, bias := 0 } := State.laser_modLaser_self _ c _ hc

end

/-- A lone ramp that ends leaves none under way. -/
theorem State.rampGone_rampFor (s : State) (c e : Nat) (h : s.optics.rampFor = [(c, e)]) : (s.rampGone c).optics.rampFor = [] := by
  change s.optics.rampFor.filter (fun x => x.1 != c) = []
  rw [h]
  simp

theorem State.serveLacking_of_empty (s : State) (h : s.optics.lacking = []) : s.serveLacking = s := by
  unfold State.serveLacking State.modOptics State.setOptics
  rw [h, List.foldl_nil, ← h]

theorem State.serveLacking_of_engine (s : State) (e : Nat) (h : s.optics.lacking = [(none, e)]) :
    s.serveLacking = (s.modOptics fun o => { o with lacking := [] }).respare e := by
  unfold State.serveLacking
  rw [h]
  rfl

/-- An engine that waited takes the spare whose monitor ramp has ended (R31, R340). -/
theorem State.served_ramps (s : State) (c e : Nat) (hc : c < 10) (hl : c < s.optics.lasers.length) (hq : s.optics.rampQ = [])
    (hfor : s.optics.rampFor = [(c, 8)]) (hlack : s.optics.lacking = [(none, e)]) (hgood : s.goodSpare = none) (hf : (s.laser c).failed = false)
    (he : (s.laser c).engine = none) (hrail : s.optics.rail = true) (hoff : s.optics.allOff = false) :
    let t := (s.rampDark c).serveLacking.startRamp
    (t.laser c).st = .ramping ∧ t.optics.rampFor = [(c, e)] ∧ t.optics.lacking = [] := by
  intro t
  let u := (s.rampDark c).modOptics fun o => { o with lacking := [] }
  have hufor : u.optics.rampFor = [] := s.rampGone_rampFor c 8 hfor
  have huq : u.optics.rampQ = [] := hq
  have hulaser : u.laser c = { s.laser c with st := .dark, bias := 0 } := s.rampDark_laser c hl
  have hcoming : u.spareComing e = false := (u.spareComing_eq_false_iff e).2 fun x hx => by
    rw [hufor, huq] at hx
    cases hx
  have hready : u.SpareReady c := by
    refine ⟨?_, ?_, ?_, fun x hx => ?_, fun x hx => ?_⟩
    · rw [hulaser]; exact hf
    · rw [hulaser]
    · rw [hulaser]; exact he
    · rw [huq] at hx; cases hx
    · rw [hufor] at hx; cases hx
  have hspare : u.goodSpare = some c := by
    refine (u.goodSpare_eq_some_iff c).2 ⟨hc, hready, fun k hk hr => (s.goodSpare_eq_none_iff.1 hgood) k (Nat.lt_trans hk hc) ?_⟩
    have hlaser : u.laser k = s.laser k := State.laser_modLaser_ne (s.rampGone c) c k _ (Nat.ne_of_lt hk)
    obtain ⟨h1, h2, h3, -, -⟩ := hr
    rw [hlaser] at h1 h2 h3
    refine ⟨h1, h2, h3, fun x hx => ?_, fun x hx => ?_⟩
    · rw [hq] at hx; cases hx
    · rw [hfor, List.mem_singleton] at hx
      rw [hx]
      exact Nat.ne_of_gt hk
  have hserved : (s.rampDark c).serveLacking = u.queueSpare c e :=
    ((s.rampDark c).serveLacking_of_engine e hlack).trans (u.respare_of_spare e hcoming c hspare)
  have hvq : (u.queueSpare c e).optics.rampQ = [(c, e)] := by
    unfold State.queueSpare State.modOptics State.setOptics
    dsimp only
    rw [huq]
    rfl
  have ht : t = ((u.queueSpare c e).modOptics fun o => { o with rampQ := [], rampFor := o.rampFor ++ [(c, e)] }).modLaser c
      fun l => { l with st := .ramping } := by
    rw [← State.startRamp_of_ready (u.queueSpare c e) c e [] hvq (by unfold State.ramping; rw [show (u.queueSpare c e).optics.rampFor = [] from hufor]; rfl)
      hrail hoff, ← hserved]
  rw [ht]
  refine ⟨congrArg Laser.st (State.laser_modLaser_self _ c _ ?_), congrArg (· ++ [(c, e)]) hufor, rfl⟩
  exact (State.lasers_length_modLaser (s.rampGone c) c _).symm ▸ hl

/-! A spare that takes over (R339 step 6, R342). -/

/-- Spare `c` feeds engine `e` in place of the channel `old`. -/
def State.switched (s : State) (c e : Nat) (old : Option Nat) : State :=
  (s.modLaser c fun l => { l with engine := some e }).modOptics fun o => { o with
    evSpared := true, worn := o.worn.filter (fun x => x.2 != c), rampQ := o.rampQ.filter fun x => old != some x.1 }

/-- The worn channel `w` is turned off as engine `e` is switched. -/
def State.wornOff (s : State) (w e : Nat) : State :=
  (s.engineDown e).modLaser w fun l => { l with st := .failed, failed := true, bias := 0, engine := none }

/-- The switch is recorded. -/
def State.switchTold (s : State) : State := (s.mapChanged.raise 0x0621).spareUsed

theorem State.takeOver_of_none (s : State) (c e : Nat) (h : s.optics.worn = []) : s.takeOver c e = (s.switched c e none).switchTold := by
  unfold State.takeOver
  rw [h]
  rfl

theorem State.takeOver_of_worn (s : State) (c e w : Nat) (h : s.optics.worn = [(w, c)]) :
    s.takeOver c e = ((s.wornOff w e).switched c e (some w)).switchTold := by
  unfold State.takeOver
  dsimp only
  rw [show (s.optics.worn.find? fun x => x.2 == c) = some (w, c) by rw [h]; simp]
  rfl

/-- What the record of a switch changes. -/
structure SwitchTold (s t : State) : Prop where
  optics : t.optics = s.optics
  mem : t.mem = s.mem
  queues : t.queues = s.queues
  spares : t.inv.laserSpares = s.inv.laserSpares - 1
  map : t.flash.mapDirty = true

theorem State.switchTold_effect (s : State) : SwitchTold s s.switchTold := by
  have hlog : Logged s.mapChanged (s.mapChanged.raise 0x0621) := .raise _ _
  have hused := (s.mapChanged.raise 0x0621).spareUsed_logged
  refine ⟨hused.optics.trans hlog.optics, hused.mem.trans hlog.mem, hused.queues.trans hlog.queues, ?_, ?_⟩
  · exact (congrArg Inv.laserSpares hused.inv).trans (congrArg (fun v : Inv => v.laserSpares - 1) hlog.inv)
  · exact (congrArg Flash.mapDirty hused.flash).trans (congrArg Flash.mapDirty hlog.flash)

/-! A worn channel (R342). -/

/-- Channel `c` is found worn. -/
def State.foundWorn (s : State) (c : Nat) : State :=
  (s.modLaser c fun l => { l with deficit := max 15 l.deficit, bias := 600 }).modOptics fun o => { o with evWorn := true }

section
variable (s : State) (c : Fin 10)

theorem execLaserWorn_of_idle (h : (s.laser c.val).st ≠ .lit ∨ (s.laser c.val).engine = none ∨ ∃ x ∈ s.optics.worn, x.1 = c.val) :
    exec (.laserWorn c) s = .next s := by
  have hnone : (if (s.laser c.val).st == .lit && !s.optics.worn.any fun x => x.1 == c.val then (s.laser c.val).engine else none) = none := by
    obtain h | h | h := h
    · exact if_neg (by simp [h])
    · rw [h, ite_self]
    · have hany : (s.optics.worn.any fun x => x.1 == c.val) = true := by simpa using h
      exact if_neg (by simp [hany])
  change execLaserWorn c s = _
  unfold execLaserWorn
  dsimp only
  rw [hnone]

theorem execLaserWorn_of_fed (e : Nat) (hl : (s.laser c.val).st = .lit) (he : (s.laser c.val).engine = some e) (hw : ∀ x ∈ s.optics.worn, x.1 ≠ c.val) :
    exec (.laserWorn c) s = .next ((s.foundWorn c.val).swapWorn c.val e).startRamp := by
  have hany : (s.optics.worn.any fun x => x.1 == c.val) = false := by simpa using hw
  change execLaserWorn c s = _
  unfold execLaserWorn
  dsimp only
  rw [hl, hany, he]
  rfl

end

theorem State.foundWorn_goodSpare (s : State) (c : Nat) : (s.foundWorn c).goodSpare = s.goodSpare := by
  refine State.goodSpare_congr fun k _ => ?_
  have hk : ((s.foundWorn c).laser k).failed = (s.laser k).failed ∧ ((s.foundWorn c).laser k).st = (s.laser k).st ∧
      ((s.foundWorn c).laser k).engine = (s.laser k).engine := by
    have hlaser := s.laser_modLaser c k fun l => { l with deficit := max 15 l.deficit, bias := 600 }
    rw [show (s.foundWorn c).laser k = _ from hlaser]
    split
    · next h => rw [h.1]; exact ⟨rfl, rfl, rfl⟩
    · exact ⟨rfl, rfl, rfl⟩
  obtain ⟨hfailed, hst, hengine⟩ := hk
  constructor
  · rintro ⟨h1, h2, h3, h4, h5⟩
    exact ⟨hfailed ▸ h1, hst ▸ h2, hengine ▸ h3, h4, h5⟩
  · rintro ⟨h1, h2, h3, h4, h5⟩
    exact ⟨hfailed.trans h1, hst.trans h2, hengine.trans h3, h4, h5⟩

/-- A spare is sent for a worn channel, and the optics alone change. -/
theorem State.swapWorn_optics (s : State) (w e : Nat) :
    s.swapWorn w e = s.setOptics { s.optics with
      rampQ := (s.swapWorn w e).optics.rampQ, worn := (s.swapWorn w e).optics.worn, lacking := (s.swapWorn w e).optics.lacking } := by
  unfold State.swapWorn
  split
  · split <;> rfl
  · rfl

theorem State.swapWorn_worn_of_spare (s : State) (w e sp : Nat) (h : s.goodSpare = some sp) : (s.swapWorn w e).optics.worn = s.optics.worn ++ [(w, sp)] := by
  unfold State.swapWorn
  rw [h]
  rfl

theorem State.swapWorn_worn_of_none (s : State) (w e : Nat) (h : s.goodSpare = none) : (s.swapWorn w e).optics.worn = s.optics.worn := by
  unfold State.swapWorn
  rw [h]
  dsimp only
  split <;> rfl

/-- The ramp that is queued for a worn channel is that of the next spare. -/
theorem State.mem_swapWorn_rampQ (s : State) (w e : Nat) (x : Nat × Nat) (hx : x ∈ (s.swapWorn w e).optics.rampQ) :
    x ∈ s.optics.rampQ ∨ s.goodSpare = some x.1 := by
  unfold State.swapWorn at hx
  split at hx
  · split at hx <;> exact .inl hx
  · next sp hsp =>
    obtain hx | hx := List.mem_append.1 (show x ∈ _ ++ (sp, e) :: _ from hx)
    · exact .inl (List.mem_of_mem_filter ((List.takeWhile_sublist _).subset hx))
    · obtain rfl | hx := List.mem_cons.1 hx
      · exact .inr hsp
      · exact .inl (List.mem_of_mem_filter ((List.dropWhile_sublist _).subset hx))

end Sys2Proof.Machine
end

section
open Sys2Proof Sys2Proof.Machine

namespace Sys2Proof.Claims

/-- LASER_RAIL_REGULATED (R339). -/
theorem laserRailRegulated_effect (s : State) (h10 : s.optics.lasers.length = 10) :
    ∃ t : State, exec .laserRailRegulated s = .next t ∧ t.optics.rail = true ∧ t.setOptics s.optics = s ∧ t.optics.ports = s.optics.ports ∧
      ∀ k, k < 10 → (s.laser k).st = .paused → (t.laser k).st = .ramping := by
  have hbegun := RampBegun.startRamp s.railBack
  refine ⟨_, execLaserRailRegulated_eq s, ?_, hbegun.setOptics _, ?_, fun k hk hp => ?_⟩
  · rw [hbegun.optics]; rfl
  · rw [hbegun.optics]; rfl
  · have hlaser := s.railBack_laser k (by omega) hp
    obtain he | ⟨-, he⟩ := hbegun.laser k
    · rw [he, hlaser]
    · rw [he]

/-- LASER_RAIL_FAULT (R341). -/
theorem laserRailFault_effect (s : State) (hrail : s.optics.rail = false) (h10 : s.optics.lasers.length = 10) (h16 : s.optics.ports.length = 16) :
    ∃ t : State, exec .laserRailFault s = .next t ∧ t.optics.evRail = true ∧ t.optics.allOff = true ∧ t.optics.railFaults = s.optics.railFaults + 1 ∧
      (∀ k, k < 10 → (s.laser k).failed = false → t.laser k = { s.laser k with st := .dark, bias := 0 }) ∧ (∀ n, n < 16 → (t.port n).subUp = 0) ∧
      t.mem = s.mem ∧ t.queues = s.queues := by
  have hserved : Rationed s.railLost (s.railLost.serveLacking.raise 0x0623) := (Rationed.serveLacking _).trans (Logged.raise _ _).rationed
  have hr : Rationed s.railLost ((List.range 16).foldl State.portGone (s.railLost.serveLacking.raise 0x0623)) := hserved.trans (Rationed.portsGone _ _)
  refine ⟨_, execLaserRailFault_eq s hrail, hr.evRail, hr.allOff, hr.railFaults, fun k hk hf => ?_, fun n hn => ?_, hr.mem, hr.queues⟩
  · rw [hr.laser, s.railLost_laser k (by omega) hf]
  · refine State.portsGone_subUp _ _ n ?_ (List.mem_range.2 hn)
    rw [hserved.count]
    exact h16.symm ▸ hn

/-- LASER_RESTART of channels that are off (R341). -/
theorem laserRestart_effect (s : State) (h10 : s.optics.lasers.length = 10) (hp : s.phase ≠ .off) (ha : s.optics.allOff = true)
    (hr : s.optics.railFaults < 2) :
    ∃ t : State, exec .laserRestart s = .next t ∧ t.setOptics s.optics = s ∧ t.optics.allOff = false ∧ t.optics.rail = true ∧
      ∀ k, k < 10 → (s.laser k).failed = false → (t.laser k).st = .ramping ∨ ∃ x ∈ t.optics.rampQ, x.1 = k := by
  have hbegun := RampBegun.startRamp s.restarted
  refine ⟨_, execLaserRestart_eq s hp ha hr, hbegun.setOptics _, ?_, ?_, fun k hk hf => ?_⟩
  · rw [hbegun.optics]; rfl
  · rw [hbegun.optics]; rfl
  · obtain ⟨x, hx, rfl⟩ := s.restarted_waits k hk hf
    exact (hbegun.turn x hx (show x.1 < s.optics.lasers.length by omega)).imp_right fun h => ⟨x, h, rfl⟩

/-- LASER_RAMP_DONE of a ramp that had paused (R339). -/
theorem laserRampDone_resumed (c : Fin 10) (s : State) (h10 : s.optics.lasers.length = 10) (h : (s.laser c.val).st = .ramping)
    (hq : s.optics.rampQ = []) (hfor : ∀ x ∈ s.optics.rampFor, x.1 ≠ c.val) :
    ∃ t : State, exec (.laserRampDone c) s = .next t ∧ t.laser c.val = { s.laser c.val with st := .lit, bias := laserBias c.val } ∧ t.mem = s.mem := by
  refine ⟨s.rampLit c.val, ?_, s.rampLit_laser c.val (by omega), rfl⟩
  rw [execLaserRampDone_of_resumed s c h hfor, State.startRamp_of_empty (s.rampLit c.val) hq]

/-- LASER_RAMP_DONE of a monitor ramp (R338, R340). -/
theorem laserRampDone_monitor (c : Fin 10) (s : State) (h10 : s.optics.lasers.length = 10) (h : (s.laser c.val).st = .ramping)
    (hq : s.optics.rampQ = []) (hfor : s.optics.rampFor = [(c.val, 8)]) :
    ∃ t : State, exec (.laserRampDone c) s = .next t ∧ t.mem = s.mem ∧ t.queues = s.queues ∧
      (s.optics.lacking = [] → t.laser c.val = { s.laser c.val with st := .dark, bias := 0 } ∧ t.optics.rampFor = []) ∧
      (∀ e, s.optics.lacking = [(none, e)] → e < 8 → s.goodSpare = none → (s.laser c.val).failed = false → (s.laser c.val).engine = none →
        s.optics.rail = true → s.optics.allOff = false → (t.laser c.val).st = .ramping ∧ t.optics.rampFor = [(c.val, e)] ∧ t.optics.lacking = []) := by
  have hr := Rationed.serveLacking (s.rampDark c.val)
  have hbegun := RampBegun.startRamp (s.rampDark c.val).serveLacking
  refine ⟨_, execLaserRampDone_of_monitor s c h hfor, hbegun.mem.trans hr.mem, hbegun.queues.trans hr.queues, fun hlack => ?_, ?_⟩
  · rw [State.serveLacking_of_empty (s.rampDark c.val) hlack, State.startRamp_of_empty (s.rampDark c.val) hq]
    exact ⟨s.rampDark_laser c.val (by omega), s.rampGone_rampFor c.val 8 hfor⟩
  · intro e hlack _ hgood hf he hrail hoff
    exact s.served_ramps c.val e c.isLt (by omega) hq hfor hlack hgood hf he hrail hoff

theorem laserBias_le (c : Nat) : laserBias c ≤ 600 := Nat.le_of_lt_succ (Nat.mod_lt _ (by decide))

/-- LASER_RAMP_DONE of a channel meant for an engine (R338, R339 step 6). -/
theorem laserRampDone_engine (c : Fin 10) (e : Nat) (s : State) (h10 : s.optics.lasers.length = 10) (h : (s.laser c.val).st = .ramping)
    (hq : s.optics.rampQ = []) (hfor : s.optics.rampFor = [(c.val, e)]) (he : e < 8) (hw : s.optics.worn = []) :
    ∃ t : State, exec (.laserRampDone c) s = .next t ∧ (t.laser c.val).st = .lit ∧ (t.laser c.val).engine = some e ∧ (t.laser c.val).bias = laserBias c.val ∧
      (t.laser c.val).bias ≤ 600 ∧ t.optics.rampFor = [] ∧ t.mem = s.mem ∧ t.queues = s.queues ∧
      ((s.laser c.val).engine ≠ some e → t.optics.evSpared = true ∧ t.inv.laserSpares = s.inv.laserSpares - 1 ∧ t.flash.mapDirty = true) := by
  have hlen : c.val < (s.rampLit c.val).optics.lasers.length := by
    rw [State.rampLit, State.lasers_length_modLaser]
    exact h10.symm ▸ c.isLt
  have hlit := s.rampLit_laser c.val (by omega)
  have hgone : (s.rampLit c.val).optics.rampFor = [] := s.rampGone_rampFor c.val e hfor
  have hrun := execLaserRampDone_of_engine s c h e he hfor
  by_cases hfed : (s.laser c.val).engine = some e
  · have hlitFed : ((s.rampLit c.val).laser c.val).engine = some e := by rw [hlit]; exact hfed
    rw [if_pos hlitFed, State.startRamp_of_empty (s.rampLit c.val) hq] at hrun
    refine ⟨_, hrun, ?_, hlitFed, ?_, ?_, hgone, rfl, rfl, fun hne => absurd hfed hne⟩
    · rw [hlit]
    · rw [hlit]
    · rw [hlit]; exact laserBias_le _
  · have hlitOther : ¬ ((s.rampLit c.val).laser c.val).engine = some e := by rw [hlit]; exact hfed
    have htold := ((s.rampLit c.val).switched c.val e none).switchTold_effect
    have hempty : ((s.rampLit c.val).switched c.val e none).switchTold.optics.rampQ = [] := by
      rw [htold.optics]
      change s.optics.rampQ.filter _ = []
      rw [hq]
      rfl
    rw [if_neg hlitOther, State.takeOver_of_none (s.rampLit c.val) c.val e hw, State.startRamp_of_empty _ hempty] at hrun
    have hlaser : ((s.rampLit c.val).switched c.val e none).switchTold.laser c.val =
        { s.laser c.val with st := .lit, bias := laserBias c.val, engine := some e } := by
      rw [State.laser_congr (congrArg Optics.lasers htold.optics)]
      exact ((s.rampLit c.val).laser_modLaser_self c.val _ hlen).trans (by rw [hlit])
    refine ⟨_, hrun, ?_, ?_, ?_, ?_, ?_, htold.mem, htold.queues, fun _ => ⟨?_, htold.spares, htold.map⟩⟩
    · rw [hlaser]
    · rw [hlaser]
    · rw [hlaser]
    · rw [hlaser]; exact laserBias_le _
    · rw [htold.optics]; exact hgone
    · rw [htold.optics]; rfl

/-- LASER_RAMP_DONE of the spare that replaces a worn channel (R342). -/
theorem laserRampDone_worn (c : Fin 10) (e w : Nat) (s : State) (h10 : s.optics.lasers.length = 10) (h : (s.laser c.val).st = .ramping)
    (hq : s.optics.rampQ = []) (hfor : s.optics.rampFor = [(c.val, e)]) (he : e < 8) (hw : s.optics.worn = [(w, c.val)]) (hw10 : w < 10)
    (hne : w ≠ c.val) (hidle : (s.laser c.val).engine = none) :
    ∃ t : State, exec (.laserRampDone c) s = .next t ∧ (t.laser c.val).engine = some e ∧ (t.laser w).st = .failed ∧ (t.laser w).failed = true ∧
      (t.laser w).engine = none ∧ t.optics.worn = [] := by
  let u := s.rampLit c.val
  let v := (u.wornOff w e).switched c.val e (some w)
  have hlen : u.optics.lasers.length = 10 := (State.lasers_length_modLaser (s.rampGone c.val) c.val _).trans h10
  have hdown := u.engineDown_optics e
  have hdlen : (u.engineDown e).optics.lasers.length = 10 := by rw [hdown]; exact hlen
  have hwlen : (u.wornOff w e).optics.lasers.length = 10 := (State.lasers_length_modLaser (u.engineDown e) w _).trans hdlen
  have hother : ¬ (u.laser c.val).engine = some e := by
    rw [s.rampLit_laser c.val (by omega)]
    simp [hidle]
  have htold : SwitchTold v v.switchTold := v.switchTold_effect
  have hempty : v.switchTold.optics.rampQ = [] := by
    have hvq : v.optics.rampQ = (u.engineDown e).optics.rampQ.filter fun x => some w != some x.1 := rfl
    rw [htold.optics, hvq, hdown]
    change s.optics.rampQ.filter _ = []
    rw [hq]
    rfl
  have hrun := execLaserRampDone_of_engine s c h e he hfor
  rw [if_neg hother, State.takeOver_of_worn u c.val e w hw, State.startRamp_of_empty v.switchTold hempty] at hrun
  have hlaserC : (v.switchTold.laser c.val).engine = some e := by
    rw [State.laser_congr (congrArg Optics.lasers htold.optics)]
    exact congrArg Laser.engine ((u.wornOff w e).laser_modLaser_self c.val _ (by omega))
  have hlaserW : v.switchTold.laser w = { (u.engineDown e).laser w with st := .failed, failed := true, bias := 0, engine := none } := by
    rw [State.laser_congr (congrArg Optics.lasers htold.optics)]
    exact ((u.wornOff w e).laser_modLaser_ne c.val w _ hne).trans ((u.engineDown e).laser_modLaser_self w _ (by omega))
  refine ⟨_, hrun, hlaserC, ?_, ?_, ?_, ?_⟩
  · rw [hlaserW]
  · rw [hlaserW]
  · rw [hlaserW]
  · have hvw : v.optics.worn = (u.engineDown e).optics.worn.filter fun x => x.2 != c.val := rfl
    rw [htold.optics, hvw, hdown]
    change s.optics.worn.filter _ = []
    rw [hw]
    simp

/-- LASER_WORN of a lit channel that feeds an engine (R342). -/
theorem laserWorn_effect (c : Fin 10) (e : Nat) (s : State) (h10 : s.optics.lasers.length = 10) (hl : (s.laser c.val).st = .lit)
    (he : (s.laser c.val).engine = some e) (hw : ∀ x ∈ s.optics.worn, x.1 ≠ c.val) (hq : ∀ x ∈ s.optics.rampQ, x.1 ≠ c.val) :
    ∃ t : State, exec (.laserWorn c) s = .next t ∧ t.setOptics s.optics = s ∧ t.optics.evWorn = true ∧ t.optics.ports = s.optics.ports ∧
      (t.laser c.val).st = .lit ∧ (t.laser c.val).engine = some e ∧ 15 ≤ (t.laser c.val).deficit ∧
      (∀ sp, s.goodSpare = some sp → t.optics.worn = s.optics.worn ++ [(c.val, sp)]) ∧ (s.goodSpare = none → t.optics.worn = s.optics.worn) := by
  let u := s.foundWorn c.val
  have hgood : u.goodSpare = s.goodSpare := s.foundWorn_goodSpare c.val
  have hswap := u.swapWorn_optics c.val e
  have hbegun := RampBegun.startRamp (u.swapWorn c.val e)
  have hulaser : u.laser c.val = { s.laser c.val with deficit := max 15 (s.laser c.val).deficit, bias := 600 } :=
    s.laser_modLaser_self c.val _ (by omega)
  have hidle : ∀ x ∈ (u.swapWorn c.val e).optics.rampQ, x.1 ≠ c.val := by
    intro x hx hxc
    obtain hx | hx := u.mem_swapWorn_rampQ c.val e x hx
    · exact hq x hx hxc
    · have hdark := ((s.goodSpare_eq_some_iff x.1).1 (hgood ▸ hx)).2.1.dark
      rw [hxc, hl] at hdark
      cases hdark
  have hlaser : (u.swapWorn c.val e).startRamp.laser c.val = u.laser c.val := by
    rw [hbegun.laser_of_not_waiting c.val hidle]
    exact State.laser_congr (congrArg (fun t : State => t.optics.lasers) hswap) _
  have hworn : (u.swapWorn c.val e).startRamp.optics.worn = (u.swapWorn c.val e).optics.worn := by rw [hbegun.optics]
  refine ⟨_, execLaserWorn_of_fed s c e hl he hw, ?_, ?_, ?_, ?_, ?_, ?_, fun sp hsp => ?_, fun hno => ?_⟩
  · rw [hbegun.setOptics, hswap]; rfl
  · rw [hbegun.optics, hswap]; rfl
  · rw [hbegun.optics, hswap]; rfl
  · rw [hlaser, hulaser]; exact hl
  · rw [hlaser, hulaser]; exact he
  · rw [hlaser, hulaser]; exact Nat.le_max_left _ _
  · rw [hworn, u.swapWorn_worn_of_spare c.val e sp (hgood.trans hsp)]; rfl
  · rw [hworn, u.swapWorn_worn_of_none c.val e (hgood.trans hno)]; rfl

/-- Settles O54: a command of the laser block at a time. -/
theorem lasersAreRampedSparedAndLost : Obligations.LasersAreRampedSparedAndLost := by
  refine ⟨fun c s h10 h16 => ⟨execLaserShort_of_off s c, laserShort_effect c s h10 h16⟩, laserRailRegulated_effect, fun s =>
    ⟨execLaserRailFault_of_good s, laserRailFault_effect s⟩, fun s h10 => ⟨execLaserRestart_of_off s, fun hp ha hr _ => laserRestart_effect s h10 hp ha hr⟩,
    fun c s h10 h16 => ⟨execLaserRampDone_of_idle s c, ?_, ?_, ?_, ?_⟩, fun c s h10 =>
    ⟨execLaserWorn_of_idle s c, fun e => laserWorn_effect c e s h10⟩⟩
  · exact fun ⟨h, hq⟩ hfor => laserRampDone_resumed c s h10 h hq hfor
  · exact fun ⟨h, hq⟩ hfor => laserRampDone_monitor c s h10 h hq hfor
  · exact fun e ⟨h, hq⟩ hfor he hw => laserRampDone_engine c e s h10 h hq hfor he hw
  · exact fun e w ⟨h, hq⟩ hfor he hw hw10 hne hidle => laserRampDone_worn c e w s h10 h hq hfor he hw hw10 hne hidle

end Sys2Proof.Claims
end

section
/-! SUPPORT. Settling a command takes no slab out of the lost state: credit, moves and packets (R221, R232, R274). -/

namespace Sys2Proof.Machine

/-- Some slab is lost (R221). -/
def State.HasLost (s : State) : Prop := ∃ x ∈ s.mem.slabs, x.st = .lost

/-- From `s` to `t` the last lost slab has not gone. -/
structure LostStays (s t : State) : Prop where
  stays : s.HasLost → t.HasLost

namespace LostStays

theorem refl (s : State) : LostStays s s := ⟨id⟩

theorem trans {s t u : State} (h : LostStays s t) (k : LostStays t u) : LostStays s u := ⟨k.stays ∘ h.stays⟩

/-- The step that is the last is named first, so that it gives the state before it. -/
theorem after {s t u : State} (k : LostStays t u) (h : LostStays s t) : LostStays s u := h.trans k

theorem ite {c : Prop} [Decidable c] {s a b : State} (ha : LostStays s a) (hb : LostStays s b) : LostStays s (if c then a else b) := by
  split
  · exact ha
  · exact hb

theorem foldl {α : Type} (f : State → α → State) (l : List α) (s : State) (hf : ∀ s x, LostStays s (f s x)) : LostStays s (l.foldl f s) := by
  induction l generalizing s with
  | nil => exact refl s
  | cons x r ih => exact (hf s x).trans (ih _)

theorem of_slabs {s t : State} (h : t.mem.slabs = s.mem.slabs) : LostStays s t := ⟨fun ⟨x, hx, hl⟩ => ⟨x, h ▸ hx, hl⟩⟩

theorem of_mem {s t : State} (h : t.mem = s.mem) : LostStays s t := of_slabs (congrArg Mem.slabs h)

theorem of_logged {s t : State} (h : Logged s t) : LostStays s t := of_mem h.mem

theorem of_moves {s t : State} (h : Moves s t) : LostStays s t := of_mem h.mem

/-- A change of each slab that leaves the lost ones lost. -/
theorem setSlabs_map (s : State) (f : Slab → Slab) (hf : ∀ x, x.st = .lost → (f x).st = .lost) : LostStays s (s.setSlabs (s.mem.slabs.map f)) :=
  ⟨fun ⟨x, hx, hl⟩ => ⟨f x, List.mem_map.2 ⟨x, hx, rfl⟩, hf x hl⟩⟩

theorem modSlab (s : State) (k : Nat) (f : Slab → Slab) (hf : ∀ x, x.st = .lost → (f x).st = .lost) : LostStays s (s.modSlab k f) :=
  setSlabs_map s _ fun x hx => by
    split
    · exact hf x hx
    · exact hx

/-! Parts of the state that hold no slab. -/

section
variable (s : State)

theorem modPart (p : Nat) (f : Part → Part) : LostStays s (s.modPart p f) := of_slabs rfl
theorem modQueue (q : Nat) (f : Queue → Queue) : LostStays s (s.modQueue q f) := of_slabs rfl
theorem modHead (q : Nat) (f : Cmd → Cmd) : LostStays s (s.modHead q f) := of_slabs rfl
theorem modAcct (q : Nat) (f : Acct → Acct) : LostStays s (s.modAcct q f) := of_slabs rfl
theorem modAdm (f : Adm → Adm) : LostStays s (s.modAdm f) := of_slabs rfl
theorem setCores (v : List PhysCore) : LostStays s (s.setCores v) := of_slabs rfl
theorem setEngines (v : List (Nat × TileCtx)) : LostStays s (s.setEngines v) := of_slabs rfl
theorem setCoreMems (v : List (Nat × CoreMem)) : LostStays s (s.setCoreMems v) := of_slabs rfl
theorem setFabric (v : Fabric) : LostStays s (s.setFabric v) := of_slabs rfl
theorem setOut (v : List Out) : LostStays s (s.setOut v) := of_slabs rfl
theorem setHostMem (m : Memory) : LostStays s (s.setHostMem m) := of_slabs rfl
theorem meterBytes (p n : Nat) : LostStays s (s.meterBytes p n) := of_slabs rfl
theorem setMigrations (l : List Migration) : LostStays s (s.setMigrations l) := of_slabs rfl

end

/-! Credit (R273, R274). -/

section
variable (s : State)

theorem holdShares (r p : Nat) (l : List (Nat × Nat)) : LostStays s (s.holdShares r p l) := foldl _ _ _ fun _ _ => of_slabs rfl

theorem askCredit (r p cls n who : Nat) : LostStays s (s.askCredit r p cls n who).2 := by
  unfold State.askCredit
  dsimp only
  split
  · refine trans (trans ?_ (holdShares _ r p _)) (of_slabs rfl)
    split
    · exact of_slabs rfl
    · exact refl s
  · exact (refl s).ite (of_slabs rfl)

theorem releaseFrom (r p : Nat) (l : List Nat) (n : Nat) : LostStays s (State.releaseFrom r p l n s) := by
  induction l generalizing n s with
  | nil => cases n <;> exact refl s
  | cons o l ih =>
    cases n with
    | zero => exact refl s
    | succ n =>
      exact after (ih _ (n + 1 - min (n + 1) (s.heldFrom r p o))) ((refl s).ite (of_slabs rfl))

theorem releaseCredit (r p n : Nat) : LostStays s (s.releaseCredit r p n) := releaseFrom s r p _ n

theorem dropWaiting (who : Nat) : LostStays s (s.dropWaiting who) := (foldl State.countWait _ s fun _ _ => of_slabs rfl).trans (of_slabs rfl)

/-! Moves (R220 to R223). -/

theorem grantMoves (b : Nat) (l : List Migration) : LostStays s (State.grantMoves b l s) := by
  induction l generalizing s with
  | nil => exact refl s
  | cons m r ih =>
    unfold State.grantMoves
    split
    next u hu =>
      have hask := askCredit s (4 + b) (partOfKey m.key) 3 1 (moveWho m.key)
      rw [hu] at hask
      exact after (ih _) (hask.trans (ite (setMigrations u _) (refl u)))

theorem serveMoves : LostStays s s.serveMoves :=
  foldl _ _ _ fun s b => (refl s).ite (trans (of_slabs rfl : LostStays s (s.orderMoves b)) (grantMoves _ b _))

theorem frameFor (t : Tier) (lease : Option (Nat × Nat)) : LostStays s (s.frameFor t lease).2 := by
  cases t <;> exact of_slabs rfl

theorem startMove (k : Nat) (dst : Tier) (cls rank : Nat) : LostStays s (s.startMove k dst cls rank) := by
  unfold State.startMove
  split
  · exact refl s
  · split
    · exact refl s
    · dsimp only
      split
      · exact refl s
      · refine (refl s).ite (after (serveMoves _) (after (modSlab _ k _ fun x hx => ?_) (after (setMigrations _ _) (frameFor s dst _))))
        rw [hx]
        rfl

theorem demote (p k cls : Nat) : LostStays s (s.demote p k cls) := (startMove s _ _ _ _).ite ((startMove s _ _ _ _).ite (startMove s _ _ _ _))

theorem refillTier (p : Nat) (t : Tier) (n : Nat) : LostStays s (State.refillTier p t n s) := by
  induction n generalizing s with
  | zero => exact refl s
  | succ n ih =>
    unfold State.refillTier
    split
    · exact refl s
    · exact (demote s p _ 1).trans (ih _)

theorem refill (p : Nat) : LostStays s (s.refill p) := (refillTier s p .t1 _).trans (refillTier _ p .t2 _)

/-! Packets and link traffic (R287 to R291, R378). -/

theorem linkSend (l : List LinkPkt) : LostStays s (s.linkSend l) := (refl s).ite (of_slabs rfl)

theorem sendPkt (ep part cls axis src : Nat) (body : PktBody) : LostStays s (s.sendPkt ep part cls axis src body).1 := by
  unfold State.sendPkt
  split
  · exact of_moves ((Moves.setFlow s _).trans (Moves.pump _ _ _ _))
  · exact refl s

theorem sendChunks (ep part cls axis src kind tag id n off : Nat) (bs : Bytes) :
    LostStays s (State.sendChunks ep part cls axis src kind tag id n off bs s).1 := by
  induction n generalizing s off bs with
  | zero => exact refl s
  | succ n ih =>
    unfold State.sendChunks
    split
    · exact refl s
    · exact (sendPkt s ep part cls axis src (.data kind tag id off (bs.take s.payloadMax))).trans (ih _ _ _)

theorem dropColl (q : Nat) : LostStays s (s.dropColl q) := by
  unfold State.dropColl
  split
  · exact refl s
  · exact (releaseCredit s 0 _ _).trans (of_slabs rfl)

theorem abortColl (q : Nat) : LostStays s (s.abortColl q) := by
  unfold State.abortColl
  split
  · exact refl s
  · exact (foldl _ _ s fun s _ => sendPkt s _ _ _ _ _ _).trans (dropColl _ q)

theorem abortNotices (q : Nat) : LostStays s (s.abortNotices q) := by
  unfold State.abortNotices
  split
  · exact refl s
  · exact foldl _ _ s fun s _ => sendPkt s _ _ _ _ _ _

end

end LostStays

end Sys2Proof.Machine
end

section
/-! SUPPORT. Settling a command takes no slab out of the lost state: records, cores and the ends of commands (R261 to R269). -/

namespace Sys2Proof.Machine
namespace LostStays

variable (s : State)

/-! Records (R261 to R263). -/

theorem evictLine (line : Nat) : LostStays s (s.evictLine line) := by
  unfold State.evictLine
  dsimp only
  split <;> exact of_slabs rfl

theorem coherentWrite (a : Nat) (bs : Bytes) : LostStays s (s.coherentWrite a bs) := 
  after (setOut _ _) (after (setOut _ _) (after (setHostMem _ _) (foldl _ _ s fun s l => evictLine s l.line)))

theorem writeRecord (q : Nat) (r : Bytes) : LostStays s (s.writeRecord q r) :=
  after ((of_logged (Logged.msix _ q)).ite (refl _)) (after (modQueue _ q _) (coherentWrite s _ _))

theorem flushRecs (q n : Nat) : LostStays s (State.flushRecs q n s) := by
  induction n generalizing s with
  | zero => exact refl s
  | succ n ih =>
    unfold State.flushRecs
    split
    · exact refl s
    · exact (after (ih _) (after (modQueue _ q _) (writeRecord s q _))).ite (refl s)

theorem putRecord (q : Nat) (r : Bytes) : LostStays s (s.putRecord q r) := after (flushRecs _ q _) (modQueue s q _)

theorem complete (q : Nat) (c : Cmd) (status : Nat) : LostStays s (s.complete q c status) := after (putRecord _ q _) (of_slabs rfl)

/-! Cores (R268 to R272, R429). -/

theorem clearEngines (l : List Nat) : LostStays s (s.clearEngines l) := (refl s).ite (of_slabs rfl)

theorem openIslands (l : List Nat) : LostStays s (s.openIslands l) := (refl s).ite (of_slabs rfl)

theorem wakeCores (l : List Nat) : LostStays s (s.wakeCores l) := (openIslands s l).trans (ite (setCores _ _) (refl _))

theorem restCores (l : List Nat) : LostStays s (s.restCores l) := (refl s).ite (of_slabs rfl)

theorem newTiles (l : List Nat) : LostStays s (s.newTiles l) := (refl s).ite (of_slabs rfl)

theorem keepPieces (p : Nat) (l : List (Nat × Nat)) : LostStays s (s.keepPieces p l) := by
  refine (refl s).ite (setSlabs_map s _ fun x hx => ?_)
  split <;> exact hx

/-- What follows from operands that decode, and nothing when they do not. -/
theorem okOr {α : Type} (x : Except Nat α) (f : α → State) (hf : ∀ a, LostStays s (f a)) : LostStays s (Machine.okOr x s f) := by
  cases x with
  | error e => exact refl s
  | ok a => exact hf a

theorem assignOn (p : Nat) (b : Bytes) (cores : List (Nat × List (Nat × Nat))) : LostStays s (s.assignOn p b cores) := by
  refine ite ?_ (ite ?_ (refl s))
  · exact okOr s _ _ fun _ => okOr s _ _ fun _ => keepPieces s p _
  · refine okOr s _ _ fun _ => ?_
    split
    · exact refl s
    · exact keepPieces s p _

theorem startHead (q : Nat) (on : List (Nat × List (Nat × Nat))) : LostStays s (s.startHead q on) :=
  ((clearEngines s _).trans (newTiles _ _)).trans ((wakeCores _ _).trans (of_slabs rfl))

theorem releaseCores (q : Nat) : LostStays s (s.releaseCores q) := by
  unfold State.releaseCores
  split
  · exact refl s
  · exact (refl s).ite (after (restCores _ _) ((clearEngines s _).trans (of_slabs rfl)))

/-! The ends of commands (R263 to R267). -/

theorem answerSlow (q : Nat) : LostStays s (s.answerSlow q) := (after (modHead _ q _) (releaseCredit s 3 _ 1)).ite (refl s)

theorem discardRun (q : Nat) : LostStays s (s.discardRun q) :=
  after (modHead _ q _) (after (releaseCredit _ 1 _ _) (after (answerSlow _ q) (after (dropWaiting _ q) (after (releaseCores _ q)
    (after (clearEngines _ _) (after (abortColl _ q) (abortNotices s q)))))))

theorem fixPoolWait (p : Nat) : LostStays s (s.fixPoolWait p) := (refl s).ite (of_slabs rfl)

theorem endFinal (q status : Nat) : LostStays s (s.endFinal q status) := by
  unfold State.endFinal
  split
  · exact refl s
  · exact (after (complete _ q _ status) (modQueue s q _)).ite (of_slabs rfl)

theorem endCmd (q status : Nat) : LostStays s (s.endCmd q status) := by
  refine (discardRun s q).trans ?_
  unfold State.endCmd
  dsimp only
  split
  · exact refl _
  · exact after (fixPoolWait _ _) (ite (modHead _ q _) (endFinal _ q status))

theorem preempt (q : Nat) : LostStays s (s.preempt q) := by
  unfold State.preempt
  exact after (modAcct _ q _) (after (modHead _ q _) (after (discardRun _ q) (linkSend s _)))

/-! Tiles on their way to peers (R146, R147, R302). -/

theorem acceptTile (q : Nat) (t : TileSend) (l : List (Nat × Bytes)) : LostStays s (s.acceptTile q t l).1 := by
  have hpieces : ∀ (l : List (Nat × Bytes)) (x : State × List Nat), LostStays x.1 (l.foldl (fun x y =>
      let z := State.sendChunks t.ep t.part (s.queue q).cls ((s.axisOf (s.queue q).part t.cut).getD anyAxis) (s.queue q).part 0 t.window t.attempt
        y.2.length y.1 y.2 x.1
      (z.1, x.2 ++ z.2)) x).1 := fun l => by
    induction l with
    | nil => exact fun x => refl x.1
    | cons y r ih => exact fun x => after (ih _) (sendChunks x.1 _ _ _ _ _ _ _ _ _ _ _)
  exact after (modHead _ q _) (after (meterBytes _ _ _) (hpieces l (s, [])))

theorem pushWindow (q n : Nat) (t : TileSend) : LostStays s (State.pushWindow q n t s).1 := by
  induction n generalizing s t with
  | zero => exact refl s
  | succ n ih =>
    unfold State.pushWindow
    split
    · exact refl s
    · next l _ _ =>
      have hask := askCredit s 1 (s.queue q).part (s.queue q).cls (ceilDiv (tileBytes l) 4096) q
      split
      · next u hu =>
        rw [hu] at hask
        exact hask.trans ((acceptTile u q t l).trans (ih _ _))
      · next u hu =>
        rw [hu] at hask
        exact hask

theorem pushSends (q : Nat) (l : List TileSend) : LostStays s (State.pushSends q l s).1 := by
  induction l generalizing s with
  | nil => exact refl s
  | cons t r ih =>
    unfold State.pushSends
    split
    · exact ih s
    · refine after (ih _) (after (pushWindow _ q _ _) ?_)
      split
      · exact refl s
      · exact of_slabs rfl

theorem pushTiles (q : Nat) : LostStays s (s.pushTiles q) := by
  unfold State.pushTiles
  split
  · exact refl s
  · next c _ =>
    refine (endCmd s q 0x0A03).ite ((pushSends s q c.staged.sends).trans ?_)
    exact after (ite (after (modHead _ q _) (modHead _ q _)) (modHead _ q _)) (modHead _ q _)

theorem settleRun (q : Nat) : LostStays s (s.settleRun q) := by
  unfold State.settleRun
  split
  · exact refl s
  · exact (after (modHead _ q _) (after (releaseCores _ q) ((after (meterBytes _ _ _) (linkSend s _)).trans (modHead _ q _)))).ite (refl s)

end LostStays
end Sys2Proof.Machine
end

section
/-! SUPPORT. Settling a command takes no slab out of the lost state: the scheduler and the end of a command's settling (R217, R232, R268 to R272). -/

namespace Sys2Proof.Machine
namespace LostStays

variable (s : State)

/-! Cores that are taken back (R270, R272). -/

theorem reclaim (q p n : Nat) : LostStays s (State.reclaim q p n s) := by
  induction n generalizing s with
  | zero => exact refl s
  | succ n ih =>
    unfold State.reclaim
    refine (refl s).ite ?_
    split
    · exact refl s
    · exact (preempt s _).trans (ih _)

theorem broken (v : Nat) (q : Option Nat) : LostStays s (s.broken v q) := by
  refine trans ?_ (of_logged (Logged.event _ 3 0x0410 (some v) noDetail))
  cases q <;> exact of_slabs rfl

theorem freeCore (l : Nat) : LostStays s (s.freeCore l) := by
  unfold State.freeCore
  split
  · exact preempt s _
  · exact refl s

theorem replace (p l : Nat) (c : Claim) : LostStays s (s.replace p l c).2 := by
  unfold State.replace
  dsimp only
  split
  · exact refl s
  split
  · exact refl s
  split
  · exact freeCore s _
  split
  · exact freeCore s _
  split
  · exact refl s
  split
  · exact refl s
  split
  · exact refl s
  split
  · exact refl s
  · exact preempt s _

theorem claim (p : Nat) (l : List Nat) (c : Claim) : LostStays s (State.claim p l c s).2 := by
  induction l generalizing s c with
  | nil => exact refl s
  | cons x r ih =>
    unfold State.claim
    split
    · exact (freeCore s x).trans (ih _ _)
    · exact (replace s p x c).trans (ih _ _)

theorem startOn (q : Nat) (cores : List Nat) : LostStays s (s.startOn q cores) := by
  unfold State.startOn
  split
  · exact refl s
  · exact (assignOn s _ _ _).trans (startHead _ q _)

theorem startC0 {t : State} (q : Nat) (h : s.startC0 q = some t) : LostStays s t := by
  unfold State.startC0 at h
  split at h
  · cases h
  · dsimp only at h
    split at h
    · cases h
      exact startHead s q []
    · split at h
      · cases h
      · split at h
        · cases h
        · obtain rfl := Option.some.inj h
          exact after (startHead _ q _) (after (assignOn _ _ _ _) (after (linkSend _ _) (after (foldl _ _ _ fun s v => broken s v.1 v.2)
            (after (foldl _ _ _ fun s x => freeCore s x.1) (claim s _ _ _)))))

/-- One action of the scheduler. -/
theorem scheduleStep {t : State} (h : s.scheduleStep = some t) : LostStays s t := by
  unfold State.scheduleStep at h
  split at h
  · cases h
    exact endFinal s _ _
  · split at h
    · cases h
      exact endFinal s _ _
    · split at h
      · next u hu =>
        cases h
        obtain ⟨p, -, hp⟩ := List.exists_of_findSome?_eq_some hu
        obtain ⟨q, -, hq⟩ := List.exists_of_findSome?_eq_some hp
        exact startC0 s q hq
      · dsimp only at h
        split at h
        · next u hu =>
          cases h
          obtain ⟨p, -, hp⟩ := List.exists_of_findSome?_eq_some hu
          obtain ⟨q, -, hq⟩ := Option.bind_eq_some_iff.1 hp
          obtain ⟨cs, -, rfl⟩ := Option.map_eq_some_iff.1 hq
          exact startOn s q cs
        · obtain ⟨p, -, hp⟩ := List.exists_of_findSome?_eq_some h
          obtain ⟨q, -, hq⟩ := Option.bind_eq_some_iff.1 hp
          obtain ⟨cs, -, rfl⟩ := Option.map_eq_some_iff.1 hq
          exact (reclaim s q p 64).trans (startOn _ q cs)

/-! What becomes ready (R217, R269). -/

theorem readyQueue (q : Nat) : LostStays s (s.readyQueue q) := ((refl s).ite (modQueue s q _)).ite ((modQueue s q _).ite (refl s))

theorem readyPart (p : Nat) : LostStays s (s.readyPart p) := ((refl s).ite (modPart s p _)).ite ((modPart s p _).ite (refl s))

theorem serveSlow (q : Nat) : LostStays s (s.serveSlow q) :=
  after (ite (modHead _ q _) (after (modHead _ q _) ((refill _ _).trans (releaseCredit _ 3 _ 1)))) (of_slabs rfl)

theorem askSlow : LostStays s s.askSlow := by
  refine foldl _ _ _ fun s q => (refl s).ite ?_
  exact (askCredit s 3 (s.queue q).part (s.queue q).cls 1 q).trans ((serveSlow _ q).ite (of_slabs rfl))

theorem noteReady : LostStays s s.noteReady := by
  unfold State.noteReady
  exact after (askSlow _) (after (foldl State.readyPart _ _ readyPart) (foldl State.readyQueue _ s readyQueue))

theorem schedule (n : Nat) : LostStays s (State.schedule n s) := by
  induction n generalizing s with
  | zero => exact refl s
  | succ n ih =>
    unfold State.schedule
    split
    · next t ht => exact (scheduleStep s ht).trans (ih t)
    · exact refl s

theorem kick : LostStays s s.kick := (noteReady s).trans (schedule _ 256)

/-! The end of a command (R232, R302). -/

theorem evacuate (p : Nat) : LostStays s (s.evacuate p) := by
  have hmove (rank : Nat) (l : List Nat) (s : State) :
      LostStays s (l.foldl (fun s k => if s.roomIn p .t2 then s.startMove k .t2 0 rank else s.startMove k .t3 0 rank) s) :=
    foldl _ _ _ fun s k => (startMove s k .t2 0 rank).ite (startMove s k .t3 0 rank)
  refine trans (ite (setSlabs_map s _ fun x hx => ?_) (refl s)) ((refl _).ite ((hmove 0 _ _).trans ((hmove 1 _ _).trans (hmove 2 _ _))))
  refine (congrArg Slab.st (if_neg fun hback => ?_)).trans hx
  simp [hx] at hback

theorem wakeTiles : LostStays s s.wakeTiles := by
  refine foldl _ _ _ fun s q => ?_
  split
  · exact ((pushTiles s q).trans (settleRun _ q)).ite (refl s)
  · exact refl s

theorem evacuateAll : LostStays s s.evacuateAll := (foldl _ _ s evacuate).ite (refl s)

theorem settle : LostStays s s.settle := (wakeTiles s).trans ((evacuateAll _).trans (kick _))

end LostStays
end Sys2Proof.Machine
end

section
open Sys2Proof Sys2Proof.Machine

namespace Sys2Proof.Claims

/-- A T1 slab of partition 0, at rest. -/
def restingSlab : Slab := { key := 0, st := .resident, tier := some .t1 }

/-- An attempt into window 0 whose commit waits for a retained slab, with its commit notice in hand (R193, R302). -/
def waitingAttempt : WinAttempt := { ep := 0, part := 0, attempt := 0, poolWait := true, notice := some (0, 0), slabs := [(0, .t1, none)] }

/-- Partition 0 is admitted, its stream has an open epoch, and the attempt into its window waits for the stream to retain slab 0. -/
def waitingPart (p : Part) : Part :=
  { p with
    admitted := true, windows := [{ window := 0, queue := 0, tries := [waitingAttempt] }], stream := { p.stream with epoch := some {} } }

/-- A running module on which an attempt into a window waits for slab 0, no command waiting at all. -/
def streamWait : State :=
  ((({} : State).setPhase .run).modPart 0 waitingPart).setMem { ({} : State).mem with slabs := [restingSlab] }

/-- The outcome leaves a lost slab. -/
def leavesLost : Result → Bool
  | .next t => t.mem.slabs.any fun x => x.st == .lost
  | _ => true

/-- The read of the stream loses slab 0, its epoch is abandoned, and the attempt that waited for it commits its own contents over slab 0. -/
theorem streamWait_leaves_no_lost : leavesLost (exec (.uncorrectableRead 0 0 .stream true) streamWait) = false := by decide +kernel

theorem streamWait_no_head (q : Nat) : streamWait.head? q = none := by
  have hqueue : streamWait.queue q = {} := by
    change (List.replicate 64 ({} : Queue)).getD q {} = {}
    rw [List.getD_eq_getElem?_getD, List.getElem?_replicate]
    split <;> rfl
  unfold State.head?
  rw [hqueue]
  rfl

/-- Refutes O59: an uncorrectable read of the stream abandons the epoch, and an attempt into a window that waited for the epoch to release the slab then commits over it:
the slab is resident again before the command's effects settle, and settling never takes a slab out of the lost state. -/
theorem not_faultsAreTreatedWhereTheyStrike : ¬ Obligations.FaultsAreTreatedWhereTheyStrike := by
  rintro ⟨-, -, -, -, -, -, -, -, -, -, -, huncorrectable, -⟩
  have hstream : streamWait.link.losing = false ∧ ∀ q d, streamWait.head? q = some d → d.phase ≠ .poolWait :=
    ⟨rfl, fun q d hd => by rw [streamWait_no_head q] at hd; cases hd⟩
  obtain ⟨u, hu, -, ⟨y, hy, hlost⟩, -⟩ := huncorrectable 0 0 .stream streamWait restingSlab (.inr (.inr (.inr ⟨rfl, hstream⟩))) rfl (.inl rfl)
  obtain ⟨z, hz, hzlost⟩ := (LostStays.settle u).stays ⟨y, List.mem_of_find?_eq_some hy, hlost⟩
  have hnone := streamWait_leaves_no_lost
  rw [hu] at hnone
  exact absurd (beq_iff_eq.2 hzlost) (List.any_eq_false.1 hnone z hz)

end Sys2Proof.Claims
end

section
/-! SUPPORT. What the other tile-program instructions leave of the vector engine of their core: masks, findings, buffers, loops, sends and faults (R138 to R140). -/

namespace Sys2Proof.Machine

/-! One instruction on the engine of a core. -/

/-- An instruction that is no LOOP has its effect and is counted (R139, R140). -/
theorem tileStep_of_ne_loop {op : Nat} (a : TileArgs) (c : TileCtx) (h : op ≠ tLOOP) : tileStep op a c = (tileEffect op a c).advance := by
  unfold tileStep
  rw [if_neg (fun k => h k.1)]

/-- A new engine of one core, with one instruction more than `c`, is all that differs. -/
theorem oneEngine_setEngine (s : State) (k : Nat) {c d : TileCtx} (h : d.done = c.done + 1) : Claims.OneEngine s (s.setEngine k d) k c :=
  ⟨rfl, fun j hj => s.engine_setEngine_ne k j d hj, by rw [State.engine_setEngine_self]; exact h⟩

/-- An instruction on a core in service that does not fault leaves the engine `d` of its core, and nothing else differs (R138 to R140). -/
theorem exec_tile_next {i : Instr} {op : Nat} {a : TileArgs} {s : State} {k : Nat} {d : TileCtx} (hon : s.coreOn k = true)
    (hi : exec i s = .next (s.tileOn k op a)) (hstep : tileStep op a (s.openTile k) = d) (hfault : d.fault = false)
    (hdone : d.done = (s.openTile k).done + 1) :
    ∃ t, exec i s = .next t ∧ Claims.OneEngine s t k (Claims.engineAt s k) ∧ t.engine k = d := by
  rw [s.tileOn_next k op a hon (by rw [hstep, hfault]), hstep] at hi
  exact ⟨_, hi, oneEngine_setEngine s k hdone, s.engine_setEngine_self k d⟩

/-- As exec_tile_next, for an instruction that is no LOOP and whose effect neither faults nor counts. -/
theorem exec_tile_advance {i : Instr} {op : Nat} {a : TileArgs} {s : State} {k : Fin 864} {d : TileCtx} (hr : Claims.TileReady s k)
    (hi : exec i s = .next (s.tileOn k.val op a)) (hop : op ≠ tLOOP) (heffect : tileEffect op a (s.openTile k.val) = d)
    (hfault : d.fault = (s.openTile k.val).fault) (hdone : d.done = (s.openTile k.val).done) :
    ∃ t, exec i s = .next t ∧ Claims.OneEngine s t k.val (Claims.engineAt s k.val) ∧ t.engine k.val = d.advance := by
  obtain ⟨hon, hlimit⟩ := hr
  refine exec_tile_next hon hi (by rw [tileStep_of_ne_loop a _ hop, heffect]) (d.advance_fault ?_ ?_) (by rw [TileCtx.done_advance, hdone])
  · rw [hfault, State.openTile_fault]
  · rw [hdone]
    exact hlimit

/-! Registers and masks. -/

theorem onlyRegister_trans {c d e : TileCtx} {r : Nat} (h : Claims.OnlyRegister c d r) (k : Claims.OnlyRegister d e r) : Claims.OnlyRegister c e r := by
  obtain ⟨hreg, hout, hscratch, hparam, hresid, hacc, hsends⟩ := h
  obtain ⟨kreg, kout, kscratch, kparam, kresid, kacc, ksends⟩ := k
  exact ⟨fun x hx => (kreg x hx).trans (hreg x hx), kout.trans hout, kscratch.trans hscratch, kparam.trans hparam, kresid.trans hresid,
    kacc.trans hacc, ksends.trans hsends⟩

/-- As writesVd_of_put, for an instruction that first brings the engine to `d`, which has the registers and buffers that it had. -/
theorem writesVd_of_put_after {i : Instr} {op : Nat} {a : TileArgs} {s : State} {k : Fin 864} {d : TileCtx} {v : List Word} (hr : Claims.TileReady s k)
    (hi : exec i s = .next (s.tileOn k.val op a)) (hop : op ≠ tLOOP) (heffect : tileEffect op a (s.openTile k.val) = d.setReg a.vd.toNat v)
    (hfault : d.fault = (s.openTile k.val).fault) (hdone : d.done = (s.openTile k.val).done)
    (honly : Claims.OnlyRegister (s.openTile k.val) d a.vd.toNat) : Claims.WritesVd i s k.val a v := by
  obtain ⟨t, ht, hone, hengine⟩ := exec_tile_advance hr hi hop heffect hfault hdone
  refine ⟨t, ht, hone, ?_, ?_⟩
  · rw [hengine, TileCtx.reg_advance, TileCtx.reg_setReg_self]
  · rw [hengine]
    exact onlyRegister_trans honly (d.onlyRegister_setReg _ v)

/-- A mask selects the lanes that its bits say (R139). -/
theorem TileCtx.lane_setMask_self (c : TileCtx) (r i : Nat) (m : List Bool) : (c.setMask r m).lane r i = m.getD i false := by
  unfold TileCtx.setMask TileCtx.lane
  rw [List.find?_cons_of_pos (by simp)]

/-- A mask changes its own register alone. -/
theorem TileCtx.onlyRegister_setMask (c : TileCtx) (r : Nat) (m : List Bool) : Claims.OnlyRegister c (c.setMask r m).advance r :=
  c.onlyRegister_setReg r _

/-- The lanes in which `f` holds of two registers. -/
theorem getD_zipWith_eq_true_iff {f : Word → Word → Bool} {a b : List Word} {i : Nat} {x y : Word} (hx : a[i]? = some x) (hy : b[i]? = some y) :
    (List.zipWith f a b).getD i false = true ↔ f x y = true := by
  rw [List.getD_eq_getElem?_getD, List.getElem?_zipWith, hx, hy]
  rfl

/-- The findings of a QNT are the only thing that counting them changes (R132). -/
theorem TileCtx.countQnt_state (c : TileCtx) (f : Nat) (v : List Word) :
    c.countQnt f v = { c with
      qAmax := (c.countQnt f v).qAmax, qSat := (c.countQnt f v).qSat, qNonfinite := (c.countQnt f v).qNonfinite, qUnderflow := (c.countQnt f v).qUnderflow } := by
  unfold TileCtx.countQnt
  dsimp only
  split <;> rfl

/-- QNT changes its register and the findings of the output's record (R132, R139). -/
theorem TileCtx.onlyRegister_countQnt (c : TileCtx) (f : Nat) (v : List Word) (r : Nat) : Claims.OnlyRegister c (c.countQnt f v) r := by
  rw [c.countQnt_state f v]
  exact ⟨fun _ _ => rfl, rfl, rfl, rfl, rfl, rfl, rfl⟩

/-! Loads, stores and faults. -/

theorem TileCtx.buf_setBuf_self (c : TileCtx) {b : Nat} (v : Bytes) (h : b < 4) : (c.setBuf b v).buf b = v := by
  match b with
  | 0 | 1 | 2 | 3 => rfl
  | n + 4 => omega

theorem TileCtx.buf_setBuf_ne (c : TileCtx) {b d : Nat} (v : Bytes) (h : d ≠ b) : (c.setBuf b v).buf d = c.buf d := by
  match b, d with
  | 0, 0 | 1, 1 | 2, 2 | 3, 3 => exact absurd rfl h
  | 0, 1 | 0, 2 | 0, 3 | 1, 0 | 1, 2 | 1, 3 | 2, 0 | 2, 1 | 2, 3 | 3, 0 | 3, 1 | 3, 2 => rfl
  | 0, _ + 4 | 1, _ + 4 | 2, _ + 4 | 3, _ + 4 | _ + 4, _ => rfl

/-- A new buffer leaves the registers, the count and the fault bit. -/
@[simp] theorem TileCtx.reg_setBuf (c : TileCtx) (b : Nat) (v : Bytes) (r : Nat) : (c.setBuf b v).reg r = c.reg r := by
  match b with
  | 0 | 1 | 2 | 3 | _ + 4 => rfl

@[simp] theorem TileCtx.done_setBuf (c : TileCtx) (b : Nat) (v : Bytes) : (c.setBuf b v).done = c.done := by
  match b with
  | 0 | 1 | 2 | 3 | _ + 4 => rfl

@[simp] theorem TileCtx.fault_setBuf (c : TileCtx) (b : Nat) (v : Bytes) : (c.setBuf b v).fault = c.fault := by
  match b with
  | 0 | 1 | 2 | 3 | _ + 4 => rfl

/-- An ST replaces one buffer (R139). -/
theorem TileCtx.storeLanes_setBuf (c : TileCtx) (b f off rmode : Nat) (sat : Bool) (v : List Word) :
    ∃ bs, c.storeLanes b f off rmode sat v = c.setBuf b bs := by
  unfold TileCtx.storeLanes
  dsimp only
  split
  · exact ⟨_, rfl⟩
  · exact ⟨_, rfl⟩

/-- An ST in a format other than MXFP4 lays the lanes' bytes over the buffer (R139). -/
theorem TileCtx.storeLanes_of_ne (c : TileCtx) {b f off rmode : Nat} {sat : Bool} {v : List Word} (h : f ≠ fMXFP4) :
    c.storeLanes b f off rmode sat v = c.setBuf b (patch (c.buf b) off (c.laneBytes b f rmode sat v)) := if_neg h

/-- An LD or ST moves some bytes in every format. -/
theorem laneSpan_pos (f : Nat) : 0 < laneSpan f := by
  have hbits : 4 ≤ fmtBits f := by
    unfold fmtBits
    split <;> decide
  unfold laneSpan
  split
  · decide
  · omega

/-- BUF 4 to 7 are reserved: every access lies past them (R138, R140). -/
theorem TileCtx.buf_lt_of_pastEnd {c : TileCtx} {b f off : Nat} (h : c.pastEnd b f off = false) : b < 4 := by
  match b with
  | 0 | 1 | 2 | 3 => decide
  | n + 4 =>
    have hplane : c.plane (n + 4) = none := by
      unfold TileCtx.plane
      rw [if_neg (by omega)]
    have hspan := laneSpan_pos f
    have hbuf : (c.buf (n + 4)).length = 0 := rfl
    unfold TileCtx.pastEnd at h
    rw [hplane, hbuf, Option.getD_none, ite_self, decide_eq_false_iff_not] at h
    omega

/-- An LD or ST past its buffer faults and does nothing else (R140). -/
theorem tileEffect_of_pastEnd {op : Nat} {a : TileArgs} {c : TileCtx} (hop : op = tLD ∨ op = tST)
    (h : c.pastEnd a.buf.toNat a.fmt.toNat (c.offset a) = true) : tileEffect op a c = { c with fault := true } := by
  obtain rfl | rfl := hop
  · exact if_pos h
  · exact if_pos h

/-- An LD or ST past its buffer faults its engine, which leaves the registers, and ends the command that holds the core with 0x0107 (R140, R264). -/
theorem exec_tile_pastEnd {i : Instr} {op : Nat} {a : TileArgs} {s : State} {k : Nat} (hop : op = tLD ∨ op = tST) (hon : s.coreOn k = true)
    (hi : exec i s = .next (s.tileOn k op a)) (h : (s.openTile k).pastEnd a.buf.toNat a.fmt.toNat ((s.openTile k).offset a) = true) :
    ∃ u, u = s.setEngines u.engines ∧ (u.engine k).fault = true ∧ (∀ x, (u.engine k).reg x = (s.openTile k).reg x) ∧
      exec i s = .next (match ((s.core k).logical).bind s.holder with | some q => (u.endCmd q 0x0107).settle | none => u) := by
  have hne : op ≠ tLOOP := by
    obtain rfl | rfl := hop
    · decide
    · decide
  have hstep : tileStep op a (s.openTile k) = TileCtx.advance { s.openTile k with fault := true } := by
    rw [tileStep_of_ne_loop a _ hne, tileEffect_of_pastEnd hop h]
  have hfault : (tileStep op a (s.openTile k)).fault = true := by
    rw [hstep]
    exact Bool.true_or (decide (65536 < (s.openTile k).done + 1))
  rw [s.tileOn_fault k op a hon hfault] at hi
  refine ⟨_, rfl, ?_, fun x => ?_, hi⟩
  · rw [State.engine_setEngine_self, hfault]
  · rw [State.engine_setEngine_self, hstep]
    rfl

/-! LOOP and SEND. -/

/-- LOOP of none is an instruction without an effect (R139). -/
theorem tileStep_loop_none {a : TileArgs} (c : TileCtx) (h : loopLen a = 0) : tileStep tLOOP a c = c.advance := by
  have heffect : tileEffect tLOOP a c = c := if_pos h
  unfold tileStep
  rw [if_neg (fun k => k.2 h), heffect]

/-- LOOP opens a loop over the instructions that follow it (R139). -/
theorem tileStep_loop_some {a : TileArgs} (c : TileCtx) (h : loopLen a ≠ 0) :
    tileStep tLOOP a c = { c with
      loops := { start := c.pc + 1, len := loopLen a, count := if loopCount a = 0 then c.m else loopCount a, iter := 0, rows := loopCount a == 0 } :: c.loops
      pc := c.pc + 1, done := c.done + 1, fault := c.fault || decide (65536 < c.done + 1) } := by
  have heffect : tileEffect tLOOP a c = { c with
      loops := { start := c.pc + 1, len := loopLen a, count := if loopCount a = 0 then c.m else loopCount a, iter := 0, rows := loopCount a == 0 } :: c.loops } :=
    if_neg h
  unfold tileStep
  rw [if_pos ⟨rfl, h⟩, heffect]

/-- A core that no command holds runs for none. -/
theorem State.coreRun_of_unheld (s : State) (k : Nat) (h : ((s.core k).logical).bind s.holder = none) : s.coreRun k = none := by
  unfold State.coreRun
  cases hl : (s.core k).logical with
  | none => rfl
  | some l =>
    have hnone : s.holder l = none := by simpa [hl] using h
    rw [Option.bind_some, hnone]
    rfl

/-- On a core that no command holds SEND hands nothing over (R138). -/
theorem State.sendTile_of_unheld (s : State) (k : Nat) (h : ((s.core k).logical).bind s.holder = none) : s.sendTile k = s := by
  unfold State.sendTile
  rw [s.coreRun_of_unheld k h]

/-- SEND on a core in service whose engine does not fault hands the tile to the transmit path (R139, R146). -/
theorem execSendTile_on {k : Fin 864} {a : TileArgs} {s : State} {d : TileCtx} (hon : s.coreOn k.val = true)
    (hstep : tileStep tSEND a (s.openTile k.val) = d) (hfault : d.fault = false) :
    exec (.sendTile k a) s = .next ((s.setEngine k.val d).sendTile k.val) := by
  have htile : s.tileOn k.val tSEND a = s.setEngine k.val d := by rw [s.tileOn_next k.val tSEND a hon (by rw [hstep, hfault]), hstep]
  have hgo : (s.coreOn k.val && !((s.setEngine k.val d).engine k.val).fault) = true := by simp [hon, hfault]
  change execSendTile k a s = _
  unfold execSendTile
  simp only [htile, hgo, if_true]

end Sys2Proof.Machine
end

section
open Sys2Proof Sys2Proof.Machine

namespace Sys2Proof.Claims

/-- Settles O9: CMPLT writes its mask, and the other three write VD. -/
theorem tileMasksAndReductions : Obligations.TileMasksAndReductions := by
  intro k a s hr
  refine ⟨?_, writesVd_of_put hr rfl (by decide) rfl, writesVd_of_put hr rfl (by decide) rfl, writesVd_of_put hr rfl (by decide) rfl⟩
  obtain ⟨t, ht, hone, hengine⟩ := exec_tile_advance (i := .cmplt k a) (a := a) (op := tCMPLT) hr rfl (by decide) rfl rfl rfl
  refine ⟨t, ht, hone, ?_, fun i x y hx hy => ?_⟩
  · rw [hengine]
    exact TileCtx.onlyRegister_setMask _ _ _
  · rw [hengine]
    exact (Bool.eq_iff_iff.1 (TileCtx.lane_setMask_self _ _ i _)).trans (getD_zipWith_eq_true_iff hx hy)

/-- Settles O10: each instruction writes VD, QNT after it has counted what it found, and LD when its access lies in the buffer. -/
theorem tileConversionsAndLoads : Obligations.TileConversionsAndLoads := by
  intro k a s hr
  refine ⟨writesVd_of_put hr rfl (by decide) rfl, ?_, writesVd_of_put hr rfl (by decide) rfl, fun hin => ?_, writesVd_of_put hr rfl (by decide) rfl⟩
  · refine writesVd_of_put_after hr rfl (op := tQNT) (by decide) rfl ?_ ?_ (TileCtx.onlyRegister_countQnt _ _ _ _)
    · rw [TileCtx.countQnt_state]
    · rw [TileCtx.countQnt_state]
  · exact writesVd_of_put hr rfl (op := tLD) (by decide) (if_neg (Bool.eq_false_iff.1 hin))

/-- Settles O11: an instruction at a time, then the fault of LD and ST. -/
theorem tileStoresLoopsEndsAndFaults : Obligations.TileStoresLoopsEndsAndFaults := by
  refine ⟨fun k a s hr => ⟨fun hin => ?_, ?_, ?_, ?_⟩, fun k a s i hi hon hpast => ?_⟩
  · obtain ⟨bs, hbs⟩ := (engineAt s k.val).storeLanes_setBuf a.buf.toNat a.fmt.toNat ((engineAt s k.val).offset a) a.rmode.toNat a.sat
      ((engineAt s k.val).reg a.va.toNat)
    have heffect : tileEffect tST a (engineAt s k.val) = (engineAt s k.val).storeLanes a.buf.toNat a.fmt.toNat ((engineAt s k.val).offset a)
      a.rmode.toNat a.sat ((engineAt s k.val).reg a.va.toNat) := if_neg (Bool.eq_false_iff.1 hin)
    obtain ⟨t, ht, hone, hengine⟩ := exec_tile_advance (i := .st k a) hr rfl (by decide) (heffect.trans hbs) (TileCtx.fault_setBuf _ _ _) (TileCtx.done_setBuf _ _ _)
    refine ⟨t, ht, hone, fun x => ?_, ?_, fun hf => ?_, fun d hd => ?_⟩
    · rw [hengine, TileCtx.reg_advance, TileCtx.reg_setBuf]
    · rw [hengine, hbs]
      rfl
    · rw [hengine, ← hbs, TileCtx.storeLanes_of_ne _ hf]
      exact TileCtx.buf_setBuf_self _ _ (TileCtx.buf_lt_of_pastEnd hin)
    · rw [hengine]
      exact TileCtx.buf_setBuf_ne _ _ hd
  · by_cases hlen : loopLen a = 0
    · obtain ⟨t, ht, hone, hengine⟩ := exec_tile_next (i := .loopRep k a) hr.1 rfl (tileStep_loop_none _ hlen)
        (TileCtx.advance_fault _ (s.openTile_fault _) hr.2) rfl
      exact ⟨t, ht, hone, fun x => by rw [hengine]; rfl, fun h => absurd h (by omega)⟩
    · have hfault : ((s.openTile k.val).fault || decide (65536 < (s.openTile k.val).done + 1)) = false := TileCtx.advance_fault _ (s.openTile_fault _) hr.2
      obtain ⟨t, ht, hone, hengine⟩ := exec_tile_next (i := .loopRep k a) hr.1 rfl (tileStep_loop_some _ hlen) hfault rfl
      exact ⟨t, ht, hone, fun x => by rw [hengine]; rfl, fun _ => by rw [hengine]; exact ⟨rfl, rfl⟩⟩
  · obtain ⟨t, ht, hone, hengine⟩ := exec_tile_advance (i := .endTile k a) (a := a) (op := tEND) hr rfl (by decide) rfl rfl rfl
    exact ⟨t, ht, hone, fun x => by rw [hengine]; rfl, by rw [hengine]; rfl⟩
  · have hstep : tileStep tSEND a (s.openTile k.val) = TileCtx.advance { s.openTile k.val with sends := (s.openTile k.val).sends ++ [(s.openTile k.val).out] } :=
      tileStep_of_ne_loop a _ (by decide)
    have hfault := TileCtx.advance_fault { s.openTile k.val with sends := (s.openTile k.val).sends ++ [(s.openTile k.val).out] } (s.openTile_fault _) hr.2
    have hexec := execSendTile_on hr.1 hstep hfault
    refine ⟨_, oneEngine_setEngine s k.val rfl, fun x => ?_, ?_, hexec, fun hnone => ?_⟩
    · rw [State.engine_setEngine_self]
      rfl
    · rw [State.engine_setEngine_self]
      rfl
    · exact hexec.trans (congrArg Host.Outcome.next (State.sendTile_of_unheld _ _ hnone))
  · obtain rfl | rfl := hi
    · exact exec_tile_pastEnd (.inl rfl) hon rfl hpast
    · exact exec_tile_pastEnd (.inr rfl) hon rfl hpast

end Sys2Proof.Claims
end

section
/-! SUPPORT. Work that stands apart from the queues: what credit, moves, packets, cores and links leave of the queues, the bytes of both memories, the host's view, the peer table and the receive windows. -/

namespace Sys2Proof.Machine

/-- A field that is the same in the lists of partitions is the same of each. -/
theorem State.part_field_of_map {α : Type} {f : Part → α} {s t : State} (h : t.parts.map f = s.parts.map f) (p : Nat) : f (t.part p) = f (s.part p) :=
  (List.getD_map _ _ f).symm.trans ((congrArg (List.getD · p (f {})) h).trans (List.getD_map _ _ f))

/-- From `s` to `t` no queue, no byte of either memory, no line of the host-line cache, no peer entry and no receive window has changed, nor the link. -/
structure Apart (s t : State) : Prop where
  queues : t.queues = s.queues
  dev : t.mem.dev = s.mem.dev
  hostMem : t.mem.hostMem = s.mem.hostMem
  link : t.link = s.link
  lines : t.fabric.lines = s.fabric.lines
  peers : t.sec.peers = s.sec.peers
  windows : t.parts.map Part.windows = s.parts.map Part.windows

namespace Apart

theorem refl (s : State) : Apart s s := ⟨rfl, rfl, rfl, rfl, rfl, rfl, rfl⟩

theorem trans {s t u : State} (h : Apart s t) (k : Apart t u) : Apart s u :=
  ⟨k.queues.trans h.queues, k.dev.trans h.dev, k.hostMem.trans h.hostMem, k.link.trans h.link, k.lines.trans h.lines, k.peers.trans h.peers,
    k.windows.trans h.windows⟩

/-- The step that is the last is named first, so that it gives the state before it. -/
theorem after {s t u : State} (k : Apart t u) (h : Apart s t) : Apart s u := h.trans k

theorem ite {c : Prop} [Decidable c] {s a b : State} (ha : Apart s a) (hb : Apart s b) : Apart s (if c then a else b) := by
  split
  · exact ha
  · exact hb

theorem foldl {α : Type} (f : State → α → State) (l : List α) (s : State) (hf : ∀ s x, Apart s (f s x)) : Apart s (l.foldl f s) := by
  induction l generalizing s with
  | nil => exact refl s
  | cons x r ih => exact (hf s x).trans (ih _)

/-- A device range that is put in place of the old one before or after such work. -/
theorem setDev {s t : State} (h : Apart s t) (m : Memory) : Apart (s.setDev m) (t.setDev m) :=
  ⟨h.queues, rfl, h.hostMem, h.link, h.lines, h.peers, h.windows⟩

/-- A queue that is updated before or after such work. -/
theorem modQueue {s t : State} (h : Apart s t) (q : Nat) (f : Queue → Queue) : Apart (s.modQueue q f) (t.modQueue q f) :=
  ⟨congrArg (updAt · q f) h.queues, h.dev, h.hostMem, h.link, h.lines, h.peers, h.windows⟩

section
variable {s t : State} (h : Apart s t)
include h

theorem queue (q : Nat) : t.queue q = s.queue q := by
  unfold State.queue
  rw [h.queues]

theorem head? (q : Nat) : t.head? q = s.head? q := congrArg (fun x : Queue => x.fifo.head?) (h.queue q)

theorem hasPeer (ep : Nat) : t.hasPeer ep = s.hasPeer ep := by
  unfold State.hasPeer
  rw [h.peers]

theorem part_windows (p : Nat) : (t.part p).windows = (s.part p).windows := State.part_field_of_map h.windows p

theorem outbound : t.outbound = s.outbound := congrArg (fun l : Link => l.st == .l0 && !l.d3hot && !l.losing) h.link

end

end Apart

/-- Work that stands apart and, besides, changes nothing of the memory system and no stream. -/
structure Calm (s t : State) : Prop extends Apart s t where
  mem : t.mem = s.mem
  streams : t.parts.map Part.stream = s.parts.map Part.stream

namespace Calm

theorem refl (s : State) : Calm s s := ⟨.refl s, rfl, rfl⟩

theorem trans {s t u : State} (h : Calm s t) (k : Calm t u) : Calm s u :=
  ⟨h.toApart.trans k.toApart, k.mem.trans h.mem, k.streams.trans h.streams⟩

/-- The step that is the last is named first, so that it gives the state before it. -/
theorem after {s t u : State} (k : Calm t u) (h : Calm s t) : Calm s u := h.trans k

theorem ite {c : Prop} [Decidable c] {s a b : State} (ha : Calm s a) (hb : Calm s b) : Calm s (if c then a else b) := by
  split
  · exact ha
  · exact hb

theorem foldl {α : Type} (f : State → α → State) (l : List α) (s : State) (hf : ∀ s x, Calm s (f s x)) : Calm s (l.foldl f s) := by
  induction l generalizing s with
  | nil => exact refl s
  | cons x r ih => exact (hf s x).trans (ih _)

theorem part_stream {s t : State} (h : Calm s t) (p : Nat) : (t.part p).stream = (s.part p).stream := State.part_field_of_map h.streams p

/-- What follows from operands that decode, and nothing when they do not. -/
theorem okOr {α : Type} (s : State) (x : Except Nat α) (f : α → State) (hf : ∀ a, Calm s (f a)) : Calm s (Machine.okOr x s f) := by
  cases x with
  | error e => exact refl s
  | ok a => exact hf a

/-- Work that leaves whole the blocks that Calm speaks of. -/
theorem of_blocks {s t : State} (hqueues : t.queues = s.queues) (hmem : t.mem = s.mem) (hlink : t.link = s.link)
    (hlines : t.fabric.lines = s.fabric.lines) (hpeers : t.sec.peers = s.sec.peers) (hparts : t.parts = s.parts) : Calm s t :=
  ⟨⟨hqueues, congrArg Mem.dev hmem, congrArg Mem.hostMem hmem, hlink, hlines, hpeers, congrArg (List.map Part.windows) hparts⟩, hmem,
    congrArg (List.map Part.stream) hparts⟩

theorem of_moves {s t : State} (h : Moves s t) : Calm s t :=
  of_blocks h.queues h.mem (by rw [h.state]) (congrArg Fabric.lines h.fabric) (by rw [h.state]) h.parts

variable (s : State)

/-! Parts of the state. -/

theorem modAdm (f : Adm → Adm) : Calm s (s.modAdm f) := of_blocks rfl rfl rfl rfl rfl rfl
theorem modFab (f : Fab → Fab) : Calm s (s.modFab f) := of_blocks rfl rfl rfl rfl rfl rfl
theorem setMeter (v : Meter) : Calm s (s.setMeter v) := of_blocks rfl rfl rfl rfl rfl rfl
theorem setFresh (v : Nat) : Calm s (s.setFresh v) := of_blocks rfl rfl rfl rfl rfl rfl
theorem setCores (v : List PhysCore) : Calm s (s.setCores v) := of_blocks rfl rfl rfl rfl rfl rfl
theorem setEngines (v : List (Nat × TileCtx)) : Calm s (s.setEngines v) := of_blocks rfl rfl rfl rfl rfl rfl
theorem setCoreMems (v : List (Nat × CoreMem)) : Calm s (s.setCoreMems v) := of_blocks rfl rfl rfl rfl rfl rfl
theorem setFabric (v : Fabric) (h : v.lines = s.fabric.lines) : Calm s (s.setFabric v) := of_blocks rfl rfl rfl h rfl rfl

/-- An update of a partition that leaves its windows and its stream. -/
theorem modPart (p : Nat) (f : Part → Part) (hw : ∀ x, (f x).windows = x.windows) (hs : ∀ x, (f x).stream = x.stream) : Calm s (s.modPart p f) :=
  ⟨⟨rfl, rfl, rfl, rfl, rfl, rfl, map_updAt Part.windows _ _ _ {} (hw _)⟩, rfl, map_updAt Part.stream _ _ _ {} (hs _)⟩

theorem meterBytes (p n : Nat) : Calm s (s.meterBytes p n) := setMeter s _

theorem meterVectors (p n : Nat) : Calm s (s.meterVectors p n) := setMeter s _

/-! Credit (R273, R274, R277). -/

theorem countWait (w : CreditReq) : Calm s (s.countWait w) := modPart s _ _ (fun _ => rfl) (fun _ => rfl)

theorem holdShares (r p : Nat) (l : List (Nat × Nat)) : Calm s (s.holdShares r p l) := foldl _ _ s fun s _ => modAdm s _

theorem askCredit (r p cls n who : Nat) : Calm s (s.askCredit r p cls n who).2 := by
  unfold State.askCredit
  dsimp only
  split
  · dsimp only
    refine trans (trans ?_ (holdShares _ r p _)) (modAdm _ _)
    split
    · exact countWait s _
    · exact refl s
  · exact (refl s).ite (modAdm s _)

theorem releaseFrom (r p : Nat) (l : List Nat) (n : Nat) : Calm s (State.releaseFrom r p l n s) := by
  induction l generalizing n s with
  | nil =>
    cases n with
    | zero => exact refl s
    | succ n => exact refl s
  | cons o l ih =>
    cases n with
    | zero => exact refl s
    | succ n => exact ((refl s).ite (modAdm s _)).trans (ih _ _)

theorem releaseCredit (r p n : Nat) : Calm s (s.releaseCredit r p n) := releaseFrom s r p _ n

/-! Packets and link traffic (R287 to R291, R378). -/

theorem sendPkt (ep part cls axis src : Nat) (body : PktBody) : Calm s (s.sendPkt ep part cls axis src body).1 := by
  unfold State.sendPkt
  split
  · exact of_moves ((Moves.setFlow s _).trans (Moves.pump _ _ _ _))
  · exact refl s

theorem sendChunks (ep part cls axis src kind tag id n off : Nat) (bs : Bytes) : Calm s (State.sendChunks ep part cls axis src kind tag id n off bs s).1 := by
  induction n generalizing s off bs with
  | zero => exact refl s
  | succ n ih =>
    unfold State.sendChunks
    split
    · exact refl s
    · exact (sendPkt s ep part cls axis src (.data kind tag id off (bs.take s.payloadMax))).trans (ih _ _ _)

theorem cellarReq (who src : Nat) (lease : Nat × Nat) (off : Nat) (data : Option Bytes) (n : Nat) : Calm s (s.cellarReq who src lease off data n) := by
  unfold State.cellarReq
  exact trans ((meterBytes s _ _).trans (sendPkt _ _ _ _ _ _ _)) (modFab _ _)

theorem cellarRead (who a n : Nat) : Calm s (s.cellarRead who a n) := by
  refine foldl _ _ s fun s x => ?_
  split
  · exact (foldl _ _ s fun s j => (refl s).ite (cellarReq s _ _ _ _ _ _)).ite (refl s)
  · exact refl s

theorem nextAttempt (ep part window : Nat) : Calm s (s.nextAttempt ep part window).2 := of_blocks rfl rfl rfl rfl rfl rfl

end Calm

/-! What the die links carry (R378). -/

theorem Fabric.arrive_lines (f : Fabric) (p : LinkPkt) : (f.arrive p).lines = f.lines := by
  unfold Fabric.arrive
  dsimp only
  split
  · split
    · rfl
    · rfl
  · split
    · rfl
    · rfl

theorem Fabric.sendOne_lines {f g : Fabric} {now : Nat} {w : Nat → Nat} (h : f.sendOne now w = some g) : g.lines = f.lines := by
  obtain ⟨x, -, hx⟩ := List.exists_of_findSome?_eq_some h
  obtain ⟨y, -, rfl⟩ := Option.map_eq_some_iff.1 hx
  exact Fabric.arrive_lines _ _

theorem Fabric.serve_lines (now : Nat) (w : Nat → Nat) (n : Nat) (f : Fabric) : (Fabric.serve now w n f).lines = f.lines := by
  induction n generalizing f with
  | zero => rfl
  | succ n ih =>
    unfold Fabric.serve
    split
    · rfl
    · next h => exact (ih _).trans (Fabric.sendOne_lines h)

theorem Fabric.arriveAll_lines (l : List LinkPkt) (f : Fabric) :
    (l.foldl (fun f p => f.arrive { p with path := linkRoute p.src p.dst p.page }) f).lines = f.lines := by
  induction l generalizing f with
  | nil => rfl
  | cons p r ih => exact (ih _).trans (Fabric.arrive_lines _ _)

namespace Calm

variable (s : State)

theorem linkSend (l : List LinkPkt) : Calm s (s.linkSend l) :=
  (refl s).ite ((setFabric s _ (Fabric.arriveAll_lines l _)).trans (setFabric _ _ (Fabric.serve_lines _ _ _ _)))

/-! Cores and their memories (R81, R119, R429). -/

theorem clearEngines (l : List Nat) : Calm s (s.clearEngines l) := by
  unfold State.clearEngines
  split
  · exact refl s
  · exact of_blocks rfl rfl rfl rfl rfl rfl

theorem restCores (l : List Nat) : Calm s (s.restCores l) := (refl s).ite (setCores s _)

theorem modCoreMem (l : Nat) (f : CoreMem → CoreMem) : Calm s (s.modCoreMem l f) := by
  unfold State.modCoreMem
  split
  · exact setCoreMems s _
  · exact refl s

theorem movePart (p : Nat) (c0 : Bool) (own core : Nat) (x : Nat × Nat) : Calm s (s.movePart p c0 own core x) := by
  unfold State.movePart
  split
  · exact (refl s).ite ((setCoreMems s _).ite ((setCoreMems s _).trans (linkSend _ _)))
  · exact refl s

theorem moveParts (p : Nat) (c0 : Bool) (held : List (Nat × List (Nat × Nat))) : Calm s (s.moveParts p c0 held) := by
  refine foldl _ _ s fun s y => ?_
  split
  · exact movePart s _ _ _ _ _
  · exact refl s

theorem fillMems (q : Nat) (b : Bytes) (out : List Host.Cell) : Calm s (s.fillMems q b out) :=
  okOr s _ _ fun _ => okOr s _ _ fun _ => (foldl _ _ s fun s _ => modCoreMem s _ _).trans (moveParts _ _ _ _)

theorem fillChained (q : Nat) (b : Bytes) (out : List Host.Cell) : Calm s (s.fillChained q b out) :=
  okOr s _ _ fun _ => okOr s _ _ fun _ => (refl s).ite (foldl _ _ s fun s _ => modCoreMem s _ _)

end Calm

/-! Placement and moves (R206, R210, R213, R216 to R223). -/

namespace Apart

variable (s : State)

/-- An update of the memory system that leaves the bytes. -/
theorem setMem (v : Mem) (hdev : v.dev = s.mem.dev) (hhost : v.hostMem = s.mem.hostMem) : Apart s (s.setMem v) :=
  ⟨rfl, hdev, hhost, rfl, rfl, rfl, rfl⟩

theorem setSlabs (v : List Slab) : Apart s (s.setSlabs v) := setMem s _ rfl rfl

theorem modSlab (k : Nat) (f : Slab → Slab) : Apart s (s.modSlab k f) := setSlabs s _

theorem setMigrations (v : List Migration) : Apart s (s.setMigrations v) := setMem s _ rfl rfl

theorem nextFrame : Apart s s.nextFrame.2 := setMem s _ rfl rfl

/-- An update of a stream (R174 to R178). -/
theorem modStream (p : Nat) (f : Stream → Stream) : Apart s (s.modStream p f) :=
  ⟨rfl, rfl, rfl, rfl, rfl, rfl, map_updAt Part.windows _ _ _ {} rfl⟩

theorem retain (p : Nat) (ks : List Nat) : Apart s (s.retain p ks) := by
  unfold State.retain
  exact modStream s p _

theorem fixPoolWait (p : Nat) : Apart s (s.fixPoolWait p) := (refl s).ite (modStream s p _)

theorem touches (read : Bool) (l : List (Nat × Nat)) : Apart s (s.touches read l) := foldl _ _ s fun s _ => setSlabs s _

theorem dropWaiting (who : Nat) : Apart s (s.dropWaiting who) := by
  unfold State.dropWaiting
  exact (foldl State.countWait _ s fun s w => (Calm.countWait s w).toApart).trans (Calm.modAdm _ _).toApart

theorem grantMoves (b : Nat) (l : List Migration) : Apart s (State.grantMoves b l s) := by
  induction l generalizing s with
  | nil => exact refl s
  | cons m r ih =>
    unfold State.grantMoves
    split
    next u hu =>
      have hask := (Calm.askCredit s (4 + b) (partOfKey m.key) 3 1 (moveWho m.key)).toApart
      rw [hu] at hask
      exact after (ih _) (hask.trans (ite (setMigrations u _) (refl u)))

theorem orderMoves (b : Nat) : Apart s (s.orderMoves b) := by
  unfold State.orderMoves
  exact (Calm.modAdm s _).toApart

theorem serveMoves : Apart s s.serveMoves := foldl _ _ s fun s b => (refl s).ite ((orderMoves s b).trans (grantMoves _ b _))

theorem dropMoves (f : Migration → Bool) : Apart s (s.dropMoves f) := by
  have hgone (l : List Migration) (s : State) : Apart s (l.foldl (fun s m =>
      if m.granted then s.releaseCredit (4 + m.bdie) (partOfKey m.key) 1 else s.dropWaiting (moveWho m.key)) s) :=
    foldl _ _ s fun s m => (Calm.releaseCredit s _ _ _).toApart.ite (dropWaiting s _)
  exact (refl s).ite (((setMigrations s _).trans (hgone _ _)).trans (serveMoves _))

theorem frameFor (t : Tier) (lease : Option (Nat × Nat)) : Apart s (s.frameFor t lease).2 := by
  cases t with
  | t1 | t2 => exact nextFrame s
  | t3 | t4 => exact refl s

theorem startMove (k : Nat) (dst : Tier) (cls rank : Nat) : Apart s (s.startMove k dst cls rank) := by
  unfold State.startMove
  split
  · exact refl s
  · split
    · exact refl s
    · dsimp only
      split
      · exact refl s
      · exact (refl s).ite (after (serveMoves _) (after (modSlab _ k _) (after (setMigrations _ _) (frameFor s dst _))))

theorem demote (p k cls : Nat) : Apart s (s.demote p k cls) := (startMove s _ _ _ _).ite ((startMove s _ _ _ _).ite (startMove s _ _ _ _))

theorem refillTier (p : Nat) (t : Tier) (n : Nat) : Apart s (State.refillTier p t n s) := by
  induction n generalizing s with
  | zero => exact refl s
  | succ n ih =>
    unfold State.refillTier
    split
    · exact refl s
    · exact (demote s p _ 1).trans (ih _)

theorem refill (p : Nat) : Apart s (s.refill p) := (refillTier s p .t1 _).trans (refillTier _ p .t2 _)

theorem refillFor (p cls who : Nat) : Apart s (s.refillFor p cls who) := by
  unfold State.refillFor
  refine (refill s p).ite ?_
  have hask := (Calm.askCredit s 3 p cls 1 who).toApart
  exact ((hask.trans (refill _ p)).trans (Calm.releaseCredit _ 3 p 1).toApart).ite hask

theorem takeStage (p cls : Nat) (t1Only : Bool) (home : Option Tier) (die : Option Nat) : Apart s (s.takeStage p cls t1Only home die).2 := by
  unfold State.takeStage
  dsimp only
  split
  · exact refl s
  · have hchoose (l : List (Tier × Option Nat)) : Apart s (if l.isEmpty then (none, s) else (l[s.draw.1 % l.length]?, s.draw.2)).2 := by
      split
      · exact refl s
      · exact (Calm.setFresh s _).toApart
    exact hchoose _

end Apart

end Sys2Proof.Machine
end

section
/-! SUPPORT. What becomes of the head command of a queue: the draw of staging slabs, tiles on their way to peers, and the end of a run (R146, R147, R204, R213, R263). -/

namespace Sys2Proof.Machine

/-! The head command after an update. -/

theorem updAt_zero_cons {α : Type} (a : α) (r : List α) (f : α → α) : updAt (a :: r) 0 f = f a :: r := rfl

/-- An update is the update by the value that it gives. -/
theorem updAt_const {α : Type} (l : List α) (i : Nat) (f : α → α) (d : α) : updAt l i f = updAt l i fun _ => f (l.getD i d) := by
  induction l generalizing i with
  | nil => rfl
  | cons a r ih =>
    cases i with
    | zero => rfl
    | succ i => exact congrArg (a :: ·) (ih i)

theorem updAt_id {α : Type} (l : List α) (i : Nat) : updAt l i id = l := by
  induction l generalizing i with
  | nil => rfl
  | cons a r ih =>
    cases i with
    | zero => rfl
    | succ i => exact congrArg (a :: ·) (ih i)

theorem updAt_updAt {α : Type} (l : List α) (i : Nat) (f g : α → α) : updAt (updAt l i f) i g = updAt l i fun x => g (f x) := by
  induction l generalizing i with
  | nil => rfl
  | cons a r ih =>
    cases i with
    | zero => rfl
    | succ i => exact congrArg (f := (a :: ·)) (ih i)

theorem State.modQueue_const (s : State) (q : Nat) (f : Queue → Queue) : s.modQueue q f = s.modQueue q fun _ => f (s.queue q) :=
  congrArg s.setQueues (updAt_const s.queues q f {})

theorem State.modQueue_modQueue (s : State) (q : Nat) (f g : Queue → Queue) : (s.modQueue q f).modQueue q g = s.modQueue q fun x => g (f x) :=
  congrArg s.setQueues (updAt_updAt s.queues q f g)

/-- A queue with a command is one of the queues. -/
theorem State.lt_of_head? {s : State} {q : Nat} {c : Cmd} (h : s.head? q = some c) : q < s.queues.length := by
  by_contra hn
  unfold State.head? at h
  rw [s.queue_of_le q (by omega)] at h
  cases h

theorem State.fifo_of_head? {s : State} {q : Nat} {c : Cmd} (h : s.head? q = some c) : (s.queue q).fifo = c :: (s.queue q).fifo.tail :=
  (List.cons_head?_tail h).symm

/-- From `s` to `t` the head command of queue `q` has become `d`; the commands behind it, the other queues and what Apart speaks of are as before. -/
structure HeadBecomes (s t : State) (q : Nat) (d : Cmd) : Prop where
  lt : q < s.queues.length
  queue : ∃ x : Queue, x.fifo = d :: (s.queue q).fifo.tail ∧ Apart (s.modQueue q fun _ => x) t

namespace HeadBecomes

/-- The head command after it has become `d`. -/
theorem head {s t : State} {q : Nat} {d : Cmd} (h : HeadBecomes s t q d) : t.head? q = some d := by
  obtain ⟨hlt, x, hx, hapart⟩ := h
  rw [hapart.head? q]
  unfold State.head?
  rw [State.queue_modQueue_self _ _ _ hlt, hx]
  rfl

theorem tail {s t : State} {q : Nat} {d : Cmd} (h : HeadBecomes s t q d) : (t.queue q).fifo.tail = (s.queue q).fifo.tail := by
  obtain ⟨hlt, x, hx, hapart⟩ := h
  rw [hapart.queue q, State.queue_modQueue_self _ _ _ hlt, hx]
  rfl

theorem dev {s t : State} {q : Nat} {d : Cmd} (h : HeadBecomes s t q d) : t.mem.dev = s.mem.dev := by
  obtain ⟨-, x, -, hapart⟩ := h
  exact hapart.dev

theorem hasPeer {s t : State} {q : Nat} {d : Cmd} (h : HeadBecomes s t q d) (ep : Nat) : t.hasPeer ep = s.hasPeer ep := by
  obtain ⟨-, x, -, hapart⟩ := h
  exact hapart.hasPeer ep

theorem trans {s t u : State} {q : Nat} {d e : Cmd} (h : HeadBecomes s t q d) (k : HeadBecomes t u q e) : HeadBecomes s u q e := by
  have htail := h.tail
  obtain ⟨hlt, x, -, hapart⟩ := h
  obtain ⟨-, y, hy, kapart⟩ := k
  refine ⟨hlt, y, htail ▸ hy, ?_⟩
  have hmod := hapart.modQueue q fun _ => y
  rw [State.modQueue_modQueue] at hmod
  exact hmod.trans kapart

/-- Work that stands apart leaves the head command. -/
theorem of_apart {s t : State} {q : Nat} {c : Cmd} (hc : s.head? q = some c) (h : Apart s t) : HeadBecomes s t q c := by
  refine ⟨State.lt_of_head? hc, s.queue q, State.fifo_of_head? hc, ?_⟩
  rw [show (s.modQueue q fun _ => s.queue q) = s.modQueue q id from (s.modQueue_const q id).symm]
  exact ⟨h.queues.trans (updAt_id _ _).symm, h.dev, h.hostMem, h.link, h.lines, h.peers, h.windows⟩

theorem refl {s : State} {q : Nat} {c : Cmd} (hc : s.head? q = some c) : HeadBecomes s s q c := of_apart hc (.refl s)

theorem apart {s t u : State} {q : Nat} {d : Cmd} (h : HeadBecomes s t q d) (k : Apart t u) : HeadBecomes s u q d := h.trans (of_apart h.head k)

section
variable {s t : State} {q : Nat} {d : Cmd} (h : HeadBecomes s t q d)
include h

theorem modHead (f : Cmd → Cmd) : HeadBecomes s (t.modHead q f) q (f d) := by
  refine h.trans ⟨State.lt_of_head? h.head, { t.queue q with fifo := updAt (t.queue q).fifo 0 f }, ?_, ?_⟩
  · rw [State.fifo_of_head? h.head]
    rfl
  · unfold State.modHead
    rw [t.modQueue_const q fun x => { x with fifo := updAt x.fifo 0 f }]
    exact .refl _

/-- An update of the queue that leaves its commands. -/
theorem modQueue (f : Queue → Queue) (hf : (f (t.queue q)).fifo = (t.queue q).fifo) : HeadBecomes s (t.modQueue q f) q d := by
  refine h.trans ⟨State.lt_of_head? h.head, f (t.queue q), hf.trans (State.fifo_of_head? h.head), ?_⟩
  rw [t.modQueue_const q f]
  exact .refl _

theorem beginWait : HeadBecomes s (t.beginWait q) q { d with waitFrom := some (d.waitFrom.getD t.nowUs) } := h.modHead _

theorem endWait : HeadBecomes s (t.endWait q) q { d with waitUs := t.waitOf d, waitFrom := none } := h.modHead _

/-- A command gives its cores back (R263 step 1). -/
theorem releaseCores : HeadBecomes s (t.releaseCores q) q { d with cores := [] } := by
  unfold State.releaseCores
  rw [h.head]
  dsimp only
  split
  · next hnone =>
    rw [← List.isEmpty_iff.1 hnone]
    exact h
  · refine apart ?_ (Calm.restCores _ _).toApart
    refine modHead (d := d) ?_ fun c => { c with cores := [] }
    refine modQueue ?_ _ rfl
    refine apart ?_ (Calm.modPart _ _ _ ?_ ?_).toApart
    · exact h.apart (Calm.clearEngines _ _).toApart
    · exact fun _ => rfl
    · exact fun _ => rfl

/-- The place of a command in the slow path is free (R273, R491). -/
theorem answerSlow : HeadBecomes s (t.answerSlow q) q { d with slow := false } := by
  unfold State.answerSlow
  rw [h.head]
  split
  · exact (h.apart (Calm.releaseCredit _ _ _ _).toApart).modHead fun c => { c with slow := false }
  · next hno =>
    have hslow : d.slow = false := by simpa using hno
    rw [← hslow]
    exact h

end

end HeadBecomes

theorem State.tilesLeft_of_head? {s : State} {q : Nat} {c : Cmd} (hc : s.head? q = some c) :
    s.tilesLeft q = c.staged.sends.any fun t => !t.todo.isEmpty := by
  unfold State.tilesLeft
  rw [hc]

/-! The draw of staging slabs (R213). -/

/-- The command `d` is `c` with more of the staging slabs that it needs, waiting or not. -/
structure Draws (c d : Cmd) : Prop where
  state : d = { c with waitFrom := d.waitFrom, staged := { c.staged with need := d.staged.need, slabs := d.staged.slabs } }
  slabs : c.staged.slabs <+: d.staged.slabs
  need : d.staged.need <:+ c.staged.need

namespace Draws

theorem refl (c : Cmd) : Draws c c := ⟨rfl, List.prefix_refl _, List.suffix_refl _⟩

theorem trans {c d e : Cmd} (h : Draws c d) (k : Draws d e) : Draws c e :=
  ⟨k.state.trans (by rw [h.state]), h.slabs.trans k.slabs, k.need.trans h.need⟩

/-- One slab is drawn. -/
theorem one {c : Cmd} {k : Nat} {r : List Nat} (h : c.staged.need = k :: r) (x : Tier × Option Nat) :
    Draws c { c with staged := { c.staged with need := r, slabs := c.staged.slabs ++ [(k, x.1, x.2)] } } :=
  ⟨rfl, List.prefix_append _ _, h ▸ List.suffix_cons _ _⟩

end Draws

/-- The head command after the draw of one slab, before it goes on with the others (R213). -/
theorem State.allocate_succ_some {s s' : State} {q n k : Nat} {c : Cmd} {r : List Nat} {x : Tier × Option Nat} (hc : s.head? q = some c)
    (hneed : c.staged.need = k :: r)
    (htake : s.takeStage (s.queue q).part (s.queue q).cls (c.staged.t1Only || s.t1Slab k) (s.homeOf c.staged.tiers k)
      (s.dieFor (s.queue q).part k c) = (some x, s')) :
    State.allocate q (n + 1) s =
      State.allocate q n (s'.modHead q fun c => { c with staged := { c.staged with need := r, slabs := c.staged.slabs ++ [(k, x.1, x.2)] } }) := by
  conv => lhs; unfold State.allocate
  simp only [hc, hneed, htake]

/-- Drawing staging slabs changes what its command holds of them and still needs, and its wait (R213). -/
theorem HeadBecomes.allocate {s : State} {q : Nat} {c : Cmd} (n : Nat) (hc : s.head? q = some c) :
    ∃ d, HeadBecomes s (State.allocate q n s) q d ∧ Draws c d := by
  induction n generalizing s c with
  | zero => exact ⟨c, .refl hc, .refl c⟩
  | succ n ih =>
    cases hneed : c.staged.need with
    | nil =>
      refine ⟨c, ?_, .refl c⟩
      unfold State.allocate
      simp only [hc, hneed]
      exact .refl hc
    | cons k r =>
      have hapart := Apart.takeStage s (s.queue q).part (s.queue q).cls (c.staged.t1Only || s.t1Slab k) (s.homeOf c.staged.tiers k)
        (s.dieFor (s.queue q).part k c)
      cases htake : s.takeStage (s.queue q).part (s.queue q).cls (c.staged.t1Only || s.t1Slab k) (s.homeOf c.staged.tiers k)
        (s.dieFor (s.queue q).part k c) with
      | mk x t =>
        rw [htake] at hapart
        have ht := HeadBecomes.of_apart hc hapart
        cases x with
        | some x =>
          rw [State.allocate_succ_some hc hneed htake]
          have hdrawn := ht.modHead fun c => { c with staged := { c.staged with need := r, slabs := c.staged.slabs ++ [(k, x.1, x.2)] } }
          obtain ⟨d, hd, hdraws⟩ := ih hdrawn.head
          exact ⟨d, hdrawn.trans hd, (Draws.one hneed x).trans hdraws⟩
        | none =>
          refine ⟨{ c with waitFrom := some (c.waitFrom.getD t.nowUs) }, ?_, ⟨rfl, List.prefix_refl _, List.suffix_refl _⟩⟩
          unfold State.allocate
          simp only [hc, hneed, htake]
          exact ht.beginWait.apart (Apart.refillFor _ _ _ _)

/-! Tiles on their way to peers (R146, R147, R302). -/

theorem HeadBecomes.acceptTile {s : State} {q : Nat} {c : Cmd} (hc : s.head? q = some c) (t : TileSend) (l : List (Nat × Bytes)) :
    HeadBecomes s (s.acceptTile q t l).1 q { c with hubUnits := c.hubUnits + ceilDiv (tileBytes l) 4096 } := by
  have hpieces : ∀ (l : List (Nat × Bytes)) (x : State × List Nat), Calm x.1 (l.foldl (fun x y =>
      let z := State.sendChunks t.ep t.part (s.queue q).cls ((s.axisOf (s.queue q).part t.cut).getD anyAxis) (s.queue q).part 0 t.window t.attempt
        y.2.length y.1 y.2 x.1
      (z.1, x.2 ++ z.2)) x).1 := fun l => by
    induction l with
    | nil => exact fun x => .refl x.1
    | cons y r ih => exact fun x => .after (ih _) (Calm.sendChunks x.1 _ _ _ _ _ _ _ _ _ _ _)
  exact (HeadBecomes.of_apart hc ((hpieces l (s, [])).trans (Calm.meterBytes _ _ _)).toApart).modHead
    fun c => { c with hubUnits := c.hubUnits + ceilDiv (tileBytes l) 4096 }

/-- The command `d` is `c` with some other number of hub-ingress units. -/
def SameButUnits (c d : Cmd) : Prop := d = { c with hubUnits := d.hubUnits }

theorem SameButUnits.trans {c d e : Cmd} (h : SameButUnits c d) (k : SameButUnits d e) : SameButUnits c e := by
  unfold SameButUnits at *
  rw [k, h]

theorem HeadBecomes.pushWindow {s : State} {q : Nat} {c : Cmd} (n : Nat) (t : TileSend) (hc : s.head? q = some c) :
    ∃ d, HeadBecomes s (State.pushWindow q n t s).1 q d ∧ SameButUnits c d := by
  induction n generalizing s c t with
  | zero => exact ⟨c, .refl hc, rfl⟩
  | succ n ih =>
    unfold State.pushWindow
    split
    · exact ⟨c, .refl hc, rfl⟩
    · next l _ _ =>
      have hask := (Calm.askCredit s 1 (s.queue q).part (s.queue q).cls (ceilDiv (tileBytes l) 4096) q).toApart
      split
      · next u hu =>
        rw [hu] at hask
        have hu := HeadBecomes.of_apart hc hask
        have haccept := HeadBecomes.acceptTile hu.head t l
        obtain ⟨d, hd, hunits⟩ := ih (u.acceptTile q t l).2 haccept.head
        exact ⟨d, (hu.trans haccept).trans hd, SameButUnits.trans (d := { c with hubUnits := c.hubUnits + ceilDiv (tileBytes l) 4096 }) rfl hunits⟩
      · next u hu =>
        rw [hu] at hask
        exact ⟨c, .of_apart hc hask, rfl⟩

theorem HeadBecomes.pushSends {s : State} {q : Nat} {c : Cmd} (l : List TileSend) (hc : s.head? q = some c) :
    ∃ d, HeadBecomes s (State.pushSends q l s).1 q d ∧ SameButUnits c d := by
  induction l generalizing s c with
  | nil => exact ⟨c, .refl hc, rfl⟩
  | cons t r ih =>
    unfold State.pushSends
    split
    · exact ih hc
    · have hstart : Apart s (if t.started then (s, t) else
          ((s.nextAttempt t.ep t.part t.window).2, { t with started := true, attempt := (s.nextAttempt t.ep t.part t.window).1 })).1 := by
        split
        · exact .refl s
        · exact (Calm.nextAttempt s _ _ _).toApart
      have hu := HeadBecomes.of_apart hc hstart
      obtain ⟨d, hd, hunits⟩ := HeadBecomes.pushWindow _ _ hu.head
      obtain ⟨e, he, kunits⟩ := ih hd.head
      exact ⟨e, (hu.trans hd).trans he, hunits.trans kunits⟩

/-- Handing tiles over leaves of the head command all but the tiles, its wait and its units (R146, R147). -/
theorem HeadBecomes.pushTiles {s : State} {q : Nat} {c : Cmd} (hc : s.head? q = some c) (hpeers : ∀ t ∈ c.staged.sends, s.hasPeer t.ep = true) :
    ∃ d, HeadBecomes s (s.pushTiles q) q d ∧
      d = { c with
        hubUnits := d.hubUnits, waitFrom := d.waitFrom, staged := { c.staged with sends := (State.pushSends q c.staged.sends s).2 }
        tileWait := (State.pushSends q c.staged.sends s).2.any fun t => !t.todo.isEmpty } := by
  obtain ⟨d, hd, hunits⟩ := HeadBecomes.pushSends c.staged.sends hc
  obtain ⟨n, rfl⟩ : ∃ n, d = { c with hubUnits := n } := ⟨_, hunits⟩
  have hsent := hd.modHead fun c' => { c' with staged := { c'.staged with sends := (State.pushSends q c.staged.sends s).2 } }
  have hleft := State.tilesLeft_of_head? hsent.head
  have hno : (c.staged.sends.any fun t => !s.hasPeer t.ep) = false := by
    rw [List.any_eq_false]
    intro t ht
    rw [hpeers t ht]
    decide
  unfold State.pushTiles
  simp only [hc, hno, Bool.false_eq_true, if_false]
  split
  · next hwait =>
    refine ⟨_, (hsent.modHead fun c => { c with tileWait := true }).beginWait, ?_⟩
    rw [show ((State.pushSends q c.staged.sends s).2.any fun t => !t.todo.isEmpty) = true from hleft.symm.trans hwait]
  · next hwait =>
    refine ⟨_, hsent.modHead fun c => { c with tileWait := false }, ?_⟩
    rw [show ((State.pushSends q c.staged.sends s).2.any fun t => !t.todo.isEmpty) = false from hleft.symm.trans (Bool.eq_false_iff.2 hwait)]

/-! The end of a run (R263 step 1). -/

/-- The command `d` is `c`, or `c` with its cores given back as it stands before its commit. -/
structure Settles (c d : Cmd) : Prop where
  staged : d.staged = c.staged
  ran : d.ran = c.ran
  tileWait : c.tileWait = false → d.tileWait = false

/-- A run whose outputs are all staged and handed over stands before its commit, with no core (R263 step 1). -/
theorem HeadBecomes.settleRun {s : State} {q : Nat} {c : Cmd} (hc : s.head? q = some c) :
    ∃ d, HeadBecomes s (s.settleRun q) q d ∧ Settles c d ∧
      (c.phase = .started → c.ran = true → c.staged.need = [] → s.tilesLeft q = false → d.phase = .staged ∧ d.cores = []) := by
  unfold State.settleRun
  simp only [hc]
  split
  · have hlinks (l : List LinkPkt) (p n : Nat) : HeadBecomes s ((s.linkSend l).meterBytes p n) q c :=
      .of_apart hc ((Calm.linkSend s l).trans (Calm.meterBytes _ p n)).toApart
    exact ⟨_, (hlinks _ _ _).endWait.releaseCores.modHead fun c => { c with phase := .staged, tileWait := false }, ⟨rfl, rfl, fun _ => rfl⟩, fun _ _ _ _ => ⟨rfl, rfl⟩⟩
  · next hnot =>
    refine ⟨c, .refl hc, ⟨rfl, rfl, id⟩, fun hphase hran hneed hleft => absurd ?_ hnot⟩
    simp [hphase, hran, hneed, hleft]

/-! A run and what it leaves in staging (R204, R263). -/

/-- The peers of the tiles that are added are those of the windows named. -/
theorem mem_addSends {l : List (PeerWin × List (Nat × Bytes))} {acc : List TileSend} {t : TileSend} (h : t ∈ addSends acc l) :
    (∃ u ∈ acc, u.ep = t.ep) ∨ ∃ x ∈ l, x.1.ep = t.ep := by
  induction l generalizing acc with
  | nil => exact .inl ⟨t, h, rfl⟩
  | cons x r ih =>
    obtain ⟨u, hu, he⟩ | ⟨y, hy, he⟩ := ih h
    · dsimp only at hu
      split at hu
      · obtain ⟨v, hv, rfl⟩ := List.mem_map.1 hu
        refine .inl ⟨v, hv, ?_⟩
        rw [← he]
        split <;> rfl
      · obtain hu | hu := List.mem_append.1 hu
        · exact .inl ⟨u, hu, he⟩
        · refine .inr ⟨x, List.mem_cons_self, ?_⟩
          rw [← he, List.mem_singleton.1 hu]
    · exact .inr ⟨y, List.mem_cons_of_mem _ hy, he⟩

/-- Which slabs the host holds is read from the slab tables and the link alone. -/
theorem Calm.hostHeld {s t : State} (h : Calm s t) (ks : List Nat) : t.hostHeld ks = s.hostHeld ks := by
  unfold State.hostHeld State.slab?
  rw [h.outbound, h.mem]

/-- A command that has run draws its slabs and hands its tiles over; its bytes, records and effect wait with it (R146, R204, R213). -/
theorem runStaged_of_ran {s t : State} {q : Nat} {c : Cmd} (n : Nat) (ht : HeadBecomes s t q c) (hran : c.ran = true)
    (hpeers : ∀ x ∈ c.staged.sends, s.hasPeer x.ep = true) :
    Claims.RunStaged s (((State.allocate q n t).pushTiles q).settleRun q) q c.staged.writes c.staged.recs c.staged.effect := by
  obtain ⟨d, hd, hdraws⟩ := HeadBecomes.allocate n ht.head
  have hsd := ht.trans hd
  have hsends : d.staged.sends = c.staged.sends := by rw [hdraws.state]
  obtain ⟨e, he, hpushed⟩ := HeadBecomes.pushTiles hd.head fun x hx => (hsd.hasPeer x.ep).trans (hpeers x (hsends ▸ hx))
  obtain ⟨f, hf, hsettled, -⟩ := HeadBecomes.settleRun he.head
  have hsf := (hsd.trans he).trans hf
  refine ⟨⟨f, hsf.head, ?_, ?_, ?_, ?_⟩, hsf.dev⟩
  · rw [hsettled.ran, hpushed, hdraws.state]
    exact hran
  · rw [hsettled.staged, hpushed, hdraws.state]
  · rw [hsettled.staged, hpushed, hdraws.state]
  · rw [hsettled.staged, hpushed, hdraws.state]

/-- What a run has read is counted, and asked of the cellar where it lies there; its place in the slow path is free (R216, R228, R454). -/
theorem HeadBecomes.readIn {s : State} {q : Nat} {c : Cmd} (hc : s.head? q = some c) (l : List (Nat × Nat)) (p v n f : Nat) :
    HeadBecomes s (l.foldl (fun s x => s.cellarRead q x.1 x.2) (((((s.answerSlow q).touches true l).meterVectors p v).meterBytes p n).setFresh f)) q
      { c with slow := false } := by
  refine apart ?_ (Calm.foldl _ l _ fun s x => Calm.cellarRead s q x.1 x.2).toApart
  refine apart ?_ ((Calm.meterVectors _ p v).trans ((Calm.meterBytes _ p n).trans (Calm.setFresh _ f))).toApart
  exact (HeadBecomes.refl hc).answerSlow.apart (Apart.touches _ true l)

/-- What a run that ends well leaves: its bytes, records and effect with the head command, and the device range as it was (R204, R263). -/
theorem runStaged_stageRun {s : State} {q : Nat} {c : Cmd} {r : RunRes} {eff : Effect} (hc : s.head? q = some c) (hstaged : c.staged = {})
    (hstatus : r.status = 0) (hpeers : r.sends.any (fun x => !s.hasPeer x.1.ep) = false)
    (hheld : s.hostHeld (r.reads.flatMap fun x => spanSlabs x.1 x.2) = false) :
    Claims.RunStaged s (s.stageRun q r eff) q r.writes r.recs eff := by
  have hread := HeadBecomes.readIn hc r.reads (s.queue q).part r.vectors
  have hpeersRead : ∀ n f, r.sends.any (fun x => !State.hasPeer (r.reads.foldl (fun s x => s.cellarRead q x.1 x.2)
      (((((s.answerSlow q).touches true r.reads).meterVectors (s.queue q).part r.vectors).meterBytes (s.queue q).part n).setFresh f)) x.1.ep) = false :=
    fun n f => by simpa only [(hread n f).hasPeer] using hpeers
  unfold State.stageRun
  simp only [hheld, hstatus, hpeersRead, Bool.false_eq_true, if_false, ne_eq, not_true_eq_false]
  refine runStaged_of_ran _ (.modHead (.apart ((hread _ _).apart (Calm.linkSend _ _).toApart) (Apart.touches _ false _)) _) rfl fun t ht => ?_
  have hadded : t ∈ addSends c.staged.sends r.sends := ht
  rw [hstaged] at hadded
  obtain ⟨u, hu, -⟩ | ⟨x, hx, he⟩ := mem_addSends hadded
  · cases hu
  · simpa [he] using List.any_eq_false.1 hpeers x hx

/-- The same after work that stands apart, with the tables and the peers that it found. -/
theorem runStaged_stageRun_of_calm {s t : State} {q : Nat} {c : Cmd} {r : RunRes} {eff : Effect} (h : Calm s t) (hc : s.head? q = some c)
    (hstaged : c.staged = {}) (hstatus : r.status = 0) (hpeers : r.sends.any (fun x => !s.hasPeer x.1.ep) = false)
    (hheld : s.hostHeld (r.reads.flatMap fun x => spanSlabs x.1 x.2) = false) :
    Claims.RunStaged s (t.stageRun q r eff) q r.writes r.recs eff := by
  obtain ⟨hhead, hdev⟩ := runStaged_stageRun (eff := eff) ((h.head? q).trans hc) hstaged hstatus (by simpa only [h.hasPeer] using hpeers)
    ((h.hostHeld _).trans hheld)
  exact ⟨hhead, hdev.trans h.dev⟩

/-- The head command of the queue's command code runs on its entry, and then what waits goes on. -/
theorem State.runHead_of_started {s : State} {q op : Nat} {c : Cmd} (h : Claims.Started s q op c) (f : State → Bytes → State) :
    s.runHead q op f = (f s c.entry).settle := by
  obtain ⟨hc, hissue, hphase, hran, -, -, hverdict, hop⟩ := h
  unfold State.runHead
  simp [hc, hissue, hphase, hran, hverdict, hop]

/-! The matrix commands whose run gives a result (R151, R165, R169, R258). -/

section
variable {s : State} {q : Fin 64} {c : Cmd} {r : RunRes}

theorem exec_product_of_ok (hs : Claims.Started s q.val cPRODUCT c) (hstatus : r.status = 0)
    (hrun : s.runProduct (Claims.partOf s q) (s.queue q.val).cls c.entry = .ok r) :
    exec (.product q) s = .next ((s.fillMems q.val c.entry r.writes).stageRun q.val r .none).settle := by
  have hr : RunRes.ofExcept (s.runProduct (s.queue q.val).part (s.queue q.val).cls c.entry) = r := congrArg RunRes.ofExcept hrun
  change execProduct q s = _
  unfold execProduct
  rw [State.runHead_of_started hs]
  simp only [hr, hstatus, if_true]

theorem exec_chained_of_ok (hs : Claims.Started s q.val cCHAINED c) (hstatus : r.status = 0)
    (hrun : s.runChained (Claims.partOf s q) c.entry = .ok r) :
    exec (.chained q) s = .next ((s.fillChained q.val c.entry r.writes).stageRun q.val r .none).settle := by
  have hr : RunRes.ofExcept (s.runChained (s.queue q.val).part c.entry) = r := congrArg RunRes.ofExcept hrun
  change execChained q s = _
  unfold execChained
  rw [State.runHead_of_started hs]
  simp only [hr, hstatus, if_true]

theorem exec_finish_of_ok (hs : Claims.Started s q.val cFINISH c) {lo hi : Nat}
    (hrows : (((s.part (Claims.partOf s q)).gsets.find? fun g => g.1 == field c.entry 32 6).bind (·.2.2)).getD (0, 16777216) = (lo, hi))
    (hrun : s.runFinish (Claims.partOf s q) (field c.entry 32 6) lo hi = .ok r) : exec (.finish q) s = .next (s.stageRun q.val r .none).settle := by
  unfold Claims.partOf at hrows
  have hr : RunRes.ofExcept (s.runFinish (s.queue q.val).part (field c.entry 32 6) lo hi) = r := congrArg RunRes.ofExcept hrun
  change execFinish q s = _
  unfold execFinish
  rw [State.runHead_of_started hs]
  simp only [hrows, hr]

theorem exec_optimiser_of_ok (hs : Claims.Started s q.val cOPTIMISER c) (hrun : s.runOptimiser (Claims.partOf s q) (field c.entry 32 6) = .ok r) :
    exec (.optimiser q) s = .next (s.stageRun q.val r .none).settle := by
  have hr : RunRes.ofExcept (s.runOptimiser (s.queue q.val).part (field c.entry 32 6)) = r := congrArg RunRes.ofExcept hrun
  change execOptimiser q s = _
  unfold execOptimiser
  rw [State.runHead_of_started hs]
  simp only [hr]

end

end Sys2Proof.Machine
end

section
open Sys2Proof Sys2Proof.Machine

namespace Sys2Proof.Claims

/-- Settles O15: each of the four commands stages the result of its run, a product and a chained product after they have left what they leave in the memories of their cores. -/
theorem matrixCommandsStageTheirResults : Obligations.MatrixCommandsStageTheirResults := by
  intro q s c r hstatus hpeers hheld
  have hstage {op : Nat} (hs : Started s q.val op c) {t : State} (ht : Calm s t) : RunStaged s (t.stageRun q.val r .none) q.val r.writes r.recs .none := by
    obtain ⟨hc, -, -, -, hstaged, -⟩ := hs
    exact runStaged_stageRun_of_calm ht hc hstaged hstatus hpeers hheld
  refine ⟨fun hs hrun => ?_, fun hs hrun => ?_, fun hs hrun => ?_, fun hs hrun => ?_⟩
  · exact ⟨_, exec_product_of_ok hs hstatus hrun, hstage hs (.fillMems s q.val c.entry r.writes)⟩
  · exact ⟨_, exec_chained_of_ok hs hstatus hrun, hstage hs (.fillChained s q.val c.entry r.writes)⟩
  · exact ⟨_, exec_finish_of_ok hs rfl hrun, hstage hs (.refl s)⟩
  · exact ⟨_, exec_optimiser_of_ok hs hrun, hstage hs (.refl s)⟩

end Sys2Proof.Claims
end

section
/-! SUPPORT. Completion records: the host's lines that a coherent write takes, the bytes of a record, and what it leaves besides (R261 to R263, R357, R397). -/

namespace Sys2Proof.Machine

/-! Bytes of a memory (R16). -/

/-- The bytes read are those of the addresses in order. -/
theorem Memory.read_eq_map (m : Memory) (a n : Nat) : Memory.read m a n = (List.range n).map fun i => Memory.get m (a + i) := by
  induction n generalizing a with
  | zero => rfl
  | succ n ih =>
    rw [Memory.read, ih, List.range_succ_eq_map, List.map_cons, List.map_map]
    refine congrArg (Memory.get m a :: ·) (List.map_congr_left fun i _ => congrArg (Memory.get m) ?_)
    omega

/-- A byte string that is written reads back whole. -/
theorem Memory.read_write (m : Memory) (a : Nat) (bs : Bytes) (h : Memory.wf m = true) : Memory.read (Memory.write m a bs) a bs.length = bs := by
  rw [Memory.read_eq_map]
  refine List.ext_getElem (by simp) fun i hi hj => ?_
  rw [List.getElem_map, List.getElem_range, Memory.get_write m a _ bs h, if_pos (by omega), Nat.add_sub_cancel_left, List.getD_eq_getElem _ _ hj]

/-! The host-line cache (R357, R397). -/

/-- From `s` to `t` lines have left the host-line cache: what of them is dirty is in host memory, and no line has become dirty. -/
structure Sheds (s t : State) : Prop where
  queues : t.queues = s.queues
  parts : t.parts = s.parts
  link : t.link = s.link
  dev : t.mem.dev = s.mem.dev
  canon : Memory.wf s.mem.hostMem = true → Memory.wf t.mem.hostMem = true
  dirty : ∀ l ∈ t.fabric.lines, ∀ b, l.dirtyData = some b → l ∈ s.fabric.lines
  bytes : Memory.wf s.mem.hostMem = true → ∀ a, (∀ l ∈ s.fabric.lines, ∀ b, l.dirtyData = some b → a < 64 * l.line ∨ 64 * l.line + b.length ≤ a) →
    Memory.get t.mem.hostMem a = Memory.get s.mem.hostMem a

namespace Sheds

theorem refl (s : State) : Sheds s s := ⟨rfl, rfl, rfl, rfl, id, fun _ hl _ _ => hl, fun _ _ _ => rfl⟩

theorem trans {s t u : State} (h : Sheds s t) (k : Sheds t u) : Sheds s u :=
  ⟨k.queues.trans h.queues, k.parts.trans h.parts, k.link.trans h.link, k.dev.trans h.dev, k.canon ∘ h.canon,
    fun l hl b hb => h.dirty l (k.dirty l hl b hb) b hb,
    fun hwf a ha => (k.bytes (h.canon hwf) a fun l hl b hb => ha l (h.dirty l hl b hb) b hb).trans (h.bytes hwf a ha)⟩

theorem foldl {α : Type} (f : State → α → State) (l : List α) (s : State) (hf : ∀ s x, Sheds s (f s x)) : Sheds s (l.foldl f s) := by
  induction l generalizing s with
  | nil => exact refl s
  | cons x r ih => exact (hf s x).trans (ih _)

end Sheds

/-- A line of which something is dirty is in the directory. -/
theorem State.dirLine_mem {s : State} {line : Nat} {b : Bytes} (h : (s.dirLine line).dirtyData = some b) :
    s.dirLine line ∈ s.fabric.lines ∧ (s.dirLine line).line = line := by
  unfold State.dirLine at *
  cases hf : s.fabric.lines.find? fun l => l.line == line with
  | none =>
    rw [hf] at h
    cases h
  | some l => exact ⟨List.mem_of_find?_eq_some hf, by simpa using List.find?_some hf⟩

/-- An entry that is replaced by one with nothing dirty leaves no other dirty line than before. -/
theorem State.dirty_setLine {s : State} {k : DirLine} (hk : k.dirtyData = none) {l : DirLine} (hl : l ∈ (s.setLine k).fabric.lines) {b : Bytes}
    (hb : l.dirtyData = some b) : l ∈ s.fabric.lines := by
  have hrest : l ∈ s.fabric.lines.filter (fun x => x.line != k.line) ∨ l = k := by
    unfold State.setLine at hl
    dsimp only [State.setFabric_fabric] at hl
    split at hl
    · exact .inl hl
    · simpa using hl
  obtain hrest | rfl := hrest
  · exact List.mem_of_mem_filter hrest
  · rw [hk] at hb
    cases hb

theorem Sheds.evictLine (s : State) (line : Nat) : Sheds s (s.evictLine line) := by
  unfold State.evictLine
  dsimp only
  split
  · next d hd =>
    obtain ⟨hmem, hline⟩ := State.dirLine_mem hd
    refine ⟨rfl, rfl, rfl, rfl, Memory.wf_write _ _ d, fun l hl b hb => State.dirty_setLine (s := s.hostWrite (64 * line) d) rfl hl hb, fun hwf a ha => ?_⟩
    have hout := ha _ hmem d hd
    rw [hline] at hout
    exact (Memory.get_write _ _ _ d hwf).trans (if_neg (by omega))
  · exact ⟨rfl, rfl, rfl, rfl, id, fun l hl b hb => State.dirty_setLine rfl hl hb, fun _ _ _ => rfl⟩

/-- The lines that a coherent write touches leave the cache first. -/
theorem Sheds.held (s : State) (l : List DirLine) : Sheds s (l.foldl (fun s l => s.evictLine l.line) s) := foldl _ _ s fun s l => evictLine s l.line

/-- What a coherent write leaves: the bytes written, and every byte outside them and outside the dirty lines as it was (R357, R399). -/
structure WritesHost (s t : State) (a : Nat) (bs : Bytes) : Prop where
  queues : t.queues = s.queues
  parts : t.parts = s.parts
  dev : t.mem.dev = s.mem.dev
  read : Memory.wf s.mem.hostMem = true → Memory.read t.mem.hostMem a bs.length = bs
  bytes : Memory.wf s.mem.hostMem = true → ∀ x, x < a ∨ a + bs.length ≤ x →
    (∀ l ∈ s.fabric.lines, ∀ b, l.dirtyData = some b → x < 64 * l.line ∨ 64 * l.line + b.length ≤ x) → Claims.hostByte t x = Claims.hostByte s x

theorem WritesHost.coherentWrite (s : State) (a : Nat) (bs : Bytes) : WritesHost s (s.coherentWrite a bs) a bs := by
  have hsheds := Sheds.held s (s.fabric.lines.filter fun l => decide (64 * l.line < a + bs.length ∧ a < 64 * l.line + 64))
  refine ⟨hsheds.queues, hsheds.parts, hsheds.dev, fun hwf => Memory.read_write _ a bs (hsheds.canon hwf), fun hwf x hx hlines => ?_⟩
  exact (Memory.get_write _ a x bs (hsheds.canon hwf)).trans ((if_neg (by omega)).trans (hsheds.bytes hwf x hlines))

/-! The bytes of a record (R261). -/

/-- A record as it is written: PHASE and SEQ of the queue in their places. -/
def Queue.stamp (x : Queue) (r : Bytes) : Bytes := patch (patch r 4 (leBytes 1 (b2n x.phase))) 20 (leBytes 4 ((x.seq + 1) % 2 ^ 32))

/-- A field beyond the first part of a byte string is one of the second. -/
theorem field_append_right (a b : Bytes) (lo n : Nat) (h : a.length ≤ lo) : field (a ++ b) lo n = field b (lo - a.length) n := by
  unfold field
  rw [List.drop_append, List.drop_eq_nil_of_le h, List.nil_append]

/-- A number that stands first reads back. -/
theorem field_leBytes_append (k n : Nat) (b : Bytes) : field (leBytes k n ++ b) 0 k = n % 256 ^ k := by
  unfold field
  rw [List.drop_zero, List.take_left' (leBytes_length k n), leNat_leBytes]

section
variable (x : Queue) (notify : Bool) (attempts status tag idx waitUs runUs : Nat)

/-- A record as it is written, field by field (R261). -/
theorem Queue.stamp_recordBytes : x.stamp (recordBytes notify attempts status tag idx waitUs runUs) =
    leBytes 1 1 ++ (leBytes 1 0x41 ++ (leBytes 2 32 ++ (leBytes 1 (b2n x.phase) ++ (leBytes 1 (min 255 attempts) ++ (leBytes 2 status ++
      (leBytes 8 tag ++ (leBytes 2 idx ++ (leBytes 2 0 ++ (leBytes 4 ((x.seq + 1) % 2 ^ 32) ++
        (leBytes 4 (min 4294967295 waitUs) ++ leBytes 4 (min 4294967295 runUs))))))))))) := by
  simp only [Queue.stamp, recordBytes, patch, leBytes, List.cons_append, List.nil_append, List.take_succ_cons, List.take_zero, List.drop_succ_cons,
    List.drop_zero, List.length_cons, List.length_nil]

theorem Queue.stamp_length : (x.stamp (recordBytes notify attempts status tag idx waitUs runUs)).length = 32 := by
  simp [Queue.stamp_recordBytes]

theorem Queue.stamp_status : field (x.stamp (recordBytes notify attempts status tag idx waitUs runUs)) 6 2 = status % 65536 := by
  simp [Queue.stamp_recordBytes, field_append_right, field_leBytes_append]

theorem Queue.stamp_tag (h : tag < 256 ^ 8) : field (x.stamp (recordBytes notify attempts status tag idx waitUs runUs)) 8 8 = tag := by
  simpa [Queue.stamp_recordBytes, field_append_right, field_leBytes_append] using h

theorem Queue.stamp_seq : field (x.stamp (recordBytes notify attempts status tag idx waitUs runUs)) 20 4 = (x.seq + 1) % 2 ^ 32 := by
  simp [Queue.stamp_recordBytes, field_append_right, field_leBytes_append]

theorem Queue.stamp_phase : bit (byteAt (x.stamp (recordBytes notify attempts status tag idx waitUs runUs)) 4) 0 = x.phase := by
  have hbyte : byteAt (x.stamp (recordBytes notify attempts status tag idx waitUs runUs)) 4 = (BitVec.ofNat 8 (b2n x.phase)).toNat := by
    simp [Queue.stamp_recordBytes, byteAt, leBytes]
  rw [hbyte]
  cases x.phase
  · rfl
  · rfl

end

theorem leNat_lt (bs : Bytes) : leNat bs < 256 ^ bs.length := by
  induction bs with
  | nil => exact Nat.one_pos
  | cons b r ih =>
    have hb := b.isLt
    rw [leNat, List.length_cons, Nat.pow_succ']
    omega

theorem field_lt (bs : Bytes) (lo n : Nat) : field bs lo n < 256 ^ n :=
  (leNat_lt _).trans_le (Nat.pow_le_pow_right (by decide) (List.length_take_le _ _))

/-! A record that is written (R261, R262). -/

/-- The place of the next record of a queue in host memory (R253). -/
def Queue.nextAt (x : Queue) : Nat := x.cqBase + 32 * x.cqTail

/-- A queue after its next record (R261, R262). -/
def Queue.afterRecord (x : Queue) : Queue :=
  { x with cqTail := (x.cqTail + 1) % x.size, seq := (x.seq + 1) % 2 ^ 32, phase := if (x.cqTail + 1) % x.size = 0 then !x.phase else x.phase }

/-- Records that a queue holds neither hinder the next one nor depend on it. -/
theorem Queue.afterRecord_held (x : Queue) (l : List Bytes) (h : x.heldRecs = []) :
    { Queue.afterRecord { x with heldRecs := l } with heldRecs := [] } = x.afterRecord := by
  obtain ⟨⟩ := x
  cases h
  rfl

/-- The state in which a record of queue `q` stands in the ring, before its interrupt. -/
def State.written (s : State) (q : Nat) (r : Bytes) : State :=
  (s.coherentWrite (s.queue q).nextAt ((s.queue q).stamp r)).modQueue q fun x => { x with
    cqTail := ((s.queue q).cqTail + 1) % (s.queue q).size, seq := ((s.queue q).seq + 1) % 2 ^ 32
    phase := if ((s.queue q).cqTail + 1) % (s.queue q).size = 0 then !x.phase else x.phase }

theorem State.mem_modQueue (s : State) (q : Nat) (f : Queue → Queue) : (s.modQueue q f).mem = s.mem := rfl

theorem State.parts_modQueue (s : State) (q : Nat) (f : Queue → Queue) : (s.modQueue q f).parts = s.parts := rfl

theorem State.mem_written (s : State) (q : Nat) (r : Bytes) :
    (s.written q r).mem = (s.coherentWrite (s.queue q).nextAt ((s.queue q).stamp r)).mem := State.mem_modQueue _ q _

theorem State.parts_written (s : State) (q : Nat) (r : Bytes) :
    (s.written q r).parts = (s.coherentWrite (s.queue q).nextAt ((s.queue q).stamp r)).parts := State.parts_modQueue _ q _

/-- Writing a record raises at most an interrupt besides (R354). -/
theorem State.logged_writeRecord (s : State) (q : Nat) (r : Bytes) : Logged (s.written q r) (s.writeRecord q r) := (Logged.msix _ q).ite (.refl _)

/-- The oldest held record is written when the host takes it and the ring has room (R262). -/
theorem State.flushRecs_cons {s : State} {q : Nat} (n : Nat) {r : Bytes} {rs : List Bytes} (hheld : (s.queue q).heldRecs = r :: rs)
    (hroom : 0 < (s.queue q).cqRoom) (hout : s.outbound = true) :
    State.flushRecs q (n + 1) s = State.flushRecs q n ((s.writeRecord q r).modQueue q fun x => { x with heldRecs := rs }) := by
  conv => lhs; unfold State.flushRecs
  simp only [hheld, hout, decide_eq_true hroom, Bool.and_self, if_true]

/-- The queue `y` is `x` but for its commands, CQ_FULL, its idle bit and its accounting. -/
def Queue.SameRing (x y : Queue) : Prop := y = { x with fifo := y.fifo, cqFull := y.cqFull, idle := y.idle, acct := y.acct }

theorem Queue.SameRing.refl (x : Queue) : x.SameRing x := rfl

/-- What does not look at those is the same of both. -/
theorem Queue.SameRing.same {α : Type} {x y : Queue} (h : x.SameRing y) (f : Queue → α)
    (hf : ∀ x l b i a, f { x with fifo := l, cqFull := b, idle := i, acct := a } = f x) : f y = f x := by
  unfold Queue.SameRing at h
  exact (congrArg f h).trans (hf x _ _ _ _)

theorem Queue.SameRing.trans {x y z : Queue} (h : x.SameRing y) (k : y.SameRing z) : x.SameRing z := by
  unfold Queue.SameRing at *
  rw [k, h]

/-- From `s` to `t` the ring of queue `q` is as it was, and so are the commands behind its head, host memory, the host-line cache and the link. -/
structure RingKept (s t : State) (q : Nat) : Prop where
  queue : (s.queue q).SameRing (t.queue q)
  tail : (t.queue q).fifo.tail = (s.queue q).fifo.tail
  count : t.queues.length = s.queues.length
  hostMem : t.mem.hostMem = s.mem.hostMem
  lines : t.fabric.lines = s.fabric.lines
  link : t.link = s.link

namespace RingKept

theorem trans {s t u : State} {q : Nat} (h : RingKept s t q) (k : RingKept t u q) : RingKept s u q :=
  ⟨h.queue.trans k.queue, k.tail.trans h.tail, k.count.trans h.count, k.hostMem.trans h.hostMem, k.lines.trans h.lines, k.link.trans h.link⟩

theorem of_apart {s t : State} (h : Apart s t) (q : Nat) : RingKept s t q := by
  have hqueue := h.queue q
  exact ⟨by rw [hqueue]; rfl, by rw [hqueue], by rw [h.queues], h.hostMem, h.lines, h.link⟩

theorem refl (s : State) (q : Nat) : RingKept s s q := of_apart (.refl s) q

theorem outbound {s t : State} {q : Nat} (h : RingKept s t q) : t.outbound = s.outbound :=
  congrArg (fun l : Link => l.st == .l0 && !l.d3hot && !l.losing) h.link

theorem setDev (s : State) (q : Nat) (m : Memory) : RingKept s (s.setDev m) q := ⟨.refl _, rfl, rfl, rfl, rfl, rfl⟩

theorem modHead (s : State) (q : Nat) (f : Cmd → Cmd) : RingKept s (s.modHead q f) q := by
  have hqueue : (s.modHead q f).queue q = { s.queue q with fifo := updAt (s.queue q).fifo 0 f } := by
    by_cases h : q < s.queues.length
    · exact s.queue_modQueue_self q _ h
    · have hnone := s.queue_of_le q (by omega)
      rw [(s.modHead q f).queue_of_le q (by exact (s.queues_length_modQueue q _).trans_le (by omega)), hnone]
      rfl
  refine ⟨by rw [hqueue]; rfl, ?_, s.queues_length_modQueue q _, rfl, rfl, rfl⟩
  rw [hqueue]
  cases (s.queue q).fifo with
  | nil => rfl
  | cons c r => rfl

end RingKept

/-- What the writing of a record leaves: the record at the old tail of the ring, the ring's pointers after it, and the rest as it was, but for the lines that it took. -/
structure WritesRecord (s t : State) (q : Nat) (r : Bytes) : Prop where
  queue : t.queue q = (s.queue q).afterRecord
  others : ∀ j, j ≠ q → t.queue j = s.queue j
  count : t.queues.length = s.queues.length
  parts : t.parts = s.parts
  dev : t.mem.dev = s.mem.dev
  read : Memory.wf s.mem.hostMem = true →
    Memory.read t.mem.hostMem (s.queue q).nextAt ((s.queue q).stamp r).length = (s.queue q).stamp r
  bytes : Memory.wf s.mem.hostMem = true → ∀ a, a < (s.queue q).nextAt ∨ (s.queue q).nextAt + ((s.queue q).stamp r).length ≤ a →
    (∀ l ∈ s.fabric.lines, ∀ b, l.dirtyData = some b → a < 64 * l.line ∨ 64 * l.line + b.length ≤ a) → Claims.hostByte t a = Claims.hostByte s a

theorem WritesRecord.writeRecord (s : State) (q : Nat) (r : Bytes) (hlt : q < s.queues.length) : WritesRecord s (s.writeRecord q r) q r := by
  have hlogged := s.logged_writeRecord q r
  have hwrites := WritesHost.coherentWrite s (s.queue q).nextAt ((s.queue q).stamp r)
  have hsame (j : Nat) : State.queue (s.coherentWrite (s.queue q).nextAt ((s.queue q).stamp r)) j = s.queue j :=
    State.queue_congr hwrites.queues j
  have hmem := hlogged.mem.trans (s.mem_written q r)
  refine ⟨?_, fun j hj => ?_, ?_, ?_, ?_, fun hwf => ?_, fun hwf a ha hlines => ?_⟩
  · rw [State.queue_congr hlogged.queues q]
    unfold State.written
    rw [State.queue_modQueue_self _ _ _ (by rw [hwrites.queues]; exact hlt), hsame]
    rfl
  · rw [State.queue_congr hlogged.queues j]
    unfold State.written
    rw [State.queue_modQueue_ne _ _ _ _ hj, hsame]
  · rw [hlogged.queues]
    unfold State.written
    rw [State.queues_length_modQueue, hwrites.queues]
  · rw [hlogged.parts, s.parts_written, hwrites.parts]
  · rw [hmem, hwrites.dev]
  · rw [hmem]
    exact hwrites.read hwf
  · unfold Claims.hostByte
    rw [hmem]
    exact hwrites.bytes hwf a ha hlines

/-- Of a queue that holds no record and has room, a record is written at once (R261, R262). -/
theorem State.putRecord_of_room {s : State} {q : Nat} (r : Bytes) (hlt : q < s.queues.length) (hheld : (s.queue q).heldRecs = []) (hroom : 0 < (s.queue q).cqRoom)
    (hout : s.outbound = true) :
    s.putRecord q r =
      ((s.modQueue q fun x => { x with heldRecs := x.heldRecs ++ [r] }).writeRecord q r).modQueue q fun x => { x with heldRecs := [] } := by
  have hqueue := s.queue_modQueue_self q (fun x => { x with heldRecs := x.heldRecs ++ [r] }) hlt
  have hone : (State.queue (s.modQueue q fun x => { x with heldRecs := x.heldRecs ++ [r] }) q).heldRecs = [r] := by
    rw [hqueue, hheld]
    rfl
  unfold State.putRecord
  dsimp only
  rw [hone]
  exact State.flushRecs_cons 0 hone (by rw [hqueue]; exact hroom) hout

/-- A record that is put to such a queue leaves what its writing leaves. -/
theorem WritesRecord.putRecord {s : State} {q : Nat} (r : Bytes) (hlt : q < s.queues.length) (hheld : (s.queue q).heldRecs = []) (hroom : 0 < (s.queue q).cqRoom)
    (hout : s.outbound = true) : WritesRecord s (s.putRecord q r) q r := by
  rw [State.putRecord_of_room r hlt hheld hroom hout]
  have hheldOne := s.queue_modQueue_self q (fun x => { x with heldRecs := x.heldRecs ++ [r] }) hlt
  obtain ⟨hqueue, hothers, hcount, hparts, hdev, hread, hbytes⟩ :=
    WritesRecord.writeRecord (s.modQueue q fun x => { x with heldRecs := x.heldRecs ++ [r] }) q r ((s.queues_length_modQueue q _).symm ▸ hlt)
  rw [hheldOne] at hqueue hread hbytes
  have hlast := fun f => State.queue_modQueue_self (State.writeRecord (s.modQueue q fun x => { x with heldRecs := x.heldRecs ++ [r] }) q r) q f
    (hcount.symm ▸ (s.queues_length_modQueue q _).symm ▸ hlt)
  refine ⟨?_, fun j hj => ?_, ?_, hparts, hdev, hread, hbytes⟩
  · rw [hlast, hqueue, Queue.afterRecord_held _ _ hheld]
  · rw [State.queue_modQueue_ne _ _ _ _ hj, hothers j hj, State.queue_modQueue_ne _ _ _ _ hj]
  · rw [State.queues_length_modQueue, hcount, State.queues_length_modQueue]

/-! The end of a command with its record (R261, R263). -/

theorem State.queue_modAcct_self (s : State) (q : Nat) (f : Acct → Acct) (h : q < s.queues.length) :
    (s.modAcct q f).queue q = { s.queue q with acct := f (s.queue q).acct } := State.queue_modQueue_self _ q _ h

theorem State.queue_modAcct_ne (s : State) (q j : Nat) (f : Acct → Acct) (h : j ≠ q) : (s.modAcct q f).queue j = s.queue j :=
  State.queue_modQueue_ne _ q j _ h

/-- The head command of queue `q` leaves it with its record, and the device range holds `m`: what each part of the state is then. -/
structure Leaves (s t : State) (q : Nat) (c : Cmd) (status : Nat) (m : Memory) : Prop where
  recorded : Claims.Recorded s t q c (status % 65536)
  others : ∀ j, j ≠ q → t.queue j = s.queue j
  landPending : (t.queue q).landPending = (s.queue q).landPending
  dev : t.mem.dev = m
  windows : t.parts.map Part.windows = s.parts.map Part.windows

/-- A record that is written once the head command has left its queue. -/
theorem Leaves.of_writesRecord {s u v t : State} {q : Nat} {c d : Cmd} {status : Nat} (h : WritesRecord v t q (u.recordOf d status))
    (hring : (s.queue q).SameRing (v.queue q)) (hfifo : (v.queue q).fifo = (s.queue q).fifo.tail) (hothers : ∀ j, j ≠ q → v.queue j = s.queue j)
    (hmem : v.mem = s.mem) (hlines : v.fabric.lines = s.fabric.lines) (hwindows : v.parts.map Part.windows = s.parts.map Part.windows)
    (hwf : Memory.wf s.mem.hostMem = true) (hentry : d.entry = c.entry) : Leaves s t q c status s.mem.dev := by
  obtain ⟨hqueue, hrest, -, hparts, hdev, hread, hbytes⟩ := h
  have hat : (v.queue q).nextAt = (s.queue q).nextAt := hring.same _ fun _ _ _ _ _ => rfl
  have hseq : (v.queue q).seq = (s.queue q).seq := hring.same _ fun _ _ _ _ _ => rfl
  have hphase : (v.queue q).phase = (s.queue q).phase := hring.same _ fun _ _ _ _ _ => rfl
  have hlen : ((v.queue q).stamp (u.recordOf d status)).length = 32 := Queue.stamp_length _ _ _ _ _ _ _ _
  have htag : entTag d.entry < 256 ^ 8 := field_lt _ _ _
  rw [hmem, hat, hlen] at hread
  rw [hmem, hlines, hat, hlen] at hbytes
  have hrecord : Claims.nextRecord s t q = (v.queue q).stamp (u.recordOf d status) := hread hwf
  refine ⟨⟨?_, ?_, ?_, ?_, ?_, ?_, ?_, fun a ha hclear => ?_⟩, fun j hj => (hrest j hj).trans (hothers j hj), ?_, hdev.trans (congrArg Mem.dev hmem), ?_⟩
  · rw [hqueue]
    exact hfifo
  · rw [hqueue]
    exact congrArg (fun n => (n + 1) % 2 ^ 32) hseq
  · rw [hqueue]
    exact hring.same (fun x : Queue => (x.cqTail + 1) % x.size) fun _ _ _ _ _ => rfl
  · rw [hrecord]
    exact Queue.stamp_status _ _ _ _ _ _ _ _
  · rw [hrecord, ← hentry]
    exact Queue.stamp_tag _ _ _ _ _ _ _ _ htag
  · rw [hrecord, ← hseq]
    exact Queue.stamp_seq _ _ _ _ _ _ _ _
  · rw [hrecord, ← hphase]
    exact Queue.stamp_phase _ _ _ _ _ _ _ _
  · refine (hbytes hwf a ha hclear).trans ?_
    unfold Claims.hostByte
    rw [hmem]
  · rw [hqueue]
    exact hring.same Queue.landPending fun _ _ _ _ _ => rfl
  · rw [hparts, hwindows]

theorem Leaves.complete {s : State} {q : Nat} {c : Cmd} {status : Nat} (d : Cmd) (hlt : q < s.queues.length) (hheld : (s.queue q).heldRecs = [])
    (hroom : (s.queue q).ringRoom = true) (hout : s.outbound = true) (hwf : Memory.wf s.mem.hostMem = true) (hentry : d.entry = c.entry) :
    Leaves s ((s.popHead q).complete q d status) q c status s.mem.dev := by
  have hpopCount : (s.popHead q).queues.length = s.queues.length := s.queues_length_modQueue q _
  have hpop : (s.queue q).SameRing ((s.popHead q).queue q) ∧ ((s.popHead q).queue q).fifo = (s.queue q).fifo.tail := by
    unfold State.popHead
    rw [s.queue_modQueue_self q _ hlt]
    exact ⟨rfl, rfl⟩
  have hacct (f : Acct → Acct) : WritesRecord ((s.popHead q).modAcct q f) (((s.popHead q).modAcct q f).putRecord q ((s.popHead q).recordOf d status)) q
      ((s.popHead q).recordOf d status) ∧ (s.queue q).SameRing (((s.popHead q).modAcct q f).queue q) ∧
      (((s.popHead q).modAcct q f).queue q).fifo = (s.queue q).fifo.tail := by
    have hring : (s.queue q).SameRing (((s.popHead q).modAcct q f).queue q) ∧ (((s.popHead q).modAcct q f).queue q).fifo = (s.queue q).fifo.tail := by
      rw [State.queue_modAcct_self _ q f (hpopCount.symm ▸ hlt)]
      exact ⟨hpop.1.trans rfl, hpop.2⟩
    have hless := of_decide_eq_true hroom
    refine ⟨WritesRecord.putRecord _ ?_ ?_ ?_ hout, hring⟩
    · exact ((State.queues_length_modQueue _ q _).trans hpopCount).symm ▸ hlt
    · exact (hring.1.same Queue.heldRecs fun _ _ _ _ _ => rfl).trans hheld
    · rw [show (((s.popHead q).modAcct q f).queue q).cqRoom = (s.queue q).cqRoom from hring.1.same Queue.cqRoom fun _ _ _ _ _ => rfl]
      omega
  obtain ⟨hwritten, hring, hfifo⟩ := hacct fun a => a.addWait ((s.popHead q).waitOf d)
  refine .of_writesRecord hwritten hring hfifo (fun j hj => ?_) rfl rfl ?_ hwf hentry
  · exact (State.queue_modAcct_ne _ q j _ hj).trans (s.queue_modQueue_ne q j _ hj)
  · exact map_updAt Part.windows _ _ _ {} rfl

/-- A queue that has written its record has lost its head command; what else of it is updated does not matter. -/
theorem recorded_modQueue {s u : State} {q : Nat} {c : Cmd} {status : Nat} (h : Claims.Recorded s u q c status) (f : Queue → Queue)
    (hf : ∀ x, (f x).fifo = x.fifo ∧ (f x).seq = x.seq ∧ (f x).cqTail = x.cqTail) : Claims.Recorded s (u.modQueue q f) q c status := by
  obtain ⟨hfifo, hseq, htail, hrest⟩ := h
  have hqueue : (State.queue (u.modQueue q f) q).fifo = (u.queue q).fifo ∧ (State.queue (u.modQueue q f) q).seq = (u.queue q).seq ∧
      (State.queue (u.modQueue q f) q).cqTail = (u.queue q).cqTail := by
    rw [State.queue_modQueue]
    split
    · exact hf _
    · exact ⟨rfl, rfl, rfl⟩
  exact ⟨hqueue.1.trans hfifo, hqueue.2.1.trans hseq, hqueue.2.2.trans htail, hrest⟩

end Sys2Proof.Machine
end

section
/-! SUPPORT. The commit of a command without an effect: the pages carried over, the settling of its slabs, its notices, and what it leaves (R176, R177, R263). -/

namespace Sys2Proof.Machine

/-! What a commit does apart from the queues and the bytes that it writes. -/

namespace Calm

variable (s : State)

theorem carryReads (q : Nat) (x : Slab) : Calm s (s.carryReads q x) :=
  (meterBytes s _ _).trans ((foldl _ _ _ fun s _ => cellarRead s _ _ _).ite (refl _))

/-- The copies of a commit take their credit and give it back (R263 step 2). -/
theorem carryOver (q : Nat) (l : List Nat) : Calm s (State.carryOver q l s).2 := by
  induction l generalizing s with
  | nil => exact refl s
  | cons k r ih =>
    unfold State.carryOver
    split
    · exact ih s
    · next x _ =>
      split
      · exact ih s
      · have hask := askCredit s (4 + homeDie x.tier x.near x.frame) x.part (s.queue q).cls 1 q
        dsimp only
        split
        · next u hu =>
          rw [hu] at hask
          exact ((hask.trans (carryReads u q x)).trans (releaseCredit _ _ _ _)).trans (ih _)
        · next u hu =>
          rw [hu] at hask
          exact hask

theorem commitNotices (q : Nat) : Calm s (s.commitNotices q) := by
  unfold State.commitNotices
  split
  · exact refl s
  · exact foldl _ _ s fun s _ => sendPkt s _ _ _ _ _ _

end Calm

namespace Apart

variable (s : State)

/-- Bytes that are put in place before or after such work. -/
theorem puts {s t : State} (h : Apart s t) (l : List Host.Cell) : Apart (s.setDev (Memory.puts s.mem.dev l)) (t.setDev (Memory.puts t.mem.dev l)) := by
  rw [h.dev]
  exact h.setDev _

theorem settleSlabs (p : Nat) (slabs : List (Nat × Tier × Option Nat)) (writes : List Host.Cell) :
    Apart (s.setDev (Memory.puts s.mem.dev writes)) (s.settleSlabs p slabs writes) := by
  refine trans (puts ?_ writes) (foldl _ _ _ fun s _ => startMove s _ _ _ _)
  refine after (foldl _ slabs _ fun s _ => (nextFrame s).trans (modSlab _ _ _)) ?_
  exact (retain s p _).trans (dropMoves _ _)

theorem setHomes (l : List (Nat × Tier)) : Apart s (s.setHomes l) := (refl s).ite (setSlabs s _)

end Apart

/-! The commit point (R263 steps 3 to 6). -/

/-- The device range once a command without an effect has committed (R75, R263 step 5). -/
def Cmd.published (c : Cmd) (m : Memory) : Memory := c.staged.recs.foldl applyRecUpd (Memory.puts m c.staged.writes)

/-- The state in which a command without an effect has published what it staged, before its record. -/
def State.publish (s : State) (q : Nat) (c : Cmd) : State :=
  let t := ((s.endWait q).settleSlabs (s.queue q).part c.staged.slabs c.staged.writes).setHomes c.staged.tiers
  (t.setDev (c.staged.recs.foldl applyRecUpd t.dev)).commitNotices q

/-- Publishing changes the device range and, besides the wait of the command, nothing that Apart speaks of. -/
theorem Apart.publish (s : State) (q : Nat) (c : Cmd) : Apart ((s.endWait q).setDev (c.published s.mem.dev)) (s.publish q c) := by
  have hset := (settleSlabs (s.endWait q) (s.queue q).part c.staged.slabs c.staged.writes).trans (setHomes _ c.staged.tiers)
  have hdev := congrArg (c.staged.recs.foldl applyRecUpd) hset.dev
  refine trans ?_ (Calm.commitNotices _ q).toApart
  refine (hset.setDev (c.published s.mem.dev)).trans ?_
  unfold Cmd.published State.dev
  rw [hdev]
  exact refl _

theorem State.applyEffect_none (s : State) (q : Nat) : s.applyEffect q .none = s := rfl

/-- At the commit point of a command without an effect what it staged is published, and it leaves with status 0. -/
theorem State.commitPoint_eq {s : State} {q : Nat} {c d : Cmd} (hc : s.head? q = some c) (heff : c.staged.effect = .none)
    (hd : (s.publish q c).head? q = some d) : s.commitPoint q = (((s.publish q c).popHead q).complete q d 0).fixPoolWait (s.queue q).part := by
  unfold State.publish at hd ⊢
  dsimp only at hd ⊢
  unfold State.commitPoint
  simp only [hc, heff, State.applyEffect_none, hd]

/-- What a commit would retain is read from the streams and the slab tables alone (R177). -/
theorem Calm.poolRoom {s t : State} (h : Calm s t) (p : Nat) (ks : List Nat) : t.poolRoom p ks = s.poolRoom p ks := by
  unfold State.poolRoom State.mustRetain State.slab?
  rw [h.part_stream, h.mem]

/-- The commit of a command without an effect that may pass now reaches the commit point once its pages are carried over (R263 step 2). -/
theorem State.commitHead_of_commitsNow {s : State} {q : Nat} {c : Cmd} (h : Claims.CommitsNow s q c) (heff : c.staged.effect = .none) :
    s.commitHead q = (State.carryOver q c.staged.partly s).2.commitPoint q := by
  obtain ⟨hc, hphase, hlosing, ⟨-, -, hring, hout⟩, hslabs, hpeers, hwhole, -, -, hcopied, hroom⟩ := h
  have hcalm := Calm.carryOver s q c.staged.partly
  have hopen : (c.phase == .staged || c.phase == .poolWait || (c.phase == .ringWait && c.result == 0)) = true := by
    simpa [or_assoc] using hphase
  have hheld (ks : List Nat) : s.hostHeld ks = false := by
    unfold State.hostHeld
    rw [hout]
    rfl
  have hgone : ((c.staged.slabs.map (·.1)).any fun k => c.unmaps k || (match s.slab? k with | some x => x.part != (s.queue q).part | none => true)) = false := by
    rw [List.any_eq_false]
    intro k hk
    obtain ⟨x, hx, rfl⟩ := List.mem_map.1 hk
    obtain ⟨y, hy, hpart, hmapped⟩ := hslabs x hx
    simp [hmapped, hy, hpart]
  have hlost : (c.staged.partly.any fun k => match s.slab? k with | some x => x.st == .lost | none => false) = false := by
    rw [List.any_eq_false]
    intro k hk
    cases hy : s.slab? k with
    | none => decide
    | some y => simpa using hwhole k hk y hy
  have hno : (c.staged.sends.any fun t => !s.hasPeer t.ep) = false := by
    rw [List.any_eq_false]
    intro t ht
    rw [hpeers t ht]
    decide
  have hstatus : s.effectStatus (s.queue q).part .none = 0 := rfl
  have heffect (t : State) : t.effectRoom (s.queue q).part .none = (true, t) := rfl
  unfold State.commitHead
  simp only [hc, hlosing, hopen, hheld, hout, heff, hstatus, hno, hcopied, heffect, hcalm.queue, hring, hcalm.poolRoom, hroom, Bool.not_true,
    Bool.or_false, Bool.false_and, Bool.false_eq_true, ne_eq, not_true_eq_false, if_false]
  exact (if_neg (Bool.eq_false_iff.1 hgone)).trans (if_neg (Bool.eq_false_iff.1 hlost))

/-- What a record leaves is the same for a state with the same ring, the same commands behind the head, and the same other queues and windows. -/
theorem Leaves.of_ringKept {s v u : State} {q st : Nat} {c d : Cmd} {m : Memory} (h : Leaves v u q d st m) (hring : RingKept s v q)
    (hothers : ∀ j, j ≠ q → v.queue j = s.queue j) (hwindows : v.parts.map Part.windows = s.parts.map Part.windows) (hentry : d.entry = c.entry) :
    Leaves s u q c st m := by
  obtain ⟨⟨hfifo, hseq, htail, hstatus, htag, hseqField, hphase, hbytes⟩, hrest, hland, hdev, hwin⟩ := h
  obtain ⟨hqueue, hcmds, -, hmem, hlines, -⟩ := hring
  have hat : (v.queue q).nextAt = (s.queue q).nextAt := hqueue.same _ fun _ _ _ _ _ => rfl
  have hnext : Claims.nextRecord v u q = Claims.nextRecord s u q := congrArg (fun a => Memory.read u.mem.hostMem a 32) hat
  have hseqKept : (v.queue q).seq = (s.queue q).seq := hqueue.same _ fun _ _ _ _ _ => rfl
  have hphaseKept : (v.queue q).phase = (s.queue q).phase := hqueue.same _ fun _ _ _ _ _ => rfl
  have htailKept : ((v.queue q).cqTail + 1) % (v.queue q).size = ((s.queue q).cqTail + 1) % (s.queue q).size :=
    hqueue.same (fun x : Queue => (x.cqTail + 1) % x.size) fun _ _ _ _ _ => rfl
  have hlandKept : (v.queue q).landPending = (s.queue q).landPending := hqueue.same _ fun _ _ _ _ _ => rfl
  have hbyte (a : Nat) : Claims.hostByte v a = Claims.hostByte s a := congrArg (Memory.get · a) hmem
  rw [hnext] at hstatus htag hseqField hphase
  rw [hseqKept] at hseq hseqField
  rw [hlines] at hbytes
  refine ⟨⟨hfifo.trans hcmds, hseq, htail.trans htailKept, hstatus, hentry ▸ htag, hseqField, hphase.trans hphaseKept, fun a ha hclear => ?_⟩,
    fun j hj => (hrest j hj).trans (hothers j hj), hland.trans hlandKept, hdev, hwin.trans hwindows⟩
  exact (hbytes a (by unfold Queue.nextAt at hat; rw [hat]; exact ha) hclear).trans (hbyte a)

/-- Work that stands apart may follow a record. -/
theorem Leaves.apart {s t u : State} {q st : Nat} {c : Cmd} {m : Memory} (h : Leaves s t q c st m) (k : Apart t u) : Leaves s u q c st m := by
  obtain ⟨⟨hfifo, hseq, htail, hstatus, htag, hseqField, hphase, hbytes⟩, hrest, hland, hdev, hwin⟩ := h
  have hnext : Claims.nextRecord s u q = Claims.nextRecord s t q := congrArg (Memory.read · _ 32) k.hostMem
  have hbyte (a : Nat) : Claims.hostByte u a = Claims.hostByte t a := congrArg (Memory.get · a) k.hostMem
  rw [← hnext] at hstatus htag hseqField hphase
  rw [← k.queue q] at hfifo hseq htail hland
  exact ⟨⟨hfifo, hseq, htail, hstatus, htag, hseqField, hphase, fun a ha hclear => (hbyte a).trans (hbytes a ha hclear)⟩,
    fun j hj => (k.queue j).trans (hrest j hj), hland, k.dev.trans hdev, k.windows.trans hwin⟩

/-- The commit of a command without an effect that may pass now: its record carries status 0, and what it staged is in the device range (R261, R263, R75). -/
theorem Leaves.commitHead {s : State} {q : Nat} {c : Cmd} (h : Claims.CommitsNow s q c) (heff : c.staged.effect = .none)
    (hwf : Memory.wf s.mem.hostMem = true) : Leaves s (s.commitHead q) q c 0 (c.published s.mem.dev) := by
  rw [State.commitHead_of_commitsNow h heff]
  obtain ⟨hc, -, -, ⟨hcount, hheld, hroom, hout⟩, -⟩ := h
  have hcalm := (Calm.carryOver s q c.staged.partly).toApart
  generalize (State.carryOver q c.staged.partly s).2 = t at hcalm ⊢
  have hct := (hcalm.head? q).trans hc
  have hpub := Apart.publish t q c
  have hwait := (HeadBecomes.refl hct).endWait
  obtain ⟨d, hhead, hentry⟩ : ∃ d, (t.publish q c).head? q = some d ∧ d.entry = c.entry := ⟨_, (hpub.head? q).trans hwait.head, rfl⟩
  rw [State.commitPoint_eq hct heff hhead]
  generalize t.publish q c = v at hpub hhead ⊢
  have hring : RingKept s v q := (((RingKept.of_apart hcalm q).trans (.modHead t q _)).trans (.setDev _ q (c.published t.mem.dev))).trans (.of_apart hpub q)
  have hdev : v.mem.dev = c.published s.mem.dev := hpub.dev.trans (congrArg c.published hcalm.dev)
  have hout : v.outbound = true := hring.outbound.trans hout
  rw [← hdev]
  refine .apart (.of_ringKept (.complete d ?_ ?_ ?_ ?_ ?_ rfl) hring (fun j hj => ?_) ?_ hentry) (.fixPoolWait _ _)
  · exact State.lt_of_head? hhead
  · exact (hring.queue.same Queue.heldRecs fun _ _ _ _ _ => rfl).trans hheld
  · exact (hring.queue.same Queue.ringRoom fun _ _ _ _ _ => rfl).trans hroom
  · exact hout
  · exact (congrArg Memory.wf hring.hostMem).trans hwf
  · exact (hpub.queue j).trans ((State.queue_modQueue_ne _ _ _ _ hj).trans (hcalm.queue j))
  · exact hpub.windows.trans hcalm.windows

end Sys2Proof.Machine
end

section
/-! SUPPORT. Commands and attempts that wait for the completion ring or the retention pools (R177, R263, R302, R364). -/

namespace Sys2Proof.Machine

theorem insertBy_ne_nil {α : Type} (le : α → α → Bool) (x : α) (l : List α) : insertBy le x l ≠ [] := by
  cases l with
  | nil => exact List.cons_ne_nil x []
  | cons y r =>
    unfold insertBy
    split
    · exact List.cons_ne_nil _ _
    · exact List.cons_ne_nil _ _

/-- Only nothing sorts to nothing. -/
theorem sortBy_eq_nil {α : Type} {le : α → α → Bool} {l : List α} (h : sortBy le l = []) : l = [] := by
  cases l with
  | nil => rfl
  | cons x r => exact absurd h (insertBy_ne_nil le x _)

/-! Room in the completion ring (R263). -/

/-- The held attempts are read from the windows alone. -/
theorem State.heldTries_congr {s t : State} (h : t.parts.map Part.windows = s.parts.map Part.windows) (q : Nat) : t.heldTries q = s.heldTries q := by
  have hread (l : List Part) : (l.zipIdx.flatMap fun x => (x.1.windows.filter fun w => w.queue == q).flatMap fun w =>
      (w.tries.filter (·.held)).map fun t => (x.2, w.window, t)) = (l.map Part.windows).zipIdx.flatMap fun x => (x.1.filter fun w => w.queue == q).flatMap fun w =>
      (w.tries.filter (·.held)).map fun t => (x.2, w.window, t) := by
    rw [List.zipIdx_map, List.flatMap_map]
    rfl
  unfold State.heldTries
  rw [hread, hread, h]

/-- A command waits for ring room at the head of queue `q`. -/
def State.ringWaits (s : State) (q : Nat) : Bool := (s.head? q).any fun c => c.phase == .ringWait

/-- With no record held and no attempt and no landing record waiting, room in the ring lets the head command go on, and CQ_FULL clears unless it waits still. -/
theorem State.ringRoomNow_eq {s u : State} {q : Nat} (hheld : (s.queue q).heldRecs = []) (hroom : (s.queue q).ringRoom = true) (hu : s.roomHead q = u)
    (htries : u.heldTries q = []) (hland : (u.queue q).landPending = false) :
    s.ringRoomNow q = if u.ringWaits q then u else u.modQueue q fun x => { x with cqFull := false } := by
  have hlanded : u.landRecord q = u := by
    unfold State.landRecord
    rw [hland]
    rfl
  have hflush : State.flushRecs q (s.queue q).heldRecs.length s = s := by
    rw [hheld]
    rfl
  unfold State.ringRoomNow State.ringWaits
  simp only [hflush, hroom, if_true, hu, htries, List.foldl_nil, hlanded, hland, List.isEmpty_nil, Bool.not_true, Bool.or_false]
  cases u.head? q <;> rfl

/-- What is recorded of a command that leaves as room appears, whatever becomes of CQ_FULL. -/
theorem State.ringRoomNow_leaves {s : State} {q st : Nat} {c : Cmd} {m : Memory} (h : Leaves s (s.roomHead q) q c st m) (hheld : (s.queue q).heldRecs = [])
    (hroom : (s.queue q).ringRoom = true) (htries : s.heldTries q = []) (hland : (s.queue q).landPending = false) :
    Claims.Recorded s (s.ringRoomNow q) q c (st % 65536) ∧ (s.ringRoomNow q).mem.dev = m := by
  obtain ⟨hrecorded, -, hlandKept, hdev, hwindows⟩ := h
  rw [State.ringRoomNow_eq hheld hroom rfl ((State.heldTries_congr hwindows q).trans htries) (hlandKept.trans hland)]
  split
  · exact ⟨hrecorded, hdev⟩
  · exact ⟨recorded_modQueue hrecorded _ fun _ => ⟨rfl, rfl, rfl⟩, hdev⟩

/-- A command that waits for ring room with nothing to report goes on to its commit (R263). -/
theorem State.roomHead_of_commit {s : State} {q : Nat} {c : Cmd} (hc : s.head? q = some c) (hphase : c.phase = .ringWait) (hresult : c.result = 0) :
    s.roomHead q = s.commitHead q := by
  unfold State.roomHead
  simp [hc, hphase, hresult]

/-- A command that waits for ring room with an error leaves once the ring takes its record (R261, R263). -/
theorem State.roomHead_of_error {s : State} {q : Nat} {c : Cmd} (hc : s.head? q = some c) (hphase : c.phase = .ringWait) (hresult : c.result ≠ 0)
    (hroom : (s.queue q).ringRoom = true) : s.roomHead q = (s.popHead q).complete q c c.result := by
  unfold State.roomHead State.endFinal
  simp [hc, hphase, hresult, hroom]

/-- Without a head command that waits for ring room nothing goes on. -/
theorem State.roomHead_of_not {s : State} {q : Nat} (h : ∀ c, s.head? q = some c → c.phase ≠ .ringWait) : s.roomHead q = s := by
  unfold State.roomHead
  cases hc : s.head? q with
  | none => rfl
  | some c => simp [h c hc]

/-! Room in the retention pools (R177). -/

/-- The head command of `q` goes on where it waits for the pools. -/
def State.poolHead (s : State) (q : Nat) : State :=
  match s.head? q with
  | some c => if c.phase == .poolWait then s.commitHead q else s
  | none => s

/-- The retry of the commits that waited: the head commands of the queues, then the attempts. -/
theorem State.retryPool_eq (s : State) (p : Nat) : s.retryPool p =
    ((((s.queuesOf p).foldl State.poolHead s).poolTries p).foldl (fun s x => s.tryEnd p x.1 x.2.ep x.2.part x.2.attempt)
      ((s.queuesOf p).foldl State.poolHead s)).fixPoolWait p := rfl

theorem State.poolHead_of_not {s : State} {q : Nat} (h : ∀ c, s.head? q = some c → c.phase ≠ .poolWait) : s.poolHead q = s := by
  unfold State.poolHead
  cases hc : s.head? q with
  | none => rfl
  | some c => simp [h c hc]

theorem State.poolHead_of_waits {s : State} {q : Nat} {c : Cmd} (hc : s.head? q = some c) (hphase : c.phase = .poolWait) : s.poolHead q = s.commitHead q := by
  unfold State.poolHead
  simp [hc, hphase]

/-- Queues whose head commands do not wait for the pools are passed over. -/
theorem State.foldl_poolHead_of_not (l : List Nat) {s : State} (h : ∀ q ∈ l, ∀ c, s.head? q = some c → c.phase ≠ .poolWait) : l.foldl State.poolHead s = s := by
  induction l with
  | nil => rfl
  | cons q r ih =>
    rw [List.foldl_cons, State.poolHead_of_not (h q List.mem_cons_self)]
    exact ih fun k hk => h k (List.mem_cons_of_mem q hk)

/-- Of queues of which one waits for the pools, that one commits, if its commit leaves the others. -/
theorem State.foldl_poolHead_of_one {l : List Nat} {s : State} {q : Nat} {c : Cmd} (hnodup : l.Nodup) (hq : q ∈ l) (hc : s.head? q = some c)
    (hphase : c.phase = .poolWait) (hothers : ∀ k ∈ l, k ≠ q → ∀ d, s.head? k = some d → d.phase ≠ .poolWait)
    (hkept : ∀ k, k ≠ q → (s.commitHead q).queue k = s.queue k) : l.foldl State.poolHead s = s.commitHead q := by
  obtain ⟨a, b, rfl⟩ := List.append_of_mem hq
  obtain ⟨ha, hb⟩ : q ∉ a ∧ q ∉ b := by
    simp only [List.nodup_append, List.nodup_cons, List.mem_cons] at hnodup
    exact ⟨fun h => hnodup.2.2 q h q (.inl rfl) rfl, hnodup.2.1.1⟩
  have hbefore : a.foldl State.poolHead s = s :=
    State.foldl_poolHead_of_not a fun k hk => hothers k (List.mem_append_left _ hk) (ne_of_mem_of_not_mem hk ha)
  have hafter : b.foldl State.poolHead (s.commitHead q) = s.commitHead q := by
    refine State.foldl_poolHead_of_not b fun k hk d hd => ?_
    have hne := ne_of_mem_of_not_mem hk hb
    have hsame : (s.commitHead q).head? k = s.head? k := congrArg (fun x : Queue => x.fifo.head?) (hkept k hne)
    exact hothers k (List.mem_append_right _ (List.mem_cons_of_mem q hk)) hne d (hsame ▸ hd)
  rw [List.foldl_append, hbefore, List.foldl_cons, State.poolHead_of_waits hc hphase, hafter]

/-- A partition's queues are listed once each. -/
theorem State.nodup_queuesOf (s : State) (p : Nat) : (s.queuesOf p).Nodup := by
  refine (List.filter_sublist.map Prod.snd).nodup ?_
  rw [List.zipIdx_map_snd]
  exact List.nodup_range'

theorem State.queuesOf_congr {s t : State} (h : t.queues = s.queues) (p : Nat) : t.queuesOf p = s.queuesOf p := by
  unfold State.queuesOf
  rw [h]

theorem State.poolTries_congr {s t : State} {p : Nat} (h : (t.part p).windows = (s.part p).windows) : t.poolTries p = s.poolTries p := by
  unfold State.poolTries
  rw [h]

/-- With no attempt waiting, the retry ends with the queues. -/
theorem State.retryPool_of_foldl {s u : State} {p : Nat} (hu : (s.queuesOf p).foldl State.poolHead s = u) (htries : u.poolTries p = []) :
    s.retryPool p = u.fixPoolWait p := by
  rw [State.retryPool_eq, hu, htries]
  rfl

/-- No commit of the partition waits for the pools any more: neither a queue's head command nor an attempt (R177, R193). -/
theorem State.poolWait_fixPoolWait {s : State} {p : Nat} (hp : p < s.parts.length)
    (hheads : ∀ q ∈ s.queuesOf p, ∀ c, s.head? q = some c → c.phase ≠ .poolWait) (htries : s.poolTries p = []) :
    ((s.fixPoolWait p).part p).stream = { (s.part p).stream with poolWait := false } := by
  have hqueues : (s.queues.any fun q => q.assigned && q.part == p && (match q.fifo.head? with | some c => c.phase == .poolWait | none => false)) = false := by
    rw [List.any_eq_false]
    intro x hx hwaits
    obtain ⟨q, hq, rfl⟩ := List.getElem_of_mem hx
    have hqueue : s.queue q = s.queues[q] := List.getD_eq_getElem _ _ hq
    rw [← hqueue] at hwaits
    simp only [Bool.and_eq_true, beq_iff_eq] at hwaits
    obtain ⟨⟨hassigned, hpart⟩, hphase⟩ := hwaits
    have hnot := hheads q (State.mem_queuesOf hassigned hpart)
    unfold State.head? at hnot
    cases hc : (s.queue q).fifo.head? with
    | none => simp [hc] at hphase
    | some c => exact hnot c hc (by simpa [hc] using hphase)
  have hwindows : ((s.part p).windows.any fun w => w.tries.any (·.poolWait)) = false := by
    have hnil := sortBy_eq_nil htries
    simp only [List.flatMap_eq_nil_iff, List.map_eq_nil_iff, List.filter_eq_nil_iff] at hnil
    simpa [List.any_eq_false] using hnil
  unfold State.fixPoolWait
  simp only [hwindows, Bool.or_false]
  split
  · next hsame =>
    have hnot : (s.part p).stream.poolWait = false := hsame.trans hqueues
    rw [← hnot]
  · unfold State.modStream
    rw [State.part_modPart, if_pos ⟨rfl, hp⟩]
    exact congrArg (fun w => { (s.part p).stream with poolWait := w }) hqueues

/-- Of the retained slabs of the partition one is released, of T1 first (R177). -/
theorem State.stream_released {s : State} {p : Nat} (hp : p < s.parts.length) :
    ((Claims.released s p).part p).stream.retT1 + ((Claims.released s p).part p).stream.retT2 = (s.part p).stream.retT1 + (s.part p).stream.retT2 - 1 := by
  unfold Claims.released State.modStream
  rw [State.part_modPart, if_pos ⟨rfl, hp⟩]
  dsimp only
  split
  · dsimp only
    omega
  · dsimp only
    omega

/-- A pool update or a wait that it ends leaves the memory system. -/
theorem State.mem_fixPoolWait (s : State) (p : Nat) : (s.fixPoolWait p).mem = s.mem := by
  unfold State.fixPoolWait
  dsimp only
  split
  · rfl
  · rfl

/-! The two instructions. -/

/-- Where no commit waits for the pools, the release of a retained slab is all (R177). -/
theorem exec_poolWaitEnd_of_none {s : State} (p : Fin 16) (hheads : ∀ q ∈ s.queuesOf p.val, ∀ c, s.head? q = some c → c.phase ≠ .poolWait)
    (htries : s.poolTries p.val = []) : exec (.poolWaitEnd p) s = .next ((Claims.released s p.val).fixPoolWait p.val).settle := by
  have hapart : Apart s (Claims.released s p.val) := .modStream s p.val _
  have hfold := State.foldl_poolHead_of_not (s := Claims.released s p.val) (s.queuesOf p.val) fun q hq c hc => hheads q hq c ((hapart.head? q).symm.trans hc)
  rw [← State.queuesOf_congr hapart.queues] at hfold
  rw [← State.retryPool_of_foldl hfold ((State.poolTries_congr (hapart.part_windows p.val)).trans htries)]
  rfl

/-- Where one head command waits for the pools and may commit now, it does once a retained slab is released (R177). -/
theorem exec_poolWaitEnd_of_one {s : State} (p : Fin 16) {q : Nat} {c : Cmd} (hq : q ∈ s.queuesOf p.val) (hwf : Safety.MemoryCanonical s) (hphase : c.phase = .poolWait)
    (heff : c.staged.effect = .none) (hcommits : Claims.CommitsNow (Claims.released s p.val) q c)
    (hothers : ∀ k ∈ s.queuesOf p.val, k ≠ q → ∀ d, s.head? k = some d → d.phase ≠ .poolWait) (htries : s.poolTries p.val = []) :
    ∃ u, exec (.poolWaitEnd p) s = .next u.settle ∧ Leaves (Claims.released s p.val) u q c 0 (c.published s.mem.dev) := by
  have hapart : Apart s (Claims.released s p.val) := .modStream s p.val _
  have hqueues := State.queuesOf_congr hapart.queues p.val
  have hleaves := Leaves.commitHead hcommits heff hwf.2
  have hfold := State.foldl_poolHead_of_one (s.nodup_queuesOf p.val) hq hcommits.1 hphase
    (fun k hk hne d hd => hothers k hk hne d ((hapart.head? k).symm.trans hd)) hleaves.others
  rw [← hqueues] at hfold
  have hwindows := (State.part_field_of_map hleaves.windows p.val).trans (hapart.part_windows p.val)
  refine ⟨((Claims.released s p.val).commitHead q).fixPoolWait p.val, ?_, hleaves.apart (.fixPoolWait _ _)⟩
  rw [← State.retryPool_of_foldl hfold ((State.poolTries_congr hwindows).trans htries)]
  rfl

end Sys2Proof.Machine
end

section
/-! SUPPORT. Waits for staging slabs, for a tile's units and for credit (R147, R213, R273, R274, R310). -/

namespace Sys2Proof.Machine

/-! Staging slabs and tiles (R147, R213). -/

/-- With room in a pool the next staging slab is drawn, and then the others as far as there is room; a command that has all of them and no tile left stands before its commit. -/
theorem exec_stagingWaitEnd_of_room {s s' : State} {c : Cmd} {k : Nat} {r : List Nat} {x : Tier × Option Nat} (q : Fin 64) (hc : s.head? q.val = some c)
    (hphase : c.phase = .started) (hran : c.ran = true) (hneed : c.staged.need = k :: r)
    (htake : s.takeStage (s.queue q.val).part (s.queue q.val).cls (c.staged.t1Only || s.t1Slab k) (s.homeOf c.staged.tiers k)
      (s.dieFor (s.queue q.val).part k c) = (some x, s')) :
    ∃ u d, exec (.stagingWaitEnd q) s = .next u.settle ∧ HeadBecomes s u q.val d ∧ c.staged.slabs ++ [(k, x.1, x.2)] <+: d.staged.slabs ∧
      d.staged.need <:+ r ∧ (d.staged.need = [] → s.tilesLeft q.val = false → d.phase = .staged ∧ d.cores = []) := by
  have htaken := Apart.takeStage s (s.queue q.val).part (s.queue q.val).cls (c.staged.t1Only || s.t1Slab k) (s.homeOf c.staged.tiers k)
    (s.dieFor (s.queue q.val).part k c)
  rw [htake] at htaken
  have hdrawn := (HeadBecomes.of_apart hc htaken).modHead fun c => { c with staged := { c.staged with need := r, slabs := c.staged.slabs ++ [(k, x.1, x.2)] } }
  obtain ⟨d, hd, hstate, hslabs, hrest⟩ := HeadBecomes.allocate r.length hdrawn.head
  obtain ⟨e, he, hsettled, hstands⟩ := HeadBecomes.settleRun hd.head
  refine ⟨_, e, ?_, (hdrawn.trans hd).trans he, hsettled.staged ▸ hslabs, hsettled.staged ▸ hrest, fun hnone htiles => ?_⟩
  · rw [← State.allocate_succ_some hc hneed htake]
    change execStagingWaitEnd q s = _
    unfold execStagingWaitEnd
    simp only [hc, hneed, Option.map_some, Option.getD_some, List.length_cons]
  · refine hstands ?_ ?_ (hsettled.staged ▸ hnone) ?_
    · rw [hstate]
      exact hphase
    · rw [hstate]
      exact hran
    · rw [State.tilesLeft_of_head? hd.head, hstate]
      exact (State.tilesLeft_of_head? hc).symm.trans htiles

/-- The one tile that waits for a window is accepted when its units are granted (R147, R274). -/
theorem State.pushSends_accepts {s : State} {q : Nat} {t : TileSend} {l : List (Nat × Bytes)} (hstarted : t.started = true) (htodo : t.todo = [l])
    (hgrant : (s.askCredit 1 (s.queue q).part (s.queue q).cls (ceilDiv (tileBytes l) 4096) q).1 = true) :
    ∃ w : TileSend, (State.pushSends q [t] s).2 = [w] ∧ w.bytes = t.bytes + tileBytes l ∧ w.todo = [] := by
  obtain ⟨u, hu⟩ : ∃ u, s.askCredit 1 (s.queue q).part (s.queue q).cls (ceilDiv (tileBytes l) 4096) q = (true, u) := ⟨_, Prod.ext hgrant rfl⟩
  refine ⟨(u.acceptTile q t l).2, ?_, rfl, congrArg List.tail htodo⟩
  have hwindow : State.pushWindow q 1 t s = u.acceptTile q t l := by
    unfold State.pushWindow
    simp only [htodo, hu]
    rfl
  unfold State.pushSends
  simp [htodo, hstarted, hwindow]
  rfl

/-- A command whose one tile waits hands it over when its units are granted, and stands before its commit when it has run and has its slabs. -/
theorem exec_tileAccept_of_granted {s : State} {c : Cmd} {t : TileSend} {l : List (Nat × Bytes)} (q : Fin 64) (hc : s.head? q.val = some c)
    (hphase : c.phase = .started) (hwait : c.tileWait = true) (hsends : c.staged.sends = [t]) (hstarted : t.started = true) (htodo : t.todo = [l])
    (hpeer : s.hasPeer t.ep = true) (hgrant : (s.askCredit 1 (s.queue q.val).part (s.queue q.val).cls (ceilDiv (tileBytes l) 4096) q.val).1 = true) :
    ∃ u d w, exec (.tileAccept q) s = .next u.settle ∧ HeadBecomes s u q.val d ∧ d.tileWait = false ∧ d.staged.sends = [w] ∧
      w.bytes = t.bytes + tileBytes l ∧ w.todo = [] ∧ (c.ran = true → c.staged.need = [] → d.phase = .staged) := by
  obtain ⟨w, hpushed, hbytes, hnone⟩ := State.pushSends_accepts hstarted htodo hgrant
  obtain ⟨d, hd, hstate⟩ := HeadBecomes.pushTiles hc fun x hx => by
    rw [hsends, List.mem_singleton] at hx
    exact hx ▸ hpeer
  rw [hsends, hpushed] at hstate
  have hdone : ([w].any fun t => !t.todo.isEmpty) = false := by simp [hnone]
  obtain ⟨e, he, hsettled, hstands⟩ := HeadBecomes.settleRun hd.head
  refine ⟨_, e, w, ?_, hd.trans he, hsettled.tileWait ?_, ?_, hbytes, hnone, fun hran hneed => (hstands ?_ ?_ ?_ ?_).1⟩
  · change execTileAccept q s = _
    unfold execTileAccept
    simp [hc, hwait, hphase]
  · rw [hstate]
    exact hdone
  · rw [hsettled.staged, hstate]
  · rw [hstate]
    exact hphase
  · rw [hstate]
    exact hran
  · rw [hstate]
    exact hneed
  · rw [State.tilesLeft_of_head? hd.head, hstate]
    exact hdone

/-! Units of credit by share (R273, R274). -/

theorem State.heldFrom_congr {s t : State} (h : t.adm = s.adm) (r p o : Nat) : t.heldFrom r p o = s.heldFrom r p o := by
  unfold State.heldFrom
  rw [h]

/-- The units held from one share are set, those from the others are as they were. -/
theorem State.heldFrom_setCredit (s : State) (r p o v j : Nat) : (s.setCredit r p o v).heldFrom r p j = if j = o then v else s.heldFrom r p j := by
  unfold State.heldFrom State.setCredit State.modAdm
  dsimp only [State.setAdm_adm]
  rw [List.filter_append, List.filter_filter, List.map_append, List.sum_append]
  by_cases hj : j = o
  · subst hj
    have hnone : s.adm.credits.filter (fun c => (c.1 == r && c.2.1 == p && c.2.2.1 == j) && !(c.1 == r && c.2.1 == p && c.2.2.1 == j)) = [] := by
      simp
    rw [hnone, if_pos rfl]
    by_cases hv : v = 0
    · simp [hv]
    · simp [hv]
  · have hrest : s.adm.credits.filter (fun c => (c.1 == r && c.2.1 == p && c.2.2.1 == j) && !(c.1 == r && c.2.1 == p && c.2.2.1 == o)) =
        s.adm.credits.filter fun c => c.1 == r && c.2.1 == p && c.2.2.1 == j := by
      refine List.filter_congr fun c _ => ?_
      by_cases hc : c.2.2.1 = j
      · simp [hc, hj]
      · simp [hc]
    rw [hrest, if_neg hj]
    by_cases hv : v = 0
    · simp [hv]
    · simp [hv, Ne.symm hj]

/-- What one share gives back of what is released. -/
def State.giveBack (s : State) (r p o n : Nat) : State := if min n (s.heldFrom r p o) = 0 then s else s.setCredit r p o (s.heldFrom r p o - min n (s.heldFrom r p o))

theorem State.releaseFrom_cons (s : State) (r p o n : Nat) (l : List Nat) :
    State.releaseFrom r p (o :: l) n s = State.releaseFrom r p l (n - min n (s.heldFrom r p o)) (s.giveBack r p o n) := by
  cases n with
  | zero =>
    unfold State.giveBack
    rw [Nat.zero_min, if_pos rfl, Nat.zero_sub]
    cases l <;> rfl
  | succ n => rfl

theorem State.heldFrom_giveBack (s : State) (r p o n j : Nat) : (s.giveBack r p o n).heldFrom r p j = s.heldFrom r p j - if j = o then n else 0 := by
  unfold State.giveBack
  split
  · split
    · next hj =>
      subst hj
      omega
    · rfl
  · rw [State.heldFrom_setCredit]
    split
    · next hj =>
      subst hj
      omega
    · rfl

/-- A release leaves the shares that it does not go through. -/
theorem State.heldFrom_releaseFrom (r p : Nat) (l : List Nat) (n : Nat) (s : State) {j : Nat} (hj : j ∉ l) :
    (State.releaseFrom r p l n s).heldFrom r p j = s.heldFrom r p j := by
  induction l generalizing n s with
  | nil => cases n <;> rfl
  | cons o l ih =>
    rw [State.releaseFrom_cons, ih _ _ (List.not_mem_of_not_mem_cons hj), State.heldFrom_giveBack, if_neg (List.ne_of_not_mem_cons hj)]
    rfl

/-- A release takes its units from the shares that it goes through, as far as they hold any. -/
theorem State.sum_heldFrom_releaseFrom (r p : Nat) {l : List Nat} (hl : l.Nodup) (n : Nat) (s : State) :
    (l.map ((State.releaseFrom r p l n s).heldFrom r p)).sum = (l.map (s.heldFrom r p)).sum - n := by
  induction l generalizing n s with
  | nil =>
    rw [List.map_nil, List.map_nil]
    exact (Nat.zero_sub n).symm
  | cons o l ih =>
    obtain ⟨ho, hl⟩ := List.nodup_cons.1 hl
    have hrest : l.map ((s.giveBack r p o n).heldFrom r p) = l.map (s.heldFrom r p) := List.map_congr_left fun j hj => by
      rw [State.heldFrom_giveBack, if_neg (ne_of_mem_of_not_mem hj ho)]
      rfl
    rw [State.releaseFrom_cons, List.map_cons, List.sum_cons, ih hl, hrest, State.heldFrom_releaseFrom _ _ _ _ _ ho, State.heldFrom_giveBack, if_pos rfl,
      List.map_cons, List.sum_cons]
    omega

/-- The shares of a release are those of all partitions and the carve. -/
theorem perm_shares (p : Fin 16) : (((List.range 16).filter fun x => x != p.val) ++ [p.val, carveKey]).Perm (List.range 17) := by
  revert p
  decide

/-- A release of credit lowers what the partition holds of a resource by the units, as far as it holds any. -/
theorem State.sum_heldFrom_releaseCredit (s : State) (r : Nat) (p : Fin 16) (n : Nat) :
    ((List.range 17).map ((s.releaseCredit r p.val n).heldFrom r p.val)).sum = ((List.range 17).map (s.heldFrom r p.val)).sum - n := by
  have hperm := perm_shares p
  rw [← (hperm.map _).sum_eq, ← (hperm.map _).sum_eq]
  exact State.sum_heldFrom_releaseFrom _ _ (hperm.nodup_iff.2 List.nodup_range) n s

/-! What a grant of credit releases before it serves the requests (R274). -/

/-- From `s` to `t` the requests that wait and the memory system are as they were. -/
structure KeepsRequests (s t : State) : Prop where
  waiting : t.adm.waiting = s.adm.waiting
  mem : t.mem = s.mem

theorem KeepsRequests.releaseFrom (r p : Nat) (l : List Nat) (n : Nat) (s : State) : KeepsRequests s (State.releaseFrom r p l n s) := by
  induction l generalizing n s with
  | nil => cases n <;> exact ⟨rfl, rfl⟩
  | cons o l ih =>
    have hgive : KeepsRequests s (s.giveBack r p o n) := by
      unfold State.giveBack
      split
      · exact ⟨rfl, rfl⟩
      · exact ⟨rfl, rfl⟩
    rw [State.releaseFrom_cons]
    obtain ⟨hwaiting, hmem⟩ := ih (n - min n (s.heldFrom r p o)) (s.giveBack r p o n)
    exact ⟨hwaiting.trans hgive.waiting, hmem.trans hgive.mem⟩

/-- The collectives that hold the blocks change, and nothing of credit or memory. -/
theorem State.dropBlocks_keeps (p : Nat) (l : List Nat) (n : Nat) (s : State) : (s.dropBlocks p l n).adm = s.adm ∧ (s.dropBlocks p l n).mem = s.mem := by
  induction l generalizing n s with
  | nil => exact ⟨rfl, rfl⟩
  | cons q l ih =>
    unfold State.dropBlocks
    dsimp only
    split
    · exact ih _ _
    · exact ih _ _

/-- The head commands that hold the units change, and nothing of credit or memory. -/
theorem State.dropHub_keeps (p : Nat) (l : List Nat) (n : Nat) (s : State) : (s.dropHub p l n).adm = s.adm ∧ (s.dropHub p l n).mem = s.mem := by
  induction l generalizing n s with
  | nil => exact ⟨rfl, rfl⟩
  | cons q l ih => exact ih _ _

/-- The state once the units of resource `r` that partition `p` gives back are released (log entry 16). -/
def State.unitsReleased (s : State) (r p units : Nat) : State :=
  let t := if r ≤ 1 then s.releaseCredit r p units else s
  if r = 0 then t.dropBlocks p (t.queuesOf p) units else if r = 1 then t.dropHub p (t.queuesOf p) units else t

/-- Of staging blocks and hub ingress the release of credit is all that changes the credit and the requests. -/
theorem State.unitsReleased_keeps (s : State) {r : Nat} (p units : Nat) (h : r < 2) :
    (s.unitsReleased r p units).adm = (s.releaseCredit r p units).adm ∧ (s.unitsReleased r p units).mem = (s.releaseCredit r p units).mem := by
  obtain rfl | rfl : r = 0 ∨ r = 1 := by omega
  · exact State.dropBlocks_keeps _ _ _ _
  · exact State.dropHub_keeps _ _ _ _

/-- Move slots and slow-path places are not released here (log entry 16). -/
theorem State.unitsReleased_of_two_le (s : State) {r : Nat} (p units : Nat) (h : 2 ≤ r) : s.unitsReleased r p units = s := by
  unfold State.unitsReleased
  rw [if_neg (by omega), if_neg (by omega), if_neg (by omega)]

theorem KeepsRequests.unitsReleased (s : State) (r p units : Nat) : KeepsRequests s (s.unitsReleased r p units) := by
  by_cases h : r < 2
  · obtain ⟨hadm, hmem⟩ := s.unitsReleased_keeps p units h
    have hrelease : KeepsRequests s (s.releaseCredit r p units) := .releaseFrom _ _ _ _ s
    exact ⟨(congrArg Adm.waiting hadm).trans hrelease.waiting, hmem.trans hrelease.mem⟩
  · rw [s.unitsReleased_of_two_le p units (by omega)]
    exact ⟨rfl, rfl⟩

theorem exec_creditGrant (r : Fin 4) (p : Fin 16) (units : Nat) (s : State) :
    exec (.creditGrant r p units) s =
      .next (((s.unitsReleased r.val p.val units).adm.waiting.filter fun w => resRow w.res == r.val).foldl State.retryCredit
        (s.unitsReleased r.val p.val units)).settle := rfl

end Sys2Proof.Machine
end

section
open Sys2Proof Sys2Proof.Machine

namespace Sys2Proof.Claims

/-- Settles O22: each wait ends as the lemma about its instruction says; what a head command is then follows from what its draw, its tiles and its record leave. -/
theorem waitsEndWhenRoomComes : Obligations.WaitsEndWhenRoomComes := by
  refine ⟨?_, ?_, ?_, ?_, ?_, ?_⟩
  · intro q s c k r x s' _ hc hphase hran hneed htake
    obtain ⟨u, d, hexec, hd, hdrawn⟩ := exec_stagingWaitEnd_of_room q hc hphase hran hneed htake
    exact ⟨u, d, hexec, hd.head, hd.dev, hdrawn⟩
  · intro r p units s
    have hkeeps := KeepsRequests.unitsReleased s r.val p.val units
    refine ⟨s.unitsReleased r.val p.val units, ?_, hkeeps.waiting, hkeeps.mem, s.unitsReleased_of_two_le _ _, fun hr => ?_⟩
    · rw [← hkeeps.waiting]
      exact exec_creditGrant r p units s
    · rw [← s.sum_heldFrom_releaseCredit r.val p units]
      exact congrArg List.sum (List.map_congr_left fun o _ => State.heldFrom_congr (s.unitsReleased_keeps p.val units hr).1 _ _ o)
  · intro p s hparts hheads htries
    have hapart : Apart s (released s p.val) := .modStream s p.val _
    have hp : p.val < s.parts.length := hparts.symm ▸ p.isLt
    have hstream := State.poolWait_fixPoolWait (s := released s p.val) (p := p.val) ((s.parts_length_modPart p.val _).symm ▸ hp)
      (fun q hq d hd => hheads q (State.queuesOf_congr hapart.queues p.val ▸ hq) d ((hapart.head? q).symm.trans hd))
      ((State.poolTries_congr (hapart.part_windows p.val)).trans htries)
    refine ⟨_, exec_poolWaitEnd_of_none p hheads htries, State.mem_fixPoolWait _ _, ?_, ?_⟩
    · rw [hstream]
    · rw [hstream]
      exact State.stream_released hp
  · intro p q s c hq hcanon hphase heff hcommits hothers htries
    obtain ⟨u, hexec, hrecorded, -, -, hdev, -⟩ := exec_poolWaitEnd_of_one p hq hcanon hphase heff hcommits hothers htries
    refine ⟨u, hexec, hrecorded.1.trans ?_, hdev⟩
    exact congrArg (fun x : Queue => x.fifo.tail) ((Apart.modStream s p.val _).queue q.val)
  · intro q s c t l _ hc hphase hwait hsends hstarted htodo hpeer hgrant
    obtain ⟨u, d, w, hexec, hd, hdone, hsent, hbytes, hnone, hstands⟩ := exec_tileAccept_of_granted q hc hphase hwait hsends hstarted htodo hpeer hgrant
    refine ⟨u, d, hexec, hd.head, hdone, ?_, hd.dev, hstands⟩
    rw [hsent, List.map_singleton, hbytes, hnone]
  · intro q s c hcanon htakes htries hland
    obtain ⟨hcount, hheld, hroom, hout⟩ := htakes
    refine ⟨fun hc hphase hresult => ?_, fun hcommits hphase heff => ?_, fun hnot => ?_⟩
    · have hleaves := Leaves.complete c (status := c.result) (State.lt_of_head? hc) hheld hroom hout hcanon.2 rfl
      rw [← State.roomHead_of_error hc hphase hresult hroom] at hleaves
      exact ⟨_, rfl, State.ringRoomNow_leaves hleaves hheld hroom htries hland⟩
    · have hresult : c.result = 0 := by
        obtain ⟨-, hmay, -⟩ := hcommits
        simpa [hphase] using hmay
      have hleaves := Leaves.commitHead hcommits heff hcanon.2
      rw [← State.roomHead_of_commit hcommits.1 hphase hresult] at hleaves
      exact ⟨_, rfl, State.ringRoomNow_leaves hleaves hheld hroom htries hland⟩
    · have hwaits : ¬ s.ringWaits q.val = true := by
        unfold State.ringWaits
        simpa [Option.any_eq_true] using hnot
      exact congrArg (fun u : State => (.next u.settle : Result)) ((State.ringRoomNow_eq hheld hroom (State.roomHead_of_not hnot) htries hland).trans (if_neg hwaits))

end Sys2Proof.Claims
end

section
/-! SUPPORT. Updates of one partition alone: what a write of its own registers may change (R192, R299, R317). -/

namespace Sys2Proof.Machine

/-- From `s` to `t` nothing has changed but partition `p`. -/
structure OnlyPart (p : Nat) (s t : State) : Prop where
  rest : t.setParts s.parts = s
  others : ∀ k, k ≠ p → t.part k = s.part k

namespace OnlyPart

variable {p : Nat} {s t u : State}

theorem refl (s : State) : OnlyPart p s s := ⟨rfl, fun _ _ => rfl⟩

theorem trans (h : OnlyPart p s t) (k : OnlyPart p t u) : OnlyPart p s u :=
  ⟨(congrArg (State.setParts · s.parts) k.rest).trans h.rest, fun j hj => (k.others j hj).trans (h.others j hj)⟩

theorem modPart (s : State) (f : Part → Part) : OnlyPart p s (s.modPart p f) :=
  ⟨rfl, fun k hk => State.part_modPart_ne s p k f hk⟩

theorem fixPoolWait (s : State) : OnlyPart p s (s.fixPoolWait p) := by
  unfold State.fixPoolWait
  dsimp only
  split
  · exact refl s
  · exact modPart s _

/-- Reached from what a host access leaves, the state differs from the one before the access by the access and the partition alone. -/
theorem of_accessed {a : State} (ha : Accessed s a) (h : OnlyPart p a t) : t.setParts s.parts = a ∧ ∀ k, k ≠ p → t.part k = s.part k :=
  ⟨ha.parts ▸ h.rest, fun k hk => (h.others k hk).trans (by unfold State.part; rw [ha.parts])⟩

end OnlyPart

theorem State.part_fixPoolWait_of_stream {α : Type} (f : Part → α) (hf : ∀ (x : Part) st, f { x with stream := st } = f x) (s : State) (p k : Nat) :
    f ((s.fixPoolWait p).part k) = f (s.part k) := by
  unfold State.fixPoolWait
  dsimp only
  split
  · rfl
  · rw [State.modStream, State.part_modPart]
    split
    next h => rw [hf, h.1]
    next => rfl

theorem State.windows_fixPoolWait (s : State) (p k : Nat) : ((s.fixPoolWait p).part k).windows = (s.part k).windows :=
  State.part_fixPoolWait_of_stream _ (fun _ _ => rfl) s p k

theorem State.winStatus_fixPoolWait (s : State) (p k : Nat) : ((s.fixPoolWait p).part k).winStatus = (s.part k).winStatus :=
  State.part_fixPoolWait_of_stream _ (fun _ _ => rfl) s p k

theorem State.part_modPart_self {s : State} {p : Nat} (f : Part → Part) (hp : p < s.parts.length) : (s.modPart p f).part p = f (s.part p) := by
  rw [State.part_modPart, if_pos ⟨rfl, hp⟩]

theorem OnlyPart.closeWindow (s : State) (p w : Nat) : OnlyPart p s (s.closeWindow p w) := by
  unfold State.closeWindow
  split
  · exact (modPart s _).trans (fixPoolWait _)
  · exact modPart s _

/-- CLOSE leaves the windows of any other number (R299). -/
theorem State.windows_closeWindow {s : State} {p w : Nat} (hp : p < s.parts.length) :
    ((s.closeWindow p w).part p).windows = (s.part p).windows.filter fun y => y.window != w := by
  unfold State.closeWindow
  split
  · rw [State.windows_fixPoolWait, State.part_modPart_self _ hp]
  next h =>
    rw [State.part_modPart_self _ hp, List.filter_eq_self.2]
    intro y hy
    simp only [State.window?, List.find?_isSome, not_exists, not_and, beq_iff_eq] at h
    simpa using h y hy

/-- CLOSE of a window that is not open gives 0x0504 (R299). -/
theorem State.winStatus_closeWindow {s : State} {p w : Nat} (hp : p < s.parts.length) :
    ((s.closeWindow p w).part p).winStatus = if (s.window? p w).isSome then 0 else 0x0504 := by
  unfold State.closeWindow
  split
  · rw [State.winStatus_fixPoolWait, State.part_modPart_self _ hp]
  · rw [State.part_modPart_self _ hp]

theorem OnlyPart.writeAxes (s : State) (p : Nat) (v : Word) : OnlyPart p s (s.writeAxes p v) := modPart s _

/-- The axes that a write of PART_JOB_AXES names, 4 and above meaning none (R283). -/
theorem State.writeAxes_status {s : State} {p : Nat} {v : Word} (hp : p < s.parts.length) :
    (s.partBusy p = true → ((s.writeAxes p v).part p).axesStatus = 0x0482 ∧ ((s.writeAxes p v).part p).axes = (s.part p).axes) ∧
    (s.partBusy p = false → cfgDest (s.part p).stream.cfg ≠ 0 →
      ((s.writeAxes p v).part p).axesStatus = 0x0205 ∧ ((s.writeAxes p v).part p).axes = (s.part p).axes) ∧
    (s.partBusy p = false → cfgDest (s.part p).stream.cfg = 0 → ((s.writeAxes p v).part p).axesStatus = 0 ∧
      ∀ k, k < 5 → ((s.writeAxes p v).part p).axes.getD k 0 = if v.toNat / 2 ^ (3 * k) % 8 < 4 then v.toNat / 2 ^ (3 * k) % 8 else 7) := by
  unfold State.writeAxes
  simp only [State.part_modPart_self _ hp]
  refine ⟨fun hb => ?_, fun hb hd => ?_, fun hb hd => ?_⟩
  · simp [hb]
  · simp [hb, hd]
  · simp only [hb, hd, ne_eq, not_true_eq_false, Bool.false_eq_true, if_false, true_and]
    intro k hk
    have hbits : bits v.toNat (3 * k + 2) (3 * k) = v.toNat / 2 ^ (3 * k) % 8 := by
      unfold bits
      congr 1
      rw [show 3 * k + 2 - 3 * k + 1 = 3 by omega]
      rfl
    simp [List.getD_eq_getElem?_getD, hk, hbits]

end Sys2Proof.Machine
end

section
open Sys2Proof Sys2Proof.Machine

namespace Sys2Proof.Claims

/-- CLOSE drops the window with its attempts, or leaves 0x0504 (R299, R317). -/
theorem windowClose_closes {s : State} (hopen : s.barOpen = true) (hlen : s.parts.length = 16) (p : Fin 16) {v : Word} (hv0 : v.getLsbD 0 = false)
    (hv1 : v.getLsbD 1 = true) :
    ∃ t : State, exec (.windowClose p v) s = .next t ∧ t.setParts s.parts = atBar0 s ∧ (∀ k, k ≠ p.val → t.part k = s.part k) ∧
      (t.part p.val).windows = (s.part p.val).windows.filter (fun w => w.window != bits v.toNat 15 4) ∧
      (t.part p.val).winStatus = if (s.window? p.val (bits v.toNat 15 4)).isSome then 0 else 0x0504 := by
  have ha := Accessed.atBar0 s
  have hp : p.val < (atBar0 s).parts.length := by rw [ha.parts, hlen]; exact p.isLt
  have hpart : (atBar0 s).part p.val = s.part p.val := by unfold State.part; rw [ha.parts]
  set n := bits v.toNat 15 4 with hn
  set m := (atBar0 s).modPart p.val fun x => { x with winNo := n } with hm
  have hpm : p.val < m.parts.length := by rw [hm, State.parts_length_modPart]; exact hp
  have hwin : (m.part p.val).windows = (s.part p.val).windows := by rw [hm, State.part_modPart_self _ hp, hpart]
  have hexec : exec (.windowClose p v) s = .next (m.closeWindow p.val n) := by
    change Host.Outcome.next (s.bar0 fun s => s.writeWin p.val v) = _
    rw [State.bar0_of_open s _ hopen]
    simp only [State.writeWin, hv0, hv1, Bool.false_eq_true, if_false, if_true, hm, hn]
  obtain ⟨hrest, hothers⟩ := OnlyPart.of_accessed ha ((OnlyPart.modPart _ _).trans (OnlyPart.closeWindow m p.val n))
  refine ⟨_, hexec, hrest, hothers, ?_, ?_⟩
  · rw [State.windows_closeWindow hpm, hwin]
  · rw [State.winStatus_closeWindow hpm, State.window?, hwin]
    rfl

/-- A write of PART_JOB_AXES sets the axes between jobs, or leaves its status (R283, R317). -/
theorem jobAxes_written {s : State} (hopen : s.barOpen = true) (hlen : s.parts.length = 16) (p : Fin 16) (v : Word) :
    ∃ t : State, exec (.partJobAxesWrite p v) s = .next t ∧ t.setParts s.parts = atBar0 s ∧ (∀ k, k ≠ p.val → t.part k = s.part k) ∧
      (s.partBusy p.val = true → (t.part p.val).axesStatus = 0x0482 ∧ (t.part p.val).axes = (s.part p.val).axes) ∧
      (s.partBusy p.val = false → cfgDest (s.part p.val).stream.cfg ≠ 0 → (t.part p.val).axesStatus = 0x0205 ∧ (t.part p.val).axes = (s.part p.val).axes) ∧
      (s.partBusy p.val = false → cfgDest (s.part p.val).stream.cfg = 0 → (t.part p.val).axesStatus = 0 ∧
        ∀ k, k < 5 → (t.part p.val).axes.getD k 0 = if v.toNat / 2 ^ (3 * k) % 8 < 4 then v.toNat / 2 ^ (3 * k) % 8 else 7) := by
  have ha := Accessed.atBar0 s
  have hp : p.val < (atBar0 s).parts.length := by rw [ha.parts, hlen]; exact p.isLt
  have hpart : (atBar0 s).part p.val = s.part p.val := by unfold State.part; rw [ha.parts]
  have hbusy : (atBar0 s).partBusy p.val = s.partBusy p.val := by unfold State.partBusy; rw [ha.queues]
  obtain ⟨hrest, hothers⟩ := OnlyPart.of_accessed ha (OnlyPart.writeAxes (atBar0 s) p.val v)
  refine ⟨(atBar0 s).writeAxes p.val v, congrArg Host.Outcome.next (State.bar0_of_open s _ hopen), hrest, hothers, ?_⟩
  rw [← hbusy, ← hpart]
  exact State.writeAxes_status hp

/-- Settles O38: OPEN and CLOSE by the checks of the descriptor, the axes by the state of the partition. -/
theorem windowsOpenCloseAndAxes : Obligations.WindowsOpenCloseAndAxes := by
  unfold Obligations.WindowsOpenCloseAndAxes
  intro p v host s hopen hlen
  have hexec : exec (.windowOpen p v host) s = .next (((atBar0 s).hostStore host).writeWin p.val v) :=
    congrArg Host.Outcome.next (State.bar0_of_open s _ hopen)
  refine ⟨fun w hv0 hv1 hw => ?_, fun st hv0 hv1 hst => ?_, windowClose_closes hopen hlen p, jobAxes_written hopen hlen p v⟩
  · rw [hexec]
    simp only [State.writeWin, hv0, hv1, if_true, Bool.false_eq_true, if_false, State.openWindow, hw]
  · rw [hexec]
    simp only [State.writeWin, hv0, hv1, if_true, Bool.false_eq_true, if_false, State.openWindow, hst]

end Sys2Proof.Claims
end

section
/-! SUPPORT. What the receipt of a packet that passes every check and is new in its flow leaves of the state: the flows, the ACKs and what carries them move, and the module wakes (R293, R294, R298, R431). -/

namespace Sys2Proof.Machine

/-- From `s` to `t` nothing has changed but what the arrival of an accepted packet can change: the flows with their ACKs, the endpoints out of reach, the power block, the optics and what was put out. -/
structure Received (s t : State) : Prop where
  state : t = { s with
    power := t.power, optics := t.optics, out := t.out
    fab := { s.fab with flows := t.fab.flows, acks := t.fab.acks, unreachable := t.fab.unreachable, resent := t.fab.resent } }

namespace Received

theorem refl (s : State) : Received s s := ⟨rfl⟩

theorem trans {s t u : State} (h : Received s t) (k : Received t u) : Received s u := ⟨k.state.trans (by rw [h.state])⟩

theorem ite {c : Prop} [Decidable c] {s a b : State} (ha : Received s a) (hb : Received s b) : Received s (if c then a else b) := by
  split
  · exact ha
  · exact hb

theorem of_moves {s t : State} (h : Moves s t) : Received s t := ⟨h.state.trans (by rw [h.state])⟩

theorem wakeNow (s : State) : Received s s.wakeNow := by
  unfold State.wakeNow
  exact (refl s).ite ⟨rfl⟩

theorem setAckFlow (s : State) (ep : Nat) (v : Nat × Nat) : Received s (s.setAckFlow ep v) := ⟨rfl⟩

theorem reach (s : State) (ep : Nat) : Received s (s.reach ep) := ⟨rfl⟩

theorem sendAck (s : State) (n ep cls : Nat) : Received s (s.sendAck n ep cls) := by
  unfold State.sendAck
  split
  · exact refl s
  · exact ((of_moves (Moves.setFlow s _)).trans (setAckFlow _ ep _)).trans (of_moves (Moves.portSend _ _ _ _))

section
variable {s t : State} (h : Received s t)
include h

theorem phase : t.phase = s.phase := by rw [h.state]
theorem nowUs : t.nowUs = s.nowUs := by rw [h.state]
theorem mem : t.mem = s.mem := by rw [h.state]
theorem parts : t.parts = s.parts := by rw [h.state]
theorem queues : t.queues = s.queues := by rw [h.state]
theorem link : t.link = s.link := by rw [h.state]
theorem adm : t.adm = s.adm := by rw [h.state]
theorem sec : t.sec = s.sec := by rw [h.state]
theorem hle : t.hle = s.hle := by rw [h.state]
theorem fabric : t.fabric = s.fabric := by rw [h.state]
theorem inv : t.inv = s.inv := by rw [h.state]
theorem fab : t.fab = { s.fab with flows := t.fab.flows, acks := t.fab.acks, unreachable := t.fab.unreachable, resent := t.fab.resent } := by rw [h.state]

theorem colls : t.fab.colls = s.fab.colls := by rw [h.fab]
theorem collAborted : t.fab.collAborted = s.fab.collAborted := by rw [h.fab]
theorem committed : t.fab.committed = s.fab.committed := by rw [h.fab]
theorem collTry : t.fab.collTry = s.fab.collTry := by rw [h.fab]
theorem earlyPull : t.fab.earlyPull = s.fab.earlyPull := by rw [h.fab]
theorem earlyAnn : t.fab.earlyAnn = s.fab.earlyAnn := by rw [h.fab]
theorem part (p : Nat) : t.part p = s.part p := by rw [h.state]; rfl
theorem queue (q : Nat) : t.queue q = s.queue q := by rw [h.state]; rfl
theorem drop : t.fab.drop = s.fab.drop := by rw [h.fab]
theorem window? (p w : Nat) : t.window? p w = s.window? p w := by rw [h.state]; rfl
theorem slab? (k : Nat) : t.slab? k = s.slab? k := by rw [h.state]; rfl

end

end Received

/-- A new packet is taken in by its flow (R293). -/
theorem State.rxAccept_of_new {s : State} {h : PftHdr} (hnew : s.rxNew h = true) : (s.rxAccept h).2 = true ∧ Received s (s.rxAccept h).1 := by
  simp only [State.rxNew, Bool.and_eq_true, decide_eq_true_eq, Bool.not_eq_true'] at hnew
  obtain ⟨⟨hcum, hwin⟩, hbit⟩ := hnew
  have hseen : ¬(h.seq.toNat ≤ (s.flow h.srcEp.toNat h.srcClass.val).cum ∨ (s.flow h.srcEp.toNat h.srcClass.val).bitmap.contains h.seq.toNat = true) := by
    rw [hbit]
    simp only [Bool.false_eq_true, or_false, not_le]
    exact hcum
  unfold State.rxAccept
  dsimp only
  rw [if_neg hseen, if_neg (Nat.not_lt.2 hwin)]
  exact ⟨rfl, ((Received.of_moves (Moves.setFlow s _)).trans (.reach _ _)).trans (.ite (.sendAck _ _ _ _) (.refl _))⟩

/-- The wake from S3 that an arrival brings (R431). -/
def State.awake (s : State) : State := if s.power.idle = 3 then s.wakeNow else s

theorem Received.awake (s : State) : Received s s.awake := (wakeNow s).ite (refl s)

@[simp] theorem State.rxNew_awake (s : State) (h : PftHdr) : s.awake.rxNew h = s.rxNew h := by
  unfold State.awake State.wakeNow
  split <;> [split; skip] <;> rfl

theorem State.rxAccept_awake {s : State} {h : PftHdr} (hnew : s.rxNew h = true) : (s.awake.rxAccept h).2 = true ∧ Received s (s.awake.rxAccept h).1 := by
  obtain ⟨hok, hr⟩ := State.rxAccept_of_new (s := s.awake) (h := h) (by simpa using hnew)
  exact ⟨hok, (Received.awake s).trans hr⟩

end Sys2Proof.Machine

namespace Sys2Proof.Claims

open Sys2Proof Sys2Proof.Machine

theorem Accepts.new {s : State} {h : PftHdr} {ty kind : Nat} (ha : Accepts s h ty kind) : s.rxNew h = true := by
  obtain ⟨-, -, -, -, -, -, -, -, -, -, hnew⟩ := ha
  exact hnew

theorem Accepts.kindIs {s : State} {h : PftHdr} {ty kind : Nat} (ha : Accepts s h ty kind) : h.kind.toNat = kind := by
  obtain ⟨-, -, -, -, -, -, -, -, hk, -, -⟩ := ha
  exact hk

/-- An accepted packet passes every check that precedes its flow, and the module is awake (R284, R292, R445). -/
theorem Accepts.rxOpen {s : State} {h : PftHdr} {ty kind : Nat} (ha : Accepts s h ty kind) : s.rxOpen h ty = (s.awake, true) := by
  obtain ⟨hvalid, hphase, hdst, hpeer, htag, hver, hlen, hty, -, hsess, -⟩ := ha
  have hr := Received.awake s
  have hpeer' : s.awake.hasPeer h.srcEp.toNat = true := by unfold State.hasPeer at hpeer ⊢; rw [hr.sec]; exact hpeer
  have hfab : s.awake.fab.valid = true ∧ s.awake.fab.ep = s.fab.ep ∧ s.awake.fab.sessions = s.fab.sessions := by rw [hr.fab]; exact ⟨hvalid, rfl, rfl⟩
  obtain ⟨hv, he, hs⟩ := hfab
  have hbad : ¬(h.tagOk = false ∨ h.type_.toNat ≠ ty ∨ h.version = 0 ∨ h.lengthOk = false) := by
    simp only [htag, hty, hlen, ne_eq, not_true_eq_false, Bool.true_eq_false, false_or, or_false]
    exact hver
  unfold State.rxOpen
  simp only [show (if s.power.idle = 3 then s.wakeNow else s) = s.awake from rfl, hv, hr.phase, hphase, he, hdst, hpeer', hs, hsess, if_neg hbad]
  simp

/-- An accepted packet is delivered, and only the transport has moved (R289, R293). -/
theorem Accepts.rx {s : State} {h : PftHdr} {ty kind : Nat} (ha : Accepts s h ty kind) : (s.rx h ty kind).2 = true ∧ Received s (s.rx h ty kind).1 := by
  obtain ⟨hok, hr⟩ := State.rxAccept_awake ha.new
  unfold State.rx
  rw [ha.rxOpen]
  simp [hok, hr, ha.kindIs]

theorem Accepts.rxData {s : State} {h : PftHdr} {kind : Nat} (ha : Accepts s h 0x50 kind) : (s.rxData h kind).2 = true ∧ Received s (s.rxData h kind).1 := ha.rx

/-- A packet for an admitted partition acts on the state that its receipt leaves (R448). -/
theorem Accepts.rxPart {s : State} {h : PftHdr} {kind : Nat} (ha : Accepts s h 0x50 kind) (hadm : (s.part h.dstPart.val).admitted = true) (f : State → State) :
    s.rxPart h kind f = f (s.rxData h kind).1 := by
  obtain ⟨hok, hr⟩ := ha.rxData
  unfold State.rxPart
  simp only [hok, Bool.not_true, Bool.false_eq_true, if_false]
  rw [hr.part, if_pos hadm]

/-- A lease message that is accepted is delivered (R229, R529). -/
theorem AcceptsLease.rxLease {s : State} {h : PftHdr} (ha : AcceptsLease s h) : s.rxLease h = ((s.rxData h 5).1, true) := by
  obtain ⟨hacc, hmsg⟩ := ha
  unfold State.rxLease
  simp [hacc.rxData.1, hmsg]

end Sys2Proof.Claims
end

section
open Sys2Proof Sys2Proof.Machine

namespace Sys2Proof.Machine.Received

variable {s t : State} (h : Received s t)
include h

theorem findColl (p id ep part : Nat) : t.findColl p id ep part = s.findColl p id ep part := by rw [h.state]; rfl
theorem isAborted (k : PftHdr) (id a : Nat) : t.isAborted k id a = s.isAborted k id a := by rw [h.state]; rfl

end Sys2Proof.Machine.Received

namespace Sys2Proof.Claims

/-- What a packet of a running collective does, sent by the member of rank `r` in an attempt that has not been aborted (R309, R312). -/
theorem packet_of_running {h : PftHdr} {s : State} (hadm : (s.part h.dstPart.val).admitted = true) {att : BitVec 16} {id : BitVec 32} {c : Coll} {r : Nat}
    (hc : s.findColl h.dstPart.val id.toNat h.srcEp.toNat h.srcPart.val = some c) (hr : c.rankOf h.srcEp.toNat h.srcPart.val = some r)
    (hlive : s.isAborted h id.toNat att.toNat = false) :
    (∀ (off : BitVec 48) (data : Bytes), Accepts s h 0x50 1 → (∀ g ∈ c.got, g.1 = r → g.2.1 ≠ off.toNat) →
      exec (.collectivePiece h att id off data) s =
        .next ((((s.rxData h 1).1).setColl { c with got := c.got ++ [(r, off.toNat, data)] }).runColl c.queue).settle) ∧
    (∀ (off : BitVec 48) (data : Bytes), Accepts s h 0x50 1 → (∃ g ∈ c.got, g.1 = r ∧ g.2.1 = off.toNat) →
      exec (.collectivePiece h att id off data) s = .next (s.rxData h 1).1) ∧
    (∀ (off : BitVec 48) (len : BitVec 32), Accepts s h 0x50 2 →
      exec (.collectivePull h att id off len) s = .next ((((s.rxData h 2).1).answerPull c.queue r off.toNat len.toNat).runColl c.queue).settle) ∧
    (∀ v : BitVec 32, Accepts s h 0x50 4 →
      exec (.collectiveAnnouncement h att id v) s = .next ((((s.rxData h 4).1).setColl (c.announce r v.toNat)).runColl c.queue).settle) ∧
    (Accepts s h 0x50 3 →
      ∃ u : State, exec (.collectiveAbort h att id) s = .next (u.endCmd c.queue 0x0582).settle ∧ u.mem = s.mem ∧ u.queues = s.queues ∧ u.fab.colls = s.fab.colls ∧
        u.fab.collAborted = s.fab.collAborted ++ [(collKey h.dstPart.val id.toNat, memberKey h.srcEp.toNat h.srcPart.val, att.toNat)]) := by
  have hpiece : ∀ {off : BitVec 48} {data : Bytes}, Accepts s h 0x50 1 → exec (.collectivePiece h att id off data) s =
      .next (if c.got.any (fun g => g.1 == r && g.2.1 == off.toNat) then (s.rxData h 1).1
        else ((((s.rxData h 1).1).setColl { c with got := c.got ++ [(r, off.toNat, data)] }).runColl c.queue).settle) := fun {off data} ha => by
    obtain ⟨-, hrx⟩ := ha.rxData
    change Host.Outcome.next (s.rxPart h 1 _) = _
    rw [ha.rxPart hadm]
    simp only [hrx.findColl, hc, hr, hrx.isAborted, hlive, Bool.false_or]
  refine ⟨fun off data ha hnew => ?_, fun off data ha hold => ?_, fun off len ha => ?_, fun v ha => ?_, fun ha => ?_⟩
  · rw [hpiece ha, if_neg (by simpa only [List.any_eq_true, Bool.and_eq_true, beq_iff_eq, not_exists, not_and] using hnew)]
  · rw [hpiece ha, if_pos (by simpa only [List.any_eq_true, Bool.and_eq_true, beq_iff_eq] using hold)]
  · obtain ⟨-, hrx⟩ := ha.rxData
    change Host.Outcome.next (s.rxPart h 2 _) = _
    rw [ha.rxPart hadm]
    simp only [hrx.findColl, hc, hr, hrx.isAborted, hlive, Bool.false_eq_true, if_false]
  · obtain ⟨-, hrx⟩ := ha.rxData
    change Host.Outcome.next (s.rxPart h 4 _) = _
    rw [ha.rxPart hadm]
    simp only [hrx.findColl, hc, hr, hrx.isAborted, hlive, Bool.false_eq_true, if_false]
  · obtain ⟨-, hrx⟩ := ha.rxData
    let noted : Fab → Fab := fun b =>
      { b with collAborted := b.collAborted ++ [(collKey h.dstPart.val id.toNat, memberKey h.srcEp.toNat h.srcPart.val, att.toNat)] }
    have hfind : ((s.rxData h 3).1.modFab noted).findColl h.dstPart.val id.toNat h.srcEp.toNat h.srcPart.val = some c := (hrx.findColl _ _ _ _).trans hc
    refine ⟨(s.rxData h 3).1.modFab noted, ?_, hrx.mem, hrx.queues, hrx.colls, congrArg (· ++ _) hrx.collAborted⟩
    change Host.Outcome.next (s.rxPart h 3 _) = _
    rw [ha.rxPart hadm]
    simp only [noted] at hfind ⊢
    simp only [hfind, hr, Option.isSome_some, if_true]

/-- What a packet does that names no collective of a group of its sender, in an attempt that has not been aborted (R309, R312). -/
theorem packet_of_none {h : PftHdr} {s : State} (hadm : (s.part h.dstPart.val).admitted = true) {att : BitVec 16} {id : BitVec 32}
    (hc : s.findColl h.dstPart.val id.toNat h.srcEp.toNat h.srcPart.val = none) (hlive : s.isAborted h id.toNat att.toNat = false) :
    (∀ (off : BitVec 48) (len : BitVec 32), Accepts s h 0x50 2 →
      let done := s.fab.committed.find? fun x => x.1 == h.dstPart.val && x.2.1 == id.toNat && x.2.2.1.contains (h.srcEp.toNat, h.srcPart.val)
      (∀ x, done = some x → exec (.collectivePull h att id off len) s = .next
        (((s.rxData h 2).1).sendData1 h.srcEp.toNat h.srcPart.val h.srcClass.val x.2.2.2 h.dstPart.val 3
          (((lookupTime s.fab.collTry (collKey h.dstPart.val id.toNat)).getD 0) % 65536) id.toNat 0 []).1) ∧
      (done = none → ∃ t : State, exec (.collectivePull h att id off len) s = .next t ∧ t.mem = s.mem ∧ t.queues = s.queues ∧
        t.fab.earlyPull = s.fab.earlyPull ++ [(collKey h.dstPart.val id.toNat, h.srcEp.toNat, h.srcPart.val, att.toNat, off.toNat, len.toNat)])) ∧
    (∀ v : BitVec 32, Accepts s h 0x50 4 → ∃ t : State, exec (.collectiveAnnouncement h att id v) s = .next t ∧ t.mem = s.mem ∧ t.queues = s.queues ∧
      t.fab.earlyAnn = s.fab.earlyAnn ++ [(collKey h.dstPart.val id.toNat, h.srcEp.toNat, h.srcPart.val, att.toNat, v.toNat)]) := by
  refine ⟨fun off len ha => ?_, fun v ha => ?_⟩
  · obtain ⟨-, hrx⟩ := ha.rxData
    have hdone : (s.rxData h 2).1.fab.committed = s.fab.committed := hrx.committed
    have htry : (s.rxData h 2).1.fab.collTry = s.fab.collTry := hrx.collTry
    refine ⟨fun x hx => ?_, fun hnone => ⟨(s.rxData h 2).1.modFab fun b =>
      { b with earlyPull := b.earlyPull ++ [(collKey h.dstPart.val id.toNat, h.srcEp.toNat, h.srcPart.val, att.toNat, off.toNat, len.toNat)] }, ?_, hrx.mem, hrx.queues, ?_⟩⟩
    · change Host.Outcome.next (s.rxPart h 2 _) = _
      rw [ha.rxPart hadm]
      simp only [hrx.isAborted, hlive, Bool.false_eq_true, if_false, hrx.findColl, hc, hdone, hx, htry]
    · change Host.Outcome.next (s.rxPart h 2 _) = _
      rw [ha.rxPart hadm]
      simp only [hrx.isAborted, hlive, Bool.false_eq_true, if_false, hrx.findColl, hc, hdone, hnone]
    · exact congrArg (· ++ _) hrx.earlyPull
  · obtain ⟨-, hrx⟩ := ha.rxData
    refine ⟨(s.rxData h 4).1.modFab fun b =>
      { b with earlyAnn := b.earlyAnn ++ [(collKey h.dstPart.val id.toNat, h.srcEp.toNat, h.srcPart.val, att.toNat, v.toNat)] }, ?_, hrx.mem, hrx.queues, ?_⟩
    · change Host.Outcome.next (s.rxPart h 4 _) = _
      rw [ha.rxPart hadm]
      simp only [hrx.isAborted, hlive, Bool.false_eq_true, if_false, hrx.findColl, hc]
    · exact congrArg (· ++ _) hrx.earlyAnn

/-- A digest that the configuration awaits is kept for the comparison (R189, R190). -/
theorem digest_kept {h : PftHdr} {s : State} (hadm : (s.part h.dstPart.val).admitted = true) (hlen : s.parts.length = 16) {k : BitVec 4} {step : BitVec 64}
    {d : Bytes} (ha : Accepts s h 0x50 5) (hmsg : h.msg.ok 0x26 = true) (hk : k.toNat < cfgMembers (s.part h.dstPart.val).stream.cfg)
    (hfrom : cfgMember (s.part h.dstPart.val).stream.cfg k.toNat = h.srcEp.toNat) (hkeep : (s.part h.dstPart.val).stream.keepsDigest step.toNat = true) :
    ∃ u : State, exec (.digestMessage h k step d) s =
        .next (((u.tryDigest h.dstPart.val).closeEpoch h.dstPart.val).epochOver h.dstPart.val (s.part h.dstPart.val).stream.epoch) ∧ u.mem = s.mem ∧
      (k.toNat, step.toNat, d) ∈ (u.part h.dstPart.val).stream.got ∧ (u.part h.dstPart.val).stream.epoch = (s.part h.dstPart.val).stream.epoch := by
  obtain ⟨-, hrx⟩ := ha.rxData
  have hp : h.dstPart.val < (s.rxData h 5).1.parts.length := by rw [hrx.parts, hlen]; exact h.dstPart.isLt
  refine ⟨(s.rxData h 5).1.modStream h.dstPart.val fun st => { st with
    got := (k.toNat, step.toNat, d) :: st.got.filter fun g =>
      !(g.1 == k.toNat && g.2.1 == step.toNat) && st.keepsDigest g.2.1 }, ?_, hrx.mem, ?_, ?_⟩
  · change Host.Outcome.next (s.rxPart h 5 _) = _
    rw [ha.rxPart hadm]
    simp only [hrx.part, hmsg, Bool.not_true, Bool.false_eq_true, if_false, Nat.not_le.2 hk, hfrom, hkeep, ne_eq, not_true_eq_false, Bool.true_eq_false, or_self]
  · rw [State.modStream, State.part_modPart_self _ hp]
    exact List.mem_cons_self
  · rw [State.modStream, State.part_modPart_self _ hp, hrx.part]

/-- Settles O40: the receipt moves the transport alone, and the packet then acts as its KIND says. -/
theorem collectivePacketsReachTheirCollective : Obligations.CollectivePacketsReachTheirCollective := by
  unfold Obligations.CollectivePacketsReachTheirCollective
  intro h s hadm hlen
  refine ⟨fun att id c r hc hr hlive => packet_of_running hadm hc hr hlive, fun att id hc hlive => packet_of_none hadm hc hlive, fun k step d ha => ⟨?_, ?_⟩⟩
  · exact fun hmsg hk hfrom hkeep => digest_kept hadm hlen ha hmsg hk hfrom hkeep
  · intro hnot
    obtain ⟨-, hrx⟩ := ha.rxData
    change Host.Outcome.next (s.rxPart h 5 _) = _
    rw [ha.rxPart hadm]
    dsimp only
    rw [hrx.part]
    obtain hmsg | hnot := hnot
    · simp only [hmsg, Bool.not_false, if_true]
    · rw [if_pos hnot, ite_self]

end Sys2Proof.Claims
end

section
/-! SUPPORT. Receive windows and the attempts into them: what an update of one leaves, and the end of an attempt with its record (R299 to R302). -/

namespace Sys2Proof.Machine

/-! An attempt of a window. -/

section
variable (w : RecvWindow)

theorem RecvWindow.key_of_try? {w : RecvWindow} {ep part a : Nat} {t : WinAttempt} (h : w.try? ep part a = some t) : t.ep = ep ∧ t.part = part ∧ t.attempt = a := by
  simpa [and_assoc] using List.find?_some h

/-- The attempt that a window has been given reads back. -/
theorem RecvWindow.try?_setTry (t : WinAttempt) : (w.setTry t).try? t.ep t.part t.attempt = some t := by
  unfold RecvWindow.setTry
  split
  next h =>
    obtain ⟨x, hx⟩ := Option.isSome_iff_exists.1 h
    have hkey := RecvWindow.key_of_try? hx
    have hcomp : ((fun y : WinAttempt => y.ep == t.ep && y.part == t.part && y.attempt == t.attempt) ∘
        fun y => if y.ep = t.ep ∧ y.part = t.part ∧ y.attempt = t.attempt then t else y) =
        fun y => y.ep == t.ep && y.part == t.part && y.attempt == t.attempt := by
      funext y
      dsimp only [Function.comp_apply]
      split
      next hy => simp [hy]
      next => rfl
    unfold RecvWindow.try? at hx ⊢
    rw [List.find?_map, hcomp, hx]
    simp [hkey]
  next h =>
    unfold RecvWindow.try? at h ⊢
    rw [List.find?_append, Option.not_isSome_iff_eq_none.1 h]
    simp

@[simp] theorem RecvWindow.window_setTry (t : WinAttempt) : (w.setTry t).window = w.window := by
  unfold RecvWindow.setTry
  split <;> rfl

@[simp] theorem RecvWindow.queue_setTry (t : WinAttempt) : (w.setTry t).queue = w.queue := by
  unfold RecvWindow.setTry
  split <;> rfl

@[simp] theorem RecvWindow.window_close (ep part a : Nat) : (w.close ep part a).window = w.window := rfl

/-- A closed attempt is in progress no more. -/
theorem RecvWindow.try?_close (ep part a : Nat) : (w.close ep part a).try? ep part a = none := by
  unfold RecvWindow.try? RecvWindow.close
  rw [List.find?_eq_none]
  intro x hx
  simpa only [Bool.not_eq_true, Bool.not_eq_true'] using (List.mem_filter.1 hx).2

end

/-! An open window of a partition. -/

theorem State.window?_congr {s t : State} {p : Nat} (h : (t.part p).windows = (s.part p).windows) (n : Nat) : t.window? p n = s.window? p n := by
  unfold State.window?
  rw [h]

theorem State.window_of_window? {s : State} {p n : Nat} {w : RecvWindow} (h : s.window? p n = some w) : w.window = n := by
  simpa using List.find?_some h

theorem State.window?_modWindow {s : State} {p n : Nat} {w : RecvWindow} {f : RecvWindow → RecvWindow} (hw : s.window? p n = some w) (hp : p < s.parts.length)
    (hf : ∀ x, (f x).window = x.window) : (s.modWindow p n f).window? p n = some (f w) := by
  have hcomp : ((fun y : RecvWindow => y.window == n) ∘ fun y => if y.window = n then f y else y) = fun y => y.window == n := by
    funext y
    dsimp only [Function.comp_apply]
    split
    · rw [hf]
    · rfl
  have hn := State.window_of_window? hw
  unfold State.window? at hw
  unfold State.window? State.modWindow
  rw [State.part_modPart_self _ hp, List.find?_map, hcomp, hw]
  simp [hn]

@[simp] theorem State.parts_length_modWindow (s : State) (p n : Nat) (f : RecvWindow → RecvWindow) : (s.modWindow p n f).parts.length = s.parts.length :=
  State.parts_length_modPart s p _

theorem State.stream_modWindow (s : State) (p n j : Nat) (f : RecvWindow → RecvWindow) : ((s.modWindow p n f).part j).stream = (s.part j).stream := by
  unfold State.modWindow
  rw [State.part_modPart]
  split
  next h => rw [h.1]
  next => rfl

/-- The room of the retention pools looks at the stream and at the slabs alone (R177). -/
theorem State.poolRoom_congr {s t : State} {p : Nat} (hstream : (t.part p).stream = (s.part p).stream) (hmem : t.mem = s.mem) (ks : List Nat) :
    t.poolRoom p ks = s.poolRoom p ks := by
  unfold State.poolRoom State.mustRetain State.slab?
  rw [hstream, hmem]

/-- While an attempt of the partition waits for the pools, POOL_WAIT reads 1 (R177, R193). -/
theorem State.poolWait_of_try {s : State} {p : Nat} {w : RecvWindow} {t : WinAttempt} (hp : p < s.parts.length) (hw : w ∈ (s.part p).windows) (ht : t ∈ w.tries)
    (hwaits : t.poolWait = true) : ((s.fixPoolWait p).part p).stream.poolWait = true := by
  have hany : ((s.part p).windows.any fun w => w.tries.any (·.poolWait)) = true := List.any_eq_true.2 ⟨w, hw, List.any_eq_true.2 ⟨t, ht, hwaits⟩⟩
  unfold State.fixPoolWait
  simp only [hany, Bool.or_true]
  split
  next h => exact h
  next => rw [State.modStream, State.part_modPart_self _ hp]

/-! The end of an attempt (R302). -/

theorem RingKept.modPart (s : State) (q p : Nat) (f : Part → Part) : RingKept s (s.modPart p f) q := ⟨.refl _, rfl, rfl, rfl, rfl, rfl⟩

/-- An update of the queue that leaves its ring and its commands. -/
theorem RingKept.modQueue (s : State) (q : Nat) (f : Queue → Queue) (hring : ∀ x, Queue.SameRing x (f x)) (hfifo : ∀ x, (f x).fifo = x.fifo) :
    RingKept s (s.modQueue q f) q := by
  have hself : (s.queue q).SameRing ((s.modQueue q f).queue q) ∧ ((s.modQueue q f).queue q).fifo = (s.queue q).fifo := by
    rw [State.queue_modQueue]
    split
    · exact ⟨hring _, hfifo _⟩
    · exact ⟨rfl, rfl⟩
  exact ⟨hself.1, by rw [hself.2], s.queues_length_modQueue q f, rfl, rfl, rfl⟩

theorem RingKept.modAcct (s : State) (q : Nat) (f : Acct → Acct) : RingKept s (s.modAcct q f) q :=
  (modPart s q (s.queue q).part fun x => { x with acct := f x.acct }).trans (modQueue _ q (fun x => { x with acct := f x.acct }) (fun _ => rfl) fun _ => rfl)

theorem State.windows_modAcct (s : State) (q : Nat) (f : Acct → Acct) : (s.modAcct q f).parts.map Part.windows = s.parts.map Part.windows :=
  map_updAt Part.windows _ _ _ {} rfl

/-- The device range after the end of an attempt with a status: a commit writes the tiles whose slabs are still there. -/
def State.attemptDev (s : State) (t : WinAttempt) (status : Nat) : Memory :=
  if status = 0 then Memory.puts s.mem.dev (t.writes.filter fun c => (s.slab? (keyOf c.1)).isSome) else s.mem.dev

/-- The state in which the slabs of an attempt that ends with a status have been committed or dropped. -/
def State.settledTry (s : State) (p : Nat) (t : WinAttempt) (status : Nat) : State :=
  if status = 0 then s.settleSlabs p (t.slabs.filter fun x => (s.slab? x.1).isSome) (t.writes.filter fun c => (s.slab? (keyOf c.1)).isSome) else s

/-- The wait of an attempt for the pools is counted in the accounting of its receive queue (R277). -/
def State.countTry (s : State) (q : Nat) (t : WinAttempt) : State :=
  match t.poolFrom with
  | some f => s.modAcct q fun a => a.addWait (s.nowUs - f)
  | none => s

/-- The state of an attempt that ends with a status just before its record. -/
def State.closedTry (s : State) (p : Nat) (w : RecvWindow) (t : WinAttempt) (status : Nat) : State :=
  ((s.settledTry p t status).modWindow p w.window fun x => x.close t.ep t.part t.attempt).countTry w.queue t

theorem State.endAttempt_eq (s : State) (p : Nat) (w : RecvWindow) (t : WinAttempt) (status : Nat) : s.endAttempt p w t status =
    ((s.closedTry p w t status).putRecord w.queue ((s.closedTry p w t status).attemptRecord t status)).fixPoolWait p := rfl

theorem Apart.settledTry (s : State) (p : Nat) (t : WinAttempt) (status : Nat) : Apart (s.setDev (s.attemptDev t status)) (s.settledTry p t status) := by
  unfold State.attemptDev State.settledTry
  split
  · exact settleSlabs s p _ _
  · exact refl s

theorem State.countTry_keeps (s : State) (q : Nat) (t : WinAttempt) :
    RingKept s (s.countTry q t) q ∧ (s.countTry q t).mem = s.mem ∧ (s.countTry q t).parts.map Part.windows = s.parts.map Part.windows := by
  unfold State.countTry
  split
  · exact ⟨.modAcct _ _ _, rfl, State.windows_modAcct _ _ _⟩
  · exact ⟨.refl _ _, rfl, rfl⟩

/-- Before its record the attempt has left its window, and its bytes are in place. -/
theorem State.closedTry_leaves {s : State} {p : Nat} {w : RecvWindow} (t : WinAttempt) (status : Nat) (hw : s.window? p w.window = some w) (hp : p < s.parts.length) :
    RingKept s (s.closedTry p w t status) w.queue ∧ (s.closedTry p w t status).mem.dev = s.attemptDev t status ∧
      (s.closedTry p w t status).window? p w.window = some (w.close t.ep t.part t.attempt) := by
  have ha := Apart.settledTry s p t status
  have hcount : (s.settledTry p t status).parts.length = s.parts.length := by
    have h := congrArg List.length ha.windows
    rwa [List.length_map, List.length_map] at h
  obtain ⟨hkept, hmem, hwindows⟩ := State.countTry_keeps ((s.settledTry p t status).modWindow p w.window fun x => x.close t.ep t.part t.attempt) w.queue t
  refine ⟨(((RingKept.setDev s _ _).trans (.of_apart ha _)).trans (.modPart _ _ _ _)).trans hkept, (congrArg Mem.dev hmem).trans ha.dev, ?_⟩
  refine (State.window?_congr (State.part_field_of_map hwindows p) _).trans ?_
  exact State.window?_modWindow ((State.window?_congr (ha.part_windows p) _).trans hw) (hcount ▸ hp) fun _ => rfl

/-- An attempt that ends leaves its window, and its record is the next of the receive queue. -/
theorem State.endAttempt_leaves {s : State} {p : Nat} {w : RecvWindow} (t : WinAttempt) (status : Nat) (hw : s.window? p w.window = some w)
    (hp : p < s.parts.length) (hq : w.queue < 64) (hring : Claims.TakesRecord s w.queue) (hwf : Memory.wf s.mem.hostMem = true) :
    (s.endAttempt p w t status).window? p w.window = some (w.close t.ep t.part t.attempt) ∧ (s.endAttempt p w t status).mem.dev = s.attemptDev t status ∧
      field (Claims.nextRecord s (s.endAttempt p w t status) w.queue) 6 2 = status % 65536 ∧
      ∀ n tag, t.notice = some (n, tag) → tag < 256 ^ 8 → field (Claims.nextRecord s (s.endAttempt p w t status) w.queue) 8 8 = tag := by
  obtain ⟨hcount, hheld, hroom, hout⟩ := hring
  obtain ⟨hkept, hdev, hwin⟩ := State.closedTry_leaves t status hw hp
  have hless := of_decide_eq_true hroom
  rw [State.endAttempt_eq]
  generalize s.closedTry p w t status = d at hkept hdev hwin ⊢
  have hwrite := WritesRecord.putRecord (s := d) (q := w.queue) (d.attemptRecord t status) (by rw [hkept.count, hcount]; exact hq)
    ((hkept.queue.same Queue.heldRecs fun _ _ _ _ _ => rfl).trans hheld)
    (by rw [hkept.queue.same Queue.cqRoom fun _ _ _ _ _ => rfl]; omega) (hkept.outbound.trans hout)
  have hfix := Apart.fixPoolWait (d.putRecord w.queue (d.attemptRecord t status)) p
  have hrecord : Claims.nextRecord s ((d.putRecord w.queue (d.attemptRecord t status)).fixPoolWait p) w.queue = (d.queue w.queue).stamp (d.attemptRecord t status) := by
    have hread := hwrite.read (hkept.hostMem ▸ hwf)
    rw [hkept.queue.same Queue.nextAt fun _ _ _ _ _ => rfl, show ((d.queue w.queue).stamp (d.attemptRecord t status)).length = 32 from Queue.stamp_length ..] at hread
    exact (congrArg (fun m => Memory.read m _ 32) hfix.hostMem).trans hread
  refine ⟨?_, hfix.dev.trans (hwrite.dev.trans hdev), ?_, fun n tag hn htag => ?_⟩
  · exact (State.window?_congr ((hfix.part_windows p).trans (congrArg Part.windows (State.part_congr hwrite.parts p))) _).trans hwin
  · rw [hrecord]
    exact Queue.stamp_status ..
  · rw [hrecord, State.attemptRecord, hn]
    exact Queue.stamp_tag _ _ _ _ _ _ _ _ htag

end Sys2Proof.Machine
end

section
/-! SUPPORT. Tiles and notices of an attempt: the packet of a live attempt reaches it, and an attempt whose notice has come ends as R302 says (R299 to R302). -/

namespace Sys2Proof.Machine

/-! The attempt that a packet names. -/

/-- The attempt as its next tile finds it: a first tile opens it and starts its time (R302). -/
def State.tileTry (s : State) (w : RecvWindow) (h : PftHdr) (a : Nat) : WinAttempt :=
  let t := (w.try? h.srcEp.toNat h.srcPart.val a).getD { ep := h.srcEp.toNat, part := h.srcPart.val, attempt := a }
  { t with firstUs := some (t.firstUs.getD s.nowUs) }

theorem State.tileTry_key (s : State) (w : RecvWindow) (h : PftHdr) (a : Nat) :
    (s.tileTry w h a).ep = h.srcEp.toNat ∧ (s.tileTry w h a).part = h.srcPart.val ∧ (s.tileTry w h a).attempt = a := by
  unfold State.tileTry
  cases ht : w.try? h.srcEp.toNat h.srcPart.val a with
  | none => exact ⟨rfl, rfl, rfl⟩
  | some t =>
    have hkey := RecvWindow.key_of_try? ht
    exact hkey

/-! The slabs that an attempt draws (R300). -/

/-- A draw of a staging slab changes nothing but the count of the draws. -/
theorem State.takeStage_state (s : State) (p cls : Nat) (t1Only : Bool) (home : Option Tier) (die : Option Nat) :
    (s.takeStage p cls t1Only home die).2 = { s with fresh := (s.takeStage p cls t1Only home die).2.fresh } := by
  unfold State.takeStage
  dsimp only
  split
  · rfl
  · generalize (if s.onlyNear p = true then _ else _ : List (Tier × Option Nat)) = l
    split <;> rfl

/-- From `s` to `t` draws were made and partitions updated, nothing else. -/
structure DrawsFor (s t : State) : Prop where
  state : t = { s with fresh := t.fresh, parts := t.parts }
  count : t.parts.length = s.parts.length

namespace DrawsFor

theorem trans {s t u : State} (h : DrawsFor s t) (k : DrawsFor t u) : DrawsFor s u := ⟨k.state.trans (by rw [h.state]), k.count.trans h.count⟩

theorem modWindow (s : State) (p n : Nat) (f : RecvWindow → RecvWindow) : DrawsFor s (s.modWindow p n f) := ⟨rfl, s.parts_length_modWindow p n f⟩

theorem takeStage (s : State) (p cls : Nat) (t1Only : Bool) (home : Option Tier) (die : Option Nat) : DrawsFor s (s.takeStage p cls t1Only home die).2 := by
  have h := s.takeStage_state p cls t1Only home die
  have hparts : (s.takeStage p cls t1Only home die).2.parts = s.parts := by rw [h]
  exact ⟨h.trans (by rw [hparts]), by rw [hparts]⟩

section
variable {s t : State} (h : DrawsFor s t)
include h

theorem mem : t.mem = s.mem := by rw [h.state]
theorem queues : t.queues = s.queues := by rw [h.state]
theorem rxNew (k : PftHdr) : t.rxNew k = s.rxNew k := by rw [h.state]; rfl

end

end DrawsFor

/-- The attempt of a window has drawn staging slabs, and the window holds it. -/
theorem State.holdSlabs_some {s b : State} {p wn ep part a : Nat} {w : RecvWindow} {t : WinAttempt} {ks : List Nat} (hb : State.holdSlabs s p wn t ks = some b)
    (hw : s.window? p wn = some w) (hp : p < s.parts.length) (hkey : t.ep = ep ∧ t.part = part ∧ t.attempt = a) :
    DrawsFor s b ∧ ∃ w' l, b.window? p wn = some w' ∧ w'.try? ep part a = some { t with slabs := l } := by
  have hset (u : State) (x : RecvWindow) (hu : u.window? p wn = some x) (hpu : p < u.parts.length) (t : WinAttempt) :
      (u.modWindow p wn fun y => y.setTry t).window? p wn = some (x.setTry t) := State.window?_modWindow hu hpu fun y => y.window_setTry t
  induction ks generalizing s t w with
  | nil =>
    cases hb
    obtain ⟨rfl, rfl, rfl⟩ := hkey
    exact ⟨.modWindow s p wn _, w.setTry t, t.slabs, hset s w hw hp t, w.try?_setTry t⟩
  | cons k r ih =>
    unfold State.holdSlabs at hb
    split at hb
    · cases hb
    next x u hu =>
      have hdraw := DrawsFor.takeStage s p 3 (s.t1Slab k) (s.homeOf [] k) (((s.slab? k).bind (·.pieceCore)).map (· / 200))
      have hparts : u.parts = s.parts := by
        have h := s.takeStage_state p 3 (s.t1Slab k) (s.homeOf [] k) (((s.slab? k).bind (·.pieceCore)).map (· / 200))
        rw [hu] at h
        have hu' : u = { s with fresh := u.fresh } := h
        rw [hu']
      rw [hu] at hdraw
      have hwu : u.window? p wn = some w := (State.window?_congr (congrArg Part.windows (State.part_congr hparts p)) wn).trans hw
      obtain ⟨hrest, w', l, hw', ht'⟩ := ih hb (hset u w hwu (hparts ▸ hp) _) (by rw [State.parts_length_modWindow, hparts]; exact hp) hkey
      exact ⟨(hdraw.trans (.modWindow u p wn _)).trans hrest, w', l, hw', ht'⟩

/-! The cases of R302 once a notice has come. -/

section
variable {s : State} {p wn ep part a n tag : Nat} {w : RecvWindow} {t : WinAttempt} (hw : s.window? p wn = some w) (ht : w.try? ep part a = some t)
include hw ht

theorem State.tryEnd_of_unnoticed (hn : t.notice = none) : s.tryEnd p wn ep part a = s := by
  unfold State.tryEnd
  simp only [hw, ht, hn]

theorem State.tryEnd_of_bad (hn : t.notice = some (n, tag)) (hbad : t.bad = true) : s.tryEnd p wn ep part a = s.endAttempt p w t 0x0505 := by
  unfold State.tryEnd
  simp only [hw, ht, hn, hbad, if_true]

theorem State.tryEnd_of_missing (hn : t.notice = some (n, tag)) (hbad : t.bad = false) (hgot : t.got < n) : s.tryEnd p wn ep part a = s := by
  unfold State.tryEnd
  simp only [hw, ht, hn, hbad, Bool.false_eq_true, if_false, hgot, if_true]

theorem State.tryEnd_of_whole (hn : t.notice = some (n, tag)) (hbad : t.bad = false) (hgot : n ≤ t.got) (hroom : (s.queue w.queue).ringRoom = true) :
    s.tryEnd p wn ep part a = if s.poolRoom p (t.slabs.map (·.1)) then s.endAttempt p w t 0
      else (s.modWindow p wn fun x => x.setTry { t with poolWait := true, poolFrom := some (t.poolFrom.getD s.nowUs) }).fixPoolWait p := by
  unfold State.tryEnd
  simp only [hw, ht, hn, hbad, Bool.false_eq_true, if_false, Nat.not_lt.2 hgot, hroom, if_true]

end

/-! What a tile does (R300, R302). -/

section
variable {s : State} {h : PftHdr} {w : RecvWindow} {a off : Nat} {data : Bytes}

/-- A tile of a permitted sender inside the window breaks none of its limits. -/
theorem RecvWindow.inside (hfrom : w.senders.contains (h.srcEp.toNat, h.srcPart.val) = true) (hin : off + data.length ≤ w.bytes) :
    (!w.senders.contains (h.srcEp.toNat, h.srcPart.val) || decide (w.bytes < off + data.length)) = false := by
  rw [hfrom, decide_eq_false (Nat.not_lt.2 hin)]
  rfl

/-- A tile whose attempt holds its slabs adds its bytes. -/
theorem State.takeTile_of_held {b : State} {w1 : RecvWindow} {t1 : WinAttempt} (hfrom : w.senders.contains (h.srcEp.toNat, h.srcPart.val) = true)
    (hin : off + data.length ≤ w.bytes) (hgood : (s.tileTry w h a).bad = false)
    (hb : State.holdSlabs s h.dstPart.val w.window (s.tileTry w h a) (w.missing (s.tileTry w h a) off data.length) = some b) (hok : (b.rxAccept h).2 = true)
    (hw1 : b.window? h.dstPart.val w.window = some w1) (ht1 : w1.try? h.srcEp.toNat h.srcPart.val a = some t1) :
    s.takeTile h w a off data =
      (((b.rxAccept h).1.meterBytes h.dstPart.val (stagedLow t1.slabs [(w.base + off, data.length)])).modWindow h.dstPart.val w.window fun x =>
        x.setTry { t1 with got := t1.got + data.length, writes := t1.writes ++ cellsAt (w.base + off) data }).tryEnd
          h.dstPart.val w.window h.srcEp.toNat h.srcPart.val a := by
  unfold State.takeTile
  dsimp only
  refine (if_neg ?_).trans ?_
  · rw [Bool.not_eq_true, Bool.or_eq_false_iff]
    exact ⟨RecvWindow.inside hfrom hin, hgood⟩
  · split
    next hnone => exact absurd (hnone.symm.trans hb) (by simp)
    next b' hsome =>
      obtain rfl := Option.some.inj (hsome.symm.trans hb)
      simp only [hok, hw1, ht1, Bool.not_true, Bool.false_eq_true, if_false, Option.bind_some, Option.getD_some]

/-- A tile that finds no staging slab is dropped and counted (R300). -/
theorem State.takeTile_of_full (hfrom : w.senders.contains (h.srcEp.toNat, h.srcPart.val) = true) (hin : off + data.length ≤ w.bytes)
    (hgood : (s.tileTry w h a).bad = false)
    (hb : State.holdSlabs s h.dstPart.val w.window (s.tileTry w h a) (w.missing (s.tileTry w h a) off data.length) = none) :
    s.takeTile h w a off data = s.fabDrop.refillOnce h.dstPart.val := by
  unfold State.takeTile
  dsimp only
  refine (if_neg ?_).trans ?_
  · rw [Bool.not_eq_true, Bool.or_eq_false_iff]
    exact ⟨RecvWindow.inside hfrom hin, hgood⟩
  · split
    next => rfl
    next b' hsome => exact absurd (hsome.symm.trans hb) (by simp)

/-- A tile outside the window, or of another sender, marks its attempt as bad (R302). -/
theorem State.takeTile_of_outside (hout : w.senders.contains (h.srcEp.toNat, h.srcPart.val) = false ∨ w.bytes < off + data.length) (hok : (s.rxAccept h).2 = true) :
    s.takeTile h w a off data =
      ((if (s.tileTry w h a).bad then (s.rxAccept h).1 else (s.rxAccept h).1.fabDrop).modWindow h.dstPart.val w.window fun x =>
        x.setTry { s.tileTry w h a with bad := true, got := (s.tileTry w h a).got + data.length, slabs := [], writes := [] }).tryEnd
          h.dstPart.val w.window h.srcEp.toNat h.srcPart.val a := by
  have hbad : (!w.senders.contains (h.srcEp.toNat, h.srcPart.val) || decide (w.bytes < off + data.length)) = true := by
    obtain hout | hout := hout
    · rw [hout]; rfl
    · rw [decide_eq_true hout, Bool.or_true]
  unfold State.takeTile State.tileTry
  simp only [hbad, Bool.true_or, if_true, hok, Bool.not_true, Bool.false_eq_true, if_false]

/-- The window after its attempt has been replaced by one whose notice has not come. -/
theorem State.tryEnd_of_setTry {t : WinAttempt} (hw : s.window? h.dstPart.val w.window = some w) (hp : h.dstPart.val < s.parts.length)
    (hkey : t.ep = h.srcEp.toNat ∧ t.part = h.srcPart.val ∧ t.attempt = a) (hn : t.notice = none) :
    let u := s.modWindow h.dstPart.val w.window fun x => x.setTry t
    u.tryEnd h.dstPart.val w.window h.srcEp.toNat h.srcPart.val a = u ∧ u.window? h.dstPart.val w.window = some (w.setTry t) ∧
      (w.setTry t).try? h.srcEp.toNat h.srcPart.val a = some t := by
  obtain ⟨hep, hpart, hatt⟩ := hkey
  have hwu := State.window?_modWindow hw hp fun x => x.window_setTry t
  have htu : (w.setTry t).try? h.srcEp.toNat h.srcPart.val a = some t := by rw [← hep, ← hpart, ← hatt]; exact w.try?_setTry t
  exact ⟨State.tryEnd_of_unnoticed hwu htu hn, hwu, htu⟩

end

/-! Notices that reach a window. -/

/-- The state once a commit notice has been noted in its attempt. -/
def State.noticed (s : State) (p wn : Nat) (t : WinAttempt) (n tag : Nat) : State :=
  (s.modFab fun b => { b with noticeOrder := s.fab.noticeOrder + 1 }).modWindow p wn fun x =>
    x.setTry { t with notice := some (n, tag), order := s.fab.noticeOrder + 1 }

/-- In `v`, which has the memory, the queues, the link and the pools of `s`, the window `w` of partition `p` with number `wn` holds attempt `t`. -/
structure Holds (s v : State) (p wn ep part a : Nat) (w : RecvWindow) (t : WinAttempt) : Prop where
  window : v.window? p wn = some w
  attempt : w.try? ep part a = some t
  lt : p < v.parts.length
  mem : v.mem = s.mem
  queues : v.queues = s.queues
  link : v.link = s.link
  pool : ∀ ks, v.poolRoom p ks = s.poolRoom p ks

/-- A commit notice of an attempt in progress is noted there (R302). -/
theorem Holds.noticed {s r : State} {p wn ep part a : Nat} {w : RecvWindow} {t : WinAttempt} (h : Holds s r p wn ep part a w t) (n tag : Nat) :
    ∃ w' t', Holds s (r.noticed p wn t n tag) p wn ep part a w' t' ∧ w'.queue = w.queue ∧ t' = { t with notice := some (n, tag), order := t'.order } := by
  obtain ⟨hwin, htry, hlt, hmem, hqueues, hlink, hpool⟩ := h
  obtain ⟨rfl, rfl, rfl⟩ := RecvWindow.key_of_try? htry
  refine ⟨_, _, ⟨State.window?_modWindow hwin hlt fun x => x.window_setTry _, w.try?_setTry _, ?_, hmem, hqueues, hlink, fun ks => ?_⟩, w.queue_setTry _, rfl⟩
  · exact (State.parts_length_modWindow _ _ _ _).symm ▸ hlt
  · exact (State.poolRoom_congr (State.stream_modWindow _ _ _ _ _) rfl ks).trans (hpool ks)

section
variable {s v : State} {p wn ep part a n tag : Nat} {w : RecvWindow} {t : WinAttempt} (h : Holds s v p wn ep part a w t)
include h

/-- An attempt in progress that ends leaves its window with its record (R302). -/
theorem Holds.endAttempt (status : Nat) (hq : w.queue < 64) (hring : Claims.TakesRecord s w.queue) (hcanon : Safety.MemoryCanonical s) :
    (∃ w', (v.endAttempt p w t status).window? p wn = some w' ∧ w'.try? ep part a = none) ∧
      (v.endAttempt p w t status).mem.dev = s.attemptDev t status ∧
      field (Claims.nextRecord s (v.endAttempt p w t status) w.queue) 6 2 = status % 65536 ∧
      ∀ n tag, t.notice = some (n, tag) → tag < 256 ^ 8 → field (Claims.nextRecord s (v.endAttempt p w t status) w.queue) 8 8 = tag := by
  obtain ⟨hwin, htry, hlt, hmem, hqueues, hlink, -⟩ := h
  obtain ⟨rfl, rfl, rfl⟩ := RecvWindow.key_of_try? htry
  obtain rfl := State.window_of_window? hwin
  obtain ⟨hcount, hheld, hroom, hout⟩ := hring
  have hqueue := State.queue_congr hqueues w.queue
  have hring' : Claims.TakesRecord v w.queue :=
    ⟨(congrArg List.length hqueues).trans hcount, hqueue ▸ hheld, hqueue ▸ hroom, (congrArg (fun l : Link => l.st == .l0 && !l.d3hot && !l.losing) hlink).trans hout⟩
  obtain ⟨hgone, hdev, hstatus, htag⟩ := State.endAttempt_leaves t status hwin hlt hq hring' (hmem ▸ hcanon.2)
  have hnext : Claims.nextRecord v (v.endAttempt p w t status) w.queue = Claims.nextRecord s (v.endAttempt p w t status) w.queue := by
    unfold Claims.nextRecord
    rw [hqueue]
  rw [hnext] at hstatus htag
  refine ⟨⟨_, hgone, w.try?_close _ _ _⟩, hdev.trans ?_, hstatus, htag⟩
  unfold State.attemptDev State.slab?
  rw [hmem]

/-- A whole attempt commits once its notice has come (R263, R302). -/
theorem Holds.commits (hn : t.notice = some (n, tag)) (htag : tag < 256 ^ 8) (hbad : t.bad = false) (hgot : n ≤ t.got) (hq : w.queue < 64)
    (hring : Claims.TakesRecord s w.queue) (hcanon : Safety.MemoryCanonical s) (hpool : s.poolRoom p (t.slabs.map (·.1)) = true) :
    let u := v.tryEnd p wn ep part a
    (∃ w', u.window? p wn = some w' ∧ w'.try? ep part a = none) ∧
      u.mem.dev = Memory.puts s.mem.dev (t.writes.filter fun c => (s.slab? (keyOf c.1)).isSome) ∧
      field (Claims.nextRecord s u w.queue) 6 2 = 0 ∧ field (Claims.nextRecord s u w.queue) 8 8 = tag := by
  dsimp only
  rw [State.tryEnd_of_whole h.window h.attempt hn hbad hgot ((congrArg Queue.ringRoom (State.queue_congr h.queues _)).trans hring.2.2.1),
    if_pos ((h.pool _).trans hpool)]
  obtain ⟨hgone, hdev, hstatus, htags⟩ := h.endAttempt 0 hq hring hcanon
  exact ⟨hgone, hdev, hstatus, htags n tag hn htag⟩

/-- A whole attempt waits while the retention pools are full (R177). -/
theorem Holds.waits (hn : t.notice = some (n, tag)) (hbad : t.bad = false) (hgot : n ≤ t.got) (hring : Claims.TakesRecord s w.queue)
    (hpool : s.poolRoom p (t.slabs.map (·.1)) = false) :
    let u := v.tryEnd p wn ep part a
    ∃ (w' : RecvWindow) (t' : WinAttempt), u.mem = s.mem ∧ u.queues = s.queues ∧ u.window? p wn = some w' ∧ w'.try? ep part a = some t' ∧ t'.poolWait = true ∧
      t'.writes = t.writes ∧ (u.part p).stream.poolWait = true := by
  obtain ⟨rfl, rfl, rfl⟩ := RecvWindow.key_of_try? h.attempt
  dsimp only
  rw [State.tryEnd_of_whole h.window h.attempt hn hbad hgot ((congrArg Queue.ringRoom (State.queue_congr h.queues _)).trans hring.2.2.1),
    if_neg (by rw [h.pool, hpool]; exact Bool.false_ne_true)]
  have hwin := State.window?_modWindow h.window h.lt fun x => x.window_setTry { t with poolWait := true, poolFrom := some (t.poolFrom.getD v.nowUs) }
  have htry := w.try?_setTry { t with poolWait := true, poolFrom := some (t.poolFrom.getD v.nowUs) }
  have hfix := Apart.fixPoolWait (v.modWindow p wn fun x => x.setTry { t with poolWait := true, poolFrom := some (t.poolFrom.getD v.nowUs) }) p
  refine ⟨_, _, (State.mem_fixPoolWait _ _).trans h.mem, hfix.queues.trans h.queues, (State.window?_congr (hfix.part_windows p) _).trans hwin, htry, rfl, rfl, ?_⟩
  exact State.poolWait_of_try ((State.parts_length_modWindow _ _ _ _).symm ▸ h.lt) (List.mem_of_find?_eq_some hwin) (List.mem_of_find?_eq_some htry) rfl

/-- An attempt that a tile has spoilt ends with 0x0505 (R302). -/
theorem Holds.fails (hn : t.notice = some (n, tag)) (hbad : t.bad = true) (hq : w.queue < 64) (hring : Claims.TakesRecord s w.queue)
    (hcanon : Safety.MemoryCanonical s) :
    let u := v.tryEnd p wn ep part a
    (∃ w', u.window? p wn = some w' ∧ w'.try? ep part a = none) ∧ u.mem.dev = s.mem.dev ∧ field (Claims.nextRecord s u w.queue) 6 2 = 0x0505 := by
  dsimp only
  rw [State.tryEnd_of_bad h.window h.attempt hn hbad]
  obtain ⟨hgone, hdev, hstatus, -⟩ := h.endAttempt 0x0505 hq hring hcanon
  exact ⟨hgone, hdev, hstatus⟩

end

end Sys2Proof.Machine
end

section
open Sys2Proof Sys2Proof.Machine

namespace Sys2Proof.Claims

section
variable {s : State} {h : PftHdr} {w : RecvWindow} {a : Nat}

/-- A tile of a live attempt reaches its window (R300, R302). -/
theorem Accepts.windowTile (ha : Accepts s h 0x50 0) (hlive : Live s h w a) (off : Nat) (data : Bytes) :
    s.windowTile h w.window a off data = s.awake.takeTile h w a off data := by
  obtain ⟨hadm, hw, hnew, -⟩ := hlive
  have hr := Received.awake s
  unfold State.windowTile
  simp only [ha.rxOpen, Bool.not_true, Bool.false_eq_true, if_false, State.rxNew_awake, ha.new, ha.kindIs, bne_self_eq_false, Bool.or_self, hr.part, hadm, if_true,
    hr.window?, hw, hnew]

/-- A tile for a window that is not open is counted and dropped (R302, R448). -/
theorem Accepts.windowTile_of_closed (ha : Accepts s h 0x50 0) {wn : Nat} (hw : s.window? h.dstPart.val wn = none) (a off : Nat) (data : Bytes) :
    s.windowTile h wn a off data = (s.awake.rxAccept h).1.fabDrop := by
  have hr := Received.awake s
  unfold State.windowTile State.acceptDrop
  simp only [ha.rxOpen, Bool.not_true, Bool.false_eq_true, if_false, State.rxNew_awake, ha.new, ha.kindIs, bne_self_eq_false, Bool.or_self, hr.window?, hw,
    ite_self, (State.rxAccept_awake ha.new).1, if_true]

/-- A notice of a live attempt reaches it (R302). -/
theorem Accepts.notice {kind : Nat} (ha : Accepts s h 0x52 kind) (hlive : Live s h w a) {t : WinAttempt} (ht : tryOf w h a = some t)
    (f : State → RecvWindow → WinAttempt → State) : s.notice h kind w.window a f = f (s.rx h 0x52 kind).1 w t := by
  obtain ⟨hadm, hw, hnew, -⟩ := hlive
  obtain ⟨hok, hr⟩ := ha.rx
  have ht' : w.try? h.srcEp.toNat h.srcPart.val a = some t := ht
  unfold State.notice
  simp only [hok, Bool.not_true, Bool.false_eq_true, if_false, hr.part, hadm, if_true, hr.window?, hw, hnew, ht', Option.isNone_some, Bool.false_and,
    Option.getD_some]

/-- The attempt that a tile finds does not depend on the wake that its arrival brings. -/
theorem tileTry_awake (s : State) (w : RecvWindow) (h : PftHdr) (a : Nat) : s.awake.tileTry w h a = s.tileTry w h a := by
  unfold State.tileTry
  rw [(Received.awake s).nowUs]

/-- A tile inside the window of a permitted sender adds its bytes to the attempt (R300, R302). -/
theorem tile_added (ha : Accepts s h 0x50 0) (hlive : Live s h w a) {off : Nat} {data : Bytes} (hnotice : (s.tileTry w h a).notice = none)
    (hfrom : w.senders.contains (h.srcEp.toNat, h.srcPart.val) = true) (hin : off + data.length ≤ w.bytes) (hgood : (s.tileTry w h a).bad = false) {b : State}
    (hb : State.holdSlabs s.awake h.dstPart.val w.window (s.tileTry w h a) (w.missing (s.tileTry w h a) off data.length) = some b) :
    ∃ (u : State) (w' : RecvWindow) (t' : WinAttempt), s.windowTile h w.window a off data = u ∧ u.window? h.dstPart.val w.window = some w' ∧
      tryOf w' h a = some t' ∧ t'.got = (s.tileTry w h a).got + data.length ∧ t'.writes = (s.tileTry w h a).writes ++ cellsAt (w.base + off) data ∧
      t'.bad = false ∧ t'.firstUs = (s.tileTry w h a).firstUs ∧ u.mem.dev = s.mem.dev ∧ u.queues = s.queues := by
  have hr := Received.awake s
  have hw := hlive.2.1
  have hp : h.dstPart.val < s.awake.parts.length := by rw [hr.parts, hlive.2.2.2]; exact h.dstPart.isLt
  have hkey := s.tileTry_key w h a
  obtain ⟨hdraws, w1, l, hw1, ht1⟩ := State.holdSlabs_some hb ((hr.window? _ _).trans hw) hp hkey
  obtain ⟨hok, hacc⟩ := State.rxAccept_of_new (s := b) (h := h) (by rw [hdraws.rxNew, State.rxNew_awake]; exact ha.new)
  have htile := (ha.windowTile hlive off data).trans (State.takeTile_of_held hfrom hin (by rwa [tileTry_awake]) (by rwa [tileTry_awake]) hok hw1 ht1)
  have hp1 : h.dstPart.val < (b.rxAccept h).1.parts.length := by rw [hacc.parts, hdraws.count]; exact hp
  obtain ⟨hend, hwu, htu⟩ := State.tryEnd_of_setTry (w := w1)
    (s := (b.rxAccept h).1.meterBytes h.dstPart.val (stagedLow l [(w.base + off, data.length)]))
    (t := { s.tileTry w h a with slabs := l, got := (s.tileTry w h a).got + data.length, writes := (s.tileTry w h a).writes ++ cellsAt (w.base + off) data })
    (a := a) (h := h) (by rw [State.window_of_window? hw1]; exact (hacc.window? _ _).trans hw1) hp1 hkey hnotice
  rw [State.window_of_window? hw1] at hend hwu
  refine ⟨_, _, _, htile.trans hend, hwu, htu, rfl, rfl, hgood, rfl, ?_, ?_⟩
  · exact (congrArg Mem.dev hacc.mem).trans ((congrArg Mem.dev hdraws.mem).trans (congrArg Mem.dev hr.mem))
  · exact hacc.queues.trans (hdraws.queues.trans hr.queues)

/-- A tile outside the window, or of another sender, marks the attempt as bad, and the first such is counted (R302, R448). -/
theorem tile_refused (ha : Accepts s h 0x50 0) (hlive : Live s h w a) {off : Nat} {data : Bytes} (hnotice : (s.tileTry w h a).notice = none)
    (hout : w.senders.contains (h.srcEp.toNat, h.srcPart.val) = false ∨ w.bytes < off + data.length) :
    ∃ (u : State) (w' : RecvWindow) (t' : WinAttempt), s.windowTile h w.window a off data = u ∧ u.window? h.dstPart.val w.window = some w' ∧
      tryOf w' h a = some t' ∧ t'.bad = true ∧ t'.writes = [] ∧ u.mem = s.mem ∧
      ((s.tileTry w h a).bad = false → u.fab.drop = min 4294967295 (s.fab.drop + 1)) := by
  obtain ⟨hok, hr⟩ := State.rxAccept_awake ha.new
  have hw := hlive.2.1
  have htile := (ha.windowTile hlive off data).trans (State.takeTile_of_outside hout hok)
  rw [tileTry_awake] at htile
  have hp : h.dstPart.val < (s.awake.rxAccept h).1.parts.length := by rw [hr.parts, hlive.2.2.2]; exact h.dstPart.isLt
  have hv : ∀ v : State, v.parts = (s.awake.rxAccept h).1.parts → v.window? h.dstPart.val w.window = some w ∧ h.dstPart.val < v.parts.length := fun v hv =>
    ⟨(State.window?_congr (congrArg Part.windows (State.part_congr hv _)) _).trans ((hr.window? _ _).trans hw), hv ▸ hp⟩
  let v := if (s.tileTry w h a).bad then (s.awake.rxAccept h).1 else (s.awake.rxAccept h).1.fabDrop
  have hvparts : v.parts = (s.awake.rxAccept h).1.parts ∧ v.mem = (s.awake.rxAccept h).1.mem := by
    simp only [v]
    split <;> exact ⟨rfl, rfl⟩
  obtain ⟨hwv, hpv⟩ := hv v hvparts.1
  obtain ⟨hend, hwu, htu⟩ := State.tryEnd_of_setTry (s := v)
    (t := { s.tileTry w h a with bad := true, got := (s.tileTry w h a).got + data.length, slabs := [], writes := [] }) hwv hpv (s.tileTry_key w h a) hnotice
  refine ⟨_, _, _, htile.trans hend, hwu, htu, rfl, rfl, hvparts.2.trans hr.mem, fun hgood => ?_⟩
  change v.fab.drop = _
  simp only [v, hgood, Bool.false_eq_true, if_false]
  exact congrArg (min 4294967295 <| · + 1) hr.drop

/-! Notices (R177, R302). -/

/-- A notice finds the attempt where the receipt left it. -/
theorem Accepts.holds {kind : Nat} (ha : Accepts s h 0x52 kind) (hlive : Live s h w a) {t : WinAttempt} (ht : tryOf w h a = some t) :
    Holds s (s.rx h 0x52 kind).1 h.dstPart.val w.window h.srcEp.toNat h.srcPart.val a w t := by
  obtain ⟨-, hr⟩ := ha.rx
  refine ⟨(hr.window? _ _).trans hlive.2.1, ht, ?_, hr.mem, hr.queues, hr.link, fun ks => State.poolRoom_congr (congrArg Part.stream (hr.part _)) hr.mem ks⟩
  rw [hr.parts, hlive.2.2.2]
  exact h.dstPart.isLt

theorem exec_noticeCommit (ha : Accepts s h 0x52 1) {win : BitVec 16} (hwin : win.toNat = w.window) {att : BitVec 32} (hlive : Live s h w att.toNat) {t : WinAttempt}
    (ht : tryOf w h att.toNat = some t) (bytes : BitVec 48) (tag : BitVec 64) :
    exec (.noticeCommit h win att bytes tag) s = .next (((s.rx h 0x52 1).1.noticed h.dstPart.val w.window t bytes.toNat tag.toNat).tryEnd
      h.dstPart.val w.window h.srcEp.toNat h.srcPart.val att.toNat).settle := by
  obtain ⟨hep, hpart, hatt⟩ := RecvWindow.key_of_try? ht
  change Host.Outcome.next (s.notice h 1 win.toNat att.toNat _).settle = _
  rw [hwin, ha.notice hlive ht, ← hep, ← hpart, ← hatt]
  rfl

/-- The commit notice of a live attempt commits it, ends it, or waits (R177, R302). -/
theorem commit_notice (ha : Accepts s h 0x52 1) {win : BitVec 16} (hwin : win.toNat = w.window) {att : BitVec 32} (hlive : Live s h w att.toNat) {t : WinAttempt}
    (ht : tryOf w h att.toNat = some t) (hcanon : Safety.MemoryCanonical s) (hq : w.queue < 64) (bytes : BitVec 48) (tag : BitVec 64) :
    (t.bad = false → bytes.toNat ≤ t.got → TakesRecord s w.queue →
      (s.poolRoom h.dstPart.val (t.slabs.map (·.1)) = true →
        ∃ u : State, exec (.noticeCommit h win att bytes tag) s = .next u.settle ∧
          (∃ w', u.window? h.dstPart.val w.window = some w' ∧ tryOf w' h att.toNat = none) ∧
          u.mem.dev = Memory.puts s.mem.dev (t.writes.filter fun c => (s.slab? (keyOf c.1)).isSome) ∧
          field (nextRecord s u w.queue) 6 2 = 0 ∧ field (nextRecord s u w.queue) 8 8 = tag.toNat) ∧
      (s.poolRoom h.dstPart.val (t.slabs.map (·.1)) = false →
        ∃ (u : State) (w' : RecvWindow) (t' : WinAttempt), exec (.noticeCommit h win att bytes tag) s = .next u.settle ∧ u.mem = s.mem ∧ u.queues = s.queues ∧
          u.window? h.dstPart.val w.window = some w' ∧ tryOf w' h att.toNat = some t' ∧ t'.poolWait = true ∧ t'.writes = t.writes ∧
          (u.part h.dstPart.val).stream.poolWait = true)) ∧
    (t.bad = true → TakesRecord s w.queue →
      ∃ u : State, exec (.noticeCommit h win att bytes tag) s = .next u.settle ∧
        (∃ w', u.window? h.dstPart.val w.window = some w' ∧ tryOf w' h att.toNat = none) ∧ u.mem.dev = s.mem.dev ∧
        field (nextRecord s u w.queue) 6 2 = 0x0505) ∧
    (t.bad = false → t.got < bytes.toNat →
      ∃ (u : State) (w' : RecvWindow) (t' : WinAttempt), exec (.noticeCommit h win att bytes tag) s = .next u.settle ∧ u.mem = s.mem ∧ u.queues = s.queues ∧
        u.window? h.dstPart.val w.window = some w' ∧ tryOf w' h att.toNat = some t' ∧ t'.notice = some (bytes.toNat, tag.toNat) ∧ t'.got = t.got) := by
  have hexec := exec_noticeCommit ha hwin hlive ht bytes tag
  obtain ⟨w1, t1, hholds, hqueue, ht1⟩ := (ha.holds hlive ht).noticed bytes.toNat tag.toNat
  rw [← hqueue] at hq ⊢
  have hn : t1.notice = some (bytes.toNat, tag.toNat) := by rw [ht1]
  have hbad : t1.bad = t.bad := by rw [ht1]
  have hgot : t1.got = t.got := by rw [ht1]
  have hslabs : t1.slabs = t.slabs := by rw [ht1]
  have hwrites : t1.writes = t.writes := by rw [ht1]
  rw [← hbad, ← hgot, ← hslabs, ← hwrites]
  refine ⟨fun hgood hwhole hring => ⟨fun hpool => ⟨_, hexec, ?_⟩, fun hpool => ?_⟩, fun hspoilt hring => ⟨_, hexec, hholds.fails hn hspoilt hq hring hcanon⟩,
    fun hgood hless => ⟨_, w1, t1, hexec, ?_⟩⟩
  · exact hholds.commits hn tag.isLt hgood hwhole hq hring hcanon hpool
  · obtain ⟨w', t', hrest⟩ := hholds.waits hn hgood hwhole hring hpool
    exact ⟨_, w', t', hexec, hrest⟩
  · rw [State.tryEnd_of_missing hholds.window hholds.attempt hn hgood hless]
    exact ⟨hholds.mem, hholds.queues, hholds.window, hholds.attempt, hn, rfl⟩

/-- An abort notice discards the attempt (R302). -/
theorem abort_notice (ha : Accepts s h 0x52 2) {win : BitVec 16} (hwin : win.toNat = w.window) {att : BitVec 32} (hlive : Live s h w att.toNat) {t : WinAttempt}
    (ht : tryOf w h att.toNat = some t) :
    ∃ u : State, exec (.noticeAbort h win att) s = .next u.settle ∧ (∃ w', u.window? h.dstPart.val w.window = some w' ∧ tryOf w' h att.toNat = none) ∧
      u.mem = s.mem ∧ u.queues = s.queues := by
  obtain ⟨hep, hpart, hatt⟩ := RecvWindow.key_of_try? ht
  have hholds := ha.holds hlive ht
  have hfix := Apart.fixPoolWait ((s.rx h 0x52 2).1.modWindow h.dstPart.val w.window fun x => x.close t.ep t.part t.attempt) h.dstPart.val
  refine ⟨_, ?_, ⟨w.close t.ep t.part t.attempt, (State.window?_congr (hfix.part_windows _) _).trans ?_, ?_⟩, (State.mem_fixPoolWait _ _).trans hholds.mem,
    hfix.queues.trans hholds.queues⟩
  · change Host.Outcome.next (s.notice h 2 win.toNat att.toNat _).settle = _
    rw [hwin, ha.notice hlive ht]
  · exact State.window?_modWindow hholds.window hholds.lt fun _ => rfl
  · unfold tryOf
    rw [← hep, ← hpart, ← hatt]
    exact w.try?_close _ _ _

end

/-- The deadline of the missing tiles discards the attempt with 0x0584 (R302). -/
theorem missing_tiles (p : Fin 16) (win : BitVec 16) (ep : BitVec 20) (sp : Fin 16) (w : RecvWindow) (t : WinAttempt) (n tag : Nat) (s : State)
    (hlen : s.parts.length = 16) (hw : s.window? p.val win.toNat = some w) (htries : w.tries = [t]) (hep : t.ep = ep.toNat) (hpart : t.part = sp.val)
    (hheld : t.held = false) (hbad : t.bad = false) (hn : t.notice = some (n, tag)) (hgot : t.got < n) (hring : TakesRecord s w.queue) (hq : w.queue < 64)
    (hcanon : Safety.MemoryCanonical s) :
    ∃ (u : State) (w' : RecvWindow), exec (.missingTilesDeadline p win ep sp) s = .next u.settle ∧ u.window? p.val win.toNat = some w' ∧ w'.tries = [] ∧
      u.mem.dev = s.mem.dev ∧ field (nextRecord s u w.queue) 6 2 = 0x0584 := by
  have hnum := State.window_of_window? hw
  obtain ⟨hgone, hdev, hstatus, -⟩ := State.endAttempt_leaves t 0x0584 (hnum.symm ▸ hw) (by rw [hlen]; exact p.isLt) hq hring hcanon.2
  refine ⟨_, _, ?_, hnum ▸ hgone, ?_, hdev, hstatus⟩
  · change execMissingTilesDeadline p win ep sp s = _
    unfold execMissingTilesDeadline
    simp [hw, htries, hep, hpart, hheld, hbad, hn, hgot]
  · simp [RecvWindow.close, htries]

/-- Settles O39: tiles by what the window takes, notices by what the attempt holds. -/
theorem windowAttemptsCommitOrVanish : Obligations.WindowAttemptsCommitOrVanish := by
  unfold Obligations.WindowAttemptsCommitOrVanish
  refine ⟨fun h w win a off data s ha hwin hlive => ?_, fun h win a off data s ha hw => ?_, fun h w t win a bytes tag s hwin hlive ht hcanon hq => ⟨fun ha => ?_, fun ha => ?_⟩,
    missing_tiles⟩
  · have hexec : exec (.windowTile h win a off data) s = .next (s.windowTile h w.window a.toNat off.toNat data).settle := by rw [← hwin]; rfl
    refine fun hnotice => ⟨fun hfrom hin hgood => ⟨fun b hb => ?_, fun hb => ?_⟩, fun hout => ?_⟩
    · obtain ⟨u, w', t', rfl, hrest⟩ := tile_added ha hlive hnotice hfrom hin hgood (by rw [ha.rxOpen] at hb; exact hb)
      exact ⟨_, w', t', hexec, hrest⟩
    · rw [ha.rxOpen] at hb ⊢
      rw [hexec, ha.windowTile hlive, State.takeTile_of_full hfrom hin (by rw [tileTry_awake]; exact hgood) (by rw [tileTry_awake]; exact hb)]
    · obtain ⟨u, w', t', rfl, hrest⟩ := tile_refused ha hlive hnotice hout
      exact ⟨_, w', t', hexec, hrest⟩
  · obtain ⟨-, hr⟩ := State.rxAccept_awake ha.new
    refine ⟨_, congrArg (fun u : State => Host.Outcome.next u.settle) (ha.windowTile_of_closed hw a.toNat off.toNat data), hr.mem, hr.parts, ?_⟩
    exact congrArg (min 4294967295 <| · + 1) hr.drop
  · exact commit_notice ha hwin hlive ht hcanon hq bytes tag
  · exact abort_notice ha hwin hlive ht

end Sys2Proof.Claims
end

section
/-! SUPPORT. The end of an epoch: what it sends where the destination takes every record, and what closes, abandons or decides it (R183, R185, R190). -/

namespace Sys2Proof.Machine

/-- Calm work whose observations follow the earlier ones. -/
structure CalmOut (s t : State) : Prop extends Calm s t where
  out : s.out <+: t.out

namespace CalmOut

theorem refl (s : State) : CalmOut s s := ⟨.refl s, List.prefix_refl _⟩

theorem trans {s t u : State} (h : CalmOut s t) (k : CalmOut t u) : CalmOut s u := ⟨h.toCalm.trans k.toCalm, h.out.trans k.out⟩

theorem ite {c : Prop} [Decidable c] {s a b : State} (ha : CalmOut s a) (hb : CalmOut s b) : CalmOut s (if c then a else b) := by
  split
  · exact ha
  · exact hb

theorem foldl {α : Type} (f : State → α → State) (l : List α) (s : State) (hf : ∀ s x, CalmOut s (f s x)) : CalmOut s (l.foldl f s) := by
  induction l generalizing s with
  | nil => exact refl s
  | cons x r ih => exact (hf s x).trans (ih _)

variable (s : State)

theorem of_out {s t : State} (h : Calm s t) (ho : t.out = s.out) : CalmOut s t := ⟨h, ho ▸ List.prefix_refl _⟩

theorem of_moves {s t : State} (h : Moves s t) : CalmOut s t := ⟨.of_moves h, h.out⟩

theorem emit (o : Out) : CalmOut s (s.emit o) := ⟨.of_blocks rfl rfl rfl rfl rfl rfl, List.prefix_append _ _⟩

theorem meterBytes (p n : Nat) : CalmOut s (s.meterBytes p n) := of_out (Calm.meterBytes s p n) rfl

theorem sendPkt (ep part cls axis src : Nat) (body : PktBody) : CalmOut s (s.sendPkt ep part cls axis src body).1 := by
  unfold State.sendPkt
  split
  · exact of_moves ((Moves.setFlow s _).trans (Moves.pump _ _ _ _))
  · exact refl s

theorem cellarReq (who src : Nat) (lease : Nat × Nat) (off : Nat) (data : Option Bytes) (n : Nat) : CalmOut s (s.cellarReq who src lease off data n) := by
  unfold State.cellarReq
  exact ((meterBytes s _ _).trans (sendPkt _ _ _ _ _ _ _)).trans (of_out (Calm.modFab _ _) rfl)

theorem cellarRead (who a n : Nat) : CalmOut s (s.cellarRead who a n) := by
  refine foldl _ _ s fun s x => ?_
  split
  · exact (foldl _ _ s fun s j => (refl s).ite (cellarReq s _ _ _ _ _ _)).ite (refl s)
  · exact refl s

theorem linkSend (l : List LinkPkt) : CalmOut s (s.linkSend l) := by
  refine of_out (Calm.linkSend s l) ?_
  unfold State.linkSend
  split <;> rfl

end CalmOut

/-! Records to a destination other than the host ring (R183). -/

/-- Such a destination takes every record. -/
theorem State.sendRecord_of_far {s : State} {p : Nat} {e : Epoch} (hd : epochDest (s.part p).stream.cfg e ≠ 2) (r : Bytes) :
    s.sendRecord p e r = ((s.emit (.stream p (epochDest (s.part p).stream.cfg e) r)).meterBytes p r.length, true) := by
  unfold State.sendRecord
  simp only [if_neg hd, if_true]

theorem State.sendRecords_of_far (l : List Bytes) {s : State} {p : Nat} {e : Epoch} (hd : epochDest (s.part p).stream.cfg e ≠ 2) :
    (State.sendRecords p e l s).2 = [] ∧ CalmOut s (State.sendRecords p e l s).1 ∧
      ∀ r ∈ l, .stream p (epochDest (s.part p).stream.cfg e) r ∈ (State.sendRecords p e l s).1.out := by
  induction l generalizing s with
  | nil => exact ⟨rfl, .refl s, fun _ h => by cases h⟩
  | cons r rs ih =>
    have hone := (CalmOut.emit s (.stream p (epochDest (s.part p).stream.cfg e) r)).trans (.meterBytes _ p r.length)
    obtain ⟨hall, hcalm, hout⟩ := ih (s := (s.emit (.stream p (epochDest (s.part p).stream.cfg e) r)).meterBytes p r.length) hd
    unfold State.sendRecords
    simp only [State.sendRecord_of_far hd, if_true]
    refine ⟨hall, hone.trans hcalm, fun x hx => ?_⟩
    obtain rfl | hx := List.mem_cons.1 hx
    · exact hcalm.out.subset (List.mem_append_right _ List.mem_cons_self)
    · exact hout x hx

/-- The order in which an epoch's records go out: the header, then the pages of slabs retained in T1, then the rest (R183). -/
def Epoch.exportOrder (e : Epoch) : List Bytes :=
  let hd := e.recs.takeWhile fun r => byteAt r 1 == 0x23
  let rest := e.recs.drop hd.length
  hd ++ rest.filter (recordOfSlab e.kept) ++ rest.filter fun r => !recordOfSlab e.kept r

/-- Every record is in that order. -/
theorem Epoch.mem_exportOrder {e : Epoch} {r : Bytes} (hr : r ∈ e.recs) : r ∈ e.exportOrder := by
  have hsplit : e.recs.takeWhile (fun r => byteAt r 1 == 0x23) ++ e.recs.drop (e.recs.takeWhile fun r => byteAt r 1 == 0x23).length = e.recs :=
    List.prefix_iff_eq_append.1 (List.takeWhile_prefix _)
  rw [← hsplit] at hr
  unfold Epoch.exportOrder
  dsimp only
  cases hk : recordOfSlab e.kept r with
  | true => simpa [hk] using hr
  | false => simpa [hk] using hr

/-- What becomes of the epoch once it has sent what its destination takes, `x` being the state and the records that are left of `l` (R183, R228, R381). -/
def State.exportDone (p : Nat) (e : Epoch) (l : List Bytes) (x : State × List Bytes) : State :=
  let pages := ((l.take (l.length - x.2.length)).filter fun r => byteAt r 1 == 0x24).map fun r => (field r 4 6, 4096)
  let s := x.1.linkSend (x.1.readTraffic 16 false [hDie] pages)
  let s := pages.foldl (fun s y => s.cellarRead (exportWho p) y.1 y.2) s
  s.modStream p fun st => { st with epoch := some { e with recs := x.2, left := e.left.filter fun k => x.2.any (recordOfSlab [k]) } }

theorem State.exportEpoch_eq {s : State} {p : Nat} {e : Epoch} (he : (s.part p).stream.epoch = some e) :
    s.exportEpoch p = State.exportDone p e e.exportOrder (State.sendRecords p e e.exportOrder s) := by
  unfold State.exportEpoch
  simp only [he]
  rfl

/-- An epoch whose destination takes every record sends what is left (R183). -/
theorem State.exportEpoch_of_far {s : State} {p : Nat} {e : Epoch} (he : (s.part p).stream.epoch = some e) (hd : epochDest (s.part p).stream.cfg e ≠ 2) :
    ∃ (u : State) (left : List Nat), CalmOut s u ∧ (∀ r ∈ e.recs, .stream p (epochDest (s.part p).stream.cfg e) r ∈ u.out) ∧
      s.exportEpoch p = u.modStream p fun st => { st with epoch := some { e with recs := [], left := left } } := by
  rw [State.exportEpoch_eq he]
  obtain ⟨hall, hcalm, hout⟩ := State.sendRecords_of_far e.exportOrder hd
  have hx : State.sendRecords p e e.exportOrder s = ((State.sendRecords p e e.exportOrder s).1, []) := Prod.ext rfl hall
  rw [hx]
  generalize (State.sendRecords p e e.exportOrder s).1 = w at hcalm hout
  have hrest (l : List (Nat × Nat)) : CalmOut w (l.foldl (fun s y => s.cellarRead (exportWho p) y.1 y.2) (w.linkSend (w.readTraffic 16 false [hDie] l))) :=
    (CalmOut.linkSend w _).trans (.foldl _ _ _ fun s x => .cellarRead s _ _ _)
  exact ⟨_, _, hcalm.trans (hrest _), fun r hr => (hrest _).out.subset (hout r (Epoch.mem_exportOrder hr)), rfl⟩

/-- An epoch whose records are out and whose comparison is done closes (R183). -/
theorem State.closeEpoch_of_far {s : State} {p : Nat} {e : Epoch} (he : (s.part p).stream.epoch = some e) (hd : epochDest (s.part p).stream.cfg e ≠ 2)
    (hcmp : e.compare = false) (hrecs : e.recs = []) :
    s.closeEpoch p = ((s.emit (.stream p (epochDest (s.part p).stream.cfg e) (endRecord e))).meterBytes p (endRecord e).length).modStream p fun st =>
      { st with epoch := none, last := e.no, hashes := e.hashes, retT1 := 0, retT2 := 0, retNear := [] } := by
  unfold State.closeEpoch
  simp only [he, hcmp, hrecs, List.isEmpty_nil, Bool.not_true, Bool.or_self, Bool.false_eq_true, if_false, State.sendRecord_of_far hd]

/-- An epoch that has records left stays open. -/
theorem State.closeEpoch_of_left {s : State} {p : Nat} {e : Epoch} (he : (s.part p).stream.epoch = some e) (hrecs : e.recs ≠ []) : s.closeEpoch p = s := by
  unfold State.closeEpoch
  simp [he, hrecs]

/-! What follows an epoch (R177, R187). -/

theorem State.epochOver_of_closed {s : State} {p : Nat} (e : Epoch) (he : (s.part p).stream.epoch = none) (hlink : s.link.losing = false) :
    s.epochOver p (some e) = (s.retryPool p).settle := by
  unfold State.epochOver
  simp [he, hlink]

theorem State.epochOver_of_open {s : State} {p : Nat} (e : Epoch) (he : (s.part p).stream.epoch.isSome = true) : s.epochOver p (some e) = s.settle := by
  unfold State.epochOver
  simp [he]

theorem State.stream_modStream {s : State} {p : Nat} (f : Stream → Stream) (hp : p < s.parts.length) :
    ((s.modStream p f).part p).stream = f (s.part p).stream := by
  rw [State.modStream, State.part_modPart_self _ hp]

theorem Calm.count {s t : State} (h : Calm s t) : t.parts.length = s.parts.length := by
  have hlen := congrArg List.length h.streams
  rwa [List.length_map, List.length_map] at hlen

/-- The end of an epoch whose destination takes every record: the records are out, the epoch is closed, and nothing of it is retained (R182, R183). -/
theorem State.endEpoch_of_far {s : State} {p : Nat} {e : Epoch} (hp : p < s.parts.length) (he : (s.part p).stream.epoch = some e)
    (hd : epochDest (s.part p).stream.cfg e ≠ 2) (hcmp : e.compare = false) :
    let u := (s.exportEpoch p).closeEpoch p
    u.mem = s.mem ∧ u.link = s.link ∧ (∀ r ∈ e.recs, .stream p (epochDest (s.part p).stream.cfg e) r ∈ u.out) ∧
      .stream p (epochDest (s.part p).stream.cfg e) (endRecord { e with recs := [] }) ∈ u.out ∧
      (u.part p).stream = { (s.part p).stream with epoch := none, last := e.no, hashes := e.hashes, retT1 := 0, retT2 := 0, retNear := [] } := by
  obtain ⟨v, left, hcalm, hout, hexport⟩ := State.exportEpoch_of_far he hd
  have hpv : p < v.parts.length := hcalm.toCalm.count ▸ hp
  have hstream := State.stream_modStream (fun st => { st with epoch := some { e with recs := [], left := left } }) hpv
  have hcfg : (v.part p).stream.cfg = (s.part p).stream.cfg := congrArg Stream.cfg (hcalm.toCalm.part_stream p)
  dsimp only
  rw [hexport]
  generalize hx : (v.modStream p fun st => { st with epoch := some { e with recs := [], left := left } }) = x at hstream
  have hpx : p < x.parts.length := by rw [← hx, State.modStream, State.parts_length_modPart]; exact hpv
  have hkept : x.mem = s.mem ∧ x.link = s.link ∧ x.out = v.out := by rw [← hx]; exact ⟨hcalm.mem, hcalm.link, rfl⟩
  have hcfgx : (x.part p).stream.cfg = (s.part p).stream.cfg := by rw [hstream]; exact hcfg
  rw [State.closeEpoch_of_far (e := { e with recs := [], left := left }) (by rw [hstream]) (by rw [hcfgx]; exact hd) hcmp rfl, hcfgx]
  refine ⟨hkept.1, hkept.2.1, fun r hr => List.mem_append_left _ (hkept.2.2 ▸ hout r hr), List.mem_append_right _ List.mem_cons_self, ?_⟩
  rw [hcalm.toCalm.part_stream] at hstream
  rw [State.stream_modStream]
  case hp => exact hpx
  exact congrArg (fun st : Stream => { st with epoch := none, last := e.no, hashes := e.hashes, retT1 := 0, retT2 := 0, retNear := [] }) hstream

/-- An abandoned epoch is gone, its destination is noted as lost, and event 0x0212 is the last recorded (R185). -/
theorem State.abandonEpoch_leaves {s : State} {p : Nat} {e : Epoch} (hp : p < s.parts.length) (he : (s.part p).stream.epoch = some e) :
    let u := s.abandonEpoch p
    u.mem = s.mem ∧ u.link.losing = s.link.losing ∧ u.err.lastCode = 0x0212 ∧
      (u.part p).stream = { (s.part p).stream with epoch := none, destLost := true, needKey := true, retT1 := 0, retT2 := 0, retNear := [] } := by
  have hcellar := Aside.forgetCellar s (exportWho p)
  have hmem : (s.forgetCellar (exportWho p)).mem = s.mem := by
    unfold State.forgetCellar
    dsimp only
    split <;> rfl
  unfold State.abandonEpoch
  rw [he, if_neg (by simp)]
  generalize s.forgetCellar (exportWho p) = v at hcellar hmem
  have hlog := Logged.raiseP (v.modStream p fun st => { st with epoch := none, destLost := true, needKey := true, retT1 := 0, retT2 := 0, retNear := [] }) 0x0212 p
  have hlosing : v.link.losing = s.link.losing := by rw [hcellar.link]
  refine ⟨hlog.mem.trans hmem, by rw [hlog.link]; exact hlosing, State.raiseP_lastCode _ _ _, ?_⟩
  rw [State.part_congr hlog.parts p, State.stream_modStream _ (hcellar.parts ▸ hp), State.part_congr hcellar.parts p]

/-! The comparison of digests (R190). -/

/-- Members whose digest for the open epoch's step has not arrived. -/
def Stream.missingFor (st : Stream) (step : Nat) : List Nat :=
  (List.range (cfgMembers st.cfg)).filter fun k => k != cfgSelf st.cfg && !st.got.any fun g => g.1 == k && g.2.1 == step

theorem Logged.foldl {α : Type} (f : State → α → State) (l : List α) (s : State) (hf : ∀ s x, Logged s (f s x)) : Logged s (l.foldl f s) := by
  induction l generalizing s with
  | nil => exact refl s
  | cons x r ih => exact (hf s x).trans (ih _)

/-- A comparison that is decided counts the members without a digest as missing, and keeps the records of its epoch (R190). -/
theorem State.decideDigest_leaves {s : State} {p : Nat} {e : Epoch} (hp : p < s.parts.length) (he : (s.part p).stream.epoch = some e) :
    let u := s.decideDigest p
    let miss := (s.part p).stream.missingFor e.step
    u.mem = s.mem ∧ (u.part p).stream.missing = (miss.map fun k => 2 ^ k).sum ∧ (u.part p).stream.timeout = ((s.part p).stream.timeout || !miss.isEmpty) ∧
      ∃ x, (u.part p).stream.epoch = some x ∧ x.compare = false ∧ x.recs = e.recs := by
  have hmiss : (((List.range (cfgMembers (s.part p).stream.cfg)).filter fun k => k != cfgSelf (s.part p).stream.cfg).filter fun k =>
      (((s.part p).stream.got.find? fun g => g.1 == k && g.2.1 == e.step).map (·.2.2)).isNone) = (s.part p).stream.missingFor e.step := by
    unfold Stream.missingFor
    rw [List.filter_filter]
    refine List.filter_congr fun k _ => ?_
    rw [Bool.and_comm, Option.isNone_map, ← Option.not_isSome, List.isSome_find?]
  unfold State.decideDigest
  simp only [he]
  rw [hmiss]
  have hlog (v : State) (l m : List Nat) : Logged v (m.foldl (fun s _ => s.raiseP 0x0211 p) (l.foldl (fun s _ => s.raiseP 0x0210 p) v)) :=
    (Logged.foldl _ l v fun s _ => .raiseP s _ _).trans (.foldl _ m _ fun s _ => .raiseP s _ _)
  refine ⟨(hlog _ _ _).mem, ?_, ?_, ?_⟩
  · rw [State.part_congr (hlog _ _ _).parts p, State.stream_modStream _ hp]
  · rw [State.part_congr (hlog _ _ _).parts p, State.stream_modStream _ hp]
  · rw [State.part_congr (hlog _ _ _).parts p, State.stream_modStream _ hp]
    exact ⟨_, rfl, rfl, rfl⟩

end Sys2Proof.Machine
end

section
/-! SUPPORT. The readout of retained host-loss epochs (R371, R372). -/

namespace Sys2Proof.Machine

/-- A packet that is sent moves its flow alone. -/
theorem Received.sendPkt (s : State) (ep part cls axis src : Nat) (body : PktBody) : Received s (s.sendPkt ep part cls axis src body).1 := by
  unfold State.sendPkt
  split
  · exact of_moves ((Moves.setFlow s _).trans (Moves.pump _ _ _ _))
  · exact refl s

/-- A lease message changes nothing of the memory system or of the retained epochs. -/
theorem State.releaseLeases_keeps (s : State) (p : Nat) (l : List Lease) : (s.releaseLeases p l).mem = s.mem ∧ (s.releaseLeases p l).hle = s.hle := by
  unfold State.releaseLeases
  induction l generalizing s with
  | nil => exact ⟨rfl, rfl⟩
  | cons x r ih =>
    have hone := Received.sendPkt (s.meterBytes p (leaseMsg 5 p x.id x.slabs 0).length) x.lender 0 ctrlClass anyAxis p (.data 5 0 0 0 (leaseMsg 5 p x.id x.slabs 0))
    obtain ⟨hmem, hhle⟩ := ih (s.partCtrl x.lender 0 p (leaseMsg 5 p x.id x.slabs 0))
    exact ⟨hmem.trans hone.mem, hhle.trans hone.hle⟩

/-- The end of a retained epoch takes it out of those retained (R371). -/
theorem State.dropHle_leaves (s : State) (p : Nat) : (s.dropHle p).mem = s.mem ∧
    (∀ r, s.hle? p = some r → (s.dropHle p).hle = { s.hle with retained := s.hle.retained.erase r }) ∧ (s.hle? p = none → (s.dropHle p).hle = s.hle) := by
  unfold State.dropHle
  cases hr : s.hle? p with
  | none => exact ⟨rfl, fun _ h => (by cases h), fun _ => rfl⟩
  | some r =>
    obtain ⟨hmem, hhle⟩ := s.releaseLeases_keeps p r.2.2.2
    refine ⟨hmem, fun x hx => ?_, fun h => (by cases h)⟩
    cases hx
    change { (s.releaseLeases p r.2.2.2).hle with retained := (s.releaseLeases p r.2.2.2).hle.retained.erase r } = _
    rw [hhle]

/-- What is not looked for does not hide the rest. -/
theorem find?_erase_of_neg {α : Type} [BEq α] [LawfulBEq α] (l : List α) (a : α) (f : α → Bool) (ha : f a = false) : (l.erase a).find? f = l.find? f := by
  induction l with
  | nil => rfl
  | cons b r ih =>
    by_cases hb : b = a
    · subst hb
      rw [List.erase_cons_head, List.find?_cons_of_neg (by simp [ha])]
    · rw [List.erase_cons_tail (by simpa using hb)]
      cases hf : f b with
      | true => rw [List.find?_cons_of_pos hf, List.find?_cons_of_pos hf]
      | false => rw [List.find?_cons_of_neg (by simp [hf]), List.find?_cons_of_neg (by simp [hf]), ih]

/-- The retained epochs of the other partitions stay (R371). -/
theorem State.hle?_dropHle (s : State) {p k : Nat} (hk : k ≠ p) : (s.dropHle p).hle? k = s.hle? k := by
  obtain ⟨-, hsome, hnone⟩ := s.dropHle_leaves p
  unfold State.hle?
  cases hr : s.hle? p with
  | none => rw [hnone hr]
  | some r =>
    have hp : r.1 = p := by simpa using List.find?_some hr
    rw [hsome r hr]
    exact find?_erase_of_neg _ r (fun x => x.1 == k) (by simpa [hp] using Ne.symm hk)

/-- A host-loss epoch that has ended in the cellar is retained (R371). -/
def State.afterEnd (s : State) (p : Nat) (e : Epoch) : State :=
  if (s.part p).stream.epoch.isNone && e.hostLoss && e.toCellar then s.keepHle p e else s

theorem State.afterEnd_keeps (s : State) (p : Nat) (e : Epoch) :
    (s.afterEnd p e).mem = s.mem ∧ (s.afterEnd p e).link = s.link ∧ (s.afterEnd p e).out = s.out ∧ (s.afterEnd p e).part p = s.part p := by
  unfold State.afterEnd
  split <;> exact ⟨rfl, rfl, rfl, rfl⟩

/-! READOUT (R371). -/

section
variable {s : State} {ok : Nat}

/-- A readout that cannot be served leaves 0x0715. -/
theorem State.readoutNow_of_unserved
    (h : s.hle? s.hle.part = none ∨ (s.hle.addrHi.toNat * 2 ^ 32 + s.hle.addrLo.toNat) % 4096 ≠ 0 ∨ s.hle.size < s.hlePages s.hle.part) :
    s.readoutNow ok = s.setHle { s.hle with status := 0x0715 } := by
  unfold State.readoutNow
  dsimp only
  split
  next => rfl
  next r hr =>
    rw [hr] at h
    exact if_pos (h.resolve_left (by simp))

section
variable {r : Nat × Nat × List Bytes × List Lease} (hr : s.hle? s.hle.part = some r) (ha : (s.hle.addrHi.toNat * 2 ^ 32 + s.hle.addrLo.toNat) % 4096 = 0)
  (hsize : s.hlePages s.hle.part ≤ s.hle.size)
include hr ha hsize

/-- A readout whose cellar does not answer leaves the epoch, with its status. -/
theorem State.readoutNow_of_cellar (h1 : ok = 1 ∨ ok = 2) :
    s.readoutNow ok = s.setHle { s.hle with status := if ok = 1 then 0x0390 else 0x0391 } := by
  have hserved : ¬((s.hle.addrHi.toNat * 2 ^ 32 + s.hle.addrLo.toNat) % 4096 ≠ 0 ∨ s.hle.size < s.hlePages s.hle.part) := by omega
  unfold State.readoutNow
  simp only [hr]
  rw [if_neg hserved]
  obtain rfl | rfl := h1
  · rfl
  · rfl

/-- A readout that is served writes the records to host memory and ends the epoch. -/
theorem State.readoutNow_of_served :
    (s.readoutNow 0).mem.hostMem = Memory.write s.mem.hostMem (s.hle.addrHi.toNat * 2 ^ 32 + s.hle.addrLo.toNat) r.2.2.1.flatten ∧
      (s.readoutNow 0).mem.dev = s.mem.dev ∧ (s.readoutNow 0).hle = { s.hle with retained := s.hle.retained.erase r, status := 0 } := by
  have hserved : ¬((s.hle.addrHi.toNat * 2 ^ 32 + s.hle.addrLo.toNat) % 4096 ≠ 0 ∨ s.hle.size < s.hlePages s.hle.part) := by omega
  obtain ⟨hmem, hhle, -⟩ := (s.hostWrite (s.hle.addrHi.toNat * 2 ^ 32 + s.hle.addrLo.toNat) r.2.2.1.flatten).dropHle_leaves s.hle.part
  have hhle' := hhle r hr
  unfold State.readoutNow
  simp only [hr]
  rw [if_neg hserved, if_neg (by decide), if_neg (by decide)]
  generalize (s.hostWrite (s.hle.addrHi.toNat * 2 ^ 32 + s.hle.addrLo.toNat) r.2.2.1.flatten).dropHle s.hle.part = t at hmem hhle'
  refine ⟨congrArg Mem.hostMem hmem, (show t.mem.dev = _ by rw [hmem]; rfl), ?_⟩
  change { t.hle with status := 0 } = _
  rw [hhle']
  rfl

end

end

end Sys2Proof.Machine
end

section
open Sys2Proof Sys2Proof.Machine

namespace Sys2Proof.Claims

/-- The epochs of O31 that end, are abandoned or are decided. -/
theorem epochs_end (p : Fin 16) (s : State) (e : Epoch) (hlen : s.parts.length = 16) (he : (s.part p.val).stream.epoch = some e) :
    let st := (s.part p.val).stream
    let d := epochDest st.cfg e
    (d ≠ 2 → e.compare = false → s.link.losing = false →
      ∃ u : State, exec (.epochEnd p) s = .next (u.retryPool p.val).settle ∧ u.mem = s.mem ∧
        (∀ r ∈ e.recs, .stream p.val d r ∈ u.out) ∧ .stream p.val d (endRecord { e with recs := [] }) ∈ u.out ∧
        (u.part p.val).stream.epoch = none ∧ (u.part p.val).stream.last = e.no ∧ (u.part p.val).stream.retT1 = 0 ∧ (u.part p.val).stream.retT2 = 0 ∧
        (u.part p.val).stream.hashes = e.hashes ∧ (u.part p.val).stream.needKey = st.needKey ∧ (u.part p.val).stream.opened = st.opened) ∧
    (d = 2 → e.recs ≠ [] ∨ e.compare = false → s.link.losing = false →
      ∃ u : State, exec (.ringFullTimeout p) s = .next (u.retryPool p.val).settle ∧ u.mem = s.mem ∧ (u.part p.val).stream.epoch = none ∧
        (u.part p.val).stream.destLost = true ∧ (u.part p.val).stream.needKey = true ∧ (u.part p.val).stream.retT1 = 0 ∧ (u.part p.val).stream.retT2 = 0 ∧
        u.err.lastCode = 0x0212) ∧
    (e.compare = true → e.recs ≠ [] →
      let miss := (List.range (cfgMembers st.cfg)).filter fun k => k != cfgSelf st.cfg && !st.got.any fun g => g.1 == k && g.2.1 == e.step
      ∃ u : State, exec (.digestTimeout p) s = .next u.settle ∧ u.mem = s.mem ∧
        (u.part p.val).stream.missing = (miss.map fun k => 2 ^ k).sum ∧ (u.part p.val).stream.timeout = (st.timeout || !miss.isEmpty) ∧
        (u.part p.val).stream.epoch.map (fun x => (x.compare, x.recs)) = some (false, e.recs)) := by
  have hp : p.val < s.parts.length := by rw [hlen]; exact p.isLt
  refine ⟨fun hd hcmp hlosing => ?_, fun hd hopen hlosing => ?_, fun hcmp hrecs => ?_⟩
  · obtain ⟨hmem, hlink, hout, hend, hstream⟩ := State.endEpoch_of_far hp he hd hcmp
    have hexec : exec (.epochEnd p) s = .next (((s.exportEpoch p.val).closeEpoch p.val).afterEnd p.val e |>.epochOver p.val (some e)) := by
      change execEpochEnd p s = _
      unfold execEpochEnd
      rw [he]
      rfl
    obtain ⟨kmem, klink, kout, kpart⟩ := ((s.exportEpoch p.val).closeEpoch p.val).afterEnd_keeps p.val e
    generalize (s.exportEpoch p.val).closeEpoch p.val = v at hmem hlink hout hend hstream hexec kmem klink kout kpart
    refine ⟨v.afterEnd p.val e, ?_, kmem.trans hmem, kout ▸ hout, kout ▸ hend, ?_⟩
    · rw [hexec, State.epochOver_of_closed e (by rw [kpart, hstream]) (by rw [klink, hlink]; exact hlosing)]
    · rw [kpart, hstream]
      exact ⟨rfl, rfl, rfl, rfl, rfl, rfl, rfl⟩
  · obtain ⟨hmem, hlink, hcode, hstream⟩ := State.abandonEpoch_leaves hp he
    refine ⟨s.abandonEpoch p.val, ?_, hmem, ?_⟩
    · change execRingFullTimeout p s = _
      unfold execRingFullTimeout
      simp only [he]
      rw [if_pos ⟨hd, by simpa using hopen⟩, State.destFails, he, State.epochOver_of_closed e (by rw [hstream]) (hlink.trans hlosing)]
    · rw [hstream]
      exact ⟨rfl, rfl, rfl, rfl, rfl, hcode⟩
  · obtain ⟨hmem, hmissing, htimeout, x, hx, hxcmp, hxrecs⟩ := State.decideDigest_leaves (s := s.forgetPkts e.sentTo ctrlClass) hp he
    refine ⟨(s.forgetPkts e.sentTo ctrlClass).decideDigest p.val, ?_, hmem, hmissing, htimeout, ?_⟩
    · change execDigestTimeout p s = _
      unfold execDigestTimeout
      simp only [he, hcmp, if_true]
      rw [State.closeEpoch_of_left hx (hxrecs ▸ hrecs), State.epochOver_of_open e (by rw [hx]; rfl)]
    · rw [hx, Option.map_some, hxcmp, hxrecs]

/-- The writes of O31 to the stream registers (R196, R197). -/
theorem stream_writes (p : Fin 16) (v : Word) (s : State) (hopen : s.barOpen = true) (hlen : s.parts.length = 16) :
    let st := (s.part p.val).stream
    let S := ringBytes st.cfg
    (v.toNat % 4 = 0 → v.toNat < S → (v.toNat + S - st.tail) % S ≤ (st.head + S - st.tail) % S → st.epoch = none →
      ∃ t : State, exec (.partStreamTailWrite p v) s = .next t ∧ (t.part p.val).stream.tail = v.toNat ∧ (t.part p.val).stream.head = st.head ∧ t.mem = s.mem) ∧
    ((v.toNat % 4 ≠ 0 ∨ S ≤ v.toNat ∨ (st.head + S - st.tail) % S < (v.toNat + S - st.tail) % S) →
      exec (.partStreamTailWrite p v) s = .next (atBar0 s)) ∧
    (∃ u : State, exec (.resume p v) s = .next u.settle ∧
      (u.part p.val).stream = { st with diverged := st.diverged && !v.getLsbD 0, timeout := st.timeout && !v.getLsbD 1, held := st.held && !v.getLsbD 3 } ∧
      (∀ k, k ≠ p.val → u.part k = s.part k) ∧ u.mem = s.mem) := by
  have ha := Accessed.atBar0 s
  have hp : p.val < (atBar0 s).parts.length := by rw [ha.parts, hlen]; exact p.isLt
  have hpart (k : Nat) : (atBar0 s).part k = s.part k := State.part_congr ha.parts k
  have htail : exec (.partStreamTailWrite p v) s = .next ((atBar0 s).writeStreamTail p.val v) := congrArg Host.Outcome.next (State.bar0_of_open s _ hopen)
  refine ⟨fun haligned hless hspan he => ?_, fun hbad => ?_, ?_⟩
  · refine ⟨_, htail, ?_⟩
    unfold State.writeStreamTail
    simp only [hpart, he]
    rw [if_neg (by omega)]
    refine ⟨?_, ?_, ha.mem⟩
    · rw [State.stream_modStream _ hp]
    · rw [State.stream_modStream _ hp, hpart]
  · rw [htail]
    unfold State.writeStreamTail
    simp only [hpart]
    rw [if_pos (.inr hbad)]
  · refine ⟨(atBar0 s).modStream p.val fun st => { st with
      diverged := st.diverged && !v.getLsbD 0, timeout := st.timeout && !v.getLsbD 1, held := st.held && !v.getLsbD 3 },
      congrArg Host.Outcome.next (State.bar0_of_open s _ hopen), ?_, fun k hk => ?_, ha.mem⟩
    · rw [State.stream_modStream _ hp, hpart]
    · exact (State.part_modPart_ne _ _ _ _ hk).trans (hpart k)

/-- READOUT and DISCARD of O31 (R371, R372). -/
theorem retained_epochs (v : Word) (ok : Fin 3) (s : State) (hopen : s.barOpen = true) :
    let p := v.toNat % 16
    let a := s.hle.addrHi.toNat * 2 ^ 32 + s.hle.addrLo.toNat
    (∀ r, v.getLsbD 4 = true → v.getLsbD 5 = false → s.hle? p = some r → a % 4096 = 0 → s.hlePages p ≤ s.hle.size → ok = 0 →
      ∃ t : State, exec (.readout v ok) s = .next t ∧ t.mem.hostMem = Memory.write s.mem.hostMem a r.2.2.1.flatten ∧ t.mem.dev = s.mem.dev ∧
        t.hle.retained = s.hle.retained.erase r ∧ t.hle.status = 0 ∧ t.hle.part = p) ∧
    (v.getLsbD 4 = true → v.getLsbD 5 = false → (s.hle? p = none ∨ a % 4096 ≠ 0 ∨ s.hle.size < s.hlePages p) →
      ∃ t : State, exec (.readout v ok) s = .next t ∧ t.mem = s.mem ∧ t.hle = { s.hle with part := p, status := 0x0715 }) ∧
    (∀ r, v.getLsbD 4 = true → v.getLsbD 5 = false → s.hle? p = some r → a % 4096 = 0 → s.hlePages p ≤ s.hle.size → ok ≠ 0 →
      ∃ t : State, exec (.readout v ok) s = .next t ∧ t.mem = s.mem ∧ t.hle = { s.hle with part := p, status := if ok = 1 then 0x0390 else 0x0391 }) ∧
    (v.getLsbD 4 = false → v.getLsbD 5 = true →
      ∃ t : State, exec (.discard v) s = .next t ∧ (∀ r, s.hle? p = some r → t.hle.retained = s.hle.retained.erase r) ∧ t.mem = s.mem ∧
        ∀ k, k ≠ p → t.hle? k = s.hle? k) := by
  have ha := Accessed.atBar0 s
  have hnum : bits v.toNat 3 0 = v.toNat % 16 := by simp [bits]
  have hcommon : ∀ b : State, b = (atBar0 s).setHle { (atBar0 s).hle with part := v.toNat % 16 } →
      b.hle = { s.hle with part := v.toNat % 16 } ∧ b.mem = s.mem ∧ (∀ k, b.hle? k = s.hle? k) ∧ ∀ k, b.hlePages k = s.hlePages k := fun b hb => by
    have hhle : b.hle = { s.hle with part := v.toNat % 16 } := by rw [hb, ← ha.hle]; rfl
    have hfind (k : Nat) : b.hle? k = s.hle? k := by unfold State.hle?; rw [hhle]
    exact ⟨hhle, by rw [hb]; exact ha.mem, hfind, fun k => by unfold State.hlePages; rw [hfind]⟩
  obtain ⟨hhle, hmem, hfind, hpages⟩ := hcommon _ rfl
  have hread (h4 : v.getLsbD 4 = true) (h5 : v.getLsbD 5 = false) : exec (.readout v ok) s =
      .next (((atBar0 s).setHle { (atBar0 s).hle with part := v.toNat % 16 }).readoutNow ok.val) := by
    refine (congrArg Host.Outcome.next (State.bar0_of_open s _ hopen)).trans ?_
    simp only [State.writeHle, h4, h5, hnum, if_true, Bool.false_eq_true, if_false]
  have hdiscard (h4 : v.getLsbD 4 = false) (h5 : v.getLsbD 5 = true) : exec (.discard v) s =
      .next (((atBar0 s).setHle { (atBar0 s).hle with part := v.toNat % 16 }).dropHle (v.toNat % 16)) := by
    refine (congrArg Host.Outcome.next (State.bar0_of_open s _ hopen)).trans ?_
    simp only [State.writeHle, h4, h5, hnum, if_true, Bool.false_eq_true, if_false]
    rfl
  generalize (atBar0 s).setHle { (atBar0 s).hle with part := v.toNat % 16 } = b at hhle hmem hfind hpages hread hdiscard
  have hpart : b.hle.part = v.toNat % 16 := by rw [hhle]
  have haddr : b.hle.addrHi.toNat * 2 ^ 32 + b.hle.addrLo.toNat = s.hle.addrHi.toNat * 2 ^ 32 + s.hle.addrLo.toNat := by rw [hhle]
  have hsize : b.hle.size = s.hle.size := by rw [hhle]
  refine ⟨fun r h4 h5 hr hal hfit h0 => ?_, fun h4 h5 hnot => ?_, fun r h4 h5 hr hal hfit h0 => ?_, fun h4 h5 => ?_⟩
  · obtain ⟨hhost, hdev, hend⟩ := State.readoutNow_of_served (s := b) (by rw [hpart, hfind]; exact hr) (by rw [haddr]; exact hal)
      (by rw [hpart, hpages, hsize]; exact hfit)
    refine ⟨_, hread h4 h5, ?_⟩
    rw [h0]
    refine ⟨by rw [← haddr, ← hmem]; exact hhost, hdev.trans (congrArg Mem.dev hmem), ?_⟩
    change (b.readoutNow 0).hle.retained = _ ∧ (b.readoutNow 0).hle.status = 0 ∧ (b.readoutNow 0).hle.part = _
    rw [hend, hhle]
    exact ⟨rfl, rfl, rfl⟩
  · refine ⟨_, hread h4 h5, ?_⟩
    rw [State.readoutNow_of_unserved (by rw [hpart, hfind, haddr, hsize, hpages]; exact hnot)]
    exact ⟨hmem, by rw [hhle]; rfl⟩
  · refine ⟨_, hread h4 h5, ?_⟩
    rw [State.readoutNow_of_cellar (by rw [hpart, hfind]; exact hr) (by rw [haddr]; exact hal) (by rw [hpart, hpages, hsize]; exact hfit) (by omega)]
    refine ⟨hmem, ?_⟩
    rw [hhle]
    have h1 : ok.val = 1 ↔ ok = 1 := by omega
    simp only [h1]
    rfl
  · obtain ⟨kmem, hsome, -⟩ := b.dropHle_leaves (v.toNat % 16)
    refine ⟨_, hdiscard h4 h5, fun r hr => ?_, kmem.trans hmem, fun k hk => (b.hle?_dropHle hk).trans (hfind k)⟩
    rw [hsome r ((hfind _).trans hr), hhle]

/-- Settles O31: each end of an epoch by its destination and its comparison, the registers by what they take, and the retained epochs by the checks of R371. -/
theorem streamEpochsEndAndAreRead : Obligations.StreamEpochsEndAndAreRead := by
  unfold Obligations.StreamEpochsEndAndAreRead
  exact ⟨epochs_end, stream_writes, fun v ok s hopen _ => retained_epochs v ok s hopen⟩

end Sys2Proof.Claims
end

section
/-! SUPPORT. What the steward's moves and the credits for them can change: the slab tables, the moves and the frame counter, the credits held and waited for, and the accounting of waits (R216 to R222, R273, R274, R277). -/

namespace Sys2Proof.Machine

/-- A partition but for its accounting. -/
def Part.bare (x : Part) : Part := { x with acct := {} }

/-- From `s` to `t` moves have been started, served or dropped, and credits asked for or given back; nothing else has changed. -/
structure Shifts (s t : State) : Prop where
  state : t = { s with
    adm := t.adm, parts := t.parts
    mem := { s.mem with slabs := t.mem.slabs, migrations := t.mem.migrations, nextFrame := t.mem.nextFrame } }
  bare : t.parts.map Part.bare = s.parts.map Part.bare

namespace Shifts

theorem refl (s : State) : Shifts s s := ⟨rfl, rfl⟩

theorem trans {s t u : State} (h : Shifts s t) (k : Shifts t u) : Shifts s u := ⟨k.state.trans (by rw [h.state]), k.bare.trans h.bare⟩

/-- The step that is the last is named first, so that it gives the state before it. -/
theorem after {s t u : State} (k : Shifts t u) (h : Shifts s t) : Shifts s u := h.trans k

theorem ite {c : Prop} [Decidable c] {s a b : State} (ha : Shifts s a) (hb : Shifts s b) : Shifts s (if c then a else b) := by
  split
  · exact ha
  · exact hb

theorem foldl {α : Type} (f : State → α → State) (l : List α) (s : State) (hf : ∀ s x, Shifts s (f s x)) : Shifts s (l.foldl f s) := by
  induction l generalizing s with
  | nil => exact refl s
  | cons x r ih => exact (hf s x).trans (ih _)

section
variable {s t : State} (h : Shifts s t)
include h

theorem queues : t.queues = s.queues := by rw [h.state]
theorem link : t.link = s.link := by rw [h.state]
theorem fab : t.fab = s.fab := by rw [h.state]
theorem hle : t.hle = s.hle := by rw [h.state]
theorem err : t.err = s.err := by rw [h.state]
theorem dev : t.mem.dev = s.mem.dev := by rw [h.state]
theorem hostMem : t.mem.hostMem = s.mem.hostMem := by rw [h.state]
theorem regions : t.mem.regions = s.mem.regions := by rw [h.state]

/-- A field of a partition that is none of its accounting. -/
theorem part_field {α : Type} (f : Part → α) (hf : ∀ x, f x.bare = f x) (p : Nat) : f (t.part p) = f (s.part p) := by
  have hbare := State.part_field_of_map h.bare p
  rw [← hf (t.part p), hbare, hf]

theorem stream (p : Nat) : (t.part p).stream = (s.part p).stream := h.part_field Part.stream (fun _ => rfl) p
theorem leases (p : Nat) : (t.part p).leases = (s.part p).leases := h.part_field Part.leases (fun _ => rfl) p
theorem reclaimBit (p : Nat) : (t.part p).reclaimBit = (s.part p).reclaimBit := h.part_field Part.reclaimBit (fun _ => rfl) p
theorem resOf (p : Nat) (x : Tier) : (t.part p).resOf x = (s.part p).resOf x := h.part_field (fun y => y.resOf x) (fun _ => rfl) p
theorem gsets (p : Nat) : (t.part p).gsets = (s.part p).gsets := h.part_field Part.gsets (fun _ => rfl) p

theorem count : t.parts.length = s.parts.length := by
  have hlen := congrArg List.length h.bare
  rwa [List.length_map, List.length_map] at hlen

end

section
variable (s : State)

theorem modAdm (f : Adm → Adm) : Shifts s (s.modAdm f) := ⟨rfl, rfl⟩
theorem setSlabs (v : List Slab) : Shifts s (s.setSlabs v) := ⟨rfl, rfl⟩
theorem modSlab (k : Nat) (f : Slab → Slab) : Shifts s (s.modSlab k f) := setSlabs s _
theorem setMigrations (v : List Migration) : Shifts s (s.setMigrations v) := ⟨rfl, rfl⟩
theorem nextFrame : Shifts s s.nextFrame.2 := ⟨rfl, rfl⟩

theorem frameFor (t : Tier) (lease : Option (Nat × Nat)) : Shifts s (s.frameFor t lease).2 := by
  cases t with
  | t1 | t2 => exact nextFrame s
  | t3 | t4 => exact refl s

end

end Shifts

/-- Shifts that leave the slab tables, and of the moves change only which hold a slot. -/
structure Credits (s t : State) : Prop extends Shifts s t where
  slabs : t.mem.slabs = s.mem.slabs
  moves : t.mem.migrations.map (fun m => { m with granted := false }) = s.mem.migrations.map fun m => { m with granted := false }

namespace Credits

theorem refl (s : State) : Credits s s := ⟨.refl s, rfl, rfl⟩

theorem trans {s t u : State} (h : Credits s t) (k : Credits t u) : Credits s u := ⟨h.toShifts.trans k.toShifts, k.slabs.trans h.slabs, k.moves.trans h.moves⟩

theorem ite {c : Prop} [Decidable c] {s a b : State} (ha : Credits s a) (hb : Credits s b) : Credits s (if c then a else b) := by
  split
  · exact ha
  · exact hb

theorem foldl {α : Type} (f : State → α → State) (l : List α) (s : State) (hf : ∀ s x, Credits s (f s x)) : Credits s (l.foldl f s) := by
  induction l generalizing s with
  | nil => exact refl s
  | cons x r ih => exact (hf s x).trans (ih _)

variable (s : State)

theorem modAdm (f : Adm → Adm) : Credits s (s.modAdm f) := ⟨.modAdm s f, rfl, rfl⟩

theorem countWait (w : CreditReq) : Credits s (s.countWait w) := ⟨⟨rfl, map_updAt Part.bare _ _ _ {} rfl⟩, rfl, rfl⟩

theorem holdShares (r p : Nat) (l : List (Nat × Nat)) : Credits s (s.holdShares r p l) := foldl _ _ s fun s _ => modAdm s _

theorem askCredit (r p cls n who : Nat) : Credits s (s.askCredit r p cls n who).2 := by
  unfold State.askCredit
  dsimp only
  split
  · dsimp only
    refine trans (trans ?_ (holdShares _ r p _)) (modAdm _ _)
    split
    · exact countWait s _
    · exact refl s
  · exact (refl s).ite (modAdm s _)

theorem releaseFrom (r p : Nat) (l : List Nat) (n : Nat) : Credits s (State.releaseFrom r p l n s) := by
  induction l generalizing n s with
  | nil =>
    cases n with
    | zero => exact refl s
    | succ n => exact refl s
  | cons o l ih =>
    cases n with
    | zero => exact refl s
    | succ n => exact ((refl s).ite (modAdm s _)).trans (ih _ _)

theorem releaseCredit (r p n : Nat) : Credits s (s.releaseCredit r p n) := releaseFrom s r p _ n

theorem dropWaiting (who : Nat) : Credits s (s.dropWaiting who) := by
  unfold State.dropWaiting
  exact (foldl State.countWait _ s fun s w => countWait s w).trans (modAdm _ _)

theorem orderMoves (b : Nat) : Credits s (s.orderMoves b) := by
  unfold State.orderMoves
  exact modAdm s _

/-- A move that takes a slot is the same move. -/
theorem grant (k : Nat) : Credits s (s.setMigrations (s.mem.migrations.map fun x => if x.key = k then { x with granted := true } else x)) := by
  refine ⟨.setMigrations s _, rfl, ?_⟩
  change (s.mem.migrations.map _).map _ = _
  rw [List.map_map]
  refine List.map_congr_left fun x _ => ?_
  dsimp only [Function.comp_apply]
  split <;> rfl

theorem grantMoves (b : Nat) (l : List Migration) : Credits s (State.grantMoves b l s) := by
  induction l generalizing s with
  | nil => exact refl s
  | cons m r ih =>
    unfold State.grantMoves
    split
    next u hu =>
      have hask := askCredit s (4 + b) (partOfKey m.key) 3 1 (moveWho m.key)
      rw [hu] at hask
      exact (hask.trans (ite (grant u _) (refl u))).trans (ih _)

theorem serveMoves : Credits s s.serveMoves := foldl _ _ s fun s b => (refl s).ite ((orderMoves s b).trans (grantMoves _ b _))

/-- Moves that are dropped go; of the others only which hold a slot changes. -/
theorem dropMoves (f : Migration → Bool) : Credits (s.setMigrations (s.mem.migrations.filter fun m => !f m)) (s.dropMoves f) := by
  unfold State.dropMoves
  dsimp only
  split
  next h =>
    have hnone : s.mem.migrations.filter (fun m => !f m) = s.mem.migrations := by
      rw [List.isEmpty_iff, List.filter_eq_nil_iff] at h
      exact List.filter_eq_self.2 fun m hm => by simpa using h m hm
    rw [hnone]
    exact refl s
  next =>
    refine trans (foldl _ _ _ fun s m => ?_) (serveMoves _)
    exact (releaseCredit s _ _ _).ite (dropWaiting s _)

end Credits

namespace Shifts

variable (s : State)

theorem dropMoves (f : Migration → Bool) : Shifts s (s.dropMoves f) := (setMigrations s _).trans (Credits.dropMoves s f).toShifts

theorem startMove (k : Nat) (dst : Tier) (cls rank : Nat) : Shifts s (s.startMove k dst cls rank) := by
  unfold State.startMove
  split
  · exact refl s
  · split
    · exact refl s
    · dsimp only
      split
      · exact refl s
      · exact (refl s).ite (after (Credits.serveMoves _).toShifts (after (modSlab _ k _) (after (setMigrations _ _) (frameFor s dst _))))

theorem abandonMove (k : Nat) : Shifts s (s.abandonMove k) := by
  unfold State.abandonMove
  split
  · exact refl s
  · exact (refl s).ite ((dropMoves s _).trans (modSlab _ _ _))

theorem evacuate (p : Nat) : Shifts s (s.evacuate p) := by
  have hmove (rank : Nat) (s : State) (k : Nat) : Shifts s (if s.roomIn p .t2 then s.startMove k .t2 0 rank else s.startMove k .t3 0 rank) :=
    (startMove s k .t2 0 rank).ite (startMove s k .t3 0 rank)
  have hall (l : List Nat) (rank : Nat) (s : State) := foldl _ l s (hmove rank)
  unfold State.evacuate
  dsimp only
  refine trans (ite (setSlabs s _) (refl s)) (ite (refl _) ?_)
  exact ((hall _ 0 _).trans (hall _ 1 _)).trans (hall _ 2 _)

end Shifts

end Sys2Proof.Machine
end

section
/-! SUPPORT. Leases from the borrower's side: what an evacuation, an abandoned move and a lost slab leave of the slab tables, the moves and the leases (R219, R221, R232, R233). -/

namespace Sys2Proof.Machine

/-! Evacuation (R232 step 2). -/

/-- From `s` to `t` slabs have left rest, none has come to it, and every move into a lease is one of `s`. -/
structure Evacuates (s t : State) : Prop where
  slabs : ∀ y ∈ t.mem.slabs, ∃ x ∈ s.mem.slabs, y = { x with st := y.st } ∧ (y.st = .resident → x.st = .resident)
  moves : ∀ y ∈ t.mem.migrations, y.lease ≠ none → ∃ z ∈ s.mem.migrations, z.key = y.key ∧ z.lease = y.lease

namespace Evacuates

theorem refl (s : State) : Evacuates s s := ⟨fun y hy => ⟨y, hy, rfl, id⟩, fun y hy _ => ⟨y, hy, rfl, rfl⟩⟩

theorem trans {s t u : State} (h : Evacuates s t) (k : Evacuates t u) : Evacuates s u := by
  refine ⟨fun z hz => ?_, fun y hy hl => ?_⟩
  · obtain ⟨y, hy, hzy, hzr⟩ := k.slabs z hz
    obtain ⟨x, hx, hyx, hyr⟩ := h.slabs y hy
    exact ⟨x, hx, hzy.trans (by rw [hyx]), fun hr => hyr (hzr hr)⟩
  · obtain ⟨z, hz, hkey, hlease⟩ := k.moves y hy hl
    obtain ⟨w, hw, hkey', hlease'⟩ := h.moves z hz (hlease ▸ hl)
    exact ⟨w, hw, hkey'.trans hkey, hlease'.trans hlease⟩

theorem ite {c : Prop} [Decidable c] {s a b : State} (ha : Evacuates s a) (hb : Evacuates s b) : Evacuates s (if c then a else b) := by
  split
  · exact ha
  · exact hb

theorem foldl {α : Type} (f : State → α → State) (l : List α) (s : State) (hf : ∀ s x, Evacuates s (f s x)) : Evacuates s (l.foldl f s) := by
  induction l generalizing s with
  | nil => exact refl s
  | cons x r ih => exact (hf s x).trans (ih _)

theorem of_credits {s t : State} (h : Credits s t) : Evacuates s t := by
  refine ⟨fun y hy => ⟨y, h.slabs ▸ hy, rfl, id⟩, fun y hy _ => ?_⟩
  have hmem := h.moves ▸ List.mem_map_of_mem (f := fun m : Migration => { m with granted := false }) hy
  obtain ⟨z, hz, hzy⟩ := List.mem_map.1 hmem
  have hkey := congrArg Migration.key hzy
  have hlease := congrArg Migration.lease hzy
  exact ⟨z, hz, hkey, hlease⟩

variable (s : State)

/-- A change of state that brings no slab to rest. -/
theorem setSlabs (f : Slab → Slab) (hf : ∀ x, f x = { x with st := (f x).st } ∧ ((f x).st = .resident → x.st = .resident)) :
    Evacuates s (s.setSlabs (s.mem.slabs.map f)) := by
  refine ⟨fun y hy => ?_, fun y hy _ => ⟨y, hy, rfl, rfl⟩⟩
  obtain ⟨x, hx, rfl⟩ := List.mem_map.1 hy
  exact ⟨x, hx, hf x⟩

/-- A move into no lease. -/
theorem addMove (m : Migration) (hm : m.lease = none) : Evacuates s (s.setMigrations (s.mem.migrations ++ [m])) := by
  refine ⟨fun y hy => ⟨y, hy, rfl, id⟩, fun y hy hl => ?_⟩
  obtain hy | hy := List.mem_append.1 hy
  · exact ⟨y, hy, rfl, rfl⟩
  · obtain rfl := List.mem_singleton.1 hy
    exact absurd hm hl

theorem frameFor (t : Tier) (lease : Option (Nat × Nat)) : Evacuates s (s.frameFor t lease).2 := by
  cases t with
  | t1 | t2 => exact ⟨fun y hy => ⟨y, hy, rfl, id⟩, fun y hy _ => ⟨y, hy, rfl, rfl⟩⟩
  | t3 | t4 => exact refl s

/-- A move that starts towards another tier than the cellar. -/
theorem startMove (k : Nat) (dst : Tier) (cls rank : Nat) (hdst : dst ≠ .t4) : Evacuates s (s.startMove k dst cls rank) := by
  unfold State.startMove
  split
  · exact refl s
  · split
    · exact refl s
    · dsimp only
      split
      · exact refl s
      · refine (refl s).ite (trans (trans ((frameFor s dst _).trans (addMove _ _ (if_neg hdst))) (setSlabs _ _ fun x => ?_)) (of_credits (Credits.serveMoves _)))
        split
        · dsimp only
          split
          · exact ⟨rfl, fun h => by cases h⟩
          · exact ⟨rfl, id⟩
        · exact ⟨rfl, id⟩

theorem evacuate (p : Nat) : Evacuates s (s.evacuate p) := by
  have hmove (rank : Nat) (s : State) (k : Nat) : Evacuates s (if s.roomIn p .t2 then s.startMove k .t2 0 rank else s.startMove k .t3 0 rank) :=
    (startMove s k .t2 0 rank (by decide)).ite (startMove s k .t3 0 rank (by decide))
  have hall (l : List Nat) (rank : Nat) (s : State) := foldl _ l s (hmove rank)
  unfold State.evacuate
  dsimp only
  refine trans (ite (setSlabs s _ fun x => ?_) (refl s)) (ite (refl _) ?_)
  · split
    · exact ⟨rfl, fun h => by cases h⟩
    · exact ⟨rfl, id⟩
  · exact ((hall _ 0 _).trans (hall _ 1 _)).trans (hall _ 2 _)

end Evacuates

/-! Abandoned moves (R221). -/

/-- The moves but for which of them hold a slot. -/
def State.unheld (s : State) : List Migration := s.mem.migrations.map fun m => { m with granted := false }

/-- The first move of slab `k`, if there is one, has not switched. -/
def Unswitched (k : Nat) (l : List Migration) : Prop := (∀ y ∈ l, y.key ≠ k) ∨ ∃ m, l.find? (fun m => m.key == k) = some m ∧ m.switched = false

theorem State.migration?_unheld (s : State) (k : Nat) :
    s.unheld.find? (fun m => m.key == k) = (s.migration? k).map fun m => { m with granted := false } := by
  unfold State.unheld State.migration?
  rw [List.find?_map]
  rfl

theorem State.unheld_filter (s : State) (f : Migration → Bool) (hf : ∀ m : Migration, f { m with granted := false } = f m) :
    (s.dropMoves f).unheld = s.unheld.filter fun m => !f m := by
  have hcomp : (fun m => !f m) ∘ (fun m : Migration => { m with granted := false }) = fun m => !f m := funext fun m => congrArg not (hf m)
  refine (Credits.dropMoves s f).moves.trans ?_
  unfold State.unheld
  rw [List.filter_map, hcomp]
  rfl

/-- The move of a slab is abandoned unless it has switched. -/
theorem State.unheld_abandonMove (s : State) (k : Nat) : (s.abandonMove k).unheld = s.unheld ∧ (Unswitched k s.unheld → ∀ y ∈ s.unheld, y.key ≠ k) ∨
    (s.abandonMove k).unheld = s.unheld.filter fun m => !(m.key == k) := by
  have hfind := s.migration?_unheld k
  unfold State.abandonMove
  cases hm : s.migration? k with
  | none =>
    refine .inl ⟨rfl, fun _ y hy hk => ?_⟩
    rw [hm, Option.map_none, List.find?_eq_none] at hfind
    exact hfind y hy (by simpa using hk)
  | some m =>
    dsimp only
    split
    next hsw =>
      refine .inl ⟨rfl, fun h => h.resolve_right ?_⟩
      rintro ⟨x, hx, hxs⟩
      rw [hm, hx] at hfind
      cases hfind
      simp [hsw] at hxs
    next => exact .inr (s.unheld_filter _ fun _ => rfl)

theorem Unswitched.abandonMove {s : State} {k : Nat} (h : Unswitched k s.unheld) (j : Nat) : Unswitched k (s.abandonMove j).unheld := by
  obtain ⟨hsame, -⟩ | hdrop := s.unheld_abandonMove j
  · rwa [hsame]
  · rw [hdrop]
    obtain hnone | ⟨m, hm, hsw⟩ := h
    · exact .inl fun y hy => hnone y (List.mem_filter.1 hy).1
    · by_cases hj : j = k
      · refine .inl fun y hy => ?_
        simpa [hj] using (List.mem_filter.1 hy).2
      · refine .inr ⟨m, ?_, hsw⟩
        rw [List.find?_filter, ← hm]
        refine congrArg (List.find? · s.unheld) (funext fun x => ?_)
        by_cases hx : x.key = k
        · simp [hx, Ne.symm hj]
        · simp [hx]

/-- Of the slabs whose first moves have not switched, the moves that are abandoned are gone. -/
theorem State.foldl_abandonMove (l : List Nat) {s : State} {k : Nat} (h : Unswitched k s.unheld) (hk : k ∈ l) :
    ∀ y ∈ (l.foldl State.abandonMove s).mem.migrations, y.key ≠ k := by
  have hgone (s : State) (l : List Nat) (h : ∀ y ∈ s.unheld, y.key ≠ k) : ∀ y ∈ (l.foldl State.abandonMove s).unheld, y.key ≠ k := by
    induction l generalizing s with
    | nil => exact h
    | cons j r ih =>
      refine ih _ ?_
      obtain ⟨hsame, -⟩ | hdrop := s.unheld_abandonMove j
      · rwa [hsame]
      · rw [hdrop]
        exact fun y hy => h y (List.mem_filter.1 hy).1
  suffices hall : ∀ y ∈ (l.foldl State.abandonMove s).unheld, y.key ≠ k from fun y hy => by
    have hall' := hall _ (List.mem_map_of_mem (f := fun m : Migration => { m with granted := false }) hy)
    exact hall'
  induction l generalizing s with
  | nil => cases hk
  | cons j r ih =>
    by_cases hj : j = k
    · subst hj
      refine hgone _ r ?_
      obtain ⟨hsame, hno⟩ | hdrop := s.unheld_abandonMove j
      · rw [hsame]
        exact hno h
      · rw [hdrop]
        intro y hy
        simpa using (List.mem_filter.1 hy).2
    · exact ih (h.abandonMove j) ((List.mem_cons.1 hk).resolve_left fun h => hj h.symm)

/-! Lost slabs (R219, R233). -/

/-- From `s` to `t` slabs have been lost: those left are of `s`, and every lease and reservation is as it was. -/
structure Loses (s t : State) : Prop where
  slabs : ∀ x ∈ t.mem.slabs, x ∈ s.mem.slabs ∨ x.tier = none
  leases : ∀ p, (t.part p).leases = (s.part p).leases
  res : ∀ p, (t.part p).res = (s.part p).res
  count : t.parts.length = s.parts.length

namespace Loses

theorem refl (s : State) : Loses s s := ⟨fun _ => .inl, fun _ => rfl, fun _ => rfl, rfl⟩

theorem trans {s t u : State} (h : Loses s t) (k : Loses t u) : Loses s u :=
  ⟨fun x hx => (k.slabs x hx).elim (h.slabs x) .inr, fun p => (k.leases p).trans (h.leases p), fun p => (k.res p).trans (h.res p), k.count.trans h.count⟩

theorem foldl {α : Type} (f : State → α → State) (l : List α) (s : State) (hf : ∀ s x, Loses s (f s x)) : Loses s (l.foldl f s) := by
  induction l generalizing s with
  | nil => exact refl s
  | cons x r ih => exact (hf s x).trans (ih _)

theorem of_blocks {s t : State} (hslabs : t.mem.slabs = s.mem.slabs) (hparts : t.parts = s.parts) : Loses s t :=
  ⟨fun _ hx => .inl (hslabs ▸ hx), fun p => by rw [State.part_congr hparts p], fun p => by rw [State.part_congr hparts p], by rw [hparts]⟩

/-- A lost slab has no tier any more. -/
theorem loseSlab (s : State) (k : Nat) : Loses s (s.loseSlab k) ∧ ∀ x ∈ (s.loseSlab k).mem.slabs, x.key = k → x.tier = none := by
  unfold State.loseSlab
  cases hk : s.slab? k with
  | none =>
    refine ⟨refl s, fun x hx hxk => absurd (List.find?_eq_none.1 hk x hx) ?_⟩
    simpa using hxk
  | some y =>
    have hdrop := Credits.dropMoves s fun m => m.key == k
    have hshift := Shifts.dropMoves s fun m => m.key == k
    have hslabs : (s.dropMoves fun m => m.key == k).mem.slabs = s.mem.slabs := hdrop.slabs
    dsimp only
    generalize (s.dropMoves fun m => m.key == k) = a at hslabs hshift
    have hmapped (x : Slab) (hx : x ∈ a.mem.slabs.map fun x => if x.key = k then { x with st := .lost, tier := none, lease := none } else x) :
        (x ∈ s.mem.slabs ∨ x.tier = none) ∧ (x.key = k → x.tier = none) := by
      obtain ⟨z, hz, rfl⟩ := List.mem_map.1 hx
      split
      · exact ⟨.inr rfl, fun _ => rfl⟩
      next hne => exact ⟨.inl (hslabs ▸ hz), fun h => absurd h hne⟩
    have hpart {α : Type} (f : Part → α) (hf : ∀ x, f { x with lostBit := true } = f x) (hf' : ∀ x : Part, f x.bare = f x) (u : State) (hu : u.parts = a.parts) (p : Nat) :
        f ((u.modPart y.part fun pt => { pt with lostBit := true }).part p) = f (s.part p) := by
      rw [← hshift.part_field f hf' p, State.part_modPart]
      split
      next h => rw [hf, h.1, State.part_congr hu]
      next => rw [State.part_congr hu]
    exact ⟨⟨fun x hx => (hmapped x hx).1, hpart _ (fun _ => rfl) (fun _ => rfl) _ rfl, hpart _ (fun _ => rfl) (fun _ => rfl) _ rfl,
      (State.parts_length_modPart _ _ _).trans hshift.count⟩, fun x hx => (hmapped x hx).2⟩

theorem foldl_loseSlab (l : List Nat) (s : State) :
    Loses s (l.foldl State.loseSlab s) ∧ ∀ x ∈ (l.foldl State.loseSlab s).mem.slabs, x.key ∈ l → x.tier = none := by
  induction l generalizing s with
  | nil => exact ⟨refl s, fun _ _ h => by cases h⟩
  | cons k r ih =>
    obtain ⟨hone, hk⟩ := loseSlab s k
    obtain ⟨hrest, hr⟩ := ih (s.loseSlab k)
    refine ⟨hone.trans hrest, fun x hx hxk => ?_⟩
    obtain rfl | hxr := List.mem_cons.1 hxk
    · exact (hrest.slabs x hx).elim (fun hx => hk x hx rfl) id
    · exact hr x hx hxr

/-- The slabs of a list that are lost have no tier any more. -/
theorem loseSlabs (s : State) (p : Nat) (l : List Nat) : Loses s (s.loseSlabs p l) ∧ ∀ x ∈ (s.loseSlabs p l).mem.slabs, x.key ∈ l → x.tier = none := by
  unfold State.loseSlabs
  split
  next h =>
    rw [List.isEmpty_iff] at h
    exact ⟨refl s, fun _ _ hx => by rw [h] at hx; cases hx⟩
  next =>
    obtain ⟨hall, hl⟩ := foldl_loseSlab l s
    have hlog := Logged.raiseP (l.foldl State.loseSlab s) 0x0321 p
    exact ⟨hall.trans (of_blocks (congrArg Mem.slabs hlog.mem) hlog.parts), fun x hx => hl x (congrArg Mem.slabs hlog.mem ▸ hx)⟩

end Loses

/-- Once the slabs of a lease have been lost, no slab of the partition lies there. -/
theorem State.leaseSlabs_lost (s : State) (p lender id : Nat) :
    ∀ x ∈ (s.loseSlabs p (s.leaseSlabs p lender id)).mem.slabs, x.part = p → x.lease ≠ some (lender, id) ∨ x.tier ≠ some .t4 := by
  intro x hx hp
  obtain ⟨hloses, hlost⟩ := Loses.loseSlabs s p (s.leaseSlabs p lender id)
  by_contra hcon
  rw [not_or, not_not, not_not] at hcon
  obtain ⟨hlease, htier⟩ := hcon
  obtain hmem | hnone := hloses.slabs x hx
  · have hkey : x.key ∈ s.leaseSlabs p lender id := by
      refine List.mem_map_of_mem (List.mem_filter.2 ⟨hmem, ?_⟩)
      simp [hp, hlease, htier]
    rw [hlost x hx hkey] at htier
    cases htier
  · rw [hnone] at htier
    cases htier

/-- At the deadlines of leases under reclaim no slab of the partition lies in them any more (R232 step 3). -/
theorem State.reclaims_lost (l : List Lease) (s : State) (p : Nat) :
    let t := l.foldl (fun s l => s.loseSlabs p (s.leaseSlabs p l.lender l.id)) s
    Loses s t ∧ ∀ x ∈ l, ∀ y ∈ t.mem.slabs, y.part = p → y.lease ≠ some (x.lender, x.id) ∨ y.tier ≠ some .t4 := by
  induction l generalizing s with
  | nil => exact ⟨.refl s, fun _ h => by cases h⟩
  | cons a r ih =>
    obtain ⟨hone, -⟩ := Loses.loseSlabs s p (s.leaseSlabs p a.lender a.id)
    obtain ⟨hrest, hr⟩ := ih (s.loseSlabs p (s.leaseSlabs p a.lender a.id))
    refine ⟨hone.trans hrest, fun x hx y hy hp => ?_⟩
    obtain rfl | hxr := List.mem_cons.1 hx
    · obtain hy | hnone := hrest.slabs y hy
      · exact s.leaseSlabs_lost p x.lender x.id y hy hp
      · exact .inr (by rw [hnone]; simp)
    · exact hr x hxr y hy hp

/-! The end of leases (R232 step 4). -/

/-- A lease of partition `p` ends with its RELEASE (R232 step 4). -/
def State.endReclaim (s : State) (p : Nat) (l : Lease) : State := (s.endLease p l.lender l.id).partCtrl l.lender 0 p (leaseMsg 5 p l.id l.slabs 0)

/-- The lease is gone, and RES_T4 has fallen by its slabs. -/
theorem State.endReclaim_part {s : State} {p : Nat} (hp : p < s.parts.length) (l : Lease) :
    ((s.endReclaim p l).part p).leases = (s.part p).leases.filter (fun x => !(x.lender == l.lender && x.id == l.id)) ∧
      ((s.endReclaim p l).part p).resOf .t4 =
        (s.part p).resOf .t4 - (((s.part p).leases.filter fun x => x.lender == l.lender && x.id == l.id).map (·.slabs)).sum ∧
      (s.endReclaim p l).parts.length = s.parts.length := by
  obtain ⟨hloses, -⟩ := Loses.loseSlabs s p (s.leaseSlabs p l.lender l.id)
  have haside := Aside.partCtrl (s.endLease p l.lender l.id) l.lender 0 p (leaseMsg 5 p l.id l.slabs 0)
  have hpart : (s.endReclaim p l).part p = (s.endLease p l.lender l.id).part p := State.part_congr haside.parts p
  have hend : (s.endLease p l.lender l.id).parts.length = s.parts.length := (State.parts_length_modPart _ _ _).trans hloses.count
  refine ⟨?_, ?_, (congrArg List.length haside.parts).trans hend⟩
  · rw [hpart, State.endLease, State.dropLease, State.part_modPart_self _ (hloses.count ▸ hp), hloses.leases]
  · rw [hpart, State.endLease, State.dropLease, State.part_modPart_self _ (hloses.count ▸ hp), hloses.leases]
    unfold Part.resOf
    dsimp only
    rw [hloses.res, getD_updAt]
    split
    · rfl
    next h =>
      have hlen : ¬3 < (s.part p).res.length := fun hl => h ⟨rfl, hl⟩
      rw [List.getD_eq_default _ _ (by simp only [tierIx]; omega), Nat.zero_sub]

/-- Leases that end are held no more; the others stay. -/
theorem State.foldl_endReclaim (l : List Lease) {s : State} {p : Nat} (hp : p < s.parts.length) :
    ((l.foldl (fun s x => s.endReclaim p x) s).part p).leases = (s.part p).leases.filter fun x => !l.any fun y => x.lender == y.lender && x.id == y.id := by
  induction l generalizing s with
  | nil => simp
  | cons a r ih =>
    obtain ⟨hleases, -, hcount⟩ := State.endReclaim_part hp a
    rw [List.foldl_cons, ih (hcount ▸ hp), hleases, List.filter_filter]
    refine List.filter_congr fun x _ => ?_
    rw [List.any_cons, Bool.not_or, Bool.and_comm]

end Sys2Proof.Machine
end

section
/-! SUPPORT. The reclaim of a lease, step by step (R185, R232, R371). -/

namespace Sys2Proof.Machine

/-- The loss of retained epochs touches no partition and nothing of the memory system (R371). -/
theorem State.loseHle_keeps (s : State) (f : Nat → Lease → Bool) :
    (s.loseHle f).mem = s.mem ∧ (s.loseHle f).parts = s.parts ∧ (s.loseHle f).link.losing = s.link.losing := by
  unfold State.loseHle
  dsimp only
  generalize s.hle.retained.filter (fun r => r.2.2.2.any (f r.1)) = gone
  suffices h : ∀ (l : List (Nat × Nat × List Bytes × List Lease)) (s : State),
      let t := l.foldl (fun s r => s.releaseLeases r.1 (r.2.2.2.filter fun l => !(s.part r.1).leases.any fun k => k.lender == l.lender && k.id == l.id)) s
      t.mem = s.mem ∧ t.parts = s.parts ∧ t.link.losing = s.link.losing from h gone s
  intro l
  induction l with
  | nil => exact fun s => ⟨rfl, rfl, rfl⟩
  | cons r l ih =>
    intro s
    obtain ⟨hmem, hparts, hlosing⟩ := ih (s.releaseLeases r.1 (r.2.2.2.filter fun l => !(s.part r.1).leases.any fun k => k.lender == l.lender && k.id == l.id))
    have haside := Aside.releaseLeases s r.1 (r.2.2.2.filter fun l => !(s.part r.1).leases.any fun k => k.lender == l.lender && k.id == l.id)
    exact ⟨hmem.trans (s.releaseLeases_keeps _ _).1, hparts.trans haside.parts, hlosing.trans (by rw [haside.link])⟩

theorem State.abandonEpoch_reclaimBit (s : State) (p k : Nat) : ((s.abandonEpoch p).part k).reclaimBit = (s.part k).reclaimBit := by
  have hcellar := Aside.forgetCellar s (exportWho p)
  unfold State.abandonEpoch
  split
  · rfl
  · generalize s.forgetCellar (exportWho p) = v at hcellar
    rw [State.part_congr (Logged.raiseP _ 0x0212 p).parts k, State.modStream, State.part_modPart, ← State.part_congr hcellar.parts k]
    split
    next h => rw [h.1]
    next => rfl

/-- The epoch of a partition that goes to the cellar is abandoned with its lease (R185). -/
theorem State.cellarFails_of_cellar {s : State} {p : Nat} {e : Epoch} (he : (s.part p).stream.epoch = some e) (hd : epochDest (s.part p).stream.cfg e = 1) :
    s.cellarFails p = s.destFails p := by
  unfold State.cellarFails
  simp only [he, hd, if_true]

/-- A partition with no epoch that goes to the cellar loses none with a lease. -/
theorem State.cellarFails_of_other {s : State} {p : Nat} (h : ∀ e, (s.part p).stream.epoch = some e → epochDest (s.part p).stream.cfg e ≠ 1) :
    s.cellarFails p = s := by
  unfold State.cellarFails
  dsimp only
  split
  next e he => rw [if_neg (h e he)]
  next => rfl

/-- A lease under reclaim, given by its lender and LEASE_ID, since `now` and with a notice. -/
def Lease.marked (l : Lease) (at_ : Nat × Nat) (now ms : Nat) : Lease := if (l.lender, l.id) = at_ then { l with reclaim := some now, noticeMs := ms } else l

/-- A partition whose lease `at_` comes under reclaim. -/
def Part.marked (x : Part) (at_ : Nat × Nat) (now ms : Nat) : Part := { x with reclaimBit := true, leases := x.leases.map fun l => l.marked at_ now ms }

/-- A reclaim marks the lease, sets RECLAIM and records event 0x0320 (R232 step 1). -/
def State.markReclaim (s : State) (p : Nat) (at_ : Nat × Nat) (now ms : Nat) : State := (s.modPart p fun pt => pt.marked at_ now ms).raiseP 0x0320 p

theorem State.markReclaim_leaves {s : State} {p : Nat} (hp : p < s.parts.length) (at_ : Nat × Nat) (now ms : Nat) :
    let u := s.markReclaim p at_ now ms
    u.mem = s.mem ∧ u.link.losing = s.link.losing ∧ u.parts.length = s.parts.length ∧ u.part p = (s.part p).marked at_ now ms := by
  have hlog := Logged.raiseP (s.modPart p fun pt => pt.marked at_ now ms) 0x0320 p
  have hlosing := congrArg Link.losing hlog.link
  exact ⟨hlog.mem, hlosing, (congrArg List.length hlog.parts).trans (State.parts_length_modPart _ _ _),
    (State.part_congr hlog.parts p).trans (State.part_modPart_self _ hp)⟩

/-- A slab that rests in the lease `at_` of partition `p` is evacuated (R232 step 2). -/
def Slab.evacuated (x : Slab) (p : Nat) (at_ : Nat × Nat) : Slab := if x.part = p ∧ x.lease = some at_ ∧ x.st = .resident then { x with st := .evacuating } else x

theorem Slab.evacuated_st (x : Slab) (p : Nat) (at_ : Nat × Nat) : (x.evacuated p at_).part = x.part ∧ (x.evacuated p at_).lease = x.lease ∧
    (x.part = p → x.lease = some at_ → (x.evacuated p at_).st ≠ .resident) := by
  unfold Slab.evacuated
  split
  · exact ⟨rfl, rfl, fun _ _ h => by cases h⟩
  next hno => exact ⟨rfl, rfl, fun hp hl hst => hno ⟨hp, hl, hst⟩⟩

/-- Moves into the lease are abandoned, and what rests there is evacuated (R232 steps 1 and 2). -/
def State.clearLease (s : State) (p : Nat) (at_ : Nat × Nat) : State :=
  let a := ((s.mem.migrations.filter fun m => !m.switched && m.lease == some at_).map (·.key)).foldl State.abandonMove s
  (a.setSlabs (a.mem.slabs.map fun x => x.evacuated p at_)).evacuate p

theorem Shifts.clearLease (s : State) (p : Nat) (at_ : Nat × Nat) : Shifts s (s.clearLease p at_) :=
  ((foldl _ _ s fun s k => abandonMove s k).trans (setSlabs _ _)).trans (evacuate _ p)

/-- No slab of the partition rests in the lease any more. -/
theorem State.clearLease_slabs (s : State) (p : Nat) (at_ : Nat × Nat) :
    ∀ x ∈ (s.clearLease p at_).mem.slabs, x.part = p → x.lease = some at_ → x.st ≠ .resident := by
  intro x hx hp hl hst
  obtain ⟨y, hy, hxy, hrest⟩ := (Evacuates.evacuate _ p).slabs x hx
  obtain ⟨z, -, rfl⟩ := List.mem_map.1 hy
  obtain ⟨hpart, hlease, hno⟩ := z.evacuated_st p at_
  rw [hxy] at hp hl
  exact hno (hpart.symm.trans hp) (hlease.symm.trans hl) (hrest hst)

/-- A move into the lease that had not switched goes there no more. -/
theorem State.clearLease_moves {s : State} {k : Nat} {m : Migration} (p : Nat) {at_ : Nat × Nat} (hm : s.migration? k = some m) (hsw : m.switched = false)
    (hlease : m.lease = some at_) : ∀ y ∈ (s.clearLease p at_).mem.migrations, y.key = k → y.lease ≠ some at_ := by
  intro y hy hk hl
  have hfirst : Unswitched k s.unheld := .inr ⟨{ m with granted := false }, by rw [State.migration?_unheld, hm]; rfl, hsw⟩
  have hkey : m.key = k := by simpa using List.find?_some hm
  have hinto : k ∈ (s.mem.migrations.filter fun m => !m.switched && m.lease == some at_).map (·.key) :=
    List.mem_map.2 ⟨m, List.mem_filter.2 ⟨List.mem_of_find?_eq_some hm, by simp [hsw, hlease]⟩, hkey⟩
  obtain ⟨z, hz, hzk, -⟩ := (Evacuates.evacuate _ p).moves y hy (by simp [hl])
  exact State.foldl_abandonMove _ hfirst hinto z hz (hzk.trans hk)

end Sys2Proof.Machine
end

section
open Sys2Proof Sys2Proof.Machine

namespace Sys2Proof.Claims

/-- A LEASE_RECLAIM of a lease that the partition holds. -/
theorem leaseReclaim_of_held {h : PftHdr} {p : Fin 16} {lease : BitVec 32} (ms : BitVec 16) {s : State} (ha : AcceptsLease s h)
    (hheld : ∃ l ∈ (s.part p.val).leases, l.lender = h.srcEp.toNat ∧ l.id = lease.toNat) :
    ∃ r : State, r.mem = s.mem ∧ r.parts = s.parts ∧ r.link.losing = s.link.losing ∧
      exec (.leaseReclaim h p lease ms) s = .next (((r.markReclaim p.val (h.srcEp.toNat, lease.toNat) s.nowUs ms.toNat).clearLease p.val (h.srcEp.toNat, lease.toNat)).cellarFails p.val) := by
  obtain ⟨-, hr⟩ := ha.1.rxData
  obtain ⟨hmem, hparts, hlosing⟩ := (s.rxData h 5).1.loseHle_keeps fun q l => q == p.val && (l.lender, l.id) == (h.srcEp.toNat, lease.toNat)
  have hany : ((s.rxData h 5).1.part p.val).leases.any (fun l => (l.lender, l.id) == (h.srcEp.toNat, lease.toNat)) = true := by
    obtain ⟨l, hl, hlender, hid⟩ := hheld
    rw [hr.part]
    exact List.any_eq_true.2 ⟨l, hl, by simp [hlender, hid]⟩
  refine ⟨_, hmem.trans hr.mem, hparts.trans hr.parts, hlosing.trans (by rw [hr.link]), ?_⟩
  change execLeaseReclaim h p lease ms s = _
  unfold execLeaseReclaim
  simp only [ha.rxLease, hany, Bool.not_true, Bool.false_eq_true, if_false, hr.nowUs]
  rfl

/-- An admission of O35 that collects its leases. -/
theorem admission_collects (h : PftHdr) (p : Fin 16) (k : Nat) (bs : Bytes) (s : State) (hlen : s.parts.length = 16) (hask : s.fab.asking = some (p.val, k, bs))
    (hk : k < 8) (_ : (admDesc bs).part = p.val) :
    let asked := bits (s.mem.lenders.getD k 0).toNat 19 0
    (∀ lease slabs noticeMs, AcceptsLease s h → h.srcEp.toNat = asked → s.grantOk slabs.toNat noticeMs.toNat = true →
      ∃ b : State, exec (.leaseGrant h p lease slabs noticeMs) s = .next (b.askNext (k + 1) bs).settle ∧ b.mem = s.mem ∧
        (b.part p.val).leases = (s.part p.val).leases ++ [{ lender := asked, id := lease.toNat, slabs := slabs.toNat, noticeMs := noticeMs.toNat }]) ∧
    (AcceptsLease s h → h.srcEp.toNat = asked → exec (.leaseRefuse h p) s = .next (State.askNext (s.rxData h 5).1 (k + 1) bs).settle) ∧
    exec (.lenderTimeout p) s = .next ((s.forgetPkts [(asked, s.fab.askSeq)] ctrlClass).askNext (k + 1) bs).settle ∧
    (0 < (admDesc bs).resOf .t4 →
      ∃ t : State, exec (.leaseAdmissionDeadline p) s = .next t ∧ (t.part p.val).leases = [] ∧ t.adm.status = 0x0381 ∧ t.adm.busy = false ∧
        t.fab.asking = none ∧ t.mem = s.mem) := by
  have hasked : s.askedEp = some (p.val, k, bits (s.mem.lenders.getD k 0).toNat 19 0, bs) := by
    unfold State.askedEp
    simp only [hask, if_pos hk]
  have hasked' (ha : AcceptsLease s h) : (s.rxData h 5).1.askedEp = some (p.val, k, bits (s.mem.lenders.getD k 0).toNat 19 0, bs) := by
    obtain ⟨-, hr⟩ := ha.1.rxData
    have hasking : (s.rxData h 5).1.fab.asking = s.fab.asking := by rw [hr.fab]
    rw [← hasked]
    unfold State.askedEp
    rw [hasking, hr.mem]
  refine ⟨fun lease slabs noticeMs ha hep hok => ?_, fun ha hep => ?_, ?_, fun hres => ?_⟩
  · obtain ⟨-, hr⟩ := ha.1.rxData
    have hok' : (s.rxData h 5).1.grantOk slabs.toNat noticeMs.toNat = true := by
      unfold State.grantOk at hok ⊢
      rwa [hr.mem]
    refine ⟨(s.rxData h 5).1.modPart p.val fun pt => { pt with
      leases := pt.leases ++ [{ lender := h.srcEp.toNat, id := lease.toNat, slabs := slabs.toNat, noticeMs := noticeMs.toNat }] }, ?_, hr.mem, ?_⟩
    · change execLeaseGrant h p lease slabs noticeMs s = _
      unfold execLeaseGrant
      simp only [ha.rxLease, hasked' ha, hep, hok', Bool.not_true, Bool.false_eq_true, if_false, ne_eq, not_true_eq_false, or_self, if_true]
    · rw [State.part_modPart_self]
      case hp => rw [hr.parts, hlen]; exact p.isLt
      rw [hr.part, hep]
  · change execLeaseRefuse h p s = _
    unfold execLeaseRefuse
    simp only [ha.rxLease, hasked' ha, hep, Bool.not_true, Bool.false_eq_true, if_false, and_self, if_true]
  · change execLenderTimeout p s = _
    unfold execLenderTimeout
    simp only [hasked, if_true]
  · have haside := Aside.releaseLeases s p.val (s.part p.val).leases
    refine ⟨s.failAdmit p.val 0x0381, ?_, ?_, rfl, rfl, rfl, (s.releaseLeases_keeps _ _).1⟩
    · change execLeaseAdmissionDeadline p s = _
      unfold execLeaseAdmissionDeadline
      simp only [hask, hres, and_self, if_true]
    · change (((s.releaseLeases p.val (s.part p.val).leases).modPart p.val fun pt => { pt with leases := [] }).part p.val).leases = _
      rw [State.part_modPart_self]
      rw [haside.parts, hlen]
      exact p.isLt

/-- A reclaim of O35. -/
theorem lease_reclaimed (h : PftHdr) (p : Fin 16) (lease : BitVec 32) (ms : BitVec 16) (s : State) (hlen : s.parts.length = 16) (ha : AcceptsLease s h)
    (hheld : ∃ l ∈ (s.part p.val).leases, l.lender = h.srcEp.toNat ∧ l.id = lease.toNat) :
    (∀ e, (s.part p.val).stream.epoch = some e → epochDest (s.part p.val).stream.cfg e = 1 → s.link.losing = false →
      ∃ u : State, exec (.leaseReclaim h p lease ms) s = .next (u.retryPool p.val).settle ∧ (u.part p.val).stream.epoch = none ∧
        (u.part p.val).stream.destLost = true ∧ (u.part p.val).reclaimBit = true ∧ u.err.lastCode = 0x0212) ∧
    ((∀ e, (s.part p.val).stream.epoch = some e → epochDest (s.part p.val).stream.cfg e ≠ 1) →
    ∃ t : State, exec (.leaseReclaim h p lease ms) s = .next t ∧ (t.part p.val).reclaimBit = true ∧
      (∀ l ∈ (t.part p.val).leases, l.lender = h.srcEp.toNat → l.id = lease.toNat → l.reclaim ≠ none ∧ l.noticeMs = ms.toNat) ∧
      (∀ k m, s.migration? k = some m → m.switched = false → m.lease = some (h.srcEp.toNat, lease.toNat) →
        ∀ y ∈ t.mem.migrations, y.key = k → y.lease ≠ some (h.srcEp.toNat, lease.toNat)) ∧ t.mem.dev = s.mem.dev ∧
      (∀ x ∈ t.mem.slabs, x.part = p.val → x.lease = some (h.srcEp.toNat, lease.toNat) → x.st ≠ .resident)) := by
  obtain ⟨r, hrmem, hrparts, hrlosing, hexec⟩ := leaseReclaim_of_held ms ha hheld
  have hrp : p.val < r.parts.length := by rw [hrparts, hlen]; exact p.isLt
  obtain ⟨hmem, hlosing, hcount, hpart⟩ := State.markReclaim_leaves hrp (h.srcEp.toNat, lease.toNat) s.nowUs ms.toNat
  rw [State.part_congr hrparts] at hpart
  rw [hexec]
  generalize r.markReclaim p.val (h.srcEp.toNat, lease.toNat) s.nowUs ms.toNat = a at hmem hlosing hcount hpart
  have hshift := Shifts.clearLease a p.val (h.srcEp.toNat, lease.toNat)
  have hstreamc := (hshift.stream p.val).trans (congrArg Part.stream hpart)
  rw [show ((s.part p.val).marked _ _ _).stream = (s.part p.val).stream from rfl] at hstreamc
  have hbitc := (hshift.reclaimBit p.val).trans (congrArg Part.reclaimBit hpart)
  refine ⟨fun e he hdest hnot => ?_, fun hdest => ⟨a.clearLease p.val (h.srcEp.toNat, lease.toNat), ?_, hbitc, ?_, ?_, ?_, a.clearLease_slabs _ _⟩⟩
  · have hcp : p.val < (a.clearLease p.val (h.srcEp.toNat, lease.toNat)).parts.length := by rw [hshift.count, hcount]; exact hrp
    have hlosingc : (a.clearLease p.val (h.srcEp.toNat, lease.toNat)).link.losing = false := by rw [hshift.link, hlosing, hrlosing, hnot]
    generalize a.clearLease p.val (h.srcEp.toNat, lease.toNat) = c at hstreamc hbitc hcp hlosingc
    obtain ⟨-, hulosing, hcode, hustream⟩ := State.abandonEpoch_leaves hcp (hstreamc.symm ▸ he)
    refine ⟨c.abandonEpoch p.val, ?_, by rw [hustream], by rw [hustream], ?_, hcode⟩
    · rw [State.cellarFails_of_cellar (hstreamc.symm ▸ he) (hstreamc.symm ▸ hdest), State.destFails, hstreamc, he,
        State.epochOver_of_closed e (by rw [hustream]) (hulosing.trans hlosingc)]
    · exact (State.abandonEpoch_reclaimBit c p.val p.val).trans hbitc
  · rw [State.cellarFails_of_other (hstreamc.symm ▸ hdest)]
  · intro l hl hlender hid
    rw [hshift.leases, hpart] at hl
    obtain ⟨x, -, rfl⟩ := List.mem_map.1 hl
    unfold Lease.marked at hlender hid ⊢
    split at hlender
    next heq => rw [if_pos heq]; exact ⟨by simp, rfl⟩
    next hne =>
      rw [if_neg hne] at hid
      exact absurd (Prod.ext hlender hid) hne
  · intro k m hm hsw hml
    have hma : a.migration? k = some m := by unfold State.migration? at hm ⊢; rwa [hmem, hrmem]
    exact State.clearLease_moves p.val hma hsw hml
  · rw [hshift.dev, hmem, hrmem]

/-- The end of a reclaim of O35. -/
theorem reclaim_ends (p : Fin 16) (lease : BitVec 32) (s : State) (hlen : s.parts.length = 16) :
    (∃ t : State, exec (.reclaimDeadline p lease) s = .next t ∧
      ∀ l ∈ s.reclaimed p.val lease.toNat, ∀ x ∈ t.mem.slabs, x.part = p.val → x.lease ≠ some (l.lender, l.id) ∨ x.tier ≠ some .t4) ∧
    (∃ t : State, exec (.reclaimNoticeEnd p lease) s = .next t ∧
      (∀ l ∈ (t.part p.val).leases, l.id = lease.toNat → l.reclaim = none) ∧
      ∀ l, s.reclaimed p.val lease.toNat = [l] → ((s.part p.val).leases.filter fun x => x.lender == l.lender && x.id == l.id) = [l] →
        (t.part p.val).resOf .t4 = (s.part p.val).resOf .t4 - l.slabs) := by
  have hp : p.val < s.parts.length := by rw [hlen]; exact p.isLt
  refine ⟨⟨_, rfl, (State.reclaims_lost _ s p.val).2⟩, ⟨(s.reclaimed p.val lease.toNat).foldl (fun s x => s.endReclaim p.val x) s, rfl, ?_, ?_⟩⟩
  · intro l hl hid
    rw [State.foldl_endReclaim _ hp] at hl
    obtain ⟨hmem, hnot⟩ := List.mem_filter.1 hl
    by_contra hsome
    have hin : l ∈ s.reclaimed p.val lease.toNat :=
      List.mem_filter.2 ⟨hmem, by simpa [hid, Option.isSome_iff_ne_none] using hsome⟩
    simp only [Bool.not_eq_true', List.any_eq_false] at hnot
    exact hnot l hin (by simp)
  · intro l hone hown
    rw [hone]
    obtain ⟨-, hres, -⟩ := State.endReclaim_part hp l
    rw [hown] at hres
    simpa using hres

/-- Settles O35: each step of an admission by the lender asked, and a reclaim by its notice, its deadline and its end. -/
theorem borrowersCollectAndGiveBackLeases : Obligations.BorrowersCollectAndGiveBackLeases := by
  unfold Obligations.BorrowersCollectAndGiveBackLeases
  exact ⟨admission_collects, lease_reclaimed, reclaim_ends⟩

end Sys2Proof.Claims
end

section
/-! SUPPORT. What the writing of a record leaves besides the ring, and the pinning of a gradient set's slabs (R159, R220, R261, R262). -/

namespace Sys2Proof.Machine

/-! Records (R261, R262). -/

/-- A partition but for its accounting and POOL_WAIT. -/
def Part.still (x : Part) : Part := { x with acct := {}, stream := { x.stream with poolWait := false } }

/-- From `s` to `t` records have been written or are held: of the memory system only host memory has changed, and every queue has its commands. -/
structure Files (s t : State) : Prop where
  mem : t.mem = { s.mem with hostMem := t.mem.hostMem }
  fab : t.fab = s.fab
  parts : t.parts.map Part.still = s.parts.map Part.still
  fifos : t.queues.map Queue.fifo = s.queues.map Queue.fifo

namespace Files

theorem refl (s : State) : Files s s := ⟨rfl, rfl, rfl, rfl⟩

theorem trans {s t u : State} (h : Files s t) (k : Files t u) : Files s u :=
  ⟨k.mem.trans (by rw [h.mem]), k.fab.trans h.fab, k.parts.trans h.parts, k.fifos.trans h.fifos⟩

theorem ite {c : Prop} [Decidable c] {s a b : State} (ha : Files s a) (hb : Files s b) : Files s (if c then a else b) := by
  split
  · exact ha
  · exact hb

theorem foldl {α : Type} (f : State → α → State) (l : List α) (s : State) (hf : ∀ s x, Files s (f s x)) : Files s (l.foldl f s) := by
  induction l generalizing s with
  | nil => exact refl s
  | cons x r ih => exact (hf s x).trans (ih _)

theorem of_logged {s t : State} (h : Logged s t) : Files s t :=
  ⟨by rw [h.mem], h.fab, by rw [h.parts], by rw [h.queues]⟩

section
variable {s t : State} (h : Files s t)
include h

theorem slab? (k : Nat) : t.slab? k = s.slab? k := by unfold State.slab?; rw [h.mem]
theorem migration? (k : Nat) : t.migration? k = s.migration? k := by unfold State.migration?; rw [h.mem]
theorem regions : t.mem.regions = s.mem.regions := by rw [h.mem]
theorem slabs : t.mem.slabs = s.mem.slabs := by rw [h.mem]
theorem dev : t.mem.dev = s.mem.dev := by rw [h.mem]

/-- A field of a partition that is neither of its accounting nor POOL_WAIT. -/
theorem part_field {α : Type} (f : Part → α) (hf : ∀ x, f x.still = f x) (p : Nat) : f (t.part p) = f (s.part p) := by
  have hstill := State.part_field_of_map h.parts p
  rw [← hf (t.part p), hstill, hf]

theorem fifo (q : Nat) : (t.queue q).fifo = (s.queue q).fifo := by
  have hmap (u : State) : (u.queue q).fifo = (u.queues.map Queue.fifo).getD q [] := (List.getD_map _ ({} : Queue) Queue.fifo).symm
  rw [hmap, hmap, h.fifos]

end

section
variable (s : State) (q : Nat)

theorem modQueue (f : Queue → Queue) (hf : ∀ x, (f x).fifo = x.fifo) : Files s (s.modQueue q f) := ⟨rfl, rfl, rfl, map_updAt Queue.fifo _ _ _ {} (hf _)⟩

theorem modPart (p : Nat) (f : Part → Part) (hf : ∀ x, (f x).still = x.still) : Files s (s.modPart p f) := ⟨rfl, rfl, map_updAt Part.still _ _ _ {} (hf _), rfl⟩

theorem modAcct (f : Acct → Acct) : Files s (s.modAcct q f) := (modPart s _ _ (by intro; rfl)).trans (modQueue _ q _ (by intro; rfl))

theorem setLine (l : DirLine) : Files s (s.setLine l) := ⟨rfl, rfl, rfl, rfl⟩

theorem hostWrite (a : Nat) (bs : Bytes) : Files s (s.hostWrite a bs) := ⟨rfl, rfl, rfl, rfl⟩

theorem evictLine (line : Nat) : Files s (s.evictLine line) := by
  unfold State.evictLine
  refine trans ?_ (setLine _ _)
  split
  · exact hostWrite s _ _
  · exact refl s

theorem held (l : List DirLine) : Files s (l.foldl (fun s l => s.evictLine l.line) s) := foldl _ _ s fun s l => evictLine s l.line

theorem cxlAsk (l : List CxlReq) (ls : List Nat) : Files s (s.cxlAsk l ls) := ⟨rfl, rfl, rfl, rfl⟩

theorem coherentWrite (a : Nat) (bs : Bytes) : Files s (s.coherentWrite a bs) := by
  have hheld := held s (s.fabric.lines.filter fun l => decide (64 * l.line < a + bs.length ∧ a < 64 * l.line + 64))
  unfold State.coherentWrite
  dsimp only
  generalize List.foldl (fun s (l : DirLine) => s.evictLine l.line) s _ = t at hheld ⊢
  exact ((hheld.trans (hostWrite t a bs)).trans (cxlAsk _ _ _)).trans (cxlAsk _ _ _)

theorem writeRecord (r : Bytes) : Files s (s.writeRecord q r) :=
  ((coherentWrite s _ _).trans (modQueue _ q _ (by intro; rfl))).trans (of_logged (s.logged_writeRecord q r))

theorem flushRecs (n : Nat) : Files s (State.flushRecs q n s) := by
  induction n generalizing s with
  | zero => exact refl s
  | succ n ih =>
    unfold State.flushRecs
    split
    · exact refl s
    · split
      · exact ((writeRecord s q _).trans (modQueue _ q _ (by intro; rfl))).trans (ih _)
      · exact refl s

theorem complete (c : Cmd) (status : Nat) : Files s (s.complete q c status) :=
  (modAcct s q _).trans ((modQueue _ q _ (by intro; rfl)).trans (flushRecs _ q _))

theorem fixPoolWait (p : Nat) : Files s (s.fixPoolWait p) := (refl s).ite (modPart s p _ fun _ => rfl)

end

end Files

/-! Slabs by their numbers. -/

theorem State.slab?_setSlabs_map (s : State) (f : Slab → Slab) (hf : ∀ x, (f x).key = x.key) (k : Nat) :
    (s.setSlabs (s.mem.slabs.map f)).slab? k = (s.slab? k).map f := by
  unfold State.slab?
  change List.find? _ (s.mem.slabs.map f) = _
  rw [List.find?_map]
  have hcomp : (fun x : Slab => x.key == k) ∘ f = fun x => x.key == k := funext fun x => by rw [Function.comp_apply, hf]
  rw [hcomp]

theorem State.key_of_slab? {s : State} {k : Nat} {x : Slab} (h : s.slab? k = some x) : x.key = k := by simpa using List.find?_some h

/-- From `s` to `t` every slab that was mapped is mapped still: of it only the state may have changed, and whether a set pins it, which stays once it does. -/
def SlabsStay (s t : State) : Prop :=
  ∀ k x, s.slab? k = some x → ∃ y, t.slab? k = some y ∧ y = { x with st := y.st, gset := y.gset } ∧ (x.gset = true → y.gset = true)

namespace SlabsStay

theorem refl (s : State) : SlabsStay s s := fun _ x hx => ⟨x, hx, rfl, id⟩

theorem trans {s t u : State} (h : SlabsStay s t) (k : SlabsStay t u) : SlabsStay s u := fun j x hx => by
  obtain ⟨y, hy, hxy, hgy⟩ := h j x hx
  obtain ⟨z, hz, hyz, hgz⟩ := k j y hy
  exact ⟨z, hz, hyz.trans (by rw [hxy]), fun hg => hgz (hgy hg)⟩

theorem of_slabs {s t : State} (h : t.mem.slabs = s.mem.slabs) : SlabsStay s t := fun k x hx => ⟨x, by unfold State.slab? at hx ⊢; rwa [h], rfl, id⟩

theorem map (s : State) (f : Slab → Slab) (hf : ∀ x, f x = { x with st := (f x).st, gset := (f x).gset } ∧ (x.gset = true → (f x).gset = true)) :
    SlabsStay s (s.setSlabs (s.mem.slabs.map f)) := fun k x hx => by
  obtain ⟨heq, hg⟩ := hf x
  refine ⟨f x, ?_, heq, hg⟩
  have hkey (x : Slab) : (f x).key = x.key := by rw [(hf x).1]
  rw [State.slab?_setSlabs_map s f hkey, hx]
  rfl

theorem modSlab (s : State) (k : Nat) (f : Slab → Slab) (hf : ∀ x, f x = { x with st := (f x).st, gset := (f x).gset } ∧ (x.gset = true → (f x).gset = true)) :
    SlabsStay s (s.modSlab k f) := map s _ fun x => by
  split
  · exact hf x
  · exact ⟨rfl, id⟩

theorem abandonMove (s : State) (k : Nat) : SlabsStay s (s.abandonMove k) := by
  unfold State.abandonMove
  split
  · exact refl s
  · split
    · exact refl s
    · exact (of_slabs (Credits.dropMoves s _).slabs).trans (modSlab _ k _ fun _ => ⟨rfl, id⟩)

end SlabsStay

/-! Moves by their slabs. -/

/-- A move but for its frame and whether it holds a slot. -/
def Migration.slim (m : Migration) : Migration := { m with granted := false, frame := 0 }

/-- The move of slab `k` but for those. -/
def State.moveOf (s : State) (k : Nat) : Option Migration := (s.migration? k).map Migration.slim

theorem State.moveOf_eq (s : State) (k : Nat) : s.moveOf k = (s.unheld.find? fun m => m.key == k).map Migration.slim := by
  rw [State.migration?_unheld, Option.map_map]
  rfl

theorem State.moveOf_congr {s t : State} (h : t.unheld = s.unheld) (k : Nat) : t.moveOf k = s.moveOf k := by
  rw [State.moveOf_eq, State.moveOf_eq, h]

/-- An abandoned move is gone unless it has switched, and the moves of the other slabs are as they were (R221). -/
theorem State.moveOf_abandonMove (s : State) (j k : Nat) :
    (k ≠ j → (s.abandonMove j).moveOf k = s.moveOf k) ∧ ((∀ m, s.moveOf j = some m → m.switched = false) → (s.abandonMove j).moveOf j = none) := by
  obtain ⟨hsame, hno⟩ | hdrop := s.unheld_abandonMove j
  · refine ⟨fun _ => State.moveOf_congr hsame k, fun hfree => ?_⟩
    rw [State.moveOf_congr hsame j]
    cases hm : s.unheld.find? fun m => m.key == j with
    | none => rw [State.moveOf_eq, hm]; rfl
    | some m =>
      have hsw : m.switched = false := hfree m.slim (by rw [State.moveOf_eq, hm]; rfl)
      exact absurd (by simpa using List.find?_some hm) (hno (.inr ⟨m, hm, hsw⟩) m (List.mem_of_find?_eq_some hm))
  · refine ⟨fun hk => ?_, fun _ => ?_⟩
    · rw [State.moveOf_eq, State.moveOf_eq, hdrop, List.find?_filter]
      refine congrArg (fun f => (s.unheld.find? f).map Migration.slim) (funext fun m => ?_)
      by_cases hm : m.key = k
      · simp [hm, hk]
      · simp [hm]
    · rw [State.moveOf_eq, hdrop, List.find?_eq_none.2]
      · rfl
      · intro m hm
        simpa using (List.mem_filter.1 hm).2

/-! A move to T1 (R159, R210, R220). -/

/-- The move of slab `x` to T1, near the B-die `near` if there is one. -/
def Slab.moveToT1 (x : Slab) (k : Nat) (src : Tier) (near : Option Nat) (frame : Nat) : Migration :=
  { key := k, src := src, dst := .t1, cls := 2, frame := frame, near := near, srcNear := x.near, srcFrame := x.frame, srcLease := x.lease, srcMoved := x.moved
    bdie := homeDie (some src) x.near x.frame }

/-- The state in which that move has started and has asked for a slot. -/
def State.movingToT1 (s : State) (k : Nat) (x : Slab) (src : Tier) (near : Option Nat) : State :=
  (s.nextFrame.2.setMigrations (s.mem.migrations ++ [x.moveToT1 k src near s.mem.nextFrame])).modSlab k fun y => { y with st := if y.st = .resident then .migrating else y.st }

/-- A slab outside T1 with a place there and no move yet starts one. -/
theorem State.startMove_t1 {s : State} {k : Nat} {x : Slab} {src : Tier} {near : Option Nat} (hx : s.slab? k = some x) (ht : x.tier = some src)
    (hplace : s.placeT1 x.part x.pieceCore = some near) (hsrc : src ≠ .t1) (hm : s.migration? k = none) :
    s.startMove k .t1 2 = (s.movingToT1 k x src near).serveMoves := by
  unfold State.startMove
  simp only [hx, ht, hplace, hsrc, hm, if_true, Option.isSome_none, Bool.false_eq_true, false_and, or_self, reduceCtorEq, if_false]
  rfl

/-- A slab that moves already does not start. -/
theorem State.startMove_of_moving {s : State} {k : Nat} (dst : Tier) (cls rank : Nat) (hm : (s.migration? k).isSome = true) : s.startMove k dst cls rank = s := by
  unfold State.startMove
  split
  · rfl
  · split
    · rfl
    · dsimp only
      split
      · rfl
      · rw [if_pos (.inr (.inl hm))]

theorem State.unheld_movingToT1 (s : State) (k : Nat) (x : Slab) (src : Tier) (near : Option Nat) :
    (s.movingToT1 k x src near).unheld = s.unheld ++ [x.moveToT1 k src near s.mem.nextFrame] := by
  change (s.mem.migrations ++ [x.moveToT1 k src near s.mem.nextFrame]).map _ = _
  rw [List.map_append]
  rfl

theorem SlabsStay.movingToT1 (s : State) (k : Nat) (x : Slab) (src : Tier) (near : Option Nat) : SlabsStay s ((s.movingToT1 k x src near).serveMoves) :=
  ((of_slabs rfl).trans (modSlab _ k _ (by exact fun _ => ⟨rfl, id⟩))).trans (of_slabs (Credits.serveMoves _).slabs)

end Sys2Proof.Machine
end

section
/-! SUPPORT. The pinning of a gradient set's slabs: what it reads of the state, and what it leaves (R159, R210, R212, R220). -/

namespace Sys2Proof.Machine

/-! What the placement in T1 reads. -/

/-- A slab but for its tier of R156 and its pin. -/
def Slab.slim (x : Slab) : Slab := { x with home := none, gset := false }

/-- What is read of a slab besides those is the same of two that differ in nothing else. -/
theorem Slab.field_of_slim {α : Type} {x y : Slab} (f : Slab → α) (hf : ∀ x, f x.slim = f x) (h : y.slim = x.slim) : f y = f x := by rw [← hf y, h, hf]

theorem Migration.field_of_slim {α : Type} {m n : Migration} (f : Migration → α) (hf : ∀ m, f m.slim = f m) (h : n.slim = m.slim) : f n = f m := by
  rw [← hf n, h, hf]

/-- The staging slabs of a queue's commands, with the queue's owner. -/
def Queue.stages (x : Queue) : Bool × Nat × List (Nat × Tier × Option Nat) := (x.assigned, x.part, x.fifo.flatMap fun c => c.staged.slabs)

/-- Two states in which the same slabs find the same places in T1. -/
structure Alike (s t : State) : Prop where
  slabs : t.mem.slabs.map Slab.slim = s.mem.slabs.map Slab.slim
  moves : t.mem.migrations.map Migration.slim = s.mem.migrations.map Migration.slim
  bare : t.parts.map Part.bare = s.parts.map Part.bare
  stages : t.queues.map Queue.stages = s.queues.map Queue.stages

/-- What a filter of a list gives, where the filter and the values are read from a projection. -/
theorem map_filter_congr {α β γ : Type} {pr : α → γ} {l m : List α} (h : l.map pr = m.map pr) (f : γ → Bool) (g : γ → β) :
    (l.filter fun x => f (pr x)).map (fun x => g (pr x)) = (m.filter fun x => f (pr x)).map fun x => g (pr x) := by
  have hone (l : List α) : (l.filter fun x => f (pr x)).map (fun x => g (pr x)) = ((l.map pr).filter f).map g := by
    rw [List.filter_map, List.map_map]
    rfl
  rw [hone, hone, h]

theorem length_filter_congr {α γ : Type} {pr : α → γ} {l m : List α} (h : l.map pr = m.map pr) (f : γ → Bool) :
    (l.filter fun x => f (pr x)).length = (m.filter fun x => f (pr x)).length := by
  have hmap := congrArg List.length (map_filter_congr h f id)
  rwa [List.length_map, List.length_map] at hmap

namespace Alike

theorem refl (s : State) : Alike s s := ⟨rfl, rfl, rfl, rfl⟩

theorem symm {s t : State} (h : Alike s t) : Alike t s := ⟨h.slabs.symm, h.moves.symm, h.bare.symm, h.stages.symm⟩

theorem trans {s t u : State} (h : Alike s t) (k : Alike t u) : Alike s u :=
  ⟨k.slabs.trans h.slabs, k.moves.trans h.moves, k.bare.trans h.bare, k.stages.trans h.stages⟩

theorem of_credits {s t : State} (h : Credits s t) : Alike s t := by
  have hslim (l : List Migration) : l.map Migration.slim = (l.map fun m => { m with granted := false }).map Migration.slim := by
    rw [List.map_map]
    rfl
  refine ⟨by rw [h.slabs], ?_, h.bare, by rw [h.queues]⟩
  rw [hslim t.mem.migrations, hslim s.mem.migrations, h.moves]

section
variable {s t : State} (h : Alike s t)
include h

theorem part_field {α : Type} (f : Part → α) (hf : ∀ x, f x.bare = f x) (p : Nat) : f (t.part p) = f (s.part p) := by
  have hbare := State.part_field_of_map h.bare p
  rw [← hf (t.part p), hbare, hf]

theorem slab? (k : Nat) : (t.slab? k).map Slab.slim = (s.slab? k).map Slab.slim := by
  have hfind (u : State) : (u.slab? k).map Slab.slim = (u.mem.slabs.map Slab.slim).find? fun x => x.key == k := by
    rw [List.find?_map]
    rfl
  rw [hfind, hfind, h.slabs]

theorem moveOf (k : Nat) : t.moveOf k = s.moveOf k := by
  have hfind (u : State) : u.moveOf k = (u.mem.migrations.map Migration.slim).find? fun m => m.key == k := by
    rw [List.find?_map]
    rfl
  rw [hfind, hfind, h.moves]

theorem stagingOf (p : Nat) : t.stagingOf p = s.stagingOf p := by
  have hqueues (u : State) : ((u.queues.filter fun q => q.assigned && q.part == p).flatMap fun q => q.fifo.flatMap fun c => c.staged.slabs) =
      ((u.queues.map Queue.stages).filter fun y => y.1 && y.2.1 == p).flatMap fun y => y.2.2 := by
    rw [List.filter_map, List.flatMap_map]
    rfl
  unfold State.stagingOf
  rw [hqueues t, hqueues s, h.stages, h.part_field Part.windows (fun _ => rfl)]

theorem keptIn (p : Nat) (x : Tier) : t.keptIn p x = s.keptIn p x := by
  have hslabs := length_filter_congr h.slabs fun y => y.part == p && y.tier == some x && y.st != .lost
  have hmoves := length_filter_congr h.moves fun m => partOfKey m.key == p && (if m.switched then m.src == x else m.dst == x)
  have hstream := h.part_field Part.stream (fun _ => rfl) p
  unfold State.keptIn
  rw [h.stagingOf p, hstream]
  exact congrArg₂ (fun a b => a + b + _ + _) hslabs hmoves

theorem quartersOf (p b : Nat) : t.quartersOf p b = s.quartersOf p b := by
  have hslabs := map_filter_congr h.slabs (fun y => y.part == p && y.tier == some .t1 && y.st != .lost) fun y => quartersIn y.near b
  have hto := map_filter_congr h.moves (fun m => (!m.switched && m.dst == .t1) && partOfKey m.key == p) fun m => quartersIn m.near b
  have hfrom := map_filter_congr h.moves (fun m => (m.switched && m.src == .t1) && partOfKey m.key == p) fun m => quartersIn m.srcNear b
  have hstream := h.part_field Part.stream (fun _ => rfl) p
  unfold State.quartersOf
  simp only [List.filter_filter]
  rw [h.stagingOf p, hstream]
  refine congrArg (· + _) (congrArg (· + _) (congrArg₂ (· + ·) (congrArg₂ (· + ·) ?_ ?_) ?_))
  · exact congrArg List.sum hslabs
  · exact congrArg List.sum hto
  · exact congrArg List.sum hfrom

theorem roomT1 (p : Nat) (near : Option Nat) : t.roomT1 p near = s.roomT1 p near := by
  have hres := h.part_field (fun x => x.resOf .t1) (fun _ => rfl) p
  have hcores := h.part_field Part.coreSet (fun _ => rfl) p
  unfold State.roomT1
  simp only [h.keptIn, h.quartersOf, hcores, hres]

theorem onlyNear (p : Nat) : t.onlyNear p = s.onlyNear p := by
  have hres := h.part_field (fun x => x.resOf .t1) (fun _ => rfl) p
  have hcores := h.part_field Part.coreSet (fun _ => rfl) p
  unfold State.onlyNear
  simp only [hcores, hres]

theorem placeT1 (p : Nat) (core : Option Nat) : t.placeT1 p core = s.placeT1 p core := by
  unfold State.placeT1
  simp only [h.roomT1, h.onlyNear]

/-- An update of slabs that reads and leaves what both states have. -/
theorem modSlab (k : Nat) (f : Slab → Slab) (hf : ∀ x, (f x).slim = (f x.slim).slim) : Alike (s.modSlab k f) (t.modSlab k f) := by
  have hmap (u : State) : (u.modSlab k f).mem.slabs.map Slab.slim =
      (u.mem.slabs.map Slab.slim).map fun x => if x.key = k then (f x).slim else x := by
    change (u.mem.slabs.map _).map _ = _
    rw [List.map_map, List.map_map]
    refine List.map_congr_left fun x _ => ?_
    dsimp only [Function.comp_apply]
    rw [show x.slim.key = x.key from rfl]
    split
    · exact hf x
    · rfl
  exact ⟨by rw [hmap, hmap, h.slabs], h.moves, h.bare, h.stages⟩

theorem dropMoves (f : Migration → Bool) (hf : ∀ m, f m.slim = f m) : Alike (s.dropMoves f) (t.dropMoves f) := by
  have hmap (u : State) : ((u.setMigrations (u.mem.migrations.filter fun m => !f m)).mem.migrations).map Migration.slim =
      (u.mem.migrations.map Migration.slim).filter fun m => !f m := by
    change (u.mem.migrations.filter _).map _ = _
    rw [List.filter_map]
    refine congrArg (List.map Migration.slim) (List.filter_congr fun m _ => ?_)
    rw [Function.comp_apply, hf]
  have hmid : Alike (s.setMigrations (s.mem.migrations.filter fun m => !f m)) (t.setMigrations (t.mem.migrations.filter fun m => !f m)) :=
    ⟨h.slabs, by rw [hmap, hmap, h.moves], h.bare, h.stages⟩
  exact ((of_credits (Credits.dropMoves s f)).symm.trans hmid).trans (of_credits (Credits.dropMoves t f))

theorem abandonMove (k : Nat) : Alike (s.abandonMove k) (t.abandonMove k) := by
  have hmove := h.moveOf k
  unfold State.moveOf at hmove
  unfold State.abandonMove
  cases hs : s.migration? k with
  | none =>
    rw [hs, Option.map_none, Option.map_eq_none_iff] at hmove
    rw [hmove]
    exact h
  | some m =>
    rw [hs, Option.map_some, Option.map_eq_some_iff] at hmove
    obtain ⟨n, hn, hslim⟩ := hmove
    have hsw : n.switched = m.switched := Migration.field_of_slim Migration.switched (fun _ => rfl) hslim
    rw [hn]
    dsimp only
    rw [hsw]
    split
    · exact h
    · exact (h.dropMoves _ fun _ => rfl).modSlab k _ fun _ => rfl

/-- A slab that starts its move to T1 in the one starts it in the other. -/
theorem movingToT1 {k : Nat} {x y : Slab} (hxy : y.slim = x.slim) (src : Tier) (near : Option Nat) : Alike (s.movingToT1 k x src near) (t.movingToT1 k y src near) := by
  have hmove : (y.moveToT1 k src near t.mem.nextFrame).slim = (x.moveToT1 k src near s.mem.nextFrame).slim := by
    have hnear : y.near = x.near := Slab.field_of_slim Slab.near (fun _ => rfl) hxy
    have hframe : y.frame = x.frame := Slab.field_of_slim Slab.frame (fun _ => rfl) hxy
    have hlease : y.lease = x.lease := Slab.field_of_slim Slab.lease (fun _ => rfl) hxy
    have hmoved : y.moved = x.moved := Slab.field_of_slim Slab.moved (fun _ => rfl) hxy
    unfold Slab.moveToT1 Migration.slim
    rw [hnear, hframe, hlease, hmoved]
  have hmid : Alike (s.nextFrame.2.setMigrations (s.mem.migrations ++ [x.moveToT1 k src near s.mem.nextFrame]))
      (t.nextFrame.2.setMigrations (t.mem.migrations ++ [y.moveToT1 k src near t.mem.nextFrame])) := by
    refine ⟨h.slabs, ?_, h.bare, h.stages⟩
    change (t.mem.migrations ++ _).map _ = (s.mem.migrations ++ _).map _
    rw [List.map_append, List.map_append, h.moves, List.map_singleton, List.map_singleton, hmove]
  exact hmid.modSlab k _ fun _ => rfl

end

end Alike

/-! One slab (R159). -/

/-- A slab that a set pins. -/
def State.pinned (s : State) (k : Nat) : State := s.modSlab k fun x => { x with gset := true }

theorem Alike.pinned (s : State) (k : Nat) : Alike s (s.pinned k) := by
  refine ⟨?_, rfl, rfl, rfl⟩
  change (s.mem.slabs.map _).map _ = _
  rw [List.map_map]
  refine List.map_congr_left fun x _ => ?_
  dsimp only [Function.comp_apply]
  split <;> rfl

theorem SlabsStay.pinned (s : State) (k : Nat) : SlabsStay s (s.pinned k) := .modSlab s k _ fun _ => ⟨rfl, fun _ => rfl⟩

theorem State.slab?_pinned {s : State} {k : Nat} {x : Slab} (hx : s.slab? k = some x) : (s.pinned k).slab? k = some { x with gset := true } := by
  unfold State.pinned State.modSlab
  rw [State.slab?_setSlabs_map, hx, Option.map_some, if_pos (State.key_of_slab? hx)]
  intro x
  split <;> rfl

/-- What the pinning of a slab does, case by case: nothing to a slab that is not mapped; its move is abandoned and it is pinned, and outside T1 it needs a place there and moves to it, unless its move has switched. -/
theorem State.pinSlab_cases (s : State) (k : Nat) :
    (s.slab? k = none ∧ s.pinSlab k = some s) ∨
    (∃ x, s.slab? k = some x ∧ (x.tier = none ∨ x.tier = some .t1) ∧ s.pinSlab k = some ((s.abandonMove k).pinned k)) ∨
    (∃ x src, s.slab? k = some x ∧ x.tier = some src ∧ src ≠ .t1 ∧ (s.abandonMove k).placeT1 x.part x.pieceCore = none ∧ s.pinSlab k = none) ∨
    (∃ x src near, s.slab? k = some x ∧ x.tier = some src ∧ src ≠ .t1 ∧ (s.abandonMove k).placeT1 x.part x.pieceCore = some near ∧
      s.pinSlab k = some (((s.abandonMove k).pinned k).startMove k .t1 2)) := by
  unfold State.pinSlab
  cases hx : s.slab? k with
  | none => exact .inl ⟨rfl, rfl⟩
  | some x =>
    have hout (src : Tier) (ht : x.tier = some src) (hsrc : src ≠ .t1) (o : Option State)
        (ho : o = if ((s.abandonMove k).placeT1 x.part x.pieceCore).isNone then none else some (((s.abandonMove k).pinned k).startMove k .t1 2)) :
        (∃ x' src, some x = some x' ∧ x'.tier = some src ∧ src ≠ .t1 ∧ (s.abandonMove k).placeT1 x'.part x'.pieceCore = none ∧ o = none) ∨
        (∃ x' src near, some x = some x' ∧ x'.tier = some src ∧ src ≠ .t1 ∧ (s.abandonMove k).placeT1 x'.part x'.pieceCore = some near ∧
          o = some (((s.abandonMove k).pinned k).startMove k .t1 2)) := by
      cases hplace : (s.abandonMove k).placeT1 x.part x.pieceCore with
      | none => exact .inl ⟨x, src, rfl, ht, hsrc, hplace, by rw [ho, hplace]; rfl⟩
      | some near => exact .inr ⟨x, src, near, rfl, ht, hsrc, hplace, by rw [ho, hplace]; rfl⟩
    refine .inr ?_
    dsimp only
    cases ht : x.tier with
    | none => exact .inl ⟨x, rfl, .inl ht, rfl⟩
    | some src =>
      cases src with
      | t1 => exact .inl ⟨x, rfl, .inr ht, rfl⟩
      | t2 | t3 | t4 => exact .inr (hout _ ht (by decide) _ rfl)

/-- A slab outside T1 with a place there moves to it unless it moves already. -/
theorem State.startMove_to_t1 {s : State} {k : Nat} {x : Slab} {src : Tier} {near : Option Nat} (hx : s.slab? k = some x) (ht : x.tier = some src)
    (hplace : s.placeT1 x.part x.pieceCore = some near) (hsrc : src ≠ .t1) :
    s.startMove k .t1 2 = if (s.migration? k).isSome then s else (s.movingToT1 k x src near).serveMoves := by
  split
  next hm => exact State.startMove_of_moving .t1 2 2 hm
  next hm => exact State.startMove_t1 hx ht hplace hsrc (by simpa using hm)

/-- Where a slab outside T1 finds a place there once its move is abandoned and it is pinned. -/
theorem State.pinned_ready {s : State} {k : Nat} {x : Slab} (hx : s.slab? k = some x) :
    ∃ y, ((s.abandonMove k).pinned k).slab? k = some y ∧ y = { x with st := y.st, gset := y.gset } ∧ y.gset = true ∧
      ((s.abandonMove k).pinned k).placeT1 y.part y.pieceCore = (s.abandonMove k).placeT1 x.part x.pieceCore := by
  obtain ⟨y, hy, hxy, -⟩ := SlabsStay.abandonMove s k k x hx
  refine ⟨{ y with gset := true }, State.slab?_pinned hy, by rw [hxy], rfl, ?_⟩
  rw [(Alike.pinned (s.abandonMove k) k).placeT1, hxy]

/-- In states in which slabs find the same places, a slab is pinned in both or in neither. -/
theorem Alike.pinSlab {s t : State} (h : Alike s t) (k : Nat) :
    (s.pinSlab k = none ∧ t.pinSlab k = none) ∨ ∃ a b, s.pinSlab k = some a ∧ t.pinSlab k = some b ∧ Alike a b := by
  have hslab := h.slab? k
  have hdrop := h.abandonMove k
  have hpinned : Alike ((s.abandonMove k).pinned k) ((t.abandonMove k).pinned k) := (Alike.pinned _ k).symm.trans (hdrop.trans (.pinned _ k))
  have hfind {x : Slab} (hx : s.slab? k = some x) : ∃ y, t.slab? k = some y ∧ y.slim = x.slim := by
    rw [hx, Option.map_some, Option.map_eq_some_iff] at hslab
    exact hslab
  obtain ⟨hx, hp⟩ | ⟨x, hx, ht, hp⟩ | ⟨x, src, hx, ht, hsrc, hplace, hp⟩ | ⟨x, src, near, hx, ht, hsrc, hplace, hp⟩ := s.pinSlab_cases k
  · rw [hx, Option.map_none, Option.map_eq_none_iff] at hslab
    refine .inr ⟨s, t, hp, ?_, h⟩
    unfold State.pinSlab
    rw [hslab]
  · obtain ⟨y, hy, hxy⟩ := hfind hx
    have htier : y.tier = x.tier := Slab.field_of_slim Slab.tier (fun _ => rfl) hxy
    refine .inr ⟨_, _, hp, ?_, hpinned⟩
    unfold State.pinSlab
    rw [hy]
    obtain ht | ht := ht <;> rw [ht] at htier <;> simp only [htier] <;> rfl
  · obtain ⟨y, hy, hxy⟩ := hfind hx
    have htier : y.tier = some src := (Slab.field_of_slim Slab.tier (fun _ => rfl) hxy).trans ht
    have hpart : y.part = x.part := Slab.field_of_slim Slab.part (fun _ => rfl) hxy
    have hcore : y.pieceCore = x.pieceCore := Slab.field_of_slim Slab.pieceCore (fun _ => rfl) hxy
    refine .inl ⟨hp, ?_⟩
    obtain ⟨hz, -⟩ | ⟨z, hz, hzt, -⟩ | ⟨z, _, hz, -, -, -, htp⟩ | ⟨z, _, near, hz, -, -, hzp, -⟩ := t.pinSlab_cases k <;> rw [hy] at hz <;> cases hz
    · rw [htier] at hzt
      simp [hsrc] at hzt
    · exact htp
    · rw [hdrop.placeT1, hpart, hcore, hplace] at hzp
      cases hzp
  · obtain ⟨y, hy, hxy⟩ := hfind hx
    have htier : y.tier = some src := (Slab.field_of_slim Slab.tier (fun _ => rfl) hxy).trans ht
    have hpart : y.part = x.part := Slab.field_of_slim Slab.part (fun _ => rfl) hxy
    have hcore : y.pieceCore = x.pieceCore := Slab.field_of_slim Slab.pieceCore (fun _ => rfl) hxy
    have hplace' : (t.abandonMove k).placeT1 y.part y.pieceCore = some near := by rw [hdrop.placeT1, hpart, hcore, hplace]
    obtain ⟨hz, -⟩ | ⟨z, hz, hzt, -⟩ | ⟨z, _, hz, -, -, hzp, -⟩ | ⟨z, _, _, hz, -, -, -, htp⟩ := t.pinSlab_cases k <;> rw [hy] at hz <;> cases hz
    · rw [htier] at hzt
      simp [hsrc] at hzt
    · rw [hplace'] at hzp
      cases hzp
    · refine .inr ⟨_, _, hp, htp, ?_⟩
      obtain ⟨x', hx', hxx, -, hxp⟩ := State.pinned_ready hx
      obtain ⟨y', hy', hyy, -, hyp⟩ := State.pinned_ready hy
      have hslim : y'.slim = x'.slim := by
        have hslab' := hpinned.slab? k
        rw [hx', hy'] at hslab'
        exact Option.some.inj hslab'
      have hmove : (((t.abandonMove k).pinned k).migration? k).isSome = (((s.abandonMove k).pinned k).migration? k).isSome := by
        have hmoves := congrArg Option.isSome (hpinned.moveOf k)
        unfold State.moveOf at hmoves
        rwa [Option.isSome_map, Option.isSome_map] at hmoves
      rw [State.startMove_to_t1 hx' ((congrArg Slab.tier hxx).trans ht) (hxp.trans hplace) hsrc,
        State.startMove_to_t1 hy' ((congrArg Slab.tier hyy).trans htier) (hyp.trans hplace') hsrc, hmove]
      split
      · exact hpinned
      · exact ((of_credits (Credits.serveMoves _)).symm.trans (hpinned.movingToT1 hslim src near)).trans (of_credits (Credits.serveMoves _))

theorem Alike.pinAll (l : List Nat) {s t : State} (h : Alike s t) : (State.pinAll l t).isSome = (State.pinAll l s).isSome := by
  induction l generalizing s t with
  | nil => rfl
  | cons k r ih =>
    unfold State.pinAll
    obtain ⟨hs, ht⟩ | ⟨a, b, hs, ht, hab⟩ := h.pinSlab k
    · rw [hs, ht]
    · rw [hs, ht, Option.bind_some, Option.bind_some]
      exact ih hab

/-! What the pinning leaves. -/

/-- Slab `k` is on its way from tier `src` to T1, and has not switched. -/
def State.goesToT1 (s : State) (k : Nat) (src : Tier) : Prop := ∃ m, s.moveOf k = some m ∧ m.src = src ∧ m.dst = .t1 ∧ m.switched = false

/-- No move of slab `k` has switched. -/
def State.unswitched (s : State) (k : Nat) : Prop := ∀ m, s.moveOf k = some m → m.switched = false

theorem State.unswitched_of_goes {s : State} {k : Nat} {src : Tier} (h : s.goesToT1 k src) : s.unswitched k := by
  obtain ⟨m, hm, -, -, hsw⟩ := h
  intro n hn
  rw [hm] at hn
  cases hn
  exact hsw

/-- The slab that has started its move goes to T1; the other slabs' moves are as they were. -/
theorem State.moveOf_movingToT1 (s : State) (j k : Nat) (x : Slab) (src : Tier) (near : Option Nat) (hm : s.moveOf j = none) :
    (k ≠ j → (s.movingToT1 j x src near).moveOf k = s.moveOf k) ∧ (s.movingToT1 j x src near).goesToT1 j src := by
  have hmoves := s.unheld_movingToT1 j x src near
  refine ⟨fun hk => ?_, (x.moveToT1 j src near s.mem.nextFrame).slim, ?_, rfl, rfl, rfl⟩
  · rw [State.moveOf_eq, State.moveOf_eq, hmoves, List.find?_append, List.find?_singleton]
    rw [if_neg (by simpa [Slab.moveToT1] using Ne.symm hk), Option.or_none]
  · rw [State.moveOf_eq, Option.map_eq_none_iff] at hm
    rw [State.moveOf_eq, hmoves, List.find?_append, hm, List.find?_singleton]
    rw [if_pos (by simp [Slab.moveToT1])]
    rfl

theorem State.moveOf_of_credits {s t : State} (h : Credits s t) (k : Nat) : t.moveOf k = s.moveOf k := (Alike.of_credits h).moveOf k

/-- A pinned slab: it stays mapped and is pinned, and one outside T1 whose move had not switched goes there. The moves of the other slabs are as they were. -/
theorem State.pinSlab_leaves {s t : State} {j : Nat} (h : s.pinSlab j = some t) :
    SlabsStay s t ∧ (∀ k, k ≠ j → t.moveOf k = s.moveOf k) ∧ ∀ x, s.slab? j = some x →
      (∃ y, t.slab? j = some y ∧ y.gset = true) ∧ ∀ src, x.tier = some src → src ≠ .t1 → s.unswitched j → t.goesToT1 j src := by
  have hstay : SlabsStay s ((s.abandonMove j).pinned j) := (SlabsStay.abandonMove s j).trans (.pinned _ j)
  have hmoves (k : Nat) (hk : k ≠ j) : ((s.abandonMove j).pinned j).moveOf k = s.moveOf k := (s.moveOf_abandonMove j k).1 hk
  obtain ⟨hx, hp⟩ | ⟨x, hx, ht, hp⟩ | ⟨x, src, hx, ht, hsrc, hplace, hp⟩ | ⟨x, src, near, hx, ht, hsrc, hplace, hp⟩ := s.pinSlab_cases j <;>
    rw [hp] at h <;> cases h
  · refine ⟨.refl s, fun _ _ => rfl, fun x hx' => ?_⟩
    rw [hx] at hx'
    cases hx'
  · obtain ⟨y, hy, -, hg, -⟩ := State.pinned_ready hx
    refine ⟨hstay, hmoves, fun x' hx' => ⟨⟨y, hy, hg⟩, fun src hsrc hne => ?_⟩⟩
    rw [hx] at hx'
    cases hx'
    rw [hsrc] at ht
    simp [hne] at ht
  · obtain ⟨y, hy, hxy, hg, hyp⟩ := State.pinned_ready hx
    have hfree (hun : s.unswitched j) : ((s.abandonMove j).pinned j).moveOf j = none := (s.moveOf_abandonMove j j).2 hun
    rw [State.startMove_to_t1 hy ((congrArg Slab.tier hxy).trans ht) (hyp.trans hplace) hsrc]
    split
    next hm =>
      refine ⟨hstay, hmoves, fun x' hx' => ⟨⟨y, hy, hg⟩, fun src' _ _ hun => ?_⟩⟩
      have hnone := hfree hun
      unfold State.moveOf at hnone
      rw [Option.map_eq_none_iff] at hnone
      rw [hnone] at hm
      cases hm
    next hm =>
      have hnone : ((s.abandonMove j).pinned j).moveOf j = none := by
        unfold State.moveOf
        rw [Option.map_eq_none_iff]
        simpa using hm
      have hserve := Credits.serveMoves (((s.abandonMove j).pinned j).movingToT1 j y src near)
      refine ⟨hstay.trans (.movingToT1 _ j y src near), fun k hk => ?_, fun x' hx' => ⟨?_, fun src' hsrc' _ _ => ?_⟩⟩
      · rw [State.moveOf_of_credits hserve, (State.moveOf_movingToT1 _ j k y src near hnone).1 hk, hmoves k hk]
      · obtain ⟨z, hz, -, hgz⟩ := SlabsStay.movingToT1 _ j y src near j y hy
        exact ⟨z, hz, hgz hg⟩
      · rw [hx] at hx'
        cases hx'
        rw [ht] at hsrc'
        cases hsrc'
        obtain ⟨m, hmove, hrest⟩ := (State.moveOf_movingToT1 _ j j y src near hnone).2
        exact ⟨m, (State.moveOf_of_credits hserve j).trans hmove, hrest⟩

/-- Once every slab of a list is pinned: a slab stays mapped; one of the list is pinned, and one of it outside T1 whose move had not switched goes there. -/
theorem State.pinAll_leaves (l : List Nat) {s t : State} (h : State.pinAll l s = some t) :
    SlabsStay s t ∧ (∀ k src, s.goesToT1 k src → (∃ x, s.slab? k = some x ∧ x.tier = some src) → src ≠ .t1 → t.goesToT1 k src) ∧
      ∀ k ∈ l, ∀ x, s.slab? k = some x → (∃ y, t.slab? k = some y ∧ y.gset = true) ∧
        ∀ src, x.tier = some src → src ≠ .t1 → s.unswitched k → t.goesToT1 k src := by
  induction l generalizing s with
  | nil =>
    cases h
    exact ⟨.refl _, fun _ _ h _ _ => h, fun _ hk => by cases hk⟩
  | cons j r ih =>
    obtain ⟨a, hone, hrest⟩ := Option.bind_eq_some_iff.1 h
    obtain ⟨hstay, hmoves, hpin⟩ := State.pinSlab_leaves hone
    obtain ⟨rstay, rgoes, rpin⟩ := ih hrest
    have hgoes (k : Nat) (src : Tier) (hg : s.goesToT1 k src) (x : Slab) (hx : s.slab? k = some x) (ht : x.tier = some src) (hsrc : src ≠ .t1) : a.goesToT1 k src := by
      by_cases hk : k = j
      · subst hk
        exact (hpin x hx).2 src ht hsrc (State.unswitched_of_goes hg)
      · unfold State.goesToT1
        rw [hmoves k hk]
        exact hg
    have hkeep {k : Nat} {x : Slab} (hx : s.slab? k = some x) : ∃ y, a.slab? k = some y ∧ y.tier = x.tier := by
      obtain ⟨y, hy, hxy, -⟩ := hstay k x hx
      exact ⟨y, hy, by rw [hxy]⟩
    refine ⟨hstay.trans rstay, fun k src hg ⟨x, hx, ht⟩ hsrc => ?_, fun k hk x hx => ?_⟩
    · obtain ⟨y, hy, hyt⟩ := hkeep hx
      exact rgoes k src (hgoes k src hg x hx ht hsrc) ⟨y, hy, hyt.trans ht⟩ hsrc
    · obtain ⟨y, hy, hyt⟩ := hkeep hx
      by_cases hkj : k = j
      · subst hkj
        obtain ⟨⟨z, hz, hzg⟩, hgo⟩ := hpin x hx
        refine ⟨?_, fun src ht hsrc hun => rgoes k src (hgo src ht hsrc hun) ⟨y, hy, hyt.trans ht⟩ hsrc⟩
        obtain ⟨w, hw, -, hwg⟩ := rstay k z hz
        exact ⟨w, hw, hwg hzg⟩
      · obtain ⟨hset, hgo⟩ := rpin k ((List.mem_cons.1 hk).resolve_left hkj) y hy
        refine ⟨hset, fun src ht hsrc hun => hgo src (hyt.trans ht) hsrc ?_⟩
        unfold State.unswitched
        rw [hmoves k hkj]
        exact hun

end Sys2Proof.Machine
end

section
/-! SUPPORT. The effects of a commit: what each leaves of the tables, the partitions and the queues (R159, R175, R176, R203, R263, R307). -/

namespace Sys2Proof.Machine

/-! Commits that replace nothing. -/

theorem State.modPart_of_same (s : State) (p : Nat) (f : Part → Part) (hf : ∀ x, f x = x) : s.modPart p f = s := by
  have hid : f = id := funext hf
  rw [hid]
  change s.setParts (updAt s.parts p id) = s
  rw [updAt_id]
  rfl

/-- Nothing is retained of a commit that replaces no slab (R176). -/
theorem State.retain_nil (s : State) (p : Nat) : s.retain p [] = s := by
  have hnone (t : Tier) : s.mustRetain p t [] = [] := by
    unfold State.mustRetain
    split <;> rfl
  have hepoch (o : Option Epoch) : (o.map fun e => { e with left := e.left.filter fun k => !(([] : List Nat).contains k) }) = o := by
    cases o <;> simp
  unfold State.retain
  rw [hnone, hnone]
  refine State.modPart_of_same s p _ fun x => ?_
  simp only [hepoch, List.map_nil, List.append_nil, List.length_nil, Nat.add_zero]

/-- A commit without slabs and bytes settles nothing. -/
theorem State.settleSlabs_nil (s : State) (p : Nat) : s.settleSlabs p [] [] = s := by
  have hdrop (t : State) : (t.dropMoves fun m => ([] : List (Nat × Tier × Option Nat)).any fun x => x.1 == m.key) = t := by
    unfold State.dropMoves
    simp
  unfold State.settleSlabs
  rw [List.map_nil, s.retain_nil, hdrop]
  rfl

/-- A byte of a range that is cleared reads blank; the others are as before. -/
theorem Memory.get_clear (m : Memory) (lo hi a : Nat) : Memory.get (Memory.clear m lo hi) a = if lo ≤ a ∧ a < hi then 0 else Memory.get m a := by
  induction m with
  | nil => exact (ite_self _).symm
  | cons c r ih =>
    have hcons (m : Memory) : Memory.get (c :: m) a = if c.1 = a then c.2 else Memory.get m a := rfl
    unfold Memory.clear at ih ⊢
    rw [List.filter_cons, hcons]
    by_cases hc : lo ≤ c.1 ∧ c.1 < hi
    · rw [if_neg (by simp [hc]), ih]
      split
      · rfl
      next hno => rw [if_neg fun h : c.1 = a => hno (by rwa [← h])]
    · rw [if_pos (by simp only [Bool.not_eq_true', Bool.and_eq_false_iff, decide_eq_false_iff_not]; tauto), hcons]
      by_cases ha : c.1 = a
      · rw [if_pos ha, if_neg (by rwa [← ha]), if_pos ha]
      · rw [if_neg ha, if_neg ha]
        exact ih

/-- Slab `k` holds the addresses whose slab number is `k`. -/
theorem mem_slab_range {a k base n : Nat} (ha : keyOf a = k) (hlo : base ≤ k) (hhi : k < base + n) : base * slabB ≤ a ∧ a < (base + n) * slabB := by
  unfold keyOf slabB at *
  omega

/-! Mapping (R203). -/

/-- A slab but for the stacks that its pages have moved to. -/
def Slab.unmoved (x : Slab) : Slab := { x with moved := [] }

/-- Slabs that enter the tables one by one stand behind the others in their order. -/
theorem State.foldl_addSlab (mk : Nat → Slab) (l : List Nat) (s : State) :
    ∃ m : List Slab, l.foldl (fun s i => s.addSlab (mk i)) s = s.setSlabs (s.mem.slabs ++ m) ∧ m.map Slab.unmoved = l.map fun i => (mk i).unmoved := by
  induction l generalizing s with
  | nil => exact ⟨[], by rw [List.append_nil]; rfl, rfl⟩
  | cons i r ih =>
    obtain ⟨m, hm, hunmoved⟩ := ih (s.addSlab (mk i))
    refine ⟨{ mk i with moved := match (mk i).tier with | some t => s.movedPages t (mk i).frame | none => [] } :: m, ?_, ?_⟩
    · rw [List.foldl_cons, hm, List.append_cons]
      rfl
    · rw [List.map_cons, List.map_cons, hunmoved]
      rfl

/-- A slab of a region that is mapped. -/
structure Slab.Fresh (x : Slab) (p : Nat) (d : RegionDesc) : Prop where
  part : x.part = p
  kind : x.kind = d.kind
  pin : x.pin = d.pin
  model : x.model = d.model
  st : x.st = .unwritten
  tier : d.kind = 0 → x.tier = none

/-- Slab `i` of a region as its mapping makes it. -/
def State.regionSlab (s : State) (p : Nat) (d : RegionDesc) (i : Nat) : Slab :=
  { key := keyOf d.base + i, part := p, kind := d.kind, pin := d.pin, model := d.model, st := .unwritten
    tier := if d.kind = 1 then some .t3 else if d.kind = 2 then some .t2 else none
    frame := (if d.kind = 1 then freeFrames (s.framesUsed .t3 none) d.slabs else []).getD i (s.mem.nextFrame + i), lastUse := s.modelUse p d.model }

theorem State.regionSlab_fresh (s : State) (p : Nat) (d : RegionDesc) (i : Nat) : (s.regionSlab p d i).Fresh p d :=
  ⟨rfl, rfl, rfl, rfl, rfl, fun h => by simp [State.regionSlab, h]⟩

/-- A region whose slabs are in the tables is listed, and its range is cleared. -/
def State.listRegion (s : State) (p : Nat) (d : RegionDesc) : State :=
  s.setMem { s.mem with
    nextFrame := s.mem.nextFrame + d.slabs
    regions := s.mem.regions ++ [{ part := p, base := keyOf d.base, slabs := d.slabs, kind := d.kind, pin := d.pin, model := d.model }]
    dev := Memory.clear s.mem.dev d.base (d.base + d.slabs * slabB) }

/-- A region that is mapped is listed with its slabs, which stand behind the others (R203, R206). -/
theorem State.mapRegion_leaves (s : State) (p : Nat) (d : RegionDesc) :
    ∃ m : List Slab, s.mapRegion p d = (s.setSlabs (s.mem.slabs ++ m)).listRegion p d ∧
      m.map Slab.key = (List.range d.slabs).map (keyOf d.base + ·) ∧ ∀ x ∈ m, x.Fresh p d := by
  have hread (m : List Slab) (hm : m.map Slab.unmoved = (List.range d.slabs).map fun i => (s.regionSlab p d i).unmoved) :
      m.map Slab.key = (List.range d.slabs).map (keyOf d.base + ·) ∧ ∀ x ∈ m, x.Fresh p d := by
    refine ⟨?_, fun x hx => ?_⟩
    · have hkeys := congrArg (List.map Slab.key) hm
      rwa [List.map_map, List.map_map] at hkeys
    · have hxm := List.mem_map_of_mem (f := Slab.unmoved) hx
      rw [hm] at hxm
      obtain ⟨i, -, hi⟩ := List.mem_map.1 hxm
      have hfield {α : Type} (f : Slab → α) (hf : ∀ x, f x.unmoved = f x) : f x = f (s.regionSlab p d i) := by rw [← hf x, ← hi, hf]
      obtain ⟨hpart, hkind, hpin, hmodel, hst, htier⟩ := s.regionSlab_fresh p d i
      exact ⟨(hfield Slab.part fun _ => rfl).trans hpart, (hfield Slab.kind fun _ => rfl).trans hkind, (hfield Slab.pin fun _ => rfl).trans hpin,
        (hfield Slab.model fun _ => rfl).trans hmodel, (hfield Slab.st fun _ => rfl).trans hst, fun h => (hfield Slab.tier fun _ => rfl).trans (htier h)⟩
  have heq : s.mapRegion p d = (if d.kind = 2 then (List.range d.slabs).foldl (fun t i => t.addSlab (s.regionSlab p d i)) s
      else s.setSlabs (s.mem.slabs ++ (List.range d.slabs).map (s.regionSlab p d))).listRegion p d := rfl
  rw [heq]
  split
  · obtain ⟨m, hm, hunmoved⟩ := State.foldl_addSlab (s.regionSlab p d) (List.range d.slabs) s
    exact ⟨m, by rw [hm], hread m hunmoved⟩
  · exact ⟨(List.range d.slabs).map (s.regionSlab p d), rfl, hread _ (by rw [List.map_map]; rfl)⟩

/-- A slab of the region that was not mapped is mapped for the partition with what the descriptor gives it. -/
theorem State.slab?_mapRegion {s : State} {k : Nat} (p : Nat) (d : RegionDesc) (hnone : s.slab? k = none) (hlo : keyOf d.base ≤ k) (hhi : k < keyOf d.base + d.slabs) :
    ∃ x, (s.mapRegion p d).slab? k = some x ∧ x.Fresh p d := by
  obtain ⟨m, heq, hkeys, hfresh⟩ := s.mapRegion_leaves p d
  have hin : k ∈ m.map Slab.key := by
    rw [hkeys]
    exact List.mem_map.2 ⟨k - keyOf d.base, List.mem_range.2 (by omega), by omega⟩
  obtain ⟨y, hy, hyk⟩ := List.mem_map.1 hin
  obtain ⟨x, hx⟩ := Option.isSome_iff_exists.1 (List.find?_isSome.2 ⟨y, hy, by simpa using hyk⟩ : (m.find? fun x => x.key == k).isSome)
  refine ⟨x, ?_, hfresh x (List.mem_of_find?_eq_some hx)⟩
  unfold State.slab? at hnone ⊢
  rw [heq]
  change (s.mem.slabs ++ m).find? _ = _
  rw [List.find?_append, hnone, Option.none_or, hx]

/-- A region that is unmapped is listed no more, and its slabs are gone (R203). -/
theorem State.unmapSlabs_leaves (s : State) (base n : Nat) :
    (∀ k, base ≤ k → k < base + n → (s.unmapSlabs base n).slab? k = none) ∧ (∀ r ∈ (s.unmapSlabs base n).mem.regions, ¬(r.base = base ∧ r.slabs = n)) ∧
      (s.unmapSlabs base n).mem.dev = Memory.clear s.mem.dev (base * slabB) ((base + n) * slabB) := by
  refine ⟨fun k hlo hhi => ?_, fun r hr => ?_, ?_⟩
  · refine List.find?_eq_none.2 fun x hx => ?_
    have hout := (List.mem_filter.1 hx).2
    intro hk
    rw [beq_iff_eq] at hk
    simp [hk, hlo, hhi] at hout
  · rintro ⟨hbase, hn⟩
    have hout := (List.mem_filter.1 hr).2
    simp [hbase, hn] at hout
  · exact congrArg (Memory.clear · (base * slabB) ((base + n) * slabB)) (Shifts.dropMoves s _).dev

/-! Gradient sets (R159, R257). -/

theorem Shifts.pinSlab {s t : State} {k : Nat} (h : s.pinSlab k = some t) : Shifts s t := by
  obtain ⟨-, hp⟩ | ⟨x, -, -, hp⟩ | ⟨x, src, -, -, -, -, hp⟩ | ⟨x, src, near, -, -, -, -, hp⟩ := s.pinSlab_cases k <;> rw [hp] at h <;> cases h
  · exact .refl s
  · exact (Shifts.abandonMove s k).trans (.modSlab _ k _)
  · exact ((Shifts.abandonMove s k).trans (.modSlab _ k _)).trans (.startMove _ k _ _ _)

theorem Shifts.pinAll (l : List Nat) {s t : State} (h : State.pinAll l s = some t) : Shifts s t := by
  induction l generalizing s with
  | nil =>
    cases h
    exact .refl _
  | cons k r ih =>
    obtain ⟨a, hone, hrest⟩ := Option.bind_eq_some_iff.1 h
    exact (pinSlab hone).trans (ih hrest)

/-- What a registration does before it lists the set. -/
theorem Shifts.pinGset (s : State) (l : List Nat) : Shifts s ((State.pinAll l s).getD s) := by
  cases h : State.pinAll l s with
  | none => exact .refl s
  | some t => exact pinAll l h

/-- A set that is registered is listed with its slabs. -/
theorem State.mem_gsets_addGset {s : State} {p : Nat} (hp : p < s.parts.length) (a : Nat) (l : List Nat) : (a, l, none) ∈ ((s.addGset p a l).part p).gsets := by
  unfold State.addGset
  rw [State.part_modPart_self _ ((Shifts.pinGset s l).count.symm ▸ hp)]
  exact List.mem_append_right _ List.mem_cons_self

/-- A set that is released is listed no more. -/
theorem State.gsets_dropGset (s : State) (p a : Nat) : ∀ g ∈ ((s.dropGset p a).part p).gsets, g.1 ≠ a := by
  change ∀ g ∈ ((s.modPart p fun pt => { pt with gsets := pt.gsets.filter fun g => g.1 != a }).part p).gsets, g.1 ≠ a
  intro g hg
  rw [State.part_modPart] at hg
  split at hg
  · simpa using (List.mem_filter.1 hg).2
  next hno =>
    have hout : s.part p = {} := List.getD_eq_default _ _ (Nat.le_of_not_lt fun h => hno ⟨rfl, h⟩)
    rw [hout] at hg
    cases hg

/-! The step mark (R175, R176). -/

/-- From `s` to `t` every queue is as it was, and every partition counts the same steps. -/
structure StepsKept (s t : State) : Prop where
  queues : t.queues = s.queues
  steps : t.parts.map (fun x => x.stream.steps) = s.parts.map fun x => x.stream.steps

namespace StepsKept

theorem refl (s : State) : StepsKept s s := ⟨rfl, rfl⟩

theorem trans {s t u : State} (h : StepsKept s t) (k : StepsKept t u) : StepsKept s u := ⟨k.queues.trans h.queues, k.steps.trans h.steps⟩

theorem ite {c : Prop} [Decidable c] {s a b : State} (ha : StepsKept s a) (hb : StepsKept s b) : StepsKept s (if c then a else b) := by
  split
  · exact ha
  · exact hb

theorem foldl {α : Type} (f : State → α → State) (l : List α) (s : State) (hf : ∀ s x, StepsKept s (f s x)) : StepsKept s (l.foldl f s) := by
  induction l generalizing s with
  | nil => exact refl s
  | cons x r ih => exact (hf s x).trans (ih _)

theorem of_blocks {s t : State} (hqueues : t.queues = s.queues) (hparts : t.parts = s.parts) : StepsKept s t := ⟨hqueues, by rw [hparts]⟩

theorem of_logged {s t : State} (h : Logged s t) : StepsKept s t := of_blocks h.queues h.parts

variable (s : State)

theorem modStream (p : Nat) (f : Stream → Stream) (hf : ∀ x, (f x).steps = x.steps) : StepsKept s (s.modStream p f) :=
  ⟨rfl, map_updAt (fun x : Part => x.stream.steps) _ _ _ {} (hf _)⟩

theorem meterBytes (p n : Nat) : StepsKept s (s.meterBytes p n) := of_blocks rfl rfl

theorem writeInPlace (a : Nat) (b : Bytes) : StepsKept s (s.writeInPlace a b) := by
  have hring (t : State) : StepsKept t (t.ringToHost a b) := by
    unfold State.ringToHost
    refine foldl _ _ t fun t x => ?_
    split
    · exact of_blocks (WritesHost.coherentWrite t _ _).queues (WritesHost.coherentWrite t _ _).parts
    · exact refl t
  refine trans ?_ (hring _)
  exact of_blocks rfl rfl

theorem ringPut (p : Nat) (b : Bytes) : StepsKept s (s.ringPut p b) := by
  unfold State.ringPut
  dsimp only
  refine trans (writeInPlace s _ b) (modStream _ p _ ?_)
  exact fun _ => rfl

theorem ringWrite (p : Nat) (r : Bytes) : StepsKept s (s.ringWrite p r).1 := by
  have hlast (c : Prop) [Decidable c] (t : State) : StepsKept t (if c then (t.ringPut p r, true) else (t, false)).1 := by
    split
    · exact ringPut t p r
    · exact refl t
  unfold State.ringWrite
  exact ((ringPut s p _).ite (refl s)).trans (hlast _ _)

theorem sendRecord (p : Nat) (e : Epoch) (r : Bytes) : StepsKept s (s.sendRecord p e r).1 := by
  have hmeter (t : State) (b : Bool) : StepsKept t (if b then t.meterBytes p r.length else t) := (meterBytes t _ _).ite (refl t)
  unfold State.sendRecord
  dsimp only
  refine trans ?_ (hmeter _ _)
  split
  · split
    · exact ringWrite s p r
    · exact refl s
  · exact of_blocks rfl rfl

theorem sendDigest (p : Nat) (c : Bytes) (step : Nat) (d : Bytes) : StepsKept s (s.sendDigest p c step d) := by
  refine foldl _ _ s fun s k => (refl s).ite ?_
  have hsend := Received.sendPkt (s.meterBytes p (digestRecord (cfgSelf c) step d).length) (cfgMember c k) p ctrlClass anyAxis p (.data 5 0 0 0 (digestRecord (cfgSelf c) step d))
  exact ((meterBytes s p _).trans (of_blocks hsend.queues hsend.parts)).trans (modStream _ p _ fun _ => rfl)

theorem decideDigest (p : Nat) : StepsKept s (s.decideDigest p) := by
  have hraise (code : Nat) (l : List Nat) (t : State) : StepsKept t (l.foldl (fun s _ => s.raiseP code p) t) :=
    of_logged (Logged.foldl _ l t fun s _ => .raiseP s _ _)
  unfold State.decideDigest
  dsimp only
  split
  · exact refl s
  · refine trans (trans (modStream s p _ ?_) (hraise _ _ _)) (hraise _ _ _)
    exact fun _ => rfl

theorem tryDigest (p : Nat) : StepsKept s (s.tryDigest p) := by
  unfold State.tryDigest
  dsimp only
  split
  · exact refl s
  · exact (decideDigest s p).ite (refl s)

theorem openEpoch (p : Nat) (hostLoss toCellar key : Bool) : StepsKept s (s.openEpoch p hostLoss toCellar key) := by
  have hopened (t : State) (n : Nat) (e : Epoch) (r : Bytes) (f : Stream → Stream) (hf : ∀ x, (f x).steps = x.steps) :
      StepsKept t (((t.meterBytes p n).sendRecord p e r).1.modStream p f) :=
    (trans (meterBytes t p n) (sendRecord _ p e r)).trans (modStream _ p f hf)
  unfold State.openEpoch
  dsimp only
  split
  · refine trans (trans (hopened s _ _ _ _ ?_) (sendDigest _ p _ _ _)) (tryDigest _ p)
    exact fun _ => rfl
  · refine hopened s _ _ _ _ ?_
    exact fun _ => rfl

end StepsKept

/-- A stream at a step mark: a configuration that waited is in force, and one more step is counted (R175). -/
def Stream.marked (x : Stream) : Stream :=
  let x := if x.next.isEmpty then x else
    { x with cfg := x.next, next := [], needKey := true, folded := 0, opened := 0, hashes := []
             head := if cfgDest x.next = 2 then 0 else x.head
             tail := if cfgDest x.next = 2 then 0 else x.tail
             bounds := if cfgDest x.next = 2 then [] else x.bounds }
  { x with steps := x.steps + 1 }

theorem Stream.steps_marked (x : Stream) : x.marked.steps = x.steps + 1 := by
  unfold Stream.marked
  dsimp only
  split <;> rfl

/-- What follows a step mark: an epoch opens, or the mark is folded into the open one (R176, R184). -/
def State.markEpoch (s : State) (p : Nat) : State :=
  let st := (s.part p).stream
  if cfgDest st.cfg = 0 ∨ st.steps % cfgExport st.cfg ≠ 0 then s
  else if st.epoch.isSome then s.modStream p fun st => { st with foldPend := true, folded := sat16 st.folded 1 }
  else s.openEpoch p false (decide (cfgDest st.cfg = 1)) (st.needKey || st.opened % cfgKeyframe st.cfg == 0)

theorem State.stepMark_eq (s : State) (p : Nat) : s.stepMark p = (s.modStream p Stream.marked).markEpoch p := rfl

theorem StepsKept.markEpoch (s : State) (p : Nat) : StepsKept s (s.markEpoch p) :=
  (refl s).ite ((modStream s p _ (by exact fun _ => rfl)).ite (openEpoch s p _ _ _))

/-- A step mark counts one more step, and leaves every queue. -/
theorem State.stepMark_leaves {s : State} {p : Nat} (hp : p < s.parts.length) :
    (s.stepMark p).queues = s.queues ∧ ((s.stepMark p).part p).stream.steps = (s.part p).stream.steps + 1 := by
  have hkept := StepsKept.markEpoch (s.modStream p Stream.marked) p
  rw [State.stepMark_eq]
  refine ⟨hkept.queues, ?_⟩
  rw [State.part_field_of_map (f := fun x => x.stream.steps) hkept.steps p, State.stream_modStream _ hp, Stream.steps_marked]

/-! The collective (R307). -/

/-- A collective that is forgotten runs no more. -/
theorem State.collOf_dropColl (s : State) (q : Nat) : (s.dropColl q).collOf q = none := by
  unfold State.dropColl
  cases hc : s.collOf q with
  | none => exact hc
  | some c =>
    refine List.find?_eq_none.2 fun x hx => ?_
    simpa using (List.mem_filter.1 hx).2

theorem State.committed_dropColl (s : State) (q : Nat) : (s.dropColl q).fab.committed = s.fab.committed := by
  unfold State.dropColl
  split
  · rfl
  next c _ =>
    have hcommitted := congrArg Fab.committed (Credits.releaseCredit s 0 (s.queue q).part c.blocks).fab
    exact hcommitted

end Sys2Proof.Machine
end

section
/-! SUPPORT. The commit of a command that stages nothing but its effect: the pages carried over, the commit point, and the record (R159, R261, R263). -/

namespace Sys2Proof.Machine

/-! The pages carried over (R263 step 2). -/

/-- Calm work that, besides, leaves the collectives and of the partitions changes the accounting alone. -/
structure Carries (s t : State) : Prop extends Calm s t where
  bare : t.parts.map Part.bare = s.parts.map Part.bare
  colls : t.fab.colls = s.fab.colls

namespace Carries

theorem refl (s : State) : Carries s s := ⟨.refl s, rfl, rfl⟩

theorem trans {s t u : State} (h : Carries s t) (k : Carries t u) : Carries s u := ⟨h.toCalm.trans k.toCalm, k.bare.trans h.bare, k.colls.trans h.colls⟩

theorem ite {c : Prop} [Decidable c] {s a b : State} (ha : Carries s a) (hb : Carries s b) : Carries s (if c then a else b) := by
  split
  · exact ha
  · exact hb

theorem foldl {α : Type} (f : State → α → State) (l : List α) (s : State) (hf : ∀ s x, Carries s (f s x)) : Carries s (l.foldl f s) := by
  induction l generalizing s with
  | nil => exact refl s
  | cons x r ih => exact (hf s x).trans (ih _)

variable (s : State)

theorem askCredit (r p cls n who : Nat) : Carries s (s.askCredit r p cls n who).2 :=
  ⟨.askCredit s r p cls n who, (Credits.askCredit s r p cls n who).bare, congrArg Fab.colls (Credits.askCredit s r p cls n who).fab⟩

theorem releaseCredit (r p n : Nat) : Carries s (s.releaseCredit r p n) :=
  ⟨.releaseCredit s r p n, (Credits.releaseCredit s r p n).bare, congrArg Fab.colls (Credits.releaseCredit s r p n).fab⟩

theorem meterBytes (p n : Nat) : Carries s (s.meterBytes p n) := ⟨.meterBytes s p n, rfl, rfl⟩

theorem sendPkt (ep part cls axis src : Nat) (body : PktBody) : Carries s (s.sendPkt ep part cls axis src body).1 := by
  have hsend := Received.sendPkt s ep part cls axis src body
  exact ⟨.sendPkt s ep part cls axis src body, by rw [hsend.parts], hsend.colls⟩

theorem cellarReq (who src : Nat) (lease : Nat × Nat) (off : Nat) (data : Option Bytes) (n : Nat) : Carries s (s.cellarReq who src lease off data n) := by
  unfold State.cellarReq
  refine trans (trans (meterBytes s _ _) (sendPkt _ _ _ _ _ _ _)) ⟨.modFab _ _, rfl, rfl⟩

theorem cellarRead (who a n : Nat) : Carries s (s.cellarRead who a n) := by
  refine foldl _ _ s fun s x => ?_
  split
  · exact (foldl _ _ s fun s j => (refl s).ite (cellarReq s _ _ _ _ _ _)).ite (refl s)
  · exact refl s

theorem carryReads (q : Nat) (x : Slab) : Carries s (s.carryReads q x) :=
  (meterBytes s _ _).trans ((foldl _ _ _ fun s _ => cellarRead s _ _ _).ite (refl _))

theorem carryOver (q : Nat) (l : List Nat) : Carries s (State.carryOver q l s).2 := by
  induction l generalizing s with
  | nil => exact refl s
  | cons k r ih =>
    unfold State.carryOver
    split
    · exact ih s
    · next x _ =>
      split
      · exact ih s
      · have hask := askCredit s (4 + homeDie x.tier x.near x.frame) x.part (s.queue q).cls 1 q
        dsimp only
        split
        · next u hu =>
          rw [hu] at hask
          exact ((hask.trans (carryReads u q x)).trans (releaseCredit _ _ _ _)).trans (ih _)
        · next u hu =>
          rw [hu] at hask
          exact hask

end Carries

/-- Such work leaves every slab the places that it finds. -/
theorem Alike.of_carries {s t : State} (h : Carries s t) : Alike s t := ⟨by rw [h.mem], by rw [h.mem], h.bare, by rw [h.queues]⟩

theorem Alike.endWait (s : State) (q : Nat) : Alike s (s.endWait q) := by
  refine ⟨rfl, rfl, rfl, ?_⟩
  refine map_updAt Queue.stages _ _ _ {} ?_
  unfold Queue.stages
  cases (s.queues.getD q {}).fifo with
  | nil => rfl
  | cons c r => rfl

theorem Alike.setHomes (s : State) (l : List (Nat × Tier)) : Alike s (s.setHomes l) := by
  unfold State.setHomes
  split
  · exact .refl s
  · refine ⟨?_, rfl, rfl, rfl⟩
    change (s.mem.slabs.map _).map _ = _
    rw [List.map_map]
    refine List.map_congr_left fun x _ => ?_
    rw [Function.comp_apply]
    split <;> rfl

/-! Room for an effect (R159). -/

/-- An effect that has room takes nothing. -/
theorem State.effectRoom_of_fst {s : State} {p : Nat} {e : Effect} (h : (s.effectRoom p e).1 = true) : s.effectRoom p e = (true, s) := by
  cases e with
  | registerGset a l =>
    unfold State.effectRoom at h ⊢
    dsimp only at h ⊢
    split at h
    next hall => exact if_pos hall
    · cases h
  | none | mapRegion | unmapRegion | releaseGset | streamConfig | stepMark | collective => rfl

/-- A registration has room exactly where all its slabs can be pinned. -/
theorem State.pinAll_of_room {s : State} {p a : Nat} {l : List Nat} (h : (s.effectRoom p (.registerGset a l)).1 = true) : (State.pinAll l s).isSome = true := by
  by_contra hno
  unfold State.effectRoom at h
  dsimp only at h
  rw [if_neg hno] at h
  cases h

/-- Where slabs find the same places an effect has the same room. -/
theorem Alike.effectRoom {s t : State} (h : Alike s t) {p : Nat} {e : Effect} (hroom : (s.effectRoom p e).1 = true) : (t.effectRoom p e).1 = true := by
  cases e with
  | registerGset a l =>
    have hall := (h.pinAll l).trans (State.pinAll_of_room hroom)
    unfold State.effectRoom
    dsimp only
    rw [if_pos hall]
  | none | mapRegion | unmapRegion | releaseGset | streamConfig | stepMark | collective => rfl

/-! The commit point (R263). -/

/-- A command that stages nothing but its effect. -/
structure Cmd.Bare (c : Cmd) : Prop where
  slabs : c.staged.slabs = []
  writes : c.staged.writes = []
  recs : c.staged.recs = []
  sends : c.staged.sends = []

/-- The state in which the effect of the head command `c` is in force, before its record. -/
def State.effected (s : State) (q : Nat) (c : Cmd) : State := ((s.endWait q).setHomes c.staged.tiers).applyEffect q c.staged.effect

theorem State.commitPoint_of_bare {s : State} {q : Nat} {c d : Cmd} (hc : s.head? q = some c) (hbare : c.Bare) (hd : (s.effected q c).head? q = some d)
    (hsends : d.staged.sends = []) : s.commitPoint q = (((s.effected q c).popHead q).complete q d 0).fixPoolWait (s.queue q).part := by
  obtain ⟨hslabs, hwrites, hrecs, -⟩ := hbare
  have hnotices : (s.effected q c).commitNotices q = s.effected q c := by
    unfold State.commitNotices
    simp only [hd, hsends, List.filter_nil, List.foldl_nil]
  have hsame (t : State) : t.setDev t.dev = t := rfl
  unfold State.commitPoint
  simp only [hc, hslabs, hwrites, hrecs, State.settleSlabs_nil, List.foldl_nil, hsame]
  rw [show ((s.endWait q).setHomes c.staged.tiers).applyEffect q c.staged.effect = s.effected q c from rfl, hnotices]
  simp only [hd]

/-- What follows the effect: the head command leaves with its record. -/
theorem State.commitPoint_files {s : State} {q : Nat} {c d : Cmd} (hc : s.head? q = some c) (hbare : c.Bare) (hd : (s.effected q c).head? q = some d)
    (hsends : d.staged.sends = []) : Files ((s.effected q c).popHead q) (s.commitPoint q) := by
  rw [State.commitPoint_of_bare hc hbare hd hsends]
  exact (Files.complete _ q d 0).trans (.fixPoolWait _ _)

/-- The commit of such a command that may pass now reaches the commit point once its pages are carried over (R263 step 2). -/
theorem State.commitHead_of_bare {s : State} {q : Nat} {c : Cmd} (h : Claims.CommitsNow s q c) (hbare : c.Bare) :
    s.commitHead q = (State.carryOver q c.staged.partly s).2.commitPoint q := by
  obtain ⟨hc, hphase, hlosing, ⟨-, -, hring, hout⟩, -, -, hwhole, hstatus, hfits, hcopied, hroom⟩ := h
  obtain ⟨hslabs, -, -, hsends⟩ := hbare
  have hcarries := Carries.carryOver s q c.staged.partly
  have hopen : (c.phase == .staged || c.phase == .poolWait || (c.phase == .ringWait && c.result == 0)) = true := by
    simpa [or_assoc] using hphase
  have hheld (ks : List Nat) : s.hostHeld ks = false := by
    unfold State.hostHeld
    rw [hout]
    rfl
  have hlost : (c.staged.partly.any fun k => match s.slab? k with | some x => x.st == .lost | none => false) = false := by
    rw [List.any_eq_false]
    intro k hk
    cases hy : s.slab? k with
    | none => decide
    | some y => simpa using hwhole k hk y hy
  have heffect := State.effectRoom_of_fst ((Alike.of_carries hcarries).effectRoom hfits)
  rw [hslabs, List.map_nil] at hroom
  unfold State.commitHead
  simp only [hc, hlosing, hopen, hheld, hout, hslabs, hsends, hstatus, hcopied, heffect, hcarries.queue, hring, hcarries.toCalm.poolRoom, hroom, List.map_nil, List.any_nil,
    Bool.not_true, Bool.or_false, Bool.and_false, Bool.false_eq_true, ne_eq, not_true_eq_false, if_false]
  exact if_neg (Bool.eq_false_iff.1 hlost)

/-! The queues at an effect. -/

theorem Calm.dropColl (s : State) (q : Nat) : Calm s (s.dropColl q) := by
  unfold State.dropColl
  split
  · exact refl s
  · exact (releaseCredit s _ _ _).trans (modFab _ _)

/-- A command that has started notes an unmapped range (R263). -/
def Cmd.noted (c : Cmd) (k n : Nat) : Cmd := if c.phase == .queued then c else { c with unmapped := (k, n) :: c.unmapped }

/-- A queue whose head command notes it. -/
def Queue.noted (k n : Nat) (x : Queue) : Queue := { x with fifo := updAt x.fifo 0 fun c => c.noted k n }

theorem State.noteUnmap_eq (s : State) (k n : Nat) : s.noteUnmap k n = s.setQueues (s.queues.map (Queue.noted k n)) := rfl

/-- The head command may have noted an unmapped range; the commands behind it, the ring, host memory, the host-line cache and the link are as they were. -/
theorem State.fifo_noteUnmap {s : State} {q : Nat} {c : Cmd} (hc : s.head? q = some c) (k n : Nat) :
    RingKept s (s.noteUnmap k n) q ∧ ∃ d, ((s.noteUnmap k n).queue q).fifo = d :: (s.queue q).fifo.tail ∧ d.entry = c.entry ∧ d.staged = c.staged := by
  have hqueue : (s.setQueues (s.queues.map (Queue.noted k n))).queue q = (s.queue q).noted k n := List.getD_map s.queues ({} : Queue) (Queue.noted k n)
  have hfifo : ((s.queue q).noted k n).fifo = c.noted k n :: (s.queue q).fifo.tail := by
    unfold Queue.noted
    rw [State.fifo_of_head? hc]
    rfl
  rw [State.noteUnmap_eq]
  refine ⟨⟨by rw [hqueue]; rfl, by rw [hqueue, hfifo]; rfl, List.length_map _, rfl, rfl, rfl⟩, c.noted k n, by rw [hqueue, hfifo], ?_⟩
  unfold Cmd.noted
  split
  · exact ⟨rfl, rfl⟩
  · exact ⟨rfl, rfl⟩

/-- Work that leaves the queues, host memory, the host-line cache and the link keeps the ring. -/
theorem RingKept.of_blocks {s t : State} (q : Nat) (hqueues : t.queues = s.queues) (hhost : t.mem.hostMem = s.mem.hostMem)
    (hlines : t.fabric.lines = s.fabric.lines) (hlink : t.link = s.link) : RingKept s t q := by
  have hqueue := State.queue_congr hqueues q
  exact ⟨by rw [hqueue]; rfl, by rw [hqueue], by rw [hqueues], hhost, hlines, hlink⟩

theorem RingKept.of_shifts {s t : State} (h : Shifts s t) (q : Nat) : RingKept s t q := of_blocks q h.queues h.hostMem (by rw [h.state]) h.link

/-- The effects other than a step mark and an unmapping leave every queue. -/
theorem State.queues_applyEffect (s : State) (q : Nat) (e : Effect) (he : ∀ r base n, e ≠ .unmapRegion r base n) : (s.applyEffect q e).queues = s.queues := by
  cases e with
  | none | releaseGset | streamConfig => rfl
  | mapRegion r base n kind model pin =>
    obtain ⟨m, hm, -⟩ := s.mapRegion_leaves (s.queue q).part { kind := kind, pin := pin, model := model, base := base * slabB, slabs := n }
    change (s.mapRegion _ _).queues = _
    rw [hm]
    rfl
  | unmapRegion r base n => exact absurd rfl (he r base n)
  | registerGset a l => exact (Shifts.pinGset s l).queues
  | stepMark => exact (StepsKept.markEpoch _ _).queues
  | collective id =>
    unfold State.applyEffect
    dsimp only
    split
    · rfl
    · refine Eq.trans (Calm.dropColl _ q).queues ?_
      change State.queues (if _ then _ else _) = _
      split <;> rfl

/-- The commands of the queue at an effect: its head may have noted an unmapped range. -/
theorem State.fifo_applyEffect {s : State} {q : Nat} {c : Cmd} (hc : s.head? q = some c) (e : Effect) :
    ∃ d, ((s.applyEffect q e).queue q).fifo = d :: (s.queue q).fifo.tail ∧ d.entry = c.entry ∧ d.staged = c.staged := by
  by_cases he : ∀ r base n, e ≠ .unmapRegion r base n
  · exact ⟨c, by rw [State.queue_congr (s.queues_applyEffect q e he), ← State.fifo_of_head? hc], rfl, rfl⟩
  · push Not at he
    obtain ⟨r, base, n, rfl⟩ := he
    have hdrop := Shifts.dropMoves s fun m => decide (base ≤ m.key) && decide (m.key < base + n)
    have hqueue := State.queue_congr hdrop.queues q
    obtain ⟨-, d, hd, hentry, hstaged⟩ := State.fifo_noteUnmap (s := s.dropMoves fun m => decide (base ≤ m.key) && decide (m.key < base + n))
      ((congrArg (fun x : Queue => x.fifo.head?) hqueue).trans hc) base n
    rw [hqueue] at hd
    exact ⟨d, hd, hentry, hstaged⟩

/-- The effects other than a step mark keep the ring. -/
theorem RingKept.applyEffect {s : State} {q : Nat} {c : Cmd} (hc : s.head? q = some c) {e : Effect} (he : e ≠ .stepMark) : RingKept s (s.applyEffect q e) q := by
  cases e with
  | none => exact refl s q
  | releaseGset | streamConfig => exact of_blocks q rfl rfl rfl rfl
  | mapRegion r base n kind model pin =>
    obtain ⟨m, hm, -⟩ := s.mapRegion_leaves (s.queue q).part { kind := kind, pin := pin, model := model, base := base * slabB, slabs := n }
    change RingKept s (s.mapRegion _ _) q
    rw [hm]
    exact of_blocks q rfl rfl rfl rfl
  | unmapRegion r base n =>
    have hdrop := Shifts.dropMoves s fun m => decide (base ≤ m.key) && decide (m.key < base + n)
    have hqueue := State.queue_congr hdrop.queues q
    obtain ⟨hnote, -⟩ := State.fifo_noteUnmap (s := s.dropMoves fun m => decide (base ≤ m.key) && decide (m.key < base + n))
      ((congrArg (fun x : Queue => x.fifo.head?) hqueue).trans hc) base n
    exact ((of_shifts hdrop q).trans hnote).trans (of_blocks q rfl rfl rfl rfl)
  | registerGset a l => exact (of_shifts (Shifts.pinGset s l) q).trans (of_blocks q rfl rfl rfl rfl)
  | stepMark => exact absurd rfl he
  | collective id =>
    unfold State.applyEffect
    dsimp only
    split
    · exact refl s q
    · refine trans ?_ (of_apart (Calm.dropColl _ q).toApart q)
      split <;> exact of_blocks q rfl rfl rfl rfl

/-- Where the head command of such a commit stands once its effect is in force. -/
theorem State.effected_fifo {s : State} {q : Nat} {c : Cmd} (hc : s.head? q = some c) :
    ∃ d, ((s.effected q c).queue q).fifo = d :: (s.queue q).fifo.tail ∧ d.entry = c.entry ∧ d.staged = c.staged := by
  have hwait := (HeadBecomes.refl hc).endWait
  have hhomes := Apart.setHomes (s.endWait q) c.staged.tiers
  obtain ⟨d, hd, hentry, hstaged⟩ := State.fifo_applyEffect ((hhomes.head? q).trans hwait.head) c.staged.effect
  rw [hhomes.queue q, hwait.tail] at hd
  exact ⟨d, hd, hentry, hstaged⟩

/-- The commands behind the head are left once it has committed. -/
theorem State.commitPoint_fifo {s : State} {q : Nat} {c : Cmd} (hc : s.head? q = some c) (hbare : c.Bare) :
    Files ((s.effected q c).popHead q) (s.commitPoint q) ∧ ((s.commitPoint q).queue q).fifo = (s.queue q).fifo.tail := by
  obtain ⟨d, hd, -, hstaged⟩ := State.effected_fifo hc
  have hhead : (s.effected q c).head? q = some d := by
    unfold State.head?
    rw [hd]
    rfl
  have hfiles := State.commitPoint_files hc hbare hhead (by rw [hstaged]; exact hbare.sends)
  refine ⟨hfiles, ?_⟩
  rw [hfiles.fifo q]
  unfold State.popHead
  rw [State.queue_modQueue_self _ _ _ (State.lt_of_head? hhead), hd]
  rfl

/-- A queue but for its commands, its clocks and its accounting. -/
def Queue.ring (x : Queue) : Queue := { x with fifo := [], cqFull := false, idle := false, vt := 0, acct := {} }

/-- What does not look at those is the same of two queues that differ in nothing else. -/
theorem Queue.field_of_ring {α : Type} {x y : Queue} (f : Queue → α) (hf : ∀ x, f x.ring = f x) (h : y.ring = x.ring) : f y = f x := by rw [← hf y, h, hf]

theorem Queue.SameRing.ring {x y : Queue} (h : x.SameRing y) : y.ring = x.ring := h.same Queue.ring fun _ _ _ _ _ => rfl

/-- What is recorded from a state with the same ring and commands behind the head, the same host memory and host-line cache, is recorded from this one. -/
theorem recorded_of_ring {s v u : State} {q st : Nat} {c d : Cmd} (h : Claims.Recorded v u q d st) (hring : (v.queue q).ring = (s.queue q).ring)
    (hcmds : (v.queue q).fifo.tail = (s.queue q).fifo.tail) (hmem : v.mem.hostMem = s.mem.hostMem) (hlines : v.fabric.lines = s.fabric.lines)
    (hentry : d.entry = c.entry) : Claims.Recorded s u q c st := by
  obtain ⟨hfifo, hseq, htail, hstatus, htag, hseqField, hphase, hbytes⟩ := h
  have hat : (v.queue q).nextAt = (s.queue q).nextAt := Queue.field_of_ring Queue.nextAt (fun _ => rfl) hring
  have hnext : Claims.nextRecord v u q = Claims.nextRecord s u q := congrArg (fun a => Memory.read u.mem.hostMem a 32) hat
  have hseqKept : (v.queue q).seq = (s.queue q).seq := Queue.field_of_ring Queue.seq (fun _ => rfl) hring
  have hphaseKept : (v.queue q).phase = (s.queue q).phase := Queue.field_of_ring Queue.phase (fun _ => rfl) hring
  have htailKept : ((v.queue q).cqTail + 1) % (v.queue q).size = ((s.queue q).cqTail + 1) % (s.queue q).size :=
    Queue.field_of_ring (fun x => (x.cqTail + 1) % x.size) (fun _ => rfl) hring
  have hbyte (a : Nat) : Claims.hostByte v a = Claims.hostByte s a := congrArg (Memory.get · a) hmem
  rw [hnext] at hstatus htag hseqField hphase
  rw [hseqKept] at hseq hseqField
  rw [hlines] at hbytes
  refine ⟨hfifo.trans hcmds, hseq, htail.trans htailKept, hstatus, hentry ▸ htag, hseqField, hphase.trans hphaseKept, fun a ha hclear => ?_⟩
  exact (hbytes a (by unfold Queue.nextAt at hat; rw [hat]; exact ha) hclear).trans (hbyte a)

/-- The commit of a command whose effect is no step mark, where the ring takes its record: the record carries status 0 (R261). -/
theorem State.recorded_commitPoint {s : State} {q : Nat} {c : Cmd} (hc : s.head? q = some c) (hbare : c.Bare) (he : c.staged.effect ≠ .stepMark)
    (htakes : Claims.TakesRecord s q) (hwf : Memory.wf s.mem.hostMem = true) : Claims.Recorded s (s.commitPoint q) q c 0 := by
  obtain ⟨-, hheld, hroom, hout⟩ := htakes
  obtain ⟨d, hd, hentry, hstaged⟩ := State.effected_fifo hc
  have hwait := (HeadBecomes.refl hc).endWait
  have hhomes := Apart.setHomes (s.endWait q) c.staged.tiers
  have hring : RingKept s (s.effected q c) q :=
    ((RingKept.modHead s q _).trans (.of_apart hhomes q)).trans (.applyEffect ((hhomes.head? q).trans hwait.head) he)
  have hhead : (s.effected q c).head? q = some d := by
    unfold State.head?
    rw [hd]
    rfl
  rw [State.commitPoint_of_bare hc hbare hhead (by rw [hstaged]; exact hbare.sends)]
  have hleaves : Leaves (s.effected q c) (((s.effected q c).popHead q).complete q d 0) q d 0 (s.effected q c).mem.dev :=
    .complete d (State.lt_of_head? hhead) ((hring.queue.same Queue.heldRecs fun _ _ _ _ _ => rfl).trans hheld)
      ((hring.queue.same Queue.ringRoom fun _ _ _ _ _ => rfl).trans hroom) (hring.outbound.trans hout) ((congrArg Memory.wf hring.hostMem).trans hwf) rfl
  exact recorded_of_ring (hleaves.apart (.fixPoolWait _ _)).recorded hring.queue.ring hring.tail hring.hostMem hring.lines hentry

end Sys2Proof.Machine
end

section
/-! SUPPORT. A run that reads, writes and sends nothing: it stands before its commit with its effect staged, and nothing else has changed (R257, R263). -/

namespace Sys2Proof.Machine

/-- From `s` to `t` queue `q` has the same ring and the same commands behind its head, and nothing of the memory system, the host-line cache, the link and the streams has changed. -/
structure Poised (s t : State) (q : Nat) : Prop where
  ring : (t.queue q).ring = (s.queue q).ring
  tail : (t.queue q).fifo.tail = (s.queue q).fifo.tail
  count : t.queues.length = s.queues.length
  mem : t.mem = s.mem
  lines : t.fabric.lines = s.fabric.lines
  link : t.link = s.link
  streams : t.parts.map Part.stream = s.parts.map Part.stream

namespace Poised

theorem refl (s : State) (q : Nat) : Poised s s q := ⟨rfl, rfl, rfl, rfl, rfl, rfl, rfl⟩

theorem trans {s t u : State} {q : Nat} (h : Poised s t q) (k : Poised t u q) : Poised s u q :=
  ⟨k.ring.trans h.ring, k.tail.trans h.tail, k.count.trans h.count, k.mem.trans h.mem, k.lines.trans h.lines, k.link.trans h.link, k.streams.trans h.streams⟩

theorem of_calm {s t : State} (h : Calm s t) (q : Nat) : Poised s t q := by
  have hqueue := h.queue q
  exact ⟨by rw [hqueue], by rw [hqueue], by rw [h.queues], h.mem, h.lines, h.link, h.streams⟩

/-- An update of the queue that keeps its ring and the commands behind its head. -/
theorem modQueue (s : State) (q : Nat) (f : Queue → Queue) (hf : ∀ x, (f x).ring = x.ring ∧ (f x).fifo.tail = x.fifo.tail) : Poised s (s.modQueue q f) q := by
  have hqueue : ((s.modQueue q f).queue q).ring = (s.queue q).ring ∧ ((s.modQueue q f).queue q).fifo.tail = (s.queue q).fifo.tail := by
    rw [State.queue_modQueue]
    split
    · exact hf _
    · exact ⟨rfl, rfl⟩
  exact ⟨hqueue.1, hqueue.2, s.queues_length_modQueue q f, rfl, rfl, rfl, rfl⟩

theorem modHead (s : State) (q : Nat) (f : Cmd → Cmd) : Poised s (s.modHead q f) q :=
  modQueue s q _ fun x => ⟨rfl, by cases x.fifo <;> rfl⟩

theorem answerSlow (s : State) (q : Nat) : Poised s (s.answerSlow q) q := by
  unfold State.answerSlow
  split
  · exact (of_calm (Calm.releaseCredit s _ _ _) q).trans (modHead _ q _)
  · exact refl s q

theorem releaseCores (s : State) (q : Nat) : Poised s (s.releaseCores q) q := by
  unfold State.releaseCores
  split
  · exact refl s q
  · split
    · exact refl s q
    · refine trans (trans (trans ?_ (modQueue _ q _ ?_)) (modHead _ q _)) (of_calm (Calm.restCores _ _) q)
      · refine of_calm ((Calm.clearEngines s _).trans (Calm.modPart _ _ _ ?_ ?_)) q
        · exact fun _ => rfl
        · exact fun _ => rfl
      · exact fun _ => ⟨rfl, rfl⟩

theorem settleRun (s : State) (q : Nat) : Poised s (s.settleRun q) q := by
  unfold State.settleRun
  split
  · exact refl s q
  · split
    · refine trans (trans (trans (of_calm ((Calm.linkSend s _).trans (Calm.meterBytes _ _ _)) q) (modHead _ q _)) (releaseCores _ q)) (modHead _ q _)
    · exact refl s q

/-- A command with no tile hands none over. -/
theorem pushTiles {s : State} {q : Nat} {c : Cmd} (hc : s.head? q = some c) (hsends : c.staged.sends = []) : Poised s (s.pushTiles q) q := by
  unfold State.pushTiles
  simp only [hc, hsends, List.any_nil, Bool.false_eq_true, if_false, State.pushSends]
  split
  · exact ((modHead s q _).trans (modHead _ q _)).trans (modHead _ q _)
  · exact (modHead s q _).trans (modHead _ q _)

end Poised

/-- A run that reads, writes and sends nothing, with the effect `eff`. -/
def State.stageEffect (s : State) (q : Nat) (eff : Effect) : State := s.stageRun q {} eff

/-- The state in which the run has been counted. -/
def State.effectRun (s : State) (q : Nat) : State :=
  let t := ((s.answerSlow q).meterVectors (s.queue q).part 0).meterBytes (s.queue q).part (s.lowTierBytes [])
  let t := t.setFresh (t.fresh + 0)
  t.linkSend (t.readTraffic (s.queue q).part ((t.queue q).cls == 0) (t.diesOf (((t.head? q).map (·.cores)).getD [])) [])

theorem State.effectRun_calm (s : State) (q : Nat) : Calm (s.answerSlow q) (s.effectRun q) :=
  (((Calm.meterVectors _ _ 0).trans (Calm.meterBytes _ _ _)).trans (Calm.setFresh _ _)).trans (Calm.linkSend _ _)

/-- A command that has run with nothing to write or read: its effect waits with it. -/
def Cmd.staging (eff : Effect) (c : Cmd) : Cmd := { c with ran := true, staged := { sends := c.staged.sends, effect := eff } }

/-- No slab is drawn, and what is staged settles at once. -/
theorem State.stageEffect_eq (s : State) (q : Nat) (eff : Effect) :
    s.stageEffect q eff = (((s.effectRun q).modHead q (Cmd.staging eff)).pushTiles q).settleRun q := by
  have hheld : s.hostHeld ((({} : RunRes).reads).flatMap fun x => spanSlabs x.1 x.2) = false := by
    unfold State.hostHeld
    simp
  unfold State.stageEffect State.stageRun
  rw [hheld]
  simp only [Bool.false_eq_true, if_false, ne_eq, not_true_eq_false, List.any_nil, recSpans, List.map_nil, List.append_nil, List.flatMap_nil, List.dedup_nil, List.filter_nil]
  rfl

/-- A command whose outputs are all staged and handed over stands before its commit, its entry and what it staged as they were (R263 step 1). -/
theorem HeadBecomes.settleRun_of_ready {s : State} {q : Nat} {c : Cmd} (hc : s.head? q = some c) (hphase : c.phase = .started) (hran : c.ran = true)
    (hneed : c.staged.need = []) (hleft : s.tilesLeft q = false) :
    ∃ d, HeadBecomes s (s.settleRun q) q d ∧ d.phase = .staged ∧ d.cores = [] ∧ d.ran = c.ran ∧ d.entry = c.entry ∧ d.staged = c.staged := by
  have hlinks (l : List LinkPkt) (p n : Nat) : HeadBecomes s ((s.linkSend l).meterBytes p n) q c :=
    .of_apart hc ((Calm.linkSend s l).trans (Calm.meterBytes _ p n)).toApart
  unfold State.settleRun
  simp only [hc, hphase, hran, hneed, hleft, BEq.rfl, List.isEmpty_nil, Bool.not_false, Bool.and_self, if_true]
  exact ⟨_, (hlinks _ _ _).endWait.releaseCores.modHead fun c => { c with phase := .staged, tileWait := false }, rfl, rfl, hran, rfl, rfl⟩

/-- Such a run stands before its commit with its effect staged, and holds no core (R257, R263). -/
theorem State.stageEffect_leaves {s : State} {q op : Nat} {c : Cmd} (hs : Claims.Started s q op c) (eff : Effect) :
    Poised s (s.stageEffect q eff) q ∧ ∃ d, (s.stageEffect q eff).head? q = some d ∧ d.phase = .staged ∧ d.cores = [] ∧ d.ran = true ∧ d.entry = c.entry ∧
      d.staged = { effect := eff } := by
  obtain ⟨hc, -, hphase, -, hstaged, -⟩ := hs
  have hrun : HeadBecomes s ((s.effectRun q).modHead q (Cmd.staging eff)) q (Cmd.staging eff { c with slow := false }) :=
    ((HeadBecomes.refl hc).answerSlow.apart (s.effectRun_calm q).toApart).modHead _
  have hsends : (Cmd.staging eff { c with slow := false }).staged.sends = [] := by
    change c.staged.sends = []
    rw [hstaged]
  have hpoised : Poised s ((s.effectRun q).modHead q (Cmd.staging eff)) q :=
    ((Poised.answerSlow s q).trans (.of_calm (s.effectRun_calm q) q)).trans (.modHead _ q _)
  rw [State.stageEffect_eq]
  generalize (s.effectRun q).modHead q (Cmd.staging eff) = t at hrun hpoised
  have hpush := Poised.pushTiles hrun.head hsends
  obtain ⟨e, he, hpushed⟩ := HeadBecomes.pushTiles hrun.head fun x hx => by rw [hsends] at hx; cases hx
  rw [hsends] at hpushed
  have hleft : (t.pushTiles q).tilesLeft q = false := by
    rw [State.tilesLeft_of_head? he.head, hpushed]
    rfl
  obtain ⟨f, hf, fphase, fcores, fran, fentry, fstaged⟩ :=
    HeadBecomes.settleRun_of_ready he.head (by rw [hpushed]; exact hphase) (by rw [hpushed]; rfl) (by rw [hpushed]; rfl) hleft
  refine ⟨(hpoised.trans hpush).trans (.settleRun _ q), f, hf.head, fphase, fcores, ?_, ?_, ?_⟩
  · rw [fran, hpushed]
    rfl
  · rw [fentry, hpushed]
    rfl
  · rw [fstaged, hpushed]
    rfl

end Sys2Proof.Machine
end

section
open Sys2Proof Sys2Proof.Machine

namespace Sys2Proof.Claims

/-- A run that stages an effect alone leaves the command before its commit point (R257, R263). -/
theorem runReady_stageEffect {s : State} {q : Fin 64} {op : Nat} {c : Cmd} (hs : Started s q.val op c) (eff : Effect) :
    RunReady s (s.stageEffect q.val eff) q.val eff := by
  obtain ⟨hpoised, d, hd, hphase, hcores, hran, -, hstaged⟩ := State.stageEffect_leaves hs eff
  exact ⟨⟨⟨d, hd, hran, by rw [hstaged], by rw [hstaged], by rw [hstaged]⟩, congrArg Mem.dev hpoised.mem⟩, ⟨d, hd, hphase, hcores⟩, hpoised.mem⟩

/-- Where its commit may pass, that command is the one that commits. -/
theorem commitsNow_stageEffect {s : State} {q : Fin 64} {op : Nat} {c : Cmd} (hs : Started s q.val op c) (eff : Effect) (hopen : CommitOpen s q.val)
    (hstatus : (s.stageEffect q.val eff).effectStatus (s.queue q.val).part eff = 0) (hroom : ((s.stageEffect q.val eff).effectRoom (s.queue q.val).part eff).1 = true) :
    ∃ d, CommitsNow (s.stageEffect q.val eff) q.val d ∧ d.Bare ∧ d.entry = c.entry ∧ d.staged = { effect := eff } := by
  obtain ⟨-, ⟨hlen, hheld, hring, hout⟩, hlosing, hpool⟩ := hopen
  obtain ⟨hpoised, d, hd, hphase, hcores, hran, hentry, hstaged⟩ := State.stageEffect_leaves hs eff
  generalize s.stageEffect q.val eff = u at *
  have hpart : (u.queue q.val).part = (s.queue q.val).part := Queue.field_of_ring Queue.part (fun _ => rfl) hpoised.ring
  have htakes : TakesRecord u q.val :=
    ⟨hpoised.count.trans hlen, (Queue.field_of_ring Queue.heldRecs (fun _ => rfl) hpoised.ring).trans hheld,
      (Queue.field_of_ring Queue.ringRoom (fun _ => rfl) hpoised.ring).trans hring,
      (congrArg (fun l : Link => l.st == .l0 && !l.d3hot && !l.losing) hpoised.link).trans hout⟩
  refine ⟨d, ⟨hd, .inl hphase, by rw [hpoised.link]; exact hlosing, htakes, ?_, ?_, ?_, ?_, ?_, ?_, ?_⟩, ⟨?_, ?_, ?_, ?_⟩, hentry, hstaged⟩ <;> rw [hstaged]
  · intro x hx
    cases hx
  · intro x hx
    cases hx
  · intro x hx
    cases hx
  · rw [hpart]
    exact hstatus
  · rw [hpart]
    exact hroom
  · rfl
  · rw [hpart, ← hpool]
    unfold State.poolRoom State.mustRetain State.slab?
    rw [State.part_field_of_map hpoised.streams, hpoised.mem]
    rfl

/-- Where its commit may pass, it reaches the commit point (R263). -/
theorem exec_commit_stageEffect {s : State} {q : Fin 64} {op : Nat} {c : Cmd} {eff : Effect} (hs : Started s q.val op c) (hopen : CommitOpen s q.val)
    (hstatus : (s.stageEffect q.val eff).effectStatus (s.queue q.val).part eff = 0) (hroom : ((s.stageEffect q.val eff).effectRoom (s.queue q.val).part eff).1 = true) :
    exec (.commit q) (s.stageEffect q.val eff) = .next ((s.stageEffect q.val eff).commitPoint q.val).settle := by
  obtain ⟨d, hcommits, hbare, -, hstaged⟩ := commitsNow_stageEffect hs eff hopen hstatus hroom
  have hhead : (s.stageEffect q.val eff).commitHead q.val = (s.stageEffect q.val eff).commitPoint q.val := by
    rw [State.commitHead_of_bare hcommits hbare, hstaged]
    rfl
  exact congrArg (fun t : State => Host.Outcome.next t.settle) hhead

/-- Such a command, whose effect is no step mark, runs and then commits with status 0 where its commit may pass (R257, R261, R263). -/
theorem runsThenCommits_stageEffect {i : Instr} {s : State} {q : Fin 64} {op : Nat} {c : Cmd} {eff : Effect} (hs : Started s q.val op c)
    (hexec : exec i s = .next (s.stageEffect q.val eff).settle) (heff : eff ≠ .stepMark) :
    RunsThenCommits i s (s.stageEffect q.val eff) ((s.stageEffect q.val eff).commitPoint q.val) q c eff := by
  refine ⟨hexec, runReady_stageEffect hs eff, fun hopen hstatus hroom => ⟨exec_commit_stageEffect hs hopen hstatus hroom, ?_⟩⟩
  obtain ⟨hpoised, -⟩ := State.stageEffect_leaves hs eff
  obtain ⟨d, ⟨hd, -, -, htakes, -⟩, hbare, hentry, hstaged⟩ := commitsNow_stageEffect hs eff hopen hstatus hroom
  have hwf : Memory.wf (s.stageEffect q.val eff).mem.hostMem = true := by rw [hpoised.mem]; exact hopen.1.2
  exact recorded_of_ring (State.recorded_commitPoint hd hbare (by rw [hstaged]; exact heff) htakes hwf) hpoised.ring hpoised.tail
    (congrArg Mem.hostMem hpoised.mem) hpoised.lines hentry

/-- What the commit of such a command leaves but for its record: the effect on a state with the memory system and the streams of the first. -/
theorem effect_stageEffect {s : State} {q : Fin 64} {op : Nat} {c : Cmd} (hs : Started s q.val op c) (eff : Effect) :
    ∃ t : State, t.mem = s.mem ∧ t.parts.map Part.stream = s.parts.map Part.stream ∧ (t.queue q.val).part = (s.queue q.val).part ∧
      Files ((t.applyEffect q.val eff).popHead q.val) ((s.stageEffect q.val eff).commitPoint q.val) := by
  obtain ⟨hpoised, d, hd, -, -, -, -, hstaged⟩ := State.stageEffect_leaves hs eff
  have hbare : d.Bare := by constructor <;> rw [hstaged]
  obtain ⟨hfiles, -⟩ := State.commitPoint_fifo hd hbare
  generalize s.stageEffect q.val eff = u at *
  have heffected : u.effected q.val d = (u.endWait q.val).applyEffect q.val eff := by
    unfold State.effected
    rw [hstaged]
    rfl
  rw [heffected] at hfiles
  have hring := (Poised.modHead u q.val fun c => { c with waitUs := u.waitOf c, waitFrom := none }).ring.trans hpoised.ring
  exact ⟨u.endWait q.val, hpoised.mem, hpoised.streams, Queue.field_of_ring Queue.part (fun _ => rfl) hring, hfiles⟩

/-! The commands (R257). -/

section
variable {s : State} {q : Fin 64} {c : Cmd}

theorem nop_stages (hs : Started s q.val cNOP c) :
    ∃ u v : State, RunsThenCommits (.nop q) s u v q c .none ∧ v.mem.dev = s.mem.dev ∧ v.mem.slabs = s.mem.slabs ∧ v.mem.regions = s.mem.regions := by
  obtain ⟨t, hmem, -, -, hfiles⟩ := effect_stageEffect hs .none
  refine ⟨_, _, runsThenCommits_stageEffect hs ?_ (by simp), hfiles.dev.trans (congrArg Mem.dev hmem), hfiles.slabs.trans (congrArg Mem.slabs hmem),
    hfiles.regions.trans (congrArg Mem.regions hmem)⟩
  change execNop q s = _
  unfold execNop
  rw [State.runHead_of_started hs]
  rfl

theorem count_of_streams {s t : State} (h : t.parts.map Part.stream = s.parts.map Part.stream) : t.parts.length = s.parts.length := by
  have hlen := congrArg List.length h
  rwa [List.length_map, List.length_map] at hlen

theorem stepMark_stages (hs : Started s q.val cMARK c) (hp : partOf s q < s.parts.length) :
    ∃ u v : State, exec (.stepMark q) s = .next u.settle ∧ RunReady s u q.val .stepMark ∧
      (CommitOpen s q.val → exec (.commit q) u = .next v.settle ∧ (v.queue q.val).fifo = (s.queue q.val).fifo.tail) ∧
      (v.part (partOf s q)).stream.steps = (s.part (partOf s q)).stream.steps + 1 := by
  obtain ⟨t, -, hstreams, hpart, hfiles⟩ := effect_stageEffect hs .stepMark
  obtain ⟨hpoised, d, hd, -, -, -, -, hstaged⟩ := State.stageEffect_leaves hs .stepMark
  have hpt : partOf s q < t.parts.length := count_of_streams hstreams ▸ hp
  refine ⟨_, (s.stageEffect q.val .stepMark).commitPoint q.val, ?_, runReady_stageEffect hs .stepMark, fun hopen => ⟨?_, ?_⟩, ?_⟩
  · change execStepMark q s = _
    unfold execStepMark
    rw [State.runHead_of_started hs]
    rfl
  · exact exec_commit_stageEffect hs hopen rfl rfl
  · exact (State.commitPoint_fifo hd (by constructor <;> rw [hstaged])).2.trans hpoised.tail
  · refine (hfiles.part_field (fun x => x.stream.steps) (fun _ => rfl) _).trans ?_
    change ((t.stepMark (t.queue q.val).part).part (partOf s q)).stream.steps = _
    rw [hpart, show (s.queue q.val).part = partOf s q from rfl, (State.stepMark_leaves hpt).2, State.part_field_of_map hstreams]

/-- A region that passes the checks of R203 has a slab's address, and no slab of it is mapped. -/
theorem mapStatus_zero {p : Nat} {d : RegionDesc} (h : s.mapStatus p d = 0) :
    keyOf d.base * slabB = d.base ∧ ∀ k, keyOf d.base ≤ k → k < keyOf d.base + d.slabs → s.slab? k = none := by
  have hpass {c : Prop} [Decidable c] {n m : Nat} (hn : n ≠ 0) (h : (if c then n else m) = 0) : ¬c ∧ m = 0 := by
    by_cases hc : c
    · rw [if_pos hc] at h
      exact absurd h hn
    · rw [if_neg hc] at h
      exact ⟨hc, h⟩
  unfold State.mapStatus at h
  obtain ⟨hbase, h⟩ := hpass (by decide) h
  obtain ⟨-, h⟩ := hpass (by decide) h
  obtain ⟨-, h⟩ := hpass (by decide) h
  obtain ⟨hany, -⟩ := hpass (by decide) h
  refine ⟨Nat.div_mul_cancel (Nat.dvd_of_mod_eq_zero (not_not.1 hbase)), fun k hlo hhi => ?_⟩
  refine List.find?_eq_none.2 fun x hx hk => hany (List.any_eq_true.2 ⟨x, hx, ?_⟩)
  rw [beq_iff_eq] at hk
  simp [hk, hlo, hhi]

theorem mapRegion_stages (hs : Started s q.val cMAP c) (hheader : s.regionHeader c.entry = 0)
    (hstatus : s.mapStatus (partOf s q) (regionDesc (c.entry.drop 32)) = 0) :
    let p := partOf s q
    let d := regionDesc (c.entry.drop 32)
    ∃ u v : State, RunsThenCommits (.mapRegion q) s u v q c (.mapRegion p (keyOf d.base) d.slabs d.kind d.model d.pin) ∧
      (⟨p, keyOf d.base, d.slabs, d.kind, d.pin, d.model⟩ : Region) ∈ v.mem.regions ∧
      ∀ k, keyOf d.base ≤ k → k < keyOf d.base + d.slabs →
        ∃ x, v.slab? k = some x ∧ x.part = p ∧ x.kind = d.kind ∧ x.pin = d.pin ∧ x.model = d.model ∧ x.st = .unwritten := by
  obtain ⟨hbase, hfree⟩ := mapStatus_zero hstatus
  have hexec : exec (.mapRegion q) s = .next (s.stageEffect q.val (.mapRegion (partOf s q) (keyOf (regionDesc (c.entry.drop 32)).base)
      (regionDesc (c.entry.drop 32)).slabs (regionDesc (c.entry.drop 32)).kind (regionDesc (c.entry.drop 32)).model (regionDesc (c.entry.drop 32)).pin)).settle := by
    change execMapRegion q s = _
    unfold execMapRegion
    rw [State.runHead_of_started hs]
    simp only [hheader, show s.mapStatus (s.queue q.val).part (regionDesc (c.entry.drop 32)) = 0 from hstatus, ne_eq, not_true_eq_false, if_false]
    rfl
  generalize regionDesc (c.entry.drop 32) = d at hbase hfree hexec
  obtain ⟨t, hmem, -, hpart, hfiles⟩ := effect_stageEffect hs (.mapRegion (partOf s q) (keyOf d.base) d.slabs d.kind d.model d.pin)
  refine ⟨_, _, runsThenCommits_stageEffect hs hexec (by simp), ?_, fun k hlo hhi => ?_⟩
  · rw [hfiles.regions]
    change _ ∈ (t.mapRegion (t.queue q.val).part _).mem.regions
    obtain ⟨m, hm, -⟩ := t.mapRegion_leaves (t.queue q.val).part { kind := d.kind, pin := d.pin, model := d.model, base := keyOf d.base * slabB, slabs := d.slabs }
    rw [hm, hpart, hbase]
    exact List.mem_append_right _ List.mem_cons_self
  · rw [hfiles.slab?]
    change ∃ x, (t.mapRegion (t.queue q.val).part _).slab? k = some x ∧ _
    have hnone : t.slab? k = none := by
      have hk := hfree k hlo hhi
      unfold State.slab? at hk ⊢
      rwa [hmem]
    obtain ⟨x, hx, hfresh⟩ := State.slab?_mapRegion (t.queue q.val).part
      { kind := d.kind, pin := d.pin, model := d.model, base := keyOf d.base * slabB, slabs := d.slabs } hnone (by rw [hbase]; exact hlo) (by rw [hbase]; exact hhi)
    exact ⟨x, hx, hfresh.part.trans hpart, hfresh.kind, hfresh.pin, hfresh.model, hfresh.st⟩

theorem unmapRegion_stages (hs : Started s q.val cUNMAP c) (hheader : s.regionHeader c.entry = 0)
    (hstatus : s.unmapStatus (partOf s q) (regionDesc (c.entry.drop 32)) = 0) :
    let p := partOf s q
    let d := regionDesc (c.entry.drop 32)
    ∃ u v : State, RunsThenCommits (.unmapRegion q) s u v q c (.unmapRegion p (keyOf d.base) d.slabs) ∧
      (∀ r ∈ v.mem.regions, ¬ (r.base = keyOf d.base ∧ r.slabs = d.slabs)) ∧ ∀ k, keyOf d.base ≤ k → k < keyOf d.base + d.slabs → v.slab? k = none := by
  have hexec : exec (.unmapRegion q) s =
      .next (s.stageEffect q.val (.unmapRegion (partOf s q) (keyOf (regionDesc (c.entry.drop 32)).base) (regionDesc (c.entry.drop 32)).slabs)).settle := by
    change execUnmapRegion q s = _
    unfold execUnmapRegion
    rw [State.runHead_of_started hs]
    simp only [hheader, show s.unmapStatus (s.queue q.val).part (regionDesc (c.entry.drop 32)) = 0 from hstatus, ne_eq, not_true_eq_false, if_false]
    rfl
  generalize regionDesc (c.entry.drop 32) = d at hexec
  obtain ⟨t, -, -, -, hfiles⟩ := effect_stageEffect hs (.unmapRegion (partOf s q) (keyOf d.base) d.slabs)
  obtain ⟨hslabs, hregions, -⟩ := t.unmapSlabs_leaves (keyOf d.base) d.slabs
  refine ⟨_, _, runsThenCommits_stageEffect hs hexec (by simp), ?_, fun k hlo hhi => ?_⟩
  · rw [hfiles.regions]
    exact hregions
  · rw [hfiles.slab?]
    exact hslabs k hlo hhi

theorem registerGset_stages {ks : List Nat} (hs : Started s q.val cREGISTER c) (hcheck : s.registerCheck (partOf s q) (field c.entry 32 6) = .ok ks)
    (hp : partOf s q < s.parts.length) :
    ∃ u v : State, RunsThenCommits (.registerGset q) s u v q c (.registerGset (field c.entry 32 6) ks) ∧
      (field c.entry 32 6, ks, none) ∈ (v.part (partOf s q)).gsets := by
  obtain ⟨t, -, hstreams, hpart, hfiles⟩ := effect_stageEffect hs (.registerGset (field c.entry 32 6) ks)
  have hpt : partOf s q < t.parts.length := count_of_streams hstreams ▸ hp
  refine ⟨_, _, runsThenCommits_stageEffect hs ?_ (by simp), ?_⟩
  · change execRegisterGset q s = _
    unfold execRegisterGset
    rw [State.runHead_of_started hs]
    simp only [show s.registerCheck (s.queue q.val).part (field c.entry 32 6) = .ok ks from hcheck]
    rfl
  · rw [hfiles.part_field Part.gsets fun _ => rfl]
    change _ ∈ ((t.addGset (t.queue q.val).part (field c.entry 32 6) ks).part (partOf s q)).gsets
    rw [hpart]
    exact State.mem_gsets_addGset hpt _ _

theorem releaseGset_stages {g : Gset} (hs : Started s q.val cRELEASE c) (hread : s.readGset (partOf s q) (field c.entry 32 6) true = .ok g) :
    ∃ u v : State, RunsThenCommits (.releaseGset q) s u v q c (.releaseGset (field c.entry 32 6)) ∧ ∀ g ∈ (v.part (partOf s q)).gsets, g.1 ≠ field c.entry 32 6 := by
  obtain ⟨t, -, -, hpart, hfiles⟩ := effect_stageEffect hs (.releaseGset (field c.entry 32 6))
  refine ⟨_, _, runsThenCommits_stageEffect hs ?_ (by simp), ?_⟩
  · change execReleaseGset q s = _
    unfold execReleaseGset
    rw [State.runHead_of_started hs]
    simp only [show s.readGset (s.queue q.val).part (field c.entry 32 6) true = .ok g from hread]
    rfl
  · rw [hfiles.part_field Part.gsets fun _ => rfl]
    change ∀ g ∈ ((t.dropGset (t.queue q.val).part (field c.entry 32 6)).part (partOf s q)).gsets, _
    rw [hpart]
    exact t.gsets_dropGset _ _

theorem streamConfig_stages {cfg : Bytes} (hs : Started s q.val cSTREAM c)
    (hread : s.readDesc (partOf s q) (field c.entry 32 6) 0x22 0x0204 (fun h => 96 + 8 * field h 6 2) 8 = .ok cfg) (hstatus : s.streamStatus (partOf s q) cfg = 0)
    (hp : partOf s q < s.parts.length) :
    ∃ u v : State, RunsThenCommits (.streamConfig q) s u v q c (.streamConfig cfg) ∧ (v.part (partOf s q)).stream.next = cfg := by
  obtain ⟨t, -, hstreams, hpart, hfiles⟩ := effect_stageEffect hs (.streamConfig cfg)
  have hpt : partOf s q < t.parts.length := count_of_streams hstreams ▸ hp
  refine ⟨_, _, runsThenCommits_stageEffect hs ?_ (by simp), ?_⟩
  · change execStreamConfig q s = _
    unfold execStreamConfig
    rw [State.runHead_of_started hs]
    simp only [show s.readDesc (s.queue q.val).part (field c.entry 32 6) 0x22 0x0204 (fun h => 96 + 8 * field h 6 2) 8 = .ok cfg from hread,
      show s.streamStatus (s.queue q.val).part cfg = 0 from hstatus]
    rfl
  · refine (hfiles.part_field (fun x => x.stream.next) (fun _ => rfl) _).trans ?_
    change ((t.modStream (t.queue q.val).part fun st => { st with next := cfg }).part (partOf s q)).stream.next = cfg
    rw [hpart, show (s.queue q.val).part = partOf s q from rfl, State.stream_modStream _ hpt]

end

/-- Settles O13: each command by the effect that its checks let it stage, and its commit by what that effect leaves. -/
theorem effectCommandsStageTheirEffect : Obligations.EffectCommandsStageTheirEffect := by
  intro q s c
  refine ⟨nop_stages, fun hs hp hlen => stepMark_stages hs (hlen.symm ▸ hp), mapRegion_stages, unmapRegion_stages,
    fun ks hs hcheck hp hlen => registerGset_stages hs hcheck (hlen.symm ▸ hp), fun g hs hread => releaseGset_stages hs hread,
    fun cfg hs hread hstatus hp hlen => streamConfig_stages hs hread hstatus (hlen.symm ▸ hp)⟩

end Sys2Proof.Claims
end

section
/-! SUPPORT. The state in which the effect of a commit comes into force (R263). -/

namespace Sys2Proof.Machine

/-- From `s` to `t` the pages of a commit have been carried over and its wait has ended: what its effect reads and changes is as it was. -/
structure Readied (s t : State) (q : Nat) : Prop where
  part : (t.queue q).part = (s.queue q).part
  alike : Alike s t
  dev : t.mem.dev = s.mem.dev
  coll : t.collOf q = s.collOf q

namespace Readied

section
variable {s t : State} {q : Nat} (h : Readied s t q)
include h

theorem count : t.parts.length = s.parts.length := by
  have hlen := congrArg List.length h.alike.bare
  rwa [List.length_map, List.length_map] at hlen

theorem slab?_none {k : Nat} (hk : s.slab? k = none) : t.slab? k = none := by
  have hslab := h.alike.slab? k
  rwa [hk, Option.map_none, Option.map_eq_none_iff] at hslab

theorem slab?_some {k : Nat} {x : Slab} (hk : s.slab? k = some x) : ∃ y, t.slab? k = some y ∧ y.tier = x.tier := by
  have hslab := h.alike.slab? k
  rw [hk, Option.map_some, Option.map_eq_some_iff] at hslab
  obtain ⟨y, hy, hslim⟩ := hslab
  exact ⟨y, hy, Slab.field_of_slim Slab.tier (fun _ => rfl) hslim⟩

end

/-- A command that stages nothing but its effect and may commit now: its effect comes into force, and it leaves with its record (R263). -/
theorem of_commitsNow {s : State} {q : Nat} {c : Cmd} (h : Claims.CommitsNow s q c) (hbare : c.Bare) :
    ∃ t, Readied s t q ∧ (t.effectRoom (s.queue q).part c.staged.effect).1 = true ∧
      Files ((t.applyEffect q c.staged.effect).popHead q) (s.commitHead q) ∧ ((s.commitHead q).queue q).fifo = (s.queue q).fifo.tail := by
  have hhead := State.commitHead_of_bare h hbare
  obtain ⟨hc, -, -, -, -, -, -, -, hroom, -⟩ := h
  have hcarries := Carries.carryOver s q c.staged.partly
  rw [hhead]
  generalize (State.carryOver q c.staged.partly s).2 = a at hcarries
  have hca := (hcarries.head? q).trans hc
  have hwait := (HeadBecomes.refl hca).endWait
  have hhomes := Apart.setHomes (a.endWait q) c.staged.tiers
  have halike : Alike s ((a.endWait q).setHomes c.staged.tiers) := ((Alike.of_carries hcarries).trans (.endWait a q)).trans (.setHomes _ _)
  obtain ⟨hfiles, hfifo⟩ := State.commitPoint_fifo hca hbare
  refine ⟨(a.endWait q).setHomes c.staged.tiers, ⟨?_, halike, ?_, ?_⟩, halike.effectRoom hroom, hfiles, hfifo.trans (by rw [hcarries.queue])⟩
  · rw [hhomes.queue q, ← hcarries.queue q]
    exact (RingKept.modHead a q _).queue.same Queue.part fun _ _ _ _ _ => rfl
  · exact hhomes.dev.trans hcarries.dev
  · have hfab : ((a.endWait q).setHomes c.staged.tiers).fab = a.fab := by
      unfold State.setHomes
      split <;> rfl
    unfold State.collOf
    rw [hfab, hcarries.colls]

end Readied

theorem Files.moveOf {s t : State} (h : Files s t) (k : Nat) : t.moveOf k = s.moveOf k := by
  unfold State.moveOf
  rw [h.migration?]

theorem Files.collOf {s t : State} (h : Files s t) (q : Nat) : t.collOf q = s.collOf q := by
  unfold State.collOf
  rw [h.fab]

/-- A slab whose move no state shows as switched. -/
theorem State.unswitched_of_migration {s : State} {k : Nat} (h : ∀ m, s.migration? k = some m → m.switched = false) : s.unswitched k := by
  intro m hm
  obtain ⟨n, hn, rfl⟩ := Option.map_eq_some_iff.1 hm
  exact h n hn

/-- A slab that goes to T1 has a move that says so. -/
theorem State.migration_of_goes {s : State} {k : Nat} {src : Tier} (h : s.goesToT1 k src) : ∃ m, s.migration? k = some m ∧ m.src = src ∧ m.dst = .t1 := by
  obtain ⟨m, hm, hsrc, hdst, -⟩ := h
  obtain ⟨n, hn, rfl⟩ := Option.map_eq_some_iff.1 hm
  exact ⟨n, hn, hsrc, hdst⟩

/-- A registration that has room lists the set and pins its slabs, those outside T1 on their way there (R159, R220). -/
theorem State.addGset_leaves {s : State} {p p' a : Nat} {l : List Nat} (hroom : (s.effectRoom p' (.registerGset a l)).1 = true) :
    ∀ k ∈ l, ∀ x, s.slab? k = some x → (∃ y, (s.addGset p a l).slab? k = some y ∧ y.gset = true) ∧
      ∀ src, x.tier = some src → src ≠ .t1 → s.unswitched k → (s.addGset p a l).goesToT1 k src := by
  obtain ⟨r, hr⟩ := Option.isSome_iff_exists.1 (State.pinAll_of_room hroom)
  obtain ⟨-, -, hpin⟩ := State.pinAll_leaves l hr
  have heq : s.addGset p a l = r.modPart p fun pt => { pt with gsets := pt.gsets ++ [(a, l, none)] } := by
    unfold State.addGset
    rw [hr]
    rfl
  rw [heq]
  exact hpin

/-- What the end of a collective with its commit leaves (R307). -/
theorem State.applyEffect_collective {s : State} {q : Nat} {d : Coll} (id : Nat) (hd : s.collOf q = some d) :
    ((s.queue q).part, id, d.members, d.axis) ∈ (s.applyEffect q (.collective id)).fab.committed ∧ (s.applyEffect q (.collective id)).collOf q = none := by
  unfold State.applyEffect
  simp only [hd]
  refine ⟨?_, State.collOf_dropColl _ q⟩
  rw [State.committed_dropColl]
  exact List.mem_append_right _ List.mem_cons_self

end Sys2Proof.Machine
end

section
open Sys2Proof Sys2Proof.Machine

namespace Sys2Proof.Claims

section
variable {s t u : State} {q : Fin 64}

/-- A mapped region (R203). -/
theorem committed_map {r base n kind model : Nat} {pin : Bool} (h : Readied s t q.val) (hfiles : Files ((t.applyEffect q.val (.mapRegion r base n kind model pin)).popHead q.val) u)
    (hfree : ∀ k, base ≤ k → k < base + n → s.slab? k = none) : ∀ k, base ≤ k → k < base + n →
      (∃ x, u.slab? k = some x ∧ x.part = (s.queue q.val).part ∧ x.kind = kind ∧ x.pin = pin ∧ x.model = model ∧ (kind = 0 → x.st = .unwritten ∧ x.tier = none)) ∧
      ∀ a, keyOf a = k → devByte u a = 0 := by
  intro k hlo hhi
  have hbase : keyOf (base * slabB) = base := Nat.mul_div_cancel base (by decide)
  refine ⟨?_, fun a ha => ?_⟩
  · obtain ⟨x, hx, hfresh⟩ := State.slab?_mapRegion (t.queue q.val).part { kind := kind, pin := pin, model := model, base := base * slabB, slabs := n }
      (h.slab?_none (hfree k hlo hhi)) (by rw [hbase]; exact hlo) (by rw [hbase]; exact hhi)
    rw [hfiles.slab?]
    exact ⟨x, hx, hfresh.part.trans h.part, hfresh.kind, hfresh.pin, hfresh.model, fun h0 => ⟨hfresh.st, hfresh.tier h0⟩⟩
  · obtain ⟨m, hm, -⟩ := t.mapRegion_leaves (t.queue q.val).part { kind := kind, pin := pin, model := model, base := base * slabB, slabs := n }
    obtain ⟨hge, hlt⟩ := mem_slab_range ha hlo hhi
    unfold devByte
    rw [hfiles.dev]
    change Memory.get (t.mapRegion (t.queue q.val).part _).mem.dev a = 0
    rw [hm]
    exact (Memory.get_clear _ _ _ a).trans (if_pos ⟨hge, by rwa [← Nat.add_mul]⟩)

/-- An unmapped region (R203). -/
theorem committed_unmap {r base n : Nat} (hfiles : Files ((t.applyEffect q.val (.unmapRegion r base n)).popHead q.val) u) :
    ∀ k, base ≤ k → k < base + n → u.slab? k = none ∧ ∀ a, keyOf a = k → devByte u a = 0 := by
  obtain ⟨hslabs, -, hdev⟩ := t.unmapSlabs_leaves base n
  intro k hlo hhi
  refine ⟨by rw [hfiles.slab?]; exact hslabs k hlo hhi, fun a ha => ?_⟩
  unfold devByte
  rw [hfiles.dev]
  change Memory.get (t.unmapSlabs base n).mem.dev a = 0
  rw [hdev, Memory.get_clear, if_pos (mem_slab_range ha hlo hhi)]

/-- A registered gradient set (R159). -/
theorem committed_register {a : Nat} {ks : List Nat} (h : Readied s t q.val) (hp : (s.queue q.val).part < s.parts.length)
    (hroom : (t.effectRoom (s.queue q.val).part (.registerGset a ks)).1 = true) (hfiles : Files ((t.applyEffect q.val (.registerGset a ks)).popHead q.val) u) :
    (a, ks, none) ∈ (u.part (s.queue q.val).part).gsets ∧
      ∀ k ∈ ks, ∀ x, s.slab? k = some x → ∃ y, u.slab? k = some y ∧ y.gset = true ∧
        (∀ src, x.tier = some src → src ≠ .t1 → (∀ m, s.migration? k = some m → m.switched = false) → ∃ m, u.migration? k = some m ∧ m.src = src ∧ m.dst = .t1) := by
  refine ⟨?_, fun k hk x hx => ?_⟩
  · rw [hfiles.part_field Part.gsets fun _ => rfl, ← h.part]
    exact State.mem_gsets_addGset (by rw [h.part, h.count]; exact hp) a ks
  · obtain ⟨x', hx', htier⟩ := h.slab?_some hx
    obtain ⟨⟨y, hy, hg⟩, hgoes⟩ := State.addGset_leaves (p := (t.queue q.val).part) hroom k hk x' hx'
    refine ⟨y, by rw [hfiles.slab?]; exact hy, hg, fun src hsrc hne hfree => ?_⟩
    have hun : t.unswitched k := by
      unfold State.unswitched
      rw [h.alike.moveOf]
      exact State.unswitched_of_migration hfree
    obtain ⟨m, hm, hrest⟩ := State.migration_of_goes (hgoes src (htier.trans hsrc) hne hun)
    exact ⟨m, by rw [hfiles.migration?]; exact hm, hrest⟩

end

/-- Settles O19: the effect of the commit on the state that its pages and its wait leave, each by what that effect leaves. -/
theorem commitAppliesItsEffect : Obligations.CommitAppliesItsEffect := by
  intro q s c p hp hlen _ hcommits hslabs hwrites hrecs hsends
  obtain ⟨t, hready, hroom, hfiles, hfifo⟩ := Readied.of_commitsNow hcommits ⟨hslabs, hwrites, hrecs, hsends⟩
  have hps : (s.queue q.val).part < s.parts.length := hlen.symm ▸ hp
  have hpt : (s.queue q.val).part < t.parts.length := hready.count.symm ▸ hps
  have hpart : (t.queue q.val).part = p := hready.part
  refine ⟨s.commitHead q.val, rfl, hfifo, ?_, ?_, ?_, ?_, ?_, ?_, ?_⟩
  · intro r base n kind model pin he hfree
    exact committed_map hready (he ▸ hfiles) hfree
  · intro r base n he
    exact committed_unmap (he ▸ hfiles)
  · intro a ks he
    exact committed_register hready hps (he ▸ hroom) (he ▸ hfiles)
  · intro a he
    rw [he] at hfiles
    rw [hfiles.part_field Part.gsets fun _ => rfl, ← hpart]
    exact t.gsets_dropGset _ a
  · intro cfg he
    rw [he] at hfiles
    refine (hfiles.part_field (fun x => x.stream.next) (fun _ => rfl) _).trans ?_
    change ((t.modStream (t.queue q.val).part fun st => { st with next := cfg }).part (s.queue q.val).part).stream.next = cfg
    rw [hready.part, State.stream_modStream _ hpt]
  · intro he
    rw [he] at hfiles
    refine (hfiles.part_field (fun x => x.stream.steps) (fun _ => rfl) _).trans ?_
    change ((t.stepMark (t.queue q.val).part).part (s.queue q.val).part).stream.steps = _
    rw [hready.part, (State.stepMark_leaves hpt).2, hready.alike.part_field Part.stream fun _ => rfl]
  · intro id d he hd
    rw [he] at hfiles
    obtain ⟨hmem, hnone⟩ := State.applyEffect_collective id (hready.coll.trans hd)
    rw [hready.part] at hmem
    exact ⟨by rw [hfiles.fab]; exact hmem, (hfiles.collOf q.val).trans hnone⟩

end Sys2Proof.Claims
end

section
/-! SUPPORT. Work that touches no queue and no collective, work for the head command of one queue, and what they leave of the others (R263 to R276, R312). -/

namespace Sys2Proof.Machine

/-- From `s` to `t` no queue and no collective has changed, nor whether the host takes what is sent to it. -/
structure Plain (s t : State) : Prop where
  queues : t.queues = s.queues
  colls : t.fab.colls = s.fab.colls
  outbound : t.outbound = s.outbound

namespace Plain

theorem refl (s : State) : Plain s s := ⟨rfl, rfl, rfl⟩

theorem trans {s t u : State} (h : Plain s t) (k : Plain t u) : Plain s u :=
  ⟨k.queues.trans h.queues, k.colls.trans h.colls, k.outbound.trans h.outbound⟩

theorem ite {c : Prop} [Decidable c] {s a b : State} (ha : Plain s a) (hb : Plain s b) : Plain s (if c then a else b) := by
  split
  · exact ha
  · exact hb

theorem foldl {α : Type} (f : State → α → State) (l : List α) (s : State) (hf : ∀ s x, Plain s (f s x)) : Plain s (l.foldl f s) := by
  induction l generalizing s with
  | nil => exact refl s
  | cons x r ih => exact (hf s x).trans (ih _)

/-- The step that is the last is named first, so that it gives the state before it. -/
theorem after {s t u : State} (k : Plain t u) (h : Plain s t) : Plain s u := h.trans k

theorem of_shifts {s t : State} (h : Shifts s t) : Plain s t :=
  ⟨h.queues, congrArg Fab.colls h.fab, by unfold State.outbound; rw [h.link]⟩

theorem of_credits {s t : State} (h : Credits s t) : Plain s t := of_shifts h.toShifts

theorem of_moves {s t : State} (h : Moves s t) : Plain s t := ⟨h.queues, by rw [h.fab], by unfold State.outbound; rw [h.state]⟩

theorem of_logged {s t : State} (h : Logged s t) : Plain s t := ⟨h.queues, congrArg Fab.colls h.fab, by unfold State.outbound; rw [h.state]⟩

variable (s : State)

theorem modPart (p : Nat) (f : Part → Part) : Plain s (s.modPart p f) := ⟨rfl, rfl, rfl⟩

theorem modAdm (f : Adm → Adm) : Plain s (s.modAdm f) := ⟨rfl, rfl, rfl⟩

theorem fixPoolWait (p : Nat) : Plain s (s.fixPoolWait p) := (refl s).ite (modPart s p _)

theorem meterBytes (p n : Nat) : Plain s (s.meterBytes p n) := ⟨rfl, rfl, rfl⟩

theorem linkSend (l : List LinkPkt) : Plain s (s.linkSend l) := (refl s).ite ⟨rfl, rfl, rfl⟩

theorem nextAttempt (ep part window : Nat) : Plain s (s.nextAttempt ep part window).2 := ⟨rfl, rfl, rfl⟩

/-! Placement (R213, R217). -/

theorem startMove (k : Nat) (dst : Tier) (cls rank : Nat) : Plain s (s.startMove k dst cls rank) := of_shifts (Shifts.startMove s k dst cls rank)

theorem demote (p k cls : Nat) : Plain s (s.demote p k cls) := (startMove s _ _ _ _).ite ((startMove s _ _ _ _).ite (startMove s _ _ _ _))

theorem refillTier (p : Nat) (t : Tier) (n : Nat) : Plain s (State.refillTier p t n s) := by
  induction n generalizing s with
  | zero => exact refl s
  | succ n ih =>
    unfold State.refillTier
    split
    · exact refl s
    · exact (demote s p _ 1).trans (ih _)

theorem refill (p : Nat) : Plain s (s.refill p) := (refillTier s p .t1 _).trans (refillTier _ p .t2 _)

theorem evacuateAll : Plain s s.evacuateAll := ite (foldl _ _ s fun s p => of_shifts (Shifts.evacuate s p)) (refl s)

theorem readyPart (p : Nat) : Plain s (s.readyPart p) := ((refl s).ite (modPart s p _)).ite ((modPart s p _).ite (refl s))

/-! Cores and packets (R138, R287 to R291, R393, R429). -/

theorem clearEngines (l : List Nat) : Plain s (s.clearEngines l) := (refl s).ite ⟨rfl, rfl, rfl⟩

theorem restCores (l : List Nat) : Plain s (s.restCores l) := (refl s).ite ⟨rfl, rfl, rfl⟩

theorem newTiles (l : List Nat) : Plain s (s.newTiles l) := (refl s).ite ⟨rfl, rfl, rfl⟩

theorem openIslands (l : List Nat) : Plain s (s.openIslands l) := (refl s).ite ⟨rfl, rfl, rfl⟩

theorem wakeCores (l : List Nat) : Plain s (s.wakeCores l) := (openIslands s l).trans (ite ⟨rfl, rfl, rfl⟩ (refl _))

theorem keepPieces (p : Nat) (l : List (Nat × Nat)) : Plain s (s.keepPieces p l) := (refl s).ite ⟨rfl, rfl, rfl⟩

/-- What follows from operands that decode, and nothing when they do not. -/
theorem okOr {α : Type} (x : Except Nat α) (f : α → State) (hf : ∀ a, Plain s (f a)) : Plain s (Machine.okOr x s f) := by
  cases x with
  | error e => exact refl s
  | ok a => exact hf a

theorem assignOn (p : Nat) (b : Bytes) (cores : List (Nat × List (Nat × Nat))) : Plain s (s.assignOn p b cores) := by
  refine ite (okOr s _ _ fun _ => okOr s _ _ fun _ => keepPieces s p _) (ite (okOr s _ _ fun _ => ?_) (refl s))
  split
  · exact refl s
  · exact keepPieces s p _

theorem sendPkt (ep part cls axis src : Nat) (body : PktBody) : Plain s (s.sendPkt ep part cls axis src body).1 := by
  unfold State.sendPkt
  split
  · exact of_moves ((Moves.setFlow s _).trans (Moves.pump _ _ _ _))
  · exact refl s

theorem sendChunks (ep part cls axis src kind tag id n off : Nat) (bs : Bytes) :
    Plain s (State.sendChunks ep part cls axis src kind tag id n off bs s).1 := by
  induction n generalizing s off bs with
  | zero => exact refl s
  | succ n ih =>
    unfold State.sendChunks
    split
    · exact refl s
    · exact (sendPkt s ep part cls axis src (.data kind tag id off (bs.take s.payloadMax))).trans (ih _ _ _)

theorem abortNotices (q : Nat) : Plain s (s.abortNotices q) := by
  unfold State.abortNotices
  split
  · exact refl s
  · exact foldl _ _ s fun s _ => sendPkt s _ _ _ _ _ _

end Plain

/-- What a queue owes to the host and the room for it, its pre-emptions, and how many commands it holds. -/
def Queue.dues (x : Queue) : List Bytes × Nat × Nat × Nat := (x.heldRecs, x.cqRoom, x.acct.preempt, x.fifo.length)

/-- From `s` to `t` nothing has changed of the queues but queue `j`, nor of the collectives of those, nor whether the host takes what is sent to it. -/
structure Beside (j : Nat) (s t : State) : Prop where
  others : ∀ q, q ≠ j → t.queue q = s.queue q
  colls : ∀ q, q ≠ j → t.collOf q = s.collOf q
  outbound : t.outbound = s.outbound

/-- From `s` to `t` nothing has changed of the queues but queue `j`, which has as many commands and the same dues, nor of the collectives, nor whether the host takes what is sent to it. -/
structure Serves (j : Nat) (s t : State) : Prop where
  others : ∀ q, q ≠ j → t.queue q = s.queue q
  dues : (t.queue j).dues = (s.queue j).dues
  colls : t.fab.colls = s.fab.colls
  outbound : t.outbound = s.outbound

theorem State.collOf_congr {s t : State} (h : t.fab.colls = s.fab.colls) (q : Nat) : t.collOf q = s.collOf q := congrArg (List.find? _) h

theorem State.head?_modHead (s : State) (q : Nat) (f : Cmd → Cmd) : (s.modHead q f).head? q = (s.head? q).map f := by
  have hqueue : ((s.modHead q f).queue q).fifo = updAt (s.queue q).fifo 0 f := by
    unfold State.modHead
    rw [State.queue_modQueue]
    split
    · rfl
    · next h =>
      rw [s.queue_of_le q (by omega)]
      rfl
  unfold State.head?
  rw [hqueue]
  cases (s.queue q).fifo with
  | nil => rfl
  | cons c r => rfl

namespace Serves

variable {j : Nat}

theorem refl (s : State) : Serves j s s := ⟨fun _ _ => rfl, rfl, rfl, rfl⟩

theorem trans {s t u : State} (h : Serves j s t) (k : Serves j t u) : Serves j s u :=
  ⟨fun q hq => (k.others q hq).trans (h.others q hq), k.dues.trans h.dues, k.colls.trans h.colls, k.outbound.trans h.outbound⟩

/-- The step that is the last is named first, so that it gives the state before it. -/
theorem after {s t u : State} (k : Serves j t u) (h : Serves j s t) : Serves j s u := h.trans k

theorem ite {c : Prop} [Decidable c] {s a b : State} (ha : Serves j s a) (hb : Serves j s b) : Serves j s (if c then a else b) := by
  split
  · exact ha
  · exact hb

theorem of_plain {s t : State} (h : Plain s t) : Serves j s t :=
  ⟨fun q _ => State.queue_congr h.queues q, congrArg Queue.dues (State.queue_congr h.queues j), h.colls, h.outbound⟩

theorem beside {s t : State} (h : Serves j s t) : Beside j s t := ⟨h.others, fun q _ => State.collOf_congr h.colls q, h.outbound⟩

variable (s : State)

theorem modQueue (j : Nat) (f : Queue → Queue) (hf : ∀ x, (f x).dues = x.dues) : Serves j s (s.modQueue j f) := by
  refine ⟨fun q hq => s.queue_modQueue_ne j q f hq, ?_, rfl, rfl⟩
  rw [State.queue_modQueue]
  split
  · exact hf _
  · rfl

theorem modHead (j : Nat) (f : Cmd → Cmd) : Serves j s (s.modHead j f) :=
  modQueue s j _ fun x => by
    unfold Queue.dues
    rw [updAt_length]
    rfl

theorem releaseCores (j : Nat) : Serves j s (s.releaseCores j) := by
  unfold State.releaseCores
  split
  · exact refl s
  · refine (refl s).ite (after (of_plain (.restCores _ _)) (after (modHead _ j _) (after (modQueue _ j _ fun _ => rfl) ?_)))
    exact of_plain ((Plain.clearEngines s _).trans (.modPart _ _ _))

theorem answerSlow (j : Nat) : Serves j s (s.answerSlow j) :=
  ((of_plain (.of_credits (.releaseCredit s _ _ _))).trans (modHead _ j _)).ite (refl s)

/-! Tiles on their way to peers (R146, R147, R302). -/

theorem acceptTile (j : Nat) (t : TileSend) (l : List (Nat × Bytes)) : Serves j s (s.acceptTile j t l).1 := by
  have hpieces (p c a : Nat) : ∀ (l : List (Nat × Bytes)) (x : State × List Nat), Plain x.1 (l.foldl (fun x y =>
      let z := State.sendChunks t.ep t.part c a p 0 t.window t.attempt y.2.length y.1 y.2 x.1
      (z.1, x.2 ++ z.2)) x).1 := fun l => by
    induction l with
    | nil => exact fun x => .refl x.1
    | cons y r ih => exact fun x => Plain.after (ih _) (.sendChunks x.1 _ _ _ _ _ _ _ _ _ _ _)
  exact after (modHead _ j _) (of_plain ((hpieces _ _ _ l (s, [])).trans (.meterBytes _ _ _)))

theorem pushWindow (j n : Nat) (t : TileSend) : Serves j s (State.pushWindow j n t s).1 := by
  induction n generalizing s t with
  | zero => exact refl s
  | succ n ih =>
    unfold State.pushWindow
    split
    · exact refl s
    · next l _ _ =>
      have hask : Serves j s _ := of_plain (.of_credits (Credits.askCredit s 1 (s.queue j).part (s.queue j).cls (ceilDiv (tileBytes l) 4096) j))
      split
      · next u hu =>
        rw [hu] at hask
        exact hask.trans ((acceptTile u j t l).trans (ih _ _))
      · next u hu =>
        rw [hu] at hask
        exact hask

theorem pushSends (j : Nat) (l : List TileSend) : Serves j s (State.pushSends j l s).1 := by
  induction l generalizing s with
  | nil => exact refl s
  | cons t r ih =>
    unfold State.pushSends
    split
    · exact ih s
    · refine after (ih _) (after (pushWindow _ j _ _) ?_)
      split
      · exact refl s
      · exact of_plain (.nextAttempt s _ _ _)

/-- The tiles of a head command whose peers all have an entry go to the transmit path, and the command does not end. -/
theorem pushTiles (j : Nat) (h : ∀ c, s.head? j = some c → (c.staged.sends.any fun t => !s.hasPeer t.ep) = false) : Serves j s (s.pushTiles j) := by
  unfold State.pushTiles
  split
  · exact refl s
  · next c hc =>
    rw [if_neg (by rw [h c hc]; exact Bool.false_ne_true)]
    refine (pushSends s j c.staged.sends).trans ?_
    exact after (ite (after (modHead _ j _) (modHead _ j _)) (modHead _ j _)) (modHead _ j _)

theorem settleRun (j : Nat) : Serves j s (s.settleRun j) := by
  unfold State.settleRun
  split
  · exact refl s
  · refine (after (modHead _ j _) (after (releaseCores _ j) (after (modHead _ j _) ?_))).ite (refl s)
    exact of_plain ((Plain.linkSend s _).trans (.meterBytes _ _ _))

/-- What is discarded of a run besides its collective (R264, R265 step 3). -/
theorem discardRun (j : Nat) : Serves j ((s.abortNotices j).abortColl j) (s.discardRun j) :=
  after (modHead _ j _) (after (of_plain (.of_credits (.releaseCredit _ 1 _ _))) (after (answerSlow _ j)
    (after (of_plain (.of_credits (.dropWaiting _ j))) (after (releaseCores _ j) (of_plain (.clearEngines _ _))))))

end Serves

namespace Beside

variable {j : Nat}

theorem refl (s : State) : Beside j s s := ⟨fun _ _ => rfl, fun _ _ => rfl, rfl⟩

theorem trans {s t u : State} (h : Beside j s t) (k : Beside j t u) : Beside j s u :=
  ⟨fun q hq => (k.others q hq).trans (h.others q hq), fun q hq => (k.colls q hq).trans (h.colls q hq), k.outbound.trans h.outbound⟩

theorem ite {c : Prop} [Decidable c] {s a b : State} (ha : Beside j s a) (hb : Beside j s b) : Beside j s (if c then a else b) := by
  split
  · exact ha
  · exact hb

/-- The step that is the last is named first, so that it gives the state before it. -/
theorem after {s t u : State} (k : Beside j t u) (h : Beside j s t) : Beside j s u := h.trans k

theorem of_plain {s t : State} (h : Plain s t) : Beside j s t := (Serves.of_plain h).beside

variable (s : State)

theorem modQueue (j : Nat) (f : Queue → Queue) : Beside j s (s.modQueue j f) := ⟨fun q hq => s.queue_modQueue_ne j q f hq, fun _ _ => rfl, rfl⟩

theorem modAcct (j : Nat) (f : Acct → Acct) : Beside j s (s.modAcct j f) := (of_plain (.modPart s _ _)).trans (modQueue _ j _)

theorem writeRecord (j : Nat) (r : Bytes) : Beside j s (s.writeRecord j r) := by
  have hsheds := Sheds.held s (s.fabric.lines.filter fun l => decide (64 * l.line < (s.queue j).nextAt + ((s.queue j).stamp r).length ∧ (s.queue j).nextAt < 64 * l.line + 64))
  have hfab : (s.coherentWrite (s.queue j).nextAt ((s.queue j).stamp r)).fab = s.fab := (Files.coherentWrite s _ _).fab
  have hwrite : Plain s (s.coherentWrite (s.queue j).nextAt ((s.queue j).stamp r)) :=
    ⟨hsheds.queues, congrArg Fab.colls hfab, congrArg (fun l : Link => l.st == .l0 && !l.d3hot && !l.losing) hsheds.link⟩
  exact ((of_plain hwrite).trans (modQueue _ j _)).trans (of_plain (.of_logged (s.logged_writeRecord j r)))

theorem flushRecs (j n : Nat) : Beside j s (State.flushRecs j n s) := by
  induction n generalizing s with
  | zero => exact refl s
  | succ n ih =>
    unfold State.flushRecs
    split
    · exact refl s
    · exact ite (((writeRecord s j _).trans (modQueue _ j _)).trans (ih _)) (refl s)

theorem complete (j : Nat) (c : Cmd) (status : Nat) : Beside j s (s.complete j c status) :=
  (modAcct s j _).trans ((modQueue _ j _).trans (flushRecs _ j _))

/-! The ends of commands (R263 to R267). -/

theorem endFinal (j status : Nat) : Beside j s (s.endFinal j status) := by
  unfold State.endFinal
  split
  · exact refl s
  · exact ite ((modQueue s j _).trans (complete _ j _ status)) ((modQueue s j _).trans (modQueue _ j _))

theorem dropColl (j : Nat) : Beside j s (s.dropColl j) := by
  unfold State.dropColl
  split
  · exact refl s
  · refine (of_plain (.of_credits (.releaseCredit s _ _ _))).trans ⟨fun _ _ => rfl, fun q hq => ?_, rfl⟩
    refine List.find?_filter.trans (congrArg (List.find? · _) (funext fun c => ?_))
    by_cases hc : c.queue = q
    · simp [hc, hq]
    · simp [hc]

theorem abortColl (j : Nat) : Beside j s (s.abortColl j) := by
  unfold State.abortColl
  split
  · exact refl s
  · exact (of_plain (Plain.foldl _ _ s fun s _ => .sendPkt s _ _ _ _ _ _)).trans (dropColl _ j)

theorem discardRun (j : Nat) : Beside j s (s.discardRun j) := ((of_plain (.abortNotices s j)).trans (abortColl _ j)).trans (Serves.discardRun s j).beside

theorem endCmd (j status : Nat) : Beside j s (s.endCmd j status) := by
  unfold State.endCmd
  dsimp only
  split
  · exact discardRun s j
  · exact ((discardRun s j).trans (ite (modQueue _ j _) (endFinal _ j status))).trans (of_plain (.fixPoolWait _ _))

theorem preempt (j : Nat) : Beside j s (s.preempt j) := by
  unfold State.preempt
  exact after (modAcct _ j _) (after (modQueue _ j _) (after (discardRun _ j) (of_plain (.linkSend s _))))

theorem pushTiles (j : Nat) : Beside j s (s.pushTiles j) := by
  by_cases h : ∀ c, s.head? j = some c → (c.staged.sends.any fun t => !s.hasPeer t.ep) = false
  · exact (Serves.pushTiles s j h).beside
  · push Not at h
    obtain ⟨c, hc, hpeer⟩ := h
    unfold State.pushTiles
    simp only [hc, if_pos (Bool.eq_true_of_not_eq_false hpeer)]
    exact endCmd s j _

end Beside

end Sys2Proof.Machine
end

section
/-! SUPPORT. A collective leaves a queue while its host takes nothing only with a record that waits for the host, or by a pre-emption: what the settling of commands keeps of that (R261 to R276, R312). -/

namespace Sys2Proof.Machine

/-- The command has run, needs no staging slab more and has no tile left: its run is about to be settled (R263 step 1). -/
def Cmd.atEnd (c : Cmd) : Bool := c.phase == .started && c.ran && c.staged.need.isEmpty && !(c.staged.sends.any fun t => !t.todo.isEmpty)

/-- A record waits for the host, or the ring has no room for one. -/
def Queue.Full (x : Queue) : Prop := x.heldRecs ≠ [] ∨ x.cqRoom = 0

/-- A command of the queue was pre-empted, or it is empty, or it is full and its head command is not about to be settled. -/
def Queue.Spent (x : Queue) : Prop := x.acct.preempt ≠ 0 ∨ x.fifo = [] ∨ (x.Full ∧ ∀ c, x.fifo.head? = some c → c.atEnd = false)

/-- A host takes what is sent to it, or a collective of queue `q` runs, or the queue is spent. -/
def State.Engaged (s : State) (q : Nat) : Prop := s.outbound = true ∨ (s.collOf q).isSome = true ∨ (s.queue q).Spent

theorem Queue.dues_eq_iff {x y : Queue} :
    y.dues = x.dues ↔ y.heldRecs = x.heldRecs ∧ y.cqRoom = x.cqRoom ∧ y.acct.preempt = x.acct.preempt ∧ y.fifo.length = x.fifo.length := by
  simp [Queue.dues]

theorem Queue.full_of_dues {x y : Queue} (h : y.dues = x.dues) (hx : x.Full) : y.Full := by
  obtain ⟨hheld, hroom, -, -⟩ := dues_eq_iff.1 h
  unfold Queue.Full
  rw [hheld, hroom]
  exact hx

/-- A queue with the same dues is spent if its head command is not about to be settled where the other's was not. -/
theorem Queue.spent_of_dues {x y : Queue} (h : y.dues = x.dues) (hx : x.Spent)
    (hhead : (∀ c, x.fifo.head? = some c → c.atEnd = false) → ∀ c, y.fifo.head? = some c → c.atEnd = false) : y.Spent := by
  obtain ⟨-, -, hpreempt, hlen⟩ := dues_eq_iff.1 h
  obtain hne | hnil | ⟨hfull, hrun⟩ := hx
  · exact .inl (hpreempt ▸ hne)
  · refine .inr (.inl (List.length_eq_zero_iff.1 ?_))
    rw [hlen, hnil]
    rfl
  · exact .inr (.inr ⟨full_of_dues h hfull, hhead hrun⟩)

/-- If queue `q` is engaged in `s`, it is in `t`. -/
structure StaysEngaged (q : Nat) (s t : State) : Prop where
  stays : s.Engaged q → t.Engaged q

namespace StaysEngaged

variable {q : Nat}

theorem refl (s : State) : StaysEngaged q s s := ⟨id⟩

theorem trans {s t u : State} (h : StaysEngaged q s t) (k : StaysEngaged q t u) : StaysEngaged q s u := ⟨k.stays ∘ h.stays⟩

/-- The step that is the last is named first, so that it gives the state before it. -/
theorem after {s t u : State} (k : StaysEngaged q t u) (h : StaysEngaged q s t) : StaysEngaged q s u := h.trans k

theorem ite {c : Prop} [Decidable c] {s a b : State} (ha : StaysEngaged q s a) (hb : StaysEngaged q s b) : StaysEngaged q s (if c then a else b) := by
  split
  · exact ha
  · exact hb

theorem foldl {α : Type} (f : State → α → State) (l : List α) (s : State) (hf : ∀ s x, StaysEngaged q s (f s x)) : StaysEngaged q s (l.foldl f s) := by
  induction l generalizing s with
  | nil => exact refl s
  | cons x r ih => exact (hf s x).trans (ih _)

theorem of_plain {s t : State} (h : Plain s t) : StaysEngaged q s t := ⟨fun hs => by
  unfold State.Engaged
  rw [h.outbound, State.collOf_congr h.colls, State.queue_congr h.queues]
  exact hs⟩

theorem of_beside {j : Nat} {s t : State} (h : Beside j s t) (hj : q ≠ j) : StaysEngaged q s t := ⟨fun hs => by
  unfold State.Engaged
  rw [h.outbound, h.colls q hj, h.others q hj]
  exact hs⟩

/-- Work for queue `q` itself, with what its head command is then. -/
theorem of_serves {s t : State} (h : Serves q s t)
    (hhead : (∀ c, s.head? q = some c → c.atEnd = false) → ∀ c, t.head? q = some c → c.atEnd = false) : StaysEngaged q s t := ⟨by
  rintro (hout | hcoll | hspent)
  · exact .inl (h.outbound.trans hout)
  · exact .inr (.inl (by rwa [State.collOf_congr h.colls]))
  · exact .inr (.inr (Queue.spent_of_dues h.dues hspent hhead))⟩

/-- An update of the head command of queue `j` that does not bring it to the end of its run. -/
theorem modHead (s : State) (j : Nat) (f : Cmd → Cmd) (hf : ∀ c, c.atEnd = false → (f c).atEnd = false) : StaysEngaged q s (s.modHead j f) := by
  by_cases hj : q = j
  · subst hj
    refine of_serves (.modHead s q f) fun hrun c hc => ?_
    rw [State.head?_modHead, Option.map_eq_some_iff] at hc
    obtain ⟨d, hd, rfl⟩ := hc
    exact hf d (hrun d hd)
  · exact of_beside (Serves.modHead s j f).beside hj

/-- An update of queue `j` that leaves its commands, its ring and its pre-emptions. -/
theorem modQueue (s : State) (j : Nat) (f : Queue → Queue) (hf : ∀ x, (f x).dues = x.dues) (hfifo : ∀ x, (f x).fifo = x.fifo) :
    StaysEngaged q s (s.modQueue j f) := by
  by_cases hj : q = j
  · subst hj
    refine of_serves (.modQueue s q f hf) fun hrun c hc => hrun c (hc ▸ ?_)
    unfold State.head?
    rw [State.queue_modQueue]
    split
    · rw [hfifo]
    · rfl
  · exact of_beside (.modQueue s j f) hj

end StaysEngaged

/-! Ends of commands while the host takes nothing (R261 to R265). -/

/-- A record waits while the host takes none (R262). -/
theorem State.flushRecs_of_not_outbound {s : State} {q : Nat} (n : Nat) (h : s.outbound = false) : State.flushRecs q n s = s := by
  cases n with
  | zero => rfl
  | succ n =>
    unfold State.flushRecs
    split
    · rfl
    · rw [h]
      rfl

theorem State.putRecord_of_not_outbound {s : State} (q : Nat) (r : Bytes) (h : s.outbound = false) :
    s.putRecord q r = s.modQueue q fun x => { x with heldRecs := x.heldRecs ++ [r] } := State.flushRecs_of_not_outbound _ h

/-- The queue after the end of a command whose record waits for the host. -/
theorem State.queue_complete_of_not_outbound {s : State} {q : Nat} (c : Cmd) (status : Nat) (hlt : q < s.queues.length) (hout : s.outbound = false) :
    (s.complete q c status).queue q =
      { s.queue q with acct := (s.queue q).acct.addWait (s.waitOf c), heldRecs := (s.queue q).heldRecs ++ [s.recordOf c status] } := by
  have hput := State.putRecord_of_not_outbound (s := s.modAcct q fun a => a.addWait (s.waitOf c)) q (s.recordOf c status) hout
  unfold State.complete
  rw [hput, State.queue_modQueue_self _ _ _ (by rw [State.modAcct, State.queues_length_modQueue]; exact hlt),
    State.queue_modAcct_self _ _ _ hlt]

/-- Where the host takes nothing, the queue of a command that ends is full. -/
theorem State.endFinal_full {s : State} {q : Nat} {c : Cmd} (status : Nat) (hc : s.head? q = some c) (hout : s.outbound = false) :
    ((s.endFinal q status).queue q).Full := by
  have hlt := State.lt_of_head? hc
  unfold State.endFinal
  simp only [hc]
  split
  · have hpop : q < (s.popHead q).queues.length := (s.queues_length_modQueue q _).symm ▸ hlt
    rw [State.queue_complete_of_not_outbound c status hpop hout]
    exact .inl (by simp)
  · next hroom =>
    rw [State.queue_modQueue_self _ _ _ (by rw [State.modHead, State.queues_length_modQueue]; exact hlt)]
    have hdues : ((s.modHead q fun c => { c with phase := .ringWait, result := status, waitFrom := some (c.waitFrom.getD s.nowUs) }).queue q).dues =
      (s.queue q).dues := (Serves.modHead s q _).dues
    refine Queue.full_of_dues (x := s.queue q) hdues ?_
    by_cases hheld : (s.queue q).heldRecs = []
    · refine .inr ?_
      simpa [Queue.ringRoom, hheld] using hroom
    · exact .inl hheld

theorem State.dues_discardRun (s : State) (q : Nat) : ((s.discardRun q).queue q).dues = (s.queue q).dues := by
  have hqueues : ((s.abortNotices q).abortColl q).queues = s.queues := by
    refine Eq.trans ?_ (Plain.abortNotices s q).queues
    generalize s.abortNotices q = t
    unfold State.abortColl
    split
    · rfl
    · exact (Calm.dropColl _ q).queues.trans (Plain.foldl _ _ t fun s _ => .sendPkt s _ _ _ _ _ _).queues
  exact (Serves.discardRun s q).dues.trans (congrArg Queue.dues (State.queue_congr hqueues q))

/-- So is that of a command that ends and is not run again. -/
theorem State.endCmd_full {s : State} {q : Nat} {c : Cmd} {status : Nat} (hstatus : bit status 7 = false) (hc : s.head? q = some c)
    (hout : s.outbound = false) : ((s.endCmd q status).queue q).Full := by
  obtain ⟨-, -, -, hlen⟩ := Queue.dues_eq_iff.1 (s.dues_discardRun q)
  have hquiet : (s.discardRun q).outbound = false := (Beside.discardRun s q).outbound.trans hout
  unfold State.endCmd
  generalize s.discardRun q = t at hlen hquiet ⊢
  dsimp only
  split
  · next hnone =>
    unfold State.head? at hnone
    rw [List.head?_eq_none_iff.1 hnone, State.fifo_of_head? hc] at hlen
    cases hlen
  · next d hd =>
    rw [hstatus, State.queue_congr (Plain.fixPoolWait _ _).queues]
    exact State.endFinal_full status hd hquiet

/-- A settled run is not at its end. -/
theorem State.settleRun_head (s : State) (q : Nat) (c : Cmd) (hc : (s.settleRun q).head? q = some c) : c.atEnd = false := by
  unfold State.settleRun at hc
  split at hc
  · next hnone =>
    rw [hnone] at hc
    cases hc
  · next d hd =>
    split at hc
    · dsimp only at hc
      rw [State.head?_modHead, Option.map_eq_some_iff] at hc
      obtain ⟨e, -, rfl⟩ := hc
      rfl
    · next hnot =>
      obtain rfl := Option.some.inj (hd.symm.trans hc)
      have hleft : s.tilesLeft q = d.staged.sends.any fun t => !t.todo.isEmpty := by
        unfold State.tilesLeft
        simp only [hd]
      rw [hleft] at hnot
      exact Bool.eq_false_of_not_eq_true hnot

/-- A full queue is spent once its head command's run is settled. -/
theorem State.settleRun_spent {s : State} {q : Nat} (h : (s.queue q).Full) : ((s.settleRun q).queue q).Spent :=
  .inr (.inr ⟨Queue.full_of_dues (Serves.settleRun s q).dues h, s.settleRun_head q⟩)

namespace StaysEngaged

variable {q : Nat} (s : State)

/-- The head of a queue that holds no record ends: a full queue has no room for its record. -/
theorem endFinal (j status : Nat) (hheld : (s.queue j).heldRecs = []) : StaysEngaged q s (s.endFinal j status) := by
  by_cases hj : q = j
  · subst hj
    unfold State.endFinal
    split
    · exact refl s
    · next c hc =>
      split
      · next hroom =>
        have hlt := State.lt_of_head? hc
        refine ⟨?_⟩
        rintro (hout | hcoll | hspent)
        · exact .inl ((Beside.complete _ q c status).outbound.trans hout)
        · exact .inr (.inl (by rwa [State.collOf_congr (congrArg Fab.colls (Files.complete _ q c status).fab)]))
        · by_cases hout : s.outbound = true
          · exact .inl ((Beside.complete _ q c status).outbound.trans hout)
          · have hend := State.queue_complete_of_not_outbound (s := s.popHead q) (q := q) c status ((s.queues_length_modQueue q _).symm ▸ hlt)
              (Bool.eq_false_of_not_eq_true hout)
            have hpop := s.queue_modQueue_self q (fun x => { x with fifo := x.fifo.tail, cqFull := false, idle := x.idle || x.fifo.tail.isEmpty }) hlt
            refine .inr (.inr (.inl ?_))
            rw [hend]
            unfold State.popHead
            rw [hpop]
            obtain hpreempt | hnil | ⟨hfull, -⟩ := hspent
            · exact hpreempt
            · rw [State.head?, hnil] at hc
              cases hc
            · simp [Queue.ringRoom, hheld, hfull.resolve_left (not_not_intro hheld)] at hroom
      · exact (modHead s q _ fun _ _ => rfl).trans (modQueue _ q _ (fun _ => rfl) fun _ => rfl)
  · exact of_beside (Beside.endFinal s j status) hj

/-- A pre-emption is counted. -/
theorem preempt (j : Nat) : StaysEngaged q s (s.preempt j) := by
  by_cases hj : q = j
  · subst hj
    refine ⟨fun _ => .inr (.inr ?_)⟩
    unfold State.preempt
    dsimp only
    generalize State.modHead _ q _ = t
    by_cases hlt : q < t.queues.length
    · refine .inl ?_
      rw [State.queue_modAcct_self t q _ hlt]
      simp [sat32, satAdd]
    · refine .inr (.inl ?_)
      rw [State.queue_of_le _ _ (by rw [State.modAcct, State.queues_length_modQueue]; exact Nat.le_of_not_lt hlt)]
  · exact of_beside (Beside.preempt s j) hj

/-- Tiles of the head of queue `j` go on, and its run is settled: where it ends instead, for want of a peer entry, its queue is spent. -/
theorem pushed (j : Nat) : StaysEngaged q s ((s.pushTiles j).settleRun j) := by
  by_cases hj : q = j
  · subst hj
    by_cases h : ∀ c, s.head? q = some c → (c.staged.sends.any fun t => !s.hasPeer t.ep) = false
    · exact of_serves ((Serves.pushTiles s q h).trans (.settleRun _ q)) fun _ => State.settleRun_head _ q
    · push Not at h
      obtain ⟨c, hc, hpeer⟩ := h
      have hend : s.pushTiles q = s.endCmd q 0x0A03 := by
        unfold State.pushTiles
        simp only [hc, if_pos (Bool.eq_true_of_not_eq_false hpeer)]
      rw [hend]
      refine ⟨fun _ => ?_⟩
      by_cases hout : s.outbound = true
      · exact .inl (((Beside.endCmd s q 0x0A03).trans (Serves.settleRun _ q).beside).outbound.trans hout)
      · exact .inr (.inr (State.settleRun_spent (State.endCmd_full rfl hc (Bool.eq_false_of_not_eq_true hout))))
  · exact of_beside ((Beside.pushTiles s j).trans (Serves.settleRun _ j).beside) hj

/-! The scheduler (R217, R268 to R272). -/

theorem startHead (j : Nat) (on : List (Nat × List (Nat × Nat))) : StaysEngaged q s (s.startHead j on) :=
  (of_plain ((Plain.clearEngines s _).trans ((Plain.newTiles _ _).trans (.wakeCores _ _)))).trans (modHead _ j _ fun c _ => by simp [Cmd.atEnd])

theorem reclaim (j p n : Nat) : StaysEngaged q s (State.reclaim j p n s) := by
  induction n generalizing s with
  | zero => exact refl s
  | succ n ih =>
    unfold State.reclaim
    refine (refl s).ite ?_
    split
    · exact refl s
    · exact (preempt s _).trans (ih _)

theorem broken (v : Nat) (j : Option Nat) : StaysEngaged q s (s.broken v j) := by
  refine trans ?_ (of_plain (.of_logged (Logged.event _ 3 0x0410 (some v) noDetail)))
  cases j with
  | none => exact of_plain (.modPart s v _)
  | some j => exact (of_plain (.modPart s v _)).trans (modQueue _ j _ (fun _ => rfl) fun _ => rfl)

theorem freeCore (l : Nat) : StaysEngaged q s (s.freeCore l) := by
  unfold State.freeCore
  split
  · exact preempt s _
  · exact refl s

theorem replace (p l : Nat) (c : Claim) : StaysEngaged q s (s.replace p l c).2 := by
  unfold State.replace
  dsimp only
  split
  · exact refl s
  split
  · exact refl s
  split
  · exact freeCore s _
  split
  · exact freeCore s _
  split
  · exact refl s
  split
  · exact refl s
  split
  · exact refl s
  split
  · exact refl s
  · exact preempt s _

theorem claim (p : Nat) (l : List Nat) (c : Claim) : StaysEngaged q s (State.claim p l c s).2 := by
  induction l generalizing s c with
  | nil => exact refl s
  | cons x r ih =>
    unfold State.claim
    split
    · exact (freeCore s x).trans (ih _ _)
    · exact (replace s p x c).trans (ih _ _)

theorem startOn (j : Nat) (cores : List Nat) : StaysEngaged q s (s.startOn j cores) := by
  unfold State.startOn
  split
  · exact refl s
  · exact (of_plain (.assignOn s _ _ _)).trans (startHead _ j _)

theorem startC0 {t : State} (j : Nat) (h : s.startC0 j = some t) : StaysEngaged q s t := by
  unfold State.startC0 at h
  split at h
  · cases h
  · dsimp only at h
    split at h
    · cases h
      exact startHead s j []
    · split at h
      · cases h
      · split at h
        · cases h
        · obtain rfl := Option.some.inj h
          refine after (startHead _ j _) (after (of_plain ((Plain.linkSend _ _).trans (.assignOn _ _ _ _))) ?_)
          exact after (foldl _ _ _ fun s v => broken s v.1 v.2) (after (foldl _ _ _ fun s x => freeCore s x.1) (claim s _ _ _))

/-- A head command that does not fit is of a ready queue, which holds no record (R145, R268). -/
theorem heldRecs_of_unfit {j : Nat} (h : s.unfit j = true) : (s.queue j).heldRecs = [] := by
  unfold State.unfit at h
  split at h
  · cases h
  · have hready : s.ready j = true := (Bool.and_eq_true_iff.1 h).1
    unfold State.ready at hready
    dsimp only at hready
    split at hready
    · cases hready
    · simp only [Bool.and_eq_true, List.isEmpty_iff] at hready
      tauto

/-- One action of the scheduler. -/
theorem scheduleStep {t : State} (h : s.scheduleStep = some t) : StaysEngaged q s t := by
  unfold State.scheduleStep at h
  split at h
  · next x j hj =>
    cases h
    have hx : s.queue j = x := by
      unfold State.queue
      rw [List.getD_eq_getElem?_getD, List.mem_zipIdx_iff_getElem?.1 (List.mem_of_find?_eq_some hj)]
      rfl
    have hheld : x.heldRecs.isEmpty = true := by
      have hfound := List.find?_some hj
      exact (Bool.and_eq_true_iff.1 hfound).1
    exact endFinal s _ _ (hx ▸ List.isEmpty_iff.1 hheld)
  · split at h
    · next j hj =>
      cases h
      exact endFinal s _ _ (heldRecs_of_unfit s (List.find?_some hj))
    · split at h
      · next u hu =>
        cases h
        obtain ⟨p, -, hp⟩ := List.exists_of_findSome?_eq_some hu
        obtain ⟨q, -, hq⟩ := List.exists_of_findSome?_eq_some hp
        exact startC0 s q hq
      · dsimp only at h
        split at h
        · next u hu =>
          cases h
          obtain ⟨p, -, hp⟩ := List.exists_of_findSome?_eq_some hu
          obtain ⟨q, -, hq⟩ := Option.bind_eq_some_iff.1 hp
          obtain ⟨cs, -, rfl⟩ := Option.map_eq_some_iff.1 hq
          exact startOn s q cs
        · obtain ⟨p, -, hp⟩ := List.exists_of_findSome?_eq_some h
          obtain ⟨q, -, hq⟩ := Option.bind_eq_some_iff.1 hp
          obtain ⟨cs, -, rfl⟩ := Option.map_eq_some_iff.1 hq
          exact (reclaim s q p 64).trans (startOn _ q cs)

theorem readyQueue (j : Nat) : StaysEngaged q s (s.readyQueue j) := by
  unfold State.readyQueue
  refine ite (ite (refl s) ?_) (ite ?_ (refl s))
  · exact modQueue s j _ (fun _ => rfl) fun _ => rfl
  · exact modQueue s j _ (fun _ => rfl) fun _ => rfl

theorem serveSlow (j : Nat) : StaysEngaged q s (s.serveSlow j) := by
  refine after (ite (modHead _ j _ fun _ h => h) (after (modHead _ j _ fun _ h => h) ?_)) (of_plain (.modAdm s _))
  exact of_plain ((Plain.refill _ _).trans (.of_credits (.releaseCredit _ 3 _ 1)))

theorem askSlow : StaysEngaged q s s.askSlow := by
  refine foldl _ _ _ fun s j => (refl s).ite ?_
  exact (of_plain (.of_credits (.askCredit s 3 (s.queue j).part (s.queue j).cls 1 j))).trans ((serveSlow _ j).ite (modHead _ j _ fun _ h => h))

theorem noteReady : StaysEngaged q s s.noteReady := by
  unfold State.noteReady
  exact after (askSlow _) (after (foldl State.readyPart _ _ fun s p => of_plain (.readyPart s p)) (foldl State.readyQueue _ s readyQueue))

theorem schedule (n : Nat) : StaysEngaged q s (State.schedule n s) := by
  induction n generalizing s with
  | zero => exact refl s
  | succ n ih =>
    unfold State.schedule
    split
    · next t ht => exact (scheduleStep s ht).trans (ih t)
    · exact refl s

theorem wakeTiles : StaysEngaged q s s.wakeTiles := by
  refine foldl _ _ _ fun s j => ?_
  split
  · exact (pushed s j).ite (refl s)
  · exact refl s

theorem settle : StaysEngaged q s s.settle :=
  (wakeTiles s).trans ((of_plain (.evacuateAll _)).trans ((noteReady _).trans (schedule _ 256)))

end StaysEngaged

end Sys2Proof.Machine
end

section
open Sys2Proof Sys2Proof.Machine

namespace Sys2Proof.Claims

/-- A reduction of one element to the root, endpoint 9, in a group of this module and endpoints 9 and 10. -/
def reduceData : List (Nat × Bytes) :=
  [(0x1000, Tests.opd 0x7000 0 1 1 128 0), (0x1100, Tests.opd 0xB000 0 1 1 128 0),
    (0x6000, [1, 0x56] ++ leBytes 2 28 ++ leBytes 2 3 ++ leBytes 2 0 ++ leBytes 8 0 ++ leBytes 4 0 ++ leBytes 4 9 ++ leBytes 4 10),
    (0x6040, [1, 0x57] ++ leBytes 2 48 ++ [3, 0] ++ leBytes 2 1 ++ leBytes 4 77 ++ leBytes 6 0x6000 ++ leBytes 6 0x1000 ++ leBytes 6 0x1100 ++ leBytes 18 0)]

/-- The command that runs it. -/
def reduceCmd : Cmd := Tests.startedCmd (Tests.entry cCOLLECTIVE 1 (leBytes 6 0x6040))

/-- A pull of the collective has come early from endpoint 10, which has no peer entry, and behind its command waits one that has run; the host link is being lost. -/
def strandedPull : State :=
  Tests.withCmds (((Tests.registered reduceData).modFab fun b => { b with earlyPull := [(collKey 0 77, 10, 0, 1, 0, 4)] }).setLink
    { (Tests.registered reduceData).link with losing := true }) [reduceCmd, { phase := .started, ran := true }]

/-- The operation of a collective that passes its checks. -/
def builtOp : Except Nat (Coll × List (Nat × Nat)) → Option Nat
  | .ok x => some x.1.op
  | .error _ => none

/-- The outcome leaves queue 0 without a collective, with a command at the end of its run and none pre-empted, while the host takes nothing. -/
def leavesNone : Result → Bool
  | .next t => !t.outbound && (t.collOf 0).isNone && (t.queue 0).acct.preempt == 0 && ((t.queue 0).fifo.head?.map Cmd.atEnd).getD false
  | _ => false

theorem not_engaged_of_leavesNone {t : State} (h : leavesNone (.next t) = true) : ¬ t.Engaged 0 := by
  simp only [leavesNone, Bool.and_eq_true, Bool.not_eq_true', beq_iff_eq, Option.isNone_iff_eq_none] at h
  obtain ⟨⟨⟨hout, hcoll⟩, hpreempt⟩, hend⟩ := h
  rintro (hon | hsome | hne | hnil | ⟨-, hrun⟩)
  · rw [hout] at hon
    cases hon
  · rw [hcoll] at hsome
    cases hsome
  · exact hne hpreempt
  · rw [hnil] at hend
    cases hend
  · cases hhead : (t.queue 0).fifo.head? with
    | none =>
      rw [hhead] at hend
      cases hend
    | some c =>
      rw [hhead] at hend
      exact Bool.false_ne_true ((hrun c hhead).symm.trans hend)

theorem strandedPull_builds : builtOp (strandedPull.buildColl 0 0 reduceCmd.entry false) = some 3 := by decide +kernel

theorem strandedPull_started : Started strandedPull 0 cCOLLECTIVE reduceCmd := ⟨rfl, by decide +kernel, rfl, rfl, rfl, rfl, rfl, rfl⟩

/-- The answer to the early pull ends the command with 0x0A03, its record waits for the host, and the command behind it stands at the end of its run. -/
theorem strandedPull_leaves_none : leavesNone (exec (.collective 0) strandedPull) = true := by decide +kernel

/-- Refutes O17: an early pull of a reduction (OP 3) from a member whose endpoint has lost its peer entry ends the command with 0x0A03, as it would in OP 4,
so that no collective runs; and settling can only have ended one that ran by a pre-emption or with the run behind it settled as well. -/
theorem not_collectivesStartAnAttempt : ¬ Obligations.CollectivesStartAnAttempt := by
  unfold Obligations.CollectivesStartAnAttempt
  intro h
  have hop := strandedPull_builds
  cases hbuild : strandedPull.buildColl 0 0 reduceCmd.entry false with
  | error st =>
    rw [hbuild] at hop
    cases hop
  | ok x =>
    obtain ⟨coll, spans⟩ := x
    rw [hbuild] at hop
    have hthree : coll.op = 3 := Option.some.inj hop
    obtain ⟨u, d, hexec, -, -, hcoll, -⟩ := h 0 strandedPull reduceCmd coll spans false strandedPull_started rfl hbuild (fun _ => rfl)
      fun hfour => absurd (hthree.symm.trans hfour) (by decide)
    have hnone := strandedPull_leaves_none
    rw [show exec (.collective 0) strandedPull = .next u.settle from hexec] at hnone
    exact not_engaged_of_leavesNone hnone ((StaysEngaged.settle u).stays (.inr (.inl (hcoll ▸ rfl))))

end Sys2Proof.Claims
end
